-- ==== Sys2Proof/Word.lean ====
section
/-! DEFINITION. The word types of the RAXA 5116: 32-bit registers (R9) and bytes (R15). -/

namespace Sys2Proof

/-- A register, a Drover general register, a memory word: 32 bits (R9, R339). -/
abbrev Word := BitVec 32

/-- One byte of a memory (R15). -/
abbrev Byte := BitVec 8

end Sys2Proof
end

