-- ==== Sys2Proof/Syntax.lean ====
section
/-! DEFINITION. The commands of the RAXA 5116: one constructor per row of opcode_table.json. The table gives its
rows no operands; each constructor carries what its rule needs: who asks, which element of the device, and
the data that comes from the surroundings (R1). -/

namespace Sys2Proof

/-- A requester of register accesses (R14, R61): the host, a halter peer, a Drover thread, the harness loader. -/
inductive Req where
  | host
  | peer (devid : Fin 64)
  | thread (n : Fin 256)
  | loader
  deriving DecidableEq, Repr

/-- A halter message as a device receives it (R410, Table 19-2): `fromH1` tells the port it arrives on; for
DISCOVER the payload holds the DEVIDs gathered so far (R407). `want` is the count that the LEN of a MEM_RD asks for. -/
structure HMsg where
  typ : Nat
  fromH1 : Bool
  dst : Nat
  src : Nat
  req : Nat
  tag : Nat
  status : Nat
  addr : Nat
  payload : List Byte
  want : Nat := 0
  deriving DecidableEq, Repr, Inhabited

/-- An instruction of the JTAG port (R435): the three the spec describes, and any other. -/
inductive JtagOp where
  | bypass | idcode | sample
  | other (code : Byte)
  deriving DecidableEq, Repr

/-- What gains PCS lock: a port of its own, or some of a carrier's PHYs, perhaps with its overhead (R89, R97). -/
inductive PcsLock where
  | port
  | carrier (phys : BitVec 16) (overhead : Bool)
  deriving DecidableEq, Repr

/-- A command: one row of the table. The docstring names its rule. -/
inductive Instr where
  /-- REGISTER_WRITE (R8). A write to a register that has no row of its own takes effect under its access code. -/
  | registerWrite (r : Req) (off : Nat) (val : Word)
  /-- RC_REGISTER_READ (R8). A read of an rc field returns its value and clears it; events arriving in the same cycle are kept. -/
  | rcRegisterRead (r : Req) (off : Nat)
  /-- PAIR_LO_READ (R10). A read of a _LO register captures the _HI half into the requester's holding copy. -/
  | pairLoRead (r : Req) (off : Nat)
  /-- POWER_ON (R75). The rising rails clear everything and start BOOT. -/
  | powerOn
  /-- POWER_LOSS (R429). The rails fall, and a full power-up is then needed. -/
  | powerLoss
  /-- RESET_N_ASSERT (R75). RESET_N held low past its filter starts a pin reset; TRIG, 1PPS_OUT and the SerDes go idle. -/
  | resetNAssert (ns : Nat)
  /-- RESET_N_RELEASE (R72). The rising edge of RESET_N samples the straps and starts BOOT. -/
  | resetNRelease (devid : BitVec 6) (bootsel : BitVec 2) (clksel : Bool)
  /-- FUSE_READ (R80). The fuses are read, the identity registers become valid, and a fuse CRC failure is detected. -/
  | fuseRead (lotLo : Word) (lotHi : BitVec 16) (die s0 s1 s2 s3 : Word) (key : List Word) (ok : Bool)
  /-- PLL_LOCK (R66). The PLLs lock, the device enters TRAIN and the NTU starts. -/
  | pllLock
  /-- PLL_LOCK_TIMEOUT (R74). A PLL fails to lock within 1 ms; the device retries, or holds BOOT with PLL_FAIL. -/
  | pllLockTimeout
  /-- DRAM_TRAINING_DONE (R66). All four stacks are trained and the device enters HARNESS. -/
  | dramTrainingDone (us0 us1 us2 us3 : BitVec 16)
  /-- TRAINING_ATTEMPT_FAIL (R74). A stack fails a training attempt; the device retries, or holds TRAIN with TRAIN_FAIL. -/
  | trainingAttemptFail (stack : Fin 4)
  /-- PERST_N_ASSERT (R75). A PCIe fundamental reset clears the endpoint and the HDM state and leaves traffic running. -/
  | perstNAssert
  /-- PERST_N_RELEASE (R72). PERST_N rises and the 20 ms configuration retry interval starts. -/
  | perstNRelease
  /-- PCIE_CONFIG_READY (R72). 20 ms after the later release, the endpoint answers configuration requests normally. -/
  | pcieConfigReady
  /-- HOST_SOFT_RESET (R75). A write of the key to GLB_SOFT_RESET clears the non-kept blocks and returns the device to HARNESS. -/
  | hostSoftReset (r : Req) (key : Word)
  /-- SLICE_RESET (R79). A GLB_SLICE_RESET bit starts or restarts a slice recovery at step 1. -/
  | sliceReset (slice : Fin 16)
  /-- PIPELINE_STALL (R78). A pipeline that has started no packet for 1 ms while it has work causes a slice-fatal recovery. -/
  | pipelineStall (slice : Fin 16) (egress : Bool)
  /-- RECOVERY_LOGIC_RESET_DONE (R78). The slice logic has been reset and the slice waits for the loader. -/
  | recoveryLogicResetDone (slice : Fin 16)
  /-- RECOVERY_REAPPLY_START (R79). The loader becomes free and starts re-applying a waiting slice's sections from the retained image. -/
  | recoveryReapplyStart
  /-- RECOVERY_APPLY_END (R78). The recovery apply pass ends; the slice leaves STRUCTURE or goes back to RECOVERY on APPLY_DIGEST. -/
  | recoveryApplyEnd
  /-- CLUSTER_HOLD_SET (R75). Setting a GLB_CLUSTER_HOLD bit resets the cluster's threads and voids their tasks. -/
  | clusterHoldSet (k : Fin 8)
  /-- CLUSTER_RELEASE (R76). Clearing a GLB_CLUSTER_HOLD bit releases the cluster, and its ROLE 1 threads start. -/
  | clusterRelease (k : Fin 8)
  /-- STRUCT_RELEASE (R68). A GLB_STRUCT_REL bit releases a slice that waits in the STRUCTURE hold. -/
  | structRelease (slice : Fin 16)
  /-- SERVICE_REQUEST (R69). A GLB_SERVICE_REQ bit moves a slice from STARTUP or TEST to SERVICE. -/
  | serviceRequest (slice : Fin 16)
  /-- TEST_REQUEST (R69). A GLB_TEST_REQ bit moves a slice from SERVICE to TEST. -/
  | testRequest (slice : Fin 16)
  /-- AUTO_SERVICE_ENTRY (R69). With AUTO_SERVICE set, a slice enters SERVICE once all its carved ports are enabled. -/
  | autoServiceEntry (slice : Fin 16)
  /-- LOAD_FLASH (R55). HLD_CTRL.START with SRC FLASH starts a load from flash slot A, then slot B. -/
  | loadFlash (serve : Bool) (peer : Fin 64)
  /-- LOAD_PCIE (R57). HLD_CTRL.START with SRC PCIE starts a boot load from host memory. -/
  | loadPcie (serve : Bool) (peer : Fin 64)
  /-- LOAD_HALTER (R58). HLD_CTRL.START with SRC HALTER starts a load of a peer's retained image. -/
  | loadHalter (serve : Bool) (peer : Fin 64)
  /-- LOAD_LIVE (R62). HLD_CTRL.START with LIVE = 1 and SRC PCIE starts a live image load. -/
  | loadLive (serve : Bool) (peer : Fin 64)
  /-- HEADER_FETCH_DONE (R52). The 128-byte header arrives and the header checks run. -/
  | headerFetchDone (data : List Byte) (ok : Bool)
  /-- MANIFEST_FETCH_DONE (R52). The rest of the manifest and the signature block arrive, the format and key checks run and PHASE moves to VERIFY. -/
  | manifestFetchDone (data : List Byte) (ok : Bool)
  /-- SIGNATURE_CHECK_DONE (R52). ECDSA verification ends; the table, type and mandatory checks follow and PHASE moves to DIGEST. -/
  | signatureCheckDone
  /-- BODY_STAGED (R52). A body is staged and hashed and its records are checked; after the last body the coverage checks run. -/
  | bodyStaged (data : List Byte) (ok : Bool)
  /-- FETCH_TIMEOUT (R56). A flash or PCIe fetch misses its time limit and the load ends with FETCH_ERROR. -/
  | fetchTimeout
  /-- HALTER_LOAD_RETRY (R55). With BOOTSEL 10, an unserved image request is retried every 1 ms. -/
  | halterLoadRetry
  /-- APPLY_PASS_END (R53). The boot apply pass ends: DONE is set, or APPLY_DIGEST stops it; slices leave STRUCTURE and clusters are released. -/
  | applyPassEnd
  /-- LIVE_UNIT_PRECHECK (R63). The loader tests a live unit's preconditions and refuses the unit or enters STRUCTURE. -/
  | liveUnitPrecheck
  /-- LIVE_EPOCH_WAIT_EXPIRY (R63). HLD_LIVE_WAIT passes without the staged epoch draining, and the unit is refused with EPOCH_BUSY. -/
  | liveEpochWaitExpiry
  /-- LIVE_UNIT_APPLY_END (R63). A live unit's sections are applied, the unit returns to SERVICE and its HLD_LIVE_DONE bit is set. -/
  | liveUnitApplyEnd
  /-- FRAME_RECEIVE (R22). The last byte of a frame arrives at a port; the length, FCS and MAC Control checks and the receive-buffer check run. -/
  | frameReceive (p : Fin 512) (bytes : List Byte)
  /-- PORT_DOWN (R89). A port loses lock or alignment or is disabled; its frames are cut short and its admitted packets discarded. -/
  | portDown (p : Fin 512) (fec cut : Bool)
  /-- PORT_UP (R89). An enabled port holds lock for PRT_LINK_UP_HOLD and comes up. -/
  | portUp (p : Fin 512)
  /-- CARRIER_DOWN (R97). A PHY or the overhead loses lock, and the carrier and all its clients go down. -/
  | carrierDown (c : Fin 64) (aligned : BitVec 16) (oh : Bool) (cut : Word)
  /-- CARRIER_UP (R97). The carrier holds lock for CAR_LINK_UP_HOLD, and it comes up with its clients. -/
  | carrierUp (c : Fin 64)
  /-- CAL_ENTRY_WRITE (R93). A write of CAR_CAL_ENTRY loads a calendar slot or is refused, and SLOT advances. -/
  | calEntryWrite (r : Req) (entry : BitVec 6)
  /-- CAL_ENTRY_READ (R93). A read of CAR_CAL_ENTRY returns the slot and advances SLOT. -/
  | calEntryRead (r : Req)
  /-- CAL_SWITCH_ARM (R94). CAR_CAL_CTRL.ARM latches the instant, sets CR and arms the calendar switch. -/
  | calSwitchArm (r : Req)
  /-- CAL_SWITCH_CANCEL (R94). CAR_CAL_CTRL.CANCEL disarms the switch before its boundary. -/
  | calSwitchCancel (r : Req)
  /-- CAL_SWITCH (R94). At the qualifying multiframe boundary the standby calendar becomes active and the rates change. -/
  | calSwitch (c : Fin 64)
  /-- CAL_SWITCH_ABORT (R94). A handshake switch without CA by its last boundary is abandoned. -/
  | calSwitchAbort (c : Fin 64)
  /-- CA_RECEIVED (R94). CA arrives in the received overhead and is recorded. -/
  | caReceived (c : Fin 64) (on : Bool)
  /-- MF_NEXT_READ (R95). A read of CAR_MF_NEXT_NS captures both seconds registers of the next boundary. -/
  | mfNextRead (r : Req)
  /-- RX_CALENDAR_CHANGE (R96). The received CCC selects the other calendar and the receiver changes calendars at the boundary. -/
  | rxCalendarChange (c : Fin 64) (ccc : Bool) (nums : List (BitVec 6))
  /-- HOLD_ASSERT (R99). A sampled HOLD input stops new frame starts on the carriers and ports that follow it. -/
  | holdAssert (n : Fin 32)
  /-- HOLD_RELEASE (R100). The HOLD input reads released and the RESUME_NS interval starts. -/
  | holdRelease (n : Fin 32)
  /-- HOLD_RESUME (R100). RESUME_NS passes after release and frame starts may begin again. -/
  | holdResume (c : Fin 64)
  /-- HOLD_STUCK (R101). An input stays asserted for STUCK_MS, and its stuck bit and an ALARM are raised. -/
  | holdStuck (n : Fin 32)
  /-- HOLD_CHATTER (R101). An input is asserted more than CHATTER_MAX times in a 1 ms window. -/
  | holdChatter (n : Fin 32)
  /-- HOLD_MASK_WRITE (R101). A change of CAR_HOLD_MASK releases or holds the followers of an asserted input. -/
  | holdMaskWrite (r : Req) (mask : Word)
  /-- INGRESS_PACKET_START (R20). The input arbiter starts one packet from a line or internal source into the ingress pipeline. -/
  | ingressPacketStart (slice : Fin 16)
  /-- MISS_LANE_RESOLVE (R156). A miss lane's DRAM reads complete and its record is found or inserted, then its packets continue. -/
  | missLaneResolve (slice : Fin 16) (n : Nat)
  /-- LEAF_LANE_DONE (R192). A forwarding miss lane's leaf reads complete and its packet continues. -/
  | leafLaneDone (slice : Fin 16) (n : Nat) (ok : Bool)
  /-- ROW_WRITE_END (R203). The row write of an admitted packet into its crosspoints or the packet store ends. -/
  | rowWriteEnd (slice : Fin 16)
  /-- STORE_FETCH_DONE (R241). The fetch of a packet-store head completes, the packet becomes readable and its bursts are freed. -/
  | storeFetchDone (q : Fin 65536) (ok : Bool)
  /-- EGRESS_FRAME_START (R208). The egress pipeline picks a port and takes its leaf-queue head for transmission. -/
  | egressFrameStart (slice : Fin 16)
  /-- FRAME_READ_END (R202). A packet's last byte is read and its cells return to the crosspoint. -/
  | frameReadEnd (p : Fin 512) (parity : Bool)
  /-- REPLICATE (R216). The replicator requests admission of one multicast copy per cycle. -/
  | replicate (slice : Fin 16)
  /-- RESIDUE_RETRY (R217). Every 256 cycles the residue ports of listed packets are retried. -/
  | residueRetry (slice : Fin 16)
  /-- RESIDUE_EXPIRY (R218). MC_RESIDUE_WAIT expires and the copies not yet made are dropped. -/
  | residueExpiry (slice : Fin 16)
  /-- STAGED_BANK_WRITE (R130). A write through the staged window writes the staged bank or is refused. -/
  | stagedBankWrite (r : Req) (word : BitVec 18) (val : Word)
  /-- CLS_SEAL (R130). CLS_STAGE_CTRL.SEAL moves the staged bank to SEALED. -/
  | clsSeal (r : Req)
  /-- CLS_UNSEAL (R130). CLS_STAGE_CTRL.UNSEAL moves a SEALED bank to LOADING. -/
  | clsUnseal (r : Req)
  /-- CLS_SWAP_ARM (R132). CLS_SWAP_CTRL.ARM latches the instant and arms the swap. -/
  | clsSwapArm (r : Req)
  /-- CLS_SWAP_CANCEL (R132). CLS_SWAP_CTRL.CANCEL disarms the swap before its boundary. -/
  | clsSwapCancel (r : Req)
  /-- CLS_SWAP (R133). At the boundary the staged bank becomes active with a new epoch and the old bank drains. -/
  | clsSwap (slice : Fin 16)
  /-- EPOCH_DRAINED (R136). The draining epoch's in-flight count reaches zero and its bank becomes IDLE. -/
  | epochDrained (slice : Fin 16)
  /-- CLS_RELEASE (R136). CLS_CTRL.RELEASE forces the draining bank IDLE. -/
  | clsRelease (r : Req)
  /-- CLS_COUNTER_CLEAR (R141). CLS_CTRL.CNT_CLEAR clears all classifier counters in one cycle. -/
  | clsCounterClear (r : Req)
  /-- CLS_UPDATE_GO (R138). CLS_UPD_CTRL.GO queues an update group for the active bank or refuses it. -/
  | clsUpdateGo (r : Req)
  /-- CLS_GROUP_COMMIT (R139). A queued group commits to the active bank at a sequence point. -/
  | clsGroupCommit (slice : Fin 16)
  /-- CLS_COUNTER_READ (R142). A read of a counter's low word captures its other three words. -/
  | clsCounterRead (r : Req) (n : Fin 4096)
  /-- CACHE_SCAN_VISIT (R161). Every 256 cycles the scanner ages one flow-cache bucket. -/
  | cacheScanVisit
  /-- DRAM_SCAN_VISIT (R161). The scanner visits DRAM slots at FLW_SCAN_RATE and ages them. -/
  | dramScanVisit
  /-- FLW_OP_LOOKUP (R171). The software LOOKUP operation returns the matching flow record. -/
  | flwOpLookup (r : Req)
  /-- FLW_OP_INSERT (R171). The software INSERT operation inserts a record under the insertion rules. -/
  | flwOpInsert (r : Req)
  /-- FLW_OP_UPDATE (R172). The software UPDATE operation writes the masked words of a record, with an optional VERSION check. -/
  | flwOpUpdate (r : Req)
  /-- FLW_OP_DELETE (R171). The software DELETE operation frees the matching slot and may export it. -/
  | flwOpDelete (r : Req)
  /-- FLW_OP_READ_SLOT (R171). The software READ_SLOT operation returns the record of a slot. -/
  | flwOpReadSlot (r : Req)
  /-- LEARN_WINDOW_CLOSE (R179). A learn window closes after 2,000 ns and posts one learn record. -/
  | learnWindowClose (slice : Fin 16) (n : Nat)
  /-- LEARN_HOLDOFF_END (R180). A coalescer place's hold-off ends and the place becomes free. -/
  | learnHoldoffEnd (slice : Fin 16) (n : Nat)
  /-- L2_OP_INSERT (R183). The L2 INSERT operation writes, places or evicts an entry. -/
  | l2OpInsert (r : Req)
  /-- L2_OP_DELETE (R183). The L2 DELETE operation clears an entry. -/
  | l2OpDelete (r : Req)
  /-- L2_OP_LOOKUP (R183). The L2 LOOKUP operation returns an entry's DEST. -/
  | l2OpLookup (r : Req)
  /-- L2_OP_FLUSH (R183). The L2 FLUSH operation starts deleting the matching non-static entries. -/
  | l2OpFlush (r : Req)
  /-- L2_FLUSH_DONE (R183). A FLUSH operation finishes its walk of the table. -/
  | l2FlushDone (slice : Fin 16)
  /-- L2_SCAN_VISIT (R184). The L2 scanner clears HIT bits or ages out entries. -/
  | l2ScanVisit (slice : Fin 16)
  /-- LPM_OP_ADD (R190). The LPM ADD operation adds or replaces a prefix. -/
  | lpmOpAdd (r : Req)
  /-- LPM_OP_DELETE (R190). The LPM DELETE operation removes a prefix. -/
  | lpmOpDelete (r : Req)
  /-- LPM_OP_LOOKUP (R190). The LPM LOOKUP operation returns an exact prefix. -/
  | lpmOpLookup (r : Req)
  /-- LPM_OP_MATCH (R190). The LPM MATCH operation returns the longest match for an address. -/
  | lpmOpMatch (r : Req)
  /-- LPM_COMMIT (R190). An ADD or DELETE commits to the table in one cycle. -/
  | lpmCommit
  /-- MPLS_OP_WRITE (R191). The MPLS WRITE operation writes a label record and marks the label. -/
  | mplsOpWrite (r : Req)
  /-- MPLS_OP_CLEAR (R191). The MPLS CLEAR operation unmarks a label. -/
  | mplsOpClear (r : Req)
  /-- MPLS_OP_READ (R191). The MPLS READ operation returns a label record. -/
  | mplsOpRead (r : Req)
  /-- TABLE_ENTRY_WRITE (R198). A write of a table entry's last word commits the staged entry. -/
  | tableEntryWrite (r : Req) (word : BitVec 19) (val : Word)
  /-- STAT_COUNTER_READ (R197). A read of a statistics counter's low word captures its high word. -/
  | statCounterRead (r : Req) (n : Fin 32768)
  /-- GATE_ARM (R232). TMG_GATE_CTRL.ARM makes the administrative list pending and starts the gate-term computation. -/
  | gateArm (r : Req)
  /-- GATE_CANCEL (R232). TMG_GATE_CTRL.CANCEL clears PENDING before the change time. -/
  | gateCancel (r : Req)
  /-- GATE_COMPUTE_DONE (R232). The gate terms are computed and the change time is fixed. -/
  | gateComputeDone (p : Fin 512)
  /-- GATE_LIST_CHANGE (R232). At the change time the administrative list becomes operating. -/
  | gateListChange (p : Fin 512)
  /-- GATE_ENTRY_ADVANCE (R231). A gate entry's interval ends and the next gate states take effect. -/
  | gateEntryAdvance (p : Fin 512)
  /-- POL_ASSIGN (R230). The ASSIGN operation sets a policer's profile and fills its buckets. -/
  | polAssign (r : Req)
  /-- POL_READ (R230). The READ operation returns a policer's profile and tokens. -/
  | polRead (r : Req)
  /-- POLICER_REFRESH (R230). The refresh scanner updates each policer within 8.192 ms. -/
  | policerRefresh (n : BitVec 20)
  /-- GUAR_LOWER_EFFECT (R238). After the earlier packets have drained, a lowered guaranteed rate reaches the scheduler. -/
  | guarLowerEffect (q : Fin 65536)
  /-- FALL_VOID_CLEAR (R240). FALL_VOID clears once the port's largest DELAY_BOUND has elapsed since the fall. -/
  | fallVoidClear (p : Fin 512)
  /-- PERIODIC_SAMPLE (R242). Each sample period writes PERIODIC records for the sampled leaves. -/
  | periodicSample
  /-- MEMBER_FRAME_RECEIVE (R258). A member frame passes the shim and alive checks and goes to the resequencer or updates the probe state. -/
  | memberFrameReceive (p : Fin 512)
  /-- SYNC_WAIT_END (R261). An UNSYNCED domain's sync wait ends and E takes the smallest held sequence. -/
  | syncWaitEnd (t : Fin 32) (dm : Fin 4096)
  /-- GAP_TIMER_EXPIRY (R263). The gap timer reaches GAP_WAIT - F; the gap is skipped and the in-order frames are released. -/
  | gapTimerExpiry (t : Fin 32) (dm : Fin 4096)
  /-- SPILL_READBACK (R262). A spilled frame is read back from PKT ahead of its release. -/
  | spillReadback (t : Fin 32) (dm : Fin 4096) (ok : Bool)
  /-- IDLE_PROBE (R255). A probe is sent on a member idle for IDLE_US. -/
  | idleProbe (k : Fin 512)
  /-- FORCED_PROBE (R255). A probe is forced at the next frame boundary after MAX_US without one. -/
  | forcedProbe (k : Fin 512)
  /-- DRAIN_PROBE (R255). A DRAINING member sends its DRAIN probe and becomes OUT. -/
  | drainProbe (k : Fin 512)
  /-- MEMBER_DRAIN (R252). TEM_MBR_CTRL.DRAIN moves an ACTIVE member to DRAINING. -/
  | memberDrain (r : Req)
  /-- MEMBER_RESTORE (R252). TEM_MBR_CTRL.RESTORE moves an OUT member with an up port to ACTIVE. -/
  | memberRestore (r : Req)
  /-- TEAM_TX_RESET (R267). TX_RESET advances the epoch, zeroes the next-to-send values and sends probes. -/
  | teamTxReset (r : Req)
  /-- TEAM_RESYNC (R267). RESYNC makes every domain UNSYNCED and discards the held frames. -/
  | teamResync (r : Req)
  /-- MEMBER_SILENT (R266). A LIVE member without an accepted frame for TEM_SILENT becomes SILENT. -/
  | memberSilent (k : Fin 512)
  /-- RC_ARM (R271). CAR_RC_CTRL.ARM computes T_plan and the rates and arms the coordinated change, or is refused. -/
  | rcArm (r : Req)
  /-- RC_CANCEL (R281). CAR_RC_CTRL.CANCEL disarms the change and ends its ramp. -/
  | rcCancel (r : Req)
  /-- RAMP_START (R275). At T_q a leaf's admission moves to the minimum of the old and new rates. -/
  | rampStart (c : Fin 64) (q : Fin 65536)
  /-- RATE_CHANGE (R277). At T_plan the calendar switches, the member operation applies and the rates update. -/
  | rateChange (c : Fin 64)
  /-- RC_TRIG_START (R278). The rate-change pulse asserts on TRIG at T_plan - ADVANCE. -/
  | rcTrigStart (c : Fin 64)
  /-- RC_TRIG_END (R278). The rate-change pulse ends after TRIG_WIDTH_NS. -/
  | rcTrigEnd (c : Fin 64)
  /-- RX_CHECK_LATE (R282). RX_WAIT passes after the change without the CCC flip, and RX_LATE is set. -/
  | rxCheckLate (c : Fin 64)
  /-- NTU_CORRECTION (R289). A write of NTU_ADJ_LO requests a step that is applied or refused against JUMP_LIMIT. -/
  | ntuCorrection (r : Req) (lo : Word)
  /-- NTU_FORCE_STEP (R290). NTU_CTRL.FORCE_STEP applies the pending correction. -/
  | ntuForceStep (r : Req)
  /-- NTU_SET (R290). NTU_CTRL.SET loads the NTU from NTU_SET. -/
  | ntuSet (r : Req)
  /-- NTU_NOW_READ (R288). A read of NTU_NOW_NS captures the seconds and fraction. -/
  | ntuNowRead (r : Req)
  /-- TRIG_ARM (R300). NTU_TRIG_CTRL.ARM arms a trigger pulse train. -/
  | trigArm (r : Req)
  /-- TRIG_CANCEL (R300). NTU_TRIG_CTRL.CANCEL stops the train after any pulse in progress. -/
  | trigCancel (r : Req)
  /-- TRIG_PULSE_START (R299). A trigger pulse asserts at its start instant. -/
  | trigPulseStart (n : Fin 16)
  /-- TRIG_PULSE_END (R299). A trigger pulse ends after its width; DONE is set when the count is reached. -/
  | trigPulseEnd (n : Fin 16)
  /-- CAPTURE_EDGE (R301). A selected edge on CAP or 1PPS_IN is timestamped into the input's FIFO. -/
  | captureEdge (input : Fin 9) (rising : Bool) (offset : Nat)
  /-- CAPTURE_READ (R302). A read of NTU_CAP_NS takes the oldest capture and captures its other fields. -/
  | captureRead (r : Req)
  /-- PPS_PULSE_START (R303). 1PPS_OUT asserts at each second boundary plus the offset. -/
  | ppsPulseStart
  /-- PPS_PULSE_END (R303). 1PPS_OUT releases after WIDTH_US. -/
  | ppsPulseEnd
  /-- ENGINE_ENABLE (R310). Setting CKU_ENG_CFG.ENABLE attaches a CRC engine to its source, or is refused. -/
  | engineEnable (r : Req) (cfg : Word)
  /-- ENGINE_DISABLE (R314). Clearing ENABLE stops the engine and abandons a partly seen block. -/
  | engineDisable (r : Req)
  /-- DRAM_REREAD_DONE (R321). The re-read of a failed burst completes as fixed or as a double failure. -/
  | dramRereadDone (burst : Nat) (ok : Bool) (inst : Nat)
  /-- DRAM_REFRESH (R319). A channel is refreshed at its interval. -/
  | dramRefresh (stack : Fin 4) (channel : Fin 16)
  /-- PATROL_SCRUB_READ (R325). The patrol scrubber reads the next burst and records any failure. -/
  | patrolScrubRead (fails : Bool)
  /-- SRAM_SCRUB_READ (R326). The SRAM scrubber reads a word of a scrubbed class. -/
  | sramScrubRead (cls inst addr : Nat) (detail : List Byte) (fails : Bool)
  /-- ERROR_BOOKING (R330). A unit books a pending failure into the scrub list and its error queue and raises the event. -/
  | errorBooking (unit : Fin 33)
  /-- ERR_QUEUE_POP (R329). ERR_Q_CTRL.POP removes a unit's head error record. -/
  | errQueuePop (r : Req)
  /-- DRAM_WINDOW_COMMIT (R333). A write of a burst's last word in the DRAM window commits the burst. -/
  | dramWindowCommit (r : Req) (burst : Fin 65536) (val : Word)
  /-- ADD (R348). rd = rs1 + rs2. -/
  | add (t : Fin 256) (rd rs1 rs2 : Fin 32)
  /-- SUB (R348). rd = rs1 - rs2. -/
  | sub (t : Fin 256) (rd rs1 rs2 : Fin 32)
  /-- AND (R348). Bitwise AND of two registers. -/
  | and (t : Fin 256) (rd rs1 rs2 : Fin 32)
  /-- OR (R348). Bitwise OR of two registers. -/
  | or (t : Fin 256) (rd rs1 rs2 : Fin 32)
  /-- XOR (R348). Bitwise XOR of two registers. -/
  | xor (t : Fin 256) (rd rs1 rs2 : Fin 32)
  /-- SLL (R348). Shift left logical by rs2[4:0]. -/
  | sll (t : Fin 256) (rd rs1 rs2 : Fin 32)
  /-- SRL (R348). Shift right logical by rs2[4:0]. -/
  | srl (t : Fin 256) (rd rs1 rs2 : Fin 32)
  /-- SRA (R348). Shift right arithmetic by rs2[4:0]. -/
  | sra (t : Fin 256) (rd rs1 rs2 : Fin 32)
  /-- SLT (R348). Set rd on a signed less-than. -/
  | slt (t : Fin 256) (rd rs1 rs2 : Fin 32)
  /-- SLTU (R348). Set rd on an unsigned less-than. -/
  | sltu (t : Fin 256) (rd rs1 rs2 : Fin 32)
  /-- MUL (R348). Low 32 bits of the product. -/
  | mul (t : Fin 256) (rd rs1 rs2 : Fin 32)
  /-- MULHU (R348). Unsigned high 32 bits of the product. -/
  | mulhu (t : Fin 256) (rd rs1 rs2 : Fin 32)
  /-- CLZ (R348). Count of leading zeros of rs1. -/
  | clz (t : Fin 256) (rd rs1 : Fin 32)
  /-- SLLI (R348). Shift left logical by an immediate count. -/
  | slli (t : Fin 256) (rd rs1 sh : Fin 32)
  /-- SRLI (R348). Shift right logical by an immediate count. -/
  | srli (t : Fin 256) (rd rs1 sh : Fin 32)
  /-- SRAI (R348). Shift right arithmetic by an immediate count. -/
  | srai (t : Fin 256) (rd rs1 sh : Fin 32)
  /-- ADDI (R348). rd = rs1 + sign-extended immediate. -/
  | addi (t : Fin 256) (rd rs1 : Fin 32) (imm : BitVec 16)
  /-- ANDI (R348). Bitwise AND with a zero-extended immediate. -/
  | andi (t : Fin 256) (rd rs1 : Fin 32) (imm : BitVec 16)
  /-- ORI (R348). Bitwise OR with a zero-extended immediate. -/
  | ori (t : Fin 256) (rd rs1 : Fin 32) (imm : BitVec 16)
  /-- XORI (R348). Bitwise XOR with a zero-extended immediate. -/
  | xori (t : Fin 256) (rd rs1 : Fin 32) (imm : BitVec 16)
  /-- SLTI (R348). Signed compare with an immediate. -/
  | slti (t : Fin 256) (rd rs1 : Fin 32) (imm : BitVec 16)
  /-- SLTIU (R348). Unsigned compare with an immediate. -/
  | sltiu (t : Fin 256) (rd rs1 : Fin 32) (imm : BitVec 16)
  /-- LUI (R348). rd = imm16 << 16. -/
  | lui (t : Fin 256) (rd : Fin 32) (imm : BitVec 16)
  /-- LB (R341). Load a sign-extended byte. -/
  | lb (t : Fin 256) (rd rs1 : Fin 32) (imm : BitVec 16)
  /-- LBU (R341). Load a zero-extended byte. -/
  | lbu (t : Fin 256) (rd rs1 : Fin 32) (imm : BitVec 16)
  /-- LH (R341). Load a sign-extended halfword. -/
  | lh (t : Fin 256) (rd rs1 : Fin 32) (imm : BitVec 16)
  /-- LHU (R341). Load a zero-extended halfword. -/
  | lhu (t : Fin 256) (rd rs1 : Fin 32) (imm : BitVec 16)
  /-- LW (R341). Load a word from cluster memory, the register window, buffer SRAM or FW. -/
  | lw (t : Fin 256) (rd rs1 : Fin 32) (imm : BitVec 16)
  /-- SB (R341). Store a byte. -/
  | sb (t : Fin 256) (rs2 rs1 : Fin 32) (imm : BitVec 16)
  /-- SH (R341). Store a halfword. -/
  | sh (t : Fin 256) (rs2 rs1 : Fin 32) (imm : BitVec 16)
  /-- SW (R341). Store a word; DRAM stores are posted. -/
  | sw (t : Fin 256) (rs2 rs1 : Fin 32) (imm : BitVec 16)
  /-- AADD (R345). Atomic fetch-and-add on cluster memory. -/
  | aadd (t : Fin 256) (rd rs1 rs2 : Fin 32)
  /-- ASWAP (R345). Atomic swap on cluster memory. -/
  | aswap (t : Fin 256) (rd rs1 rs2 : Fin 32)
  /-- FENCE (R344). Wait until the thread's earlier DRAM stores and window accesses are performed. -/
  | fence (t : Fin 256)
  /-- ISYNC (R346). Clear the core's instruction cache. -/
  | isync (t : Fin 256)
  /-- BEQ (R348). Branch if equal. -/
  | beq (t : Fin 256) (rs1 rs2 : Fin 32) (off : BitVec 16)
  /-- BNE (R348). Branch if not equal. -/
  | bne (t : Fin 256) (rs1 rs2 : Fin 32) (off : BitVec 16)
  /-- BLT (R348). Branch if signed less. -/
  | blt (t : Fin 256) (rs1 rs2 : Fin 32) (off : BitVec 16)
  /-- BGE (R348). Branch if signed greater or equal. -/
  | bge (t : Fin 256) (rs1 rs2 : Fin 32) (off : BitVec 16)
  /-- BLTU (R348). Branch if unsigned less. -/
  | bltu (t : Fin 256) (rs1 rs2 : Fin 32) (off : BitVec 16)
  /-- BGEU (R348). Branch if unsigned greater or equal. -/
  | bgeu (t : Fin 256) (rs1 rs2 : Fin 32) (off : BitVec 16)
  /-- JAL (R348). Jump and link by a word offset. -/
  | jal (t : Fin 256) (rd : Fin 32) (off : BitVec 21)
  /-- JALR (R348). Jump and link to a register plus an immediate. -/
  | jalr (t : Fin 256) (rd rs1 : Fin 32) (imm : BitVec 16)
  /-- CHWR (R357). Write one word of the staging slot. -/
  | chwr (t : Fin 256) (rs2 : Fin 32) (word : Fin 16)
  /-- CHSTG (R357). Load the staging slot from 64 bytes of cluster memory. -/
  | chstg (t : Fin 256) (rs1 : Fin 32) (imm : BitVec 16)
  /-- CHCOMMIT (R357). Commit the staging slot to a channel, or return 0 when the channel is full. -/
  | chcommit (t : Fin 256) (rd rs1 : Fin 32)
  /-- CHRECV (R358). Move a channel's head message to cluster memory, or return 0 when the channel is empty. -/
  | chrecv (t : Fin 256) (rd rs1 rs2 : Fin 32)
  /-- CHCOUNT (R348). Return the number of visible messages in a channel. -/
  | chcount (t : Fin 256) (rd rs1 : Fin 32)
  /-- GETTASK (R372). Block until Stable hands the thread a task. -/
  | gettask (t : Fin 256) (rd : Fin 32)
  /-- DONETASK (R376). Complete a held task with an empty, injection or void output. -/
  | donetask (t : Fin 256) (rs1 rs2 : Fin 32) (void : Bool)
  /-- BUFGET (R383). Request a buffer of at least rs1 bytes. -/
  | bufget (t : Fin 256) (rd rs1 : Fin 32)
  /-- BUFPUT (R385). Free a buffer under the free checks. -/
  | bufput (t : Fin 256) (rd rs1 : Fin 32)
  /-- WAIT (R350). Suspend issue in SPIN or TIMER mode. -/
  | wait (t : Fin 256) (rs1 rs2 : Fin 32)
  /-- MFSR (R349). Read a control register or monitor counter. -/
  | mfsr (t : Fin 256) (rd : Fin 32) (sr : Fin 32)
  /-- MTSR (R349). Write a control register. -/
  | mtsr (t : Fin 256) (rs1 : Fin 32) (sr : Fin 32)
  /-- RFT (R355). Return from a trap to FAULT_PC. -/
  | rft (t : Fin 256)
  /-- BRK (R364). Halt at a breakpoint, or fault with BREAK. -/
  | brk (t : Fin 256)
  /-- DRAM_LOAD_COMPLETE (R338). A thread's DRAM load completes and the thread resumes issue. -/
  | dramLoadComplete (t : Fin 256)
  /-- REGWIN_ACCESS_DONE (R342). A thread's register-window access completes. -/
  | regwinAccessDone (t : Fin 256)
  /-- ICACHE_FILL_DONE (R346). An instruction-cache fill from DRAM completes. -/
  | icacheFillDone (t : Fin 256)
  /-- STORE_FAIL_FAULT (R353). An abandoned posted DRAM store raises an imprecise STORE_FAIL fault. -/
  | storeFailFault (t : Fin 256) (n : Nat)
  /-- WAIT_END (R350). A thread's SPIN, TIMER or channel-wake condition holds and the thread resumes. -/
  | waitEnd (t : Fin 256)
  /-- CHANNEL_MESSAGE_VISIBLE (R357). A committed message becomes visible in its channel. -/
  | channelMessageVisible (ch : Fin 256)
  /-- CHANNEL_FLUSH (R358). DRV_CHAN_FLUSH discards a channel's visible messages. -/
  | channelFlush (r : Req)
  /-- THREAD_START (R340). THREAD_CTRL.START starts an OFF thread at THREAD_ENTRY. -/
  | threadStart (r : Req)
  /-- INJECTION_DESCRIPTOR (R360). A slice takes an injection descriptor and injects the packet, or drops the descriptor. -/
  | injectionDescriptor (slice : Fin 16)
  /-- CLUSTER_STALL (R362). All threads of a cluster stay stalled for the limit, and the chosen thread is woken with a STALL fault. -/
  | clusterStall (k : Fin 8)
  /-- DEBUG_HALT (R363). DBG_CTRL.HALT halts the selected thread. -/
  | debugHalt (r : Req)
  /-- DEBUG_RESUME (R363). DBG_CTRL.RESUME restarts a halted thread at DBG_PC. -/
  | debugResume (r : Req)
  /-- DEBUG_STEP (R364). DBG_CTRL.STEP issues one instruction of a halted thread and halts it again. -/
  | debugStep (r : Req)
  /-- DEBUG_CHDISCARD (R365). DBG_CTRL.CHDISCARD zeroes a halted thread's staging slot. -/
  | debugChdiscard (r : Req)
  /-- BREAKPOINT_HIT (R364). A thread reaching DBG_BP.ADDR halts with cause BREAKPOINT. -/
  | breakpointHit (t : Fin 256)
  /-- TASK_POST (R370). A hardware source posts a task with a buffer and ticket, or the post fails. -/
  | taskPost
  /-- STB_POST (R374). The POST operation creates a software task, ready or delayed. -/
  | stbPost (r : Req) (delay : BitVec 24)
  /-- STB_CANCEL (R374). The CANCEL operation frees a READY or DELAYED task and voids its ticket. -/
  | stbCancel (r : Req)
  /-- STB_VOID (R374). The VOID operation ends a HANDED task as void. -/
  | stbVoid (r : Req)
  /-- DELAY_TICK (R375). At each tick, the delayed tasks that fall due become READY. -/
  | delayTick
  /-- TASK_HANDOFF (R373). Stable hands a READY task to an eligible thread and transfers its buffer. -/
  | taskHandoff (k : Fin 8)
  /-- ORDERED_RELEASE (R377). A completion whose ticket equals P is released to its slice and P advances. -/
  | orderedRelease (g : Fin 256)
  /-- GROUP_STUCK (R379). A later ticket waits STB_STUCK_US behind P, and STUCK is reported. -/
  | groupStuck (g : Fin 256)
  /-- BPM_GET (R383). The GET operation hands out a buffer or answers EMPTY. -/
  | bpmGet (r : Req)
  /-- BPM_PUT (R385). The PUT operation frees a buffer under the free checks. -/
  | bpmPut (r : Req)
  /-- BPM_XFER (R386). The XFER operation changes the owner of a held buffer. -/
  | bpmXfer (r : Req)
  /-- PMU_FREEZE (R394). PMU_CTRL.FREEZE stops or restarts all counting. -/
  | pmuFreeze (r : Req) (freeze : Bool)
  /-- PMU_CLEAR (R394). PMU_CTRL.CLEAR zeroes all counters and reloads the samplers. -/
  | pmuClear (r : Req)
  /-- SAMPLER_RECORD (R397). The sampler countdown reaches zero and a sample record is written. -/
  | samplerRecord (k : Fin 8)
  /-- HOST_REG_ACCESS (R403). A BAR0 or BAR2 request is served locally or forwarded over the ring. -/
  | hostRegAccess (bar : Fin 3) (off : Nat) (write : Bool) (val : Word) (oneDw : Bool)
  /-- FORWARD_TIMEOUT (R404). A forwarded read has no completion within 80 us, and the root answers zero. -/
  | forwardTimeout (tag : Nat)
  /-- REMOTE_READ (R405). HTR_RMT_CTRL.GO with WRITE = 0 reads a word of another device. -/
  | remoteRead (r : Req) (dev : Fin 64)
  /-- REMOTE_WRITE (R405). HTR_RMT_CTRL.GO with WRITE = 1 writes a word of another device. -/
  | remoteWrite (r : Req) (dev : Fin 64)
  /-- DISCOVER_ROUND (R407). Every 100 us the root sends DISCOVER out of H1. -/
  | discoverRound
  /-- DISCOVER_TIMEOUT (R407). A DISCOVER that does not return within 100 us leads to an upstream DISCOVER and an open-ring update. -/
  | discoverTimeout
  /-- DISCOVER (R407). A device receives DISCOVER, adds its DEVID and forwards it. -/
  | discover (m : HMsg)
  /-- REG_WR (R410). A received register write message is performed at the target. -/
  | regWr (m : HMsg)
  /-- REG_RD (R410). A received register read message is performed and answered. -/
  | regRd (m : HMsg)
  /-- REG_CPL (R410). A register completion returns to its requester. -/
  | regCpl (m : HMsg)
  /-- MEM_WR (R410). The root turns a host memory write message into a PCIe write. -/
  | memWr (m : HMsg)
  /-- MEM_RD (R410). The root turns a host memory read message into a PCIe read. -/
  | memRd (m : HMsg) (data : List Byte) (ok : Bool)
  /-- MEM_CPL (R410). A host memory completion returns to the source device. -/
  | memCpl (m : HMsg)
  /-- IMG_REQ (R58). A request for the retained image is served in IMG_DATA pieces. -/
  | imgReq (m : HMsg)
  /-- IMG_DATA (R58). A piece of a served image arrives at the loading device. -/
  | imgData (m : HMsg)
  /-- INTR (R421). An interrupt message from a non-root device is sent as MSI-X by the root. -/
  | intr (m : HMsg)
  /-- LINK (R409). A LINK message updates the hop map and is forwarded. -/
  | link (m : HMsg)
  /-- HOP_DOWN (R408). A halter hop goes down; ERROR events are raised and a LINK message is sent. -/
  | hopDown (h1 : Bool) (far : Fin 64)
  /-- HOP_UP (R408). A halter hop comes up and a LINK message is sent. -/
  | hopUp (h1 : Bool) (far : Fin 64)
  /-- ROUTE_HOLD_END (R408). 20 us after a route change, held messages to the destination are sent. -/
  | routeHoldEnd (dst : Fin 64)
  /-- QUEUE_DOORBELL (R413). A write of HDM_Q_TAIL hands new descriptors to a DMA queue. -/
  | queueDoorbell (r : Req) (index : BitVec 8)
  /-- DMA_INJECT (R412). An INJECT descriptor copies a frame from the host and injects it, then writes its completion. -/
  | dmaInject (q : Fin 64) (data : List Byte) (ok : Bool)
  /-- DMA_TO_CHAN (R412). A TO_CHAN descriptor copies data into a buffer and commits a message. -/
  | dmaToChan (q : Fin 64) (data : List Byte) (ok : Bool)
  /-- DMA_FROM_CHAN (R412). A FROM_CHAN queue writes a channel message's buffer to host memory and frees it. -/
  | dmaFromChan (q : Fin 64) (ok : Bool)
  /-- RING_ENTRY_WRITE (R416). A stream entry is written to its host ring and the producer index is written back. -/
  | ringEntryWrite (ring : Fin 8)
  /-- RING_HEAD_WRITE (R416). The host returns ring entries by writing HDM_RING_HEAD. -/
  | ringHeadWrite (r : Req) (index : BitVec 20)
  /-- EVENT_RING_WRITE (R418). A queued event record is written to its class ring. -/
  | eventRingWrite (cls : Fin 4)
  /-- SOFTWARE_EVENT (R420). A write of ERR_SW_EVENT raises a software event. -/
  | softwareEvent (r : Req) (cls : Fin 4) (code : BitVec 16)
  /-- TEMP_SENSOR_UPDATE (R437). The temperature readings update every 100 us. -/
  | tempSensorUpdate (slices drams : List Byte)
  /-- THERMAL_SHUTDOWN (R439). A sensor reaches the shutdown limit; THERMTRIP_N asserts and the device enters the pin-reset state. -/
  | thermalShutdown
  /-- I2C_COMMAND_WRITE (R434). An I2C write sets the sideband command byte. -/
  | i2cCommandWrite (cmd : Byte)
  /-- I2C_READ (R434). An I2C read returns the 4 bytes of the selected sideband register. -/
  | i2cRead
  /-- JTAG_INSTRUCTION (R435). A JTAG instruction is shifted in and performed by the TAP. -/
  | jtagInstruction (op : JtagOp)
  /-- PCS_LOCK_GAINED (R89). A port's PCS, or a carrier's PHYs and overhead, gain lock and alignment; FEC_LOCK or OH_LOCK sets and the up-hold count starts. -/
  | pcsLockGained (lock : PcsLock) (n : Fin 512)
  /-- PCIE_CONFIG_REQUEST (R72). A PCIe configuration request is answered with Retry Status before the 20 ms point and performed normally after it. -/
  | pcieConfigRequest (write : Bool) (reg : Nat) (val : Word)
  /-- MSIX_TABLE_ACCESS (R421). A host access to the BAR4 MSI-X table or pending bit array changes the masking or reads the pending bits. -/
  | msixTableAccess (write : Bool) (off : Nat) (val : Word)
  /-- HALTER_BAD_FRAME (R410). A halter frame with a bad FCS or an unknown TYPE is dropped and counted in HTR_RX_BAD. -/
  | halterBadFrame
  /-- POSTED_STORE_DONE (R344). A thread's posted DRAM store is performed, which lets a FENCE, CHCOMMIT or DONETASK that waits on it complete. -/
  | postedStoreDone (t : Fin 256) (n : Nat)
  deriving DecidableEq, Repr

end Sys2Proof
end

