-- ==== Sys2Proof/Decode.lean ====
section
/-! DEFINITION. Decoding of table words: the rows of opcode_table.json give no bits, so that no word spells a command. -/

namespace Sys2Proof

/-- The command that a word spells by the table's bits: none, as no row gives any. -/
def decodeTableWord (_nbits _w : Nat) : Option Instr := none

end Sys2Proof
end

