-- ==== Sys2Proof/Config.lean ====
section
/-! DEFINITION. What the spec leaves open, as constants without a body: nothing constrains them. -/

namespace Sys2Proof.Config

/-- A free value: what the spec leaves open at the n-th such occasion of a run. The model's state counts
the occasions (DESIGN CHOICE, log 2). -/
opaque freeNat : Nat → Nat

/-- How many sample records may follow one another faster than 200 M per second, less one (R242): the spec states the
rate and no burst (DESIGN CHOICE, log 26). -/
opaque sampleBurst : Nat

/-- The burst of SYS from which the staging ring of a host ring lies (R169, R242): the spec does not place it (DESIGN CHOICE, log 165). -/
opaque ringBurst : Nat → Nat

end Sys2Proof.Config
end

