-- ==== Sys2Proof/Machine/RegRow.lean ====
section
/-! DEFINITION. What a register map row of the spec holds (R8, R13, R14): offset, copies, fields. -/

namespace Sys2Proof.Machine

/-- Access codes of Table 00-3 (R8). -/
inductive Acc where
  | rw | ro | wo | w1c | rc | rws
  deriving DecidableEq, Repr

/-- What a register exists once of (R14): the device, a requester, or one element of an engine. -/
inductive Kind where
  | dev | req | dmaq | ring | port | lane | carrier | team | member | domain | slice | prof | xp | polp | tport | tclass | queue | trig | cap | nport | eng | cport | pool | chan | dcluster | thread | kind | group | scluster | plcnt | ccnt | pcluster | pthread | stack | unit
  deriving DecidableEq, Repr

/-- One field of a register map row: lowest bit, width, access code, reset value. -/
structure RegField where
  lo : Nat
  w : Nat
  acc : Acc
  reset : Nat
  deriving DecidableEq, Repr

/-- One row of a register map: window offset of its first register, how many registers of that form
follow one another (4 bytes apart), what it exists once of, its fields. -/
structure RegRow where
  off : Nat
  count : Nat
  kind : Kind
  fields : List RegField
  deriving DecidableEq, Repr

/-- A named field of a register: window offset, lowest bit, width. -/
structure Fld where
  off : Nat
  lo : Nat
  w : Nat
  deriving DecidableEq, Repr

end Sys2Proof.Machine
end

