-- ==== Sys2Proof/Machine/RegMap.lean ====
section
/-! DEFINITION. The register maps of every block (R65, R81, R103, R120, R143, R173, R199, R221, R243, R269, R285,
R304, R316, R334, R335, R366, R389, R390, R400, R424, R441), one row per register. -/

namespace Sys2Proof.Machine


/-- Register map of GLB. -/
def regsGlb : List RegRow := [
  ⟨0x0000000, 1, .dev, [⟨0, 16, .ro, 0x5116⟩, ⟨16, 8, .ro, 0xb0⟩]⟩, /- GLB_ID -/
  ⟨0x0000004, 1, .dev, [⟨0, 4, .ro, 0x0⟩, ⟨4, 4, .ro, 0x0⟩, ⟨8, 1, .ro, 0x1⟩]⟩, /- GLB_STATE -/
  ⟨0x0000008, 1, .dev, [⟨0, 32, .ro, 0x0⟩]⟩, /- GLB_SLICE_STATE_LO -/
  ⟨0x000000c, 1, .dev, [⟨0, 32, .ro, 0x0⟩]⟩, /- GLB_SLICE_STATE_HI -/
  ⟨0x0000010, 1, .dev, [⟨0, 1, .rw, 0x0⟩, ⟨1, 1, .rw, 0x0⟩, ⟨2, 1, .rw, 0x1⟩]⟩, /- GLB_CTRL -/
  ⟨0x0000014, 1, .dev, [⟨0, 16, .wo, 0x0⟩]⟩, /- GLB_STRUCT_REL -/
  ⟨0x0000018, 1, .dev, [⟨0, 16, .wo, 0x0⟩]⟩, /- GLB_SERVICE_REQ -/
  ⟨0x000001c, 1, .dev, [⟨0, 16, .wo, 0x0⟩]⟩, /- GLB_TEST_REQ -/
  ⟨0x0000020, 1, .dev, [⟨0, 16, .wo, 0x0⟩]⟩, /- GLB_SLICE_RESET -/
  ⟨0x0000024, 1, .dev, [⟨0, 8, .rw, 0xff⟩]⟩, /- GLB_CLUSTER_HOLD -/
  ⟨0x0000028, 1, .dev, [⟨0, 32, .wo, 0x0⟩]⟩, /- GLB_SOFT_RESET -/
  ⟨0x000002c, 1, .dev, [⟨0, 1, .w1c, 0x1⟩, ⟨1, 1, .w1c, 0x0⟩, ⟨2, 1, .w1c, 0x0⟩, ⟨3, 1, .w1c, 0x0⟩]⟩, /- GLB_RESET_CAUSE -/
  ⟨0x0000030, 1, .dev, [⟨0, 1, .ro, 0x0⟩, ⟨1, 1, .ro, 0x0⟩, ⟨2, 1, .ro, 0x0⟩, ⟨4, 4, .ro, 0x0⟩, ⟨8, 2, .ro, 0x0⟩]⟩, /- GLB_BOOT_STATUS -/
  ⟨0x0000034, 1, .dev, [⟨0, 32, .ro, 0x0⟩]⟩, /- GLB_BOOT_TIME -/
  ⟨0x0000038, 1, .dev, [⟨0, 32, .ro, 0x0⟩]⟩, /- GLB_SLICE_CAUSE_LO -/
  ⟨0x000003c, 1, .dev, [⟨0, 32, .ro, 0x0⟩]⟩, /- GLB_SLICE_CAUSE_HI -/
  ⟨0x0000040, 1, .dev, [⟨0, 16, .rc, 0x0⟩]⟩, /- GLB_RECOVERY_CNT -/
  ⟨0x0000044, 1, .dev, [⟨0, 6, .ro, 0x0⟩]⟩, /- GLB_STRAPS -/
  ⟨0x0000050, 1, .dev, [⟨0, 32, .ro, 0x0⟩]⟩, /- GLB_FUSE_LOT_LO -/
  ⟨0x0000054, 1, .dev, [⟨0, 16, .ro, 0x0⟩]⟩, /- GLB_FUSE_LOT_HI -/
  ⟨0x0000058, 1, .dev, [⟨0, 5, .ro, 0x0⟩, ⟨8, 8, .ro, 0x0⟩, ⟨16, 8, .ro, 0x0⟩, ⟨24, 8, .ro, 0x0⟩]⟩, /- GLB_FUSE_DIE -/
  ⟨0x000005c, 4, .dev, [⟨0, 32, .ro, 0x0⟩]⟩, /- GLB_FUSE_STACK -/
  ⟨0x0000080, 1, .dev, [⟨0, 8, .ro, 0x0⟩, ⟨8, 8, .ro, 0x0⟩, ⟨16, 8, .rc, 0x0⟩]⟩, /- GLB_TEMP_MAX -/
  ⟨0x0000084, 1, .dev, [⟨0, 8, .rw, 0x64⟩, ⟨8, 8, .rw, 0x5f⟩, ⟨16, 1, .rw, 0x1⟩]⟩, /- GLB_TEMP_WARN -/
  ⟨0x0000088, 1, .dev, [⟨0, 1, .ro, 0x0⟩, ⟨1, 1, .ro, 0x0⟩]⟩, /- GLB_TEMP_STATUS -/
  ⟨0x0000090, 4, .dev, [⟨0, 32, .ro, 0x0⟩]⟩ /- GLB_TEMP_SLICE -/]

/-- Register map of HLD. -/
def regsHld : List RegRow := [
  ⟨0x0100000, 1, .dev, [⟨0, 1, .wo, 0x0⟩, ⟨1, 2, .rw, 0x0⟩, ⟨3, 1, .rw, 0x0⟩, ⟨4, 1, .rw, 0x0⟩, ⟨8, 6, .rw, 0x0⟩]⟩, /- HLD_CTRL -/
  ⟨0x0100004, 1, .dev, [⟨0, 1, .ro, 0x0⟩, ⟨1, 1, .w1c, 0x0⟩, ⟨2, 1, .w1c, 0x0⟩, ⟨4, 3, .ro, 0x0⟩, ⟨8, 8, .ro, 0x0⟩, ⟨16, 16, .ro, 0xffff⟩]⟩, /- HLD_STATUS -/
  ⟨0x0100008, 1, .dev, [⟨0, 32, .rw, 0x0⟩]⟩, /- HLD_SRC_ADDR_LO -/
  ⟨0x010000c, 1, .dev, [⟨0, 32, .rw, 0x0⟩]⟩, /- HLD_SRC_ADDR_HI -/
  ⟨0x0100010, 1, .dev, [⟨0, 30, .rw, 0x0⟩]⟩, /- HLD_SRC_LEN -/
  ⟨0x0100014, 1, .dev, [⟨0, 32, .ro, 0x0⟩]⟩, /- HLD_IMAGE_SERIAL -/
  ⟨0x0100018, 1, .dev, [⟨0, 2, .ro, 0x0⟩, ⟨2, 2, .ro, 0x0⟩]⟩, /- HLD_BOOT_SRC -/
  ⟨0x010001c, 1, .dev, [⟨0, 16, .ro, 0x0⟩]⟩, /- HLD_SLICE_EN -/
  ⟨0x0100020, 1, .dev, [⟨0, 16, .ro, 0x0⟩, ⟨16, 8, .ro, 0x0⟩]⟩, /- HLD_LIVE_DONE -/
  ⟨0x0100024, 1, .dev, [⟨0, 16, .ro, 0x0⟩, ⟨16, 8, .ro, 0x0⟩]⟩, /- HLD_LIVE_REFUSED -/
  ⟨0x0100028, 1, .dev, [⟨0, 32, .ro, 0x0⟩]⟩, /- HLD_LIVE_ERR_LO -/
  ⟨0x010002c, 1, .dev, [⟨0, 32, .ro, 0x0⟩]⟩, /- HLD_LIVE_ERR_HI -/
  ⟨0x0100030, 1, .dev, [⟨0, 32, .ro, 0x0⟩]⟩, /- HLD_LIVE_KERR -/
  ⟨0x0100034, 1, .dev, [⟨0, 20, .rw, 0x3e8⟩]⟩, /- HLD_LIVE_WAIT -/
  ⟨0x0100038, 1, .dev, [⟨0, 16, .rc, 0x0⟩]⟩, /- HLD_REFUSED_CNT -/
  ⟨0x010003c, 1, .dev, [⟨0, 16, .rc, 0x0⟩]⟩, /- HLD_FAIL_CNT -/
  ⟨0x0100040, 12, .dev, [⟨0, 32, .ro, 0x0⟩]⟩ /- HLD_KEY_HASH -/]

/-- Register map of HTR. -/
def regsHtr : List RegRow := [
  ⟨0x0200100, 1, .dev, [⟨0, 1, .rw, 0x1⟩, ⟨1, 1, .rw, 0x1⟩]⟩, /- HTR_CFG -/
  ⟨0x0200104, 1, .dev, [⟨0, 1, .ro, 0x0⟩, ⟨1, 1, .ro, 0x0⟩, ⟨2, 1, .ro, 0x0⟩, ⟨3, 1, .ro, 0x0⟩, ⟨8, 6, .ro, 0x0⟩]⟩, /- HTR_STATUS -/
  ⟨0x0200108, 1, .dev, [⟨0, 32, .ro, 0x0⟩]⟩, /- HTR_PRESENT_LO -/
  ⟨0x020010c, 1, .dev, [⟨0, 32, .ro, 0x0⟩]⟩, /- HTR_PRESENT_HI -/
  ⟨0x0200110, 1, .dev, [⟨0, 16, .rc, 0x0⟩]⟩, /- HTR_NOPEER_CNT -/
  ⟨0x0200114, 1, .dev, [⟨0, 16, .rc, 0x0⟩]⟩, /- HTR_TIMEOUT_CNT -/
  ⟨0x0200118, 1, .dev, [⟨0, 16, .rc, 0x0⟩]⟩, /- HTR_H0_DOWN_CNT -/
  ⟨0x020011c, 1, .dev, [⟨0, 16, .rc, 0x0⟩]⟩, /- HTR_H1_DOWN_CNT -/
  ⟨0x0200120, 1, .dev, [⟨0, 32, .rc, 0x0⟩]⟩, /- HTR_RX_BAD -/
  ⟨0x0200200, 1, .req, [⟨0, 1, .wo, 0x0⟩, ⟨1, 1, .rw, 0x0⟩, ⟨8, 6, .rw, 0x0⟩]⟩, /- HTR_RMT_CTRL -/
  ⟨0x0200204, 1, .req, [⟨0, 26, .rw, 0x0⟩]⟩, /- HTR_RMT_ADDR -/
  ⟨0x0200208, 1, .req, [⟨0, 32, .rw, 0x0⟩]⟩, /- HTR_RMT_DATA -/
  ⟨0x020020c, 1, .req, [⟨0, 1, .ro, 0x0⟩, ⟨1, 1, .w1c, 0x0⟩, ⟨2, 2, .ro, 0x0⟩]⟩, /- HTR_RMT_STATUS -/
  ⟨0x0200210, 1, .req, [⟨0, 16, .rc, 0x0⟩]⟩ /- HTR_RMT_REFUSED -/]

/-- Register map of HDM. -/
def regsHdm : List RegRow := [
  ⟨0x0300100, 1, .dev, [⟨0, 16, .rc, 0x0⟩]⟩, /- HDM_BAD_ACCESS -/
  ⟨0x0300104, 1, .dev, [⟨0, 16, .rc, 0x0⟩]⟩, /- HDM_HOST_ERR -/
  ⟨0x0300200, 1, .req, [⟨0, 6, .rw, 0x0⟩]⟩, /- HDM_Q_IDX -/
  ⟨0x0300204, 1, .req, [⟨0, 3, .rw, 0x0⟩]⟩, /- HDM_RING_IDX -/
  ⟨0x0300300, 1, .dmaq, [⟨0, 1, .rw, 0x0⟩, ⟨1, 2, .rw, 0x0⟩, ⟨8, 8, .rw, 0x0⟩, ⟨16, 4, .rw, 0x8⟩]⟩, /- HDM_Q_CFG -/
  ⟨0x0300304, 1, .dmaq, [⟨0, 8, .rw, 0x0⟩]⟩, /- HDM_Q_TAIL -/
  ⟨0x0300308, 1, .dmaq, [⟨0, 8, .ro, 0x0⟩]⟩, /- HDM_Q_HEAD -/
  ⟨0x030030c, 1, .dmaq, [⟨0, 32, .rw, 0x0⟩]⟩, /- HDM_Q_CPL_LO -/
  ⟨0x0300310, 1, .dmaq, [⟨0, 32, .rw, 0x0⟩]⟩, /- HDM_Q_CPL_HI -/
  ⟨0x0300314, 1, .dmaq, [⟨0, 1, .ro, 0x0⟩, ⟨1, 1, .ro, 0x0⟩]⟩, /- HDM_Q_STATUS -/
  ⟨0x0300318, 1, .dmaq, [⟨0, 32, .rc, 0x0⟩]⟩, /- HDM_Q_DONE_CNT -/
  ⟨0x030031c, 1, .dmaq, [⟨0, 16, .rc, 0x0⟩]⟩, /- HDM_Q_NOBUF -/
  ⟨0x0300320, 1, .dmaq, [⟨0, 16, .rc, 0x0⟩]⟩, /- HDM_Q_DROP -/
  ⟨0x0300400, 1, .ring, [⟨0, 1, .rw, 0x0⟩, ⟨1, 5, .rw, 0xa⟩, ⟨6, 1, .rw, 0x0⟩]⟩, /- HDM_RING_CFG -/
  ⟨0x0300404, 1, .ring, [⟨0, 32, .rw, 0x0⟩]⟩, /- HDM_RING_BASE_LO -/
  ⟨0x0300408, 1, .ring, [⟨0, 32, .rw, 0x0⟩]⟩, /- HDM_RING_BASE_HI -/
  ⟨0x030040c, 1, .ring, [⟨0, 32, .rw, 0x0⟩]⟩, /- HDM_RING_WB_LO -/
  ⟨0x0300410, 1, .ring, [⟨0, 32, .rw, 0x0⟩]⟩, /- HDM_RING_WB_HI -/
  ⟨0x0300414, 1, .ring, [⟨0, 20, .rw, 0x0⟩]⟩, /- HDM_RING_HEAD -/
  ⟨0x0300418, 1, .ring, [⟨0, 20, .ro, 0x0⟩]⟩, /- HDM_RING_TAIL -/
  ⟨0x030041c, 1, .ring, [⟨0, 16, .rw, 0x3e8⟩]⟩, /- HDM_RING_INT_NS -/
  ⟨0x0300480, 1, .ring, [⟨0, 16, .rw, 0x3e8⟩, ⟨16, 16, .rw, 0x100⟩]⟩, /- HDM_EVT_RATE -/
  ⟨0x0300484, 1, .ring, [⟨0, 32, .rc, 0x0⟩]⟩, /- HDM_EVT_DROP -/
  ⟨0x0300488, 1, .ring, [⟨0, 16, .ro, 0x0⟩]⟩ /- HDM_EVT_SEQ -/]

/-- Register map of ERR. -/
def regsErr : List RegRow := [
  ⟨0x2e00000, 1, .dev, [⟨0, 1, .w1c, 0x0⟩, ⟨1, 1, .w1c, 0x0⟩, ⟨2, 1, .w1c, 0x0⟩, ⟨3, 1, .w1c, 0x0⟩, ⟨4, 1, .w1c, 0x0⟩, ⟨5, 1, .w1c, 0x0⟩, ⟨6, 1, .w1c, 0x0⟩, ⟨7, 1, .w1c, 0x0⟩, ⟨8, 1, .w1c, 0x0⟩, ⟨9, 1, .w1c, 0x0⟩, ⟨10, 1, .w1c, 0x0⟩, ⟨11, 1, .w1c, 0x0⟩, ⟨12, 1, .w1c, 0x0⟩]⟩, /- ERR_ALARM -/
  ⟨0x2e00004, 1, .dev, [⟨0, 13, .rw, 0x0⟩]⟩, /- ERR_ALARM_MASK -/
  ⟨0x2e00010, 8, .req, [⟨0, 32, .rw, 0x0⟩]⟩, /- ERR_SW_DATA -/
  ⟨0x2e00030, 1, .req, [⟨0, 2, .wo, 0x0⟩, ⟨8, 16, .wo, 0x0⟩]⟩, /- ERR_SW_EVENT -/
  ⟨0x2e00800, 1, .req, [⟨0, 6, .rw, 0x0⟩]⟩, /- ERR_UNIT_IDX -/
  ⟨0x2e00804, 1, .unit, [⟨0, 4, .ro, 0x0⟩, ⟨4, 1, .w1c, 0x0⟩, ⟨5, 1, .ro, 0x0⟩, ⟨8, 8, .ro, 0x0⟩]⟩, /- ERR_Q_STATUS -/
  ⟨0x2e00808, 1, .unit, [⟨0, 1, .wo, 0x0⟩]⟩, /- ERR_Q_CTRL -/
  ⟨0x2e00810, 8, .unit, [⟨0, 32, .ro, 0x0⟩]⟩, /- ERR_Q_HEAD -/
  ⟨0x2e00830, 1, .unit, [⟨0, 16, .rc, 0x0⟩]⟩, /- ERR_Q_LOST -/
  ⟨0x2e00834, 1, .unit, [⟨0, 16, .rc, 0x0⟩]⟩, /- ERR_Q_MERGED -/
  ⟨0x2e00838, 1, .unit, [⟨0, 32, .rc, 0x0⟩]⟩, /- ERR_Q_TOTAL -/
  ⟨0x2e00840, 1, .dev, [⟨0, 16, .rw, 0x64⟩]⟩, /- ERR_SCRUB_PERIOD -/
  ⟨0x2e00844, 1, .dev, [⟨0, 1, .rw, 0x1⟩]⟩, /- ERR_SCRUB_CTRL -/
  ⟨0x2e00848, 1, .dev, [⟨0, 32, .rc, 0x0⟩]⟩, /- ERR_PAR_CNT -/
  ⟨0x2e00850, 1, .dev, [⟨0, 32, .ro, 0x0⟩]⟩, /- ERR_Q_NONEMPTY_LO -/
  ⟨0x2e00854, 1, .dev, [⟨0, 1, .ro, 0x0⟩]⟩ /- ERR_Q_NONEMPTY_HI -/]

/-- Register map of PRT. -/
def regsPrt : List RegRow := [
  ⟨0x0400000, 1, .req, [⟨0, 9, .rw, 0x0⟩]⟩, /- PORT_SEL -/
  ⟨0x0401000, 1, .port, [⟨0, 2, .rws, 0x0⟩, ⟨4, 4, .rws, 0x0⟩, ⟨8, 2, .rws, 0x0⟩, ⟨12, 4, .rws, 0x0⟩, ⟨16, 3, .rws, 0x0⟩, ⟨19, 1, .rws, 0x0⟩, ⟨24, 6, .rws, 0x0⟩]⟩, /- PRT_MODE -/
  ⟨0x0401004, 1, .port, [⟨0, 1, .rw, 0x0⟩, ⟨8, 6, .rw, 0x3f⟩, ⟨16, 14, .rw, 0x2400⟩]⟩, /- PRT_MAC_CFG -/
  ⟨0x0401008, 1, .port, [⟨0, 8, .rw, 0x20⟩]⟩, /- PRT_RX_CAP -/
  ⟨0x040100c, 1, .port, [⟨0, 1, .ro, 0x0⟩, ⟨1, 1, .ro, 0x0⟩, ⟨2, 1, .ro, 0x0⟩, ⟨8, 10, .ro, 0x0⟩]⟩, /- PRT_STATUS -/
  ⟨0x0401010, 1, .port, [⟨0, 8, .rw, 0xa⟩]⟩, /- PRT_LINK_UP_HOLD -/
  ⟨0x0401014, 1, .port, [⟨0, 32, .rc, 0x0⟩]⟩, /- PRT_HOLD_NS -/
  ⟨0x0401020, 1, .port, [⟨0, 32, .rc, 0x0⟩]⟩, /- PRT_RX_OVERRUN -/
  ⟨0x0401024, 1, .port, [⟨0, 32, .rc, 0x0⟩]⟩, /- PRT_RX_RECOVERY_DROP -/
  ⟨0x0401028, 1, .port, [⟨0, 32, .rc, 0x0⟩]⟩, /- PRT_RX_RUNT -/
  ⟨0x040102c, 1, .port, [⟨0, 32, .rc, 0x0⟩]⟩, /- PRT_RX_OVERSIZE -/
  ⟨0x0401030, 1, .port, [⟨0, 32, .rc, 0x0⟩]⟩, /- PRT_RX_MACCTRL -/
  ⟨0x0401034, 1, .port, [⟨0, 16, .rc, 0x0⟩]⟩, /- PRT_LINK_DOWN_CNT -/
  ⟨0x0401038, 1, .port, [⟨0, 32, .rc, 0x0⟩]⟩, /- PRT_FEC_CORR -/
  ⟨0x040103c, 1, .port, [⟨0, 32, .rc, 0x0⟩]⟩, /- PRT_FEC_UNCORR -/
  ⟨0x0401040, 1, .port, [⟨0, 32, .rc, 0x0⟩]⟩, /- PRT_TX_ABORT -/
  ⟨0x0401044, 1, .port, [⟨0, 32, .rc, 0x0⟩]⟩, /- PRT_RX_DOWN_DROP -/
  ⟨0x0401080, 1, .req, [⟨0, 3, .rw, 0x0⟩]⟩, /- PRT_LANE_IDX -/
  ⟨0x0401084, 1, .lane, [⟨0, 6, .rw, 0x0⟩, ⟨8, 6, .rw, 0x4⟩, ⟨16, 6, .rw, 0x30⟩, ⟨24, 6, .rw, 0x0⟩]⟩, /- PRT_LANE_TX_EQ -/
  ⟨0x0401088, 1, .lane, [⟨0, 1, .rw, 0x0⟩, ⟨1, 1, .rw, 0x0⟩, ⟨2, 2, .rw, 0x0⟩, ⟨4, 3, .rw, 0x0⟩, ⟨7, 1, .rw, 0x0⟩]⟩, /- PRT_LANE_CTRL -/
  ⟨0x040108c, 1, .lane, [⟨0, 1, .ro, 0x0⟩, ⟨1, 1, .ro, 0x0⟩, ⟨2, 1, .ro, 0x0⟩, ⟨3, 1, .ro, 0x0⟩, ⟨8, 8, .ro, 0x0⟩]⟩, /- PRT_LANE_STATUS -/
  ⟨0x0401090, 1, .lane, [⟨0, 32, .rc, 0x0⟩]⟩ /- PRT_LANE_PRBS_ERR -/]

/-- Register map of CAR, part 1. -/
def regsCarA : List RegRow := [
  ⟨0x0800000, 1, .req, [⟨0, 6, .rw, 0x0⟩]⟩, /- CAR_SEL -/
  ⟨0x0800100, 1, .dev, [⟨0, 32, .ro, 0x0⟩]⟩, /- CAR_HOLD_PIN -/
  ⟨0x0800104, 1, .dev, [⟨0, 32, .rw, 0x0⟩]⟩, /- CAR_HOLD_POL -/
  ⟨0x0800108, 1, .dev, [⟨0, 32, .rw, 0x0⟩]⟩, /- CAR_HOLD_MASK -/
  ⟨0x080010c, 1, .dev, [⟨0, 32, .w1c, 0x0⟩]⟩, /- CAR_HOLD_STUCK -/
  ⟨0x0800110, 1, .dev, [⟨0, 32, .w1c, 0x0⟩]⟩, /- CAR_HOLD_CHATTER -/
  ⟨0x0800114, 1, .dev, [⟨0, 16, .rw, 0xa⟩, ⟨16, 8, .rw, 0x10⟩]⟩, /- CAR_HOLD_LIMITS -/
  ⟨0x0801000, 1, .carrier, [⟨0, 1, .rws, 0x0⟩, ⟨1, 2, .rws, 0x0⟩, ⟨3, 5, .rws, 0x0⟩, ⟨8, 4, .rws, 0x0⟩, ⟨12, 3, .rws, 0x0⟩, ⟨16, 4, .rws, 0x0⟩, ⟨20, 8, .rws, 0x1⟩]⟩, /- CAR_CFG -/
  ⟨0x0801004, 1, .carrier, [⟨0, 20, .rws, 0x1⟩]⟩, /- CAR_GROUP -/
  ⟨0x0801008, 1, .carrier, [⟨0, 6, .rw, 0x3f⟩, ⟨16, 16, .rw, 0x0⟩]⟩, /- CAR_HOLD_CFG -/
  ⟨0x0801010, 1, .carrier, [⟨0, 9, .rw, 0x0⟩, ⟨12, 1, .rw, 0x0⟩, ⟨13, 1, .rw, 0x0⟩]⟩, /- CAR_CAL_IDX -/
  ⟨0x0801014, 1, .carrier, [⟨0, 6, .rw, 0x3e⟩]⟩, /- CAR_CAL_ENTRY -/
  ⟨0x0801018, 1, .carrier, [⟨0, 1, .wo, 0x0⟩, ⟨1, 1, .wo, 0x0⟩, ⟨2, 1, .rw, 0x0⟩, ⟨3, 1, .rw, 0x0⟩, ⟨8, 4, .rw, 0x4⟩]⟩, /- CAR_CAL_CTRL -/
  ⟨0x080101c, 1, .carrier, [⟨0, 1, .ro, 0x0⟩, ⟨1, 1, .ro, 0x0⟩, ⟨2, 1, .w1c, 0x0⟩, ⟨3, 1, .w1c, 0x0⟩, ⟨4, 1, .ro, 0x0⟩, ⟨5, 1, .w1c, 0x0⟩, ⟨6, 1, .ro, 0x0⟩, ⟨7, 1, .ro, 0x0⟩]⟩, /- CAR_CAL_STATUS -/
  ⟨0x0801020, 1, .carrier, [⟨0, 30, .rw, 0x0⟩]⟩, /- CAR_SW_TIME_NS -/
  ⟨0x0801024, 1, .carrier, [⟨0, 32, .rw, 0x0⟩]⟩, /- CAR_SW_TIME_SEC_LO -/
  ⟨0x0801028, 1, .carrier, [⟨0, 16, .rw, 0x0⟩]⟩, /- CAR_SW_TIME_SEC_HI -/
  ⟨0x080102c, 1, .carrier, [⟨0, 30, .ro, 0x0⟩]⟩, /- CAR_MF_NEXT_NS -/
  ⟨0x0801030, 1, .carrier, [⟨0, 32, .ro, 0x0⟩]⟩, /- CAR_MF_NEXT_SEC_LO -/
  ⟨0x0801034, 1, .carrier, [⟨0, 16, .ro, 0x0⟩]⟩, /- CAR_MF_NEXT_SEC_HI -/
  ⟨0x0801038, 1, .carrier, [⟨0, 1, .ro, 0x0⟩, ⟨1, 1, .ro, 0x0⟩, ⟨2, 1, .ro, 0x0⟩, ⟨16, 16, .ro, 0x0⟩]⟩, /- CAR_STATUS -/
  ⟨0x080103c, 1, .carrier, [⟨0, 9, .ro, 0x0⟩, ⟨16, 9, .ro, 0x0⟩]⟩, /- CAR_RATE -/
  ⟨0x0801040, 1, .carrier, [⟨0, 32, .rc, 0x0⟩]⟩, /- CAR_HOLD_NS -/
  ⟨0x0801044, 1, .carrier, [⟨0, 16, .rc, 0x0⟩]⟩, /- CAR_CAL_REFUSED -/
  ⟨0x0801048, 1, .carrier, [⟨0, 16, .rc, 0x0⟩]⟩, /- CAR_DOWN_CNT -/
  ⟨0x080104c, 1, .carrier, [⟨0, 8, .rw, 0xa⟩]⟩, /- CAR_LINK_UP_HOLD -/
  ⟨0x0801080, 1, .carrier, [⟨0, 6, .rw, 0x3f⟩, ⟨8, 12, .rw, 0x64⟩, ⟨20, 1, .rw, 0x1⟩]⟩, /- CAR_RC_CFG -/
  ⟨0x0801084, 1, .carrier, [⟨0, 14, .rw, 0x32⟩]⟩, /- CAR_RC_LEAD -/
  ⟨0x0801088, 1, .carrier, [⟨0, 16, .rw, 0x61a8⟩]⟩, /- CAR_RC_RXWAIT -/
  ⟨0x080108c, 1, .carrier, [⟨0, 20, .rw, 0x0⟩]⟩, /- CAR_RC_ADVANCE -/
  ⟨0x0801090, 1, .carrier, [⟨0, 30, .rw, 0x0⟩]⟩, /- CAR_RC_TIME_NS -/
  ⟨0x0801094, 1, .carrier, [⟨0, 32, .rw, 0x0⟩]⟩, /- CAR_RC_TIME_SEC_LO -/
  ⟨0x0801098, 1, .carrier, [⟨0, 16, .rw, 0x0⟩]⟩, /- CAR_RC_TIME_SEC_HI -/
  ⟨0x080109c, 1, .carrier, [⟨0, 1, .wo, 0x0⟩, ⟨1, 1, .wo, 0x0⟩, ⟨2, 1, .rw, 0x0⟩, ⟨3, 1, .rw, 0x1⟩, ⟨4, 2, .rw, 0x0⟩]⟩, /- CAR_RC_CTRL -/
  ⟨0x08010a0, 1, .carrier, [⟨0, 1, .ro, 0x0⟩, ⟨1, 1, .ro, 0x0⟩, ⟨2, 1, .w1c, 0x0⟩, ⟨3, 1, .w1c, 0x0⟩, ⟨4, 1, .w1c, 0x0⟩, ⟨5, 1, .ro, 0x0⟩, ⟨6, 1, .ro, 0x0⟩, ⟨7, 1, .w1c, 0x0⟩, ⟨8, 1, .w1c, 0x0⟩, ⟨9, 1, .w1c, 0x0⟩, ⟨10, 1, .w1c, 0x0⟩, ⟨12, 4, .ro, 0x0⟩]⟩, /- CAR_RC_STATUS -/
  ⟨0x08010a4, 1, .carrier, [⟨0, 30, .ro, 0x0⟩]⟩, /- CAR_RC_TSW_NS -/
  ⟨0x08010a8, 1, .carrier, [⟨0, 32, .ro, 0x0⟩]⟩, /- CAR_RC_TSW_SEC_LO -/
  ⟨0x08010ac, 1, .carrier, [⟨0, 16, .ro, 0x0⟩]⟩, /- CAR_RC_TSW_SEC_HI -/
  ⟨0x08010b0, 1, .carrier, [⟨0, 9, .ro, 0x0⟩, ⟨16, 9, .ro, 0x0⟩]⟩, /- CAR_RC_SLOTS -/
  ⟨0x08010b4, 1, .carrier, [⟨0, 30, .ro, 0x0⟩]⟩ /- CAR_RC_EFFECT_NS -/]

/-- Register map of CAR, part 2. -/
def regsCarB : List RegRow := [
  ⟨0x08010b8, 1, .carrier, [⟨0, 16, .rc, 0x0⟩]⟩ /- CAR_RC_DONE_CNT -/]

/-- Register map of CAR. -/
def regsCar : List RegRow := regsCarA ++ regsCarB

/-- Register map of TEM, part 1. -/
def regsTemA : List RegRow := [
  ⟨0x0a00000, 1, .req, [⟨0, 5, .rw, 0x0⟩]⟩, /- TEAM_SEL -/
  ⟨0x0a00100, 1, .dev, [⟨0, 16, .rws, 0x88b5⟩]⟩, /- TEM_ETYPE -/
  ⟨0x0a00104, 1, .dev, [⟨0, 32, .rws, 0x0⟩]⟩, /- TEM_PROBE_MAC_LO -/
  ⟨0x0a00108, 1, .dev, [⟨0, 16, .rws, 0x0⟩]⟩, /- TEM_PROBE_MAC_HI -/
  ⟨0x0a0010c, 1, .dev, [⟨0, 32, .rw, 0x41⟩]⟩, /- TEM_DOMAIN_SALT -/
  ⟨0x0a00110, 1, .dev, [⟨0, 15, .ro, 0x5c00⟩]⟩, /- TEM_WIN_FREE -/
  ⟨0x0a00114, 1, .dev, [⟨0, 14, .ro, 0x1900⟩]⟩, /- TEM_SPILL_RATE -/
  ⟨0x0a00200, 1, .req, [⟨0, 4, .rw, 0x0⟩]⟩, /- TEM_MEMBER_IDX -/
  ⟨0x0a00204, 1, .req, [⟨0, 12, .rw, 0x0⟩]⟩, /- TEM_DOM_IDX -/
  ⟨0x0a01000, 1, .team, [⟨0, 1, .rws, 0x0⟩, ⟨1, 5, .rws, 0x0⟩, ⟨6, 1, .rws, 0x0⟩, ⟨7, 1, .rw, 0x1⟩, ⟨16, 9, .rws, 0x0⟩]⟩, /- TEM_TEAM_CFG -/
  ⟨0x0a01004, 1, .team, [⟨0, 13, .rws, 0x0⟩]⟩, /- TEM_TEAM_SKEW -/
  ⟨0x0a01008, 1, .team, [⟨0, 13, .rw, 0x0⟩]⟩, /- TEM_GAP_WAIT -/
  ⟨0x0a0100c, 1, .team, [⟨0, 15, .rws, 0x0⟩]⟩, /- TEM_TEAM_WIN -/
  ⟨0x0a01010, 1, .team, [⟨0, 32, .rws, 0x0⟩]⟩, /- TEM_DELIV_LO -/
  ⟨0x0a01014, 1, .team, [⟨0, 32, .rws, 0x0⟩]⟩, /- TEM_DELIV_HI -/
  ⟨0x0a01018, 1, .team, [⟨0, 5, .rws, 0x0⟩]⟩, /- TEM_DELIV_LEN -/
  ⟨0x0a0101c, 1, .team, [⟨0, 10, .rw, 0xa⟩, ⟨16, 10, .rw, 0x3e8⟩]⟩, /- TEM_PROBE_CFG -/
  ⟨0x0a01020, 1, .team, [⟨0, 10, .rw, 0x64⟩]⟩, /- TEM_SILENT -/
  ⟨0x0a01024, 1, .team, [⟨0, 1, .wo, 0x0⟩, ⟨1, 1, .wo, 0x0⟩]⟩, /- TEM_TEAM_CTRL -/
  ⟨0x0a01028, 1, .team, [⟨0, 2, .ro, 0x0⟩, ⟨2, 1, .w1c, 0x0⟩, ⟨16, 16, .ro, 0x0⟩]⟩, /- TEM_TEAM_STATUS -/
  ⟨0x0a0102c, 1, .team, [⟨0, 16, .ro, 0x0⟩]⟩, /- TEM_RX_EPOCH -/
  ⟨0x0a01030, 1, .team, [⟨0, 22, .ro, 0x0⟩]⟩, /- TEM_TEAM_RATE -/
  ⟨0x0a01034, 1, .team, [⟨0, 32, .ro, 0x0⟩]⟩, /- TEM_HELD_BYTES -/
  ⟨0x0a01038, 1, .team, [⟨0, 32, .rc, 0x0⟩]⟩, /- TEM_HELD_PEAK -/
  ⟨0x0a0103c, 1, .team, [⟨0, 32, .ro, 0x0⟩]⟩, /- TEM_SPILLED_BYTES -/
  ⟨0x0a01040, 1, .team, [⟨0, 32, .rc, 0x0⟩]⟩, /- TEM_RELEASED -/
  ⟨0x0a01044, 1, .team, [⟨0, 32, .rc, 0x0⟩]⟩, /- TEM_DUP_SEQ -/
  ⟨0x0a01048, 1, .team, [⟨0, 32, .rc, 0x0⟩]⟩, /- TEM_FAR -/
  ⟨0x0a0104c, 1, .team, [⟨0, 32, .rc, 0x0⟩]⟩, /- TEM_LOST -/
  ⟨0x0a01050, 1, .team, [⟨0, 32, .rc, 0x0⟩]⟩, /- TEM_FAST_SKIP -/
  ⟨0x0a01054, 1, .team, [⟨0, 32, .rc, 0x0⟩]⟩, /- TEM_WIN_DROP -/
  ⟨0x0a01058, 1, .team, [⟨0, 32, .rc, 0x0⟩]⟩, /- TEM_SPILL_DROP -/
  ⟨0x0a0105c, 1, .team, [⟨0, 32, .rc, 0x0⟩]⟩, /- TEM_DELIV_DROP -/
  ⟨0x0a01060, 1, .team, [⟨0, 32, .rc, 0x0⟩]⟩, /- TEM_RESYNC_DROP -/
  ⟨0x0a01100, 1, .member, [⟨0, 9, .rws, 0x0⟩]⟩, /- TEM_MBR_CFG -/
  ⟨0x0a01104, 1, .member, [⟨0, 1, .wo, 0x0⟩, ⟨1, 1, .wo, 0x0⟩]⟩, /- TEM_MBR_CTRL -/
  ⟨0x0a01108, 1, .member, [⟨0, 2, .ro, 0x0⟩, ⟨4, 3, .ro, 0x0⟩, ⟨7, 1, .ro, 0x0⟩, ⟨8, 1, .ro, 0x0⟩, ⟨9, 1, .ro, 0x0⟩, ⟨10, 1, .w1c, 0x0⟩]⟩, /- TEM_MBR_STATUS -/
  ⟨0x0a0110c, 1, .member, [⟨0, 32, .ro, 0x0⟩]⟩, /- TEM_MBR_DELAY_NS -/
  ⟨0x0a01110, 1, .member, [⟨0, 23, .ro, 0x0⟩]⟩, /- TEM_MBR_SKEW_NS -/
  ⟨0x0a01114, 1, .member, [⟨0, 22, .ro, 0x0⟩]⟩ /- TEM_MBR_RATE -/]

/-- Register map of TEM, part 2. -/
def regsTemB : List RegRow := [
  ⟨0x0a01120, 1, .member, [⟨0, 32, .rc, 0x0⟩]⟩, /- TEM_MBR_TX_FRAMES -/
  ⟨0x0a01124, 1, .member, [⟨0, 32, .rc, 0x0⟩]⟩, /- TEM_MBR_TX_PROBES -/
  ⟨0x0a01128, 1, .member, [⟨0, 32, .rc, 0x0⟩]⟩, /- TEM_MBR_RX_FRAMES -/
  ⟨0x0a0112c, 1, .member, [⟨0, 32, .rc, 0x0⟩]⟩, /- TEM_MBR_RX_NOSHIM -/
  ⟨0x0a01130, 1, .member, [⟨0, 32, .rc, 0x0⟩]⟩, /- TEM_MBR_RX_CRC -/
  ⟨0x0a01134, 1, .member, [⟨0, 32, .rc, 0x0⟩]⟩, /- TEM_MBR_RX_BADVER -/
  ⟨0x0a01138, 1, .member, [⟨0, 32, .rc, 0x0⟩]⟩, /- TEM_MBR_RX_MISWIRE -/
  ⟨0x0a0113c, 1, .member, [⟨0, 32, .rc, 0x0⟩]⟩, /- TEM_MBR_ALIVE_DUP -/
  ⟨0x0a01140, 1, .member, [⟨0, 32, .rc, 0x0⟩]⟩, /- TEM_MBR_ALIVE_JUMP -/
  ⟨0x0a01144, 1, .member, [⟨0, 32, .rc, 0x0⟩]⟩, /- TEM_MBR_ALIVE_LOST -/
  ⟨0x0a01200, 1, .domain, [⟨0, 32, .ro, 0x0⟩]⟩, /- TEM_DOM_EXPECT -/
  ⟨0x0a01204, 1, .domain, [⟨0, 32, .ro, 0x0⟩]⟩, /- TEM_DOM_NEXT -/
  ⟨0x0a01208, 1, .domain, [⟨0, 1, .ro, 0x1⟩, ⟨1, 1, .ro, 0x0⟩, ⟨16, 16, .ro, 0x0⟩]⟩ /- TEM_DOM_STATUS -/]

/-- Register map of TEM. -/
def regsTem : List RegRow := regsTemA ++ regsTemB

/-- Register map of SLC, part 1. -/
def regsSlcA : List RegRow := [
  ⟨0x0c00000, 1, .req, [⟨0, 4, .rw, 0x0⟩]⟩, /- SLICE_SEL -/
  ⟨0x0c01000, 1, .slice, [⟨0, 1, .rws, 0x1⟩, ⟨1, 1, .rws, 0x1⟩, ⟨2, 1, .rws, 0x1⟩, ⟨3, 1, .rws, 0x1⟩, ⟨4, 1, .rws, 0x1⟩, ⟨5, 1, .rws, 0x1⟩, ⟨6, 1, .rws, 0x1⟩, ⟨7, 1, .rws, 0x1⟩, ⟨8, 1, .rws, 0x1⟩, ⟨9, 1, .rws, 0x1⟩, ⟨10, 1, .rws, 0x1⟩, ⟨11, 1, .rws, 0x1⟩, ⟨12, 1, .rws, 0x1⟩, ⟨13, 1, .rws, 0x1⟩, ⟨14, 1, .rws, 0x1⟩, ⟨15, 1, .rws, 0x1⟩, ⟨16, 1, .rws, 0x1⟩, ⟨17, 1, .rws, 0x1⟩]⟩, /- SLC_PARSE_EN -/
  ⟨0x0c01004, 1, .slice, [⟨0, 5, .rws, 0x10⟩, ⟨8, 6, .rws, 0x28⟩]⟩, /- SLC_PARSE_LIMIT -/
  ⟨0x0c01008, 1, .slice, [⟨0, 16, .rws, 0x9100⟩]⟩, /- SLC_TPID_ALT -/
  ⟨0x0c0100c, 1, .slice, [⟨0, 16, .rws, 0x12b5⟩, ⟨16, 16, .rws, 0x17c1⟩]⟩, /- SLC_UDP_PORTS -/
  ⟨0x0c01010, 1, .slice, [⟨0, 2, .rw, 0x0⟩, ⟨2, 2, .rw, 0x0⟩, ⟨4, 3, .rw, 0x0⟩]⟩, /- SLC_FAIL_ACT -/
  ⟨0x0c01020, 8, .slice, [⟨0, 32, .rws, 0x0⟩]⟩, /- SLC_DEFACT -/
  ⟨0x0c01040, 1, .slice, [⟨0, 32, .rc, 0x0⟩]⟩, /- SLC_PARSE_OK_CNT -/
  ⟨0x0c01044, 1, .slice, [⟨0, 32, .rc, 0x0⟩]⟩, /- SLC_STOP_CNT -/
  ⟨0x0c01084, 9, .slice, [⟨0, 32, .rc, 0x0⟩]⟩, /- SLC_MAL_RSN -/
  ⟨0x0c010c4, 7, .slice, [⟨0, 32, .rc, 0x0⟩]⟩, /- SLC_PL_RSN -/
  ⟨0x0c01100, 32, .slice, [⟨0, 32, .rc, 0x0⟩]⟩, /- SLC_PORT_MAL -/
  ⟨0x0c01180, 32, .slice, [⟨0, 32, .rc, 0x0⟩]⟩, /- SLC_PORT_PL -/
  ⟨0x0c01200, 32, .slice, [⟨0, 32, .rc, 0x0⟩]⟩, /- SLC_PORT_DEFACT -/
  ⟨0x0c01280, 1, .slice, [⟨0, 32, .rc, 0x0⟩]⟩, /- SLC_FAIL_DROP -/
  ⟨0x0c01284, 1, .slice, [⟨0, 32, .rc, 0x0⟩]⟩, /- SLC_FAIL_PUNT -/
  ⟨0x0c01288, 1, .slice, [⟨0, 32, .rc, 0x0⟩]⟩, /- SLC_FAIL_L2 -/
  ⟨0x0c01290, 1, .slice, [⟨0, 5, .ro, 0x0⟩, ⟨8, 8, .ro, 0x0⟩, ⟨16, 9, .ro, 0x0⟩]⟩, /- SLC_LAST_FAIL -/
  ⟨0x0c02000, 1, .slice, [⟨0, 4, .rws, 0x8⟩]⟩, /- CLS_BANK_SIZE -/
  ⟨0x0c02004, 1, .slice, [⟨0, 1, .ro, 0x0⟩, ⟨4, 3, .ro, 0x0⟩, ⟨8, 3, .ro, 0x0⟩]⟩, /- CLS_STATE -/
  ⟨0x0c02008, 1, .slice, [⟨0, 16, .ro, 0x0⟩, ⟨16, 16, .ro, 0x0⟩]⟩, /- CLS_EPOCH -/
  ⟨0x0c0200c, 1, .slice, [⟨0, 24, .ro, 0x0⟩]⟩, /- CLS_EPOCH_INFLIGHT -/
  ⟨0x0c02010, 1, .slice, [⟨0, 24, .ro, 0x0⟩]⟩, /- CLS_ACTIVE_INFLIGHT -/
  ⟨0x0c02014, 1, .slice, [⟨0, 1, .wo, 0x0⟩, ⟨1, 1, .wo, 0x0⟩]⟩, /- CLS_STAGE_CTRL -/
  ⟨0x0c02018, 1, .slice, [⟨0, 1, .wo, 0x0⟩, ⟨1, 1, .wo, 0x0⟩]⟩, /- CLS_CTRL -/
  ⟨0x0c0201c, 1, .slice, [⟨0, 16, .ro, 0x0⟩]⟩, /- CLS_EPOCH_REL -/
  ⟨0x0c02020, 1, .slice, [⟨0, 1, .wo, 0x0⟩, ⟨1, 1, .wo, 0x0⟩, ⟨3, 1, .rw, 0x0⟩]⟩, /- CLS_SWAP_CTRL -/
  ⟨0x0c02024, 1, .slice, [⟨0, 1, .ro, 0x0⟩, ⟨1, 1, .w1c, 0x0⟩, ⟨2, 1, .w1c, 0x0⟩]⟩, /- CLS_SWAP_STATUS -/
  ⟨0x0c02028, 1, .slice, [⟨0, 30, .rw, 0x0⟩]⟩, /- CLS_SWAP_TIME_NS -/
  ⟨0x0c0202c, 1, .slice, [⟨0, 32, .rw, 0x0⟩]⟩, /- CLS_SWAP_TIME_SEC_LO -/
  ⟨0x0c02030, 1, .slice, [⟨0, 16, .rw, 0x0⟩]⟩, /- CLS_SWAP_TIME_SEC_HI -/
  ⟨0x0c02034, 1, .slice, [⟨0, 30, .ro, 0x0⟩]⟩, /- CLS_LAST_SWAP_NS -/
  ⟨0x0c02038, 1, .slice, [⟨0, 18, .ro, 0x0⟩]⟩, /- CLS_RULES -/
  ⟨0x0c02040, 16, .req, [⟨0, 32, .rw, 0x0⟩]⟩, /- CLS_UPD_DATA -/
  ⟨0x0c02080, 1, .req, [⟨0, 17, .rw, 0x0⟩, ⟨24, 4, .rw, 0x1⟩]⟩, /- CLS_UPD_ADDR -/
  ⟨0x0c02084, 1, .req, [⟨0, 1, .wo, 0x0⟩]⟩, /- CLS_UPD_CTRL -/
  ⟨0x0c02088, 1, .req, [⟨0, 1, .ro, 0x0⟩, ⟨1, 1, .w1c, 0x0⟩, ⟨2, 2, .ro, 0x0⟩]⟩, /- CLS_UPD_STATUS -/
  ⟨0x0c0208c, 1, .req, [⟨0, 32, .ro, 0x0⟩]⟩, /- CLS_COMMIT -/
  ⟨0x0c02090, 1, .req, [⟨0, 30, .ro, 0x0⟩]⟩, /- CLS_COMMIT_NS -/
  ⟨0x0c02094, 1, .slice, [⟨0, 32, .ro, 0x0⟩]⟩ /- CLS_PKT_SEQ -/]

/-- Register map of SLC, part 2. -/
def regsSlcB : List RegRow := [
  ⟨0x0c020a0, 16, .slice, [⟨0, 32, .rws, 0x0⟩]⟩, /- CLS_KEY_EXT -/
  ⟨0x0c020e0, 1, .slice, [⟨0, 32, .rc, 0x0⟩]⟩, /- CLS_CLASSIFIED -/
  ⟨0x0c020e4, 1, .slice, [⟨0, 32, .rc, 0x0⟩]⟩, /- CLS_MISS_CNT -/
  ⟨0x0c020e8, 1, .slice, [⟨0, 32, .rc, 0x0⟩]⟩, /- CLS_DROP_CNT -/
  ⟨0x0c020ec, 1, .slice, [⟨0, 32, .rc, 0x0⟩]⟩, /- CLS_PUNT_CNT -/
  ⟨0x0c020f0, 1, .slice, [⟨0, 32, .rc, 0x0⟩]⟩, /- CLS_RELEASED_DROP -/
  ⟨0x0c020f4, 1, .slice, [⟨0, 32, .rc, 0x0⟩]⟩, /- CLS_XSLICE_DROP -/
  ⟨0x0c020f8, 1, .slice, [⟨0, 16, .rc, 0x0⟩]⟩, /- CLS_DEPTH_ERR -/
  ⟨0x0c020fc, 1, .slice, [⟨0, 16, .rc, 0x0⟩]⟩, /- CLS_BAD_ACTION -/
  ⟨0x0c02100, 1, .slice, [⟨0, 16, .rc, 0x0⟩]⟩ /- CLS_REFUSED -/]

/-- Register map of SLC. -/
def regsSlc : List RegRow := regsSlcA ++ regsSlcB

/-- Register map of FLW, part 1. -/
def regsFlwA : List RegRow := [
  ⟨0x1000000, 1, .req, [⟨0, 4, .rw, 0x0⟩]⟩, /- SLICE_SEL -/
  ⟨0x1000100, 1, .dev, [⟨0, 2, .rws, 0x2⟩, ⟨4, 1, .rw, 0x0⟩, ⟨5, 1, .rw, 0x1⟩, ⟨6, 1, .rw, 0x1⟩]⟩, /- FLW_CFG -/
  ⟨0x1000104, 1, .dev, [⟨0, 32, .rws, 0x1⟩]⟩, /- FLW_SALT1 -/
  ⟨0x1000108, 1, .dev, [⟨0, 32, .rws, 0x2⟩]⟩, /- FLW_SALT2 -/
  ⟨0x100010c, 1, .dev, [⟨0, 32, .rws, 0x3⟩]⟩, /- FLW_SALT3 -/
  ⟨0x1000110, 1, .dev, [⟨0, 16, .rw, 0xace1⟩]⟩, /- FLW_LFSR -/
  ⟨0x1000114, 1, .dev, [⟨0, 13, .rw, 0x1770⟩]⟩, /- FLW_DEV_BUDGET -/
  ⟨0x1000118, 1, .dev, [⟨0, 8, .rw, 0xc8⟩]⟩, /- FLW_INS_RATE -/
  ⟨0x100011c, 1, .dev, [⟨0, 8, .rw, 0x40⟩]⟩, /- FLW_SCAN_RATE -/
  ⟨0x1000120, 1, .dev, [⟨0, 12, .rws, 0x0⟩]⟩, /- FLW_NAT_BASE -/
  ⟨0x1000140, 1, .dev, [⟨0, 4, .rw, 0x0⟩]⟩, /- FLW_PROF_IDX -/
  ⟨0x1000144, 1, .prof, [⟨0, 32, .rws, 0xffffffff⟩]⟩, /- FLW_PROF_MASK_LO -/
  ⟨0x1000148, 1, .prof, [⟨0, 16, .rws, 0xffff⟩]⟩, /- FLW_PROF_MASK_HI -/
  ⟨0x100014c, 1, .prof, [⟨0, 2, .rws, 0x0⟩, ⟨4, 4, .rws, 0x0⟩, ⟨8, 1, .rws, 0x0⟩, ⟨9, 1, .rws, 0x1⟩]⟩, /- FLW_PROF_CFG -/
  ⟨0x1000150, 1, .dev, [⟨0, 32, .rws, 0x0⟩]⟩, /- FLW_CLASS_PROF -/
  ⟨0x1000154, 1, .dev, [⟨0, 8, .rw, 0x0⟩]⟩, /- FLW_CLASS_OVF -/
  ⟨0x1000180, 16, .dev, [⟨0, 24, .rws, 0x7530⟩]⟩, /- FLW_IDLE_T -/
  ⟨0x1000200, 12, .req, [⟨0, 32, .rw, 0x0⟩]⟩, /- FLW_OP_KEY -/
  ⟨0x1000240, 16, .req, [⟨0, 32, .rw, 0x0⟩]⟩, /- FLW_OP_DATA -/
  ⟨0x1000280, 1, .req, [⟨0, 1, .wo, 0x0⟩, ⟨1, 3, .rw, 0x0⟩, ⟨4, 4, .rw, 0x0⟩, ⟨8, 1, .rw, 0x0⟩, ⟨9, 4, .rw, 0x0⟩, ⟨13, 1, .rw, 0x0⟩, ⟨16, 16, .rw, 0x0⟩]⟩, /- FLW_OP_CTRL -/
  ⟨0x1000284, 1, .req, [⟨0, 26, .rw, 0x0⟩]⟩, /- FLW_OP_SLOT -/
  ⟨0x1000288, 1, .req, [⟨0, 1, .ro, 0x0⟩, ⟨1, 1, .w1c, 0x0⟩, ⟨2, 3, .ro, 0x0⟩]⟩, /- FLW_OP_STATUS -/
  ⟨0x100028c, 1, .req, [⟨0, 26, .ro, 0x0⟩]⟩, /- FLW_OP_RSLOT -/
  ⟨0x10002c8, 1, .req, [⟨0, 16, .rc, 0x0⟩]⟩, /- FLW_OP_REFUSED -/
  ⟨0x1000300, 1, .dev, [⟨0, 27, .ro, 0x0⟩]⟩, /- FLW_OCCUPANCY -/
  ⟨0x1000304, 1, .dev, [⟨0, 32, .rc, 0x0⟩]⟩, /- FLW_INSERT_CNT -/
  ⟨0x1000308, 1, .dev, [⟨0, 32, .rc, 0x0⟩]⟩, /- FLW_EVICT_CNT -/
  ⟨0x100030c, 1, .dev, [⟨0, 32, .rc, 0x0⟩]⟩, /- FLW_AGED_CNT -/
  ⟨0x1000310, 1, .dev, [⟨0, 32, .rc, 0x0⟩]⟩, /- FLW_REVIVE_CNT -/
  ⟨0x1000314, 1, .dev, [⟨0, 32, .rc, 0x0⟩]⟩, /- FLW_INVALID_CNT -/
  ⟨0x1000318, 1, .dev, [⟨0, 32, .rc, 0x0⟩]⟩, /- FLW_WB_CNT -/
  ⟨0x100031c, 1, .dev, [⟨0, 32, .rc, 0x0⟩]⟩, /- FLW_EXP_CNT -/
  ⟨0x1000320, 1, .dev, [⟨0, 32, .rc, 0x0⟩]⟩, /- FLW_EXP_DROP -/
  ⟨0x1000324, 1, .dev, [⟨0, 20, .ro, 0x0⟩]⟩, /- FLW_EXP_FILL -/
  ⟨0x1000328, 1, .dev, [⟨0, 32, .rc, 0x0⟩]⟩, /- FLW_NOTICE_DROP -/
  ⟨0x1001000, 1, .slice, [⟨0, 10, .rw, 0x177⟩]⟩, /- FLW_SLICE_BUDGET -/
  ⟨0x1001004, 1, .slice, [⟨0, 32, .rc, 0x0⟩]⟩, /- FLW_LOOKUPS -/
  ⟨0x1001008, 1, .slice, [⟨0, 32, .rc, 0x0⟩]⟩, /- FLW_HITS -/
  ⟨0x100100c, 1, .slice, [⟨0, 32, .rc, 0x0⟩]⟩, /- FLW_MISS_LOOKUPS -/
  ⟨0x1001010, 1, .slice, [⟨0, 32, .rc, 0x0⟩]⟩ /- FLW_MISS_READS -/]

/-- Register map of FLW, part 2. -/
def regsFlwB : List RegRow := [
  ⟨0x1001014, 1, .slice, [⟨0, 32, .rc, 0x0⟩]⟩, /- FLW_MISS_WRITES -/
  ⟨0x1001018, 1, .slice, [⟨0, 32, .rc, 0x0⟩]⟩, /- FLW_OVF_BUDGET -/
  ⟨0x100101c, 1, .slice, [⟨0, 32, .rc, 0x0⟩]⟩, /- FLW_OVF_LANE -/
  ⟨0x1001020, 1, .slice, [⟨0, 32, .rc, 0x0⟩]⟩, /- FLW_OVF_INSRATE -/
  ⟨0x1001024, 1, .slice, [⟨0, 32, .rc, 0x0⟩]⟩, /- FLW_OVF_FULL -/
  ⟨0x1001028, 1, .slice, [⟨0, 32, .rc, 0x0⟩]⟩, /- FLW_OVF_DROP -/
  ⟨0x100102c, 1, .slice, [⟨0, 10, .rc, 0x0⟩]⟩, /- FLW_LANE_PEAK -/
  ⟨0x1001030, 1, .slice, [⟨0, 32, .rc, 0x0⟩]⟩ /- FLW_NAT_SKIP -/]

/-- Register map of FLW. -/
def regsFlw : List RegRow := regsFlwA ++ regsFlwB

/-- Register map of FWD, part 1. -/
def regsFwdA : List RegRow := [
  ⟨0x1400000, 1, .req, [⟨0, 4, .rw, 0x0⟩]⟩, /- SLICE_SEL -/
  ⟨0x1400100, 1, .dev, [⟨0, 1, .rw, 0x0⟩, ⟨1, 1, .rw, 0x0⟩, ⟨2, 1, .rw, 0x1⟩]⟩, /- FWD_CFG -/
  ⟨0x1400104, 1, .dev, [⟨0, 32, .rw, 0x11⟩]⟩, /- FWD_ECMP_SALT -/
  ⟨0x1400108, 1, .dev, [⟨0, 32, .rw, 0x22⟩]⟩, /- FWD_LAG_SALT -/
  ⟨0x140010c, 1, .dev, [⟨0, 32, .rws, 0x31⟩]⟩, /- FWD_L2_SALT1 -/
  ⟨0x1400110, 1, .dev, [⟨0, 32, .rws, 0x32⟩]⟩, /- FWD_L2_SALT2 -/
  ⟨0x1400114, 1, .dev, [⟨0, 13, .rw, 0x186a⟩]⟩, /- FWD_LEAF_DEV_BUDGET -/
  ⟨0x1400118, 1, .dev, [⟨0, 16, .rw, 0x12c⟩]⟩, /- FWD_L2_AGE -/
  ⟨0x140011c, 1, .dev, [⟨0, 1, .rw, 0x0⟩, ⟨1, 1, .rw, 0x1⟩, ⟨8, 12, .rw, 0x3e8⟩]⟩, /- FWD_LEARN_CFG -/
  ⟨0x1400120, 1, .dev, [⟨0, 16, .rw, 0xace1⟩]⟩, /- FWD_L2_LFSR -/
  ⟨0x1400124, 1, .dev, [⟨0, 32, .rw, 0x76543210⟩]⟩, /- FWD_PCP_MAP -/
  ⟨0x1400128, 8, .dev, [⟨0, 32, .rw, 0x0⟩]⟩, /- FWD_DSCP_MAP -/
  ⟨0x1400148, 1, .dev, [⟨0, 5, .rws, 0x10⟩, ⟨8, 5, .rws, 0x8⟩]⟩, /- FWD_SRAM_SPLIT -/
  ⟨0x1400180, 1, .dev, [⟨0, 32, .rw, 0x0⟩]⟩, ⟨0x1400184, 1, .dev, [⟨0, 16, .rw, 0x0⟩, ⟨16, 1, .rw, 0x0⟩]⟩, /- FWD_RMAC0 -/
  ⟨0x1400188, 1, .dev, [⟨0, 32, .rw, 0x0⟩]⟩, ⟨0x140018c, 1, .dev, [⟨0, 16, .rw, 0x0⟩, ⟨16, 1, .rw, 0x0⟩]⟩, /- FWD_RMAC1 -/
  ⟨0x1400190, 1, .dev, [⟨0, 32, .rw, 0x0⟩]⟩, ⟨0x1400194, 1, .dev, [⟨0, 16, .rw, 0x0⟩, ⟨16, 1, .rw, 0x0⟩]⟩, /- FWD_RMAC2 -/
  ⟨0x1400198, 1, .dev, [⟨0, 32, .rw, 0x0⟩]⟩, ⟨0x140019c, 1, .dev, [⟨0, 16, .rw, 0x0⟩, ⟨16, 1, .rw, 0x0⟩]⟩, /- FWD_RMAC3 -/
  ⟨0x14001a0, 1, .dev, [⟨0, 32, .rw, 0x0⟩]⟩, ⟨0x14001a4, 1, .dev, [⟨0, 16, .rw, 0x0⟩, ⟨16, 1, .rw, 0x0⟩]⟩, /- FWD_RMAC4 -/
  ⟨0x14001a8, 1, .dev, [⟨0, 32, .rw, 0x0⟩]⟩, ⟨0x14001ac, 1, .dev, [⟨0, 16, .rw, 0x0⟩, ⟨16, 1, .rw, 0x0⟩]⟩, /- FWD_RMAC5 -/
  ⟨0x14001b0, 1, .dev, [⟨0, 32, .rw, 0x0⟩]⟩, ⟨0x14001b4, 1, .dev, [⟨0, 16, .rw, 0x0⟩, ⟨16, 1, .rw, 0x0⟩]⟩, /- FWD_RMAC6 -/
  ⟨0x14001b8, 1, .dev, [⟨0, 32, .rw, 0x0⟩]⟩, ⟨0x14001bc, 1, .dev, [⟨0, 16, .rw, 0x0⟩, ⟨16, 1, .rw, 0x0⟩]⟩, /- FWD_RMAC7 -/
  ⟨0x14001c0, 1, .dev, [⟨0, 32, .rw, 0x0⟩]⟩, ⟨0x14001c4, 1, .dev, [⟨0, 16, .rw, 0x0⟩, ⟨16, 1, .rw, 0x0⟩]⟩, /- FWD_RMAC8 -/
  ⟨0x14001c8, 1, .dev, [⟨0, 32, .rw, 0x0⟩]⟩, ⟨0x14001cc, 1, .dev, [⟨0, 16, .rw, 0x0⟩, ⟨16, 1, .rw, 0x0⟩]⟩, /- FWD_RMAC9 -/
  ⟨0x14001d0, 1, .dev, [⟨0, 32, .rw, 0x0⟩]⟩, ⟨0x14001d4, 1, .dev, [⟨0, 16, .rw, 0x0⟩, ⟨16, 1, .rw, 0x0⟩]⟩, /- FWD_RMAC10 -/
  ⟨0x14001d8, 1, .dev, [⟨0, 32, .rw, 0x0⟩]⟩, ⟨0x14001dc, 1, .dev, [⟨0, 16, .rw, 0x0⟩, ⟨16, 1, .rw, 0x0⟩]⟩, /- FWD_RMAC11 -/
  ⟨0x14001e0, 1, .dev, [⟨0, 32, .rw, 0x0⟩]⟩, ⟨0x14001e4, 1, .dev, [⟨0, 16, .rw, 0x0⟩, ⟨16, 1, .rw, 0x0⟩]⟩, /- FWD_RMAC12 -/
  ⟨0x14001e8, 1, .dev, [⟨0, 32, .rw, 0x0⟩]⟩, ⟨0x14001ec, 1, .dev, [⟨0, 16, .rw, 0x0⟩, ⟨16, 1, .rw, 0x0⟩]⟩, /- FWD_RMAC13 -/
  ⟨0x14001f0, 1, .dev, [⟨0, 32, .rw, 0x0⟩]⟩, ⟨0x14001f4, 1, .dev, [⟨0, 16, .rw, 0x0⟩, ⟨16, 1, .rw, 0x0⟩]⟩, /- FWD_RMAC14 -/
  ⟨0x14001f8, 1, .dev, [⟨0, 32, .rw, 0x0⟩]⟩, ⟨0x14001fc, 1, .dev, [⟨0, 16, .rw, 0x0⟩, ⟨16, 1, .rw, 0x0⟩]⟩, /- FWD_RMAC15 -/
  ⟨0x1400200, 1, .req, [⟨0, 32, .rw, 0x0⟩]⟩, /- FWD_L2_OP_KEY_LO -/
  ⟨0x1400204, 1, .req, [⟨0, 16, .rw, 0x0⟩, ⟨16, 12, .rw, 0x0⟩]⟩, /- FWD_L2_OP_KEY_HI -/
  ⟨0x1400208, 1, .req, [⟨0, 32, .rw, 0x0⟩]⟩, /- FWD_L2_OP_DEST -/
  ⟨0x140020c, 1, .req, [⟨0, 1, .wo, 0x0⟩, ⟨1, 3, .rw, 0x0⟩, ⟨4, 1, .rw, 0x0⟩, ⟨5, 1, .rw, 0x0⟩, ⟨6, 1, .rw, 0x0⟩]⟩, /- FWD_L2_OP_CTRL -/
  ⟨0x1400210, 1, .req, [⟨0, 1, .ro, 0x0⟩, ⟨1, 1, .w1c, 0x0⟩, ⟨2, 2, .ro, 0x0⟩, ⟨4, 1, .ro, 0x0⟩, ⟨5, 1, .ro, 0x0⟩]⟩, /- FWD_L2_OP_STATUS -/
  ⟨0x1400214, 1, .req, [⟨0, 32, .ro, 0x0⟩]⟩, /- FWD_L2_OP_RESULT -/
  ⟨0x1400240, 4, .req, [⟨0, 32, .rw, 0x0⟩]⟩, /- FWD_LPM_OP_ADDR -/
  ⟨0x1400250, 1, .req, [⟨0, 8, .rw, 0x0⟩, ⟨8, 1, .rw, 0x0⟩, ⟨16, 12, .rw, 0x0⟩]⟩, /- FWD_LPM_OP_CFG -/
  ⟨0x1400254, 1, .req, [⟨0, 32, .rw, 0x0⟩]⟩, /- FWD_LPM_OP_DEST -/
  ⟨0x1400258, 1, .req, [⟨0, 1, .wo, 0x0⟩, ⟨1, 2, .rw, 0x0⟩]⟩, /- FWD_LPM_OP_CTRL -/
  ⟨0x140025c, 1, .req, [⟨0, 1, .ro, 0x0⟩, ⟨1, 1, .w1c, 0x0⟩, ⟨2, 2, .ro, 0x0⟩]⟩, /- FWD_LPM_OP_STATUS -/
  ⟨0x1400260, 1, .req, [⟨0, 32, .ro, 0x0⟩]⟩, /- FWD_LPM_OP_RESULT -/
  ⟨0x1400264, 1, .req, [⟨0, 8, .ro, 0x0⟩]⟩, /- FWD_LPM_OP_RLEN -/
  ⟨0x1400280, 1, .req, [⟨0, 20, .rw, 0x0⟩]⟩, /- FWD_MPLS_OP_LABEL -/
  ⟨0x1400284, 4, .req, [⟨0, 32, .rw, 0x0⟩]⟩, /- FWD_MPLS_OP_DATA -/
  ⟨0x1400294, 1, .req, [⟨0, 1, .wo, 0x0⟩, ⟨1, 2, .rw, 0x0⟩]⟩, /- FWD_MPLS_OP_CTRL -/
  ⟨0x1400298, 1, .req, [⟨0, 1, .ro, 0x0⟩, ⟨1, 1, .w1c, 0x0⟩, ⟨2, 1, .ro, 0x0⟩]⟩, /- FWD_MPLS_OP_STATUS -/
  ⟨0x140029c, 1, .req, [⟨0, 16, .rc, 0x0⟩]⟩, /- FWD_OP_REFUSED -/
  ⟨0x1400300, 1, .dev, [⟨0, 22, .ro, 0x0⟩]⟩, /- FWD_LPM_PREFIXES -/
  ⟨0x1400304, 1, .dev, [⟨0, 21, .ro, 0x0⟩]⟩, /- FWD_LPM_TOP_FREE -/
  ⟨0x1400308, 1, .dev, [⟨0, 21, .ro, 0x0⟩]⟩, /- FWD_MPLS_LABELS -/
  ⟨0x1400400, 16, .dev, [⟨0, 32, .rc, 0x0⟩]⟩, /- FWD_MIR_COPY -/
  ⟨0x1400440, 16, .dev, [⟨0, 32, .rc, 0x0⟩]⟩, /- FWD_MIR_REF -/
  ⟨0x1401000, 1, .slice, [⟨0, 10, .rw, 0x186⟩]⟩, /- FWD_LEAF_BUDGET -/
  ⟨0x1401004, 1, .slice, [⟨0, 17, .ro, 0x0⟩]⟩, /- FWD_L2_ENTRIES -/
  ⟨0x1401008, 1, .slice, [⟨0, 32, .rc, 0x0⟩]⟩ /- FWD_L2_DA_MISS -/]

/-- Register map of FWD, part 2. -/
def regsFwdB : List RegRow := [
  ⟨0x140100c, 1, .slice, [⟨0, 32, .rc, 0x0⟩]⟩, /- FWD_LEARN_POSTED -/
  ⟨0x1401010, 1, .slice, [⟨0, 32, .rc, 0x0⟩]⟩, /- FWD_LEARN_DROP -/
  ⟨0x1401014, 1, .slice, [⟨0, 32, .rc, 0x0⟩]⟩, /- FWD_L2_STATIC_MOVE -/
  ⟨0x1401018, 1, .slice, [⟨0, 32, .rc, 0x0⟩]⟩, /- FWD_L2_AGED -/
  ⟨0x140101c, 1, .slice, [⟨0, 32, .rc, 0x0⟩]⟩, /- FWD_L2_EVICT -/
  ⟨0x1401020, 1, .slice, [⟨0, 32, .rc, 0x0⟩]⟩, /- FWD_LEAF_READS -/
  ⟨0x1401024, 1, .slice, [⟨0, 32, .rc, 0x0⟩]⟩, /- FWD_LEAF_OVF_DROP -/
  ⟨0x1401028, 1, .slice, [⟨0, 32, .rc, 0x0⟩]⟩, /- FWD_LEAF_OVF_SHORT -/
  ⟨0x140102c, 1, .slice, [⟨0, 32, .rc, 0x0⟩]⟩, /- FWD_TTL_PUNT -/
  ⟨0x1401030, 1, .slice, [⟨0, 32, .rc, 0x0⟩]⟩, /- FWD_DEST_DROP -/
  ⟨0x1401034, 1, .slice, [⟨0, 32, .rc, 0x0⟩]⟩ /- FWD_MPLS_MISS -/]

/-- Register map of FWD. -/
def regsFwd : List RegRow := regsFwdA ++ regsFwdB

/-- Register map of XPF. -/
def regsXpf : List RegRow := [
  ⟨0x1800000, 1, .req, [⟨0, 4, .rw, 0x0⟩]⟩, /- SLICE_SEL -/
  ⟨0x1801000, 1, .slice, [⟨0, 1, .rws, 0x1⟩]⟩, /- XPF_CFG -/
  ⟨0x1801004, 1, .slice, [⟨0, 12, .rws, 0x300⟩]⟩, /- XPF_MC_CAP -/
  ⟨0x1801008, 1, .slice, [⟨0, 10, .rw, 0xa⟩]⟩, /- XPF_MC_CFG -/
  ⟨0x180100c, 1, .req, [⟨0, 4, .rw, 0x0⟩]⟩, /- XPF_XP_IDX -/
  ⟨0x1801010, 1, .xp, [⟨0, 12, .ro, 0x0⟩, ⟨16, 12, .ro, 0x0⟩]⟩, /- XPF_XP_USED -/
  ⟨0x1801014, 1, .xp, [⟨0, 12, .rc, 0x0⟩]⟩, /- XPF_XP_PEAK -/
  ⟨0x1801018, 1, .xp, [⟨0, 32, .rc, 0x0⟩]⟩, /- XPF_XP_REFUSED -/
  ⟨0x180101c, 1, .xp, [⟨0, 32, .rc, 0x0⟩]⟩, /- XPF_XP_MC_REFUSED -/
  ⟨0x1801020, 1, .slice, [⟨0, 16, .ro, 0x0⟩]⟩, /- XPF_COL_USED -/
  ⟨0x1801024, 1, .slice, [⟨0, 18, .ro, 0x0⟩]⟩, /- XPF_WRQ_BYTES -/
  ⟨0x1801028, 1, .slice, [⟨0, 18, .rc, 0x0⟩]⟩, /- XPF_WRQ_PEAK -/
  ⟨0x180102c, 1, .slice, [⟨0, 32, .rc, 0x0⟩]⟩, /- XPF_WRQ_FULL -/
  ⟨0x1801030, 1, .slice, [⟨0, 32, .rc, 0x0⟩]⟩, /- XPF_WRQ_DROP -/
  ⟨0x1801034, 1, .slice, [⟨0, 32, .rc, 0x0⟩]⟩, /- XPF_CT_CNT -/
  ⟨0x1801038, 1, .slice, [⟨0, 32, .rc, 0x0⟩]⟩, /- XPF_SF_CNT -/
  ⟨0x180103c, 1, .slice, [⟨0, 32, .rc, 0x0⟩]⟩, /- XPF_ABORT_CNT -/
  ⟨0x1801040, 1, .slice, [⟨0, 32, .rc, 0x0⟩]⟩, /- XPF_PAR_DROP -/
  ⟨0x1801044, 1, .slice, [⟨0, 32, .rc, 0x0⟩]⟩, /- XPF_MC_PKTS -/
  ⟨0x1801048, 1, .slice, [⟨0, 32, .rc, 0x0⟩]⟩, /- XPF_MC_COPIES -/
  ⟨0x180104c, 1, .slice, [⟨0, 11, .ro, 0x0⟩]⟩, /- XPF_RES_USED -/
  ⟨0x1801050, 1, .slice, [⟨0, 11, .rc, 0x0⟩]⟩, /- XPF_RES_PEAK -/
  ⟨0x1801054, 1, .slice, [⟨0, 32, .rc, 0x0⟩]⟩, /- XPF_RES_STALL -/
  ⟨0x1801100, 32, .slice, [⟨0, 32, .rc, 0x0⟩]⟩, /- XPF_MC_RES_DROP -/
  ⟨0x1801180, 32, .slice, [⟨0, 32, .rc, 0x0⟩]⟩ /- XPF_MC_DOWN_DROP -/]

/-- Register map of TMG, part 1. -/
def regsTmgA : List RegRow := [
  ⟨0x1c00000, 1, .req, [⟨0, 16, .rw, 0x0⟩]⟩, /- QUEUE_SEL -/
  ⟨0x1c00100, 1, .dev, [⟨0, 1, .rw, 0x0⟩, ⟨1, 1, .rw, 0x0⟩]⟩, /- TMG_CFG -/
  ⟨0x1c00104, 1, .dev, [⟨0, 20, .rw, 0x3e8⟩]⟩, /- TMG_SAMPLE_PERIOD -/
  ⟨0x1c00108, 1, .dev, [⟨0, 16, .rw, 0x400⟩]⟩, /- TMG_REF_SAMPLE_N -/
  ⟨0x1c0010c, 1, .dev, [⟨0, 32, .rc, 0x0⟩]⟩, /- TMG_SAMPLE_DROP -/
  ⟨0x1c00110, 1, .dev, [⟨0, 21, .ro, 0x0⟩]⟩, /- TMG_SAMPLE_FILL -/
  ⟨0x1c00114, 1, .dev, [⟨0, 14, .rws, 0x1900⟩]⟩, /- TMG_STORE_RATE -/
  ⟨0x1c00118, 1, .dev, [⟨0, 16, .ro, 0x0⟩]⟩, /- TMG_STORE_FREE -/
  ⟨0x1c00180, 16, .dev, [⟨0, 32, .ro, 0x0⟩]⟩, /- TMG_VOID_MAP -/
  ⟨0x1c00200, 1, .req, [⟨0, 9, .rw, 0x0⟩]⟩, /- TMG_PORT_IDX -/
  ⟨0x1c00204, 1, .req, [⟨0, 3, .rw, 0x0⟩]⟩, /- TMG_CLASS_IDX -/
  ⟨0x1c00208, 1, .req, [⟨0, 20, .rw, 0x0⟩]⟩, /- TMG_POL_IDX -/
  ⟨0x1c0020c, 1, .req, [⟨0, 10, .rw, 0x0⟩]⟩, /- TMG_POLP_IDX -/
  ⟨0x1c00300, 1, .req, [⟨0, 1, .wo, 0x0⟩, ⟨1, 1, .rw, 0x0⟩, ⟨4, 10, .rw, 0x0⟩]⟩, /- TMG_POL_CTRL -/
  ⟨0x1c00304, 1, .req, [⟨0, 1, .ro, 0x0⟩, ⟨1, 1, .w1c, 0x0⟩, ⟨4, 10, .ro, 0x0⟩]⟩, /- TMG_POL_STATUS -/
  ⟨0x1c00308, 1, .req, [⟨0, 12, .ro, 0x0⟩, ⟨16, 12, .ro, 0x0⟩]⟩, /- TMG_POL_TOKENS -/
  ⟨0x1c00310, 1, .polp, [⟨0, 22, .rw, 0x0⟩]⟩, /- TMG_POLP_CIR -/
  ⟨0x1c00314, 1, .polp, [⟨0, 22, .rw, 0x0⟩]⟩, /- TMG_POLP_EIR -/
  ⟨0x1c00318, 1, .polp, [⟨0, 12, .rw, 0x0⟩, ⟨16, 12, .rw, 0x0⟩]⟩, /- TMG_POLP_BURST -/
  ⟨0x1c0031c, 1, .polp, [⟨0, 1, .rw, 0x0⟩, ⟨1, 4, .rw, 0x0⟩, ⟨5, 2, .rw, 0x0⟩, ⟨7, 3, .rw, 0x0⟩]⟩, /- TMG_POLP_CFG -/
  ⟨0x1c00320, 1, .polp, [⟨0, 32, .rc, 0x0⟩]⟩, /- TMG_POLP_GREEN -/
  ⟨0x1c00324, 1, .polp, [⟨0, 32, .rc, 0x0⟩]⟩, /- TMG_POLP_YELLOW -/
  ⟨0x1c00328, 1, .polp, [⟨0, 32, .rc, 0x0⟩]⟩, /- TMG_POLP_RED -/
  ⟨0x1c00400, 1, .tport, [⟨0, 16, .rws, 0x0⟩, ⟨16, 4, .rws, 0x0⟩]⟩, /- TMG_PORT_QCFG -/
  ⟨0x1c00404, 1, .tport, [⟨0, 24, .rw, 0x0⟩]⟩, /- TMG_PORT_HOLD_ALLOW -/
  ⟨0x1c00408, 1, .tport, [⟨0, 1, .ro, 0x0⟩, ⟨1, 1, .ro, 0x0⟩, ⟨2, 1, .ro, 0x0⟩, ⟨3, 1, .ro, 0x0⟩, ⟨4, 1, .ro, 0x0⟩, ⟨5, 1, .w1c, 0x0⟩]⟩, /- TMG_CFG_STATUS -/
  ⟨0x1c0040c, 1, .tport, [⟨0, 22, .ro, 0x0⟩]⟩, /- TMG_PORT_GSUM -/
  ⟨0x1c00410, 1, .tport, [⟨0, 22, .ro, 0x0⟩]⟩, /- TMG_PORT_RATE -/
  ⟨0x1c00414, 1, .tport, [⟨0, 16, .rc, 0x0⟩]⟩, /- TMG_PORT_HOLD_OVER -/
  ⟨0x1c00420, 1, .tport, [⟨0, 11, .rw, 0x0⟩]⟩, /- TMG_GATE_ADMIN_LEN -/
  ⟨0x1c00424, 1, .tport, [⟨0, 30, .rw, 0x0⟩]⟩, /- TMG_GATE_ADMIN_CYCLE -/
  ⟨0x1c00428, 1, .tport, [⟨0, 30, .rw, 0x0⟩]⟩, /- TMG_GATE_ADMIN_BASE_NS -/
  ⟨0x1c0042c, 1, .tport, [⟨0, 32, .rw, 0x0⟩]⟩, /- TMG_GATE_ADMIN_BASE_SEC_LO -/
  ⟨0x1c00430, 1, .tport, [⟨0, 16, .rw, 0x0⟩]⟩, /- TMG_GATE_ADMIN_BASE_SEC_HI -/
  ⟨0x1c00434, 1, .tport, [⟨0, 1, .wo, 0x0⟩, ⟨1, 1, .wo, 0x0⟩]⟩, /- TMG_GATE_CTRL -/
  ⟨0x1c00438, 1, .tport, [⟨0, 1, .ro, 0x0⟩, ⟨1, 1, .ro, 0x0⟩, ⟨2, 1, .w1c, 0x0⟩, ⟨8, 8, .ro, 0x0⟩]⟩, /- TMG_GATE_STATUS -/
  ⟨0x1c0043c, 1, .tport, [⟨0, 30, .ro, 0x0⟩]⟩, /- TMG_GATE_CHANGE_NS -/
  ⟨0x1c00440, 1, .tport, [⟨0, 32, .ro, 0x0⟩]⟩, /- TMG_GATE_CHANGE_SEC_LO -/
  ⟨0x1c00444, 1, .tport, [⟨0, 16, .ro, 0x0⟩]⟩, /- TMG_GATE_CHANGE_SEC_HI -/
  ⟨0x1c00448, 1, .tport, [⟨0, 11, .ro, 0x0⟩]⟩ /- TMG_GATE_OPER_LEN -/]

/-- Register map of TMG, part 2. -/
def regsTmgB : List RegRow := [
  ⟨0x1c0044c, 1, .tport, [⟨0, 30, .ro, 0x0⟩]⟩, /- TMG_GATE_OPER_CYCLE -/
  ⟨0x1c00450, 1, .tport, [⟨0, 16, .rc, 0x0⟩]⟩, /- TMG_GATE_REFUSED -/
  ⟨0x1c00500, 1, .tclass, [⟨0, 22, .rw, 0x0⟩]⟩, /- TMG_CLS_SHAPE_RATE -/
  ⟨0x1c00504, 1, .tclass, [⟨0, 24, .rw, 0x0⟩]⟩, /- TMG_CLS_SHAPE_BURST -/
  ⟨0x1c01000, 1, .queue, [⟨0, 1, .rw, 0x0⟩, ⟨1, 1, .rw, 0x0⟩, ⟨2, 1, .rws, 0x0⟩, ⟨3, 1, .rw, 0x0⟩]⟩, /- TMG_Q_CFG -/
  ⟨0x1c01004, 1, .queue, [⟨0, 22, .rw, 0x0⟩]⟩, /- TMG_Q_GUAR -/
  ⟨0x1c01008, 1, .queue, [⟨0, 27, .rw, 0x186a0⟩]⟩, /- TMG_Q_BOUND -/
  ⟨0x1c0100c, 1, .queue, [⟨0, 22, .rw, 0x0⟩]⟩, /- TMG_Q_SHAPE_RATE -/
  ⟨0x1c01010, 1, .queue, [⟨0, 24, .rw, 0x0⟩]⟩, /- TMG_Q_SHAPE_BURST -/
  ⟨0x1c01014, 1, .queue, [⟨0, 27, .ro, 0x0⟩]⟩, /- TMG_Q_FLOOR -/
  ⟨0x1c01018, 1, .queue, [⟨0, 22, .ro, 0x0⟩]⟩, /- TMG_Q_RATE -/
  ⟨0x1c0101c, 1, .queue, [⟨0, 32, .ro, 0x0⟩]⟩, /- TMG_Q_BACKLOG -/
  ⟨0x1c01020, 1, .queue, [⟨0, 30, .ro, 0x0⟩]⟩, /- TMG_Q_GATE_U -/
  ⟨0x1c01024, 1, .queue, [⟨0, 30, .ro, 0x0⟩]⟩, /- TMG_Q_GATE_Z -/
  ⟨0x1c01040, 1, .queue, [⟨0, 32, .rc, 0x0⟩]⟩, /- TMG_Q_ADMIT -/
  ⟨0x1c01044, 1, .queue, [⟨0, 32, .rc, 0x0⟩]⟩, /- TMG_Q_TX -/
  ⟨0x1c01048, 1, .queue, [⟨0, 32, .rc, 0x0⟩]⟩, /- TMG_Q_REF_DELAY -/
  ⟨0x1c0104c, 1, .queue, [⟨0, 32, .rc, 0x0⟩]⟩, /- TMG_Q_REF_XP -/
  ⟨0x1c01050, 1, .queue, [⟨0, 32, .rc, 0x0⟩]⟩, /- TMG_Q_REF_WRQ -/
  ⟨0x1c01054, 1, .queue, [⟨0, 32, .rc, 0x0⟩]⟩, /- TMG_Q_REF_STORE -/
  ⟨0x1c01058, 1, .queue, [⟨0, 32, .rc, 0x0⟩]⟩, /- TMG_Q_REF_DOWN -/
  ⟨0x1c0105c, 1, .queue, [⟨0, 32, .rc, 0x0⟩]⟩, /- TMG_Q_REF_NORATE -/
  ⟨0x1c01060, 1, .queue, [⟨0, 32, .rc, 0x0⟩]⟩, /- TMG_Q_EXPIRED -/
  ⟨0x1c01064, 1, .queue, [⟨0, 32, .rc, 0x0⟩]⟩, /- TMG_Q_DISCARD -/
  ⟨0x1c01068, 1, .queue, [⟨0, 27, .rc, 0x0⟩]⟩, /- TMG_Q_SOJ_MAX -/
  ⟨0x1c0106c, 1, .queue, [⟨0, 32, .rc, 0x0⟩]⟩ /- TMG_Q_REF_LONG -/]

/-- Register map of TMG. -/
def regsTmg : List RegRow := regsTmgA ++ regsTmgB

/-- Register map of NTU, part 1. -/
def regsNtuA : List RegRow := [
  ⟨0x2000000, 1, .req, [⟨0, 9, .rw, 0x0⟩]⟩, /- PORT_SEL -/
  ⟨0x2000100, 1, .dev, [⟨0, 1, .wo, 0x0⟩, ⟨1, 1, .wo, 0x0⟩]⟩, /- NTU_CTRL -/
  ⟨0x2000104, 1, .dev, [⟨0, 1, .ro, 0x0⟩, ⟨1, 1, .w1c, 0x0⟩, ⟨2, 1, .ro, 0x0⟩, ⟨3, 1, .w1c, 0x0⟩]⟩, /- NTU_STATUS -/
  ⟨0x2000108, 1, .dev, [⟨0, 24, .rw, 0x3e8⟩]⟩, /- NTU_JUMP_LIMIT -/
  ⟨0x200010c, 1, .dev, [⟨0, 32, .rw, 0x55555555⟩]⟩, /- NTU_INCR_LO -/
  ⟨0x2000110, 1, .dev, [⟨0, 8, .rw, 0x55⟩]⟩, /- NTU_INCR_HI -/
  ⟨0x2000114, 1, .dev, [⟨0, 32, .rw, 0x0⟩]⟩, /- NTU_ADJ_LO -/
  ⟨0x2000118, 1, .dev, [⟨0, 32, .rw, 0x0⟩]⟩, /- NTU_ADJ_HI -/
  ⟨0x200011c, 1, .dev, [⟨0, 30, .rw, 0x0⟩]⟩, /- NTU_SET_NS -/
  ⟨0x2000120, 1, .dev, [⟨0, 32, .rw, 0x0⟩]⟩, /- NTU_SET_SEC_LO -/
  ⟨0x2000124, 1, .dev, [⟨0, 16, .rw, 0x0⟩]⟩, /- NTU_SET_SEC_HI -/
  ⟨0x2000128, 1, .dev, [⟨0, 30, .ro, 0x0⟩]⟩, /- NTU_NOW_NS -/
  ⟨0x200012c, 1, .dev, [⟨0, 32, .ro, 0x0⟩]⟩, /- NTU_NOW_SEC_LO -/
  ⟨0x2000130, 1, .dev, [⟨0, 16, .ro, 0x0⟩]⟩, /- NTU_NOW_SEC_HI -/
  ⟨0x2000134, 1, .dev, [⟨0, 16, .ro, 0x0⟩]⟩, /- NTU_NOW_FRAC -/
  ⟨0x2000138, 1, .dev, [⟨0, 16, .rc, 0x0⟩]⟩, /- NTU_STEP_CNT -/
  ⟨0x200013c, 1, .dev, [⟨0, 16, .rc, 0x0⟩]⟩, /- NTU_REFUSED_CNT -/
  ⟨0x2000140, 1, .dev, [⟨0, 16, .rc, 0x0⟩]⟩, /- NTU_ADJ_IGNORED -/
  ⟨0x2000150, 1, .dev, [⟨0, 1, .rw, 0x0⟩, ⟨4, 20, .rw, 0x186a0⟩]⟩, /- NTU_PPS_CFG -/
  ⟨0x2000154, 1, .dev, [⟨0, 30, .rw, 0x0⟩]⟩, /- NTU_PPS_OFFSET -/
  ⟨0x2000180, 1, .dev, [⟨0, 1, .rw, 0x0⟩]⟩, /- NTU_TS_CFG -/
  ⟨0x2000184, 1, .dev, [⟨0, 32, .rc, 0x0⟩]⟩, /- NTU_TS_DROP -/
  ⟨0x2000200, 1, .req, [⟨0, 4, .rw, 0x0⟩]⟩, /- NTU_TRIG_IDX -/
  ⟨0x2000204, 1, .req, [⟨0, 4, .rw, 0x0⟩]⟩, /- NTU_CAP_IDX -/
  ⟨0x2000300, 1, .trig, [⟨0, 1, .rw, 0x0⟩]⟩, /- NTU_TRIG_CFG -/
  ⟨0x2000304, 1, .trig, [⟨0, 30, .rw, 0x0⟩]⟩, /- NTU_TRIG_START_NS -/
  ⟨0x2000308, 1, .trig, [⟨0, 32, .rw, 0x0⟩]⟩, /- NTU_TRIG_START_SEC_LO -/
  ⟨0x200030c, 1, .trig, [⟨0, 16, .rw, 0x0⟩]⟩, /- NTU_TRIG_START_SEC_HI -/
  ⟨0x2000310, 1, .trig, [⟨0, 24, .rw, 0x64⟩]⟩, /- NTU_TRIG_WIDTH -/
  ⟨0x2000314, 1, .trig, [⟨0, 30, .rw, 0x0⟩]⟩, /- NTU_TRIG_PERIOD -/
  ⟨0x2000318, 1, .trig, [⟨0, 16, .rw, 0x0⟩]⟩, /- NTU_TRIG_COUNT -/
  ⟨0x200031c, 1, .trig, [⟨0, 1, .wo, 0x0⟩, ⟨1, 1, .wo, 0x0⟩]⟩, /- NTU_TRIG_CTRL -/
  ⟨0x2000320, 1, .trig, [⟨0, 1, .ro, 0x0⟩, ⟨1, 1, .w1c, 0x0⟩, ⟨2, 1, .w1c, 0x0⟩, ⟨3, 1, .w1c, 0x0⟩, ⟨4, 1, .ro, 0x0⟩]⟩, /- NTU_TRIG_STATUS -/
  ⟨0x2000324, 1, .trig, [⟨0, 30, .ro, 0x0⟩]⟩, /- NTU_TRIG_NEXT_NS -/
  ⟨0x2000380, 1, .cap, [⟨0, 2, .rw, 0x0⟩, ⟨2, 1, .rw, 0x0⟩]⟩, /- NTU_CAP_CFG -/
  ⟨0x2000384, 1, .cap, [⟨0, 30, .ro, 0x0⟩, ⟨31, 1, .ro, 0x0⟩]⟩, /- NTU_CAP_NS -/
  ⟨0x2000388, 1, .cap, [⟨0, 32, .ro, 0x0⟩]⟩, /- NTU_CAP_SEC_LO -/
  ⟨0x200038c, 1, .cap, [⟨0, 16, .ro, 0x0⟩]⟩, /- NTU_CAP_SEC_HI -/
  ⟨0x2000390, 1, .cap, [⟨0, 16, .ro, 0x0⟩, ⟨16, 1, .ro, 0x0⟩]⟩, /- NTU_CAP_FRAC -/
  ⟨0x2000394, 1, .cap, [⟨0, 5, .ro, 0x0⟩]⟩ /- NTU_CAP_FILL -/]

/-- Register map of NTU, part 2. -/
def regsNtuB : List RegRow := [
  ⟨0x2000398, 1, .cap, [⟨0, 16, .rc, 0x0⟩]⟩, /- NTU_CAP_OVERRUN -/
  ⟨0x200039c, 1, .cap, [⟨0, 16, .rc, 0x0⟩]⟩, /- NTU_CAP_LOST -/
  ⟨0x2001000, 1, .nport, [⟨0, 1, .rw, 0x0⟩, ⟨1, 1, .rw, 0x0⟩]⟩, /- NTU_PORT_CFG -/
  ⟨0x2001004, 1, .nport, [⟨0, 32, .rw, 0x0⟩]⟩, /- NTU_PORT_ASYM_TX -/
  ⟨0x2001008, 1, .nport, [⟨0, 32, .rw, 0x0⟩]⟩, /- NTU_PORT_ASYM_RX -/
  ⟨0x200100c, 1, .nport, [⟨0, 32, .ro, 0x0⟩]⟩, /- NTU_PORT_CORR_TX -/
  ⟨0x2001010, 1, .nport, [⟨0, 32, .ro, 0x0⟩]⟩, /- NTU_PORT_CORR_RX -/
  ⟨0x2001014, 1, .nport, [⟨0, 32, .rc, 0x0⟩]⟩, /- NTU_PORT_TS_CNT -/
  ⟨0x2001018, 1, .nport, [⟨0, 32, .rc, 0x0⟩]⟩, /- NTU_PORT_ONESTEP_CNT -/
  ⟨0x200101c, 1, .nport, [⟨0, 32, .rc, 0x0⟩]⟩ /- NTU_PORT_TS_SKIP -/]

/-- Register map of NTU. -/
def regsNtu : List RegRow := regsNtuA ++ regsNtuB

/-- Register map of CKU. -/
def regsCku : List RegRow := [
  ⟨0x2200000, 1, .req, [⟨0, 9, .rw, 0x0⟩]⟩, /- PORT_SEL -/
  ⟨0x2200100, 1, .dev, [⟨0, 16, .rc, 0x0⟩]⟩, /- CKU_REFUSED -/
  ⟨0x2200104, 1, .dev, [⟨0, 32, .rc, 0x0⟩]⟩, /- CKU_DIG_BYTES -/
  ⟨0x2200110, 12, .dev, [⟨0, 32, .ro, 0x0⟩]⟩, /- CKU_DIG_LAST -/
  ⟨0x2200200, 1, .req, [⟨0, 2, .rw, 0x0⟩]⟩, /- CKU_ENG_IDX -/
  ⟨0x2200300, 1, .eng, [⟨0, 1, .rw, 0x0⟩, ⟨1, 2, .rw, 0x0⟩, ⟨3, 1, .rw, 0x0⟩, ⟨4, 1, .rw, 0x0⟩, ⟨5, 1, .rw, 0x0⟩, ⟨6, 1, .rw, 0x0⟩, ⟨7, 1, .rw, 0x0⟩, ⟨8, 8, .rw, 0x0⟩, ⟨16, 9, .rw, 0x1⟩]⟩, /- CKU_ENG_CFG -/
  ⟨0x2200304, 1, .eng, [⟨0, 1, .ro, 0x0⟩, ⟨1, 1, .w1c, 0x0⟩, ⟨2, 1, .w1c, 0x0⟩, ⟨8, 8, .ro, 0x0⟩]⟩, /- CKU_ENG_STATUS -/
  ⟨0x2200308, 1, .eng, [⟨0, 32, .rc, 0x0⟩]⟩, /- CKU_ENG_BLOCKS -/
  ⟨0x220030c, 1, .eng, [⟨0, 32, .rc, 0x0⟩]⟩, /- CKU_ENG_MISMATCH -/
  ⟨0x2200310, 1, .eng, [⟨0, 16, .rc, 0x0⟩]⟩, /- CKU_ENG_SHORT -/
  ⟨0x2200314, 1, .eng, [⟨0, 16, .rc, 0x0⟩]⟩, /- CKU_ENG_ABANDON -/
  ⟨0x2200318, 1, .eng, [⟨0, 32, .ro, 0x0⟩]⟩, /- CKU_ENG_LAST_LO -/
  ⟨0x220031c, 1, .eng, [⟨0, 32, .ro, 0x0⟩]⟩, /- CKU_ENG_LAST_HI -/
  ⟨0x2201000, 1, .cport, [⟨0, 32, .rc, 0x0⟩]⟩, /- CKU_RX_FCS_ERR -/
  ⟨0x2201004, 1, .cport, [⟨0, 32, .rc, 0x0⟩]⟩ /- CKU_TX_STOMP -/]

/-- Register map of BPM. -/
def regsBpm : List RegRow := [
  ⟨0x2400000, 1, .req, [⟨0, 3, .rw, 0x0⟩]⟩, /- POOL_SEL -/
  ⟨0x2400100, 1, .dev, [⟨0, 14, .rws, 0x2404⟩]⟩, /- BPM_DRAM_BASE -/
  ⟨0x2400104, 1, .dev, [⟨0, 16, .rc, 0x0⟩]⟩, /- BPM_BAD_ADDR -/
  ⟨0x2400200, 1, .req, [⟨0, 1, .wo, 0x0⟩, ⟨1, 2, .rw, 0x0⟩]⟩, /- BPM_OP_CTRL -/
  ⟨0x2400204, 1, .req, [⟨0, 14, .rw, 0x0⟩]⟩, /- BPM_OP_SIZE -/
  ⟨0x2400208, 1, .req, [⟨0, 32, .rw, 0x0⟩]⟩, /- BPM_OP_ADDR -/
  ⟨0x240020c, 1, .req, [⟨0, 10, .rw, 0x0⟩]⟩, /- BPM_OP_OWNER -/
  ⟨0x2400210, 1, .req, [⟨0, 1, .ro, 0x0⟩, ⟨1, 1, .w1c, 0x0⟩, ⟨2, 2, .ro, 0x0⟩]⟩, /- BPM_OP_STATUS -/
  ⟨0x2400214, 1, .req, [⟨0, 16, .rc, 0x0⟩]⟩, /- BPM_OP_REFUSED -/
  ⟨0x2401000, 1, .pool, [⟨0, 1, .rw, 0x0⟩]⟩, /- BPM_POOL_CFG -/
  ⟨0x2401004, 1, .pool, [⟨0, 18, .ro, 0x0⟩]⟩, /- BPM_POOL_SRAM -/
  ⟨0x2401008, 1, .pool, [⟨0, 16, .rws, 0x0⟩]⟩, /- BPM_POOL_DRAM -/
  ⟨0x240100c, 1, .pool, [⟨0, 18, .ro, 0x0⟩]⟩, /- BPM_POOL_FREE -/
  ⟨0x2401010, 1, .pool, [⟨0, 18, .rw, 0x0⟩]⟩, /- BPM_POOL_LOW -/
  ⟨0x2401014, 1, .pool, [⟨0, 18, .rw, 0x1⟩]⟩, /- BPM_POOL_HIGH -/
  ⟨0x2401018, 1, .pool, [⟨0, 1, .ro, 0x0⟩]⟩, /- BPM_POOL_STATUS -/
  ⟨0x240101c, 1, .pool, [⟨0, 18, .rc, 0x0⟩]⟩, /- BPM_POOL_MIN -/
  ⟨0x2401020, 1, .pool, [⟨0, 32, .rc, 0x0⟩]⟩, /- BPM_GETS -/
  ⟨0x2401024, 1, .pool, [⟨0, 32, .rc, 0x0⟩]⟩, /- BPM_PUTS -/
  ⟨0x2401028, 1, .pool, [⟨0, 32, .rc, 0x0⟩]⟩, /- BPM_POOL_EMPTY -/
  ⟨0x240102c, 1, .pool, [⟨0, 16, .rc, 0x0⟩]⟩, /- BPM_NOT_OWNER -/
  ⟨0x2401030, 1, .pool, [⟨0, 16, .rc, 0x0⟩]⟩, /- BPM_DOUBLE_FREE -/
  ⟨0x2401034, 1, .pool, [⟨0, 16, .ro, 0x0⟩]⟩, /- BPM_POOL_QUAR -/
  ⟨0x2401038, 1, .pool, [⟨0, 8, .rws, 0x10⟩]⟩ /- BPM_POOL_SHARE -/]

/-- Register map of DRV. -/
def regsDrv : List RegRow := [
  ⟨0x2600000, 1, .req, [⟨0, 8, .rw, 0x0⟩]⟩, /- THREAD_SEL -/
  ⟨0x2600100, 1, .req, [⟨0, 8, .rw, 0x0⟩]⟩, /- DRV_CHAN_IDX -/
  ⟨0x2600104, 1, .chan, [⟨0, 1, .rw, 0x0⟩, ⟨1, 3, .rw, 0x0⟩, ⟨4, 4, .rw, 0x0⟩, ⟨14, 14, .rw, 0x0⟩]⟩, /- DRV_CHAN_CFG -/
  ⟨0x2600108, 1, .chan, [⟨0, 13, .ro, 0x0⟩, ⟨16, 1, .ro, 0x0⟩]⟩, /- DRV_CHAN_STATUS -/
  ⟨0x260010c, 1, .chan, [⟨0, 13, .rc, 0x0⟩]⟩, /- DRV_CHAN_PEAK -/
  ⟨0x2600110, 1, .chan, [⟨0, 32, .rc, 0x0⟩]⟩, /- DRV_CHAN_FULL_CNT -/
  ⟨0x2600114, 1, .chan, [⟨0, 1, .wo, 0x0⟩]⟩, /- DRV_CHAN_FLUSH -/
  ⟨0x2600118, 1, .dev, [⟨0, 16, .rc, 0x0⟩]⟩, /- DRV_REFUSED -/
  ⟨0x2600140, 16, .dev, [⟨0, 32, .rc, 0x0⟩]⟩, /- DRV_INJ_DROP -/
  ⟨0x2600800, 1, .dcluster, [⟨0, 24, .rw, 0x10000⟩]⟩, /- DRV_CL_STALL_LIMIT -/
  ⟨0x2600804, 1, .dcluster, [⟨0, 5, .rw, 0x0⟩]⟩, /- DRV_CL_STALL_WAKE -/
  ⟨0x2600808, 1, .dcluster, [⟨0, 1, .w1c, 0x0⟩, ⟨1, 1, .ro, 0x0⟩, ⟨8, 6, .ro, 0x0⟩]⟩, /- DRV_CL_STATUS -/
  ⟨0x260080c, 1, .dcluster, [⟨0, 5, .rw, 0x14⟩]⟩, /- DRV_CL_DRAM_RATE -/
  ⟨0x2600810, 1, .dcluster, [⟨0, 16, .rc, 0x0⟩]⟩, /- DRV_CL_STALL_CNT -/
  ⟨0x2600814, 1, .dcluster, [⟨0, 32, .rc, 0x0⟩]⟩, /- DRV_CL_FAULT_CNT -/
  ⟨0x2601000, 1, .thread, [⟨0, 1, .rw, 0x0⟩, ⟨1, 1, .rw, 0x0⟩, ⟨2, 1, .rw, 0x0⟩, ⟨3, 1, .rw, 0x0⟩, ⟨8, 8, .rw, 0x0⟩]⟩, /- THREAD_CFG -/
  ⟨0x2601004, 1, .thread, [⟨0, 32, .rw, 0x0⟩]⟩, /- THREAD_ENTRY -/
  ⟨0x2601008, 1, .thread, [⟨0, 3, .ro, 0x0⟩, ⟨3, 1, .ro, 0x0⟩, ⟨4, 1, .ro, 0x0⟩, ⟨5, 1, .ro, 0x0⟩, ⟨6, 1, .ro, 0x0⟩]⟩, /- THREAD_STATUS -/
  ⟨0x260100c, 1, .thread, [⟨0, 32, .ro, 0x0⟩]⟩, /- THREAD_PC -/
  ⟨0x2601010, 1, .thread, [⟨0, 9, .ro, 0x0⟩]⟩, /- THREAD_FAULT_CODE -/
  ⟨0x2601014, 1, .thread, [⟨0, 32, .rw, 0x0⟩]⟩, /- THREAD_FAULT_PC -/
  ⟨0x2601018, 1, .thread, [⟨0, 32, .ro, 0x0⟩]⟩, /- THREAD_FAULT_ADDR -/
  ⟨0x260101c, 1, .thread, [⟨0, 30, .rw, 0x0⟩]⟩, /- THREAD_TCMP_NS -/
  ⟨0x2601020, 1, .thread, [⟨0, 32, .rw, 0x0⟩]⟩, /- THREAD_TCMP_SEC -/
  ⟨0x2601024, 1, .thread, [⟨0, 32, .rw, 0x0⟩]⟩, /- THREAD_HANDLER -/
  ⟨0x2601028, 1, .thread, [⟨0, 32, .rw, 0xffffffff⟩]⟩, /- THREAD_WMASK -/
  ⟨0x260102c, 1, .thread, [⟨0, 16, .rc, 0x0⟩]⟩, /- THREAD_FAULT_CNT -/
  ⟨0x2601030, 1, .thread, [⟨0, 1, .wo, 0x0⟩]⟩, /- THREAD_CTRL -/
  ⟨0x2601040, 1, .thread, [⟨0, 1, .wo, 0x0⟩, ⟨1, 1, .wo, 0x0⟩, ⟨2, 1, .wo, 0x0⟩, ⟨3, 1, .wo, 0x0⟩, ⟨8, 1, .rw, 0x0⟩]⟩, /- DBG_CTRL -/
  ⟨0x2601044, 1, .thread, [⟨0, 1, .ro, 0x0⟩, ⟨1, 3, .ro, 0x0⟩]⟩, /- DBG_STATUS -/
  ⟨0x2601048, 1, .req, [⟨0, 5, .rw, 0x0⟩]⟩, /- DBG_GPR_IDX -/
  ⟨0x260104c, 1, .thread, [⟨0, 32, .rw, 0x0⟩]⟩, /- DBG_GPR -/
  ⟨0x2601050, 1, .thread, [⟨0, 32, .rw, 0x0⟩]⟩, /- DBG_PC -/
  ⟨0x2601054, 1, .thread, [⟨0, 1, .rw, 0x0⟩, ⟨2, 30, .rw, 0x0⟩]⟩, /- DBG_BP -/
  ⟨0x2601058, 1, .req, [⟨0, 4, .rw, 0x0⟩]⟩, /- DBG_STAGE_IDX -/
  ⟨0x260105c, 1, .thread, [⟨0, 32, .ro, 0x0⟩]⟩ /- DBG_STAGE -/]

/-- Register map of STB. -/
def regsStb : List RegRow := [
  ⟨0x2800000, 1, .req, [⟨0, 3, .rw, 0x0⟩]⟩, /- CLUSTER_SEL -/
  ⟨0x2800100, 1, .dev, [⟨0, 17, .rws, 0x3e8⟩]⟩, /- STB_CFG -/
  ⟨0x2800104, 1, .dev, [⟨0, 14, .rws, 0x2400⟩]⟩, /- STB_STORE_BASE -/
  ⟨0x2800108, 1, .dev, [⟨0, 13, .ro, 0x1000⟩]⟩, /- STB_FREE_CNT -/
  ⟨0x280010c, 1, .dev, [⟨0, 13, .ro, 0x0⟩]⟩, /- STB_READY_CNT -/
  ⟨0x2800110, 1, .dev, [⟨0, 13, .ro, 0x0⟩]⟩, /- STB_DELAYED_CNT -/
  ⟨0x2800114, 1, .dev, [⟨0, 13, .ro, 0x0⟩]⟩, /- STB_HANDED_CNT -/
  ⟨0x2800118, 1, .dev, [⟨0, 32, .ro, 0x0⟩]⟩, /- STB_TICK_NOW -/
  ⟨0x280011c, 1, .dev, [⟨0, 16, .rw, 0x3e8⟩]⟩, /- STB_STUCK_US -/
  ⟨0x2800120, 1, .dev, [⟨0, 16, .rc, 0x0⟩]⟩, /- STB_STUCK_CNT -/
  ⟨0x2800200, 1, .req, [⟨0, 4, .rw, 0x0⟩]⟩, /- STB_KIND_IDX -/
  ⟨0x2800204, 1, .req, [⟨0, 8, .rw, 0x0⟩]⟩, /- STB_GROUP_IDX -/
  ⟨0x2800300, 1, .kind, [⟨0, 6, .rws, 0x0⟩, ⟨8, 8, .rws, 0x1⟩, ⟨16, 1, .rws, 0x0⟩, ⟨17, 1, .rws, 0x0⟩, ⟨18, 3, .rws, 0x0⟩, ⟨24, 8, .rws, 0x0⟩]⟩, /- STB_ROUTE -/
  ⟨0x2800304, 1, .kind, [⟨0, 13, .rws, 0x1000⟩]⟩, /- STB_ROUTE_QUOTA -/
  ⟨0x2800308, 1, .kind, [⟨0, 32, .rc, 0x0⟩]⟩, /- STB_KIND_POSTED -/
  ⟨0x280030c, 1, .kind, [⟨0, 32, .rc, 0x0⟩]⟩, /- STB_KIND_DROP -/
  ⟨0x2800310, 1, .kind, [⟨0, 32, .rc, 0x0⟩]⟩, /- STB_KIND_NOBUF -/
  ⟨0x2800400, 1, .group, [⟨0, 16, .ro, 0x0⟩]⟩, /- STB_GROUP_NEXT -/
  ⟨0x2800404, 1, .group, [⟨0, 16, .ro, 0x0⟩]⟩, /- STB_GROUP_REL -/
  ⟨0x2800408, 1, .group, [⟨0, 13, .ro, 0x0⟩, ⟨16, 1, .w1c, 0x0⟩]⟩, /- STB_GROUP_STATUS -/
  ⟨0x280040c, 1, .group, [⟨0, 32, .rc, 0x0⟩]⟩, /- STB_GROUP_VOID -/
  ⟨0x2800410, 1, .group, [⟨0, 32, .rc, 0x0⟩]⟩, /- STB_GROUP_RELEASED -/
  ⟨0x2800500, 16, .req, [⟨0, 32, .rw, 0x0⟩]⟩, /- STB_POST_DATA -/
  ⟨0x2800540, 1, .req, [⟨0, 1, .wo, 0x0⟩, ⟨1, 2, .rw, 0x0⟩, ⟨8, 24, .rw, 0x0⟩]⟩, /- STB_POST_CTRL -/
  ⟨0x2800544, 1, .req, [⟨0, 16, .rw, 0x0⟩]⟩, /- STB_POST_ARG -/
  ⟨0x2800548, 1, .req, [⟨0, 1, .ro, 0x0⟩, ⟨1, 1, .w1c, 0x0⟩, ⟨2, 3, .ro, 0x0⟩, ⟨16, 16, .ro, 0x0⟩]⟩, /- STB_POST_STATUS -/
  ⟨0x280054c, 1, .req, [⟨0, 16, .rc, 0x0⟩]⟩, /- STB_POST_REFUSED -/
  ⟨0x2801000, 1, .scluster, [⟨0, 14, .rws, 0x0⟩]⟩, /- STB_CL_TASKBASE -/
  ⟨0x2801004, 1, .scluster, [⟨0, 6, .ro, 0x0⟩]⟩, /- STB_CL_WAITING -/
  ⟨0x2801008, 1, .scluster, [⟨0, 32, .rc, 0x0⟩]⟩ /- STB_CL_HANDED -/]

/-- Register map of PMU. -/
def regsPmu : List RegRow := [
  ⟨0x2a00000, 1, .req, [⟨0, 8, .rw, 0x0⟩]⟩, /- THREAD_SEL -/
  ⟨0x2a00100, 1, .dev, [⟨0, 1, .rw, 0x0⟩, ⟨1, 1, .wo, 0x0⟩]⟩, /- PMU_CTRL -/
  ⟨0x2a00200, 1, .req, [⟨0, 4, .rw, 0x0⟩]⟩, /- PMU_SLICE_IDX -/
  ⟨0x2a00204, 1, .req, [⟨0, 6, .rw, 0x0⟩]⟩, /- PMU_PL_IDX -/
  ⟨0x2a00208, 1, .req, [⟨0, 3, .rw, 0x0⟩]⟩, /- PMU_CCNT_IDX -/
  ⟨0x2a00300, 1, .plcnt, [⟨0, 8, .rw, 0x0⟩, ⟨8, 1, .rw, 0x0⟩]⟩, /- PMU_PL_CFG -/
  ⟨0x2a00304, 1, .plcnt, [⟨0, 32, .ro, 0x0⟩]⟩, /- PMU_PL_LO -/
  ⟨0x2a00308, 1, .plcnt, [⟨0, 32, .ro, 0x0⟩]⟩, /- PMU_PL_HI -/
  ⟨0x2a00400, 1, .ccnt, [⟨0, 8, .rw, 0x0⟩, ⟨8, 8, .rw, 0xff⟩, ⟨16, 1, .rw, 0x0⟩]⟩, /- PMU_CCNT_CFG -/
  ⟨0x2a00404, 1, .ccnt, [⟨0, 32, .ro, 0x0⟩]⟩, /- PMU_CCNT_LO -/
  ⟨0x2a00408, 1, .ccnt, [⟨0, 32, .ro, 0x0⟩]⟩, /- PMU_CCNT_HI -/
  ⟨0x2a00800, 1, .pcluster, [⟨0, 1, .rw, 0x0⟩, ⟨1, 1, .rw, 0x0⟩, ⟨8, 8, .rw, 0x0⟩]⟩, /- PMU_SMP_CFG -/
  ⟨0x2a00804, 1, .pcluster, [⟨0, 24, .rw, 0x1000⟩]⟩, /- PMU_SMP_N -/
  ⟨0x2a00808, 1, .pcluster, [⟨0, 32, .rw, 0xffffffff⟩]⟩, /- PMU_SMP_TMASK -/
  ⟨0x2a0080c, 1, .pcluster, [⟨0, 10, .ro, 0x0⟩]⟩, /- PMU_SMP_WR -/
  ⟨0x2a00810, 1, .pcluster, [⟨0, 10, .rw, 0x0⟩]⟩, /- PMU_SMP_RD -/
  ⟨0x2a00814, 1, .pcluster, [⟨0, 11, .ro, 0x0⟩]⟩, /- PMU_SMP_FILL -/
  ⟨0x2a00818, 1, .pcluster, [⟨0, 32, .rc, 0x0⟩]⟩, /- PMU_SMP_LOST -/
  ⟨0x2a01000, 1, .pthread, [⟨0, 1, .rw, 0x0⟩]⟩, /- PMU_THR_CFG -/
  ⟨0x2a01010, 1, .pthread, [⟨0, 32, .ro, 0x0⟩]⟩, /- PMU_THR_SLOTS_LO -/
  ⟨0x2a01014, 1, .pthread, [⟨0, 32, .ro, 0x0⟩]⟩, /- PMU_THR_SLOTS_HI -/
  ⟨0x2a01018, 1, .pthread, [⟨0, 32, .ro, 0x0⟩]⟩, /- PMU_THR_RETIRED_LO -/
  ⟨0x2a0101c, 1, .pthread, [⟨0, 32, .ro, 0x0⟩]⟩, /- PMU_THR_RETIRED_HI -/
  ⟨0x2a01020, 1, .pthread, [⟨0, 32, .ro, 0x0⟩]⟩, /- PMU_THR_WASTED_LO -/
  ⟨0x2a01024, 1, .pthread, [⟨0, 32, .ro, 0x0⟩]⟩, /- PMU_THR_WASTED_HI -/
  ⟨0x2a01028, 1, .pthread, [⟨0, 32, .ro, 0x0⟩]⟩, /- PMU_THR_FRONT_LO -/
  ⟨0x2a0102c, 1, .pthread, [⟨0, 32, .ro, 0x0⟩]⟩, /- PMU_THR_FRONT_HI -/
  ⟨0x2a01030, 1, .pthread, [⟨0, 32, .ro, 0x0⟩]⟩, /- PMU_THR_BACK_LO -/
  ⟨0x2a01034, 1, .pthread, [⟨0, 32, .ro, 0x0⟩]⟩, /- PMU_THR_BACK_HI -/
  ⟨0x2a01038, 1, .pthread, [⟨0, 32, .ro, 0x0⟩]⟩, /- PMU_THR_INACTIVE_LO -/
  ⟨0x2a0103c, 1, .pthread, [⟨0, 32, .ro, 0x0⟩]⟩ /- PMU_THR_INACTIVE_HI -/]

/-- Register map of SDC. -/
def regsSdc : List RegRow := [
  ⟨0x2c00100, 1, .dev, [⟨0, 1, .rw, 0x1⟩, ⟨1, 1, .rw, 0x1⟩]⟩, /- SDC_CFG -/
  ⟨0x2c00104, 1, .dev, [⟨0, 3, .rws, 0x1⟩, ⟨4, 3, .rws, 0x2⟩, ⟨8, 3, .rws, 0x4⟩, ⟨16, 6, .rws, 0x38⟩]⟩, /- SDC_CARVE -/
  ⟨0x2c00108, 1, .dev, [⟨0, 7, .rw, 0x10⟩]⟩, /- SDC_SCRUB_RATE -/
  ⟨0x2c0010c, 1, .dev, [⟨0, 30, .ro, 0x0⟩]⟩, /- SDC_SCRUB_POS -/
  ⟨0x2c00110, 1, .dev, [⟨0, 16, .rc, 0x0⟩]⟩, /- SDC_SCRUB_PASSES -/
  ⟨0x2c00114, 1, .dev, [⟨0, 32, .rc, 0x0⟩]⟩, /- SDC_FIXED_CNT -/
  ⟨0x2c00118, 1, .dev, [⟨0, 32, .rc, 0x0⟩]⟩, /- SDC_FAIL_CNT -/
  ⟨0x2c0011c, 1, .dev, [⟨0, 16, .rc, 0x0⟩]⟩, /- SDC_WR_ABORT -/
  ⟨0x2c00120, 1, .dev, [⟨0, 17, .ro, 0x0⟩]⟩, /- SDC_SCRUB_LIST_FILL -/
  ⟨0x2c00124, 1, .dev, [⟨0, 16, .rc, 0x0⟩]⟩, /- SDC_SCRUB_LOST -/
  ⟨0x2c00128, 1, .dev, [⟨0, 16, .rw, 0x40⟩]⟩, /- SDC_FAIL_LIMIT -/
  ⟨0x2c00200, 1, .req, [⟨0, 2, .rw, 0x0⟩]⟩, /- SDC_STACK_IDX -/
  ⟨0x2c00204, 1, .req, [⟨0, 14, .rw, 0x0⟩]⟩, /- SDC_WIN_BASE -/
  ⟨0x2c00208, 1, .req, [⟨0, 1, .w1c, 0x0⟩, ⟨1, 1, .w1c, 0x0⟩]⟩, /- SDC_WIN_STATUS -/
  ⟨0x2c00300, 1, .stack, [⟨0, 1, .ro, 0x0⟩, ⟨1, 1, .w1c, 0x0⟩, ⟨2, 1, .ro, 0x0⟩, ⟨8, 8, .ro, 0x0⟩]⟩, /- SDC_STACK_STATUS -/
  ⟨0x2c00304, 1, .stack, [⟨0, 32, .rc, 0x0⟩]⟩, /- SDC_STACK_FIXED -/
  ⟨0x2c00308, 1, .stack, [⟨0, 32, .rc, 0x0⟩]⟩, /- SDC_STACK_FAIL -/
  ⟨0x2c0030c, 1, .stack, [⟨0, 16, .ro, 0x0⟩]⟩ /- SDC_STACK_TRAIN -/]

/-- The register map of the block whose window holds the offset (Table 00-5). -/
def blockRegs (off : Nat) : List RegRow :=
  if off < 0x0100000 then regsGlb else
  if off < 0x0200000 then regsHld else
  if off < 0x0300000 then regsHtr else
  if off < 0x0400000 then regsHdm else
  if off < 0x0800000 then regsPrt else
  if off < 0x0a00000 then regsCar else
  if off < 0x0c00000 then regsTem else
  if off < 0x1000000 then regsSlc else
  if off < 0x1400000 then regsFlw else
  if off < 0x1800000 then regsFwd else
  if off < 0x1c00000 then regsXpf else
  if off < 0x2000000 then regsTmg else
  if off < 0x2200000 then regsNtu else
  if off < 0x2400000 then regsCku else
  if off < 0x2600000 then regsBpm else
  if off < 0x2800000 then regsDrv else
  if off < 0x2a00000 then regsStb else
  if off < 0x2c00000 then regsPmu else
  if off < 0x2e00000 then regsSdc else
  if off < 0x3000000 then regsErr else
  []

/-- The row of the register at a window offset; none where no register is assigned (R11). -/
def findReg (off : Nat) : Option RegRow :=
  (blockRegs off).find? (fun r => decide (r.off ≤ off) && decide (off < r.off + 4 * r.count))

end Sys2Proof.Machine
end

