-- ==== Sys2Proof/Machine/RegNames.lean ====
section
/-! DEFINITION. The spec's names of the register fields, as (offset, lowest bit, width), and of the registers. -/

namespace Sys2Proof.Machine


namespace R

abbrev GLB_ID : Nat := 0x0000000
abbrev GLB_STATE : Nat := 0x0000004
abbrev GLB_SLICE_STATE_LO : Nat := 0x0000008
abbrev GLB_SLICE_STATE_HI : Nat := 0x000000c
abbrev GLB_CTRL : Nat := 0x0000010
abbrev GLB_STRUCT_REL : Nat := 0x0000014
abbrev GLB_SERVICE_REQ : Nat := 0x0000018
abbrev GLB_TEST_REQ : Nat := 0x000001c
abbrev GLB_SLICE_RESET : Nat := 0x0000020
abbrev GLB_CLUSTER_HOLD : Nat := 0x0000024
abbrev GLB_SOFT_RESET : Nat := 0x0000028
abbrev GLB_RESET_CAUSE : Nat := 0x000002c
abbrev GLB_BOOT_STATUS : Nat := 0x0000030
abbrev GLB_BOOT_TIME : Nat := 0x0000034
abbrev GLB_SLICE_CAUSE_LO : Nat := 0x0000038
abbrev GLB_SLICE_CAUSE_HI : Nat := 0x000003c
abbrev GLB_RECOVERY_CNT : Nat := 0x0000040
abbrev GLB_STRAPS : Nat := 0x0000044
abbrev GLB_FUSE_LOT_LO : Nat := 0x0000050
abbrev GLB_FUSE_LOT_HI : Nat := 0x0000054
abbrev GLB_FUSE_DIE : Nat := 0x0000058
abbrev GLB_FUSE_STACK : Nat := 0x000005c
abbrev GLB_TEMP_MAX : Nat := 0x0000080
abbrev GLB_TEMP_WARN : Nat := 0x0000084
abbrev GLB_TEMP_STATUS : Nat := 0x0000088
abbrev GLB_TEMP_SLICE : Nat := 0x0000090
abbrev HLD_CTRL : Nat := 0x0100000
abbrev HLD_STATUS : Nat := 0x0100004
abbrev HLD_SRC_ADDR_LO : Nat := 0x0100008
abbrev HLD_SRC_ADDR_HI : Nat := 0x010000c
abbrev HLD_SRC_LEN : Nat := 0x0100010
abbrev HLD_IMAGE_SERIAL : Nat := 0x0100014
abbrev HLD_BOOT_SRC : Nat := 0x0100018
abbrev HLD_SLICE_EN : Nat := 0x010001c
abbrev HLD_LIVE_DONE : Nat := 0x0100020
abbrev HLD_LIVE_REFUSED : Nat := 0x0100024
abbrev HLD_LIVE_ERR_LO : Nat := 0x0100028
abbrev HLD_LIVE_ERR_HI : Nat := 0x010002c
abbrev HLD_LIVE_KERR : Nat := 0x0100030
abbrev HLD_LIVE_WAIT : Nat := 0x0100034
abbrev HLD_REFUSED_CNT : Nat := 0x0100038
abbrev HLD_FAIL_CNT : Nat := 0x010003c
abbrev HLD_KEY_HASH : Nat := 0x0100040
abbrev HTR_CFG : Nat := 0x0200100
abbrev HTR_STATUS : Nat := 0x0200104
abbrev HTR_PRESENT_LO : Nat := 0x0200108
abbrev HTR_PRESENT_HI : Nat := 0x020010c
abbrev HTR_NOPEER_CNT : Nat := 0x0200110
abbrev HTR_TIMEOUT_CNT : Nat := 0x0200114
abbrev HTR_H0_DOWN_CNT : Nat := 0x0200118
abbrev HTR_H1_DOWN_CNT : Nat := 0x020011c
abbrev HTR_RX_BAD : Nat := 0x0200120
abbrev HTR_RMT_CTRL : Nat := 0x0200200
abbrev HTR_RMT_ADDR : Nat := 0x0200204
abbrev HTR_RMT_DATA : Nat := 0x0200208
abbrev HTR_RMT_STATUS : Nat := 0x020020c
abbrev HTR_RMT_REFUSED : Nat := 0x0200210
abbrev HDM_BAD_ACCESS : Nat := 0x0300100
abbrev HDM_HOST_ERR : Nat := 0x0300104
abbrev HDM_Q_IDX : Nat := 0x0300200
abbrev HDM_RING_IDX : Nat := 0x0300204
abbrev HDM_Q_CFG : Nat := 0x0300300
abbrev HDM_Q_TAIL : Nat := 0x0300304
abbrev HDM_Q_HEAD : Nat := 0x0300308
abbrev HDM_Q_CPL_LO : Nat := 0x030030c
abbrev HDM_Q_CPL_HI : Nat := 0x0300310
abbrev HDM_Q_STATUS : Nat := 0x0300314
abbrev HDM_Q_DONE_CNT : Nat := 0x0300318
abbrev HDM_Q_NOBUF : Nat := 0x030031c
abbrev HDM_Q_DROP : Nat := 0x0300320
abbrev HDM_RING_CFG : Nat := 0x0300400
abbrev HDM_RING_BASE_LO : Nat := 0x0300404
abbrev HDM_RING_BASE_HI : Nat := 0x0300408
abbrev HDM_RING_WB_LO : Nat := 0x030040c
abbrev HDM_RING_WB_HI : Nat := 0x0300410
abbrev HDM_RING_HEAD : Nat := 0x0300414
abbrev HDM_RING_TAIL : Nat := 0x0300418
abbrev HDM_RING_INT_NS : Nat := 0x030041c
abbrev HDM_EVT_RATE : Nat := 0x0300480
abbrev HDM_EVT_DROP : Nat := 0x0300484
abbrev HDM_EVT_SEQ : Nat := 0x0300488
abbrev ERR_ALARM : Nat := 0x2e00000
abbrev ERR_ALARM_MASK : Nat := 0x2e00004
abbrev ERR_SW_DATA : Nat := 0x2e00010
abbrev ERR_SW_EVENT : Nat := 0x2e00030
abbrev PORT_SEL_PRT : Nat := 0x0400000
abbrev PRT_MODE : Nat := 0x0401000
abbrev PRT_MAC_CFG : Nat := 0x0401004
abbrev PRT_RX_CAP : Nat := 0x0401008
abbrev PRT_STATUS : Nat := 0x040100c
abbrev PRT_LINK_UP_HOLD : Nat := 0x0401010
abbrev PRT_HOLD_NS : Nat := 0x0401014
abbrev PRT_RX_OVERRUN : Nat := 0x0401020
abbrev PRT_RX_RECOVERY_DROP : Nat := 0x0401024
abbrev PRT_RX_RUNT : Nat := 0x0401028
abbrev PRT_RX_OVERSIZE : Nat := 0x040102c
abbrev PRT_RX_MACCTRL : Nat := 0x0401030
abbrev PRT_LINK_DOWN_CNT : Nat := 0x0401034
abbrev PRT_FEC_CORR : Nat := 0x0401038
abbrev PRT_FEC_UNCORR : Nat := 0x040103c
abbrev PRT_TX_ABORT : Nat := 0x0401040
abbrev PRT_RX_DOWN_DROP : Nat := 0x0401044
abbrev PRT_LANE_IDX : Nat := 0x0401080
abbrev PRT_LANE_TX_EQ : Nat := 0x0401084
abbrev PRT_LANE_CTRL : Nat := 0x0401088
abbrev PRT_LANE_STATUS : Nat := 0x040108c
abbrev PRT_LANE_PRBS_ERR : Nat := 0x0401090
abbrev CAR_SEL : Nat := 0x0800000
abbrev CAR_HOLD_PIN : Nat := 0x0800100
abbrev CAR_HOLD_POL : Nat := 0x0800104
abbrev CAR_HOLD_MASK : Nat := 0x0800108
abbrev CAR_HOLD_STUCK : Nat := 0x080010c
abbrev CAR_HOLD_CHATTER : Nat := 0x0800110
abbrev CAR_HOLD_LIMITS : Nat := 0x0800114
abbrev CAR_CFG : Nat := 0x0801000
abbrev CAR_GROUP : Nat := 0x0801004
abbrev CAR_HOLD_CFG : Nat := 0x0801008
abbrev CAR_CAL_IDX : Nat := 0x0801010
abbrev CAR_CAL_ENTRY : Nat := 0x0801014
abbrev CAR_CAL_CTRL : Nat := 0x0801018
abbrev CAR_CAL_STATUS : Nat := 0x080101c
abbrev CAR_SW_TIME_NS : Nat := 0x0801020
abbrev CAR_SW_TIME_SEC_LO : Nat := 0x0801024
abbrev CAR_SW_TIME_SEC_HI : Nat := 0x0801028
abbrev CAR_MF_NEXT_NS : Nat := 0x080102c
abbrev CAR_MF_NEXT_SEC_LO : Nat := 0x0801030
abbrev CAR_MF_NEXT_SEC_HI : Nat := 0x0801034
abbrev CAR_STATUS : Nat := 0x0801038
abbrev CAR_RATE : Nat := 0x080103c
abbrev CAR_HOLD_NS : Nat := 0x0801040
abbrev CAR_CAL_REFUSED : Nat := 0x0801044
abbrev CAR_DOWN_CNT : Nat := 0x0801048
abbrev CAR_LINK_UP_HOLD : Nat := 0x080104c
abbrev CAR_RC_CFG : Nat := 0x0801080
abbrev CAR_RC_LEAD : Nat := 0x0801084
abbrev CAR_RC_RXWAIT : Nat := 0x0801088
abbrev CAR_RC_ADVANCE : Nat := 0x080108c
abbrev CAR_RC_TIME_NS : Nat := 0x0801090
abbrev CAR_RC_TIME_SEC_LO : Nat := 0x0801094
abbrev CAR_RC_TIME_SEC_HI : Nat := 0x0801098
abbrev CAR_RC_CTRL : Nat := 0x080109c
abbrev CAR_RC_STATUS : Nat := 0x08010a0
abbrev CAR_RC_TSW_NS : Nat := 0x08010a4
abbrev CAR_RC_TSW_SEC_LO : Nat := 0x08010a8
abbrev CAR_RC_TSW_SEC_HI : Nat := 0x08010ac
abbrev CAR_RC_SLOTS : Nat := 0x08010b0
abbrev CAR_RC_EFFECT_NS : Nat := 0x08010b4
abbrev CAR_RC_DONE_CNT : Nat := 0x08010b8
abbrev TEAM_SEL : Nat := 0x0a00000
abbrev TEM_ETYPE : Nat := 0x0a00100
abbrev TEM_PROBE_MAC_LO : Nat := 0x0a00104
abbrev TEM_PROBE_MAC_HI : Nat := 0x0a00108
abbrev TEM_DOMAIN_SALT : Nat := 0x0a0010c
abbrev TEM_WIN_FREE : Nat := 0x0a00110
abbrev TEM_SPILL_RATE : Nat := 0x0a00114
abbrev TEM_MEMBER_IDX : Nat := 0x0a00200
abbrev TEM_DOM_IDX : Nat := 0x0a00204
abbrev TEM_TEAM_CFG : Nat := 0x0a01000
abbrev TEM_TEAM_SKEW : Nat := 0x0a01004
abbrev TEM_GAP_WAIT : Nat := 0x0a01008
abbrev TEM_TEAM_WIN : Nat := 0x0a0100c
abbrev TEM_DELIV_LO : Nat := 0x0a01010
abbrev TEM_DELIV_HI : Nat := 0x0a01014
abbrev TEM_DELIV_LEN : Nat := 0x0a01018
abbrev TEM_PROBE_CFG : Nat := 0x0a0101c
abbrev TEM_SILENT : Nat := 0x0a01020
abbrev TEM_TEAM_CTRL : Nat := 0x0a01024
abbrev TEM_TEAM_STATUS : Nat := 0x0a01028
abbrev TEM_RX_EPOCH : Nat := 0x0a0102c
abbrev TEM_TEAM_RATE : Nat := 0x0a01030
abbrev TEM_HELD_BYTES : Nat := 0x0a01034
abbrev TEM_HELD_PEAK : Nat := 0x0a01038
abbrev TEM_SPILLED_BYTES : Nat := 0x0a0103c
abbrev TEM_RELEASED : Nat := 0x0a01040
abbrev TEM_DUP_SEQ : Nat := 0x0a01044
abbrev TEM_FAR : Nat := 0x0a01048
abbrev TEM_LOST : Nat := 0x0a0104c
abbrev TEM_FAST_SKIP : Nat := 0x0a01050
abbrev TEM_WIN_DROP : Nat := 0x0a01054
abbrev TEM_SPILL_DROP : Nat := 0x0a01058
abbrev TEM_DELIV_DROP : Nat := 0x0a0105c
abbrev TEM_RESYNC_DROP : Nat := 0x0a01060
abbrev TEM_MBR_CFG : Nat := 0x0a01100
abbrev TEM_MBR_CTRL : Nat := 0x0a01104
abbrev TEM_MBR_STATUS : Nat := 0x0a01108
abbrev TEM_MBR_DELAY_NS : Nat := 0x0a0110c
abbrev TEM_MBR_SKEW_NS : Nat := 0x0a01110
abbrev TEM_MBR_RATE : Nat := 0x0a01114
abbrev TEM_MBR_TX_FRAMES : Nat := 0x0a01120
abbrev TEM_MBR_TX_PROBES : Nat := 0x0a01124
abbrev TEM_MBR_RX_FRAMES : Nat := 0x0a01128
abbrev TEM_MBR_RX_NOSHIM : Nat := 0x0a0112c
abbrev TEM_MBR_RX_CRC : Nat := 0x0a01130
abbrev TEM_MBR_RX_BADVER : Nat := 0x0a01134
abbrev TEM_MBR_RX_MISWIRE : Nat := 0x0a01138
abbrev TEM_MBR_ALIVE_DUP : Nat := 0x0a0113c
abbrev TEM_MBR_ALIVE_JUMP : Nat := 0x0a01140
abbrev TEM_MBR_ALIVE_LOST : Nat := 0x0a01144
abbrev TEM_DOM_EXPECT : Nat := 0x0a01200
abbrev TEM_DOM_NEXT : Nat := 0x0a01204
abbrev TEM_DOM_STATUS : Nat := 0x0a01208
abbrev SLICE_SEL_SLC : Nat := 0x0c00000
abbrev SLC_PARSE_EN : Nat := 0x0c01000
abbrev SLC_PARSE_LIMIT : Nat := 0x0c01004
abbrev SLC_TPID_ALT : Nat := 0x0c01008
abbrev SLC_UDP_PORTS : Nat := 0x0c0100c
abbrev SLC_FAIL_ACT : Nat := 0x0c01010
abbrev SLC_DEFACT : Nat := 0x0c01020
abbrev SLC_PARSE_OK_CNT : Nat := 0x0c01040
abbrev SLC_STOP_CNT : Nat := 0x0c01044
abbrev SLC_MAL_RSN : Nat := 0x0c01084
abbrev SLC_PL_RSN : Nat := 0x0c010c4
abbrev SLC_PORT_MAL : Nat := 0x0c01100
abbrev SLC_PORT_PL : Nat := 0x0c01180
abbrev SLC_PORT_DEFACT : Nat := 0x0c01200
abbrev SLC_FAIL_DROP : Nat := 0x0c01280
abbrev SLC_FAIL_PUNT : Nat := 0x0c01284
abbrev SLC_FAIL_L2 : Nat := 0x0c01288
abbrev SLC_LAST_FAIL : Nat := 0x0c01290
abbrev CLS_BANK_SIZE : Nat := 0x0c02000
abbrev CLS_STATE : Nat := 0x0c02004
abbrev CLS_EPOCH : Nat := 0x0c02008
abbrev CLS_EPOCH_INFLIGHT : Nat := 0x0c0200c
abbrev CLS_ACTIVE_INFLIGHT : Nat := 0x0c02010
abbrev CLS_STAGE_CTRL : Nat := 0x0c02014
abbrev CLS_CTRL : Nat := 0x0c02018
abbrev CLS_EPOCH_REL : Nat := 0x0c0201c
abbrev CLS_SWAP_CTRL : Nat := 0x0c02020
abbrev CLS_SWAP_STATUS : Nat := 0x0c02024
abbrev CLS_SWAP_TIME_NS : Nat := 0x0c02028
abbrev CLS_SWAP_TIME_SEC_LO : Nat := 0x0c0202c
abbrev CLS_SWAP_TIME_SEC_HI : Nat := 0x0c02030
abbrev CLS_LAST_SWAP_NS : Nat := 0x0c02034
abbrev CLS_RULES : Nat := 0x0c02038
abbrev CLS_UPD_DATA : Nat := 0x0c02040
abbrev CLS_UPD_ADDR : Nat := 0x0c02080
abbrev CLS_UPD_CTRL : Nat := 0x0c02084
abbrev CLS_UPD_STATUS : Nat := 0x0c02088
abbrev CLS_COMMIT : Nat := 0x0c0208c
abbrev CLS_COMMIT_NS : Nat := 0x0c02090
abbrev CLS_PKT_SEQ : Nat := 0x0c02094
abbrev CLS_KEY_EXT : Nat := 0x0c020a0
abbrev CLS_CLASSIFIED : Nat := 0x0c020e0
abbrev CLS_MISS_CNT : Nat := 0x0c020e4
abbrev CLS_DROP_CNT : Nat := 0x0c020e8
abbrev CLS_PUNT_CNT : Nat := 0x0c020ec
abbrev CLS_RELEASED_DROP : Nat := 0x0c020f0
abbrev CLS_XSLICE_DROP : Nat := 0x0c020f4
abbrev CLS_DEPTH_ERR : Nat := 0x0c020f8
abbrev CLS_BAD_ACTION : Nat := 0x0c020fc
abbrev CLS_REFUSED : Nat := 0x0c02100
abbrev SLICE_SEL_FLW : Nat := 0x1000000
abbrev FLW_CFG : Nat := 0x1000100
abbrev FLW_SALT1 : Nat := 0x1000104
abbrev FLW_SALT2 : Nat := 0x1000108
abbrev FLW_SALT3 : Nat := 0x100010c
abbrev FLW_LFSR : Nat := 0x1000110
abbrev FLW_DEV_BUDGET : Nat := 0x1000114
abbrev FLW_INS_RATE : Nat := 0x1000118
abbrev FLW_SCAN_RATE : Nat := 0x100011c
abbrev FLW_NAT_BASE : Nat := 0x1000120
abbrev FLW_PROF_IDX : Nat := 0x1000140
abbrev FLW_PROF_MASK_LO : Nat := 0x1000144
abbrev FLW_PROF_MASK_HI : Nat := 0x1000148
abbrev FLW_PROF_CFG : Nat := 0x100014c
abbrev FLW_CLASS_PROF : Nat := 0x1000150
abbrev FLW_CLASS_OVF : Nat := 0x1000154
abbrev FLW_IDLE_T : Nat := 0x1000180
abbrev FLW_OP_KEY : Nat := 0x1000200
abbrev FLW_OP_DATA : Nat := 0x1000240
abbrev FLW_OP_CTRL : Nat := 0x1000280
abbrev FLW_OP_SLOT : Nat := 0x1000284
abbrev FLW_OP_STATUS : Nat := 0x1000288
abbrev FLW_OP_RSLOT : Nat := 0x100028c
abbrev FLW_OP_REFUSED : Nat := 0x10002c8
abbrev FLW_OCCUPANCY : Nat := 0x1000300
abbrev FLW_INSERT_CNT : Nat := 0x1000304
abbrev FLW_EVICT_CNT : Nat := 0x1000308
abbrev FLW_AGED_CNT : Nat := 0x100030c
abbrev FLW_REVIVE_CNT : Nat := 0x1000310
abbrev FLW_INVALID_CNT : Nat := 0x1000314
abbrev FLW_WB_CNT : Nat := 0x1000318
abbrev FLW_EXP_CNT : Nat := 0x100031c
abbrev FLW_EXP_DROP : Nat := 0x1000320
abbrev FLW_EXP_FILL : Nat := 0x1000324
abbrev FLW_NOTICE_DROP : Nat := 0x1000328
abbrev FLW_SLICE_BUDGET : Nat := 0x1001000
abbrev FLW_LOOKUPS : Nat := 0x1001004
abbrev FLW_HITS : Nat := 0x1001008
abbrev FLW_MISS_LOOKUPS : Nat := 0x100100c
abbrev FLW_MISS_READS : Nat := 0x1001010
abbrev FLW_MISS_WRITES : Nat := 0x1001014
abbrev FLW_OVF_BUDGET : Nat := 0x1001018
abbrev FLW_OVF_LANE : Nat := 0x100101c
abbrev FLW_OVF_INSRATE : Nat := 0x1001020
abbrev FLW_OVF_FULL : Nat := 0x1001024
abbrev FLW_OVF_DROP : Nat := 0x1001028
abbrev FLW_LANE_PEAK : Nat := 0x100102c
abbrev FLW_NAT_SKIP : Nat := 0x1001030
abbrev SLICE_SEL_FWD : Nat := 0x1400000
abbrev FWD_CFG : Nat := 0x1400100
abbrev FWD_ECMP_SALT : Nat := 0x1400104
abbrev FWD_LAG_SALT : Nat := 0x1400108
abbrev FWD_L2_SALT1 : Nat := 0x140010c
abbrev FWD_L2_SALT2 : Nat := 0x1400110
abbrev FWD_LEAF_DEV_BUDGET : Nat := 0x1400114
abbrev FWD_L2_AGE : Nat := 0x1400118
abbrev FWD_LEARN_CFG : Nat := 0x140011c
abbrev FWD_L2_LFSR : Nat := 0x1400120
abbrev FWD_PCP_MAP : Nat := 0x1400124
abbrev FWD_DSCP_MAP : Nat := 0x1400128
abbrev FWD_SRAM_SPLIT : Nat := 0x1400148
abbrev FWD_RMAC : Nat := 0x1400180
abbrev FWD_L2_OP_KEY_LO : Nat := 0x1400200
abbrev FWD_L2_OP_KEY_HI : Nat := 0x1400204
abbrev FWD_L2_OP_DEST : Nat := 0x1400208
abbrev FWD_L2_OP_CTRL : Nat := 0x140020c
abbrev FWD_L2_OP_STATUS : Nat := 0x1400210
abbrev FWD_L2_OP_RESULT : Nat := 0x1400214
abbrev FWD_LPM_OP_ADDR : Nat := 0x1400240
abbrev FWD_LPM_OP_CFG : Nat := 0x1400250
abbrev FWD_LPM_OP_DEST : Nat := 0x1400254
abbrev FWD_LPM_OP_CTRL : Nat := 0x1400258
abbrev FWD_LPM_OP_STATUS : Nat := 0x140025c
abbrev FWD_LPM_OP_RESULT : Nat := 0x1400260
abbrev FWD_LPM_OP_RLEN : Nat := 0x1400264
abbrev FWD_MPLS_OP_LABEL : Nat := 0x1400280
abbrev FWD_MPLS_OP_DATA : Nat := 0x1400284
abbrev FWD_MPLS_OP_CTRL : Nat := 0x1400294
abbrev FWD_MPLS_OP_STATUS : Nat := 0x1400298
abbrev FWD_OP_REFUSED : Nat := 0x140029c
abbrev FWD_LPM_PREFIXES : Nat := 0x1400300
abbrev FWD_LPM_TOP_FREE : Nat := 0x1400304
abbrev FWD_MPLS_LABELS : Nat := 0x1400308
abbrev FWD_MIR_COPY : Nat := 0x1400400
abbrev FWD_MIR_REF : Nat := 0x1400440
abbrev FWD_LEAF_BUDGET : Nat := 0x1401000
abbrev FWD_L2_ENTRIES : Nat := 0x1401004
abbrev FWD_L2_DA_MISS : Nat := 0x1401008
abbrev FWD_LEARN_POSTED : Nat := 0x140100c
abbrev FWD_LEARN_DROP : Nat := 0x1401010
abbrev FWD_L2_STATIC_MOVE : Nat := 0x1401014
abbrev FWD_L2_AGED : Nat := 0x1401018
abbrev FWD_L2_EVICT : Nat := 0x140101c
abbrev FWD_LEAF_READS : Nat := 0x1401020
abbrev FWD_LEAF_OVF_DROP : Nat := 0x1401024
abbrev FWD_LEAF_OVF_SHORT : Nat := 0x1401028
abbrev FWD_TTL_PUNT : Nat := 0x140102c
abbrev FWD_DEST_DROP : Nat := 0x1401030
abbrev FWD_MPLS_MISS : Nat := 0x1401034
abbrev SLICE_SEL_XPF : Nat := 0x1800000
abbrev XPF_CFG : Nat := 0x1801000
abbrev XPF_MC_CAP : Nat := 0x1801004
abbrev XPF_MC_CFG : Nat := 0x1801008
abbrev XPF_XP_IDX : Nat := 0x180100c
abbrev XPF_XP_USED : Nat := 0x1801010
abbrev XPF_XP_PEAK : Nat := 0x1801014
abbrev XPF_XP_REFUSED : Nat := 0x1801018
abbrev XPF_XP_MC_REFUSED : Nat := 0x180101c
abbrev XPF_COL_USED : Nat := 0x1801020
abbrev XPF_WRQ_BYTES : Nat := 0x1801024
abbrev XPF_WRQ_PEAK : Nat := 0x1801028
abbrev XPF_WRQ_FULL : Nat := 0x180102c
abbrev XPF_WRQ_DROP : Nat := 0x1801030
abbrev XPF_CT_CNT : Nat := 0x1801034
abbrev XPF_SF_CNT : Nat := 0x1801038
abbrev XPF_ABORT_CNT : Nat := 0x180103c
abbrev XPF_PAR_DROP : Nat := 0x1801040
abbrev XPF_MC_PKTS : Nat := 0x1801044
abbrev XPF_MC_COPIES : Nat := 0x1801048
abbrev XPF_RES_USED : Nat := 0x180104c
abbrev XPF_RES_PEAK : Nat := 0x1801050
abbrev XPF_RES_STALL : Nat := 0x1801054
abbrev XPF_MC_RES_DROP : Nat := 0x1801100
abbrev XPF_MC_DOWN_DROP : Nat := 0x1801180
abbrev QUEUE_SEL : Nat := 0x1c00000
abbrev TMG_CFG : Nat := 0x1c00100
abbrev TMG_SAMPLE_PERIOD : Nat := 0x1c00104
abbrev TMG_REF_SAMPLE_N : Nat := 0x1c00108
abbrev TMG_SAMPLE_DROP : Nat := 0x1c0010c
abbrev TMG_SAMPLE_FILL : Nat := 0x1c00110
abbrev TMG_STORE_RATE : Nat := 0x1c00114
abbrev TMG_STORE_FREE : Nat := 0x1c00118
abbrev TMG_VOID_MAP : Nat := 0x1c00180
abbrev TMG_PORT_IDX : Nat := 0x1c00200
abbrev TMG_CLASS_IDX : Nat := 0x1c00204
abbrev TMG_POL_IDX : Nat := 0x1c00208
abbrev TMG_POLP_IDX : Nat := 0x1c0020c
abbrev TMG_POL_CTRL : Nat := 0x1c00300
abbrev TMG_POL_STATUS : Nat := 0x1c00304
abbrev TMG_POL_TOKENS : Nat := 0x1c00308
abbrev TMG_POLP_CIR : Nat := 0x1c00310
abbrev TMG_POLP_EIR : Nat := 0x1c00314
abbrev TMG_POLP_BURST : Nat := 0x1c00318
abbrev TMG_POLP_CFG : Nat := 0x1c0031c
abbrev TMG_POLP_GREEN : Nat := 0x1c00320
abbrev TMG_POLP_YELLOW : Nat := 0x1c00324
abbrev TMG_POLP_RED : Nat := 0x1c00328
abbrev TMG_PORT_QCFG : Nat := 0x1c00400
abbrev TMG_PORT_HOLD_ALLOW : Nat := 0x1c00404
abbrev TMG_CFG_STATUS : Nat := 0x1c00408
abbrev TMG_PORT_GSUM : Nat := 0x1c0040c
abbrev TMG_PORT_RATE : Nat := 0x1c00410
abbrev TMG_PORT_HOLD_OVER : Nat := 0x1c00414
abbrev TMG_GATE_ADMIN_LEN : Nat := 0x1c00420
abbrev TMG_GATE_ADMIN_CYCLE : Nat := 0x1c00424
abbrev TMG_GATE_ADMIN_BASE_NS : Nat := 0x1c00428
abbrev TMG_GATE_ADMIN_BASE_SEC_LO : Nat := 0x1c0042c
abbrev TMG_GATE_ADMIN_BASE_SEC_HI : Nat := 0x1c00430
abbrev TMG_GATE_CTRL : Nat := 0x1c00434
abbrev TMG_GATE_STATUS : Nat := 0x1c00438
abbrev TMG_GATE_CHANGE_NS : Nat := 0x1c0043c
abbrev TMG_GATE_CHANGE_SEC_LO : Nat := 0x1c00440
abbrev TMG_GATE_CHANGE_SEC_HI : Nat := 0x1c00444
abbrev TMG_GATE_OPER_LEN : Nat := 0x1c00448
abbrev TMG_GATE_OPER_CYCLE : Nat := 0x1c0044c
abbrev TMG_GATE_REFUSED : Nat := 0x1c00450
abbrev TMG_CLS_SHAPE_RATE : Nat := 0x1c00500
abbrev TMG_CLS_SHAPE_BURST : Nat := 0x1c00504
abbrev TMG_Q_CFG : Nat := 0x1c01000
abbrev TMG_Q_GUAR : Nat := 0x1c01004
abbrev TMG_Q_BOUND : Nat := 0x1c01008
abbrev TMG_Q_SHAPE_RATE : Nat := 0x1c0100c
abbrev TMG_Q_SHAPE_BURST : Nat := 0x1c01010
abbrev TMG_Q_FLOOR : Nat := 0x1c01014
abbrev TMG_Q_RATE : Nat := 0x1c01018
abbrev TMG_Q_BACKLOG : Nat := 0x1c0101c
abbrev TMG_Q_GATE_U : Nat := 0x1c01020
abbrev TMG_Q_GATE_Z : Nat := 0x1c01024
abbrev TMG_Q_ADMIT : Nat := 0x1c01040
abbrev TMG_Q_TX : Nat := 0x1c01044
abbrev TMG_Q_REF_DELAY : Nat := 0x1c01048
abbrev TMG_Q_REF_XP : Nat := 0x1c0104c
abbrev TMG_Q_REF_WRQ : Nat := 0x1c01050
abbrev TMG_Q_REF_STORE : Nat := 0x1c01054
abbrev TMG_Q_REF_DOWN : Nat := 0x1c01058
abbrev TMG_Q_REF_NORATE : Nat := 0x1c0105c
abbrev TMG_Q_EXPIRED : Nat := 0x1c01060
abbrev TMG_Q_DISCARD : Nat := 0x1c01064
abbrev TMG_Q_SOJ_MAX : Nat := 0x1c01068
abbrev TMG_Q_REF_LONG : Nat := 0x1c0106c
abbrev PORT_SEL_NTU : Nat := 0x2000000
abbrev NTU_CTRL : Nat := 0x2000100
abbrev NTU_STATUS : Nat := 0x2000104
abbrev NTU_JUMP_LIMIT : Nat := 0x2000108
abbrev NTU_INCR_LO : Nat := 0x200010c
abbrev NTU_INCR_HI : Nat := 0x2000110
abbrev NTU_ADJ_LO : Nat := 0x2000114
abbrev NTU_ADJ_HI : Nat := 0x2000118
abbrev NTU_SET_NS : Nat := 0x200011c
abbrev NTU_SET_SEC_LO : Nat := 0x2000120
abbrev NTU_SET_SEC_HI : Nat := 0x2000124
abbrev NTU_NOW_NS : Nat := 0x2000128
abbrev NTU_NOW_SEC_LO : Nat := 0x200012c
abbrev NTU_NOW_SEC_HI : Nat := 0x2000130
abbrev NTU_NOW_FRAC : Nat := 0x2000134
abbrev NTU_STEP_CNT : Nat := 0x2000138
abbrev NTU_REFUSED_CNT : Nat := 0x200013c
abbrev NTU_ADJ_IGNORED : Nat := 0x2000140
abbrev NTU_PPS_CFG : Nat := 0x2000150
abbrev NTU_PPS_OFFSET : Nat := 0x2000154
abbrev NTU_TS_CFG : Nat := 0x2000180
abbrev NTU_TS_DROP : Nat := 0x2000184
abbrev NTU_TRIG_IDX : Nat := 0x2000200
abbrev NTU_CAP_IDX : Nat := 0x2000204
abbrev NTU_TRIG_CFG : Nat := 0x2000300
abbrev NTU_TRIG_START_NS : Nat := 0x2000304
abbrev NTU_TRIG_START_SEC_LO : Nat := 0x2000308
abbrev NTU_TRIG_START_SEC_HI : Nat := 0x200030c
abbrev NTU_TRIG_WIDTH : Nat := 0x2000310
abbrev NTU_TRIG_PERIOD : Nat := 0x2000314
abbrev NTU_TRIG_COUNT : Nat := 0x2000318
abbrev NTU_TRIG_CTRL : Nat := 0x200031c
abbrev NTU_TRIG_STATUS : Nat := 0x2000320
abbrev NTU_TRIG_NEXT_NS : Nat := 0x2000324
abbrev NTU_CAP_CFG : Nat := 0x2000380
abbrev NTU_CAP_NS : Nat := 0x2000384
abbrev NTU_CAP_SEC_LO : Nat := 0x2000388
abbrev NTU_CAP_SEC_HI : Nat := 0x200038c
abbrev NTU_CAP_FRAC : Nat := 0x2000390
abbrev NTU_CAP_FILL : Nat := 0x2000394
abbrev NTU_CAP_OVERRUN : Nat := 0x2000398
abbrev NTU_CAP_LOST : Nat := 0x200039c
abbrev NTU_PORT_CFG : Nat := 0x2001000
abbrev NTU_PORT_ASYM_TX : Nat := 0x2001004
abbrev NTU_PORT_ASYM_RX : Nat := 0x2001008
abbrev NTU_PORT_CORR_TX : Nat := 0x200100c
abbrev NTU_PORT_CORR_RX : Nat := 0x2001010
abbrev NTU_PORT_TS_CNT : Nat := 0x2001014
abbrev NTU_PORT_ONESTEP_CNT : Nat := 0x2001018
abbrev NTU_PORT_TS_SKIP : Nat := 0x200101c
abbrev PORT_SEL_CKU : Nat := 0x2200000
abbrev CKU_REFUSED : Nat := 0x2200100
abbrev CKU_DIG_BYTES : Nat := 0x2200104
abbrev CKU_DIG_LAST : Nat := 0x2200110
abbrev CKU_ENG_IDX : Nat := 0x2200200
abbrev CKU_ENG_CFG : Nat := 0x2200300
abbrev CKU_ENG_STATUS : Nat := 0x2200304
abbrev CKU_ENG_BLOCKS : Nat := 0x2200308
abbrev CKU_ENG_MISMATCH : Nat := 0x220030c
abbrev CKU_ENG_SHORT : Nat := 0x2200310
abbrev CKU_ENG_ABANDON : Nat := 0x2200314
abbrev CKU_ENG_LAST_LO : Nat := 0x2200318
abbrev CKU_ENG_LAST_HI : Nat := 0x220031c
abbrev CKU_RX_FCS_ERR : Nat := 0x2201000
abbrev CKU_TX_STOMP : Nat := 0x2201004
abbrev POOL_SEL : Nat := 0x2400000
abbrev BPM_DRAM_BASE : Nat := 0x2400100
abbrev BPM_BAD_ADDR : Nat := 0x2400104
abbrev BPM_OP_CTRL : Nat := 0x2400200
abbrev BPM_OP_SIZE : Nat := 0x2400204
abbrev BPM_OP_ADDR : Nat := 0x2400208
abbrev BPM_OP_OWNER : Nat := 0x240020c
abbrev BPM_OP_STATUS : Nat := 0x2400210
abbrev BPM_OP_REFUSED : Nat := 0x2400214
abbrev BPM_POOL_CFG : Nat := 0x2401000
abbrev BPM_POOL_SRAM : Nat := 0x2401004
abbrev BPM_POOL_DRAM : Nat := 0x2401008
abbrev BPM_POOL_FREE : Nat := 0x240100c
abbrev BPM_POOL_LOW : Nat := 0x2401010
abbrev BPM_POOL_HIGH : Nat := 0x2401014
abbrev BPM_POOL_STATUS : Nat := 0x2401018
abbrev BPM_POOL_MIN : Nat := 0x240101c
abbrev BPM_GETS : Nat := 0x2401020
abbrev BPM_PUTS : Nat := 0x2401024
abbrev BPM_POOL_EMPTY : Nat := 0x2401028
abbrev BPM_NOT_OWNER : Nat := 0x240102c
abbrev BPM_DOUBLE_FREE : Nat := 0x2401030
abbrev BPM_POOL_QUAR : Nat := 0x2401034
abbrev BPM_POOL_SHARE : Nat := 0x2401038
abbrev THREAD_SEL_DRV : Nat := 0x2600000
abbrev DRV_CHAN_IDX : Nat := 0x2600100
abbrev DRV_CHAN_CFG : Nat := 0x2600104
abbrev DRV_CHAN_STATUS : Nat := 0x2600108
abbrev DRV_CHAN_PEAK : Nat := 0x260010c
abbrev DRV_CHAN_FULL_CNT : Nat := 0x2600110
abbrev DRV_CHAN_FLUSH : Nat := 0x2600114
abbrev DRV_REFUSED : Nat := 0x2600118
abbrev DRV_INJ_DROP : Nat := 0x2600140
abbrev DRV_CL_STALL_LIMIT : Nat := 0x2600800
abbrev DRV_CL_STALL_WAKE : Nat := 0x2600804
abbrev DRV_CL_STATUS : Nat := 0x2600808
abbrev DRV_CL_DRAM_RATE : Nat := 0x260080c
abbrev DRV_CL_STALL_CNT : Nat := 0x2600810
abbrev DRV_CL_FAULT_CNT : Nat := 0x2600814
abbrev THREAD_CFG : Nat := 0x2601000
abbrev THREAD_ENTRY : Nat := 0x2601004
abbrev THREAD_STATUS : Nat := 0x2601008
abbrev THREAD_PC : Nat := 0x260100c
abbrev THREAD_FAULT_CODE : Nat := 0x2601010
abbrev THREAD_FAULT_PC : Nat := 0x2601014
abbrev THREAD_FAULT_ADDR : Nat := 0x2601018
abbrev THREAD_TCMP_NS : Nat := 0x260101c
abbrev THREAD_TCMP_SEC : Nat := 0x2601020
abbrev THREAD_HANDLER : Nat := 0x2601024
abbrev THREAD_WMASK : Nat := 0x2601028
abbrev THREAD_FAULT_CNT : Nat := 0x260102c
abbrev THREAD_CTRL : Nat := 0x2601030
abbrev DBG_CTRL : Nat := 0x2601040
abbrev DBG_STATUS : Nat := 0x2601044
abbrev DBG_GPR_IDX : Nat := 0x2601048
abbrev DBG_GPR : Nat := 0x260104c
abbrev DBG_PC : Nat := 0x2601050
abbrev DBG_BP : Nat := 0x2601054
abbrev DBG_STAGE_IDX : Nat := 0x2601058
abbrev DBG_STAGE : Nat := 0x260105c
abbrev CLUSTER_SEL : Nat := 0x2800000
abbrev STB_CFG : Nat := 0x2800100
abbrev STB_STORE_BASE : Nat := 0x2800104
abbrev STB_FREE_CNT : Nat := 0x2800108
abbrev STB_READY_CNT : Nat := 0x280010c
abbrev STB_DELAYED_CNT : Nat := 0x2800110
abbrev STB_HANDED_CNT : Nat := 0x2800114
abbrev STB_TICK_NOW : Nat := 0x2800118
abbrev STB_STUCK_US : Nat := 0x280011c
abbrev STB_STUCK_CNT : Nat := 0x2800120
abbrev STB_KIND_IDX : Nat := 0x2800200
abbrev STB_GROUP_IDX : Nat := 0x2800204
abbrev STB_ROUTE : Nat := 0x2800300
abbrev STB_ROUTE_QUOTA : Nat := 0x2800304
abbrev STB_KIND_POSTED : Nat := 0x2800308
abbrev STB_KIND_DROP : Nat := 0x280030c
abbrev STB_KIND_NOBUF : Nat := 0x2800310
abbrev STB_GROUP_NEXT : Nat := 0x2800400
abbrev STB_GROUP_REL : Nat := 0x2800404
abbrev STB_GROUP_STATUS : Nat := 0x2800408
abbrev STB_GROUP_VOID : Nat := 0x280040c
abbrev STB_GROUP_RELEASED : Nat := 0x2800410
abbrev STB_POST_DATA : Nat := 0x2800500
abbrev STB_POST_CTRL : Nat := 0x2800540
abbrev STB_POST_ARG : Nat := 0x2800544
abbrev STB_POST_STATUS : Nat := 0x2800548
abbrev STB_POST_REFUSED : Nat := 0x280054c
abbrev STB_CL_TASKBASE : Nat := 0x2801000
abbrev STB_CL_WAITING : Nat := 0x2801004
abbrev STB_CL_HANDED : Nat := 0x2801008
abbrev THREAD_SEL_PMU : Nat := 0x2a00000
abbrev PMU_CTRL : Nat := 0x2a00100
abbrev PMU_SLICE_IDX : Nat := 0x2a00200
abbrev PMU_PL_IDX : Nat := 0x2a00204
abbrev PMU_CCNT_IDX : Nat := 0x2a00208
abbrev PMU_PL_CFG : Nat := 0x2a00300
abbrev PMU_PL_LO : Nat := 0x2a00304
abbrev PMU_PL_HI : Nat := 0x2a00308
abbrev PMU_CCNT_CFG : Nat := 0x2a00400
abbrev PMU_CCNT_LO : Nat := 0x2a00404
abbrev PMU_CCNT_HI : Nat := 0x2a00408
abbrev PMU_SMP_CFG : Nat := 0x2a00800
abbrev PMU_SMP_N : Nat := 0x2a00804
abbrev PMU_SMP_TMASK : Nat := 0x2a00808
abbrev PMU_SMP_WR : Nat := 0x2a0080c
abbrev PMU_SMP_RD : Nat := 0x2a00810
abbrev PMU_SMP_FILL : Nat := 0x2a00814
abbrev PMU_SMP_LOST : Nat := 0x2a00818
abbrev PMU_THR_CFG : Nat := 0x2a01000
abbrev PMU_THR_SLOTS_LO : Nat := 0x2a01010
abbrev PMU_THR_SLOTS_HI : Nat := 0x2a01014
abbrev PMU_THR_RETIRED_LO : Nat := 0x2a01018
abbrev PMU_THR_RETIRED_HI : Nat := 0x2a0101c
abbrev PMU_THR_WASTED_LO : Nat := 0x2a01020
abbrev PMU_THR_WASTED_HI : Nat := 0x2a01024
abbrev PMU_THR_FRONT_LO : Nat := 0x2a01028
abbrev PMU_THR_FRONT_HI : Nat := 0x2a0102c
abbrev PMU_THR_BACK_LO : Nat := 0x2a01030
abbrev PMU_THR_BACK_HI : Nat := 0x2a01034
abbrev PMU_THR_INACTIVE_LO : Nat := 0x2a01038
abbrev PMU_THR_INACTIVE_HI : Nat := 0x2a0103c
abbrev SDC_CFG : Nat := 0x2c00100
abbrev SDC_CARVE : Nat := 0x2c00104
abbrev SDC_SCRUB_RATE : Nat := 0x2c00108
abbrev SDC_SCRUB_POS : Nat := 0x2c0010c
abbrev SDC_SCRUB_PASSES : Nat := 0x2c00110
abbrev SDC_FIXED_CNT : Nat := 0x2c00114
abbrev SDC_FAIL_CNT : Nat := 0x2c00118
abbrev SDC_WR_ABORT : Nat := 0x2c0011c
abbrev SDC_SCRUB_LIST_FILL : Nat := 0x2c00120
abbrev SDC_SCRUB_LOST : Nat := 0x2c00124
abbrev SDC_FAIL_LIMIT : Nat := 0x2c00128
abbrev SDC_STACK_IDX : Nat := 0x2c00200
abbrev SDC_WIN_BASE : Nat := 0x2c00204
abbrev SDC_WIN_STATUS : Nat := 0x2c00208
abbrev SDC_STACK_STATUS : Nat := 0x2c00300
abbrev SDC_STACK_FIXED : Nat := 0x2c00304
abbrev SDC_STACK_FAIL : Nat := 0x2c00308
abbrev SDC_STACK_TRAIN : Nat := 0x2c0030c
abbrev ERR_UNIT_IDX : Nat := 0x2e00800
abbrev ERR_Q_STATUS : Nat := 0x2e00804
abbrev ERR_Q_CTRL : Nat := 0x2e00808
abbrev ERR_Q_HEAD : Nat := 0x2e00810
abbrev ERR_Q_LOST : Nat := 0x2e00830
abbrev ERR_Q_MERGED : Nat := 0x2e00834
abbrev ERR_Q_TOTAL : Nat := 0x2e00838
abbrev ERR_SCRUB_PERIOD : Nat := 0x2e00840
abbrev ERR_SCRUB_CTRL : Nat := 0x2e00844
abbrev ERR_PAR_CNT : Nat := 0x2e00848
abbrev ERR_Q_NONEMPTY_LO : Nat := 0x2e00850
abbrev ERR_Q_NONEMPTY_HI : Nat := 0x2e00854

end R

namespace F

abbrev GLB_ID_PART : Fld := ⟨0x0000000, 0, 16⟩
abbrev GLB_ID_REV : Fld := ⟨0x0000000, 16, 8⟩
abbrev GLB_STATE_DEV : Fld := ⟨0x0000004, 0, 4⟩
abbrev GLB_STATE_PREV : Fld := ⟨0x0000004, 4, 4⟩
abbrev GLB_STATE_REGIME : Fld := ⟨0x0000004, 8, 1⟩
abbrev GLB_SLICE_STATE_LO_STATE : Fld := ⟨0x0000008, 0, 32⟩
abbrev GLB_SLICE_STATE_HI_STATE : Fld := ⟨0x000000c, 0, 32⟩
abbrev GLB_CTRL_STRUCT_HOLD : Fld := ⟨0x0000010, 0, 1⟩
abbrev GLB_CTRL_AUTO_SERVICE : Fld := ⟨0x0000010, 1, 1⟩
abbrev GLB_CTRL_AUTO_RECOVER : Fld := ⟨0x0000010, 2, 1⟩
abbrev GLB_STRUCT_REL_SLICE : Fld := ⟨0x0000014, 0, 16⟩
abbrev GLB_SERVICE_REQ_SLICE : Fld := ⟨0x0000018, 0, 16⟩
abbrev GLB_TEST_REQ_SLICE : Fld := ⟨0x000001c, 0, 16⟩
abbrev GLB_SLICE_RESET_SLICE : Fld := ⟨0x0000020, 0, 16⟩
abbrev GLB_CLUSTER_HOLD_HOLD : Fld := ⟨0x0000024, 0, 8⟩
abbrev GLB_SOFT_RESET_KEY : Fld := ⟨0x0000028, 0, 32⟩
abbrev GLB_RESET_CAUSE_POR : Fld := ⟨0x000002c, 0, 1⟩
abbrev GLB_RESET_CAUSE_PIN : Fld := ⟨0x000002c, 1, 1⟩
abbrev GLB_RESET_CAUSE_SOFT : Fld := ⟨0x000002c, 2, 1⟩
abbrev GLB_RESET_CAUSE_THERMAL : Fld := ⟨0x000002c, 3, 1⟩
abbrev GLB_BOOT_STATUS_FUSE_FAIL : Fld := ⟨0x0000030, 0, 1⟩
abbrev GLB_BOOT_STATUS_PLL_FAIL : Fld := ⟨0x0000030, 1, 1⟩
abbrev GLB_BOOT_STATUS_TRAIN_FAIL : Fld := ⟨0x0000030, 2, 1⟩
abbrev GLB_BOOT_STATUS_STACK_FAIL : Fld := ⟨0x0000030, 4, 4⟩
abbrev GLB_BOOT_STATUS_TRAIN_TRIES : Fld := ⟨0x0000030, 8, 2⟩
abbrev GLB_BOOT_TIME_US : Fld := ⟨0x0000034, 0, 32⟩
abbrev GLB_SLICE_CAUSE_LO_CAUSE : Fld := ⟨0x0000038, 0, 32⟩
abbrev GLB_SLICE_CAUSE_HI_CAUSE : Fld := ⟨0x000003c, 0, 32⟩
abbrev GLB_RECOVERY_CNT_COUNT : Fld := ⟨0x0000040, 0, 16⟩
abbrev GLB_STRAPS_DEVID : Fld := ⟨0x0000044, 0, 6⟩
abbrev GLB_FUSE_LOT_LO_LOT : Fld := ⟨0x0000050, 0, 32⟩
abbrev GLB_FUSE_LOT_HI_LOT : Fld := ⟨0x0000054, 0, 16⟩
abbrev GLB_FUSE_DIE_WAFER : Fld := ⟨0x0000058, 0, 5⟩
abbrev GLB_FUSE_DIE_DIE_X : Fld := ⟨0x0000058, 8, 8⟩
abbrev GLB_FUSE_DIE_DIE_Y : Fld := ⟨0x0000058, 16, 8⟩
abbrev GLB_FUSE_DIE_FUSE_REV : Fld := ⟨0x0000058, 24, 8⟩
abbrev GLB_FUSE_STACK_DIE_ID : Fld := ⟨0x000005c, 0, 32⟩
abbrev GLB_TEMP_MAX_DIE_C : Fld := ⟨0x0000080, 0, 8⟩
abbrev GLB_TEMP_MAX_STACK_C : Fld := ⟨0x0000080, 8, 8⟩
abbrev GLB_TEMP_MAX_PEAK_C : Fld := ⟨0x0000080, 16, 8⟩
abbrev GLB_TEMP_WARN_SET_C : Fld := ⟨0x0000084, 0, 8⟩
abbrev GLB_TEMP_WARN_CLEAR_C : Fld := ⟨0x0000084, 8, 8⟩
abbrev GLB_TEMP_WARN_ALERT_EN : Fld := ⟨0x0000084, 16, 1⟩
abbrev GLB_TEMP_STATUS_WARN : Fld := ⟨0x0000088, 0, 1⟩
abbrev GLB_TEMP_STATUS_STACK_HOT : Fld := ⟨0x0000088, 1, 1⟩
abbrev GLB_TEMP_SLICE_C : Fld := ⟨0x0000090, 0, 32⟩
abbrev HLD_CTRL_START : Fld := ⟨0x0100000, 0, 1⟩
abbrev HLD_CTRL_SRC : Fld := ⟨0x0100000, 1, 2⟩
abbrev HLD_CTRL_LIVE : Fld := ⟨0x0100000, 3, 1⟩
abbrev HLD_CTRL_SERVE_EN : Fld := ⟨0x0100000, 4, 1⟩
abbrev HLD_CTRL_PEER : Fld := ⟨0x0100000, 8, 6⟩
abbrev HLD_STATUS_BUSY : Fld := ⟨0x0100004, 0, 1⟩
abbrev HLD_STATUS_DONE : Fld := ⟨0x0100004, 1, 1⟩
abbrev HLD_STATUS_FAIL : Fld := ⟨0x0100004, 2, 1⟩
abbrev HLD_STATUS_PHASE : Fld := ⟨0x0100004, 4, 3⟩
abbrev HLD_STATUS_ERR : Fld := ⟨0x0100004, 8, 8⟩
abbrev HLD_STATUS_SECTION : Fld := ⟨0x0100004, 16, 16⟩
abbrev HLD_SRC_ADDR_LO_ADDR : Fld := ⟨0x0100008, 0, 32⟩
abbrev HLD_SRC_ADDR_HI_ADDR : Fld := ⟨0x010000c, 0, 32⟩
abbrev HLD_SRC_LEN_LEN : Fld := ⟨0x0100010, 0, 30⟩
abbrev HLD_IMAGE_SERIAL_SERIAL : Fld := ⟨0x0100014, 0, 32⟩
abbrev HLD_BOOT_SRC_BOOTSEL : Fld := ⟨0x0100018, 0, 2⟩
abbrev HLD_BOOT_SRC_SLOT : Fld := ⟨0x0100018, 2, 2⟩
abbrev HLD_SLICE_EN_EN : Fld := ⟨0x010001c, 0, 16⟩
abbrev HLD_LIVE_DONE_SLICE : Fld := ⟨0x0100020, 0, 16⟩
abbrev HLD_LIVE_DONE_CLUSTER : Fld := ⟨0x0100020, 16, 8⟩
abbrev HLD_LIVE_REFUSED_SLICE : Fld := ⟨0x0100024, 0, 16⟩
abbrev HLD_LIVE_REFUSED_CLUSTER : Fld := ⟨0x0100024, 16, 8⟩
abbrev HLD_LIVE_ERR_LO_CODE : Fld := ⟨0x0100028, 0, 32⟩
abbrev HLD_LIVE_ERR_HI_CODE : Fld := ⟨0x010002c, 0, 32⟩
abbrev HLD_LIVE_KERR_CODE : Fld := ⟨0x0100030, 0, 32⟩
abbrev HLD_LIVE_WAIT_WAIT_US : Fld := ⟨0x0100034, 0, 20⟩
abbrev HLD_REFUSED_CNT_COUNT : Fld := ⟨0x0100038, 0, 16⟩
abbrev HLD_FAIL_CNT_COUNT : Fld := ⟨0x010003c, 0, 16⟩
abbrev HLD_KEY_HASH_HASH : Fld := ⟨0x0100040, 0, 32⟩
abbrev HTR_CFG_H0_EN : Fld := ⟨0x0200100, 0, 1⟩
abbrev HTR_CFG_H1_EN : Fld := ⟨0x0200100, 1, 1⟩
abbrev HTR_STATUS_ROOT : Fld := ⟨0x0200104, 0, 1⟩
abbrev HTR_STATUS_H0_UP : Fld := ⟨0x0200104, 1, 1⟩
abbrev HTR_STATUS_H1_UP : Fld := ⟨0x0200104, 2, 1⟩
abbrev HTR_STATUS_RING_CLOSED : Fld := ⟨0x0200104, 3, 1⟩
abbrev HTR_STATUS_POSITION : Fld := ⟨0x0200104, 8, 6⟩
abbrev HTR_PRESENT_LO_DEVID : Fld := ⟨0x0200108, 0, 32⟩
abbrev HTR_PRESENT_HI_DEVID : Fld := ⟨0x020010c, 0, 32⟩
abbrev HTR_NOPEER_CNT_COUNT : Fld := ⟨0x0200110, 0, 16⟩
abbrev HTR_TIMEOUT_CNT_COUNT : Fld := ⟨0x0200114, 0, 16⟩
abbrev HTR_H0_DOWN_CNT_COUNT : Fld := ⟨0x0200118, 0, 16⟩
abbrev HTR_H1_DOWN_CNT_COUNT : Fld := ⟨0x020011c, 0, 16⟩
abbrev HTR_RX_BAD_COUNT : Fld := ⟨0x0200120, 0, 32⟩
abbrev HTR_RMT_CTRL_GO : Fld := ⟨0x0200200, 0, 1⟩
abbrev HTR_RMT_CTRL_WRITE : Fld := ⟨0x0200200, 1, 1⟩
abbrev HTR_RMT_CTRL_DEVID : Fld := ⟨0x0200200, 8, 6⟩
abbrev HTR_RMT_ADDR_ADDR : Fld := ⟨0x0200204, 0, 26⟩
abbrev HTR_RMT_DATA_DATA : Fld := ⟨0x0200208, 0, 32⟩
abbrev HTR_RMT_STATUS_BUSY : Fld := ⟨0x020020c, 0, 1⟩
abbrev HTR_RMT_STATUS_DONE : Fld := ⟨0x020020c, 1, 1⟩
abbrev HTR_RMT_STATUS_ERR : Fld := ⟨0x020020c, 2, 2⟩
abbrev HTR_RMT_REFUSED_COUNT : Fld := ⟨0x0200210, 0, 16⟩
abbrev HDM_BAD_ACCESS_COUNT : Fld := ⟨0x0300100, 0, 16⟩
abbrev HDM_HOST_ERR_COUNT : Fld := ⟨0x0300104, 0, 16⟩
abbrev HDM_Q_IDX_QUEUE : Fld := ⟨0x0300200, 0, 6⟩
abbrev HDM_RING_IDX_RING : Fld := ⟨0x0300204, 0, 3⟩
abbrev HDM_Q_CFG_ENABLE : Fld := ⟨0x0300300, 0, 1⟩
abbrev HDM_Q_CFG_KIND : Fld := ⟨0x0300300, 1, 2⟩
abbrev HDM_Q_CFG_CHAN : Fld := ⟨0x0300300, 8, 8⟩
abbrev HDM_Q_CFG_SIZE : Fld := ⟨0x0300300, 16, 4⟩
abbrev HDM_Q_TAIL_INDEX : Fld := ⟨0x0300304, 0, 8⟩
abbrev HDM_Q_HEAD_INDEX : Fld := ⟨0x0300308, 0, 8⟩
abbrev HDM_Q_CPL_LO_ADDR : Fld := ⟨0x030030c, 0, 32⟩
abbrev HDM_Q_CPL_HI_ADDR : Fld := ⟨0x0300310, 0, 32⟩
abbrev HDM_Q_STATUS_BUSY : Fld := ⟨0x0300314, 0, 1⟩
abbrev HDM_Q_STATUS_WAITING : Fld := ⟨0x0300314, 1, 1⟩
abbrev HDM_Q_DONE_CNT_COUNT : Fld := ⟨0x0300318, 0, 32⟩
abbrev HDM_Q_NOBUF_COUNT : Fld := ⟨0x030031c, 0, 16⟩
abbrev HDM_Q_DROP_COUNT : Fld := ⟨0x0300320, 0, 16⟩
abbrev HDM_RING_CFG_ENABLE : Fld := ⟨0x0300400, 0, 1⟩
abbrev HDM_RING_CFG_SIZE : Fld := ⟨0x0300400, 1, 5⟩
abbrev HDM_RING_CFG_INT_EN : Fld := ⟨0x0300400, 6, 1⟩
abbrev HDM_RING_BASE_LO_ADDR : Fld := ⟨0x0300404, 0, 32⟩
abbrev HDM_RING_BASE_HI_ADDR : Fld := ⟨0x0300408, 0, 32⟩
abbrev HDM_RING_WB_LO_ADDR : Fld := ⟨0x030040c, 0, 32⟩
abbrev HDM_RING_WB_HI_ADDR : Fld := ⟨0x0300410, 0, 32⟩
abbrev HDM_RING_HEAD_INDEX : Fld := ⟨0x0300414, 0, 20⟩
abbrev HDM_RING_TAIL_INDEX : Fld := ⟨0x0300418, 0, 20⟩
abbrev HDM_RING_INT_NS_NS : Fld := ⟨0x030041c, 0, 16⟩
abbrev HDM_EVT_RATE_PER_MS : Fld := ⟨0x0300480, 0, 16⟩
abbrev HDM_EVT_RATE_BURST : Fld := ⟨0x0300480, 16, 16⟩
abbrev HDM_EVT_DROP_COUNT : Fld := ⟨0x0300484, 0, 32⟩
abbrev HDM_EVT_SEQ_SEQ : Fld := ⟨0x0300488, 0, 16⟩
abbrev ERR_ALARM_HARNESS : Fld := ⟨0x2e00000, 0, 1⟩
abbrev ERR_ALARM_BOOT : Fld := ⟨0x2e00000, 1, 1⟩
abbrev ERR_ALARM_SLICE_FATAL : Fld := ⟨0x2e00000, 2, 1⟩
abbrev ERR_ALARM_HOLD_STUCK : Fld := ⟨0x2e00000, 3, 1⟩
abbrev ERR_ALARM_HOLD_CHATTER : Fld := ⟨0x2e00000, 4, 1⟩
abbrev ERR_ALARM_TEAM_SKEW : Fld := ⟨0x2e00000, 5, 1⟩
abbrev ERR_ALARM_NTU_JUMP : Fld := ⟨0x2e00000, 6, 1⟩
abbrev ERR_ALARM_STALL_ALL : Fld := ⟨0x2e00000, 7, 1⟩
abbrev ERR_ALARM_SCRUB_LOST : Fld := ⟨0x2e00000, 8, 1⟩
abbrev ERR_ALARM_MEM_FATAL : Fld := ⟨0x2e00000, 9, 1⟩
abbrev ERR_ALARM_STACK_DEGRADED : Fld := ⟨0x2e00000, 10, 1⟩
abbrev ERR_ALARM_THERMAL : Fld := ⟨0x2e00000, 11, 1⟩
abbrev ERR_ALARM_SW : Fld := ⟨0x2e00000, 12, 1⟩
abbrev ERR_ALARM_MASK_MASK : Fld := ⟨0x2e00004, 0, 13⟩
abbrev ERR_SW_DATA_DATA : Fld := ⟨0x2e00010, 0, 32⟩
abbrev ERR_SW_EVENT_CLASS : Fld := ⟨0x2e00030, 0, 2⟩
abbrev ERR_SW_EVENT_CODE : Fld := ⟨0x2e00030, 8, 16⟩
abbrev PORT_SEL_PRT_PORT : Fld := ⟨0x0400000, 0, 9⟩
abbrev PRT_MODE_KIND : Fld := ⟨0x0401000, 0, 2⟩
abbrev PRT_MODE_SPEED : Fld := ⟨0x0401000, 4, 4⟩
abbrev PRT_MODE_LANES : Fld := ⟨0x0401000, 8, 2⟩
abbrev PRT_MODE_FIRST_LANE : Fld := ⟨0x0401000, 12, 4⟩
abbrev PRT_MODE_LANE_RATE : Fld := ⟨0x0401000, 16, 3⟩
abbrev PRT_MODE_FEC74 : Fld := ⟨0x0401000, 19, 1⟩
abbrev PRT_MODE_CARRIER : Fld := ⟨0x0401000, 24, 6⟩
abbrev PRT_MAC_CFG_ENABLE : Fld := ⟨0x0401004, 0, 1⟩
abbrev PRT_MAC_CFG_HOLD_SEL : Fld := ⟨0x0401004, 8, 6⟩
abbrev PRT_MAC_CFG_MAX_FRAME : Fld := ⟨0x0401004, 16, 14⟩
abbrev PRT_RX_CAP_KIB : Fld := ⟨0x0401008, 0, 8⟩
abbrev PRT_STATUS_LINK : Fld := ⟨0x040100c, 0, 1⟩
abbrev PRT_STATUS_HELD : Fld := ⟨0x040100c, 1, 1⟩
abbrev PRT_STATUS_FEC_LOCK : Fld := ⟨0x040100c, 2, 1⟩
abbrev PRT_STATUS_PAYLOAD_RATE : Fld := ⟨0x040100c, 8, 10⟩
abbrev PRT_LINK_UP_HOLD_MS : Fld := ⟨0x0401010, 0, 8⟩
abbrev PRT_HOLD_NS_NS : Fld := ⟨0x0401014, 0, 32⟩
abbrev PRT_RX_OVERRUN_COUNT : Fld := ⟨0x0401020, 0, 32⟩
abbrev PRT_RX_RECOVERY_DROP_COUNT : Fld := ⟨0x0401024, 0, 32⟩
abbrev PRT_RX_RUNT_COUNT : Fld := ⟨0x0401028, 0, 32⟩
abbrev PRT_RX_OVERSIZE_COUNT : Fld := ⟨0x040102c, 0, 32⟩
abbrev PRT_RX_MACCTRL_COUNT : Fld := ⟨0x0401030, 0, 32⟩
abbrev PRT_LINK_DOWN_CNT_COUNT : Fld := ⟨0x0401034, 0, 16⟩
abbrev PRT_FEC_CORR_COUNT : Fld := ⟨0x0401038, 0, 32⟩
abbrev PRT_FEC_UNCORR_COUNT : Fld := ⟨0x040103c, 0, 32⟩
abbrev PRT_TX_ABORT_COUNT : Fld := ⟨0x0401040, 0, 32⟩
abbrev PRT_RX_DOWN_DROP_COUNT : Fld := ⟨0x0401044, 0, 32⟩
abbrev PRT_LANE_IDX_IDX : Fld := ⟨0x0401080, 0, 3⟩
abbrev PRT_LANE_TX_EQ_PRE2 : Fld := ⟨0x0401084, 0, 6⟩
abbrev PRT_LANE_TX_EQ_PRE1 : Fld := ⟨0x0401084, 8, 6⟩
abbrev PRT_LANE_TX_EQ_MAIN : Fld := ⟨0x0401084, 16, 6⟩
abbrev PRT_LANE_TX_EQ_POST1 : Fld := ⟨0x0401084, 24, 6⟩
abbrev PRT_LANE_CTRL_TX_INVERT : Fld := ⟨0x0401088, 0, 1⟩
abbrev PRT_LANE_CTRL_RX_INVERT : Fld := ⟨0x0401088, 1, 1⟩
abbrev PRT_LANE_CTRL_LOOPBACK : Fld := ⟨0x0401088, 2, 2⟩
abbrev PRT_LANE_CTRL_PRBS_SEL : Fld := ⟨0x0401088, 4, 3⟩
abbrev PRT_LANE_CTRL_PRBS_CHK : Fld := ⟨0x0401088, 7, 1⟩
abbrev PRT_LANE_STATUS_SIG_DET : Fld := ⟨0x040108c, 0, 1⟩
abbrev PRT_LANE_STATUS_CDR_LOCK : Fld := ⟨0x040108c, 1, 1⟩
abbrev PRT_LANE_STATUS_ADAPT_DONE : Fld := ⟨0x040108c, 2, 1⟩
abbrev PRT_LANE_STATUS_PRBS_LOCK : Fld := ⟨0x040108c, 3, 1⟩
abbrev PRT_LANE_STATUS_SNR : Fld := ⟨0x040108c, 8, 8⟩
abbrev PRT_LANE_PRBS_ERR_COUNT : Fld := ⟨0x0401090, 0, 32⟩
abbrev CAR_SEL_CARRIER : Fld := ⟨0x0800000, 0, 6⟩
abbrev CAR_HOLD_PIN_LEVEL : Fld := ⟨0x0800100, 0, 32⟩
abbrev CAR_HOLD_POL_LOW : Fld := ⟨0x0800104, 0, 32⟩
abbrev CAR_HOLD_MASK_MASK : Fld := ⟨0x0800108, 0, 32⟩
abbrev CAR_HOLD_STUCK_STUCK : Fld := ⟨0x080010c, 0, 32⟩
abbrev CAR_HOLD_CHATTER_CHATTER : Fld := ⟨0x0800110, 0, 32⟩
abbrev CAR_HOLD_LIMITS_STUCK_MS : Fld := ⟨0x0800114, 0, 16⟩
abbrev CAR_HOLD_LIMITS_CHATTER_MAX : Fld := ⟨0x0800114, 16, 8⟩
abbrev CAR_CFG_ENABLE : Fld := ⟨0x0801000, 0, 1⟩
abbrev CAR_CFG_PHY_TYPE : Fld := ⟨0x0801000, 1, 2⟩
abbrev CAR_CFG_PHY_COUNT : Fld := ⟨0x0801000, 3, 5⟩
abbrev CAR_CFG_FIRST_LANE : Fld := ⟨0x0801000, 8, 4⟩
abbrev CAR_CFG_LANE_RATE : Fld := ⟨0x0801000, 12, 3⟩
abbrev CAR_CFG_SLICE : Fld := ⟨0x0801000, 16, 4⟩
abbrev CAR_CFG_PHY_BASE : Fld := ⟨0x0801000, 20, 8⟩
abbrev CAR_GROUP_GROUP_NUM : Fld := ⟨0x0801004, 0, 20⟩
abbrev CAR_HOLD_CFG_SEL : Fld := ⟨0x0801008, 0, 6⟩
abbrev CAR_HOLD_CFG_RESUME_NS : Fld := ⟨0x0801008, 16, 16⟩
abbrev CAR_CAL_IDX_SLOT : Fld := ⟨0x0801010, 0, 9⟩
abbrev CAR_CAL_IDX_BANK : Fld := ⟨0x0801010, 12, 1⟩
abbrev CAR_CAL_IDX_RX : Fld := ⟨0x0801010, 13, 1⟩
abbrev CAR_CAL_ENTRY_ENTRY : Fld := ⟨0x0801014, 0, 6⟩
abbrev CAR_CAL_CTRL_ARM : Fld := ⟨0x0801018, 0, 1⟩
abbrev CAR_CAL_CTRL_CANCEL : Fld := ⟨0x0801018, 1, 1⟩
abbrev CAR_CAL_CTRL_MODE : Fld := ⟨0x0801018, 2, 1⟩
abbrev CAR_CAL_CTRL_IMMEDIATE : Fld := ⟨0x0801018, 3, 1⟩
abbrev CAR_CAL_CTRL_HS_TIMEOUT : Fld := ⟨0x0801018, 8, 4⟩
abbrev CAR_CAL_STATUS_ACTIVE : Fld := ⟨0x080101c, 0, 1⟩
abbrev CAR_CAL_STATUS_ARMED : Fld := ⟨0x080101c, 1, 1⟩
abbrev CAR_CAL_STATUS_LATE : Fld := ⟨0x080101c, 2, 1⟩
abbrev CAR_CAL_STATUS_ABORTED : Fld := ⟨0x080101c, 3, 1⟩
abbrev CAR_CAL_STATUS_RX_CCC : Fld := ⟨0x080101c, 4, 1⟩
abbrev CAR_CAL_STATUS_CAL_MISMATCH : Fld := ⟨0x080101c, 5, 1⟩
abbrev CAR_CAL_STATUS_CR_SENT : Fld := ⟨0x080101c, 6, 1⟩
abbrev CAR_CAL_STATUS_CA_RCVD : Fld := ⟨0x080101c, 7, 1⟩
abbrev CAR_SW_TIME_NS_NS : Fld := ⟨0x0801020, 0, 30⟩
abbrev CAR_SW_TIME_SEC_LO_SEC : Fld := ⟨0x0801024, 0, 32⟩
abbrev CAR_SW_TIME_SEC_HI_SEC : Fld := ⟨0x0801028, 0, 16⟩
abbrev CAR_MF_NEXT_NS_NS : Fld := ⟨0x080102c, 0, 30⟩
abbrev CAR_MF_NEXT_SEC_LO_SEC : Fld := ⟨0x0801030, 0, 32⟩
abbrev CAR_MF_NEXT_SEC_HI_SEC : Fld := ⟨0x0801034, 0, 16⟩
abbrev CAR_STATUS_UP : Fld := ⟨0x0801038, 0, 1⟩
abbrev CAR_STATUS_HELD : Fld := ⟨0x0801038, 1, 1⟩
abbrev CAR_STATUS_OH_LOCK : Fld := ⟨0x0801038, 2, 1⟩
abbrev CAR_STATUS_PHY_ALIGNED : Fld := ⟨0x0801038, 16, 16⟩
abbrev CAR_RATE_CLIENT_SLOTS : Fld := ⟨0x080103c, 0, 9⟩
abbrev CAR_RATE_AVAIL_SLOTS : Fld := ⟨0x080103c, 16, 9⟩
abbrev CAR_HOLD_NS_NS : Fld := ⟨0x0801040, 0, 32⟩
abbrev CAR_CAL_REFUSED_COUNT : Fld := ⟨0x0801044, 0, 16⟩
abbrev CAR_DOWN_CNT_COUNT : Fld := ⟨0x0801048, 0, 16⟩
abbrev CAR_LINK_UP_HOLD_MS : Fld := ⟨0x080104c, 0, 8⟩
abbrev CAR_RC_CFG_TRIG_SEL : Fld := ⟨0x0801080, 0, 6⟩
abbrev CAR_RC_CFG_TRIG_WIDTH_NS : Fld := ⟨0x0801080, 8, 12⟩
abbrev CAR_RC_CFG_RX_CHECK : Fld := ⟨0x0801080, 20, 1⟩
abbrev CAR_RC_LEAD_US : Fld := ⟨0x0801084, 0, 14⟩
abbrev CAR_RC_RXWAIT_US : Fld := ⟨0x0801088, 0, 16⟩
abbrev CAR_RC_ADVANCE_NS : Fld := ⟨0x080108c, 0, 20⟩
abbrev CAR_RC_TIME_NS_NS : Fld := ⟨0x0801090, 0, 30⟩
abbrev CAR_RC_TIME_SEC_LO_SEC : Fld := ⟨0x0801094, 0, 32⟩
abbrev CAR_RC_TIME_SEC_HI_SEC : Fld := ⟨0x0801098, 0, 16⟩
abbrev CAR_RC_CTRL_ARM : Fld := ⟨0x080109c, 0, 1⟩
abbrev CAR_RC_CTRL_CANCEL : Fld := ⟨0x080109c, 1, 1⟩
abbrev CAR_RC_CTRL_IMMEDIATE : Fld := ⟨0x080109c, 2, 1⟩
abbrev CAR_RC_CTRL_CAL_SW : Fld := ⟨0x080109c, 3, 1⟩
abbrev CAR_RC_CTRL_MEMBER_OP : Fld := ⟨0x080109c, 4, 2⟩
abbrev CAR_RC_STATUS_ARMED : Fld := ⟨0x08010a0, 0, 1⟩
abbrev CAR_RC_STATUS_RAMP : Fld := ⟨0x08010a0, 1, 1⟩
abbrev CAR_RC_STATUS_DONE : Fld := ⟨0x08010a0, 2, 1⟩
abbrev CAR_RC_STATUS_LATE : Fld := ⟨0x08010a0, 3, 1⟩
abbrev CAR_RC_STATUS_SHORT_LEAD : Fld := ⟨0x08010a0, 4, 1⟩
abbrev CAR_RC_STATUS_NEW_VOID : Fld := ⟨0x08010a0, 5, 1⟩
abbrev CAR_RC_STATUS_DEFERRED : Fld := ⟨0x08010a0, 6, 1⟩
abbrev CAR_RC_STATUS_RX_LATE : Fld := ⟨0x08010a0, 7, 1⟩
abbrev CAR_RC_STATUS_RX_DONE : Fld := ⟨0x08010a0, 8, 1⟩
abbrev CAR_RC_STATUS_MEMBER_FAIL : Fld := ⟨0x08010a0, 9, 1⟩
abbrev CAR_RC_STATUS_CANCELLED : Fld := ⟨0x08010a0, 10, 1⟩
abbrev CAR_RC_STATUS_ERR : Fld := ⟨0x08010a0, 12, 4⟩
abbrev CAR_RC_TSW_NS_NS : Fld := ⟨0x08010a4, 0, 30⟩
abbrev CAR_RC_TSW_SEC_LO_SEC : Fld := ⟨0x08010a8, 0, 32⟩
abbrev CAR_RC_TSW_SEC_HI_SEC : Fld := ⟨0x08010ac, 0, 16⟩
abbrev CAR_RC_SLOTS_OLD : Fld := ⟨0x08010b0, 0, 9⟩
abbrev CAR_RC_SLOTS_NEW : Fld := ⟨0x08010b0, 16, 9⟩
abbrev CAR_RC_EFFECT_NS_NS : Fld := ⟨0x08010b4, 0, 30⟩
abbrev CAR_RC_DONE_CNT_COUNT : Fld := ⟨0x08010b8, 0, 16⟩
abbrev TEAM_SEL_TEAM : Fld := ⟨0x0a00000, 0, 5⟩
abbrev TEM_ETYPE_ETYPE : Fld := ⟨0x0a00100, 0, 16⟩
abbrev TEM_PROBE_MAC_LO_MAC : Fld := ⟨0x0a00104, 0, 32⟩
abbrev TEM_PROBE_MAC_HI_MAC : Fld := ⟨0x0a00108, 0, 16⟩
abbrev TEM_DOMAIN_SALT_SALT : Fld := ⟨0x0a0010c, 0, 32⟩
abbrev TEM_WIN_FREE_KIB : Fld := ⟨0x0a00110, 0, 15⟩
abbrev TEM_SPILL_RATE_GBPS : Fld := ⟨0x0a00114, 0, 14⟩
abbrev TEM_MEMBER_IDX_MEMBER : Fld := ⟨0x0a00200, 0, 4⟩
abbrev TEM_DOM_IDX_DOMAIN : Fld := ⟨0x0a00204, 0, 12⟩
abbrev TEM_TEAM_CFG_ENABLE : Fld := ⟨0x0a01000, 0, 1⟩
abbrev TEM_TEAM_CFG_COUNT : Fld := ⟨0x0a01000, 1, 5⟩
abbrev TEM_TEAM_CFG_SPILL : Fld := ⟨0x0a01000, 6, 1⟩
abbrev TEM_TEAM_CFG_FAST_SKIP : Fld := ⟨0x0a01000, 7, 1⟩
abbrev TEM_TEAM_CFG_TEAM_PORT : Fld := ⟨0x0a01000, 16, 9⟩
abbrev TEM_TEAM_SKEW_SKEW_US : Fld := ⟨0x0a01004, 0, 13⟩
abbrev TEM_GAP_WAIT_US : Fld := ⟨0x0a01008, 0, 13⟩
abbrev TEM_TEAM_WIN_KIB : Fld := ⟨0x0a0100c, 0, 15⟩
abbrev TEM_DELIV_LO_SLICE : Fld := ⟨0x0a01010, 0, 32⟩
abbrev TEM_DELIV_HI_SLICE : Fld := ⟨0x0a01014, 0, 32⟩
abbrev TEM_DELIV_LEN_LEN : Fld := ⟨0x0a01018, 0, 5⟩
abbrev TEM_PROBE_CFG_IDLE_US : Fld := ⟨0x0a0101c, 0, 10⟩
abbrev TEM_PROBE_CFG_MAX_US : Fld := ⟨0x0a0101c, 16, 10⟩
abbrev TEM_SILENT_US : Fld := ⟨0x0a01020, 0, 10⟩
abbrev TEM_TEAM_CTRL_RESYNC : Fld := ⟨0x0a01024, 0, 1⟩
abbrev TEM_TEAM_CTRL_TX_RESET : Fld := ⟨0x0a01024, 1, 1⟩
abbrev TEM_TEAM_STATUS_STATE : Fld := ⟨0x0a01028, 0, 2⟩
abbrev TEM_TEAM_STATUS_SKEW_OVER : Fld := ⟨0x0a01028, 2, 1⟩
abbrev TEM_TEAM_STATUS_TX_EPOCH : Fld := ⟨0x0a01028, 16, 16⟩
abbrev TEM_RX_EPOCH_EPOCH : Fld := ⟨0x0a0102c, 0, 16⟩
abbrev TEM_TEAM_RATE_MBPS : Fld := ⟨0x0a01030, 0, 22⟩
abbrev TEM_HELD_BYTES_BYTES : Fld := ⟨0x0a01034, 0, 32⟩
abbrev TEM_HELD_PEAK_BYTES : Fld := ⟨0x0a01038, 0, 32⟩
abbrev TEM_SPILLED_BYTES_KIB : Fld := ⟨0x0a0103c, 0, 32⟩
abbrev TEM_RELEASED_COUNT : Fld := ⟨0x0a01040, 0, 32⟩
abbrev TEM_DUP_SEQ_COUNT : Fld := ⟨0x0a01044, 0, 32⟩
abbrev TEM_FAR_COUNT : Fld := ⟨0x0a01048, 0, 32⟩
abbrev TEM_LOST_COUNT : Fld := ⟨0x0a0104c, 0, 32⟩
abbrev TEM_FAST_SKIP_COUNT : Fld := ⟨0x0a01050, 0, 32⟩
abbrev TEM_WIN_DROP_COUNT : Fld := ⟨0x0a01054, 0, 32⟩
abbrev TEM_SPILL_DROP_COUNT : Fld := ⟨0x0a01058, 0, 32⟩
abbrev TEM_DELIV_DROP_COUNT : Fld := ⟨0x0a0105c, 0, 32⟩
abbrev TEM_RESYNC_DROP_COUNT : Fld := ⟨0x0a01060, 0, 32⟩
abbrev TEM_MBR_CFG_PORT : Fld := ⟨0x0a01100, 0, 9⟩
abbrev TEM_MBR_CTRL_DRAIN : Fld := ⟨0x0a01104, 0, 1⟩
abbrev TEM_MBR_CTRL_RESTORE : Fld := ⟨0x0a01104, 1, 1⟩
abbrev TEM_MBR_STATUS_TX_STATE : Fld := ⟨0x0a01108, 0, 2⟩
abbrev TEM_MBR_STATUS_RX_STATE : Fld := ⟨0x0a01108, 4, 3⟩
abbrev TEM_MBR_STATUS_HELD : Fld := ⟨0x0a01108, 7, 1⟩
abbrev TEM_MBR_STATUS_TX_PHASE : Fld := ⟨0x0a01108, 8, 1⟩
abbrev TEM_MBR_STATUS_RX_PHASE : Fld := ⟨0x0a01108, 9, 1⟩
abbrev TEM_MBR_STATUS_SKEW_OVER : Fld := ⟨0x0a01108, 10, 1⟩
abbrev TEM_MBR_DELAY_NS_NS : Fld := ⟨0x0a0110c, 0, 32⟩
abbrev TEM_MBR_SKEW_NS_NS : Fld := ⟨0x0a01110, 0, 23⟩
abbrev TEM_MBR_RATE_MBPS : Fld := ⟨0x0a01114, 0, 22⟩
abbrev TEM_MBR_TX_FRAMES_COUNT : Fld := ⟨0x0a01120, 0, 32⟩
abbrev TEM_MBR_TX_PROBES_COUNT : Fld := ⟨0x0a01124, 0, 32⟩
abbrev TEM_MBR_RX_FRAMES_COUNT : Fld := ⟨0x0a01128, 0, 32⟩
abbrev TEM_MBR_RX_NOSHIM_COUNT : Fld := ⟨0x0a0112c, 0, 32⟩
abbrev TEM_MBR_RX_CRC_COUNT : Fld := ⟨0x0a01130, 0, 32⟩
abbrev TEM_MBR_RX_BADVER_COUNT : Fld := ⟨0x0a01134, 0, 32⟩
abbrev TEM_MBR_RX_MISWIRE_COUNT : Fld := ⟨0x0a01138, 0, 32⟩
abbrev TEM_MBR_ALIVE_DUP_COUNT : Fld := ⟨0x0a0113c, 0, 32⟩
abbrev TEM_MBR_ALIVE_JUMP_COUNT : Fld := ⟨0x0a01140, 0, 32⟩
abbrev TEM_MBR_ALIVE_LOST_COUNT : Fld := ⟨0x0a01144, 0, 32⟩
abbrev TEM_DOM_EXPECT_SEQ : Fld := ⟨0x0a01200, 0, 32⟩
abbrev TEM_DOM_NEXT_SEQ : Fld := ⟨0x0a01204, 0, 32⟩
abbrev TEM_DOM_STATUS_UNSYNCED : Fld := ⟨0x0a01208, 0, 1⟩
abbrev TEM_DOM_STATUS_HOLDING : Fld := ⟨0x0a01208, 1, 1⟩
abbrev TEM_DOM_STATUS_HELD : Fld := ⟨0x0a01208, 16, 16⟩
abbrev SLICE_SEL_SLC_SLICE : Fld := ⟨0x0c00000, 0, 4⟩
abbrev SLC_PARSE_EN_VLAN_Q : Fld := ⟨0x0c01000, 0, 1⟩
abbrev SLC_PARSE_EN_VLAN_AD : Fld := ⟨0x0c01000, 1, 1⟩
abbrev SLC_PARSE_EN_VLAN_ALT : Fld := ⟨0x0c01000, 2, 1⟩
abbrev SLC_PARSE_EN_MPLS : Fld := ⟨0x0c01000, 3, 1⟩
abbrev SLC_PARSE_EN_IPV4 : Fld := ⟨0x0c01000, 4, 1⟩
abbrev SLC_PARSE_EN_IPV6 : Fld := ⟨0x0c01000, 5, 1⟩
abbrev SLC_PARSE_EN_IPV6_EXT : Fld := ⟨0x0c01000, 6, 1⟩
abbrev SLC_PARSE_EN_SRH : Fld := ⟨0x0c01000, 7, 1⟩
abbrev SLC_PARSE_EN_UDP : Fld := ⟨0x0c01000, 8, 1⟩
abbrev SLC_PARSE_EN_TCP : Fld := ⟨0x0c01000, 9, 1⟩
abbrev SLC_PARSE_EN_VXLAN : Fld := ⟨0x0c01000, 10, 1⟩
abbrev SLC_PARSE_EN_GENEVE : Fld := ⟨0x0c01000, 11, 1⟩
abbrev SLC_PARSE_EN_GRE : Fld := ⟨0x0c01000, 12, 1⟩
abbrev SLC_PARSE_EN_PTP : Fld := ⟨0x0c01000, 13, 1⟩
abbrev SLC_PARSE_EN_SHIM : Fld := ⟨0x0c01000, 14, 1⟩
abbrev SLC_PARSE_EN_ESP : Fld := ⟨0x0c01000, 15, 1⟩
abbrev SLC_PARSE_EN_MACSEC : Fld := ⟨0x0c01000, 16, 1⟩
abbrev SLC_PARSE_EN_INNER : Fld := ⟨0x0c01000, 17, 1⟩
abbrev SLC_PARSE_LIMIT_MAX_HDRS : Fld := ⟨0x0c01004, 0, 5⟩
abbrev SLC_PARSE_LIMIT_MAX_BYTES : Fld := ⟨0x0c01004, 8, 6⟩
abbrev SLC_TPID_ALT_TPID : Fld := ⟨0x0c01008, 0, 16⟩
abbrev SLC_UDP_PORTS_VXLAN : Fld := ⟨0x0c0100c, 0, 16⟩
abbrev SLC_UDP_PORTS_GENEVE : Fld := ⟨0x0c0100c, 16, 16⟩
abbrev SLC_FAIL_ACT_MAL_ACT : Fld := ⟨0x0c01010, 0, 2⟩
abbrev SLC_FAIL_ACT_PL_ACT : Fld := ⟨0x0c01010, 2, 2⟩
abbrev SLC_FAIL_ACT_L2_CLASS : Fld := ⟨0x0c01010, 4, 3⟩
abbrev SLC_DEFACT_ACT : Fld := ⟨0x0c01020, 0, 32⟩
abbrev SLC_PARSE_OK_CNT_COUNT : Fld := ⟨0x0c01040, 0, 32⟩
abbrev SLC_STOP_CNT_COUNT : Fld := ⟨0x0c01044, 0, 32⟩
abbrev SLC_MAL_RSN_COUNT : Fld := ⟨0x0c01084, 0, 32⟩
abbrev SLC_PL_RSN_COUNT : Fld := ⟨0x0c010c4, 0, 32⟩
abbrev SLC_PORT_MAL_COUNT : Fld := ⟨0x0c01100, 0, 32⟩
abbrev SLC_PORT_PL_COUNT : Fld := ⟨0x0c01180, 0, 32⟩
abbrev SLC_PORT_DEFACT_COUNT : Fld := ⟨0x0c01200, 0, 32⟩
abbrev SLC_FAIL_DROP_COUNT : Fld := ⟨0x0c01280, 0, 32⟩
abbrev SLC_FAIL_PUNT_COUNT : Fld := ⟨0x0c01284, 0, 32⟩
abbrev SLC_FAIL_L2_COUNT : Fld := ⟨0x0c01288, 0, 32⟩
abbrev SLC_LAST_FAIL_PORT : Fld := ⟨0x0c01290, 0, 5⟩
abbrev SLC_LAST_FAIL_STATUS : Fld := ⟨0x0c01290, 8, 8⟩
abbrev SLC_LAST_FAIL_OFFSET : Fld := ⟨0x0c01290, 16, 9⟩
abbrev CLS_BANK_SIZE_SHARE0 : Fld := ⟨0x0c02000, 0, 4⟩
abbrev CLS_STATE_ACTIVE_BANK : Fld := ⟨0x0c02004, 0, 1⟩
abbrev CLS_STATE_BANK0 : Fld := ⟨0x0c02004, 4, 3⟩
abbrev CLS_STATE_BANK1 : Fld := ⟨0x0c02004, 8, 3⟩
abbrev CLS_EPOCH_ACTIVE : Fld := ⟨0x0c02008, 0, 16⟩
abbrev CLS_EPOCH_DRAINING : Fld := ⟨0x0c02008, 16, 16⟩
abbrev CLS_EPOCH_INFLIGHT_COUNT : Fld := ⟨0x0c0200c, 0, 24⟩
abbrev CLS_ACTIVE_INFLIGHT_COUNT : Fld := ⟨0x0c02010, 0, 24⟩
abbrev CLS_STAGE_CTRL_SEAL : Fld := ⟨0x0c02014, 0, 1⟩
abbrev CLS_STAGE_CTRL_UNSEAL : Fld := ⟨0x0c02014, 1, 1⟩
abbrev CLS_CTRL_RELEASE : Fld := ⟨0x0c02018, 0, 1⟩
abbrev CLS_CTRL_CNT_CLEAR : Fld := ⟨0x0c02018, 1, 1⟩
abbrev CLS_EPOCH_REL_RELEASED : Fld := ⟨0x0c0201c, 0, 16⟩
abbrev CLS_SWAP_CTRL_ARM : Fld := ⟨0x0c02020, 0, 1⟩
abbrev CLS_SWAP_CTRL_CANCEL : Fld := ⟨0x0c02020, 1, 1⟩
abbrev CLS_SWAP_CTRL_IMMEDIATE : Fld := ⟨0x0c02020, 3, 1⟩
abbrev CLS_SWAP_STATUS_ARMED : Fld := ⟨0x0c02024, 0, 1⟩
abbrev CLS_SWAP_STATUS_LATE : Fld := ⟨0x0c02024, 1, 1⟩
abbrev CLS_SWAP_STATUS_DONE : Fld := ⟨0x0c02024, 2, 1⟩
abbrev CLS_SWAP_TIME_NS_NS : Fld := ⟨0x0c02028, 0, 30⟩
abbrev CLS_SWAP_TIME_SEC_LO_SEC : Fld := ⟨0x0c0202c, 0, 32⟩
abbrev CLS_SWAP_TIME_SEC_HI_SEC : Fld := ⟨0x0c02030, 0, 16⟩
abbrev CLS_LAST_SWAP_NS_NS : Fld := ⟨0x0c02034, 0, 30⟩
abbrev CLS_RULES_COUNT : Fld := ⟨0x0c02038, 0, 18⟩
abbrev CLS_UPD_DATA_DATA : Fld := ⟨0x0c02040, 0, 32⟩
abbrev CLS_UPD_ADDR_WORD : Fld := ⟨0x0c02080, 0, 17⟩
abbrev CLS_UPD_ADDR_WORDS : Fld := ⟨0x0c02080, 24, 4⟩
abbrev CLS_UPD_CTRL_GO : Fld := ⟨0x0c02084, 0, 1⟩
abbrev CLS_UPD_STATUS_BUSY : Fld := ⟨0x0c02088, 0, 1⟩
abbrev CLS_UPD_STATUS_DONE : Fld := ⟨0x0c02088, 1, 1⟩
abbrev CLS_UPD_STATUS_ERR : Fld := ⟨0x0c02088, 2, 2⟩
abbrev CLS_COMMIT_SEQ : Fld := ⟨0x0c0208c, 0, 32⟩
abbrev CLS_COMMIT_NS_NS : Fld := ⟨0x0c02090, 0, 30⟩
abbrev CLS_PKT_SEQ_SEQ : Fld := ⟨0x0c02094, 0, 32⟩
abbrev CLS_KEY_EXT_DESC : Fld := ⟨0x0c020a0, 0, 32⟩
abbrev CLS_CLASSIFIED_COUNT : Fld := ⟨0x0c020e0, 0, 32⟩
abbrev CLS_MISS_CNT_COUNT : Fld := ⟨0x0c020e4, 0, 32⟩
abbrev CLS_DROP_CNT_COUNT : Fld := ⟨0x0c020e8, 0, 32⟩
abbrev CLS_PUNT_CNT_COUNT : Fld := ⟨0x0c020ec, 0, 32⟩
abbrev CLS_RELEASED_DROP_COUNT : Fld := ⟨0x0c020f0, 0, 32⟩
abbrev CLS_XSLICE_DROP_COUNT : Fld := ⟨0x0c020f4, 0, 32⟩
abbrev CLS_DEPTH_ERR_COUNT : Fld := ⟨0x0c020f8, 0, 16⟩
abbrev CLS_BAD_ACTION_COUNT : Fld := ⟨0x0c020fc, 0, 16⟩
abbrev CLS_REFUSED_COUNT : Fld := ⟨0x0c02100, 0, 16⟩
abbrev SLICE_SEL_FLW_SLICE : Fld := ⟨0x1000000, 0, 4⟩
abbrev FLW_CFG_TABLE_SIZE : Fld := ⟨0x1000100, 0, 2⟩
abbrev FLW_CFG_EVICT : Fld := ⟨0x1000100, 4, 1⟩
abbrev FLW_CFG_EXPORT_EN : Fld := ⟨0x1000100, 5, 1⟩
abbrev FLW_CFG_SCAN_EN : Fld := ⟨0x1000100, 6, 1⟩
abbrev FLW_SALT1_SALT : Fld := ⟨0x1000104, 0, 32⟩
abbrev FLW_SALT2_SALT : Fld := ⟨0x1000108, 0, 32⟩
abbrev FLW_SALT3_SALT : Fld := ⟨0x100010c, 0, 32⟩
abbrev FLW_LFSR_SEED : Fld := ⟨0x1000110, 0, 16⟩
abbrev FLW_DEV_BUDGET_RATE : Fld := ⟨0x1000114, 0, 13⟩
abbrev FLW_INS_RATE_RATE : Fld := ⟨0x1000118, 0, 8⟩
abbrev FLW_SCAN_RATE_RATE : Fld := ⟨0x100011c, 0, 8⟩
abbrev FLW_NAT_BASE_MIB : Fld := ⟨0x1000120, 0, 12⟩
abbrev FLW_PROF_IDX_IDX : Fld := ⟨0x1000140, 0, 4⟩
abbrev FLW_PROF_MASK_LO_MASK : Fld := ⟨0x1000144, 0, 32⟩
abbrev FLW_PROF_MASK_HI_MASK : Fld := ⟨0x1000148, 0, 16⟩
abbrev FLW_PROF_CFG_VRF_SRC : Fld := ⟨0x100014c, 0, 2⟩
abbrev FLW_PROF_CFG_IDLE_CLASS : Fld := ⟨0x100014c, 4, 4⟩
abbrev FLW_PROF_CFG_NOTIFY : Fld := ⟨0x100014c, 8, 1⟩
abbrev FLW_PROF_CFG_EXPORT : Fld := ⟨0x100014c, 9, 1⟩
abbrev FLW_CLASS_PROF_PROF : Fld := ⟨0x1000150, 0, 32⟩
abbrev FLW_CLASS_OVF_DROP : Fld := ⟨0x1000154, 0, 8⟩
abbrev FLW_IDLE_T_MS : Fld := ⟨0x1000180, 0, 24⟩
abbrev FLW_OP_KEY_KEY : Fld := ⟨0x1000200, 0, 32⟩
abbrev FLW_OP_DATA_DATA : Fld := ⟨0x1000240, 0, 32⟩
abbrev FLW_OP_CTRL_GO : Fld := ⟨0x1000280, 0, 1⟩
abbrev FLW_OP_CTRL_OP : Fld := ⟨0x1000280, 1, 3⟩
abbrev FLW_OP_CTRL_PROFILE : Fld := ⟨0x1000280, 4, 4⟩
abbrev FLW_OP_CTRL_CHECK : Fld := ⟨0x1000280, 8, 1⟩
abbrev FLW_OP_CTRL_EXP_VERSION : Fld := ⟨0x1000280, 9, 4⟩
abbrev FLW_OP_CTRL_EXPORT : Fld := ⟨0x1000280, 13, 1⟩
abbrev FLW_OP_CTRL_WMASK : Fld := ⟨0x1000280, 16, 16⟩
abbrev FLW_OP_SLOT_SLOT : Fld := ⟨0x1000284, 0, 26⟩
abbrev FLW_OP_STATUS_BUSY : Fld := ⟨0x1000288, 0, 1⟩
abbrev FLW_OP_STATUS_DONE : Fld := ⟨0x1000288, 1, 1⟩
abbrev FLW_OP_STATUS_ERR : Fld := ⟨0x1000288, 2, 3⟩
abbrev FLW_OP_RSLOT_SLOT : Fld := ⟨0x100028c, 0, 26⟩
abbrev FLW_OP_REFUSED_COUNT : Fld := ⟨0x10002c8, 0, 16⟩
abbrev FLW_OCCUPANCY_COUNT : Fld := ⟨0x1000300, 0, 27⟩
abbrev FLW_INSERT_CNT_COUNT : Fld := ⟨0x1000304, 0, 32⟩
abbrev FLW_EVICT_CNT_COUNT : Fld := ⟨0x1000308, 0, 32⟩
abbrev FLW_AGED_CNT_COUNT : Fld := ⟨0x100030c, 0, 32⟩
abbrev FLW_REVIVE_CNT_COUNT : Fld := ⟨0x1000310, 0, 32⟩
abbrev FLW_INVALID_CNT_COUNT : Fld := ⟨0x1000314, 0, 32⟩
abbrev FLW_WB_CNT_COUNT : Fld := ⟨0x1000318, 0, 32⟩
abbrev FLW_EXP_CNT_COUNT : Fld := ⟨0x100031c, 0, 32⟩
abbrev FLW_EXP_DROP_COUNT : Fld := ⟨0x1000320, 0, 32⟩
abbrev FLW_EXP_FILL_ENTRIES : Fld := ⟨0x1000324, 0, 20⟩
abbrev FLW_NOTICE_DROP_COUNT : Fld := ⟨0x1000328, 0, 32⟩
abbrev FLW_SLICE_BUDGET_RATE : Fld := ⟨0x1001000, 0, 10⟩
abbrev FLW_LOOKUPS_COUNT : Fld := ⟨0x1001004, 0, 32⟩
abbrev FLW_HITS_COUNT : Fld := ⟨0x1001008, 0, 32⟩
abbrev FLW_MISS_LOOKUPS_COUNT : Fld := ⟨0x100100c, 0, 32⟩
abbrev FLW_MISS_READS_COUNT : Fld := ⟨0x1001010, 0, 32⟩
abbrev FLW_MISS_WRITES_COUNT : Fld := ⟨0x1001014, 0, 32⟩
abbrev FLW_OVF_BUDGET_COUNT : Fld := ⟨0x1001018, 0, 32⟩
abbrev FLW_OVF_LANE_COUNT : Fld := ⟨0x100101c, 0, 32⟩
abbrev FLW_OVF_INSRATE_COUNT : Fld := ⟨0x1001020, 0, 32⟩
abbrev FLW_OVF_FULL_COUNT : Fld := ⟨0x1001024, 0, 32⟩
abbrev FLW_OVF_DROP_COUNT : Fld := ⟨0x1001028, 0, 32⟩
abbrev FLW_LANE_PEAK_COUNT : Fld := ⟨0x100102c, 0, 10⟩
abbrev FLW_NAT_SKIP_COUNT : Fld := ⟨0x1001030, 0, 32⟩
abbrev SLICE_SEL_FWD_SLICE : Fld := ⟨0x1400000, 0, 4⟩
abbrev FWD_CFG_L2_EVICT : Fld := ⟨0x1400100, 0, 1⟩
abbrev FWD_CFG_LEAF_OVF : Fld := ⟨0x1400100, 1, 1⟩
abbrev FWD_CFG_L2_SCAN_EN : Fld := ⟨0x1400100, 2, 1⟩
abbrev FWD_ECMP_SALT_SALT : Fld := ⟨0x1400104, 0, 32⟩
abbrev FWD_LAG_SALT_SALT : Fld := ⟨0x1400108, 0, 32⟩
abbrev FWD_L2_SALT1_SALT : Fld := ⟨0x140010c, 0, 32⟩
abbrev FWD_L2_SALT2_SALT : Fld := ⟨0x1400110, 0, 32⟩
abbrev FWD_LEAF_DEV_BUDGET_RATE : Fld := ⟨0x1400114, 0, 13⟩
abbrev FWD_L2_AGE_SEC : Fld := ⟨0x1400118, 0, 16⟩
abbrev FWD_LEARN_CFG_DEST : Fld := ⟨0x140011c, 0, 1⟩
abbrev FWD_LEARN_CFG_AGE_EVT : Fld := ⟨0x140011c, 1, 1⟩
abbrev FWD_LEARN_CFG_HOLDOFF_US : Fld := ⟨0x140011c, 8, 12⟩
abbrev FWD_L2_LFSR_SEED : Fld := ⟨0x1400120, 0, 16⟩
abbrev FWD_PCP_MAP_MAP : Fld := ⟨0x1400124, 0, 32⟩
abbrev FWD_DSCP_MAP_MAP : Fld := ⟨0x1400128, 0, 32⟩
abbrev FWD_SRAM_SPLIT_L2_MIB : Fld := ⟨0x1400148, 0, 5⟩
abbrev FWD_SRAM_SPLIT_LPM_TOP_MIB : Fld := ⟨0x1400148, 8, 5⟩
abbrev FWD_RMAC_W : Fld := ⟨0x1400180, 0, 32⟩
abbrev FWD_L2_OP_KEY_LO_MAC : Fld := ⟨0x1400200, 0, 32⟩
abbrev FWD_L2_OP_KEY_HI_MAC : Fld := ⟨0x1400204, 0, 16⟩
abbrev FWD_L2_OP_KEY_HI_VLAN : Fld := ⟨0x1400204, 16, 12⟩
abbrev FWD_L2_OP_DEST_DEST : Fld := ⟨0x1400208, 0, 32⟩
abbrev FWD_L2_OP_CTRL_GO : Fld := ⟨0x140020c, 0, 1⟩
abbrev FWD_L2_OP_CTRL_OP : Fld := ⟨0x140020c, 1, 3⟩
abbrev FWD_L2_OP_CTRL_STATIC : Fld := ⟨0x140020c, 4, 1⟩
abbrev FWD_L2_OP_CTRL_FLUSH_DEST : Fld := ⟨0x140020c, 5, 1⟩
abbrev FWD_L2_OP_CTRL_FLUSH_VLAN : Fld := ⟨0x140020c, 6, 1⟩
abbrev FWD_L2_OP_STATUS_BUSY : Fld := ⟨0x1400210, 0, 1⟩
abbrev FWD_L2_OP_STATUS_DONE : Fld := ⟨0x1400210, 1, 1⟩
abbrev FWD_L2_OP_STATUS_ERR : Fld := ⟨0x1400210, 2, 2⟩
abbrev FWD_L2_OP_STATUS_EVICTED : Fld := ⟨0x1400210, 4, 1⟩
abbrev FWD_L2_OP_STATUS_REPLACED : Fld := ⟨0x1400210, 5, 1⟩
abbrev FWD_L2_OP_RESULT_DEST : Fld := ⟨0x1400214, 0, 32⟩
abbrev FWD_LPM_OP_ADDR_ADDR : Fld := ⟨0x1400240, 0, 32⟩
abbrev FWD_LPM_OP_CFG_LEN : Fld := ⟨0x1400250, 0, 8⟩
abbrev FWD_LPM_OP_CFG_V6 : Fld := ⟨0x1400250, 8, 1⟩
abbrev FWD_LPM_OP_CFG_VRF : Fld := ⟨0x1400250, 16, 12⟩
abbrev FWD_LPM_OP_DEST_DEST : Fld := ⟨0x1400254, 0, 32⟩
abbrev FWD_LPM_OP_CTRL_GO : Fld := ⟨0x1400258, 0, 1⟩
abbrev FWD_LPM_OP_CTRL_OP : Fld := ⟨0x1400258, 1, 2⟩
abbrev FWD_LPM_OP_STATUS_BUSY : Fld := ⟨0x140025c, 0, 1⟩
abbrev FWD_LPM_OP_STATUS_DONE : Fld := ⟨0x140025c, 1, 1⟩
abbrev FWD_LPM_OP_STATUS_ERR : Fld := ⟨0x140025c, 2, 2⟩
abbrev FWD_LPM_OP_RESULT_DEST : Fld := ⟨0x1400260, 0, 32⟩
abbrev FWD_LPM_OP_RLEN_LEN : Fld := ⟨0x1400264, 0, 8⟩
abbrev FWD_MPLS_OP_LABEL_LABEL : Fld := ⟨0x1400280, 0, 20⟩
abbrev FWD_MPLS_OP_DATA_DATA : Fld := ⟨0x1400284, 0, 32⟩
abbrev FWD_MPLS_OP_CTRL_GO : Fld := ⟨0x1400294, 0, 1⟩
abbrev FWD_MPLS_OP_CTRL_OP : Fld := ⟨0x1400294, 1, 2⟩
abbrev FWD_MPLS_OP_STATUS_BUSY : Fld := ⟨0x1400298, 0, 1⟩
abbrev FWD_MPLS_OP_STATUS_DONE : Fld := ⟨0x1400298, 1, 1⟩
abbrev FWD_MPLS_OP_STATUS_NOT_FOUND : Fld := ⟨0x1400298, 2, 1⟩
abbrev FWD_OP_REFUSED_COUNT : Fld := ⟨0x140029c, 0, 16⟩
abbrev FWD_LPM_PREFIXES_COUNT : Fld := ⟨0x1400300, 0, 22⟩
abbrev FWD_LPM_TOP_FREE_COUNT : Fld := ⟨0x1400304, 0, 21⟩
abbrev FWD_MPLS_LABELS_COUNT : Fld := ⟨0x1400308, 0, 21⟩
abbrev FWD_MIR_COPY_COUNT : Fld := ⟨0x1400400, 0, 32⟩
abbrev FWD_MIR_REF_COUNT : Fld := ⟨0x1400440, 0, 32⟩
abbrev FWD_LEAF_BUDGET_RATE : Fld := ⟨0x1401000, 0, 10⟩
abbrev FWD_L2_ENTRIES_COUNT : Fld := ⟨0x1401004, 0, 17⟩
abbrev FWD_L2_DA_MISS_COUNT : Fld := ⟨0x1401008, 0, 32⟩
abbrev FWD_LEARN_POSTED_COUNT : Fld := ⟨0x140100c, 0, 32⟩
abbrev FWD_LEARN_DROP_COUNT : Fld := ⟨0x1401010, 0, 32⟩
abbrev FWD_L2_STATIC_MOVE_COUNT : Fld := ⟨0x1401014, 0, 32⟩
abbrev FWD_L2_AGED_COUNT : Fld := ⟨0x1401018, 0, 32⟩
abbrev FWD_L2_EVICT_COUNT : Fld := ⟨0x140101c, 0, 32⟩
abbrev FWD_LEAF_READS_COUNT : Fld := ⟨0x1401020, 0, 32⟩
abbrev FWD_LEAF_OVF_DROP_COUNT : Fld := ⟨0x1401024, 0, 32⟩
abbrev FWD_LEAF_OVF_SHORT_COUNT : Fld := ⟨0x1401028, 0, 32⟩
abbrev FWD_TTL_PUNT_COUNT : Fld := ⟨0x140102c, 0, 32⟩
abbrev FWD_DEST_DROP_COUNT : Fld := ⟨0x1401030, 0, 32⟩
abbrev FWD_MPLS_MISS_COUNT : Fld := ⟨0x1401034, 0, 32⟩
abbrev SLICE_SEL_XPF_SLICE : Fld := ⟨0x1800000, 0, 4⟩
abbrev XPF_CFG_CT_EN : Fld := ⟨0x1801000, 0, 1⟩
abbrev XPF_MC_CAP_CELLS : Fld := ⟨0x1801004, 0, 12⟩
abbrev XPF_MC_CFG_RESIDUE_WAIT_US : Fld := ⟨0x1801008, 0, 10⟩
abbrev XPF_XP_IDX_INGRESS : Fld := ⟨0x180100c, 0, 4⟩
abbrev XPF_XP_USED_CELLS : Fld := ⟨0x1801010, 0, 12⟩
abbrev XPF_XP_USED_MC_CELLS : Fld := ⟨0x1801010, 16, 12⟩
abbrev XPF_XP_PEAK_CELLS : Fld := ⟨0x1801014, 0, 12⟩
abbrev XPF_XP_REFUSED_COUNT : Fld := ⟨0x1801018, 0, 32⟩
abbrev XPF_XP_MC_REFUSED_COUNT : Fld := ⟨0x180101c, 0, 32⟩
abbrev XPF_COL_USED_CELLS : Fld := ⟨0x1801020, 0, 16⟩
abbrev XPF_WRQ_BYTES_BYTES : Fld := ⟨0x1801024, 0, 18⟩
abbrev XPF_WRQ_PEAK_BYTES : Fld := ⟨0x1801028, 0, 18⟩
abbrev XPF_WRQ_FULL_COUNT : Fld := ⟨0x180102c, 0, 32⟩
abbrev XPF_WRQ_DROP_COUNT : Fld := ⟨0x1801030, 0, 32⟩
abbrev XPF_CT_CNT_COUNT : Fld := ⟨0x1801034, 0, 32⟩
abbrev XPF_SF_CNT_COUNT : Fld := ⟨0x1801038, 0, 32⟩
abbrev XPF_ABORT_CNT_COUNT : Fld := ⟨0x180103c, 0, 32⟩
abbrev XPF_PAR_DROP_COUNT : Fld := ⟨0x1801040, 0, 32⟩
abbrev XPF_MC_PKTS_COUNT : Fld := ⟨0x1801044, 0, 32⟩
abbrev XPF_MC_COPIES_COUNT : Fld := ⟨0x1801048, 0, 32⟩
abbrev XPF_RES_USED_COUNT : Fld := ⟨0x180104c, 0, 11⟩
abbrev XPF_RES_PEAK_COUNT : Fld := ⟨0x1801050, 0, 11⟩
abbrev XPF_RES_STALL_COUNT : Fld := ⟨0x1801054, 0, 32⟩
abbrev XPF_MC_RES_DROP_COUNT : Fld := ⟨0x1801100, 0, 32⟩
abbrev XPF_MC_DOWN_DROP_COUNT : Fld := ⟨0x1801180, 0, 32⟩
abbrev QUEUE_SEL_QUEUE : Fld := ⟨0x1c00000, 0, 16⟩
abbrev TMG_CFG_SAMPLE_EN : Fld := ⟨0x1c00100, 0, 1⟩
abbrev TMG_CFG_REF_SAMPLE_EN : Fld := ⟨0x1c00100, 1, 1⟩
abbrev TMG_SAMPLE_PERIOD_US : Fld := ⟨0x1c00104, 0, 20⟩
abbrev TMG_REF_SAMPLE_N_N : Fld := ⟨0x1c00108, 0, 16⟩
abbrev TMG_SAMPLE_DROP_COUNT : Fld := ⟨0x1c0010c, 0, 32⟩
abbrev TMG_SAMPLE_FILL_RECORDS : Fld := ⟨0x1c00110, 0, 21⟩
abbrev TMG_STORE_RATE_GBPS : Fld := ⟨0x1c00114, 0, 14⟩
abbrev TMG_STORE_FREE_MIB : Fld := ⟨0x1c00118, 0, 16⟩
abbrev TMG_VOID_MAP_VOID : Fld := ⟨0x1c00180, 0, 32⟩
abbrev TMG_PORT_IDX_PORT : Fld := ⟨0x1c00200, 0, 9⟩
abbrev TMG_CLASS_IDX_CLASS : Fld := ⟨0x1c00204, 0, 3⟩
abbrev TMG_POL_IDX_POLICER : Fld := ⟨0x1c00208, 0, 20⟩
abbrev TMG_POLP_IDX_PROFILE : Fld := ⟨0x1c0020c, 0, 10⟩
abbrev TMG_POL_CTRL_GO : Fld := ⟨0x1c00300, 0, 1⟩
abbrev TMG_POL_CTRL_OP : Fld := ⟨0x1c00300, 1, 1⟩
abbrev TMG_POL_CTRL_PROFILE : Fld := ⟨0x1c00300, 4, 10⟩
abbrev TMG_POL_STATUS_BUSY : Fld := ⟨0x1c00304, 0, 1⟩
abbrev TMG_POL_STATUS_DONE : Fld := ⟨0x1c00304, 1, 1⟩
abbrev TMG_POL_STATUS_PROFILE : Fld := ⟨0x1c00304, 4, 10⟩
abbrev TMG_POL_TOKENS_TC : Fld := ⟨0x1c00308, 0, 12⟩
abbrev TMG_POL_TOKENS_TE : Fld := ⟨0x1c00308, 16, 12⟩
abbrev TMG_POLP_CIR_MBPS : Fld := ⟨0x1c00310, 0, 22⟩
abbrev TMG_POLP_EIR_MBPS : Fld := ⟨0x1c00314, 0, 22⟩
abbrev TMG_POLP_BURST_CBS : Fld := ⟨0x1c00318, 0, 12⟩
abbrev TMG_POLP_BURST_EBS : Fld := ⟨0x1c00318, 16, 12⟩
abbrev TMG_POLP_CFG_MODE : Fld := ⟨0x1c0031c, 0, 1⟩
abbrev TMG_POLP_CFG_UNIT : Fld := ⟨0x1c0031c, 1, 4⟩
abbrev TMG_POLP_CFG_YELLOW_ACT : Fld := ⟨0x1c0031c, 5, 2⟩
abbrev TMG_POLP_CFG_YELLOW_CLASS : Fld := ⟨0x1c0031c, 7, 3⟩
abbrev TMG_POLP_GREEN_COUNT : Fld := ⟨0x1c00320, 0, 32⟩
abbrev TMG_POLP_YELLOW_COUNT : Fld := ⟨0x1c00324, 0, 32⟩
abbrev TMG_POLP_RED_COUNT : Fld := ⟨0x1c00328, 0, 32⟩
abbrev TMG_PORT_QCFG_QBASE : Fld := ⟨0x1c00400, 0, 16⟩
abbrev TMG_PORT_QCFG_GROUPS : Fld := ⟨0x1c00400, 16, 4⟩
abbrev TMG_PORT_HOLD_ALLOW_NS : Fld := ⟨0x1c00404, 0, 24⟩
abbrev TMG_CFG_STATUS_GUAR_VOID : Fld := ⟨0x1c00408, 0, 1⟩
abbrev TMG_CFG_STATUS_SUM_OVER : Fld := ⟨0x1c00408, 1, 1⟩
abbrev TMG_CFG_STATUS_FLOOR_UNDER : Fld := ⟨0x1c00408, 2, 1⟩
abbrev TMG_CFG_STATUS_FALL_VOID : Fld := ⟨0x1c00408, 3, 1⟩
abbrev TMG_CFG_STATUS_RAMP : Fld := ⟨0x1c00408, 4, 1⟩
abbrev TMG_CFG_STATUS_VOID_SEEN : Fld := ⟨0x1c00408, 5, 1⟩
abbrev TMG_PORT_GSUM_MBPS : Fld := ⟨0x1c0040c, 0, 22⟩
abbrev TMG_PORT_RATE_MBPS : Fld := ⟨0x1c00410, 0, 22⟩
abbrev TMG_PORT_HOLD_OVER_COUNT : Fld := ⟨0x1c00414, 0, 16⟩
abbrev TMG_GATE_ADMIN_LEN_LEN : Fld := ⟨0x1c00420, 0, 11⟩
abbrev TMG_GATE_ADMIN_CYCLE_NS : Fld := ⟨0x1c00424, 0, 30⟩
abbrev TMG_GATE_ADMIN_BASE_NS_NS : Fld := ⟨0x1c00428, 0, 30⟩
abbrev TMG_GATE_ADMIN_BASE_SEC_LO_SEC : Fld := ⟨0x1c0042c, 0, 32⟩
abbrev TMG_GATE_ADMIN_BASE_SEC_HI_SEC : Fld := ⟨0x1c00430, 0, 16⟩
abbrev TMG_GATE_CTRL_ARM : Fld := ⟨0x1c00434, 0, 1⟩
abbrev TMG_GATE_CTRL_CANCEL : Fld := ⟨0x1c00434, 1, 1⟩
abbrev TMG_GATE_STATUS_PENDING : Fld := ⟨0x1c00438, 0, 1⟩
abbrev TMG_GATE_STATUS_OPER_VALID : Fld := ⟨0x1c00438, 1, 1⟩
abbrev TMG_GATE_STATUS_LATE_START : Fld := ⟨0x1c00438, 2, 1⟩
abbrev TMG_GATE_STATUS_GATED : Fld := ⟨0x1c00438, 8, 8⟩
abbrev TMG_GATE_CHANGE_NS_NS : Fld := ⟨0x1c0043c, 0, 30⟩
abbrev TMG_GATE_CHANGE_SEC_LO_SEC : Fld := ⟨0x1c00440, 0, 32⟩
abbrev TMG_GATE_CHANGE_SEC_HI_SEC : Fld := ⟨0x1c00444, 0, 16⟩
abbrev TMG_GATE_OPER_LEN_LEN : Fld := ⟨0x1c00448, 0, 11⟩
abbrev TMG_GATE_OPER_CYCLE_NS : Fld := ⟨0x1c0044c, 0, 30⟩
abbrev TMG_GATE_REFUSED_COUNT : Fld := ⟨0x1c00450, 0, 16⟩
abbrev TMG_CLS_SHAPE_RATE_MBPS : Fld := ⟨0x1c00500, 0, 22⟩
abbrev TMG_CLS_SHAPE_BURST_BYTES : Fld := ⟨0x1c00504, 0, 24⟩
abbrev TMG_Q_CFG_ENABLE : Fld := ⟨0x1c01000, 0, 1⟩
abbrev TMG_Q_CFG_GUAR_MODE : Fld := ⟨0x1c01000, 1, 1⟩
abbrev TMG_Q_CFG_DRAM : Fld := ⟨0x1c01000, 2, 1⟩
abbrev TMG_Q_CFG_SAMPLE : Fld := ⟨0x1c01000, 3, 1⟩
abbrev TMG_Q_GUAR_RATE : Fld := ⟨0x1c01004, 0, 22⟩
abbrev TMG_Q_BOUND_NS : Fld := ⟨0x1c01008, 0, 27⟩
abbrev TMG_Q_SHAPE_RATE_MBPS : Fld := ⟨0x1c0100c, 0, 22⟩
abbrev TMG_Q_SHAPE_BURST_BYTES : Fld := ⟨0x1c01010, 0, 24⟩
abbrev TMG_Q_FLOOR_NS : Fld := ⟨0x1c01014, 0, 27⟩
abbrev TMG_Q_RATE_MBPS : Fld := ⟨0x1c01018, 0, 22⟩
abbrev TMG_Q_BACKLOG_BYTES : Fld := ⟨0x1c0101c, 0, 32⟩
abbrev TMG_Q_GATE_U_NS : Fld := ⟨0x1c01020, 0, 30⟩
abbrev TMG_Q_GATE_Z_NS : Fld := ⟨0x1c01024, 0, 30⟩
abbrev TMG_Q_ADMIT_COUNT : Fld := ⟨0x1c01040, 0, 32⟩
abbrev TMG_Q_TX_COUNT : Fld := ⟨0x1c01044, 0, 32⟩
abbrev TMG_Q_REF_DELAY_COUNT : Fld := ⟨0x1c01048, 0, 32⟩
abbrev TMG_Q_REF_XP_COUNT : Fld := ⟨0x1c0104c, 0, 32⟩
abbrev TMG_Q_REF_WRQ_COUNT : Fld := ⟨0x1c01050, 0, 32⟩
abbrev TMG_Q_REF_STORE_COUNT : Fld := ⟨0x1c01054, 0, 32⟩
abbrev TMG_Q_REF_DOWN_COUNT : Fld := ⟨0x1c01058, 0, 32⟩
abbrev TMG_Q_REF_NORATE_COUNT : Fld := ⟨0x1c0105c, 0, 32⟩
abbrev TMG_Q_EXPIRED_COUNT : Fld := ⟨0x1c01060, 0, 32⟩
abbrev TMG_Q_DISCARD_COUNT : Fld := ⟨0x1c01064, 0, 32⟩
abbrev TMG_Q_SOJ_MAX_NS : Fld := ⟨0x1c01068, 0, 27⟩
abbrev TMG_Q_REF_LONG_COUNT : Fld := ⟨0x1c0106c, 0, 32⟩
abbrev PORT_SEL_NTU_PORT : Fld := ⟨0x2000000, 0, 9⟩
abbrev NTU_CTRL_SET : Fld := ⟨0x2000100, 0, 1⟩
abbrev NTU_CTRL_FORCE_STEP : Fld := ⟨0x2000100, 1, 1⟩
abbrev NTU_STATUS_TIME_SET : Fld := ⟨0x2000104, 0, 1⟩
abbrev NTU_STATUS_JUMP_REFUSED : Fld := ⟨0x2000104, 1, 1⟩
abbrev NTU_STATUS_PENDING : Fld := ⟨0x2000104, 2, 1⟩
abbrev NTU_STATUS_STEPPED : Fld := ⟨0x2000104, 3, 1⟩
abbrev NTU_JUMP_LIMIT_NS : Fld := ⟨0x2000108, 0, 24⟩
abbrev NTU_INCR_LO_INCR : Fld := ⟨0x200010c, 0, 32⟩
abbrev NTU_INCR_HI_INCR : Fld := ⟨0x2000110, 0, 8⟩
abbrev NTU_ADJ_LO_ADJ : Fld := ⟨0x2000114, 0, 32⟩
abbrev NTU_ADJ_HI_ADJ : Fld := ⟨0x2000118, 0, 32⟩
abbrev NTU_SET_NS_NS : Fld := ⟨0x200011c, 0, 30⟩
abbrev NTU_SET_SEC_LO_SEC : Fld := ⟨0x2000120, 0, 32⟩
abbrev NTU_SET_SEC_HI_SEC : Fld := ⟨0x2000124, 0, 16⟩
abbrev NTU_NOW_NS_NS : Fld := ⟨0x2000128, 0, 30⟩
abbrev NTU_NOW_SEC_LO_SEC : Fld := ⟨0x200012c, 0, 32⟩
abbrev NTU_NOW_SEC_HI_SEC : Fld := ⟨0x2000130, 0, 16⟩
abbrev NTU_NOW_FRAC_FRAC : Fld := ⟨0x2000134, 0, 16⟩
abbrev NTU_STEP_CNT_COUNT : Fld := ⟨0x2000138, 0, 16⟩
abbrev NTU_REFUSED_CNT_COUNT : Fld := ⟨0x200013c, 0, 16⟩
abbrev NTU_ADJ_IGNORED_COUNT : Fld := ⟨0x2000140, 0, 16⟩
abbrev NTU_PPS_CFG_OUT_EN : Fld := ⟨0x2000150, 0, 1⟩
abbrev NTU_PPS_CFG_WIDTH_US : Fld := ⟨0x2000150, 4, 20⟩
abbrev NTU_PPS_OFFSET_NS : Fld := ⟨0x2000154, 0, 30⟩
abbrev NTU_TS_CFG_DEST : Fld := ⟨0x2000180, 0, 1⟩
abbrev NTU_TS_DROP_COUNT : Fld := ⟨0x2000184, 0, 32⟩
abbrev NTU_TRIG_IDX_OUTPUT : Fld := ⟨0x2000200, 0, 4⟩
abbrev NTU_CAP_IDX_INPUT : Fld := ⟨0x2000204, 0, 4⟩
abbrev NTU_TRIG_CFG_POL : Fld := ⟨0x2000300, 0, 1⟩
abbrev NTU_TRIG_START_NS_NS : Fld := ⟨0x2000304, 0, 30⟩
abbrev NTU_TRIG_START_SEC_LO_SEC : Fld := ⟨0x2000308, 0, 32⟩
abbrev NTU_TRIG_START_SEC_HI_SEC : Fld := ⟨0x200030c, 0, 16⟩
abbrev NTU_TRIG_WIDTH_NS : Fld := ⟨0x2000310, 0, 24⟩
abbrev NTU_TRIG_PERIOD_NS : Fld := ⟨0x2000314, 0, 30⟩
abbrev NTU_TRIG_COUNT_COUNT : Fld := ⟨0x2000318, 0, 16⟩
abbrev NTU_TRIG_CTRL_ARM : Fld := ⟨0x200031c, 0, 1⟩
abbrev NTU_TRIG_CTRL_CANCEL : Fld := ⟨0x200031c, 1, 1⟩
abbrev NTU_TRIG_STATUS_ARMED : Fld := ⟨0x2000320, 0, 1⟩
abbrev NTU_TRIG_STATUS_LATE : Fld := ⟨0x2000320, 1, 1⟩
abbrev NTU_TRIG_STATUS_SKIPPED : Fld := ⟨0x2000320, 2, 1⟩
abbrev NTU_TRIG_STATUS_DONE : Fld := ⟨0x2000320, 3, 1⟩
abbrev NTU_TRIG_STATUS_LEVEL : Fld := ⟨0x2000320, 4, 1⟩
abbrev NTU_TRIG_NEXT_NS_NS : Fld := ⟨0x2000324, 0, 30⟩
abbrev NTU_CAP_CFG_EDGE : Fld := ⟨0x2000380, 0, 2⟩
abbrev NTU_CAP_CFG_EVT_EN : Fld := ⟨0x2000380, 2, 1⟩
abbrev NTU_CAP_NS_NS : Fld := ⟨0x2000384, 0, 30⟩
abbrev NTU_CAP_NS_VALID : Fld := ⟨0x2000384, 31, 1⟩
abbrev NTU_CAP_SEC_LO_SEC : Fld := ⟨0x2000388, 0, 32⟩
abbrev NTU_CAP_SEC_HI_SEC : Fld := ⟨0x200038c, 0, 16⟩
abbrev NTU_CAP_FRAC_FRAC : Fld := ⟨0x2000390, 0, 16⟩
abbrev NTU_CAP_FRAC_EDGE : Fld := ⟨0x2000390, 16, 1⟩
abbrev NTU_CAP_FILL_COUNT : Fld := ⟨0x2000394, 0, 5⟩
abbrev NTU_CAP_OVERRUN_COUNT : Fld := ⟨0x2000398, 0, 16⟩
abbrev NTU_CAP_LOST_COUNT : Fld := ⟨0x200039c, 0, 16⟩
abbrev NTU_PORT_CFG_ONE_STEP_EN : Fld := ⟨0x2001000, 0, 1⟩
abbrev NTU_PORT_CFG_TC_EN : Fld := ⟨0x2001000, 1, 1⟩
abbrev NTU_PORT_ASYM_TX_NS : Fld := ⟨0x2001004, 0, 32⟩
abbrev NTU_PORT_ASYM_RX_NS : Fld := ⟨0x2001008, 0, 32⟩
abbrev NTU_PORT_CORR_TX_NS : Fld := ⟨0x200100c, 0, 32⟩
abbrev NTU_PORT_CORR_RX_NS : Fld := ⟨0x2001010, 0, 32⟩
abbrev NTU_PORT_TS_CNT_COUNT : Fld := ⟨0x2001014, 0, 32⟩
abbrev NTU_PORT_ONESTEP_CNT_COUNT : Fld := ⟨0x2001018, 0, 32⟩
abbrev NTU_PORT_TS_SKIP_COUNT : Fld := ⟨0x200101c, 0, 32⟩
abbrev PORT_SEL_CKU_PORT : Fld := ⟨0x2200000, 0, 9⟩
abbrev CKU_REFUSED_COUNT : Fld := ⟨0x2200100, 0, 16⟩
abbrev CKU_DIG_BYTES_COUNT : Fld := ⟨0x2200104, 0, 32⟩
abbrev CKU_DIG_LAST_DIGEST : Fld := ⟨0x2200110, 0, 32⟩
abbrev CKU_ENG_IDX_ENGINE : Fld := ⟨0x2200200, 0, 2⟩
abbrev CKU_ENG_CFG_ENABLE : Fld := ⟨0x2200300, 0, 1⟩
abbrev CKU_ENG_CFG_ALG : Fld := ⟨0x2200300, 1, 2⟩
abbrev CKU_ENG_CFG_MODE : Fld := ⟨0x2200300, 3, 1⟩
abbrev CKU_ENG_CFG_STRIP : Fld := ⟨0x2200300, 4, 1⟩
abbrev CKU_ENG_CFG_ORDER : Fld := ⟨0x2200300, 5, 1⟩
abbrev CKU_ENG_CFG_SRC_KIND : Fld := ⟨0x2200300, 6, 1⟩
abbrev CKU_ENG_CFG_EVT_EN : Fld := ⟨0x2200300, 7, 1⟩
abbrev CKU_ENG_CFG_SRC : Fld := ⟨0x2200300, 8, 8⟩
abbrev CKU_ENG_CFG_BLOCK : Fld := ⟨0x2200300, 16, 9⟩
abbrev CKU_ENG_STATUS_ACTIVE : Fld := ⟨0x2200304, 0, 1⟩
abbrev CKU_ENG_STATUS_MISMATCH : Fld := ⟨0x2200304, 1, 1⟩
abbrev CKU_ENG_STATUS_ABANDONED : Fld := ⟨0x2200304, 2, 1⟩
abbrev CKU_ENG_STATUS_POS : Fld := ⟨0x2200304, 8, 8⟩
abbrev CKU_ENG_BLOCKS_COUNT : Fld := ⟨0x2200308, 0, 32⟩
abbrev CKU_ENG_MISMATCH_COUNT : Fld := ⟨0x220030c, 0, 32⟩
abbrev CKU_ENG_SHORT_COUNT : Fld := ⟨0x2200310, 0, 16⟩
abbrev CKU_ENG_ABANDON_COUNT : Fld := ⟨0x2200314, 0, 16⟩
abbrev CKU_ENG_LAST_LO_VALUE : Fld := ⟨0x2200318, 0, 32⟩
abbrev CKU_ENG_LAST_HI_VALUE : Fld := ⟨0x220031c, 0, 32⟩
abbrev CKU_RX_FCS_ERR_COUNT : Fld := ⟨0x2201000, 0, 32⟩
abbrev CKU_TX_STOMP_COUNT : Fld := ⟨0x2201004, 0, 32⟩
abbrev POOL_SEL_POOL : Fld := ⟨0x2400000, 0, 3⟩
abbrev BPM_DRAM_BASE_BASE : Fld := ⟨0x2400100, 0, 14⟩
abbrev BPM_BAD_ADDR_COUNT : Fld := ⟨0x2400104, 0, 16⟩
abbrev BPM_OP_CTRL_GO : Fld := ⟨0x2400200, 0, 1⟩
abbrev BPM_OP_CTRL_OP : Fld := ⟨0x2400200, 1, 2⟩
abbrev BPM_OP_SIZE_BYTES : Fld := ⟨0x2400204, 0, 14⟩
abbrev BPM_OP_ADDR_ADDR : Fld := ⟨0x2400208, 0, 32⟩
abbrev BPM_OP_OWNER_OWNER : Fld := ⟨0x240020c, 0, 10⟩
abbrev BPM_OP_STATUS_BUSY : Fld := ⟨0x2400210, 0, 1⟩
abbrev BPM_OP_STATUS_DONE : Fld := ⟨0x2400210, 1, 1⟩
abbrev BPM_OP_STATUS_ERR : Fld := ⟨0x2400210, 2, 2⟩
abbrev BPM_OP_REFUSED_COUNT : Fld := ⟨0x2400214, 0, 16⟩
abbrev BPM_POOL_CFG_SPILL_UP : Fld := ⟨0x2401000, 0, 1⟩
abbrev BPM_POOL_SRAM_COUNT : Fld := ⟨0x2401004, 0, 18⟩
abbrev BPM_POOL_DRAM_COUNT : Fld := ⟨0x2401008, 0, 16⟩
abbrev BPM_POOL_FREE_COUNT : Fld := ⟨0x240100c, 0, 18⟩
abbrev BPM_POOL_LOW_COUNT : Fld := ⟨0x2401010, 0, 18⟩
abbrev BPM_POOL_HIGH_COUNT : Fld := ⟨0x2401014, 0, 18⟩
abbrev BPM_POOL_STATUS_BELOW : Fld := ⟨0x2401018, 0, 1⟩
abbrev BPM_POOL_MIN_COUNT : Fld := ⟨0x240101c, 0, 18⟩
abbrev BPM_GETS_COUNT : Fld := ⟨0x2401020, 0, 32⟩
abbrev BPM_PUTS_COUNT : Fld := ⟨0x2401024, 0, 32⟩
abbrev BPM_POOL_EMPTY_COUNT : Fld := ⟨0x2401028, 0, 32⟩
abbrev BPM_NOT_OWNER_COUNT : Fld := ⟨0x240102c, 0, 16⟩
abbrev BPM_DOUBLE_FREE_COUNT : Fld := ⟨0x2401030, 0, 16⟩
abbrev BPM_POOL_QUAR_COUNT : Fld := ⟨0x2401034, 0, 16⟩
abbrev BPM_POOL_SHARE_UNITS : Fld := ⟨0x2401038, 0, 8⟩
abbrev THREAD_SEL_DRV_THREAD : Fld := ⟨0x2600000, 0, 8⟩
abbrev DRV_CHAN_IDX_CHANNEL : Fld := ⟨0x2600100, 0, 8⟩
abbrev DRV_CHAN_CFG_ENABLE : Fld := ⟨0x2600104, 0, 1⟩
abbrev DRV_CHAN_CFG_HOME : Fld := ⟨0x2600104, 1, 3⟩
abbrev DRV_CHAN_CFG_DEPTH : Fld := ⟨0x2600104, 4, 4⟩
abbrev DRV_CHAN_CFG_BASE : Fld := ⟨0x2600104, 14, 14⟩
abbrev DRV_CHAN_STATUS_COUNT : Fld := ⟨0x2600108, 0, 13⟩
abbrev DRV_CHAN_STATUS_FULL : Fld := ⟨0x2600108, 16, 1⟩
abbrev DRV_CHAN_PEAK_COUNT : Fld := ⟨0x260010c, 0, 13⟩
abbrev DRV_CHAN_FULL_CNT_COUNT : Fld := ⟨0x2600110, 0, 32⟩
abbrev DRV_CHAN_FLUSH_FLUSH : Fld := ⟨0x2600114, 0, 1⟩
abbrev DRV_REFUSED_COUNT : Fld := ⟨0x2600118, 0, 16⟩
abbrev DRV_INJ_DROP_COUNT : Fld := ⟨0x2600140, 0, 32⟩
abbrev DRV_CL_STALL_LIMIT_CYCLES : Fld := ⟨0x2600800, 0, 24⟩
abbrev DRV_CL_STALL_WAKE_THREAD : Fld := ⟨0x2600804, 0, 5⟩
abbrev DRV_CL_STATUS_STALL_ALL : Fld := ⟨0x2600808, 0, 1⟩
abbrev DRV_CL_STATUS_STALLED : Fld := ⟨0x2600808, 1, 1⟩
abbrev DRV_CL_STATUS_RUNNING : Fld := ⟨0x2600808, 8, 6⟩
abbrev DRV_CL_DRAM_RATE_GBPS : Fld := ⟨0x260080c, 0, 5⟩
abbrev DRV_CL_STALL_CNT_COUNT : Fld := ⟨0x2600810, 0, 16⟩
abbrev DRV_CL_FAULT_CNT_COUNT : Fld := ⟨0x2600814, 0, 32⟩
abbrev THREAD_CFG_ROLE : Fld := ⟨0x2601000, 0, 1⟩
abbrev THREAD_CFG_WAIT_MODE : Fld := ⟨0x2601000, 1, 1⟩
abbrev THREAD_CFG_USER : Fld := ⟨0x2601000, 2, 1⟩
abbrev THREAD_CFG_WAKE_EN : Fld := ⟨0x2601000, 3, 1⟩
abbrev THREAD_CFG_WAKE_CHAN : Fld := ⟨0x2601000, 8, 8⟩
abbrev THREAD_ENTRY_PC : Fld := ⟨0x2601004, 0, 32⟩
abbrev THREAD_STATUS_STATE : Fld := ⟨0x2601008, 0, 3⟩
abbrev THREAD_STATUS_IN_TRAP : Fld := ⟨0x2601008, 3, 1⟩
abbrev THREAD_STATUS_STAGED : Fld := ⟨0x2601008, 4, 1⟩
abbrev THREAD_STATUS_TASK_HELD : Fld := ⟨0x2601008, 5, 1⟩
abbrev THREAD_STATUS_STALLED : Fld := ⟨0x2601008, 6, 1⟩
abbrev THREAD_PC_PC : Fld := ⟨0x260100c, 0, 32⟩
abbrev THREAD_FAULT_CODE_CODE : Fld := ⟨0x2601010, 0, 9⟩
abbrev THREAD_FAULT_PC_PC : Fld := ⟨0x2601014, 0, 32⟩
abbrev THREAD_FAULT_ADDR_ADDR : Fld := ⟨0x2601018, 0, 32⟩
abbrev THREAD_TCMP_NS_NS : Fld := ⟨0x260101c, 0, 30⟩
abbrev THREAD_TCMP_SEC_SEC : Fld := ⟨0x2601020, 0, 32⟩
abbrev THREAD_HANDLER_PC : Fld := ⟨0x2601024, 0, 32⟩
abbrev THREAD_WMASK_MASK : Fld := ⟨0x2601028, 0, 32⟩
abbrev THREAD_FAULT_CNT_COUNT : Fld := ⟨0x260102c, 0, 16⟩
abbrev THREAD_CTRL_START : Fld := ⟨0x2601030, 0, 1⟩
abbrev DBG_CTRL_HALT : Fld := ⟨0x2601040, 0, 1⟩
abbrev DBG_CTRL_RESUME : Fld := ⟨0x2601040, 1, 1⟩
abbrev DBG_CTRL_STEP : Fld := ⟨0x2601040, 2, 1⟩
abbrev DBG_CTRL_CHDISCARD : Fld := ⟨0x2601040, 3, 1⟩
abbrev DBG_CTRL_BRK_EN : Fld := ⟨0x2601040, 8, 1⟩
abbrev DBG_STATUS_HALTED : Fld := ⟨0x2601044, 0, 1⟩
abbrev DBG_STATUS_CAUSE : Fld := ⟨0x2601044, 1, 3⟩
abbrev DBG_GPR_IDX_REG : Fld := ⟨0x2601048, 0, 5⟩
abbrev DBG_GPR_VALUE : Fld := ⟨0x260104c, 0, 32⟩
abbrev DBG_PC_PC : Fld := ⟨0x2601050, 0, 32⟩
abbrev DBG_BP_EN : Fld := ⟨0x2601054, 0, 1⟩
abbrev DBG_BP_ADDR : Fld := ⟨0x2601054, 2, 30⟩
abbrev DBG_STAGE_IDX_WORD : Fld := ⟨0x2601058, 0, 4⟩
abbrev DBG_STAGE_DATA : Fld := ⟨0x260105c, 0, 32⟩
abbrev CLUSTER_SEL_CLUSTER : Fld := ⟨0x2800000, 0, 3⟩
abbrev STB_CFG_TICK_NS : Fld := ⟨0x2800100, 0, 17⟩
abbrev STB_STORE_BASE_BASE : Fld := ⟨0x2800104, 0, 14⟩
abbrev STB_FREE_CNT_COUNT : Fld := ⟨0x2800108, 0, 13⟩
abbrev STB_READY_CNT_COUNT : Fld := ⟨0x280010c, 0, 13⟩
abbrev STB_DELAYED_CNT_COUNT : Fld := ⟨0x2800110, 0, 13⟩
abbrev STB_HANDED_CNT_COUNT : Fld := ⟨0x2800114, 0, 13⟩
abbrev STB_TICK_NOW_TICK : Fld := ⟨0x2800118, 0, 32⟩
abbrev STB_STUCK_US_US : Fld := ⟨0x280011c, 0, 16⟩
abbrev STB_STUCK_CNT_COUNT : Fld := ⟨0x2800120, 0, 16⟩
abbrev STB_KIND_IDX_KIND : Fld := ⟨0x2800200, 0, 4⟩
abbrev STB_GROUP_IDX_GROUP : Fld := ⟨0x2800204, 0, 8⟩
abbrev STB_ROUTE_PRIO : Fld := ⟨0x2800300, 0, 6⟩
abbrev STB_ROUTE_CLUSTERS : Fld := ⟨0x2800300, 8, 8⟩
abbrev STB_ROUTE_ORDERED : Fld := ⟨0x2800300, 16, 1⟩
abbrev STB_ROUTE_GROUP_MODE : Fld := ⟨0x2800300, 17, 1⟩
abbrev STB_ROUTE_GBITS : Fld := ⟨0x2800300, 18, 3⟩
abbrev STB_ROUTE_GROUP : Fld := ⟨0x2800300, 24, 8⟩
abbrev STB_ROUTE_QUOTA_COUNT : Fld := ⟨0x2800304, 0, 13⟩
abbrev STB_KIND_POSTED_COUNT : Fld := ⟨0x2800308, 0, 32⟩
abbrev STB_KIND_DROP_COUNT : Fld := ⟨0x280030c, 0, 32⟩
abbrev STB_KIND_NOBUF_COUNT : Fld := ⟨0x2800310, 0, 32⟩
abbrev STB_GROUP_NEXT_TICKET : Fld := ⟨0x2800400, 0, 16⟩
abbrev STB_GROUP_REL_TICKET : Fld := ⟨0x2800404, 0, 16⟩
abbrev STB_GROUP_STATUS_WAITING : Fld := ⟨0x2800408, 0, 13⟩
abbrev STB_GROUP_STATUS_STUCK : Fld := ⟨0x2800408, 16, 1⟩
abbrev STB_GROUP_VOID_COUNT : Fld := ⟨0x280040c, 0, 32⟩
abbrev STB_GROUP_RELEASED_COUNT : Fld := ⟨0x2800410, 0, 32⟩
abbrev STB_POST_DATA_DATA : Fld := ⟨0x2800500, 0, 32⟩
abbrev STB_POST_CTRL_GO : Fld := ⟨0x2800540, 0, 1⟩
abbrev STB_POST_CTRL_OP : Fld := ⟨0x2800540, 1, 2⟩
abbrev STB_POST_CTRL_DELAY : Fld := ⟨0x2800540, 8, 24⟩
abbrev STB_POST_ARG_HANDLE : Fld := ⟨0x2800544, 0, 16⟩
abbrev STB_POST_STATUS_BUSY : Fld := ⟨0x2800548, 0, 1⟩
abbrev STB_POST_STATUS_DONE : Fld := ⟨0x2800548, 1, 1⟩
abbrev STB_POST_STATUS_ERR : Fld := ⟨0x2800548, 2, 3⟩
abbrev STB_POST_STATUS_HANDLE : Fld := ⟨0x2800548, 16, 16⟩
abbrev STB_POST_REFUSED_COUNT : Fld := ⟨0x280054c, 0, 16⟩
abbrev STB_CL_TASKBASE_BASE : Fld := ⟨0x2801000, 0, 14⟩
abbrev STB_CL_WAITING_COUNT : Fld := ⟨0x2801004, 0, 6⟩
abbrev STB_CL_HANDED_COUNT : Fld := ⟨0x2801008, 0, 32⟩
abbrev THREAD_SEL_PMU_THREAD : Fld := ⟨0x2a00000, 0, 8⟩
abbrev PMU_CTRL_FREEZE : Fld := ⟨0x2a00100, 0, 1⟩
abbrev PMU_CTRL_CLEAR : Fld := ⟨0x2a00100, 1, 1⟩
abbrev PMU_SLICE_IDX_SLICE : Fld := ⟨0x2a00200, 0, 4⟩
abbrev PMU_PL_IDX_COUNTER : Fld := ⟨0x2a00204, 0, 6⟩
abbrev PMU_CCNT_IDX_COUNTER : Fld := ⟨0x2a00208, 0, 3⟩
abbrev PMU_PL_CFG_EVENT : Fld := ⟨0x2a00300, 0, 8⟩
abbrev PMU_PL_CFG_EN : Fld := ⟨0x2a00300, 8, 1⟩
abbrev PMU_PL_LO_COUNT : Fld := ⟨0x2a00304, 0, 32⟩
abbrev PMU_PL_HI_COUNT : Fld := ⟨0x2a00308, 0, 32⟩
abbrev PMU_CCNT_CFG_EVENT : Fld := ⟨0x2a00400, 0, 8⟩
abbrev PMU_CCNT_CFG_TMASK : Fld := ⟨0x2a00400, 8, 8⟩
abbrev PMU_CCNT_CFG_EN : Fld := ⟨0x2a00400, 16, 1⟩
abbrev PMU_CCNT_LO_COUNT : Fld := ⟨0x2a00404, 0, 32⟩
abbrev PMU_CCNT_HI_COUNT : Fld := ⟨0x2a00408, 0, 32⟩
abbrev PMU_SMP_CFG_EN : Fld := ⟨0x2a00800, 0, 1⟩
abbrev PMU_SMP_CFG_MODE : Fld := ⟨0x2a00800, 1, 1⟩
abbrev PMU_SMP_CFG_EVENT : Fld := ⟨0x2a00800, 8, 8⟩
abbrev PMU_SMP_N_N : Fld := ⟨0x2a00804, 0, 24⟩
abbrev PMU_SMP_TMASK_MASK : Fld := ⟨0x2a00808, 0, 32⟩
abbrev PMU_SMP_WR_INDEX : Fld := ⟨0x2a0080c, 0, 10⟩
abbrev PMU_SMP_RD_INDEX : Fld := ⟨0x2a00810, 0, 10⟩
abbrev PMU_SMP_FILL_COUNT : Fld := ⟨0x2a00814, 0, 11⟩
abbrev PMU_SMP_LOST_COUNT : Fld := ⟨0x2a00818, 0, 32⟩
abbrev PMU_THR_CFG_USER_EN : Fld := ⟨0x2a01000, 0, 1⟩
abbrev PMU_THR_SLOTS_LO_COUNT : Fld := ⟨0x2a01010, 0, 32⟩
abbrev PMU_THR_SLOTS_HI_COUNT : Fld := ⟨0x2a01014, 0, 32⟩
abbrev PMU_THR_RETIRED_LO_COUNT : Fld := ⟨0x2a01018, 0, 32⟩
abbrev PMU_THR_RETIRED_HI_COUNT : Fld := ⟨0x2a0101c, 0, 32⟩
abbrev PMU_THR_WASTED_LO_COUNT : Fld := ⟨0x2a01020, 0, 32⟩
abbrev PMU_THR_WASTED_HI_COUNT : Fld := ⟨0x2a01024, 0, 32⟩
abbrev PMU_THR_FRONT_LO_COUNT : Fld := ⟨0x2a01028, 0, 32⟩
abbrev PMU_THR_FRONT_HI_COUNT : Fld := ⟨0x2a0102c, 0, 32⟩
abbrev PMU_THR_BACK_LO_COUNT : Fld := ⟨0x2a01030, 0, 32⟩
abbrev PMU_THR_BACK_HI_COUNT : Fld := ⟨0x2a01034, 0, 32⟩
abbrev PMU_THR_INACTIVE_LO_COUNT : Fld := ⟨0x2a01038, 0, 32⟩
abbrev PMU_THR_INACTIVE_HI_COUNT : Fld := ⟨0x2a0103c, 0, 32⟩
abbrev SDC_CFG_SCRUB_EN : Fld := ⟨0x2c00100, 0, 1⟩
abbrev SDC_CFG_TEMP_REFRESH : Fld := ⟨0x2c00100, 1, 1⟩
abbrev SDC_CARVE_FW : Fld := ⟨0x2c00104, 0, 3⟩
abbrev SDC_CARVE_LPM : Fld := ⟨0x2c00104, 4, 3⟩
abbrev SDC_CARVE_FLOW : Fld := ⟨0x2c00104, 8, 3⟩
abbrev SDC_CARVE_PKT : Fld := ⟨0x2c00104, 16, 6⟩
abbrev SDC_SCRUB_RATE_GBPS : Fld := ⟨0x2c00108, 0, 7⟩
abbrev SDC_SCRUB_POS_BURST : Fld := ⟨0x2c0010c, 0, 30⟩
abbrev SDC_SCRUB_PASSES_COUNT : Fld := ⟨0x2c00110, 0, 16⟩
abbrev SDC_FIXED_CNT_COUNT : Fld := ⟨0x2c00114, 0, 32⟩
abbrev SDC_FAIL_CNT_COUNT : Fld := ⟨0x2c00118, 0, 32⟩
abbrev SDC_WR_ABORT_COUNT : Fld := ⟨0x2c0011c, 0, 16⟩
abbrev SDC_SCRUB_LIST_FILL_COUNT : Fld := ⟨0x2c00120, 0, 17⟩
abbrev SDC_SCRUB_LOST_COUNT : Fld := ⟨0x2c00124, 0, 16⟩
abbrev SDC_FAIL_LIMIT_COUNT : Fld := ⟨0x2c00128, 0, 16⟩
abbrev SDC_STACK_IDX_STACK : Fld := ⟨0x2c00200, 0, 2⟩
abbrev SDC_WIN_BASE_BASE : Fld := ⟨0x2c00204, 0, 14⟩
abbrev SDC_WIN_STATUS_CRC_ERR : Fld := ⟨0x2c00208, 0, 1⟩
abbrev SDC_WIN_STATUS_WR_ABORT : Fld := ⟨0x2c00208, 1, 1⟩
abbrev SDC_STACK_STATUS_TRAINED : Fld := ⟨0x2c00300, 0, 1⟩
abbrev SDC_STACK_STATUS_DEGRADED : Fld := ⟨0x2c00300, 1, 1⟩
abbrev SDC_STACK_STATUS_HOT : Fld := ⟨0x2c00300, 2, 1⟩
abbrev SDC_STACK_STATUS_TEMP : Fld := ⟨0x2c00300, 8, 8⟩
abbrev SDC_STACK_FIXED_COUNT : Fld := ⟨0x2c00304, 0, 32⟩
abbrev SDC_STACK_FAIL_COUNT : Fld := ⟨0x2c00308, 0, 32⟩
abbrev SDC_STACK_TRAIN_US : Fld := ⟨0x2c0030c, 0, 16⟩
abbrev ERR_UNIT_IDX_UNIT : Fld := ⟨0x2e00800, 0, 6⟩
abbrev ERR_Q_STATUS_FILL : Fld := ⟨0x2e00804, 0, 4⟩
abbrev ERR_Q_STATUS_MULTI : Fld := ⟨0x2e00804, 4, 1⟩
abbrev ERR_Q_STATUS_BUSY : Fld := ⟨0x2e00804, 5, 1⟩
abbrev ERR_Q_STATUS_PENDING : Fld := ⟨0x2e00804, 8, 8⟩
abbrev ERR_Q_CTRL_POP : Fld := ⟨0x2e00808, 0, 1⟩
abbrev ERR_Q_HEAD_DATA : Fld := ⟨0x2e00810, 0, 32⟩
abbrev ERR_Q_LOST_COUNT : Fld := ⟨0x2e00830, 0, 16⟩
abbrev ERR_Q_MERGED_COUNT : Fld := ⟨0x2e00834, 0, 16⟩
abbrev ERR_Q_TOTAL_COUNT : Fld := ⟨0x2e00838, 0, 32⟩
abbrev ERR_SCRUB_PERIOD_MS : Fld := ⟨0x2e00840, 0, 16⟩
abbrev ERR_SCRUB_CTRL_EN : Fld := ⟨0x2e00844, 0, 1⟩
abbrev ERR_PAR_CNT_COUNT : Fld := ⟨0x2e00848, 0, 32⟩
abbrev ERR_Q_NONEMPTY_LO_UNITS : Fld := ⟨0x2e00850, 0, 32⟩
abbrev ERR_Q_NONEMPTY_HI_UNITS : Fld := ⟨0x2e00854, 0, 1⟩

end F

end Sys2Proof.Machine
end

