-- ==== Sys2Proof/Machine/Sparse.lean ====
section
/-! DEFINITION. Maps from numbers to values held as plain lists in ONE canonical form: keys strictly rising,
no entry equal to the value an unlisted key reads as. Memories and register files are such maps. -/

namespace Sys2Proof.Machine

/-- The value at a key; `d` where the key is not listed. -/
def Sparse.get {α : Type} (d : α) : List (Nat × α) → Nat → α
  | [], _ => d
  | (k, v) :: m, i => if i = k then v else Sparse.get d m i

/-- Puts an entry in its place, replacing one of the same key. -/
def Sparse.put {α : Type} (i : Nat) (v : α) : List (Nat × α) → List (Nat × α)
  | [] => [(i, v)]
  | (k, w) :: m =>
    if i < k then (i, v) :: (k, w) :: m
    else if i = k then (i, v) :: m
    else (k, w) :: Sparse.put i v m

/-- Takes the entry of a key away. -/
def Sparse.drop {α : Type} (i : Nat) : List (Nat × α) → List (Nat × α)
  | [] => []
  | (k, w) :: m => if i = k then Sparse.drop i m else (k, w) :: Sparse.drop i m

/-- Writes a value at a key; writing what an unlisted key reads as removes the entry. -/
def Sparse.set {α : Type} [DecidableEq α] (d : α) (m : List (Nat × α)) (i : Nat) (v : α) : List (Nat × α) :=
  if v = d then Sparse.drop i m else Sparse.put i v m

/-- Changes the value at a key. -/
def Sparse.upd {α : Type} [DecidableEq α] (d : α) (m : List (Nat × α)) (i : Nat) (f : α → α) : List (Nat × α) :=
  Sparse.set d m i (f (Sparse.get d m i))

/-- The canonical form. -/
def Sparse.wf {α : Type} [DecidableEq α] (d : α) : List (Nat × α) → Bool
  | [] => true
  | [(_, v)] => decide (v ≠ d)
  | (k, v) :: (k', v') :: m => decide (v ≠ d) && decide (k < k') && Sparse.wf d ((k', v') :: m)

/-- Reads `n` bytes from an address up. -/
def Bytes.read (m : List (Nat × Byte)) (a : Nat) : Nat → List Byte
  | 0 => []
  | n + 1 => Sparse.get 0 m a :: Bytes.read m (a + 1) n

/-- Writes bytes from an address up. -/
def Bytes.write (m : List (Nat × Byte)) (a : Nat) : List Byte → List (Nat × Byte)
  | [] => m
  | b :: bs => Bytes.write (Sparse.set 0 m a b) (a + 1) bs

/-- Number held by bytes, least significant byte first (R15). -/
def leNat : List Byte → Nat
  | [] => 0
  | b :: bs => b.toNat + 256 * leNat bs

/-- Number held by bytes in network order (R15). -/
def beNat (bs : List Byte) : Nat := bs.foldl (fun n b => 256 * n + b.toNat) 0

/-- `n` bytes of a number, least significant byte first (R15). -/
def toLe (n v : Nat) : List Byte := (List.range n).map (fun i => BitVec.ofNat 8 (v / 256 ^ i))

/-- `n` bytes of a number in network order (R15). -/
def toBe (n v : Nat) : List Byte := (toLe n v).reverse

/-- Bits hi:lo of a number, `w` of them from `lo`. -/
def bits (v lo w : Nat) : Nat := v / 2 ^ lo % 2 ^ w

/-- A number with `w` bits from `lo` replaced. -/
def setBits (v lo w x : Nat) : Nat := v - bits v lo w * 2 ^ lo + x % 2 ^ w * 2 ^ lo

/-- Bit `i` of a number. -/
def bit (v i : Nat) : Bool := v / 2 ^ i % 2 == 1

/-- 1 for true, 0 for false. -/
def b2n (b : Bool) : Nat := if b then 1 else 0

end Sys2Proof.Machine
end

