-- ==== Sys2Proof/Machine/State.lean ====
section
/-! DEFINITION. The state of the RAXA 5116 as plain data: registers, engines, memories, the queue of waiting
commands; the faults and refusals a command can end in; the state right after reset. -/

namespace Sys2Proof.Machine

/-- A rate account or token bucket (R447): `none` is full at its cap; otherwise its level in the units of its
rule at cycle `since`, refilled lazily. (DEDUCED, log 116.) -/
structure Acct where
  level : Option Int := none
  since : Nat := 0
  deriving DecidableEq, Repr, Inhabited

/-! Network time (ch 13) -/

/-- One trigger output's pulse train (R299, R300). Instants in 2^-40 ns of NTU; `fromCycle` is the cycle a pulse began, `stepped`
tells that a step came in it; `soon` is the cycle in which a start begins that had passed at ARM or that a step passed (`skipped`). -/
structure Train where
  next : Nat := 0
  made : Nat := 0
  level : Bool := false
  fromCycle : Nat := 0
  pulseTo : Nat := 0
  stepped : Bool := false
  skipped : Bool := false
  soon : Option Nat := none
  deriving DecidableEq, Repr, Inhabited

/-- One capture: NTU time in 2^-16 ns, edge direction (R301). -/
structure Capture where
  stamp : Nat
  rising : Bool
  deriving DecidableEq, Repr, Inhabited

/-- One capture input (R301, R302). `last` is the cycle of the previous captured edge. -/
structure CapIn where
  fifo : List Capture := []
  last : Option Nat := none
  count : Nat := 0
  deriving DecidableEq, Repr, Inhabited

/-- The time unit: NTU in 2^-40 ns (R286), sum of the steps applied (R294), trains, captures, 1PPS (R303). `marks` tells what the
NTU and its increment were at recent changes, newest first; `adjAt` is the cycle of the last correction taken, `arms` the ARMs of
scheduled actions in cycle `armsAt` (kind, element, the action's status register before it; R291).
`ppsSecs` are ranges of seconds whose pulse has been emitted, `ppsDue` the cycle at which a step-passed pulse starts. -/
structure NtuSt where
  total : Nat := 0
  run : Bool := false
  steps : Int := 0
  marks : List (Nat × (Nat × Nat)) := []
  adjAt : Option Nat := none
  arms : List (Nat × (Nat × Word)) := []
  armsAt : Nat := 0
  trains : List (Nat × Train) := []
  caps : List (Nat × CapIn) := []
  ppsLevel : Bool := false
  ppsSecs : List (Nat × Nat) := []
  ppsFrom : Nat := 0
  ppsEnd : Nat := 0
  ppsStepped : Bool := false
  ppsDue : Option Nat := none
  deriving DecidableEq, Repr, Inhabited

/-! Check units (ch 14) -/

/-- A CRC engine's partly seen block (R310): messages seen, the data of the block so far, the clusters that have
written its channel since ENABLE; `pass` is how many messages of the channel were committed before the block may start, and pass untouched. -/
structure CrcEng where
  pos : Nat := 0
  data : List Byte := []
  writers : List Nat := []
  pass : Nat := 0
  deriving DecidableEq, Repr, Inhabited

/-! Memory integrity (ch 15) -/

/-- A detected failure waiting for its unit's booking (R330); `taken` tells that the recovery of a FATAL one has begun at its
detection, `cycle` is that of the detection. -/
structure MemFail where
  kind : Nat
  cls : Nat
  inst : Nat
  addr : Nat
  sec : Nat
  ns : Nat
  detail : List Byte
  taken : Bool := false
  cycle : Nat := 0
  deriving DecidableEq, Repr, Inhabited

/-- An error unit (Table 15-3): pending failures in detection order, the queue of 8 records (R329). -/
structure ErrUnit where
  pend : List MemFail := []
  queue : List (List Byte) := []
  deriving DecidableEq, Repr, Inhabited

/-- Memory integrity. `crcDiff`: the bursts whose 32 sideband bits are not the CRC of their data (R320), each with the difference of the two;
`badWords`: the SRAM words, as (class, word), whose parity bit is not the parity of their 64 bits (R323); `halves`: the halves that window
writes have renewed of failing classifier words; double failures of each stack in
the current millisecond of NTU (R332). -/
structure IntegSt where
  crcDiff : List (Nat × Word) := []
  badWords : List (Nat × Nat) := []
  halves : List (Nat × Bool) := []
  units : List (Nat × ErrUnit) := []
  window : List (Nat × (Nat × Nat)) := []
  deriving DecidableEq, Repr, Inhabited

/-! Drover cores (ch 16) -/

/-- What an issued instruction of a thread waits for (R338, R344, R350, R372). -/
inductive Hold where
  | none
  | load (rd addr size : Nat) (signed : Bool)
  | regLoad (rd off : Nat)
  | regStore (off : Nat) (val : Word)
  | fence
  | commit (rd ch : Nat)
  | done (handle out : Nat) (void : Bool)
  | wait (addr : Nat) (val : Word)
  | task (rd : Nat) (since : Nat)
  | fill (line : Nat)
  deriving DecidableEq, Repr, Inhabited

/-- A posted DRAM store (R344); `since` is the cycle in which it has its 64 bytes of the account (R343). -/
structure Posted where
  addr : Nat
  data : List Byte
  since : Nat := 0
  deriving DecidableEq, Repr, Inhabited

/-- A Drover thread (R339). Registers of Table 16-5 that the host also reads live in the register file. `dramAt` is the cycle in which its
latest access to DRAM has its 64 bytes of the account (R343). -/
structure Thread where
  g : List (Nat × Word) := []
  pc : Nat := 0
  stage : List (Nat × Word) := []
  hold : Hold := .none
  posted : List Posted := []
  task : Option Nat := none
  ntuSec : Nat := 0
  issuedAt : Nat := 0
  slotsAt : Nat := 0
  stallDue : Bool := false
  haltReq : Bool := false
  storeFail : Option Nat := none
  stepping : Bool := false
  dramAt : Nat := 0
  deriving DecidableEq, Repr, Inhabited

/-- A general channel (R356, R357): visible messages lie in the ring from `head`; committed ones not yet visible. -/
structure Chan where
  head : Nat := 0
  vis : Nat := 0
  com : List (List Byte) := []
  deriving DecidableEq, Repr, Inhabited

/-- An internal packet that waits for the ingress pipeline (R20, R360): `kind` 0 REINJECT, 1 INGRESS, 2 EGRESS;
`frees` are the buffers that pass to the device with it. -/
structure Inject where
  data : List Byte
  port : Nat
  kind : Nat
  tsReq : Bool
  oneStep : Bool
  tag : Nat
  cls : Nat
  group : Nat
  epoch : Nat
  first : Nat
  holds : Option (Nat × Nat)
  frees : List Nat
  second : Bool := false
  deriving DecidableEq, Repr, Inhabited

/-- One entry of a slice's injection queue (R359, R377): the descriptor, whether it is visible yet, whether it is a
task's output, and the epoch hold that the task's packet passes on. -/
structure InjEntry where
  desc : List Byte
  visible : Bool
  task : Bool
  epoch : Option (Nat × Nat)
  second : Bool := false
  deriving DecidableEq, Repr, Inhabited

/-- The Drover cores (ch 16). `accts` are the clusters' DRAM accounts (R343), `stallSince` the cycle since which all threads of a cluster
have been stalled (R362); `slotAt` is one more than cycle × 256 + number of the thread that issued last. -/
structure DrvSt where
  threads : List (Nat × Thread) := []
  chans : List (Nat × Chan) := []
  icache : List (Nat × List (Nat × List Byte)) := []
  accts : List (Nat × Acct) := []
  stallSince : List (Nat × Option Nat) := []
  injQ : List (Nat × List InjEntry) := []
  slotAt : Nat := 0
  deriving DecidableEq, Repr, Inhabited

/-! Stable and buffer pools (ch 17) -/

/-- States of a task descriptor (Table 17-1). -/
inductive TaskState where
  | free | delayed | ready | handed | doneWait
  deriving DecidableEq, Repr, Inhabited

/-- A task descriptor's part kept on die (R367); its 64 bytes lie in the task store. `epoch` is the
(slice, epoch) that a packet task holds (R134); `second` tells that its packet has taken its second pass (R23). -/
structure Task where
  st : TaskState := .free
  gen : Nat := 0
  kind : Nat := 0
  prio : Nat := 0
  clusters : Nat := 0
  ordered : Bool := false
  group : Nat := 0
  ticket : Nat := 0
  buf : Nat := 0
  epoch : Option (Nat × Nat) := none
  due : Nat := 0
  order : Nat := 0
  thread : Nat := 0
  second : Bool := false
  deriving DecidableEq, Repr, Inhabited

/-- What a completed ticket releases (R376, R378): void, empty, or the injection descriptor at an address of a
cluster's memory. -/
inductive TaskOut where
  | void | empty
  | inject (cluster addr : Nat)
  deriving DecidableEq, Repr, Inhabited

/-- A completion in DONE_WAIT: its ticket, output, descriptor (none where CANCEL freed it), since which cycle. -/
structure Waiter where
  ticket : Nat
  out : TaskOut
  task : Option Nat
  epoch : Option (Nat × Nat)
  since : Nat
  second : Bool := false
  deriving DecidableEq, Repr, Inhabited

/-- A task that a hardware source asks to be posted (R369, R370): buffer size wanted (0 none) and the bytes to lie
in it, descriptor fields, the ECMP hash for GROUP_MODE 1, the (slice, epoch) held, the source's own counter. -/
structure Post where
  kind : Nat
  owner : Nat
  want : Nat
  data : List Byte
  trunc : Bool
  port : Nat
  slice : Nat
  epoch : Nat
  code : Nat
  info : Nat
  body : List Byte
  hash : Nat
  holds : Option (Nat × Nat)
  failCnt : Option (Nat × Nat × Nat × Nat)
  second : Bool := false
  deriving DecidableEq, Repr, Inhabited

/-- Stable (ch 17). `tickBase` is the cycle of tick 0, `ticks` the ticks whose due tasks are READY; `handAt` is one more than cycle × 8 +
number of the cluster that was handed a task last (R372), `relAt` the cycle from which a group may release again (R377). -/
structure StbSt where
  acct : Acct := {}
  posts : List Post := []
  tasks : List (Nat × Task) := []
  waiters : List (Nat × List Waiter) := []
  unordered : List Waiter := []
  stuckTold : List Nat := []
  nextOrder : Nat := 0
  tickBase : Nat := 0
  ticks : Nat := 0
  handAt : Nat := 0
  relAt : List (Nat × Nat) := []
  deriving DecidableEq, Repr, Inhabited

/-- A buffer's owner and state (R382, R388); `second` tells that it holds a packet that has taken its second pass (R23). -/
structure Buf where
  owner : Nat := 0
  held : Bool := false
  quar : Bool := false
  second : Bool := false
  deriving DecidableEq, Repr, Inhabited

/-! Performance monitor (ch 18): counters above their registers, sample records due. -/

/-- A cluster's sampler: countdown (none: not reloaded since reset, so N), records due, the buffer (R397, R398). -/
structure Sampler where
  left : Option Nat := none
  due : List (List Byte) := []
  buf : List (Nat × List Byte) := []
  fill : Nat := 0
  deriving DecidableEq, Repr, Inhabited

/-- What the monitor notes of a thread: that its pending issue slot passed uncounted (R394), the category in which a slot was placed while
FREEZE was 1, how long the instruction-cache fill before its next instruction took. -/
structure SlotSt where
  uncounted : Bool := false
  late : Option Nat := none
  filled : Option Nat := none
  deriving DecidableEq, Repr, Inhabited

/-- The monitor. `zero` is the cycle of the last reset; `upTo` the cycle up to which the cycle events of the pipelines are
counted, `starts` the starts of each pipeline (slice × 2, egress 1) since then. -/
structure PmuSt where
  cnt : List (Nat × Nat) := []
  smp : List (Nat × Sampler) := []
  zero : Nat := 0
  upTo : Nat := 0
  starts : List (Nat × Nat) := []
  slots : List (Nat × SlotSt) := []
  deriving DecidableEq, Repr, Inhabited

/-! Host, halter ring, events (ch 19) -/

/-- An event record (Table 19-6). -/
structure Evt where
  cls : Nat
  block : Nat
  off : Nat
  bit : Nat
  inst : Nat
  seq : Nat
  sec : Nat
  ns : Nat
  data : List Byte
  deriving DecidableEq, Repr, Inhabited

/-- One entry of the MSI-X table, masked at reset; `pending` is its bit of the pending array (R421). -/
structure Msix where
  addr : Nat := 0
  data : Nat := 0
  unmasked : Bool := false
  pending : Bool := false
  deriving DecidableEq, Repr, Inhabited

/-- A DMA queue's progress: PHASE is 1 until the ring first wraps, then flips at each wrap (R414). -/
structure DmaQ where
  flipped : Bool := false
  deriving DecidableEq, Repr, Inhabited

/-- A request that waits for a completion over the ring (R404, R405): who asked, target, whether a host access. -/
structure RingReq where
  tag : Nat
  target : Nat
  since : Nat
  remote : Option Nat
  deriving DecidableEq, Repr, Inhabited

/-- A message held (R408) or at a port (R411): its direction is `down` when it leaves H1; the cycle it came to the port and
the cycle its transmission starts. -/
structure OutMsg where
  down : Bool
  msg : HMsg
  since : Nat := 0
  start : Nat := 0
  deriving DecidableEq, Repr, Inhabited

/-- A read of host memory by a device that is not the root (R410): the engine that asks (a DMA queue's number, 64 for the
loader), its bytes, and the status and data of its completion. -/
structure MemRead where
  tag : Nat
  who : Nat
  addr : Nat
  n : Nat
  got : Option (Nat × List Byte) := none
  deriving DecidableEq, Repr, Inhabited

/-- The host's side: events, limiters, rings, interrupts, DMA queues; `retry` tells that the last configuration request was
answered with Configuration Request Retry Status (R72); `moved` counts the entries that have left each staging ring (R169, R242),
`alarmAt` is one more than the cycle in which each bit of ERR_ALARM was last set (R419). -/
structure HostSt where
  evtQ : List Evt := []
  limiter : List (Nat × Acct) := []
  intLast : List (Nat × Nat) := []
  intDue : List Nat := []
  moved : List (Nat × Nat) := []
  streams : List (Nat × List (List Byte)) := []
  msix : List (Nat × Msix) := []
  msixOut : List (Nat × Nat) := []
  cfg : List (Nat × Word) := []
  pcieReady : Bool := false
  retry : Bool := false
  alarmAt : List (Nat × Nat) := []
  dma : List (Nat × DmaQ) := []
  rdata : List (Nat × Word) := []
  deriving DecidableEq, Repr, Inhabited

/-- The halter ring: ring order and hops that are down (R409), holds of routes, messages at the ports, requests under way; `upId`
and `dnId` are the devices at the other ends of the hops of H0 and H1, `seen` what the DISCOVER of the round from `roundAt` gathered, `late` what the
round before has gathered whose second DISCOVER is on its way, once the round's first is `timedOut`, `reads` the reads of host memory under way. -/
structure HalterSt where
  order : List Nat := []
  down : List (Nat × Nat) := []
  holds : List (Nat × Nat) := []
  held : List OutMsg := []
  out : List OutMsg := []
  reqs : List RingReq := []
  nextTag : Nat := 0
  seen : List Nat := []
  roundAt : Option Nat := none
  returned : Bool := false
  upId : Option Nat := none
  dnId : Option Nat := none
  late : Option (List Nat) := none
  timedOut : Bool := false
  reads : List MemRead := []
  deriving DecidableEq, Repr, Inhabited
/-! The life of a packet (chs 04 to 12) -/

/-- The parse result while the walk runs. Absent offsets are `none`. -/
structure PRes where
  result : Nat := 0
  reason : Nat := 0
  failInner : Bool := false
  failOff : Nat := 0
  hdrs : Nat := 0
  pass : Nat := 1
  endOff : Nat := 0
  len : Nat := 0
  flags : Nat := 0
  oTags : Nat := 0
  iTags : Nat := 0
  labels : Nat := 0
  oExt : Nat := 0
  iExt : Nat := 0
  oL3 : Nat := 0
  iL3 : Nat := 0
  oL4 : Nat := 0
  iL4 : Nat := 0
  tunnel : Nat := 0
  special : Nat := 0
  shimTeam : Nat := 0
  offTags : Option Nat := none
  offMpls : Option Nat := none
  offL3 : Option Nat := none
  offL4 : Option Nat := none
  offTunnel : Option Nat := none
  offIL2 : Option Nat := none
  offIL3 : Option Nat := none
  offIL4 : Option Nat := none
  offSpecial : Option Nat := none
  special0 : Nat := 0
  special1 : Nat := 0
  nextProto : Nat := 0
  deriving DecidableEq, Repr, Inhabited

/-- A packet of an ingress pipeline (R20, R22). `kind`: 0 line, 1 released by the resequencer, 2 REINJECT,
3 INGRESS, 4 EGRESS injection, 5 egress mirror copy. A second pass has its descriptor's EPOCH in `dest` and SLICE in
`session`. `rxAt` is the MAC timestamp in 2^-40 ns of NTU; `act` is the copied
action record of Table 06-6 as a number, least significant byte first; `epoch` is the (slice, epoch) it holds. -/
structure Pkt where
  data : List Byte := []
  port : Nat := 0
  slice : Nat := 0
  pass : Nat := 1
  kind : Nat := 0
  team : Nat := 0
  rxAt : Nat := 0
  tsReq : Bool := false
  oneStep : Bool := false
  tag : Nat := 0
  cls : Nat := 0
  group : Nat := 0
  session : Nat := 0
  dest : Nat := 0
  epoch : Option (Nat × Nat) := none
  frees : List Nat := []
  pr : PRes := {}
  act : Nat := 0
  rule : Nat := 0
  matched : Bool := false
  l2only : Bool := false
  key : List Byte := []
  prof : Nat := 0
  pol : Option Nat := none
  nat : Option Nat := none
  dom : Option (Nat × Nat) := none
  deriving DecidableEq, Repr, Inhabited

/-- A flow miss lane: one key, its packets in order (R155); the opener of a lane whose packets a recovery dropped
(R165); its place in the order of arrival, its buckets in rising order, how many of their locks it holds (R157). -/
structure Lane where
  key : List Byte
  prof : Nat
  pkts : List Pkt
  ghost : Option Pkt := none
  come : Nat := 0
  needs : List Nat := []
  got : Nat := 0
  deriving DecidableEq, Repr, Inhabited

/-- A group of update words queued for the active bank (R137, R138): requester index, first word, bytes. -/
structure UpdGroup where
  who : Nat
  word : Nat
  data : List Byte
  deriving DecidableEq, Repr, Inhabited

/-- A place of a slice's learn coalescer (R179, R180). `hold` is the cycle its hold-off began. -/
structure LearnPlace where
  mac : Nat
  vlan : Nat
  latest : Nat
  prev : Nat
  moved : Bool
  flaps : Nat
  reason : Nat
  entryDest : Nat
  opened : Nat
  since : Nat
  hold : Option Nat
  deriving DecidableEq, Repr, Inhabited

/-- A FLUSH in progress (R183): requester, first cycle, the DEST and the VLAN that entries must have. -/
structure Flush where
  who : Nat
  since : Nat
  dest : Option Nat
  vlan : Option Nat
  deriving DecidableEq, Repr, Inhabited

/-- A packet that waits for its forwarding leaf reads (R192): the LPM lookup or the label record that waits, else the DEST
already chosen; whether its top label is popped. -/
structure LeafWait where
  pkt : Pkt
  lpm : Option (Nat × Bool × Nat)
  label : Option Nat
  dest : Nat
  popped : Bool
  deriving DecidableEq, Repr, Inhabited

/-- A forwarding miss lane: one key, its packets in order (R192). -/
structure LeafLane where
  key : List Byte
  prof : Nat
  pkts : List LeafWait
  deriving DecidableEq, Repr, Inhabited

/-- A slice's pipelines (R20, R155, R192, R203, R208, R216). `wrEnd` counts 1/400 cycles; `resFull` is since when cycles with a full
residue list are to be counted (R217). -/
structure SliceSt where
  rx : List Pkt := []
  rel : List Pkt := []
  recirc : List Pkt := []
  dc : List (Nat × Acct) := []
  last : Option Nat := none
  lastInt : Nat := 0
  flow : List Lane := []
  leaf : List LeafLane := []
  upd : List UpdGroup := []
  swapAt : Option Nat := none
  swapT : Option Nat := none
  learn : List LearnPlace := []
  scanL2 : Nat := 0
  lfsr : Option Nat := none
  flush : List Flush := []
  wrEnd : Nat := 0
  lastTx : Option Nat := none
  retryAt : Nat := 0
  resFull : Option Nat := none
  fwdAcct : Acct := {}
  rdAcct : Acct := {}
  wrAcct : Acct := {}
  deriving DecidableEq, Repr, Inhabited

/-- A line of the flow cache: the slot it holds, and the record (R152). -/
structure CacheLine where
  slot : Nat
  recd : Nat
  deriving DecidableEq, Repr, Inhabited

/-- A software operation on flow records that waits (R157, R171): requester, its FLW_OP_CTRL, the locks as of a lane. -/
structure FlowOp where
  who : Nat
  ctl : BitVec 32
  come : Nat
  needs : List Nat
  got : Nat := 0
  deriving DecidableEq, Repr, Inhabited

/-- The flow engine's device-wide state: cache by bucket × 8 + line, accounts, LFSR, scanner places. -/
structure FlowSt where
  ops : List FlowOp := []
  cache : List (Nat × Option CacheLine) := []
  devRd : Acct := {}
  devWr : Acct := {}
  ins : Acct := {}
  lfsr : Option Nat := none
  scanC : Nat := 0
  scanD : Nat := 0
  deriving DecidableEq, Repr, Inhabited

/-- A prefix of the LPM table (R189): VRF, family, address bits, length, DEST. -/
structure Prefix where
  vrf : Nat
  v6 : Bool
  addr : Nat
  len : Nat
  dest : Nat
  deriving DecidableEq, Repr, Inhabited

/-- A valid entry of an L2 table (Table 08-1). -/
structure L2E where
  mac : Nat
  vlan : Nat
  isStatic : Bool
  hit : Bool
  dest : Nat
  stamp : Nat
  deriving DecidableEq, Repr, Inhabited

/-- An LPM leaf (R189): of a top entry of a VRF and family, or without `block` the leaf of their short prefixes. -/
structure LeafKey where
  vrf : Nat
  v6 : Bool
  block : Option Nat
  deriving DecidableEq, Repr, Inhabited

/-- Forwarding's device-wide state: L2 entries by slice × 65,536 + index, prefixes, marked labels, queued LPM changes by
requester, sample counts of the mirror sessions, the device leaf account; where the leaves that have failed lie in DRAM, and the
words of the top entries that have failed. -/
structure FwdSt where
  leafAt : List (LeafKey × Nat) := []
  topAt : List (LeafKey × Nat) := []
  l2 : List (Nat × Option L2E) := []
  lpm : List Prefix := []
  labels : List Nat := []
  lpmOps : List (Nat × (Bool × Prefix)) := []
  lpmAsks : List (Nat × (Bool × (Nat × Prefix))) := []
  mir : List (Nat × Nat) := []
  leafDev : Acct := {}
  deriving DecidableEq, Repr, Inhabited

/-- An admitted packet of a leaf queue (R205, R234). Times: cycles; `wrStart`, `wrEnd` in 1/400 cycle. `mc` names the
multicast packet whose cells a copy uses. -/
structure QPkt where
  id : Nat := 0
  data : List Byte := []
  row : Nat := 0
  queue : Nat := 0
  port : Nat := 0
  adm : Nat := 0
  bound : Nat := 0
  tagv : Nat := 0
  dram : Bool := false
  ct : Bool := false
  wrStart : Nat := 0
  wrEnd : Nat := 0
  written : Bool := false
  fetched : Bool := false
  fetchAt : Nat := 0
  mc : Option Nat := none
  dom : Nat := 0
  inPort : Nat := 0
  rxAt : Nat := 0
  tsReq : Bool := false
  oneStep : Bool := false
  tag : Nat := 0
  kind : Nat := 0
  frees : List Nat := []
  deriving DecidableEq, Repr, Inhabited

/-- A leaf queue (R226, R227): packets in admission order, tags, scheduling tags, the head they stand for; for each
lowering that still waits, the GUAR_MODE and TMG_Q_GUAR it keeps and the packet id below which it waits (R238). -/
structure LeafSt where
  pkts : List QPkt := []
  fLast : Nat := 0
  fServed : Nat := 0
  s : Nat := 0
  f : Nat := 0
  head : Option Nat := none
  low : List ((Bool × Nat) × Nat) := []
  shaper : Acct := {}
  sojMax : Nat := 0
  refused : Nat := 0
  deriving DecidableEq, Repr, Inhabited

/-- A multicast packet in one column (R215, R216): ports not asked yet, residue ports; the order domain that its key hashes to
(R251). -/
structure McPkt where
  id : Nat := 0
  row : Nat := 0
  col : Nat := 0
  src : Pkt := {}
  cls : Nat := 0
  group : Nat := 0
  todo : List Nat := []
  residue : List Nat := []
  taken : Bool := false
  acc : Nat := 0
  wrStart : Nat := 0
  wrEnd : Nat := 0
  written : Bool := false
  hashDom : Nat := 0
  deriving DecidableEq, Repr, Inhabited

/-- A frame that has been taken for transmission (R208): its length on the line, its MAC start and end cycles, whether its last byte
has been read; its bytes once it has begun. A team frame or probe has its member and what the shim generator gave it (R254);
the packet of a probe holds the end of its body from EPOCH on. -/
structure Tx where
  pkt : QPkt := {}
  len : Nat := 0
  start : Nat := 0
  stop : Nat := 0
  isRead : Bool := false
  probe : Bool := false
  begun : Bool := false
  bytes : List Byte := []
  mbr : Option Nat := none
  seq : Nat := 0
  alive : Nat := 0
  drain : Bool := false
  src : Nat := 0
  deriving DecidableEq, Repr, Inhabited

/-- A HOLD's effect on a carrier or port (R99, R100): held since a cycle, the end of the resume interval, from where
held time is still to be counted. -/
structure Held where
  since : Option Nat := none
  resume : Option Nat := none
  mark : Nat := 0
  deriving DecidableEq, Repr, Inhabited

/-- A gate list that waits to become operating (R232): the end of its computation, the change instant once known. -/
structure GatePend where
  ready : Nat
  change : Option Nat
  deriving DecidableEq, Repr, Inhabited

/-- A port (chs 04, 09, 10). `maxWas` keeps recent changes of MAX_FRAME, newest first: the cycle, the value before (R86). -/
structure PortSt where
  maxWas : List (Nat × Nat) := []
  lockAt : Option Nat := none
  enAt : Nat := 0
  freeAt : Nat := 0
  dc : Acct := {}
  tx : List Tx := []
  v : Nat := 0
  hold : Held := {}
  fall : Option Nat := none
  gate : Option GatePend := none
  gateArmed : Bool := false
  operBase : Int := 0
  entry : Nat := 0
  cls : List (Nat × Acct) := []
  deriving DecidableEq, Repr, Inhabited

/-- A calendar switch armed under R94: the cycle of its instant; the instant itself (2^-40 ns), which follows NTU steps
(R292), none where the switch goes by cycles; the multiframes it may wait for CA, none in TIMED. -/
structure SwSt where
  due : Nat
  inst : Option Nat
  hs : Option Nat
  deriving DecidableEq, Repr, Inhabited

/-- An armed rate change (R271 to R275): multiframe count of T_plan, the cycle of ARM, what it does, the affected ports
with old and new rates in Mb/s, the team member among its clients; leaves whose ramp began at another cycle than its T_q or ARM. -/
structure RcSt where
  mf : Nat
  armed : Nat
  calSw : Bool
  op : Nat
  ports : List (Nat × (Nat × Nat))
  mem : Option Nat
  began : List (Nat × Nat) := []
  deriving DecidableEq, Repr, Inhabited

/-- A carrier (chs 04, 12): cycle of boundary 0 while its transmitter runs, lock, armed switch and change, receive check
(CCC at ARM, deadline), client ports whose received slots disagree with the receive calendar (R96), last T_plan, the cycle a
pulse is due, a pulse in progress (output, end). -/
structure CarSt where
  boot : Option Nat := none
  lockAt : Option Nat := none
  enAt : Nat := 0
  phase : Bool := false
  sw : Option SwSt := none
  rc : Option RcSt := none
  rx : Option (Bool × Option Nat) := none
  bad : List Nat := []
  plan : Option Nat := none
  trig : Option Nat := none
  pulse : Option (Nat × Nat) := none
  hold : Held := {}
  deriving DecidableEq, Repr, Inhabited

/-- A HOLD input (R99, R101). -/
structure HoldIn where
  on : Bool := false
  since : Nat := 0
  stuck : Bool := false
  win : Nat := 0
  n : Nat := 0
  chat : Bool := false
  deriving DecidableEq, Repr, Inhabited

/-- A frame held by the resequencer (R260 to R264): full send time in 2^-16 ns, arrival cycle; whether it lies in PKT, and has been
read back. -/
structure HFrame where
  seq : Nat := 0
  sent : Int := 0
  came : Nat := 0
  pkt : Pkt := {}
  spill : Bool := false
  fetched : Bool := false
  deriving DecidableEq, Repr, Inhabited

/-- An order domain of a team (R260, R261). -/
structure DomSt where
  expect : Nat := 0
  next : Nat := 0
  synced : Bool := false
  sync : Option Nat := none
  holes : List Nat := []
  held : List HFrame := []
  deriving DecidableEq, Repr, Inhabited

/-- A team member (R252 to R259, R266); delay and latest send time in 2^-16 ns, `known` once the delay has been measured. -/
structure MbrSt where
  known : Bool := false
  dc : Acct := {}
  alive : Nat := 0
  probes : Nat := 0
  lastFrame : Nat := 0
  lastProbe : Nat := 0
  rxAlive : Option Nat := none
  delay : Int := 0
  latest : Int := 0
  lastRx : Nat := 0
  deriving DecidableEq, Repr, Inhabited

/-- Carrier teams: members by team × 16 + m, domains by team × 4,096 + d, the spill account (R262); `hold`
keeps each team's part of a nanosecond of held time (R256), `holdSum` the held time of its hold under way in 2^-16 ns (R237). -/
structure TeamSt where
  holdSum : List (Nat × Nat) := []
  mbr : List (Nat × MbrSt) := []
  dom : List (Nat × DomSt) := []
  spill : Acct := {}
  hold : List (Nat × Nat) := []
  deriving DecidableEq, Repr, Inhabited

/-- Rates and counts of the traffic manager that belong to the device; the port statistics by port × 40 + direction × 20 + index
(R197); the cycle in which the sample period under way began (R242). -/
structure TmSt where
  stats : List (Nat × Nat) := []
  sampleAt : Nat := 0
  nextId : Nat := 0
  store : Acct := {}
  refs : Nat := 0
  leaves : List (Nat × LeafSt) := []
  mcs : List McPkt := []
  pol : List (Nat × Nat) := []
  sent : List (Nat × List Byte) := []
  sampAcct : Acct := {}
  deriving DecidableEq, Repr, Inhabited

/-! Start-up, reset and recovery (chs 02, 03, 20) -/

/-- What the pins and the start-up sequence hold. `kind` tells how a slice stands in its state: 0 plain, 1 waiting in the boot
hold of R68, 2 in a live unit, 3 in a recovery, 4 waiting in the hold of a recovery. `wide` is on while all slices share the
device state (R66); `begun` tells that a slice has left STRUCTURE since the last boot apply pass. `trips` counts failed training
attempts of each stack. (PRESUMED, log 68.) -/
structure LifeSt where
  power : Bool := true
  powerAt : Nat := 0
  low : Bool := true
  perstLow : Bool := true
  riseAt : Nat := 0
  perstAt : Nat := 0
  fused : Bool := false
  locked : Bool := false
  pllTries : Nat := 0
  trips : List (Nat × Nat) := []
  wide : Bool := true
  isOpen : Bool := false
  kind : List (Nat × Nat) := []
  ready : List Nat := []
  stopped : List Nat := []
  served : Bool := false
  thermal : Bool := false
  begun : Bool := false
  clkSel : Bool := false
  tempAt : Nat := 0
  i2c : Nat := 0
  jtag : JtagOp := .idcode
  deriving DecidableEq, Repr

/-- The loader (ch 02). `src`: 0 none, 1 flash slot A, 2 slot B, 3 PCIe, 4 halter ring. `step`: 0 idle, 1 header awaited, 2 rest
of the manifest awaited, 3 signature check, 4 bodies staged up to `next`, 5 boot apply, 6 live units. `since` is the cycle the
present fetch began; `slotA` the code and section of slot A; `mask` the slices an image enables, `fw` the clusters it holds
firmware for; `got` the pieces of an image from the ring, `man` the manifest and signature block as fetched; `engine` the slice
that is re-applied, from cycle `engineAt`; `units` the live units still to handle (16 + k for cluster k), `unit` the one being
applied from cycle `unitAt`, `done` the body bytes that the apply pass under way has taken (R60), `waitAt` since when a unit waits
for its staged epoch. -/
structure LoadSt where
  src : Nat := 0
  live : Bool := false
  step : Nat := 0
  since : Nat := 0
  len : Nat := 0
  next : Nat := 0
  slotA : Option (Nat × Nat) := none
  retained : Bool := false
  mask : Nat := 0
  fw : Nat := 0
  peer : Nat := 0
  byStrap : Bool := false
  got : List (Nat × List Byte) := []
  man : List Byte := []
  engine : Option Nat := none
  engineAt : Nat := 0
  units : List Nat := []
  unit : Option Nat := none
  unitAt : Nat := 0
  done : Nat := 0
  waitAt : Option Nat := none
  deriving DecidableEq, Repr


/-! The whole device -/

/-- The memories with addresses (R26, R125, R341, R398, R402), each in canonical form; an unlisted byte reads 0
(DESIGN CHOICE, log 5). -/
structure Mem where
  dram : List Host.Cell := []
  cls : List Host.Cell := []
  cluster : List Host.Cell := []
  sram : List Host.Cell := []
  tabs : List Host.Cell := []
  host : List Host.Cell := []
  bar2 : List Host.Cell := []
  deriving DecidableEq, Repr

/-- The registers and engines: everything of the device but its memories. `poolAt` is the cycle from which a buffer pool serves its next
request (R384). `free` counts the free values taken
(DESIGN CHOICE, log 2); `hold` and `staged` are the per-requester copies of R10. -/
structure Dev where
  regs : List (Nat × Word) := []
  hold : List (Nat × Option Word) := []
  staged : List (Nat × Option Word) := []
  words : List (Nat × Option Word) := []
  cycle : Nat := 0
  free : Nat := 0
  ntu : NtuSt := {}
  cku : List (Nat × CrcEng) := []
  integ : IntegSt := {}
  drv : DrvSt := {}
  stb : StbSt := {}
  bufs : List (Nat × Buf) := []
  minSeen : List Nat := []
  poolAt : List (Nat × Nat) := []
  pmu : PmuSt := {}
  host : HostSt := {}
  halter : HalterSt := {}
  epochs : List (Nat × Nat) := []
  drvInj : List (Nat × List Inject) := []
  hostInj : List (Nat × List Inject) := []
  slices : List (Nat × SliceSt) := []
  ports : List (Nat × PortSt) := []
  cars : List (Nat × CarSt) := []
  holdIns : List (Nat × HoldIn) := []
  flow : FlowSt := {}
  fwd : FwdSt := {}
  tm : TmSt := {}
  team : TeamSt := {}
  life : LifeSt := {}
  ld : LoadSt := {}
  deriving DecidableEq, Repr

/-- The block a command acts on: the device with its memories. -/
structure Block where
  dev : Dev := {}
  mem : Mem := {}
  deriving DecidableEq, Repr

/-- The state of the model: the block, and the commands that wait, first in first out. -/
structure State where
  dev : Dev := {}
  mem : Mem := {}
  pending : List Instr := []
  deriving DecidableEq, Repr

/-- Why the machine stops. -/
inductive Fault where
  /-- Raised by a register write that names a case the spec's lists call unpredictable with no effect among its
  choices (R6, R16). It is safe: the hardware goes on in some way of its own, the model stops. -/
  | unpredictable (rule : Nat)
  /-- Raised by a JTAG instruction whose working the spec leaves to a file that it does not contain (R435). It is
  safe. -/
  | undescribed (rule : Nat)
  deriving DecidableEq, Repr

/-- Why a command has no meaning in the model. -/
inductive Refusal where
  /-- Answered by an arm of `exec` whose command is not modelled yet. It is safe. -/
  | notModelled (mnemonic : String)
  deriving DecidableEq, Repr

/-- The machine right after reset: powered, RESET_N held low, every register at its reset value, memories with nothing
listed, no command waiting. (DESIGN CHOICE, log 1.) (DESIGN CHOICE, log 3.) -/
def State.reset : State := {}

end Sys2Proof.Machine
end

