-- ==== Sys2Proof/Machine/Ops.lean ====
section
/-! DEFINITION. Named operations over registers, counters, accounts, time and memories. -/

namespace Sys2Proof.Machine

/-! Elements of maps -/

/-- The element at a key of an engine's map, its default where not listed. -/
def at0 {α : Type} [Inhabited α] (m : List (Nat × α)) (k : Nat) : α := Sparse.get default m k

/-- Changes the element at a key of an engine's map. -/
def upd0 {α : Type} [Inhabited α] [DecidableEq α] (m : List (Nat × α)) (k : Nat) (f : α → α) : List (Nat × α) :=
  Sparse.upd default m k f

/-! Registers (R8, R13, R14): the register file is keyed by window offset and element. -/

/-- Key of a register of an element. -/
def regKey (off inst : Nat) : Nat := off * 2 ^ 20 + inst

/-- The word a row's register holds at reset: its fields' reset values. (DESIGN CHOICE, log 6.) -/
def RegRow.resetWord (r : RegRow) : Nat := (r.fields.map (fun f => f.reset * 2 ^ f.lo)).sum

/-- Table 06-3: the reset descriptors CLS_KEY_EXT0 to 11, each built by Table 06-1 from
(SRC, BASE, OFFSET, LEN, DST, COND); 12 to 15 are 0. -/
def keyExtReset : List Nat :=
  [(1, 10, 12, 4, 12, 1), (1, 10, 16, 4, 28, 1), (1, 10, 8, 16, 0, 2), (1, 10, 24, 16, 16, 2), (1, 11, 0, 4, 32, 0),
   (1, 10, 9, 1, 36, 1), (1, 10, 6, 1, 36, 2), (1, 10, 1, 1, 37, 1), (1, 10, 0, 2, 38, 2), (2, 0, 0, 1, 40, 0),
   (2, 0, 2, 2, 41, 0), (2, 0, 4, 3, 43, 0)].map (fun x => x.1 + x.2.1 * 4 + x.2.2.1 * 64 + (x.2.2.2.1 - 1) * 16384 +
    x.2.2.2.2.1 * 2 ^ 18 + x.2.2.2.2.2 * 2 ^ 24)

/-- The reset word of the register at an offset. FLW_IDLE_T0 alone of its row resets to 0x7530 (R173). -/
def resetWord (off : Nat) : Word :=
  match findReg off with
  | none => 0
  | some r =>
    if r.off = R.FLW_IDLE_T ∧ off ≠ R.FLW_IDLE_T then 0
    else if r.off = R.CLS_KEY_EXT then BitVec.ofNat 32 (keyExtReset.getD ((off - r.off) / 4) 0)
    else BitVec.ofNat 32 r.resetWord

/-- A register's value. -/
def Dev.rget (d : Dev) (off : Nat) (inst : Nat := 0) : Word := Sparse.get (resetWord off) d.regs (regKey off inst)

/-- Sets a register. -/
def Dev.rset (d : Dev) (off inst : Nat) (v : Word) : Dev :=
  { d with regs := Sparse.set (resetWord off) d.regs (regKey off inst) v }

/-- The value of a field. -/
def Dev.fget (d : Dev) (f : Fld) (inst : Nat := 0) : Nat := bits (d.rget f.off inst).toNat f.lo f.w

/-- Whether a field is not 0. -/
def Dev.fon (d : Dev) (f : Fld) (inst : Nat := 0) : Bool := d.fget f inst != 0

/-- Sets a field. -/
def Dev.fset (d : Dev) (f : Fld) (inst v : Nat) : Dev :=
  d.rset f.off inst (BitVec.ofNat 32 (setBits (d.rget f.off inst).toNat f.lo f.w v))

/-- The n-th register of an array of registers, same field. -/
def Fld.nth (f : Fld) (n : Nat) : Fld := { f with off := f.off + 4 * n }

/-- A free value of `w` bits: the spec states none (DESIGN CHOICE, log 2). -/
def Dev.fresh (d : Dev) (w : Nat) : Nat × Dev := (Config.freeNat d.free % 2 ^ w, { d with free := d.free + 1 })

/-- Adds to a counter field. The spec states no value for a counter that passes its field's maximum: it is a
free value there (DESIGN CHOICE, log 7). -/
def Dev.cnt (d : Dev) (f : Fld) (inst : Nat := 0) (n : Nat := 1) : Dev :=
  if d.fget f inst + n < 2 ^ f.w then d.fset f inst (d.fget f inst + n)
  else (d.fresh f.w).2.fset f inst (d.fresh f.w).1

/-! Time: CLK_CORE runs at 3 GHz (R28); NTU is held in 2^-40 ns (R286). -/

/-- One nanosecond in 2^-40 ns. -/
def ntuNs : Nat := 2 ^ 40

/-- NTU_INCR in 2^-40 ns (R286). -/
def Dev.incr (d : Dev) : Nat := d.fget F.NTU_INCR_LO_INCR + d.fget F.NTU_INCR_HI_INCR * 2 ^ 32

/-- Lets `n` CLK_CORE cycles pass: the cycle count and, once it runs, the NTU (R286, R287). -/
def Dev.elapse (d : Dev) (n : Nat) : Dev :=
  { d with
    cycle := d.cycle + n
    ntu := { d.ntu with total := if d.ntu.run then d.ntu.total + n * d.incr else d.ntu.total } }

/-- Carries the clock to a cycle, if it lies ahead (DESIGN CHOICE, log 8). -/
def Dev.toCycle (d : Dev) (c : Nat) : Dev := d.elapse (c - d.cycle)

/-- Carries the clock to the first cycle whose NTU value is at or after an instant (R292, DESIGN CHOICE, log 8). -/
def Dev.toNtu (d : Dev) (t : Nat) : Dev :=
  if d.ntu.run ∧ d.incr ≠ 0 then d.elapse ((t - d.ntu.total + d.incr - 1) / d.incr) else d

/-- NTU seconds. -/
def Dev.ntuSec (d : Dev) : Nat := d.ntu.total / ntuNs / 1000000000

/-- NTU nanoseconds within the second. -/
def Dev.ntuNsec (d : Dev) : Nat := d.ntu.total / ntuNs % 1000000000

/-- NTU fraction in 2^-16 ns. -/
def Dev.ntuFrac (d : Dev) : Nat := d.ntu.total % ntuNs / 2 ^ 24

/-- An instant given as seconds and nanoseconds, in 2^-40 ns. -/
def instant (sec ns : Nat) : Nat := (sec * 1000000000 + ns) * ntuNs

/-- Cycles of an interval in ns: 3 per ns. -/
def cyclesOfNs (ns : Nat) : Nat := 3 * ns

/-- Division rounded up. -/
def upDiv (a b : Nat) : Nat := if b = 0 then 0 else (a + b - 1) / b

/-! Accounts (R447). Levels are in units of the rule that uses the account. -/

/-- The level now: refilled by `rate` units a cycle up to `cap`. -/
def Acct.now (a : Acct) (cap rate cycle : Nat) : Int :=
  match a.level with
  | none => cap
  | some l => min (cap : Int) (l + (rate * (cycle - a.since) : Nat))

/-- Takes units from an account, which may leave it below zero. -/
def Acct.take (a : Acct) (cap rate cycle n : Nat) : Acct := ⟨some (a.now cap rate cycle - (n : Int)), cycle⟩

/-- The account brought up to a cycle: a later change of its rate leaves what it holds (R447). -/
def Acct.settle (a : Acct) (cap rate cycle : Nat) : Acct :=
  match a.level with
  | none => a
  | some _ => ⟨some (a.now cap rate cycle), cycle⟩

/-- An account that starts empty at a cycle. -/
def Acct.zero (cycle : Nat) : Acct := ⟨some 0, cycle⟩

/-! Memories -/

/-- The memories of `Mem`. -/
inductive Space where
  | dram | cls | cluster | sram | tabs | host | bar2
  deriving DecidableEq, Repr

/-- The bytes of a memory. -/
def Mem.bytes (m : Mem) : Space → List Host.Cell
  | .dram => m.dram
  | .cls => m.cls
  | .cluster => m.cluster
  | .sram => m.sram
  | .tabs => m.tabs
  | .host => m.host
  | .bar2 => m.bar2

/-- Replaces the bytes of a memory. -/
def Mem.setBytes (m : Mem) (sp : Space) (c : List Host.Cell) : Mem :=
  match sp with
  | .dram => { m with dram := c }
  | .cls => { m with cls := c }
  | .cluster => { m with cluster := c }
  | .sram => { m with sram := c }
  | .tabs => { m with tabs := c }
  | .host => { m with host := c }
  | .bar2 => { m with bar2 := c }

/-- Reads `n` bytes of a memory. -/
def Mem.read (m : Mem) (sp : Space) (a n : Nat) : List Byte := Bytes.read (m.bytes sp) a n

/-- Reads a number of `n` bytes, least significant first (R15). -/
def Mem.num (m : Mem) (sp : Space) (a n : Nat) : Nat := leNat (m.read sp a n)

/-- Writes bytes to a memory. -/
def Mem.write (m : Mem) (sp : Space) (a : Nat) (bs : List Byte) : Mem := m.setBytes sp (Bytes.write (m.bytes sp) a bs)

/-- Empties a memory. -/
def Mem.clear (m : Mem) (sp : Space) : Mem := m.setBytes sp []

/-- Keeps only the bytes of a memory whose address passes a test. -/
def Mem.keep (m : Mem) (sp : Space) (p : Nat → Bool) : Mem := m.setBytes sp ((m.bytes sp).filter (fun c => p c.1))

/-- Every memory is in its canonical form. -/
def Mem.wf (m : Mem) : Bool :=
  Sparse.wf 0 m.dram && Sparse.wf 0 m.cls && Sparse.wf 0 m.cluster && Sparse.wf 0 m.sram &&
  Sparse.wf 0 m.tabs && Sparse.wf 0 m.host && Sparse.wf 0 m.bar2

/-- Writes bytes to a memory of the block. -/
def Block.store (b : Block) (sp : Space) (a : Nat) (bs : List Byte) : Block := { b with mem := b.mem.write sp a bs }

/-- Changes the device, not its memories. -/
def Block.on (b : Block) (f : Dev → Dev) : Block := { b with dev := f b.dev }

/-- The block of a state. -/
def State.blk (s : State) : Block := ⟨s.dev, s.mem⟩

/-- A state with its block replaced, the queue as it stands. -/
def State.withBlk (s : State) (b : Block) : State := { s with dev := b.dev, mem := b.mem }

/-- Runs a change of the device. -/
def runDev (f : Dev → Dev) (s : State) : Host.Outcome State Fault Refusal := .next { s with dev := f s.dev }

/-- Runs a change of the block. -/
def runBlk (f : Block → Block) (s : State) : Host.Outcome State Fault Refusal := .next (s.withBlk (f s.blk))

/-- Applies a change for each element of a list in turn. -/
def forAll {α β : Type} (l : List α) (f : β → α → β) (b : β) : β := l.foldl f b

end Sys2Proof.Machine
end

