-- ==== Sys2Proof/Machine/Flags.lean ====
section
/-! DEFINITION. Sending on the halter ring (R408), interrupts (R421), events and sticky alarms (R417 to R420). -/

namespace Sys2Proof.Machine

/-- The device's DEVID as sampled (R406). -/
def Dev.devid (d : Dev) : Nat := d.fget F.GLB_STRAPS_DEVID

/-- Whether the device is the ring root (R406). -/
def Dev.isRoot (d : Dev) : Bool := d.devid == 0

/-! Routes over the ring (R408, R409) -/

/-- Whether the hop between two neighbours is up in the hop map. -/
def HalterSt.hopUp (h : HalterSt) (up down : Nat) : Bool := !(h.down.contains (up, down))

/-- The devices at `n` successive ring positions from position `p`, downstream. -/
def HalterSt.path (h : HalterSt) (p n : Nat) : List Nat :=
  (List.range (n + 1)).map (fun k => h.order.getD ((p + k) % h.order.length) 0)

/-- Whether every hop along a list of neighbours is up. -/
def HalterSt.pathUp (h : HalterSt) : List Nat → Bool
  | a :: b :: r => h.hopUp a b && h.pathUp (b :: r)
  | _ => true

/-- The direction a message takes from a device: fewer hops over hops that are up, ties downstream (R408). A device
that the known ring order does not hold is reached downstream (DEDUCED, log 9). -/
def HalterSt.dir (h : HalterSt) (me dst : Nat) : Option Bool :=
  match h.order.idxOf? me, h.order.idxOf? dst with
  | some i, some j =>
    let n := h.order.length
    let dn := (j + n - i) % n
    let up := (i + n - j) % n
    let dOk := h.pathUp (h.path i dn)
    let uOk := h.pathUp (h.path j up)
    if dOk && (!uOk || dn ≤ up) then some true else if uOk then some false else none
  | _, _ => some true

/-! Service at the ports (R411) -/

/-- Whether a message is of the class that goes first: REG, DISCOVER, LINK and INTR; MEM and IMG follow (R411). -/
def msgFirst (m : HMsg) : Bool := decide (m.typ < 5) || decide (9 < m.typ)

/-- Cycles that a message's Ethernet frame takes on a port of 100 Gb/s: 12.5 bytes a ns (R406, R410). (PRESUMED, log 133.) -/
def msgCycles (m : HMsg) : Nat := (6 * (max (34 + m.payload.length) 64 + 20) + 24) / 25

/-- Messages that wait at a port follow one another from a cycle on. -/
def followOn (t : Nat) : List OutMsg → List OutMsg
  | [] => []
  | o :: r => { o with start := t } :: followOn (t + msgCycles o.msg) r

/-- Whether the hop of a port is up. -/
def Dev.portHop (d : Dev) (down : Bool) : Bool := d.fon (if down then F.HTR_STATUS_H1_UP else F.HTR_STATUS_H0_UP)

/-- The messages of the ports once a message has come to one in cycle c: it waits behind the frame being sent; a message of the first class
goes ahead of waiting ones of the second, within its class in arrival order (R411). -/
def queueMsg (out : List OutMsg) (c : Nat) (down : Bool) (m : HMsg) : List OutMsg :=
  let waits (o : OutMsg) : Bool := o.down == down && decide (c < o.start)
  let gone := out.filter (fun o => !waits o)
  let w := out.filter waits
  let idle := ((gone.filter (fun o => o.down == down)).map (fun o => o.start + msgCycles o.msg)).foldl max c
  let o : OutMsg := { down := down, msg := m, since := c }
  let line := if msgFirst m then w.filter (fun x => msgFirst x.msg) ++ o :: w.filter (fun x => !msgFirst x.msg) else w ++ [o]
  gone ++ followOn idle line

/-- A message comes to a port: it is lost where the hop is down (DEDUCED, log 9), and otherwise waits in the port's order (R411). -/
def Dev.sendVia (d : Dev) (down : Bool) (m : HMsg) : Dev :=
  { d with halter.out := if d.portHop down then queueMsg d.halter.out d.cycle down m else d.halter.out }

/-- Sends a message: held while the route's hold runs (R408), lost where no route is up. -/
def Dev.send (d : Dev) (m : HMsg) : Dev :=
  match d.halter.dir d.devid m.dst with
  | none => d
  | some dn =>
    match d.halter.holds.find? (fun p => p.1 == m.dst) with
    | some _ => { d with halter.held := d.halter.held ++ [{ down := dn, msg := m, since := d.cycle }] }
    | none => d.sendVia dn m

/-- A message of this device (Table 19-2). -/
def Dev.mkMsg (d : Dev) (typ dst req tag status addr : Nat) (payload : List Byte) : HMsg :=
  { typ := typ, fromH1 := false, dst := dst, src := d.devid, req := req, tag := tag, status := status, addr := addr,
    payload := payload }

/-! Reads of host memory by a device that is not the root (R410) -/

/-- The reads of at most 1,024 bytes that fetch a range. -/
def readPieces (addr n : Nat) : List (Nat × Nat) :=
  (List.range ((n + 1023) / 1024)).map (fun k => (addr + 1024 * k, min 1024 (n - 1024 * k)))

/-- Asks the root for a range of host memory in MEM_RD messages; what the engine asked for before is forgotten. -/
def Dev.memAsk (d : Dev) (who req addr n : Nat) : Dev :=
  let ask (d : Dev) (x : Nat × Nat) : Dev :=
    let tag := d.halter.nextTag
    let d : Dev := { d with halter := { d.halter with
      nextTag := (tag + 1) % 65536
      reads := d.halter.reads ++ [{ tag := tag, who := who, addr := x.1, n := x.2 }] } }
    d.send { d.mkMsg 6 0 req tag 0 x.1 [] with want := x.2 }
  (readPieces addr n).foldl ask { d with halter.reads := d.halter.reads.filter (fun r => r.who != who) }

/-- What an engine's reads of a range have brought: none while completions are missing, or where it has not asked; then the
bytes, or none for HOST_ERR. -/
def Dev.memGot (d : Dev) (who addr n : Nat) : Option (Option (List Byte)) :=
  let mine := d.halter.reads.filter (fun r => r.who == who)
  if mine.map (fun r => (r.addr, r.n)) ≠ readPieces addr n then none
  else if mine.any (fun r => r.got.isNone) then none
  else if mine.all (fun r => (r.got.map (fun g => g.1 == 0)).getD false) then
    some (some (mine.flatMap (fun r => (((r.got.map (fun g => g.2)).getD []) ++ List.replicate r.n 0).take r.n)))
  else some none

/-! Interrupts (R421) -/

/-- Configuration dword of the MSI-X capability: enable in bit 31, function mask in bit 30 (PRESUMED, log 10). -/
def cfgMsixReg : Nat := 0x1c

/-- The root sends an MSI-X vector, or keeps it pending while it is masked (R421). -/
def Dev.msixFire (d : Dev) (v : Nat) : Dev :=
  let ctl := (Sparse.get 0 d.host.cfg cfgMsixReg).toNat
  let e := at0 d.host.msix v
  if bit ctl 31 then
    if bit ctl 30 || !e.unmasked then
      { d with host.msix := upd0 d.host.msix v (fun x => { x with pending := true }) }
    else { d with host.msixOut := d.host.msixOut ++ [(e.addr, e.data)] }
  else d

/-- Fires vector v of this device: at the root itself, else as an INTR message to the root (R421). -/
def Dev.vector (d : Dev) (v : Nat) : Dev :=
  if d.isRoot then d.msixFire v else d.send (d.mkMsg 10 0 2 0 0 (8 * d.devid + v) [])

/-! Events (R417, R418) -/

/-- First offsets of the blocks of Table 00-5, in its order. -/
def blockBases : List Nat :=
  [0x0000000, 0x0100000, 0x0200000, 0x0300000, 0x0400000, 0x0800000, 0x0A00000, 0x0C00000, 0x1000000, 0x1400000,
   0x1800000, 0x1C00000, 0x2000000, 0x2200000, 0x2400000, 0x2600000, 0x2800000, 0x2A00000, 0x2C00000, 0x2E00000]

/-- The index of the block that holds an offset (Table 00-5). -/
def blockIndex (off : Nat) : Nat := (blockBases.filter (fun b => decide (b ≤ off))).length - 1

/-- The value that a register's word gives a field. -/
def fv (v : Word) (f : Fld) : Nat := bits v.toNat f.lo f.w

/-- Units of one token of an event limiter: PER_MS tokens a millisecond are PER_MS units a cycle. -/
def evtToken : Nat := 3000000

/-- The newest queued event of a class, taken out of the queue. -/
def dropNewest (cls : Nat) (q : List Evt) : Option (List Evt) :=
  match q.reverse.findIdx? (fun e => e.cls == cls) with
  | some i => some ((q.reverse.eraseIdx i).reverse)
  | none => none

/-- The queue with room made for an event of class `cls` by displacing the newest event of the lowest class below
its own, TRACE first; none where only its class or higher ones are queued (R418). -/
def displace (cls : Nat) (q : List Evt) : Option (Nat × List Evt) :=
  ([3, 2, 1].filter (fun c => decide (cls < c))).findSome? (fun c => (dropNewest c q).map (fun q' => (c, q')))

/-- Puts an event that passed its limiter into the on-die queue of 256 (R418). -/
def Dev.enqueueEvt (d : Dev) (e : Evt) : Dev :=
  if d.host.evtQ.length < 256 then { d with host.evtQ := d.host.evtQ ++ [e] }
  else
    match displace e.cls d.host.evtQ with
    | some (c, q) => ({ d with host.evtQ := q ++ [e] }).cnt F.HDM_EVT_DROP_COUNT c
    | none => d.cnt F.HDM_EVT_DROP_COUNT e.cls

/-- Raises an event: SEQ advances, the class limiter gives or refuses a token, the queue takes it (R417, R418). -/
def Dev.raiseRaw (d : Dev) (cls block off bitNo inst : Nat) (data : List Byte) : Dev :=
  let seq := d.fget F.HDM_EVT_SEQ_SEQ cls
  let e : Evt := { cls := cls, block := block, off := off, bit := bitNo, inst := inst, seq := seq,
                   sec := d.ntuSec % 2 ^ 32, ns := d.ntuNsec, data := data }
  let d := d.fset F.HDM_EVT_SEQ_SEQ cls (seq + 1)
  let cap := d.fget F.HDM_EVT_RATE_BURST cls * evtToken
  let rate := d.fget F.HDM_EVT_RATE_PER_MS cls
  let a := at0 d.host.limiter cls
  if a.now cap rate d.cycle < evtToken then d.cnt F.HDM_EVT_DROP_COUNT cls
  else
    { d with host.limiter := Sparse.set default d.host.limiter cls (a.take cap rate d.cycle evtToken) }.enqueueEvt e

/-- INSTANCE of a device-wide register (R417). -/
def devWide : Nat := 0xFFFF

/-- Raises an event named by the register field that records its condition (R417). (DEDUCED, log 44.) -/
def Dev.raise (d : Dev) (cls : Nat) (f : Fld) (inst : Nat := devWide) (data : List Byte := []) : Dev :=
  d.raiseRaw cls (blockIndex f.off) (f.off - blockBases.getD (blockIndex f.off) 0) f.lo inst data

/-- An ERROR event. -/
def Dev.error (d : Dev) (f : Fld) (inst : Nat := devWide) : Dev := d.raise 1 f inst

/-- A NOTICE event. -/
def Dev.notice (d : Dev) (f : Fld) (inst : Nat := devWide) : Dev := d.raise 2 f inst

/-- Sets a sticky bit of ERR_ALARM; vector 8d fires when the bit sets unmasked (R419, R421). -/
def Dev.alarmBit (d : Dev) (n : Nat) : Dev :=
  let w := d.rget R.ERR_ALARM
  let d' := { d with host.alarmAt := Sparse.set 0 d.host.alarmAt n (d.cycle + 1) }.rset R.ERR_ALARM 0 (w ||| BitVec.ofNat 32 (2 ^ n))
  if !bit w.toNat n && !bit (d.fget F.ERR_ALARM_MASK_MASK) n then d'.vector 0 else d'

/-- What a write of 1s clears of ERR_ALARM: a bit that its condition has set in this cycle stays set (R419). -/
def Dev.keepAlarms (d : Dev) (v : Word) : Word :=
  (List.range 13).foldl (fun v n => if Sparse.get 0 d.host.alarmAt n = d.cycle + 1 then v &&& ~~~(BitVec.ofNat 32 (2 ^ n)) else v) v

/-- An ALARM condition: its bit of ERR_ALARM and an ALARM event (R419). -/
def Dev.alarm (d : Dev) (n : Nat) (f : Fld) (inst : Nat := devWide) (data : List Byte := []) : Dev :=
  (d.alarmBit n).raise 0 f inst data

/-! Host rings (R416) -/

/-- Number of entries of a host ring. -/
def Dev.ringSize (d : Dev) (r : Nat) : Nat := 2 ^ d.fget F.HDM_RING_CFG_SIZE r

/-- Whether a ring is full once `extra` more entries lie ahead: one short of HEAD; a disabled ring is full (R416). -/
def Dev.ringFull (d : Dev) (r : Nat) (extra : Nat := 0) : Bool :=
  let n := d.ringSize r
  let used := (d.fget F.HDM_RING_TAIL_INDEX r + n - d.fget F.HDM_RING_HEAD_INDEX r % n) % n
  !d.fon F.HDM_RING_CFG_ENABLE r || decide (n ≤ used + extra + 1)

/-- Bytes of an entry of each ring (Table 19-5). -/
def ringEntryBytes (r : Nat) : Nat := if r < 4 then 64 else if r = 6 then 128 else 32

/-- The bytes of an event record (Table 19-6). -/
def Dev.evtBytes (d : Dev) (e : Evt) : List Byte :=
  toLe 1 e.cls ++ toLe 1 e.block ++ toLe 3 e.off ++ toLe 1 e.bit ++ toLe 2 e.inst ++ toLe 2 e.seq ++ toLe 1 d.devid ++
  toLe 1 0 ++ toLe 4 e.sec ++ toLe 4 e.ns ++ toLe 12 0 ++ (e.data ++ List.replicate 32 0).take 32

/-- Entries of a stream ring that wait to be written (Table 19-5). -/
def Dev.stream (d : Dev) (r : Nat) : List (List Byte) := at0 d.host.streams r

/-- Adds an entry to a stream. -/
def Dev.addStream (d : Dev) (r : Nat) (e : List Byte) : Dev :=
  { d with host.streams := upd0 d.host.streams r (fun l => l ++ [e]) }

/-- A device's write to host memory: by PCIe at the root, as MEM_WR messages of at most 1,024 bytes elsewhere (R410). (DEDUCED, log 95.) -/
def Block.hostWrite (b : Block) (addr : Nat) (bs : List Byte) : Block :=
  if b.dev.isRoot then b.store .host addr bs
  else
    b.on (fun d => forAll (List.range ((bs.length + 1023) / 1024)) (fun d k =>
      d.send (d.mkMsg 5 0 2 0 0 (addr + 1024 * k) ((bs.drop (1024 * k)).take 1024))) d)

/-- Sends a ring's interrupt when its spacing allows, else keeps it due (R421). (DEDUCED, log 109.) -/
def Dev.ringInt (d : Dev) (r : Nat) : Dev :=
  if d.fon F.HDM_RING_CFG_INT_EN r then
    match d.host.intLast.find? (fun p => p.1 == r) with
    | some (_, c) =>
      if d.cycle < c + cyclesOfNs (d.fget F.HDM_RING_INT_NS_NS r) then
        { d with host.intDue := if d.host.intDue.contains r then d.host.intDue else d.host.intDue ++ [r] }
      else { d with host.intLast := Sparse.put r d.cycle d.host.intLast }.vector r
    | none => { d with host.intLast := Sparse.put r d.cycle d.host.intLast }.vector r
  else d

/-- One CLK_CORE cycle in which no command is taken: the clock and the NTU run on, interrupts whose spacing has passed are
sent (R28, R286, R421; DESIGN CHOICE, log 39). -/
def Dev.tick (d : Dev) : Dev :=
  forAll d.host.intDue (fun d r => ({ d with host.intDue := d.host.intDue.erase r }).ringInt r) (d.elapse 1)

/-- Writes one entry at a ring's producer index, advances the index and writes it back; the ring's interrupt
follows (R416, R421). -/
def Block.ringWrite (b : Block) (r : Nat) (e : List Byte) : Block :=
  let d := b.dev
  let t := d.fget F.HDM_RING_TAIL_INDEX r
  let base := d.fget F.HDM_RING_BASE_LO_ADDR r + d.fget F.HDM_RING_BASE_HI_ADDR r * 2 ^ 32
  let wb := d.fget F.HDM_RING_WB_LO_ADDR r + d.fget F.HDM_RING_WB_HI_ADDR r * 2 ^ 32
  let t' := (t + 1) % d.ringSize r
  let b := b.hostWrite (base + t * ringEntryBytes r) e
  let b := b.on (fun d => d.fset F.HDM_RING_TAIL_INDEX r t')
  (b.hostWrite wb (toLe 4 t')).on (fun d => d.ringInt r)

/-- EVENT_RING_WRITE (R418): the oldest queued event of a class goes to its ring, if the ring has room. -/
def eventRingWrite (cls : Nat) (b : Block) : Block :=
  match b.dev.host.evtQ.find? (fun e => e.cls == cls) with
  | none => b
  | some e =>
    if b.dev.ringFull cls then b
    else (b.on (fun d => { d with host.evtQ := d.host.evtQ.erase e })).ringWrite cls (b.dev.evtBytes e)

/-- RING_ENTRY_WRITE (R416): the oldest waiting entry of a stream goes to its host ring, if the ring has room. -/
def ringEntryWrite (r : Nat) (b : Block) : Block :=
  if r < 4 then eventRingWrite r b
  else
    match b.dev.stream r with
    | [] => b
    | e :: l =>
      if b.dev.ringFull r then b
      else (b.on (fun d => { d with host.streams := upd0 d.host.streams r (fun _ => l) })).ringWrite r e

end Sys2Proof.Machine
end

