-- ==== Sys2Proof/Machine/Bpm.lean ====
section
/-! DEFINITION. Regions of the stacked DRAM (R26, R54), where the buffer pools and their buffers lie (R380 to R382), owner IDs. -/

namespace Sys2Proof.Machine

/-! Regions (R26, R54, R318) -/

/-- One GiB. -/
def gib : Nat := 2 ^ 30

/-- First byte of the FW region; SYS lies below it. -/
def fwBase : Nat := 0x30000000

/-- Bytes of the FW region. -/
def Dev.fwSize (d : Dev) : Nat := d.fget F.SDC_CARVE_FW * gib

/-- First byte of the MPLS region. -/
def Dev.mplsBase (d : Dev) : Nat := fwBase + d.fwSize

/-- First byte of the LPM region. -/
def Dev.lpmBase (d : Dev) : Nat := d.mplsBase + 0x10000000

/-- First byte of the FLOW region. -/
def Dev.flowBase (d : Dev) : Nat := d.lpmBase + d.fget F.SDC_CARVE_LPM * gib

/-- Bytes of the FLOW region. -/
def Dev.flowSize (d : Dev) : Nat := d.fget F.SDC_CARVE_FLOW * gib

/-- First byte of the PKT region. -/
def Dev.pktBase (d : Dev) : Nat := d.flowBase + d.flowSize

/-- Bytes of the PKT region. -/
def Dev.pktSize (d : Dev) : Nat := d.fget F.SDC_CARVE_PKT * gib

/-- Byte 576 MiB of the FW region, where the thread window starts (R341). -/
def fwWindow : Nat := 576 * 2 ^ 20

/-- Where a thread address outside cluster memory and the register window lies: buffer SRAM, or the FW region from
byte 576 MiB (R341); none where nothing is mapped. -/
def Dev.mapAddr (d : Dev) (a : Nat) : Option (Space × Nat) :=
  if 0x20000000 ≤ a ∧ a < 0x20800000 then some (.sram, a - 0x20000000)
  else if 0x80000000 ≤ a ∧ a < 0x100000000 ∧ fwWindow + (a - 0x80000000) < d.fwSize then
    some (.dram, fwBase + fwWindow + (a - 0x80000000))
  else none

/-! Pools (R381) -/

/-- Bytes of a buffer of a pool. -/
def poolSize (p : Nat) : Nat := 64 * 2 ^ p

/-- SRAM buffers of a pool: BPM_POOL_SHARE × 65,536 / buffer size. -/
def Dev.poolSram (d : Dev) (p : Nat) : Nat := d.fget F.BPM_POOL_SHARE_UNITS p * 65536 / poolSize p

/-- DRAM buffers of a pool. -/
def Dev.poolDram (d : Dev) (p : Nat) : Nat := d.fget F.BPM_POOL_DRAM_COUNT p

/-- Thread address of a pool's SRAM part: shares lie in pool order. -/
def Dev.sramPart (d : Dev) (p : Nat) : Nat :=
  0x20000000 + ((List.range p).map (fun q => d.fget F.BPM_POOL_SHARE_UNITS q * 65536)).sum

/-- Thread address of a pool's DRAM part: pool 0 first, from BPM_DRAM_BASE × 64 KiB of FW (R380, R381). -/
def Dev.dramPart (d : Dev) (p : Nat) : Nat :=
  0x80000000 + (d.fget F.BPM_DRAM_BASE_BASE * 65536 - fwWindow) +
    ((List.range p).map (fun q => d.poolDram q * poolSize q)).sum

/-- Whether a byte of DRAM lies in the task store or in a pool's DRAM part (R380). -/
def Dev.inBuffers (d : Dev) (a : Nat) : Bool :=
  let store := fwBase + d.fget F.STB_STORE_BASE_BASE * 65536
  let pools := fwBase + d.fget F.BPM_DRAM_BASE_BASE * 65536
  (decide (store ≤ a) && decide (a < store + 0x40000)) ||
  (decide (pools ≤ a) && decide (a < pools + ((List.range 8).map (fun q => d.poolDram q * poolSize q)).sum))

/-- Thread address of buffer i of a pool. -/
def Dev.bufAddr (d : Dev) (p i : Nat) : Nat :=
  if i < d.poolSram p then d.sramPart p + i * poolSize p else d.dramPart p + (i - d.poolSram p) * poolSize p

/-- The buffer that starts at an address: range and alignment checks of R385. -/
def Dev.bufAt (d : Dev) (a : Nat) : Option (Nat × Nat) :=
  (List.range 8).findSome? (fun p =>
    let s := d.sramPart p
    let m := d.dramPart p
    if s ≤ a ∧ a < s + d.poolSram p * poolSize p then
      if (a - s) % poolSize p = 0 then some (p, (a - s) / poolSize p) else none
    else if m ≤ a ∧ a < m + d.poolDram p * poolSize p then
      if (a - m) % poolSize p = 0 then some (p, d.poolSram p + (a - m) / poolSize p) else none
    else none)

/-- Key of a buffer. -/
def bufKey (p i : Nat) : Nat := p * 2 ^ 20 + i

/-- A buffer. -/
def Dev.buf (d : Dev) (p i : Nat) : Buf := at0 d.bufs (bufKey p i)

/-- Buffers of a pool that are held or withdrawn. -/
def Dev.poolUsed (d : Dev) (p : Nat) : Nat :=
  (d.bufs.filter (fun e => e.1 / 2 ^ 20 == p && (e.2.held || e.2.quar))).length

/-- Free buffers of a pool. -/
def Dev.poolFree (d : Dev) (p : Nat) : Nat := d.poolSram p + d.poolDram p - d.poolUsed p

/-- The lowest free index of a pool, SRAM before DRAM (R383). -/
def Dev.lowestFree (d : Dev) (p : Nat) : Option Nat :=
  (List.range (min (d.poolSram p + d.poolDram p) (d.poolUsed p + 1))).find?
    (fun i => !(d.buf p i).held && !(d.buf p i).quar)

/-- Notes that a buffer holds a packet that has taken its second pass (R23), as does a packet injected from it. (DEDUCED, log 162.) -/
def Dev.bufSecond (d : Dev) (a : Nat) : Dev :=
  match d.bufAt a with
  | none => d
  | some (p, i) => { d with bufs := Sparse.set default d.bufs (bufKey p i) { d.buf p i with second := true } }

/-- Whether the packet in a buffer has taken its second pass. -/
def Dev.isSecond (d : Dev) (a : Nat) : Bool :=
  match d.bufAt a with
  | none => false
  | some (p, i) => (d.buf p i).second

/-- The owner ID of a requester (Table 17-7). The loader requests no buffer. -/
def ownerOf : Req → Nat
  | .host => 320
  | .peer d => 384 + d.val
  | .thread n => n.val
  | .loader => 320

/-- Index of a requester's copies of registers and of its holding copies (R10, R14). -/
def reqIdx : Req → Nat
  | .host => 0
  | .peer d => 1 + d.val
  | .thread n => 65 + n.val
  | .loader => 321

end Sys2Proof.Machine
end

