-- ==== Sys2Proof/Machine/Rates.lean ====
section
/-! DEFINITION. Rates: carriers and calendars (R85, R91 to R95), teams (R245), ramps (R239, R274), guaranteed rates
(R225), gate terms, predicted sojourn (R235) and the evaluation of R5 (R236). -/

namespace Sys2Proof.Machine

/-! Elements -/

def Dev.sl (d : Dev) (s : Nat) : SliceSt := at0 d.slices s
def Dev.updSl (d : Dev) (s : Nat) (f : SliceSt → SliceSt) : Dev := { d with slices := upd0 d.slices s f }
def Dev.pt (d : Dev) (p : Nat) : PortSt := at0 d.ports p
def Dev.updPt (d : Dev) (p : Nat) (f : PortSt → PortSt) : Dev := { d with ports := upd0 d.ports p f }
def Dev.car (d : Dev) (c : Nat) : CarSt := at0 d.cars c
def Dev.updCar (d : Dev) (c : Nat) (f : CarSt → CarSt) : Dev := { d with cars := upd0 d.cars c f }
def Dev.lq (d : Dev) (q : Nat) : LeafSt := at0 d.tm.leaves q
def Dev.updLq (d : Dev) (q : Nat) (f : LeafSt → LeafSt) : Dev := { d with tm.leaves := upd0 d.tm.leaves q f }
def Dev.mbr (d : Dev) (k : Nat) : MbrSt := at0 d.team.mbr k
def Dev.updMbr (d : Dev) (k : Nat) (f : MbrSt → MbrSt) : Dev := { d with team.mbr := upd0 d.team.mbr k f }
def Dev.dom (d : Dev) (k : Nat) : DomSt := at0 d.team.dom k
def Dev.updDom (d : Dev) (k : Nat) (f : DomSt → DomSt) : Dev := { d with team.dom := upd0 d.team.dom k f }

/-! Slice states (Table 03-1) -/

def stBoot : Nat := 0
def stTrain : Nat := 1
def stHarness : Nat := 2
def stStructure : Nat := 3
def stStartup : Nat := 4
def stService : Nat := 5
def stTest : Nat := 6
def stRecovery : Nat := 7
def stOff : Nat := 15

/-- A slice's state nibble (R66). -/
def Dev.sliceSt (d : Dev) (s : Nat) : Nat :=
  bits (d.rget (if s < 8 then R.GLB_SLICE_STATE_LO else R.GLB_SLICE_STATE_HI)).toNat (s % 8 * 4) 4

/-- Sets a slice's state nibble. -/
def Dev.setSliceSt (d : Dev) (s v : Nat) : Dev :=
  let off := if s < 8 then R.GLB_SLICE_STATE_LO else R.GLB_SLICE_STATE_HI
  d.rset off 0 (BitVec.ofNat 32 (setBits (d.rget off).toNat (s % 8 * 4) 4 v))

/-- Whether a slice forwards: STARTUP, SERVICE or TEST, or STRUCTURE for a live unit (R63, R67, R69, R70). -/
def Dev.forwards (d : Dev) (s : Nat) : Bool :=
  d.sliceSt s == stStartup || d.sliceSt s == stService || d.sliceSt s == stTest ||
  (d.sliceSt s == stStructure && Sparse.get 0 d.life.kind s == 2)

/-- Whether admission refuses a slice's ports because it recovers (R78, R234). -/
def Dev.recovering (d : Dev) (s : Nat) : Bool := !d.forwards s

/-! Carriers and calendars -/

/-- Slots of a carrier's calendar (R91). -/
def Dev.calLen (d : Dev) (c : Nat) : Nat := 20 * 2 ^ d.fget F.CAR_CFG_PHY_TYPE c * d.fget F.CAR_CFG_PHY_COUNT c

/-- Element of CAR_CAL_ENTRY: the calendars are held as copies of that register by carrier, direction, bank, slot. -/
def calKey (c : Nat) (rx : Bool) (bank slot : Nat) : Nat := c * 2048 + b2n rx * 1024 + bank * 512 + slot

/-- A calendar entry (R92). -/
def Dev.cal (d : Dev) (c : Nat) (rx : Bool) (bank slot : Nat) : Nat := d.fget F.CAR_CAL_ENTRY_ENTRY (calKey c rx bank slot)

/-- Slots that a transmit calendar gives to a client by slice index. -/
def Dev.slots (d : Dev) (c bank idx : Nat) : Nat :=
  ((List.range (d.calLen c)).filter (fun k => d.cal c false bank k == idx)).length

/-- Slots held by clients in a transmit calendar (CAR_RATE). -/
def Dev.clientSlots (d : Dev) (c bank : Nat) : Nat :=
  ((List.range (d.calLen c)).filter (fun k => decide (d.cal c false bank k < 32))).length

/-- Slots that are not UNAVAILABLE. -/
def Dev.availSlots (d : Dev) (c bank : Nat) : Nat :=
  ((List.range (d.calLen c)).filter (fun k => d.cal c false bank k != 0x3F)).length

/-- The active calendar. -/
def Dev.active (d : Dev) (c : Nat) : Nat := d.fget F.CAR_CAL_STATUS_ACTIVE c

def Dev.isClient (d : Dev) (p : Nat) : Bool := d.fget F.PRT_MODE_KIND p == 2
def Dev.isEth (d : Dev) (p : Nat) : Bool := d.fget F.PRT_MODE_KIND p == 1
def Dev.carrierOf (d : Dev) (p : Nat) : Nat := d.fget F.PRT_MODE_CARRIER p

/-- The receive calendar that the received CCC selects (R96). -/
def Dev.rxCal (d : Dev) (c slot : Nat) : Nat := d.cal c true (d.fget F.CAR_CAL_STATUS_RX_CCC c) slot

/-- Whether nothing of a client is received: the selected receive calendar gives it no slot, or slots of it are discarded because
the received client numbers disagree (R96). -/
def Dev.slotsLost (d : Dev) (p : Nat) : Bool :=
  d.isClient p && ((d.car (d.carrierOf p)).bad.contains p ||
    !(List.range (d.calLen (d.carrierOf p))).any (fun k => d.rxCal (d.carrierOf p) k == p % 32))

/-- A carrier's client ports, ascending. -/
def Dev.clients (d : Dev) (c : Nat) : List Nat :=
  (List.range 32).filterMap (fun k =>
    let p := 32 * d.fget F.CAR_CFG_SLICE c + k
    if d.isClient p && d.carrierOf p == c then some p else none)

/-! Multiframe boundaries (R95): a multiframe lasts 3,352,330.24 ns, 1,005,699,072 hundredths of a cycle. -/

/-- Hundredths of a cycle of one multiframe. -/
def mfLen : Nat := 1005699072

/-- First cycle at or after boundary `n`. -/
def Dev.mfCycle (d : Dev) (c n : Nat) : Nat := (d.car c).boot.getD 0 + (n * mfLen + 99) / 100

/-- The first boundary at or after the start of a cycle. -/
def Dev.mfFrom (d : Dev) (c cyc : Nat) : Nat := ((cyc - (d.car c).boot.getD 0) * 100 + mfLen - 1) / mfLen

/-- The first boundary that acts after a cycle: its own cycle is a later one. -/
def Dev.mfAfter (d : Dev) (c cyc : Nat) : Nat := (cyc - (d.car c).boot.getD 0) * 100 / mfLen + 1

/-- The NTU at the start of a cycle: a past one as its value and increment then were. -/
def Dev.ntuAt (d : Dev) (c : Nat) : Nat :=
  match (d.ntu.marks.filter (fun m => decide (c ≤ m.1))).getLast? with
  | some (e, (t, i)) => t - (e - c) * i
  | none => if c ≤ d.cycle then d.ntu.total - (d.cycle - c) * d.incr else d.ntu.total + (c - d.cycle) * d.incr

/-- The cycle in which an armed instant acts (R29, R292): the first whose NTU value at its start is at or after it; for one that the last
step has passed, the cycle after that step. -/
def Dev.actAt (d : Dev) (t : Nat) : Nat :=
  if d.ntu.total < t then (if d.incr = 0 then d.cycle else d.cycle + (t - d.ntu.total + d.incr - 1) / d.incr)
  else
    let c := d.cycle - (if d.incr = 0 then 0 else (d.ntu.total - t) / d.incr)
    match d.ntu.marks.head? with
    | some (e, (was, _)) => if c ≤ e then (if was < t then e + 1 else e) else c
    | none => c

/-- NTU time of boundary `n`, as if the NTU ran continuously between cycles, in 2^-40 ns. -/
def Dev.mfNtu (d : Dev) (c n : Nat) : Nat :=
  let at100 := (d.car c).boot.getD 0 * 100 + n * mfLen
  let now100 := d.cycle * 100
  if now100 ≤ at100 then d.ntu.total + (at100 - now100) * d.incr / 100
  else d.ntu.total - (now100 - at100) * d.incr / 100

/-- First cycle at or after an NTU instant in 2^-40 ns (R29). -/
def Dev.cycleOf (d : Dev) (t : Nat) : Nat :=
  if d.incr = 0 then d.cycle
  else if t ≤ d.ntu.total then d.cycle - (d.ntu.total - t) / d.incr
  else d.cycle + (t - d.ntu.total + d.incr - 1) / d.incr

/-- The cycle from which multiframe boundaries qualify for a switch at an instant: those at or after it (R94). -/
def Dev.swDue (d : Dev) (c t : Nat) : Nat :=
  let at_ := d.cycleOf t
  let n := d.mfAfter c (at_ - 1)
  if d.mfCycle c n = at_ ∧ d.mfNtu c n < t then at_ + 1 else at_

/-- The cycle of an instant not reached yet, converted anew; one that a step has passed is the next cycle (R292). -/
def Dev.dueAgain (d : Dev) (conv : Nat → Nat) (due : Nat) (inst : Option Nat) : Nat :=
  match inst with
  | some t => if due ≤ d.cycle then due else max (d.cycle + 1) (conv t)
  | none => due

/-- Converts the instants of armed calendar switches and rule-set swaps anew after a change of the NTU (R292). -/
def Dev.followNtu (d : Dev) : Dev :=
  { d with
    cars := d.cars.map (fun (e : Nat × CarSt) =>
      (e.1, { e.2 with sw := e.2.sw.map (fun w => { w with due := d.dueAgain (d.swDue e.1) w.due w.inst }) }))
    slices := d.slices.map (fun (e : Nat × SliceSt) =>
      (e.1, { e.2 with swapAt := e.2.swapAt.map (fun c => d.dueAgain d.cycleOf c e.2.swapT) })) }

/-! Teams (R244, R245) -/

def Dev.teamOn (d : Dev) (t : Nat) : Bool := d.fon F.TEM_TEAM_CFG_ENABLE t
def Dev.teamCount (d : Dev) (t : Nat) : Nat := d.fget F.TEM_TEAM_CFG_COUNT t
def mbrKey (t m : Nat) : Nat := t * 16 + m
def Dev.teamPort (d : Dev) (t : Nat) : Nat := d.fget F.TEM_TEAM_CFG_TEAM_PORT t
def Dev.mbrPort (d : Dev) (k : Nat) : Nat := d.fget F.TEM_MBR_CFG_PORT k
def Dev.mbrTx (d : Dev) (k : Nat) : Nat := d.fget F.TEM_MBR_STATUS_TX_STATE k

/-- The formed teams. -/
def Dev.teams (d : Dev) : List Nat := (List.range 32).filter (fun t => d.teamOn t)

/-- A team's members. -/
def Dev.members (d : Dev) (t : Nat) : List Nat := (List.range (d.teamCount t)).map (mbrKey t)

/-- The team whose team port a port is. -/
def Dev.teamOf (d : Dev) (p : Nat) : Option Nat := d.teams.find? (fun t => d.teamPort t == p)

/-- The team member that a port is. -/
def Dev.memberOf (d : Dev) (p : Nat) : Option Nat :=
  d.teams.findSome? (fun t => (d.members t).find? (fun k => d.mbrPort k == p))

/-! Payload rates (R85) -/

/-- PAYLOAD_RATE units of an Ethernet speed code (Table 04-2, Table 04-5). -/
def speedUnits (code : Nat) : Nat := [2, 5, 8, 10, 20, 40, 80, 160, 320].getD code 0

def Dev.link (d : Dev) (p : Nat) : Bool := d.fon F.PRT_STATUS_LINK p

/-- A port's payload rate in units of 5 Gb/s as its shown register holds it. -/
def Dev.units (d : Dev) (p : Nat) : Nat := d.fget F.PRT_STATUS_PAYLOAD_RATE p

/-- The payload rate a port's state gives (R85, R245). -/
def Dev.unitsNow (d : Dev) (p : Nat) : Nat :=
  match d.teamOf p with
  | some t => (((d.members t).filter (fun k => d.mbrTx k == 1)).map (fun k => d.units (d.mbrPort k))).sum
  | none =>
    if !d.link p then 0
    else if d.isEth p then speedUnits (d.fget F.PRT_MODE_SPEED p)
    else if d.isClient p then d.slots (d.carrierOf p) (d.active (d.carrierOf p)) (p % 32)
    else 0

def Dev.maxFrame (d : Dev) (p : Nat) : Nat := d.fget F.PRT_MAC_CFG_MAX_FRAME p

/-- The cycle in which the first byte of a frame of n bytes came whose last byte comes now, at the port's rate. -/
def Dev.firstByte (d : Dev) (p n : Nat) : Nat := d.cycle - (24 * n + 5 * d.units p - 1) / (5 * d.units p)

/-- How many cycles changes are kept that a frame still being received may lie across: longer than any frame lasts. -/
def keepCycles : Nat := 2 ^ 17

/-- MAX_FRAME as it stood at a cycle (R86). -/
def Dev.maxFrameAt (d : Dev) (p c : Nat) : Nat :=
  ((((d.pt p).maxWas.filter (fun e => decide (c < e.1))).getLast?).map (fun e => e.2)).getD (d.maxFrame p)

/-- Keeps what MAX_FRAME was before a change. -/
def Dev.maxChanges (d : Dev) (p new : Nat) : Dev :=
  if new = d.maxFrame p then d
  else d.updPt p (fun (x : PortSt) => { x with
    maxWas := (d.cycle, d.maxFrame p) :: x.maxWas.filter (fun e => decide (d.cycle < e.1 + keepCycles)) })

/-- X_p of R224. -/
def Dev.xp (d : Dev) (p : Nat) : Nat := if (d.teamOf p).isSome then 20 else 4

/-- W of R224 for a packet of L bytes. -/
def Dev.charge (d : Dev) (p l : Nat) : Nat := max l 114 + 20 + d.xp p

/-- W_max,p (R224). -/
def Dev.wMax (d : Dev) (p : Nat) : Nat := d.maxFrame p + 20 + (if (d.teamOf p).isSome then 16 else 0)

/-- Byte-deficit counters count 24ths of a byte: a rate of r units gives 5 r of them a cycle (R20, R208, R253). -/
def dcCap (bytes : Nat) : Nat := 24 * bytes

/-! Guaranteed rates (R225) in Mb/s × 65,536 -/

def Dev.rp (d : Dev) (p : Nat) : Nat := d.units p * 5000
def Dev.qBase (d : Dev) (p : Nat) : Nat := d.fget F.TMG_PORT_QCFG_QBASE p
def Dev.groups (d : Dev) (p : Nat) : Nat := d.fget F.TMG_PORT_QCFG_GROUPS p + 1

/-- The leaf queue of a port, class and group (R222, R128). -/
def Dev.leafOf (d : Dev) (p c g : Nat) : Nat := d.qBase p + c * d.groups p + (if g < d.groups p then g else 0)

/-- A port's leaf queues. -/
def Dev.leaves (d : Dev) (p : Nat) : List Nat := (List.range (8 * d.groups p)).map (fun k => d.qBase p + k)

/-- The class of a port's leaf. -/
def Dev.classOf (d : Dev) (p q : Nat) : Nat := (q - d.qBase p) / d.groups p

def Dev.qOn (d : Dev) (q : Nat) : Bool := d.fon F.TMG_Q_CFG_ENABLE q
def Dev.qBound (d : Dev) (q : Nat) : Nat := d.fget F.TMG_Q_BOUND_NS q

/-- The rate that GUAR_MODE FRAC or ABS and a value of TMG_Q_GUAR give at a payload rate. -/
def guarRate (frac : Bool) (v r : Nat) : Nat := if frac then v % 65536 * r else v * 65536

/-- g_q at a payload rate. -/
def Dev.gAt (d : Dev) (q r : Nat) : Nat := guarRate (d.fon F.TMG_Q_CFG_GUAR_MODE q) (d.fget F.TMG_Q_GUAR_RATE q) r

/-- Cycle of a change's T_plan. -/
def Dev.rcPlan (d : Dev) (c : Nat) (rc : RcSt) : Nat := d.mfCycle c rc.mf

/-- The armed changes by carrier. -/
def Dev.changes (d : Dev) : List (Nat × RcSt) :=
  (List.range 64).filterMap (fun c => (d.car c).rc.map (fun r => (c, r)))

/-- max(RATE_LEAD, D_q) in cycles (R239, R275). -/
def Dev.rampLead (d : Dev) (c q : Nat) : Nat := cyclesOfNs (max (d.fget F.CAR_RC_LEAD_US c * 1000) (d.qBound q))

/-- Whether a leaf is in the ramp of a change (R275). -/
def Dev.ramping (d : Dev) (c : Nat) (rc : RcSt) (q : Nat) : Bool :=
  decide (d.rcPlan c rc ≤ d.cycle + d.rampLead c q)

/-- R_p^adm as leaf q sees it (R239, R274). (DEDUCED, log 80.) -/
def Dev.rAdm (d : Dev) (p q : Nat) : Nat :=
  let ch := d.changes.filter (fun x => d.ramping x.1 x.2 q)
  match d.teamOf p with
  | some t =>
    (((d.members t).filter (fun k => d.mbrTx k == 1)).map (fun k =>
      match ch.find? (fun x => x.2.mem == some k) with
      | some x => match x.2.ports.find? (fun y => y.1 == p) with
        | some y => min y.2.1 y.2.2
        | none => d.rp (d.mbrPort k)
      | none => d.rp (d.mbrPort k))).sum
  | none =>
    match ch.findSome? (fun x => x.2.ports.find? (fun y => y.1 == p)) with
    | some y => min (d.rp p) (min y.2.1 y.2.2)
    | none => d.rp p

/-- g_q^adm (R225, R239, R247). -/
def Dev.gAdm (d : Dev) (p q : Nat) : Nat :=
  if (d.memberOf p).isSome then 0 else min (d.gAt q (d.rp p)) (d.gAt q (d.rAdm p q))

/-- The rates that a leaf's waiting lowerings keep at a payload rate (R238). -/
def Dev.lowRates (d : Dev) (q r : Nat) : List Nat := (d.lq q).low.map (fun x => guarRate x.1.1 x.1.2 r)

/-- g_sch (R227, R238). -/
def Dev.gSch (d : Dev) (p q : Nat) : Nat := (d.lowRates q (d.rp p)).foldl max (d.gAt q (d.rp p))

/-! Shapers (R228): one byte is 24,000 × 65,536 units; a rate in Mb/s × 65,536 is units a cycle. -/

def shapeByte : Nat := 24000 * 65536

/-- A leaf shaper's effective rate and cap; none while unshaped. (DEDUCED, log 127.) -/
def Dev.leafShape (d : Dev) (p q : Nat) : Option (Nat × Nat) :=
  let r := d.fget F.TMG_Q_SHAPE_RATE_MBPS q
  if r = 0 then none
  else some (max (r * 65536) (d.gAt q (d.rp p)), max (d.fget F.TMG_Q_SHAPE_BURST_BYTES q) (d.wMax p) * shapeByte)

/-- A class shaper's effective rate and cap; none while unshaped. -/
def Dev.clsShape (d : Dev) (p c : Nat) : Option (Nat × Nat) :=
  let r := d.fget F.TMG_CLS_SHAPE_RATE_MBPS (p * 8 + c)
  if r = 0 then none
  else
    let g := ((d.leaves p).filter (fun q => d.classOf p q == c)).map (fun q => d.gAt q (d.rp p))
    some (max (r * 65536) g.sum, max (d.fget F.TMG_CLS_SHAPE_BURST_BYTES (p * 8 + c)) (d.wMax p) * shapeByte)

/-- Brings the shapers of a port up to the present; an unshaped one is full. -/
def Dev.settleShapers (d : Dev) (p : Nat) : Dev :=
  let d := forAll ((d.leaves p).filter (fun q => decide ((d.lq q).shaper ≠ {}))) (fun d q => d.updLq q (fun l =>
    { l with shaper := match d.leafShape p q with | some (r, c) => l.shaper.settle c r d.cycle | none => {} })) d
  if (d.pt p).cls.isEmpty then d
  else forAll (List.range 8) (fun d c => d.updPt p (fun x => { x with cls := upd0 x.cls c (fun a =>
    match d.clsShape p c with | some (r, k) => a.settle k r d.cycle | none => {}) })) d

/-- A team's delivery slices (R30): the configured list, or the slices that carry its members, in ascending order. -/
def Dev.delivList (d : Dev) (t : Nat) : List Nat :=
  let n := d.fget F.TEM_DELIV_LEN_LEN t
  if n = 0 then (List.range 16).filter (fun s => (d.members t).any (fun k => d.mbrPort k / 32 == s))
  else (List.range n).map (fun e => bits (d.rget (if e < 8 then R.TEM_DELIV_LO else R.TEM_DELIV_HI) t).toNat (e % 8 * 4) 4)

/-- The delivery slice of a domain (R30): the configured list, or the members' slices in ascending order. -/
def Dev.deliv (d : Dev) (t dm : Nat) : Nat := (d.delivList t).getD (dm % (d.delivList t).length) 0

/-- Order domains of a team that a slice's pipeline takes, of 4,096 (R30). -/
def Dev.domsOf (d : Dev) (t s : Nat) : Nat :=
  let l := (d.delivList t).length
  (((List.range l).filter (fun e => d.deliv t e == s)).map (fun e => (4096 + l - 1 - e) / l)).sum

/-- Parts in which the resequencer source counts its share of a team's rate: the order domains of a team. -/
def relParts : Nat := 4096

/-- Payload rate of the team traffic assigned to a slice, in 4,096ths of 5 Gb/s: each team's rate by the order domains that the
slice takes (R20, R30). (DEDUCED, log 113.) -/
def Dev.relUnits (d : Dev) (s : Nat) : Nat := (d.teams.map (fun t => d.units (d.teamPort t) * d.domsOf t s)).sum

/-- Cap of the resequencer source of a slice: the largest charge of the teams assigned to it (R20). -/
def Dev.relCap (d : Dev) (s : Nat) : Nat :=
  relParts * dcCap ((((d.teams.filter (fun t => d.domsOf t s != 0)).map (fun t => d.maxFrame (d.teamPort t))).foldl max 0) + 20)

/-- Brings the resequencer sources' deficit counters up to the present. -/
def Dev.settleRel (d : Dev) : Dev :=
  forAll (List.range 16) (fun d s => d.updSl s (fun x =>
    { x with dc := upd0 x.dc 32 (fun a => a.settle (d.relCap s) (5 * d.relUnits s) d.cycle) })) d

/-- Brings the deficit counters of a port's rate and its shapers up to the present (R20, R208, R228). -/
def Dev.settleDc (d : Dev) (p : Nat) : Dev :=
  let r := 5 * d.units p
  let d := if (d.teamOf p).isSome then d.settleRel else d
  let d := d.updSl (p / 32) (fun s =>
    { s with dc := upd0 s.dc (p % 32) (fun a => a.settle (dcCap (d.maxFrame p + 20)) r d.cycle) })
  (d.updPt p (fun x => { x with dc := x.dc.settle (dcCap (d.wMax p)) r d.cycle })).settleShapers p

/-- Ends the wait of each lowering whose earlier packets have left (R238). -/
def Dev.settleLow (d : Dev) (q : Nat) : Dev :=
  if (d.lq q).low.isEmpty then d
  else d.updLq q (fun l =>
    { l with low := l.low.filter (fun y => l.pkts.any (fun x => decide (x.id < y.2))) })

/-! Gate lists (R231): entries lie in the register file at the offsets of Table 10-6. -/

/-- Offset of entry `n` of list `k` of a port. -/
def gateOff (p k n : Nat) : Nat := 0x3800000 + ((p * 2 + k) * 1024 + n) * 4

/-- Length and cycle of list `k`. -/
def Dev.gateLen (d : Dev) (p k : Nat) : Nat :=
  if k = 0 then d.fget F.TMG_GATE_OPER_LEN_LEN p else d.fget F.TMG_GATE_ADMIN_LEN_LEN p
def Dev.gateCycle (d : Dev) (p k : Nat) : Nat :=
  if k = 0 then d.fget F.TMG_GATE_OPER_CYCLE_NS p else d.fget F.TMG_GATE_ADMIN_CYCLE_NS p

/-- Whether list `k` counts: an operating list that runs, an administrative list that is pending. -/
def Dev.gateOn (d : Dev) (p k : Nat) : Bool :=
  if k = 0 then d.fon F.TMG_GATE_STATUS_OPER_VALID p else d.fon F.TMG_GATE_STATUS_PENDING p

/-- The entries of a list as (states, start, end) within its cycle, the last one held to the end (R231). -/
def Dev.gateSpans (d : Dev) (p k : Nat) : List (Nat × Nat × Nat) :=
  let cyc := d.gateCycle p k
  let n := d.gateLen p k
  let r := (List.range n).foldl (fun (a : Nat × List (Nat × Nat × Nat)) i =>
    let w := (d.rget (gateOff p k i)).toNat
    let e := if i + 1 = n then cyc else min cyc (a.1 + w / 256)
    (e, if a.1 < e then a.2 ++ [(w % 256, a.1, e)] else a.2)) (0, [])
  r.2

/-- Whether a list closes a class in any entry (R233). -/
def Dev.closes (d : Dev) (p k c : Nat) : Bool :=
  d.gateOn p k && (List.range (d.gateLen p k)).any (fun i => !bit (d.rget (gateOff p k i)).toNat c)

/-- Whether a class is gated (R233). -/
def Dev.gated (d : Dev) (p c : Nat) : Bool := d.closes p 0 c || d.closes p 1 c

/-- Maximal open stretches of a class within one cycle. -/
def openRuns (c : Nat) (l : List (Nat × Nat × Nat)) : List (Nat × Nat) :=
  l.foldl (fun a x =>
    if !bit x.1 c then a
    else match a.getLast? with
      | some (b, e) => if e = x.2.1 then a.dropLast ++ [(b, x.2.2)] else a ++ [x.2]
      | none => [x.2]) []

/-- 2^-16 ns units of whole ns. -/
def u16 (ns : Nat) : Nat := ns * 65536

/-- t_M,p (Table 10-2) in 2^-16 ns. -/
def Dev.tM (d : Dev) (p r : Nat) : Nat := upDiv (d.wMax p * 8000 * 65536) r

/-- λ_q in 2^-16 ns at a rate in Mb/s × 65,536. -/
def Dev.lag (d : Dev) (p g : Nat) : Nat := upDiv (d.wMax p * 8000 * 65536 * 65536) g

/-- U_q and Z_q of a list in 2^-16 ns (Table 10-2). -/
def Dev.gateTerms (d : Dev) (p k c tm lag : Nat) : Nat × Nat :=
  let cyc := u16 (d.gateCycle p k)
  let us := (openRuns c (d.gateSpans p k)).filterMap (fun w =>
    if u16 w.1 + tm + lag + tm < u16 w.2 then some (u16 w.1 + tm + lag, u16 w.2 - tm) else none)
  let u := (us.map (fun w => w.2 - w.1)).sum
  match us.head?, us.getLast? with
  | some a, some z =>
    let inner := (us.zip (us.drop 1)).map (fun x => x.2.1 - x.1.2)
    (u, inner.foldl max (cyc - z.2 + a.1))
  | _, _ => (0, cyc)

/-! Prediction (R235) -/

/-- Whether a leaf's packets are cut-through (R211), copies apart. -/
def Dev.ctLeaf (d : Dev) (p q : Nat) : Bool :=
  d.fon F.XPF_CFG_CT_EN (p / 32) && !d.fon F.TMG_Q_CFG_DRAM q && !d.gated p (d.classOf p q)

/-- T_FAB(q) in 2^-16 ns, rounded up. -/
def Dev.tFab (d : Dev) (p q : Nat) : Nat :=
  if d.ctLeaf p q then upDiv (35632 * 65536) 100
  else upDiv ((142272 + d.maxFrame p) * 65536) 400 + (if d.fon F.TMG_Q_CFG_DRAM q then u16 1200 else 0)

/-- wait(q, B) under one list's terms; none where it is infinite. -/
def Dev.waitOf (d : Dev) (p q k b : Nat) : Option Nat :=
  let g := d.gAdm p q
  let tm := d.tM p (d.rAdm p q)
  let lag := d.lag p g
  let x := upDiv (b * 8000 * 65536 * 65536) g
  if d.closes p k (d.classOf p q) then
    let t := d.gateTerms p k (d.classOf p q) tm lag
    if t.1 = 0 then none else some (t.2 + upDiv x t.1 * u16 (d.gateCycle p k))
  else some (x + lag + tm)

/-- predict(q, B) in 2^-16 ns, the larger of both lists while one is pending; none where it is infinite. -/
def Dev.predict (d : Dev) (p q b : Nat) : Option Nat :=
  let w0 := d.waitOf p q 0 b
  let w := if d.gateOn p 1 then (match w0, d.waitOf p q 1 b with
    | some a, some c => some (max a c)
    | _, _ => none) else w0
  w.map (fun x => x + d.tFab p q + u16 (d.fget F.TMG_PORT_HOLD_ALLOW_NS p))

/-- TMG_Q_FLOOR: whole ns rounded up; all ones where it is infinite or the rate is 0 (R236). (DEDUCED, log 85.) -/
def Dev.floorNs (d : Dev) (p q : Nat) : Nat :=
  if d.gAdm p q = 0 then 0x7FFFFFF
  else match d.predict p q 0 with
    | some x => min 0x7FFFFFF (upDiv x 65536)
    | none => 0x7FFFFFF

/-! R5 (R236) -/

/-- Whether a port counts as up for R5 and admission. -/
def Dev.portUp (d : Dev) (p : Nat) : Bool := d.link p

/-- The rate of a leaf that R236 and TMG_PORT_GSUM count (R238). -/
def Dev.gSum (d : Dev) (p q : Nat) : Nat := (d.lowRates q (d.rp p)).foldl max (d.gAdm p q)

/-- R_p^adm of a port: the least any leaf sees. -/
def Dev.rAdmPort (d : Dev) (p : Nat) : Nat := ((d.leaves p).map (fun q => d.rAdm p q)).foldl min (d.rp p)

/-- Sets GUAR_VOID and its mirror, with the events of R236. -/
def Dev.setVoid (d : Dev) (p : Nat) (v : Bool) : Dev :=
  let old := d.fon F.TMG_CFG_STATUS_GUAR_VOID p
  let d := d.fset F.TMG_CFG_STATUS_GUAR_VOID p (b2n v)
  let d := d.fset ⟨R.TMG_VOID_MAP + 4 * (p / 32), p % 32, 1⟩ 0 (b2n v)
  if v && !old then (d.fset F.TMG_CFG_STATUS_VOID_SEEN p 1).error F.TMG_CFG_STATUS_GUAR_VOID p
  else if !v && old then d.notice F.TMG_CFG_STATUS_GUAR_VOID p
  else d

/-- Shows R_p^adm, and whether a leaf of the port is in a ramp, whether the port is up or down (R239, R276). -/
def Dev.showRamp (d : Dev) (p : Nat) : Dev :=
  let ramp := ((d.leaves p).filter (fun q => d.qOn q)).any (fun q => d.changes.any (fun x =>
    x.2.ports.any (fun y => y.1 == p) && d.ramping x.1 x.2 q))
  (d.fset F.TMG_CFG_STATUS_RAMP p (b2n ramp)).fset F.TMG_PORT_RATE_MBPS p (d.rAdmPort p)

/-- Evaluates R5 for an up port; a down port keeps its values (R236). -/
def Dev.evalPort (d : Dev) (p : Nat) : Dev :=
  let d := d.showRamp p
  if !d.portUp p then d
  else
    let on := (d.leaves p).filter (fun q => d.qOn q)
    let sum := (on.map (fun q => d.gSum p q)).sum
    let r := d.rAdmPort p
    let above := decide (r * 65536 < sum)
    let under := on.any (fun q => d.gAdm p q != 0 && decide (d.qBound q < d.floorNs p q))
    let d := d.fset F.TMG_CFG_STATUS_SUM_OVER p (b2n above)
    let d := d.fset F.TMG_CFG_STATUS_FLOOR_UNDER p (b2n under)
    let d := d.fset F.TMG_PORT_GSUM_MBPS p (sum / 65536)
    d.setVoid p (above || under || d.fon F.TMG_CFG_STATUS_FALL_VOID p)

/-! Held time (R99, R100, R256) -/

/-- The hold of a carrier (key 512 + c) or of an Ethernet port. -/
def Dev.heldSt (d : Dev) (k : Nat) : Held := if k < 512 then (d.pt k).hold else (d.car (k - 512)).hold

/-- The hold that a port is under: its carrier's for a client. -/
def Dev.holdKeyOf (d : Dev) (p : Nat) : Nat := if d.isClient p then 512 + d.carrierOf p else p

/-- Whether a carrier or Ethernet port is held. -/
def Dev.heldKey (d : Dev) (k : Nat) : Bool := (d.heldSt k).since.isSome

/-- Adds n to a saturating 32-bit counter. -/
def Dev.satAdd (d : Dev) (f : Fld) (inst n : Nat) : Dev := d.fset f inst (min (2 ^ f.w - 1) (d.fget f inst + n))

def Dev.setHeld (d : Dev) (k : Nat) (h : Held) : Dev :=
  if k < 512 then d.updPt k (fun x => { x with hold := h }) else d.updCar (k - 512) (fun x => { x with hold := h })

/-- Adds held time in 2^-16 ns to a team's port (R256). -/
def Dev.teamAdd (d : Dev) (t y : Nat) : Dev :=
  let x := Sparse.get 0 d.team.hold t + y
  ({ d with
    team.hold := Sparse.set 0 d.team.hold t (x % 65536)
    team.holdSum := Sparse.upd 0 d.team.holdSum t (fun o => o + y) }).satAdd F.PRT_HOLD_NS_NS (d.teamPort t) (x / 65536)

/-- Adds held time of a member, weighted by its share now, to its team port (R256). -/
def Dev.teamHeld (d : Dev) (p ns : Nat) : Dev :=
  match d.memberOf p with
  | some k =>
    let r := d.units (d.teamPort (k / 16))
    if r = 0 then d else d.teamAdd (k / 16) (ns * 65536 * d.units p / r)
  | none => d

/-- Brings the held-time counters of a carrier or port up to the present (R99). -/
def Dev.settleHold (d : Dev) (k : Nat) : Dev :=
  let h := d.heldSt k
  if h.since.isNone then d
  else
    let ns := (d.cycle - h.mark) / 3
    let d := d.setHeld k { h with mark := h.mark + 3 * ns }
    if k < 512 then d.satAdd F.PRT_HOLD_NS_NS k ns
    else
      let d := d.satAdd F.CAR_HOLD_NS_NS (k - 512) ns
      forAll (d.clients (k - 512)) (fun d p => (d.satAdd F.PRT_HOLD_NS_NS p ns).teamHeld p ns) d

/-- Brings the held time that a port's rate weights up to the present: a member's own, for a team port all its members' (R256, R279). -/
def Dev.settleHolds (d : Dev) (p : Nat) : Dev :=
  match d.teamOf p with
  | some t => forAll (d.members t) (fun d k => d.settleHold (d.holdKeyOf (d.mbrPort k))) d
  | none => d.settleHold (d.holdKeyOf p)

/-- The largest DELAY_BOUND of a port's leaves, in cycles (R240). (DEDUCED, log 122.) -/
def Dev.maxBound (d : Dev) (p : Nat) : Nat := cyclesOfNs (((d.leaves p).map (fun q => d.qBound q)).foldl max 0)

/-- Brings a port's payload rate to what its state gives; `ramped` tells that every leaf of a falling port was ramped in
time (R240): else FALL_VOID is set, and GUAR_VOID with it also where the rate falls to 0 (R257). R5 is evaluated on the new rates. -/
def Dev.applyRate (d : Dev) (p : Nat) (ramped : Bool) : Dev :=
  let new := d.unitsNow p
  let old := d.units p
  let d := if new = old then d else ((d.settleHolds p).settleDc p).fset F.PRT_STATUS_PAYLOAD_RATE p new
  let d := match d.teamOf p with
    | some t => d.fset F.TEM_TEAM_RATE_MBPS t (new * 5000)
    | none => d
  let d := if new < old ∧ !ramped then
      ((d.fset F.TMG_CFG_STATUS_FALL_VOID p 1).updPt p (fun x => { x with fall := some (d.cycle + d.maxBound p) })).setVoid p true
    else d
  d.evalPort p

/-- Refreshes a member's rate: r_m and its deficit counter follow (R253). -/
def Dev.mbrRate (d : Dev) (k : Nat) : Dev :=
  let r := d.rp (d.mbrPort k)
  if d.fget F.TEM_MBR_RATE_MBPS k = r then d
  else (d.fset F.TEM_MBR_RATE_MBPS k r).updMbr k (fun m => { m with dc := Acct.zero d.cycle })

/-- A leaf's head loses its scheduling tags: it is not selectable now (R227). -/
def Dev.clearHead (d : Dev) (q : Nat) : Dev :=
  if (d.lq q).head.isNone then d else d.updLq q (fun l => { l with head := none })

/-- Every leaf of a port is not selectable now. -/
def Dev.clearHeads (d : Dev) (p : Nat) : Dev := forAll (d.leaves p) (fun d q => d.clearHead q) d

end Sys2Proof.Machine
end

