-- ==== Sys2Proof/Machine/Pmu.lean ====
section
/-! DEFINITION. The performance monitor (ch 18): counters, slot placement, samplers. -/

namespace Sys2Proof.Machine

/-- Keys of the 64-bit counters: pipeline counter n of a slice, core counter n, slot count j of a thread (0 SLOTS,
1 RETIRED, 2 WASTED, 3 FRONT, 4 BACK, 5 INACTIVE). -/
def pmuPl (slice n : Nat) : Nat := slice * 64 + n
def pmuCore (core n : Nat) : Nat := 2 ^ 12 + core * 8 + n
def pmuThr (t j : Nat) : Nat := 2 ^ 16 + t * 8 + j

/-- A counter's value. -/
def Dev.pmuGet (d : Dev) (k : Nat) : Nat := Sparse.get 0 d.pmu.cnt k

/-- Adds to a counter: 64 bits, wrapping; nothing while FREEZE is 1 (R394). -/
def Dev.pmuAdd (d : Dev) (k n : Nat) : Dev :=
  if d.fon F.PMU_CTRL_FREEZE then d
  else { d with pmu.cnt := Sparse.set 0 d.pmu.cnt k ((d.pmuGet k + n) % 2 ^ 64) }

/-- Notes a pipeline start, of which the idle events of Table 18-3 are the complement. -/
def Dev.plStart (d : Dev) (slice ev n : Nat) : Dev :=
  if ev = 0x02 then { d with pmu.starts := upd0 d.pmu.starts (slice * 2) (fun k => k + n) }
  else if ev = 0x0E then { d with pmu.starts := upd0 d.pmu.starts (slice * 2 + 1) (fun k => k + n) }
  else d

/-- `n` occurrences of a pipeline event of Table 18-3 in a slice (R396). -/
def Dev.pl (d : Dev) (slice ev : Nat) (n : Nat := 1) : Dev :=
  let d := d.plStart slice ev n
  forAll (List.range 64) (fun d i =>
    if d.fget F.PMU_PL_CFG_EVENT (slice * 64 + i) == ev && d.fon F.PMU_PL_CFG_EN (slice * 64 + i) then
      d.pmuAdd (pmuPl slice i) n
    else d) d

/-- Brings CYCLES, ING_IDLE and EGR_IDLE of every slice up to the present: a pipeline's slots that started nothing had no
source ready (Table 18-3). -/
def Dev.plSettle (d : Dev) : Dev :=
  let n := d.cycle - d.pmu.upTo
  let d := forAll (List.range 16) (fun d s =>
    let d := d.pl s 0x01 n
    let d := d.pl s 0x03 (n - at0 d.pmu.starts (s * 2))
    d.pl s 0x0F (n - at0 d.pmu.starts (s * 2 + 1))) d
  { d with pmu := { d.pmu with upTo := d.cycle, starts := [] } }

/-- A Drover thread. -/
def Dev.thr (d : Dev) (t : Nat) : Thread := at0 d.drv.threads t

/-- Changes a Drover thread. -/
def Dev.updThr (d : Dev) (t : Nat) (f : Thread → Thread) : Dev :=
  { d with drv.threads := upd0 d.drv.threads t f }

/-- A sample record (Table 18-4). -/
def sampleRecord (pc t ev cat fault latency cycle : Nat) : List Byte :=
  toLe 4 pc ++ toLe 1 t ++ toLe 1 ev ++ toLe 1 cat ++ toLe 1 fault ++ toLe 4 (min latency (2 ^ 32 - 1)) ++
  toLe 4 cycle

/-- A cluster's sampler takes `n` occurrences, the i-th with the record `recd i`: each that brings the countdown to zero is recorded and the
countdown reloads N (R397). -/
def Sampler.occur (s : Sampler) (period n : Nat) (recd : Nat → List Byte) : Sampler :=
  let left := s.left.getD period
  if n < left ∨ period = 0 then { s with left := some (left - n) }
  else
    let past := n - left
    { s with
      left := some (period - past % period)
      due := s.due ++ (List.range (1 + past / period)).map (fun i => recd (left - 1 + i * period)) }

/-- `n` occurrences of a thread event of Table 18-2: core counters and the cluster's sampler (R395, R397). -/
def Dev.thrEvent (d : Dev) (t ev n : Nat) (recd : Nat → List Byte) : Dev :=
  if n = 0 ∨ d.fon F.PMU_CTRL_FREEZE then d
  else
    let core := t / 8
    let d := forAll (List.range 8) (fun d i =>
      let k := core * 8 + i
      if d.fget F.PMU_CCNT_CFG_EVENT k == ev && d.fon F.PMU_CCNT_CFG_EN k && bit (d.fget F.PMU_CCNT_CFG_TMASK k) (t % 8)
      then d.pmuAdd (pmuCore core i) n else d) d
    let cl := t / 32
    if d.fon F.PMU_SMP_CFG_EN cl && d.fget F.PMU_SMP_CFG_EVENT cl == ev && bit (d.fget F.PMU_SMP_TMASK_MASK cl) (t % 32)
    then { d with pmu.smp := upd0 d.pmu.smp cl (fun s =>
             s.occur (d.fget F.PMU_SMP_N_N cl) n recd) }
    else d

/-- Issue slots of thread t in the cycles from `a` up to `b` (R337). -/
def slotsBetween (t a b : Nat) : Nat := (b + 7 - t % 8) / 8 - (a + 7 - t % 8) / 8

/-- The category (column of pmuThr) and slot event of a thread that passes slots: INACTIVE while OFF, HALTED or
DFAULT, BACK or FRONT by what it waits for (Table 18-1). A running thread's slots are placed by its
instructions. -/
def Dev.slotClass (d : Dev) (t : Nat) : Option (Nat × Nat) :=
  let st := d.fget F.THREAD_STATUS_STATE t
  if st == 0 || st == 4 || st == 5 then some (5, 0)
  else
    match (d.thr t).hold with
    | .none => none
    | .load .. => some (4, 0x07)
    | .regLoad .. => some (4, 0x09)
    | .regStore .. => some (4, 0x09)
    | .fence => some (4, 0x0A)
    | .commit .. => some (4, 0x0A)
    | .done .. => some (4, 0x0A)
    | .wait .. => some (3, 0x06)
    | .task .. => some (3, 0x05)
    | .fill _ => some (3, 0x04)

/-- The first issue slot of thread t in or after a cycle (R337). -/
def nextSlot (t c : Nat) : Nat := c + (t % 8 + 8 - c % 8) % 8

/-- Places the slots of thread t in the cycles from `a` up to `b` in a category (column `j` of pmuThr), with their slot event (R391, R392).
(DESIGN CHOICE, log 166.) -/
def Dev.passSlots (d : Dev) (t j ev a b : Nat) : Dev :=
  let n := slotsBetween t a b
  let at' (i : Nat) : Nat := nextSlot t a + 8 * i
  let pc := (d.thr t).pc
  let issued := (d.thr t).issuedAt
  let d := (d.pmuAdd (pmuThr t 0) n).pmuAdd (pmuThr t j) n
  let d := d.thrEvent t 0x01 n (fun i => sampleRecord pc t 0x01 (j - 1) 0 8 (at' i % 2 ^ 32))
  if ev = 0 then d else d.thrEvent t ev n (fun i => sampleRecord pc t ev (j - 1) 0 (at' i - issued) (at' i % 2 ^ 32))

/-- Counts the slots a thread has passed since the last placement (R391, R392). Until a DRAM load has its 64 bytes of the cluster's account,
it waits for the account (R343, R393). -/
def Dev.passed (d : Dev) (t : Nat) : Dev :=
  let a := max (d.thr t).slotsAt d.pmu.zero
  match d.slotClass t with
  | none => d
  | some (j, ev) =>
    if ev = 0x07 then
      let m := max a (min (d.thr t).dramAt d.cycle)
      (d.passSlots t 4 0x08 a m).passSlots t 4 0x07 m d.cycle
    else d.passSlots t j ev a d.cycle

/-- Places the slots a thread has passed. -/
def Dev.settle (d : Dev) (t : Nat) : Dev := (d.passed t).updThr t (fun x => { x with slotsAt := max x.slotsAt d.cycle })

/-- Changes what the monitor notes of a thread. -/
def Dev.updSlot (d : Dev) (t : Nat) (f : SlotSt → SlotSt) : Dev := { d with pmu.slots := upd0 d.pmu.slots t f }

/-- An instruction of a thread takes the slot of the present cycle: the slot counts at once, and waits for its category (R392, R394). -/
def Dev.countSlot (d : Dev) (t : Nat) : Dev :=
  (d.pmuAdd (pmuThr t 0) 1).updSlot t (fun x => { x with uncounted := d.fon F.PMU_CTRL_FREEZE })

/-- The pending slot of a thread falls into a category; while FREEZE is 1 its placement waits (R394; DESIGN CHOICE, log 166). -/
def Dev.closeSlot (d : Dev) (t j : Nat) : Dev :=
  if (at0 d.pmu.slots t).uncounted then d
  else if d.fon F.PMU_CTRL_FREEZE then d.updSlot t (fun x => { x with late := some j })
  else d.pmuAdd (pmuThr t j) 1

/-- Whether an event's LATENCY is the fixed 8 of Table 18-2. -/
def slotLatency (ev : Nat) : Bool := decide (0x13 ≤ ev) && decide (ev ≤ 0x16)

/-- Places an instruction's own slot as RETIRED or WASTED (R391, R392), with the events it makes. -/
def Dev.placeSlot (d : Dev) (t : Nat) (wasted : Bool) (fault : Nat) (evs : List Nat) : Dev :=
  let x : SlotSt := at0 d.pmu.slots t
  let lat := d.cycle - (d.thr t).issuedAt
  let lat := if lat = 0 then 8 else lat
  let j := if wasted then 2 else 1
  let recd (ev l : Nat) (_ : Nat) : List Byte := sampleRecord (d.thr t).pc t ev (j - 1) fault l (d.cycle % 2 ^ 32)
  let d := (d.closeSlot t j).updSlot t (fun x => { x with filled := none })
  if x.uncounted then d
  else
    let d := d.thrEvent t 0x01 1 (recd 0x01 8)
    let d := d.thrEvent t (j + 1) 1 (recd (j + 1) lat)
    let d := match x.filled with
      | some n => d.thrEvent t 0x12 1 (recd 0x12 n)
      | none => d
    forAll evs (fun d ev => d.thrEvent t ev 1 (recd ev (if slotLatency ev then 8 else lat))) d

/-- The slots whose placement waited for the end of a freeze are placed (R394). -/
def Dev.lateSlots (d : Dev) : Dev :=
  forAll d.pmu.slots (fun d p =>
    match p.2.late with
    | some j => (d.pmuAdd (pmuThr p.1 j) 1).updSlot p.1 (fun x => { x with late := none })
    | none => d) d

/-- PMU_FREEZE (R394): the slots passed so far are placed before the freeze, and none while it lasts. -/
def pmuFreeze (v : Bool) (d : Dev) : Dev :=
  let d := (forAll (List.range 256) (fun d t => d.settle t) d.plSettle).fset F.PMU_CTRL_FREEZE 0 (b2n v)
  if v then d else d.lateSlots

/-- PMU_CLEAR (R394): every counter of the block zero, every sampler countdown reloaded. A slot that is pending passed before the clear and counts no more
(DESIGN CHOICE, log 166). -/
def pmuClear (d : Dev) : Dev :=
  let d := forAll (List.range 256) (fun d t => d.settle t) d.plSettle
  let d := { d with pmu := { d.pmu with
    cnt := []
    slots := d.pmu.slots.map (fun (p : Nat × SlotSt) => (p.1, { p.2 with uncounted := true, late := none })) } }
  let d := { d with pmu.smp := d.pmu.smp.map (fun p => (p.1, { p.2 with left := some (d.fget F.PMU_SMP_N_N p.1) })) }
  forAll (List.range 8) (fun d k => d.fset F.PMU_SMP_LOST_COUNT k 0) d

/-- SAMPLER_RECORD (R398): writes the first record due into the cluster's buffer of 1,024, or counts it lost under
MODE STOP, or overwrites the oldest under MODE WRAP. -/
def samplerRecord (k : Nat) (d : Dev) : Dev :=
  let s := at0 d.pmu.smp k
  match s.due with
  | [] => d
  | r :: due =>
    let wr := d.fget F.PMU_SMP_WR_INDEX k
    let d := { d with pmu.smp := upd0 d.pmu.smp k (fun x => { x with due := due }) }
    if s.fill < 1024 then
      ({ d with pmu.smp := upd0 d.pmu.smp k (fun x => { x with buf := Sparse.put wr r x.buf, fill := x.fill + 1 }) }).fset
        F.PMU_SMP_WR_INDEX k ((wr + 1) % 1024)
    else if d.fon F.PMU_SMP_CFG_MODE k then
      let d := { d with pmu.smp := upd0 d.pmu.smp k (fun x => { x with buf := Sparse.put wr r x.buf }) }
      let d := d.fset F.PMU_SMP_WR_INDEX k ((wr + 1) % 1024)
      let d := d.fset F.PMU_SMP_RD_INDEX k ((d.fget F.PMU_SMP_RD_INDEX k + 1) % 1024)
      d.cnt F.PMU_SMP_LOST_COUNT k
    else d.cnt F.PMU_SMP_LOST_COUNT k

/-- A write of PMU_SMP_RD frees the records between the old and the new index (R398). -/
def smpRdWrite (k rd : Nat) (d : Dev) : Dev :=
  let old := d.fget F.PMU_SMP_RD_INDEX k
  let n := (rd % 1024 + 1024 - old) % 1024
  let s := at0 d.pmu.smp k
  let n := if n = 0 && s.fill == 1024 && rd % 1024 != old then 1024 else n
  ({ d with pmu.smp := upd0 d.pmu.smp k (fun x => { x with fill := x.fill - n }) }).fset F.PMU_SMP_RD_INDEX k rd

end Sys2Proof.Machine
end

