-- ==== Sys2Proof/Machine/Crc.lean ====
section
/-! DEFINITION. Check values: the CRCs of R249, R305, R309, R320 and the SHA-384 digest of R315. -/

namespace Sys2Proof.Machine

/-- One bit into a CRC register of `w` bits. -/
def crcBit (w poly r : Nat) (b : Bool) : Nat :=
  if bit r (w - 1) != b then (2 * r) % 2 ^ w ^^^ poly else (2 * r) % 2 ^ w

/-- One byte into a CRC register: lowest bit first when reflected. -/
def crcByte (w poly : Nat) (refl : Bool) (r : Nat) (x : Byte) : Nat :=
  (List.range 8).foldl (fun r i => crcBit w poly r (bit x.toNat (if refl then i else 7 - i))) r

/-- The low `w` bits of a number in reverse order. -/
def revBits (w v : Nat) : Nat := ((List.range w).map (fun i => if bit v i then 2 ^ (w - 1 - i) else 0)).sum

/-- A CRC with its parameters over bytes. -/
def crc (w poly : Nat) (refl : Bool) (init xo : Nat) (bs : List Byte) : Nat :=
  let r := bs.foldl (crcByte w poly refl) init
  (if refl then revBits w r else r) ^^^ xo

/-- The FCS CRC-32 (R305). -/
def crc32 (bs : List Byte) : Nat := crc 32 0x04C11DB7 true 0xFFFFFFFF 0xFFFFFFFF bs

/-- CRC-32C (R147). -/
def crc32c (bs : List Byte) : Nat := crc 32 0x1EDC6F41 true 0xFFFFFFFF 0xFFFFFFFF bs

/-- The shim's CRC-16 (R249). -/
def crc16 (bs : List Byte) : Nat := crc 16 0x1021 false 0xFFFF 0 bs

/-- Width in bytes of an engine algorithm's check value (Table 14-1). -/
def algBytes (alg : Nat) : Nat := if alg = 0 then 4 else if alg = 1 then 2 else 8

/-- An engine algorithm's check value (Table 14-1). -/
def algCrc (alg : Nat) (bs : List Byte) : Nat :=
  if alg = 0 then crc 32 0x1EDC6F41 true 0xFFFFFFFF 0xFFFFFFFF bs
  else if alg = 1 then crc 16 0x1021 false 0xFFFF 0 bs
  else crc 64 0x42F0E1EBA9EA3693 false 0 0 bs

/-! SHA-384 (FIPS 180-4, named by R315). The constants are computed as that standard defines them, from roots of primes. -/

/-- Largest number below `2 ^ n` whose k-th power is at most `v`. -/
def rootBelow (k v : Nat) : Nat → Nat → Nat
  | 0, r => r
  | n + 1, r => rootBelow k v n (if (r + 2 ^ n) ^ k ≤ v then r + 2 ^ n else r)

/-- First 64 bits after the point of the k-th root of a number below 2^12. -/
def rootFraction (k p : Nat) : Nat := rootBelow k (p * 2 ^ (64 * k)) 70 0 % 2 ^ 64

/-- The primes up to 409: the first 80. -/
def primesTo409 : List Nat :=
  (List.range 410).filter (fun p => decide (2 ≤ p) && (List.range 19).all (fun q => decide (q + 2 ≥ p) || p % (q + 2) != 0))

/-- Constant of each round: from the cube root of its prime. -/
def shaRoundConsts : List Nat := primesTo409.map (rootFraction 3)

/-- What the digest starts from: square roots of the ninth to the sixteenth prime. -/
def shaStart : List Nat := ((primesTo409.drop 8).take 8).map (rootFraction 2)

/-- A 64-bit number turned right by `n` bits. -/
def turn64 (n x : Nat) : Nat := x / 2 ^ n + x % 2 ^ n * 2 ^ (64 - n)

/-- Exclusive or of a number turned three ways. -/
def turns64 (i j k x : Nat) : Nat := turn64 i x ^^^ turn64 j x ^^^ turn64 k x

/-- Exclusive or of a number turned two ways and shifted. -/
def turnShift64 (i j k x : Nat) : Nat := turn64 i x ^^^ turn64 j x ^^^ x / 2 ^ k

/-- Message words as the rounds take them, newest first: each past the sixteenth from the 2nd, 7th, 15th and 16th
before it. -/
def shaExpand (back : List Nat) : Nat → List Nat
  | 0 => back
  | n + 1 => shaExpand ((turnShift64 19 61 6 (back.getD 1 0) + back.getD 6 0 + turnShift64 1 8 7 (back.getD 14 0) +
      back.getD 15 0) % 2 ^ 64 :: back) n

/-- The rounds over pairs of message word and constant. The standard's a, b, c, d are the last four of one sequence, e, f, g, h
of another, newest first. -/
def shaRounds : List (Nat × Nat) → List Nat × List Nat → List Nat × List Nat
  | [], x => x
  | (w, k) :: rest, x =>
    let hi (i : Nat) : Nat := x.1.getD i 0
    let lo (i : Nat) : Nat := x.2.getD i 0
    let choice := lo 2 ^^^ (lo 0 &&& (lo 1 ^^^ lo 2))
    let most := (hi 0 &&& (hi 1 ||| hi 2)) ||| (hi 1 &&& hi 2)
    let mixed := w + k + lo 3 + choice + turns64 14 18 41 (lo 0)
    shaRounds rest
      ((mixed + most + turns64 28 34 39 (hi 0)) % 2 ^ 64 :: x.1.take 3, (hi 3 + mixed) % 2 ^ 64 :: x.2.take 3)

/-- The blocks of 128 bytes of a padded message, from what the blocks before gave. -/
def shaFold : Nat → List Byte → List Nat → List Nat
  | 0, _, acc => acc
  | n + 1, bs, acc =>
    let ws := (List.range 16).map (fun i => beNat ((bs.drop (8 * i)).take 8))
    let out := shaRounds ((shaExpand ws.reverse 64).reverse.zip shaRoundConsts) (acc.take 4, acc.drop 4)
    shaFold n (bs.drop 128) (((out.1 ++ out.2).zip acc).map (fun y => (y.1 + y.2) % 2 ^ 64))

/-- The SHA-384 digest of a message, 48 bytes (R315). -/
def sha384 (m : List Byte) : List Byte :=
  let fill := 127 - (m.length + 16) % 128
  let padded := m ++ 0x80 :: (List.replicate fill 0 ++ toBe 16 (8 * m.length))
  toBe 48 (((shaFold (padded.length / 128) padded shaStart).take 6).foldl (fun n w => n * 2 ^ 64 + w) 0)

end Sys2Proof.Machine
end

