-- ==== Sys2Proof/Machine/Integ.lean ====
section
/-! DEFINITION. Memory failures, their classes and bookkeeping (R320 to R332). -/

namespace Sys2Proof.Machine

/-- Outcome code of a class (Table 15-2). -/
def classOutcome (cls : Nat) : Nat :=
  if cls ∈ [0x01, 0x02, 0x09, 0x10, 0x13, 0x1C, 0x21] then 1
  else if cls ∈ [0x03, 0x12] then 2
  else if cls ∈ [0x04, 0x05, 0x06, 0x15, 0x16, 0x17, 0x18, 0x19, 0x1A] then 3
  else if cls = 0x11 then 4
  else if cls = 0x14 then 5
  else if cls ∈ [0x07, 0x1D] then 6
  else if cls ∈ [0x08, 0x1E] then 7
  else if cls = 0x1F then 8
  else if cls = 0x20 then 9
  else if cls = 0x1B then 10
  else if cls = 0x0A then 11
  else 12

/-- Whether a class is placed on the scrub list. -/
def hostRepair (cls : Nat) : Bool := classOutcome cls == 3

/-- The error unit of a failure (Table 15-3): the stack of a DRAM burst, else the memory's owner. -/
def errUnit (kind cls inst addr : Nat) : Nat :=
  if kind ≠ 2 then addr / 256 % 4
  else if cls ∈ [0x10, 0x15, 0x16, 0x1B] then 4 + inst % 16
  else if cls = 0x1C then 4 + inst / 32 % 16
  else if cls ∈ [0x11, 0x12] then 20
  else if cls ∈ [0x17, 0x18, 0x19, 0x1A] then 21
  else if cls ∈ [0x13, 0x14] then 22
  else if cls = 0x1D then 24 + inst % 8
  else if cls ∈ [0x1E, 0x1F] then 32
  else 23

/-- First byte of the rewrite records, 512 MiB of the LPM region (R167). -/
def Dev.natBase (d : Dev) : Nat := d.lpmBase + d.fget F.FLW_NAT_BASE_MIB * 2 ^ 20

/-- The class of a DRAM burst by its region and place (R54, R327, R380, Table 15-2): LPM bursts in the rewrite table are rewrite records
(DEDUCED, log 62). Which bursts of PKT hold spilled team frames is not visible. -/
def Dev.dramClass (d : Dev) (a : Nat) : Nat :=
  if 0x2FC00000 ≤ a ∧ a < 0x2FE00000 then 0x0A
  else if a < fwBase then 0x09
  else if a < fwBase + fwWindow then 0x0B
  else if a < d.mplsBase then (if d.inBuffers a then 0x08 else 0x07)
  else if a < d.lpmBase then 0x05
  else if a < d.flowBase then (if d.natBase ≤ a ∧ a < d.natBase + 2 ^ 29 then 0x06 else 0x04)
  else if a < d.pktBase then 0x03
  else 0x01

/-! The burst check (R320): 32 sideband bits a burst -/

/-- The burst that holds a byte. -/
def burstOf (a : Nat) : Nat := a / 64 * 64

/-- The CRC-32 of a burst read at an address: A[35:6] as 32 bits, least significant byte first, then the 64 data bytes. -/
def burstCrc (a : Nat) (data : List Byte) : Nat := crc32 (toLe 4 (a / 64) ++ data)

/-- The difference of a burst's sideband bits from the CRC of what it holds. -/
def Dev.crcDiffAt (d : Dev) (a : Nat) : Word := Sparse.get 0 d.integ.crcDiff (burstOf a)

/-- The sideband bits of the burst at an address. -/
def Block.sideband (b : Block) (a : Nat) : Nat := burstCrc a (b.mem.read .dram (burstOf a) 64) ^^^ (b.dev.crcDiffAt a).toNat

/-- Whether the burst at `at'` passes the check of a read that asked for the one at `a` (R320). -/
def Block.burstPasses (b : Block) (a at' : Nat) : Bool := burstCrc a (b.mem.read .dram (burstOf at') 64) == b.sideband at'

/-- Whether a burst fails its check (R320, R322): `Block.burstPasses` of its own address says the same. -/
def Dev.burstBad (d : Dev) (a : Nat) : Bool := d.crcDiffAt a != 0

/-- The failing bursts. -/
def Dev.badBursts (d : Dev) : List Nat := d.integ.crcDiff.map (fun x => x.1)

/-- Marks a burst as failing: its sideband bits differ from the CRC in some way (DESIGN CHOICE, log 2). -/
def Dev.markBurst (d : Dev) (a : Nat) : Dev :=
  if d.burstBad a then d
  else
    let f := d.fresh 32
    { f.2 with integ.crcDiff := Sparse.set 0 f.2.integ.crcDiff (burstOf a) (if f.1 = 0 then 1 else BitVec.ofNat 32 f.1) }

/-! Parity (R323): one bit a word -/

/-- The even-parity bit of a word of SRAM. -/
def parityOf (w : Nat) : Bool := (List.range 64).foldl (fun p i => p != bit w i) false

/-- Whether a word of a class of SRAM fails parity (R323). -/
def Dev.wordBad (d : Dev) (cls w : Nat) : Bool := d.integ.badWords.contains (cls, w)

/-- The parity bit kept with a word of a class, which holds `data`. -/
def Dev.parityBit (d : Dev) (cls w data : Nat) : Bool := parityOf data != d.wordBad cls w

/-- Marks an SRAM word as failing. -/
def Dev.markWord (d : Dev) (cls w : Nat) : Dev :=
  if d.wordBad cls w then d else { d with integ.badWords := d.integ.badWords ++ [(cls, w)] }

/-- Writes of whole bursts, from `a` on, leave them good (R322). -/
def Dev.burstsGood (d : Dev) (a n : Nat) : Dev :=
  { d with integ.crcDiff := d.integ.crcDiff.filter (fun x => decide (x.1 < burstOf a) || decide (a + n ≤ x.1)) }

/-- Writes of whole words of a class, from word w on, leave them good (R323). -/
def Dev.wordsGood (d : Dev) (cls w n : Nat) : Dev :=
  { d with integ.badWords := d.integ.badWords.filter (fun x => x.1 != cls || decide (x.2 < w) || decide (w + n ≤ x.2)) }

/-- An error unit. -/
def Dev.eunit (d : Dev) (u : Nat) : ErrUnit := at0 d.integ.units u

/-- Changes an error unit. -/
def Dev.updUnit (d : Dev) (u : Nat) (f : ErrUnit → ErrUnit) : Dev := { d with integ.units := upd0 d.integ.units u f }

/-- A record lost by a unit (R329, R330). -/
def Dev.unitLost (d : Dev) (u : Nat) : Dev := (d.fset F.ERR_Q_STATUS_MULTI u 1).cnt F.ERR_Q_LOST_COUNT u

/-- Whether a failure is booked before another: detected earlier, or in the same cycle with a lower CLASS, then ADDR (R330). -/
def MemFail.before (f g : MemFail) : Bool :=
  decide (f.cycle < g.cycle) || (f.cycle == g.cycle && (decide (f.cls < g.cls) || (f.cls == g.cls && decide (f.addr ≤ g.addr))))

/-- Puts a failure into its place among those that wait. -/
def pendPut (f : MemFail) (l : List MemFail) : List MemFail :=
  l.takeWhile (fun g => g.before f) ++ f :: l.dropWhile (fun g => g.before f)

/-- Queues a detected failure for its unit's booking: up to 64 wait (R330). -/
def Dev.pendFail (d : Dev) (f : MemFail) : Dev :=
  let u := errUnit f.kind f.cls f.inst f.addr
  if (d.eunit u).pend.length < 64 then d.updUnit u (fun x => { x with pend := pendPut { f with cycle := d.cycle } x.pend }) else d.unitLost u

/-- Counts a stack's double failure in the millisecond of NTU; past SDC_FAIL_LIMIT the stack is DEGRADED (R332). -/
def Dev.stackFail (d : Dev) (st : Nat) : Dev :=
  let ms := d.ntu.total / (ntuNs * 1000000)
  let w := at0 d.integ.window st
  let n := if w.1 = ms then w.2 + 1 else 1
  let d := { d with integ.window := Sparse.set default d.integ.window st (ms, n) }
  let d := (d.cnt F.SDC_FAIL_CNT_COUNT).cnt F.SDC_STACK_FAIL_COUNT st
  let lim := d.fget F.SDC_FAIL_LIMIT_COUNT
  if lim < n ∧ (n = lim + 1 ∨ !d.fon F.SDC_STACK_STATUS_DEGRADED st) then
    (d.fset F.SDC_STACK_STATUS_DEGRADED st 1).alarm 10 F.SDC_STACK_STATUS_DEGRADED st
  else d

/-- A double failure of a burst (R321), found by a read (`kind` 1) or by the patrol (3): counted, the burst failing, the failure queued for
booking. The reader takes the class outcome. -/
def Dev.dramFail (d : Dev) (kind a cls inst : Nat) (detail : List Byte) : Dev :=
  ((d.markBurst a).stackFail (burstOf a / 256 % 4)).pendFail
    { kind := kind, cls := cls, inst := inst, addr := burstOf a, sec := d.ntuSec % 2 ^ 32, ns := d.ntuNsec, detail := detail }

/-- A parity failure of an SRAM word (R323): counted, marked, queued. -/
def Dev.parityFail (d : Dev) (cls inst w : Nat) (detail : List Byte) (taken : Bool := false) : Dev :=
  ((d.markWord cls w).cnt F.ERR_PAR_CNT_COUNT).pendFail
    { kind := 2, cls := cls, inst := inst, addr := w, sec := d.ntuSec % 2 ^ 32, ns := d.ntuNsec, detail := detail, taken := taken }

/-- A read of an SRAM word: whether it fails parity, the failure then counted and queued (R323). -/
def Dev.sramRead (d : Dev) (cls inst w : Nat) (detail : List Byte) : Bool × Dev :=
  if d.wordBad cls w then (true, d.parityFail cls inst w detail) else (false, d)

/-- Reads several words; whether any fails. (DEDUCED, log 60.) -/
def Dev.sramReads (d : Dev) (cls inst w n : Nat) (detail : List Byte) : Bool × Dev :=
  (List.range n).foldl (fun a i =>
    let x := a.2.sramRead cls inst (w + i) detail
    (a.1 || x.1, x.2)) (false, d)

/-! What a failed burst held -/

/-- Bits of an address of a family, and of a block. -/
def addrBits (v6 : Bool) : Nat := if v6 then 128 else 32
def blockBits (v6 : Bool) : Nat := if v6 then 32 else 16

/-- The block of an address. -/
def blockOf (v6 : Bool) (addr : Nat) : Nat := addr / 2 ^ (addrBits v6 - blockBits v6)

/-- The leaf that a prefix lies in: of its block, or of the short ones; a prefix as long as its block lies in the top entry (R189). -/
def Prefix.leaf (x : Prefix) : Option LeafKey :=
  if x.len = blockBits x.v6 then none
  else some ⟨x.vrf, x.v6, if blockBits x.v6 < x.len then some (blockOf x.v6 x.addr) else none⟩

/-- DETAIL of classes 0x04 and 0x18 (Table 15-4). -/
def topDetail (vrf : Nat) (v6 : Bool) (block : Nat) : List Byte :=
  toLe 4 (if v6 then block else block * 65536) ++ toLe 2 (b2n v6) ++ toLe 2 vrf

/-- The LPM leaf that a failed burst held: the one known to lie there, else one of those in use or none, which the hidden layout decides: a
free value (DESIGN CHOICE, log 59). -/
def Dev.leafIn (d : Dev) (a : Nat) : Option LeafKey × Dev :=
  match d.fwd.leafAt.find? (fun x => x.2 == burstOf a) with
  | some x => (some x.1, d)
  | none =>
    let ks := (d.fwd.lpm.filterMap Prefix.leaf).filter (fun k => !d.fwd.leafAt.any (fun x => x.1 == k))
    let f := d.fresh 32
    match ks[f.1 % (ks.length + 1)]? with
    | some k => (some k, { f.2 with fwd.leafAt := f.2.fwd.leafAt ++ [(k, burstOf a)] })
    | none => (none, f.2)

/-- Whether a held frame lies in PKT: spilled, and not read back. -/
def HFrame.inPkt (h : HFrame) : Bool := h.spill && !h.fetched

/-- The class and the DETAIL of a failed burst (Table 15-4): the slot, the label or the leaf that it held. Whether a burst of PKT held a
spilled frame, while there are any, is a free value (DESIGN CHOICE, log 2). -/
def Dev.burstHeld (d : Dev) (a : Nat) : (Nat × List Byte) × Dev :=
  let c := d.dramClass a
  if c = 0x03 then ((c, toLe 4 ((a - d.flowBase) / 64)), d)
  else if c = 0x05 then ((c, toLe 4 ((a - d.mplsBase) / 64)), d)
  else if c = 0x04 then
    let k := d.leafIn a
    ((c, match k.1 with
      | some k => topDetail k.vrf k.v6 (k.block.getD 0)
      | none => []), k.2)
  else if c = 0x01 ∧ d.team.dom.any (fun x => x.2.held.any (fun h => h.inPkt)) then
    let f := d.fresh 1
    ((1 + f.1, []), f.2)
  else ((c, []), d)

/-- Where a failing leaf lies: the place known, else a free one in the LPM region outside the rewrite table (DESIGN CHOICE, log 59). -/
def Dev.leafPlace (d : Dev) (k : LeafKey) : Nat × Dev :=
  match d.fwd.leafAt.find? (fun x => x.1 == k) with
  | some x => (x.2, d)
  | none =>
    let f := d.fresh 40
    let low := d.natBase - d.lpmBase
    let o := f.1 % max 1 (low + (d.flowBase - (d.natBase + 2 ^ 29)))
    let a := burstOf (d.lpmBase + (if o < low then o else o + 2 ^ 29))
    (a, { f.2 with fwd.leafAt := f.2.fwd.leafAt ++ [(k, a)] })

/-- A read of an LPM leaf: whether it fails, now or as one that has failed before; the failure is counted and queued (class 0x04 of
Table 15-2). -/
def Dev.leafRead (d : Dev) (k : LeafKey) (inst : Nat) (now : Bool) (detail : List Byte) : Bool × Dev :=
  if now || d.fwd.leafAt.any (fun x => x.1 == k && d.burstBad x.2) then
    let a := d.leafPlace k
    (true, a.2.dramFail 1 a.1 0x04 inst detail)
  else (false, d)

/-- A read of an LPM top entry: whether its word fails parity (class 0x18). The word of a top entry is known from the failure that the
scrubber found (DESIGN CHOICE, log 59). -/
def Dev.topRead (d : Dev) (k : LeafKey) (inst : Nat) : Bool × Dev :=
  match d.fwd.topAt.find? (fun x => x.1 == k) with
  | some x => d.sramRead 0x18 inst x.2 (topDetail k.vrf k.v6 (k.block.getD 0))
  | none => (false, d)

/-- A double failure of a burst whose class and DETAIL its place tells (R321, R325). -/
def Dev.burstFails (d : Dev) (kind a inst : Nat) : Dev :=
  let x := d.burstHeld a
  x.2.dramFail kind a x.1.1 inst x.1.2

/-- An error record (Table 15-4). -/
def errRecord (f : MemFail) (u count : Nat) (listed : Bool) : List Byte :=
  toLe 1 (f.kind + 4 * b2n (classOutcome f.cls == 10) + 8 * b2n listed) ++ toLe 1 f.cls ++ toLe 1 (classOutcome f.cls) ++
  toLe 1 u ++ toLe 2 f.inst ++ toLe 2 count ++ toLe 8 f.addr ++ toLe 4 f.sec ++ toLe 4 f.ns ++
  (f.detail ++ List.replicate 8 0).take 8

/-! Reads and writes of DRAM -/

/-- Failing bursts among those that n bytes lie in. -/
def Dev.badIn (d : Dev) (a n : Nat) : List Nat :=
  d.badBursts.filter (fun x => decide (burstOf a ≤ x) && decide (x < a + n))

/-- A read of DRAM by an engine: each burst that fails its check is counted and queued (R321); none where one fails. -/
def Block.dramRead (b : Block) (a n inst : Nat) : Option (List Byte) × Block :=
  let bad := b.dev.badIn a n
  if bad.isEmpty then (some (b.mem.read .dram a n), b)
  else (none, b.on (fun d => forAll bad (fun d x => d.burstFails 1 x inst) d))

/-- A write of a whole burst or of several (R322). -/
def Block.dramWhole (b : Block) (a : Nat) (bs : List Byte) : Block :=
  (b.store .dram a bs).on (fun d => d.burstsGood a bs.length)

/-- A write of part of a burst: abandoned where the burst fails its check (R322). Whether it was performed. -/
def Block.dramMerge (b : Block) (a : Nat) (bs : List Byte) (inst : Nat) : Bool × Block :=
  if b.dev.burstBad a then (false, b.on (fun d => (d.burstFails 1 a inst).cnt F.SDC_WR_ABORT_COUNT))
  else (true, b.store .dram a bs)

/-- Writes bytes to DRAM burst by burst, whole or in part (R322). Whether all were written. -/
def Block.dramBytes : Nat → Nat → List Byte → Nat → Block → Bool × Block
  | 0, _, _, _, b => (true, b)
  | k + 1, a, bs, inst, b =>
    if bs.isEmpty then (true, b)
    else
      let part := bs.take (64 - a % 64)
      let r := if part.length = 64 then (true, b.dramWhole a part) else b.dramMerge a part inst
      let q := Block.dramBytes k (a + part.length) (bs.drop (64 - a % 64)) inst r.2
      (r.1 && q.1, q.2)

/-- Writes bytes to an SRAM of a class; the 64-bit words written whole are good (R323). -/
def Block.sramWrite (b : Block) (sp : Space) (cls a : Nat) (bs : List Byte) : Block :=
  (b.store sp a bs).on (fun d => d.wordsGood cls ((a + 7) / 8) ((a + bs.length) / 8 - (a + 7) / 8))

/-! The account of the task store and of buffers in DRAM (R380): thirds of a byte, 40 a cycle, capped at 4,096 bytes -/

/-- Whether an access finds its 64 bytes in the account. -/
def Dev.bufReady (d : Dev) : Bool := decide (192 ≤ d.stb.acct.now 12288 40 d.cycle)

/-- Carries the clock to the cycle in which an access finds its 64 bytes in the account (R380; DESIGN CHOICE, log 8). -/
def Dev.toBuf (d : Dev) : Dev := d.toCycle (d.cycle + upDiv (192 - d.stb.acct.now 12288 40 d.cycle).toNat 40)

/-- Takes the bursts of n bytes at an address from the account. -/
def Dev.bufCharge (d : Dev) (a n : Nat) : Dev :=
  { d with stb.acct := d.stb.acct.take 12288 40 d.cycle (192 * ((a % 64 + n + 63) / 64)) }

/-- Whether an access to the buffer at a thread address must wait for the account: one in DRAM that finds it too low. -/
def Dev.bufWaits (d : Dev) (a : Nat) : Bool :=
  (match d.mapAddr a with
  | some (.dram, _) => true
  | _ => false) && !d.bufReady

/-- Bytes of a buffer, through its thread address; none where a burst or a word fails (classes 0x08, 0x1E). An address where nothing is
mapped reads free bytes (DESIGN CHOICE, log 2). -/
def Block.bufRead (b : Block) (a n inst : Nat) : Option (List Byte) × Block :=
  match b.dev.mapAddr a with
  | some (.dram, p) => (b.on (fun d => d.bufCharge p n)).dramRead p n inst
  | some (sp, p) =>
    let r := b.dev.sramReads 0x1E inst (p / 8) ((p % 8 + n + 7) / 8) []
    (if r.1 then none else some (b.mem.read sp p n), { b with dev := r.2 })
  | none =>
    let r := (List.range n).foldl (fun (x : List Byte × Dev) _ =>
      let f := x.2.fresh 8
      (x.1 ++ [BitVec.ofNat 8 f.1], f.2)) ([], b.dev)
    (some r.1, { b with dev := r.2 })

/-- Writes bytes into a buffer. Whether all were written. -/
def Block.bufWrite (b : Block) (a : Nat) (bs : List Byte) (inst : Nat) : Bool × Block :=
  match b.dev.mapAddr a with
  | some (.dram, p) => Block.dramBytes (bs.length / 64 + 2) p bs inst (b.on (fun d => d.bufCharge p bs.length))
  | some (sp, p) => (true, b.sramWrite sp 0x1E p bs)
  | none => (true, b)

/-! The scrub list: 65,536 records of 32 bytes from 0x2FC0_0000 (R327) -/

/-- First byte of the scrub list. -/
def scrubBase : Nat := 0x2FC00000

/-- Indices of the records held, in rising order: those whose KIND byte is not 0. -/
def Mem.scrubUsed (m : Mem) : List Nat :=
  (m.dram.filter (fun c => decide (scrubBase ≤ c.1) && decide (c.1 < scrubBase + 0x200000) &&
    (c.1 - scrubBase) % 32 == 0 && c.2.toNat % 4 != 0)).map (fun c => (c.1 - scrubBase) / 32)

/-- The record of a class and address. -/
def Mem.scrubFind (m : Mem) (cls addr : Nat) : Option Nat :=
  m.scrubUsed.find? (fun i => m.num .dram (scrubBase + 32 * i + 1) 1 == cls &&
    m.num .dram (scrubBase + 32 * i + 8) 8 == addr)

/-- The n-th number that a rising list does not hold. -/
def nthFree (used : List Nat) (n : Nat) : Nat := used.foldl (fun n u => if u ≤ n then n + 1 else n) n

/-- Changes SDC_SCRUB_LIST_FILL. -/
def Dev.scrubFill (d : Dev) (n : Int) : Dev :=
  d.fset F.SDC_SCRUB_LIST_FILL_COUNT 0 ((d.fget F.SDC_SCRUB_LIST_FILL_COUNT : Int) + n).toNat

/-- The burst of record i has failed a read twice: the records it held are lost (Table 15-2, class 0x0A). (DEDUCED, log 160.) -/
def Block.scrubLost (b : Block) (i : Nat) : Block :=
  let a := burstOf (scrubBase + 32 * i)
  let held := b.mem.scrubUsed.filter (fun j => j / 2 == i / 2)
  (forAll held (fun (b : Block) j => b.store .dram (scrubBase + 32 * j) [0]) b).on (fun d =>
    ((d.burstFails 1 a 0xFFFF).cnt F.SDC_SCRUB_LOST_COUNT 0 held.length).scrubFill (-(held.length : Int)))

/-- The record of a class and address as the device reads it. -/
def Block.scrubLook (b : Block) (cls addr : Nat) : Option Nat × Block :=
  match b.mem.scrubFind cls addr with
  | none => (none, b)
  | some i => if b.dev.burstBad (scrubBase + 32 * i) then (none, b.scrubLost i) else (some i, b)

/-- Frees the scrub-list record of a class and address, whose word or burst has been written whole (R328). -/
def Block.scrubFree (b : Block) (cls addr : Nat) : Block :=
  let b := b.on (fun d => if cls < 0x10 then d.burstsGood addr 64 else d.wordsGood cls addr 1)
  let r := b.scrubLook cls addr
  match r.1 with
  | none => r.2
  | some i => (r.2.store .dram (scrubBase + 32 * i) [0]).on (fun d => d.scrubFill (-1))

/-- Frees the records of several words of a class (R328). -/
def Block.scrubFrees (b : Block) (cls w n : Nat) : Block := forAll (List.range n) (fun b i => b.scrubFree cls (w + i)) b

/-- Adds a record to the scrub list, or loses it (R327): the list is full, or the write is abandoned. The spec does not say which free slot:
a free value chooses (DESIGN CHOICE, log 2). -/
def Block.scrubAdd (b : Block) (recd : List Byte) : Block :=
  let used := b.mem.scrubUsed
  let lost (b : Block) : Block := b.on (fun d => (d.cnt F.SDC_SCRUB_LOST_COUNT).alarm 8 F.SDC_SCRUB_LOST_COUNT)
  if 65536 ≤ used.length then lost b
  else
    let r := b.dev.fresh 32
    let w := { b with dev := r.2 }.dramMerge (scrubBase + 32 * nthFree used (r.1 % (65536 - used.length))) recd 0xFFFF
    if w.1 then w.2.on (fun d => d.scrubFill 1) else lost w.2

/-- One turn of `err_book` (R330): merges a repeated MARKED_BAD failure, or records, queues and raises it. The slice to recover, where the
outcome is FATAL and the recovery has not begun when the failure was detected (R324, R326; DEDUCED, log 161). -/
def errBook (u : Nat) (b : Block) : Block × Option Nat :=
  match (b.dev.eunit u).pend with
  | [] => (b, none)
  | f :: rest =>
    let b := b.on (fun d => d.updUnit u (fun x => { x with pend := rest }))
    let found := if hostRepair f.cls then b.scrubLook f.cls f.addr else (none, b)
    let b := found.2
    match found.1 with
    | some i =>
      let n := min 65535 (b.mem.num .dram (scrubBase + 32 * i + 6) 2 + 1)
      ((b.store .dram (scrubBase + 32 * i + 6) (toLe 2 n)).on (fun d => d.cnt F.ERR_Q_MERGED_COUNT u), none)
    | none =>
      let listed := hostRepair f.cls && decide (b.mem.scrubUsed.length < 65536)
      let recd := errRecord f u 0 listed
      let b := if hostRepair f.cls then b.scrubAdd recd else b
      let out := classOutcome f.cls
      let b := b.on (fun d =>
        let d := if 8 ≤ (d.eunit u).queue.length then d.unitLost u
          else (d.updUnit u (fun x => { x with queue := x.queue ++ [recd] })).cnt F.ERR_Q_TOTAL_COUNT u
        if out = 10 ∨ out = 11 then d.alarm 9 F.ERR_Q_STATUS_FILL u recd
        else d.raise 1 F.ERR_Q_STATUS_FILL u recd)
      (b, if out = 10 ∧ !f.taken then some f.inst else none)

/-- ERR_QUEUE_POP (R329): the unit's head record goes. -/
def errPop (u : Nat) (d : Dev) : Dev := d.updUnit u (fun x => { x with queue := x.queue.drop 1 })

end Sys2Proof.Machine
end

