-- ==== Sys2Proof/Machine/Pools.lean ====
section
/-! DEFINITION. The buffer pool manager: requests, frees, transfers, watermarks, withdrawn buffers (R383 to R388). -/

namespace Sys2Proof.Machine

/-- The free count fell or rose: BELOW and its NOTICE events (R387), BPM_POOL_MIN. -/
def Dev.poolMarks (d : Dev) (p : Nat) : Dev :=
  let n := d.poolFree p
  let below := d.fon F.BPM_POOL_STATUS_BELOW p
  if !below && decide (n ≤ d.fget F.BPM_POOL_LOW_COUNT p) then
    (d.fset F.BPM_POOL_STATUS_BELOW p 1).notice F.BPM_POOL_STATUS_BELOW p
  else if below && decide (d.fget F.BPM_POOL_HIGH_COUNT p ≤ n) then
    (d.fset F.BPM_POOL_STATUS_BELOW p 0).notice F.BPM_POOL_STATUS_BELOW p
  else d

/-- Records a free count in BPM_POOL_MIN: the lowest since it was last read (R387; DESIGN CHOICE, log 11). -/
def Dev.poolMin (d : Dev) (p : Nat) : Dev :=
  if d.minSeen.contains p then
    if d.poolFree p < d.fget F.BPM_POOL_MIN_COUNT p then d.fset F.BPM_POOL_MIN_COUNT p (d.poolFree p) else d
  else ({ d with minSeen := d.minSeen ++ [p] }).fset F.BPM_POOL_MIN_COUNT p (d.poolFree p)

/-- Hands a buffer out under an owner ID. -/
def Dev.takeBuf (d : Dev) (p i owner : Nat) : Dev :=
  let d := { d with bufs := Sparse.set default d.bufs (bufKey p i) { owner := owner, held := true } }
  ((d.cnt F.BPM_GETS_COUNT p).poolMarks p).poolMin p

/-- The smallest pool whose buffers hold `size` bytes; 8 where none does. -/
def poolFor (size : Nat) : Nat := ((List.range 8).find? (fun p => decide (size ≤ poolSize p))).getD 8

/-- A request to a pool reaches the manager: the cycle in which it is served, one request a cycle in the order in which they come (R384).
(DESIGN CHOICE, log 167.) -/
def Dev.bufTurn (d : Dev) (p : Nat) : Nat × Dev :=
  let c := max d.cycle (at0 d.poolAt p)
  (c, { d with poolAt := upd0 d.poolAt p (fun _ => c + 1) })

/-- Carries the clock to the cycle in which a pool serves a request (DESIGN CHOICE, log 8). -/
def Dev.bufServe (d : Dev) (p : Nat) : Dev := (d.bufTurn p).2.toCycle (d.bufTurn p).1

/-- A buffer whose owner or state word fails parity is withdrawn (R388). -/
def Dev.bufQuarantine (d : Dev) (p i : Nat) : Dev :=
  if (d.buf p i).quar then d
  else
    (({ d with bufs := Sparse.set default d.bufs (bufKey p i) { d.buf p i with quar := true } }.cnt F.BPM_POOL_QUAR_COUNT p).poolMarks
      p).poolMin p

/-- The manager reads a buffer's owner and state: whether it is withdrawn, at the latest by this read (class 0x1F of Table 15-2; DESIGN CHOICE, log 42). -/
def Dev.bufOut (d : Dev) (p i : Nat) : Bool × Dev :=
  if (d.buf p i).quar then (true, d)
  else if d.wordBad 0x1F (bufKey p i) then (true, (d.parityFail 0x1F p (bufKey p i) []).bufQuarantine p i)
  else (false, d)

/-- The free buffer that pools, in this order, serve a request with: the lowest free index of the first that has one. One found withdrawn is
passed over. -/
def Dev.bufPick : Nat → List Nat → Dev → Option (Nat × Nat) × Dev
  | 0, _, d => (none, d)
  | n + 1, pools, d =>
    match pools.findSome? (fun q => if q < 8 then (d.lowestFree q).map (fun i => (q, i)) else none) with
    | none => (none, d)
    | some (q, i) => if (d.bufOut q i).1 then Dev.bufPick n pools (d.bufOut q i).2 else (some (q, i), d)

/-- A request for a buffer (R383): the address handed out, 0 for EMPTY. (DESIGN CHOICE, log 167.) -/
def Dev.bufGet (d : Dev) (size owner : Nat) : Nat × Dev :=
  let p := poolFor size
  let pools := if d.fon F.BPM_POOL_CFG_SPILL_UP p then (List.range 8).filter (fun q => decide (p ≤ q)) else [p]
  match Dev.bufPick (d.integ.badWords.length + 1) pools d with
  | (some (q, i), d) => (d.bufAddr q i, d.takeBuf q i owner)
  | (none, d) => (0, d.cnt F.BPM_POOL_EMPTY_COUNT (min p 7))

/-- A free under the checks of `bpm_free` (R385): whether it is refused. -/
def Dev.bufFree (d : Dev) (a owner : Nat) : Bool × Dev :=
  match d.bufAt a with
  | none => (true, (d.cnt F.BPM_BAD_ADDR_COUNT).error F.BPM_BAD_ADDR_COUNT)
  | some (p, i) =>
    let x := d.buf p i
    if (d.bufOut p i).1 then (true, (d.bufOut p i).2.error F.BPM_POOL_QUAR_COUNT p)
    else if x.owner ≠ owner then (true, (d.cnt F.BPM_NOT_OWNER_COUNT p).error F.BPM_NOT_OWNER_COUNT p)
    else if !x.held then (true, (d.cnt F.BPM_DOUBLE_FREE_COUNT p).error F.BPM_DOUBLE_FREE_COUNT p)
    else
      let d := { d with bufs := Sparse.set default d.bufs (bufKey p i) { x with held := false } }
      (false, (d.cnt F.BPM_PUTS_COUNT p).poolMarks p)

/-- A change of owner of a HELD buffer (R386): whether it is refused. -/
def Dev.bufXfer (d : Dev) (a owner new : Nat) : Bool × Dev :=
  match d.bufAt a with
  | none => (true, (d.cnt F.BPM_BAD_ADDR_COUNT).error F.BPM_BAD_ADDR_COUNT)
  | some (p, i) =>
    let x := d.buf p i
    if (d.bufOut p i).1 then (true, (d.bufOut p i).2.error F.BPM_POOL_QUAR_COUNT p)
    else if x.owner ≠ owner then (true, (d.cnt F.BPM_NOT_OWNER_COUNT p).error F.BPM_NOT_OWNER_COUNT p)
    else if !x.held then (true, (d.cnt F.BPM_DOUBLE_FREE_COUNT p).error F.BPM_DOUBLE_FREE_COUNT p)
    else (false, { d with bufs := Sparse.set default d.bufs (bufKey p i) { x with owner := new } })

/-- Stable's or an engine's transfer of a buffer's owner, whoever held it (R373). -/
def Dev.bufGive (d : Dev) (a new : Nat) : Dev :=
  match d.bufAt a with
  | none => d
  | some (p, i) => { d with bufs := Sparse.set default d.bufs (bufKey p i) { d.buf p i with owner := new } }

/-- Frees a buffer under the owner ID it carries (R360, R415). -/
def Dev.bufRelease (d : Dev) (a : Nat) : Dev :=
  match d.bufAt a with
  | none => (d.bufFree a 0).2
  | some (p, i) => (d.bufFree a (d.buf p i).owner).2

/-- The pool of a buffer that starts at an address takes its turn for a request about it (R384). -/
def Dev.bufServeAt (d : Dev) (a : Nat) : Dev :=
  match d.bufAt a with
  | none => d
  | some (p, _) => d.bufServe p

/-- An operation of BPM_OP_CTRL (Table 17-9): it ends when its pool serves it, DONE set and ERR written. -/
def bpmOp (r : Req) (op : Nat) (d : Dev) : Dev :=
  let q := reqIdx r
  let d := d.fset F.BPM_OP_CTRL_OP q op
  let fin (d : Dev) (e : Nat) : Dev := (d.fset F.BPM_OP_STATUS_DONE q 1).fset F.BPM_OP_STATUS_ERR q e
  let a := d.fget F.BPM_OP_ADDR_ADDR q
  if op = 0 then
    let g := (d.bufServe (poolFor (d.fget F.BPM_OP_SIZE_BYTES q))).bufGet (d.fget F.BPM_OP_SIZE_BYTES q) (ownerOf r)
    fin (g.2.fset F.BPM_OP_ADDR_ADDR q g.1) (if g.1 = 0 then 1 else 0)
  else if op = 1 then
    let p := (d.bufServeAt a).bufFree a (ownerOf r)
    fin p.2 (if p.1 then 2 else 0)
  else
    let p := (d.bufServeAt a).bufXfer a (ownerOf r) (d.fget F.BPM_OP_OWNER_OWNER q)
    fin p.2 (if p.1 then 2 else 0)

end Sys2Proof.Machine
end

