-- ==== Sys2Proof/Machine/Stable.lean ====
section
/-! DEFINITION. The Stable scheduler (R367 to R379): posts, hand-off, completion, ordered release. -/

namespace Sys2Proof.Machine

/-- Byte of DRAM where a descriptor's 64 bytes lie (R367). -/
def Dev.taskAddr (d : Dev) (i : Nat) : Nat := fwBase + d.fget F.STB_STORE_BASE_BASE * 65536 + i * 64

/-- A task descriptor. -/
def Dev.task (d : Dev) (i : Nat) : Task := at0 d.stb.tasks i

/-- Changes a task descriptor. -/
def Dev.setTask (d : Dev) (i : Nat) (t : Task) : Dev := { d with stb.tasks := Sparse.set default d.stb.tasks i t }

/-- How many of the 4,096 descriptors are in a state other than FREE and pass a test. -/
def Dev.taskCount (d : Dev) (p : Task → Bool) : Nat :=
  (d.stb.tasks.filter (fun e => e.2.st != .free && p e.2)).length

/-- A packet stops holding its epoch (R134). -/
def Dev.epochDrop (d : Dev) (h : Option (Nat × Nat)) : Dev :=
  match h with
  | none => d
  | some (s, e) =>
    { d with epochs := Sparse.set 0 d.epochs (s * 65536 + e) (Sparse.get 0 d.epochs (s * 65536 + e) - 1) }

/-- A packet starts to hold an epoch (R134). -/
def Dev.epochHold (d : Dev) (s e : Nat) : Dev :=
  { d with epochs := Sparse.set 0 d.epochs (s * 65536 + e) (Sparse.get 0 d.epochs (s * 65536 + e) + 1) }

/-- A FREE descriptor. The spec does not say which one a post takes: a free value chooses (DESIGN CHOICE, log 2). -/
def Dev.freeTask (d : Dev) : Option Nat × Dev :=
  let used := d.taskCount (fun _ => true)
  if 4096 ≤ used then (none, d)
  else
    let r := d.fresh 32
    (((List.range 4096).filter (fun i => (d.task i).st == .free))[r.1 % (4096 - used)]?, r.2)

/-- The handle of a descriptor: index in [11:0], generation in [15:12] (R373). -/
def handleOf (i gen : Nat) : Nat := i + gen * 4096

/-- A descriptor becomes FREE; its generation advances (R373). -/
def Dev.dropTask (d : Dev) (i : Nat) : Dev :=
  d.setTask i { (default : Task) with gen := ((d.task i).gen + 1) % 16 }

/-- Gives an ordered task its ticket: the group's next one (R371). -/
def Dev.ticket (d : Dev) (g : Nat) : Nat × Dev :=
  let t := d.fget F.STB_GROUP_NEXT_TICKET g
  (t, d.fset F.STB_GROUP_NEXT_TICKET g (t + 1))

/-- A completion enters DONE_WAIT of its group (R376). -/
def Dev.addWaiter (d : Dev) (g : Nat) (w : Waiter) : Dev :=
  { d with stb.waiters := upd0 d.stb.waiters g (fun l => l ++ [w]) }

/-- A void ticket waits for its turn (R378). -/
def Dev.voidTicket (d : Dev) (g ticket : Nat) : Dev :=
  d.addWaiter g { ticket := ticket, out := .void, task := none, epoch := none, since := d.cycle }

/-- A task that no thread holds ends as void (R374): freed, an ordered one's ticket released void. -/
def Dev.voidReady (d : Dev) (i : Nat) : Dev :=
  let t := d.task i
  let d := (d.dropTask i).epochDrop t.epoch
  if t.ordered then d.voidTicket t.group t.ticket else d

/-- Puts a task into the store and the lists: READY, or DELAYED when `delay` is not 0. The store's burst is written whole and charged to
its account (R380). -/
def Block.placeTask (b : Block) (i : Nat) (t : Task) (delay : Nat) (desc : List Byte) : Block :=
  let d := b.dev
  let r := if t.ordered then d.ticket t.group else (0, d)
  let d := r.2
  let t := { t with
    gen := (d.task i).gen
    ticket := r.1
    st := if delay = 0 then .ready else .delayed
    due := d.stb.ticks + delay
    order := d.stb.nextOrder }
  let d := { d with stb.nextOrder := d.stb.nextOrder + 1 }
  let desc := desc.take 6 ++ toLe 2 t.ticket ++ desc.drop 8
  ({ b with dev := (d.setTask i t).bufCharge (d.taskAddr i) 64 }).dramWhole (d.taskAddr i) (desc.take 64)

/-- CLK_CORE cycles of one tick (R375). -/
def Dev.tickCycles (d : Dev) : Nat := cyclesOfNs (d.fget F.STB_CFG_TICK_NS)

/-- Ticks that have begun since STARTUP (R375). -/
def Dev.ticksNow (d : Dev) : Nat :=
  if d.life.begun && d.tickCycles != 0 then max d.stb.ticks ((d.cycle - d.stb.tickBase) / d.tickCycles) else d.stb.ticks

/-- Brings the delay list up to the present tick (R375): at each boundary every task that is due becomes READY, in due order, then posting
order. -/
def Dev.ticked (d : Dev) : Dev :=
  let n := d.ticksNow
  if n = d.stb.ticks then d else
  let d := { d with stb.ticks := n }
  let d := d.fset F.STB_TICK_NOW_TICK 0 n
  let due := (d.stb.tasks.filter (fun e => e.2.st == .delayed && decide (e.2.due ≤ d.stb.ticks))).mergeSort
    (fun a b => decide (a.2.due < b.2.due) || (a.2.due == b.2.due && decide (a.2.order ≤ b.2.order)))
  forAll due (fun d e =>
    { (d.setTask e.1 { e.2 with st := .ready, order := d.stb.nextOrder }) with
      stb.nextOrder := d.stb.nextOrder + 1 }) d

/-- DELAY_TICK (R375): the clock is carried to the next tick boundary. -/
def delayTick (d : Dev) : Dev :=
  (d.toCycle (d.stb.tickBase + (d.ticksNow + 1) * d.tickCycles)).ticked

/-- A task descriptor's bytes (Table 17-2). -/
def taskBytes (prio kind clusters flags group buf len port slice epoch code info : Nat) (body : List Byte) : List Byte :=
  toLe 1 prio ++ toLe 1 kind ++ toLe 1 clusters ++ toLe 1 flags ++ toLe 1 group ++ toLe 1 0 ++ toLe 2 0 ++
  toLe 4 buf ++ toLe 2 len ++ toLe 2 (port + slice * 4096) ++ toLe 2 epoch ++ toLe 2 code ++ toLe 4 info ++
  (body ++ List.replicate 40 0).take 40

/-- Counts a post that failed in the source's own counter, and ends the packet's hold of its epoch (R370). -/
def Dev.postFailed (d : Dev) (p : Post) : Dev :=
  let d := match p.failCnt with
    | some (off, lo, w, inst) => d.cnt ⟨off, lo, w⟩ inst
    | none => d
  d.epochDrop p.holds

/-- Order group of a hardware post (R369). -/
def Dev.postGroup (d : Dev) (p : Post) : Nat :=
  let g := d.fget F.STB_ROUTE_GROUP p.kind
  if d.fon F.STB_ROUTE_GROUP_MODE p.kind then (g + p.hash / 2 ^ (32 - d.fget F.STB_ROUTE_GBITS p.kind)) % 256 else g

/-- TASK_POST (R369 to R371): the first waiting hardware post takes a buffer, a descriptor within its kind's quota
and a ticket, or fails and is counted. A post that finds no buffer counts there alone (DESIGN CHOICE, log 12). While the account of the task store
stands too low, one that fails nowhere waits (R380); one whose packet meets a failing burst of its buffer ends void (class 0x08 of
Table 15-2). -/
def taskPost (s : Block) : Block :=
  let s := s.on Dev.ticked
  match s.dev.stb.posts with
  | [] => s
  | p :: rest =>
    let b := s.on (fun d => { d with stb.posts := rest })
    let b := if p.want = 0 then b else b.on (fun d => d.bufServe (poolFor p.want))
    let g := if p.want = 0 then (0, b.dev) else b.dev.bufGet p.want p.owner
    if p.want ≠ 0 ∧ g.1 = 0 then
      { b with dev := g.2.cnt F.STB_KIND_NOBUF_COUNT p.kind |>.postFailed p }
    else
      let d := g.2
      let used := d.taskCount (fun t => t.kind == p.kind)
      let f := if d.fget F.STB_ROUTE_QUOTA_COUNT p.kind ≤ used then (none, d) else d.freeTask
      match f with
      | (none, d) =>
        let d := d.cnt F.STB_KIND_DROP_COUNT p.kind
        let d := if g.1 = 0 then d else (d.bufFree g.1 p.owner).2
        { b with dev := d.postFailed p }
      | (some i, d) =>
        if !s.dev.bufReady then s else
        let b := { b with dev := d.cnt F.STB_KIND_POSTED_COUNT p.kind }
        let b := if p.kind < 5 then b.on (fun d => d.pl p.slice 0x12) else b
        let w := if g.1 = 0 then (true, b) else
          (b.on (fun d => if p.second then d.bufSecond g.1 else d)).bufWrite g.1 p.data (if p.kind < 5 then p.slice else 0xFFFF)
        let b := w.2
        let ordered := d.fon F.STB_ROUTE_ORDERED p.kind
        let group := d.postGroup p
        let t : Task := { (default : Task) with
          kind := p.kind
          prio := d.fget F.STB_ROUTE_PRIO p.kind
          clusters := d.fget F.STB_ROUTE_CLUSTERS p.kind
          ordered := ordered
          group := group
          buf := g.1
          epoch := p.holds
          second := p.second }
        let b := b.placeTask i t 0 (taskBytes t.prio p.kind t.clusters (b2n ordered + 2 * b2n p.trunc) group g.1
          (if p.want = 0 then 0 else p.data.length) p.port p.slice p.epoch p.code p.info p.body)
        if w.1 then b else b.on (fun d => d.voidReady i)

/-- Asks for a hardware post (R369). (DEDUCED, log 117.) -/
def Dev.addPost (d : Dev) (p : Post) : Dev := { d with stb.posts := d.stb.posts ++ [p] }

/-- The 64 bytes of a requester's STB_POST_DATA. -/
def Dev.postData (d : Dev) (r : Nat) : List Byte :=
  ((List.range 16).map (fun n => toLe 4 (d.rget (R.STB_POST_DATA + 4 * n) r).toNat)).flatten

/-- Ends an operation of STB_POST_CTRL with an ERR code and a handle. -/
def Dev.postDone (d : Dev) (r err handle : Nat) : Dev :=
  ((d.fset F.STB_POST_STATUS_DONE r 1).fset F.STB_POST_STATUS_ERR r err).fset F.STB_POST_STATUS_HANDLE r handle

/-- The POST operation (R374): a software task, READY or delayed, once the store's account has its burst (R380). -/
def stbPost (r : Req) (delay : Nat) (b : Block) : Block :=
  let q := reqIdx r
  let d := (b.dev.toBuf.ticked.fset F.STB_POST_CTRL_OP q 0).fset F.STB_POST_CTRL_DELAY q delay
  let desc := d.postData q
  let byte (n : Nat) : Nat := (desc.getD n 0).toNat
  let used := d.taskCount (fun t => t.kind == 0)
  if d.fget F.STB_ROUTE_QUOTA_COUNT 0 ≤ used then { b with dev := d.postDone q 2 0 }
  else
    match d.freeTask with
    | (none, d) => { b with dev := d.postDone q 1 0 }
    | (some i, d) =>
      let t : Task := { (default : Task) with
        kind := 0
        prio := byte 0 % 64
        clusters := byte 2
        ordered := bit (byte 3) 0
        group := byte 4
        buf := leNat ((desc.drop 8).take 4) }
      let b := { b with dev := (d.cnt F.STB_KIND_POSTED_COUNT 0).postDone q 0 (handleOf i (d.task i).gen) }
      b.placeTask i t delay (desc.take 1 ++ toLe 1 0 ++ desc.drop 2)

/-- The descriptor that a handle names, if its generation is the live one. -/
def Dev.byHandle (d : Dev) (h : Nat) : Option Nat :=
  if (d.task (h % 4096)).st != .free && (d.task (h % 4096)).gen == h / 4096 % 16 then some (h % 4096) else none

/-- The CANCEL operation (R374): frees a READY or DELAYED task; an ordered task's ticket is released void. -/
def stbCancel (r : Req) (d : Dev) : Dev :=
  let q := reqIdx r
  let d := d.ticked.fset F.STB_POST_CTRL_OP q 1
  match d.byHandle (d.fget F.STB_POST_ARG_HANDLE q) with
  | none => d.postDone q 3 (d.fget F.STB_POST_STATUS_HANDLE q)
  | some i =>
    let t := d.task i
    if t.st = .ready ∨ t.st = .delayed then
      (d.voidReady i).postDone q 0 (d.fget F.STB_POST_STATUS_HANDLE q)
    else d.postDone q 4 (d.fget F.STB_POST_STATUS_HANDLE q)

/-- Ends a HANDED task as void (R374, R378): its thread no longer holds it. -/
def Dev.voidTask (d : Dev) (i : Nat) : Dev :=
  let t := d.task i
  let d := (d.updThr t.thread (fun x => { x with task := none })).fset F.THREAD_STATUS_TASK_HELD t.thread 0
  let d := d.epochDrop t.epoch
  if t.ordered then
    (d.setTask i { t with st := .doneWait, epoch := none }).addWaiter t.group
      { ticket := t.ticket, out := .void, task := some i, epoch := none, since := d.cycle }
  else d.dropTask i

/-- The VOID operation (R374). -/
def stbVoid (r : Req) (d : Dev) : Dev :=
  let q := reqIdx r
  let d := d.ticked.fset F.STB_POST_CTRL_OP q 2
  let h := d.fget F.STB_POST_STATUS_HANDLE q
  match d.byHandle (d.fget F.STB_POST_ARG_HANDLE q) with
  | none => d.postDone q 3 h
  | some i => if (d.task i).st = .handed then (d.voidTask i).postDone q 0 h else d.postDone q 4 h

/-- Carries the clock to the first cycle in which a cluster may be handed a task: one a cycle, and in one cycle in ascending number (R372). -/
def Dev.handTurn (d : Dev) (k : Nat) : Dev :=
  let d := d.toCycle ((d.stb.handAt - k + 7) / 8)
  { d with stb.handAt := d.cycle * 8 + k + 1 }

/-- The READY task a cluster takes: highest PRIO, then the one READY first (R372). -/
def Dev.bestTask (d : Dev) (k : Nat) : Option (Nat × Task) :=
  d.stb.tasks.foldl (fun best e =>
    if e.2.st == .ready && bit e.2.clusters k then
      match best with
      | none => some e
      | some b => if b.2.prio < e.2.prio ∨ (b.2.prio = e.2.prio ∧ e.2.order < b.2.order) then some e else best
    else best) none

/-- The cluster's thread that waits longest in GETTASK, not halted and holding no task; ties to the lowest number. -/
def Dev.bestThread (d : Dev) (k : Nat) : Option (Nat × Nat) :=
  ((List.range 32).map (fun j => 32 * k + j)).foldl (fun best t =>
    match (d.thr t).hold with
    | .task rd since =>
      if d.fget F.THREAD_STATUS_STATE t == 3 && (d.thr t).task.isNone then
        match best with
        | none => some (t, rd)
        | some (u, _) =>
          match (d.thr u).hold with
          | .task _ s => if since < s then some (t, rd) else best
          | _ => best
      else best
    | _ => best) none

/-- Byte address in cluster memory space of an address of a cluster. -/
def clusterAddr (k a : Nat) : Nat := k * 2 ^ 20 + a % 2 ^ 20

/-- The task slot of a thread in its cluster's memory (R373). -/
def Dev.taskSlot (d : Dev) (t : Nat) : Nat := d.fget F.STB_CL_TASKBASE_BASE (t / 32) * 64 + 64 * (t % 32)

/-- Stable's part of a hand-off (R373): the descriptor goes to the thread's slot, the buffer to the thread. -/
def Block.handTask (b : Block) (t i : Nat) (desc : List Byte) : Block :=
  let x := b.dev.task i
  let b := b.sramWrite .cluster 0x1D (clusterAddr (t / 32) (b.dev.taskSlot t)) desc
  let d := b.dev
  let d := d.setTask i { x with st := .handed, thread := t }
  let d := if x.buf = 0 then d else d.bufGive x.buf t
  let d := (d.updThr t (fun y => { y with task := some (handleOf i x.gen) })).fset F.THREAD_STATUS_TASK_HELD t 1
  { b with dev := d.cnt F.STB_CL_HANDED_COUNT (t / 32) }

/-- Whether a slice's injection queue has one of its 64 places free (R359, R377). -/
def Dev.injRoom (d : Dev) (s : Nat) : Bool := decide ((at0 d.drv.injQ s).length < 64)

/-- Adds an entry to a slice's injection queue. -/
def Dev.injAdd (d : Dev) (s : Nat) (e : InjEntry) : Dev :=
  { d with drv.injQ := upd0 d.drv.injQ s (fun l => l ++ [e]) }

/-- Delivers a completion's output (R376, R377): whether it could be released, and the block after. A descriptor in cluster memory that fails
parity releases nothing (DESIGN CHOICE, log 163). -/
def Block.deliver (b : Block) (w : Waiter) : Option Block :=
  match w.out with
  | .void => some (b.on (fun d => d.epochDrop w.epoch))
  | .empty => some (b.on (fun d => d.epochDrop w.epoch))
  | .inject k a =>
    let desc := b.mem.read .cluster (clusterAddr k a) 64
    let r := b.dev.sramReads 0x1D k (clusterAddr k a / 8) 8 []
    if r.1 then some { b with dev := r.2.epochDrop w.epoch } else
    let s := leNat ((desc.drop 6).take 2) % 512 / 32
    if b.dev.injRoom s then
      some (b.on (fun d => d.injAdd s { desc := desc, visible := true, task := true, epoch := w.epoch, second := w.second }))
    else none

/-- Frees the descriptor of a released completion. -/
def Dev.waiterFree (d : Dev) (w : Waiter) : Dev :=
  match w.task with
  | some i => d.dropTask i
  | none => d

/-- ORDERED_RELEASE (R377): the completion whose ticket equals P is released, unless it waits for a place; P
advances; a void one counts in STB_GROUP_VOID (R378). A group releases one completion a cycle. -/
def orderedRelease (g : Nat) (b : Block) : Block :=
  let p := b.dev.fget F.STB_GROUP_REL_TICKET g
  match (at0 b.dev.stb.waiters g).find? (fun w => w.ticket == p) with
  | none => b
  | some w =>
    match (b.on (fun d => d.toCycle (at0 d.stb.relAt g))).deliver w with
    | none => b
    | some b =>
      b.on (fun d =>
        let d := { d with stb.relAt := upd0 d.stb.relAt g (fun _ => d.cycle + 1) }
        let d := { d with
          stb.waiters := upd0 d.stb.waiters g (fun l => l.erase w)
          stb.stuckTold := d.stb.stuckTold.erase g }
        let d := (d.waiterFree w).fset F.STB_GROUP_REL_TICKET g (p + 1)
        let d := d.cnt F.STB_GROUP_RELEASED_COUNT g
        if w.out = .void then d.cnt F.STB_GROUP_VOID_COUNT g else d)

/-- Completes a task that a thread holds (R376): an ordered one enters DONE_WAIT, an unordered one is released at once
or waits for injection room. A task that does not reinject its packet ends its hold of the epoch now (R134). -/
def Block.completeTask (b : Block) (t i : Nat) (out : TaskOut) : Block :=
  let x := b.dev.task i
  let back := match out with
    | .inject _ _ => true
    | _ => false
  let w : Waiter := { ticket := x.ticket, out := out, task := some i, epoch := if back then x.epoch else none, since := b.dev.cycle, second := x.second }
  let b := b.on (fun d =>
    (((if back then d else d.epochDrop x.epoch).updThr t (fun y => { y with task := none })).fset F.THREAD_STATUS_TASK_HELD t 0).setTask i
      { x with st := .doneWait, epoch := none })
  if x.ordered then b.on (fun d => d.addWaiter x.group w)
  else
    match b.deliver w with
    | some b => b.on (fun d => d.waiterFree w)
    | none => b.on (fun d => { d with stb.unordered := d.stb.unordered ++ [w] })

/-- Unordered completions that waited for injection room are released as far as it allows (R376). -/
def Block.retryUnordered (b : Block) : Block :=
  forAll b.dev.stb.unordered (fun b w =>
    match b.deliver w with
    | some b => b.on (fun d => { d with stb.unordered := d.stb.unordered.erase w }.waiterFree w)
    | none => b) b

/-- GROUP_STUCK (R379): a ticket later than P has waited STB_STUCK_US behind a P that is not in DONE_WAIT. The clock
is carried to the end of that wait. -/
def groupStuck (g : Nat) (d : Dev) : Dev :=
  let us := d.fget F.STB_STUCK_US_US
  let ws := at0 d.stb.waiters g
  let p := d.fget F.STB_GROUP_REL_TICKET g
  match ws with
  | [] => d
  | w :: _ =>
    if us = 0 ∨ ws.any (fun x => x.ticket == p) ∨ d.stb.stuckTold.contains g then d
    else
      let d := d.toCycle (w.since + us * 3000)
      let d := { d with stb.stuckTold := d.stb.stuckTold ++ [g] }
      ((d.fset F.STB_GROUP_STATUS_STUCK g 1).cnt F.STB_STUCK_CNT_COUNT).error F.STB_GROUP_STATUS_STUCK g

end Sys2Proof.Machine
end

