-- ==== Sys2Proof/Machine/Queue.lean ====
section
/-! DEFINITION. Packets in the fabric and the leaf queues: cells (R200 to R202), row writes (R203, R204), discards (R38), the residue
lists (R217). -/

namespace Sys2Proof.Machine

/-! Cells and the write queue -/

/-- Cells of a packet of L bytes (R200). -/
def cellsOf (l : Nat) : Nat := (l + 63) / 64

/-- The packets of all leaf queues. -/
def Dev.queued (d : Dev) : List QPkt := (d.tm.leaves.map (fun x => x.2.pkts)).flatten

/-- The frames taken for transmission whose last byte has not been read. -/
def Dev.reading (d : Dev) : List QPkt :=
  (d.ports.map (fun x => (x.2.tx.filter (fun t => !t.isRead && !t.probe)).map (fun t => t.pkt))).flatten

/-- Copies of a multicast packet's column that still need its cells. -/
def Dev.copies (d : Dev) (id col : Nat) : Nat :=
  ((d.queued ++ d.reading).filter (fun x => x.mc == some id && x.port / 32 == col)).length

/-- Cells held by multicast packets of a crosspoint (R215, R219). -/
def Dev.mcCells (d : Dev) (i j : Nat) : Nat :=
  ((d.tm.mcs.filter (fun m => m.row == i && m.col == j)).map (fun m => cellsOf m.src.data.length)).sum

/-- Cells held in a crosspoint. -/
def Dev.xpUsed (d : Dev) (i j : Nat) : Nat :=
  (((d.queued ++ d.reading).filter (fun x => x.row == i && x.port / 32 == j && !x.dram && x.mc.isNone)).map
    (fun x => cellsOf x.data.length)).sum + d.mcCells i j

/-- Sets the peak register of a crosspoint. -/
def Dev.xpPeak (d : Dev) (i j : Nat) : Dev :=
  let u := d.xpUsed i j
  if d.fget F.XPF_XP_PEAK_CELLS (j * 16 + i) < u then d.fset F.XPF_XP_PEAK_CELLS (j * 16 + i) u else d

/-- Bytes of a row's write queue (R203, R204): unwritten packets, a multicast packet once. -/
def Dev.wrqBytes (d : Dev) (i : Nat) : Nat :=
  (((d.queued ++ d.reading).filter (fun x => x.row == i && !x.written && x.mc.isNone)).map (fun x => x.data.length)).sum +
  ((d.tm.mcs.filter (fun m => m.row == i && !m.written &&
      !d.tm.mcs.any (fun n => n.id == m.id && decide (n.col < m.col)))).map (fun m => m.src.data.length)).sum

/-- The write of a packet of L bytes in its row: starts no earlier than now nor than the row's last write, 400 bytes
every 3 cycles (R203). Answers start and end in 1/400 cycle. -/
def Dev.rowWrite (d : Dev) (i l : Nat) : Nat × Nat × Dev :=
  let s := max (d.cycle * 400) (d.sl i).wrEnd
  (s, s + 3 * l, d.updSl i (fun x => { x with wrEnd := s + 3 * l }))

/-- Whether a taken frame is kept at the MAC: its port's hold was sampled no later than the frame's MAC start (R99, R208). -/
def Dev.keptTx (d : Dev) (p : Nat) (t : Tx) : Bool :=
  !t.begun && (match (d.heldSt (d.holdKeyOf p)).since with
  | some c => decide (c ≤ t.start)
  | none => false)

/-- Whether a taken frame has started. -/
def Dev.started (d : Dev) (p : Nat) (t : Tx) : Bool := t.begun || (decide (t.start < d.cycle) && !d.keptTx p t)

/-- A leaf's packets that have been taken and have not started. -/
def Dev.unstarted (d : Dev) (q : Nat) : List QPkt :=
  (d.ports.map (fun y => (y.2.tx.filter (fun t => !t.probe && t.pkt.queue == q && !d.started y.1 t)).map (fun t => t.pkt))).flatten

/-- B_q (R234): packets that have not started. -/
def Dev.backlog (d : Dev) (p q : Nat) : Nat :=
  (((d.lq q).pkts ++ d.unstarted q).map (fun x => d.charge p x.data.length)).sum

/-- PKT space used by store packets in bytes (R241): those whose fetch has not ended before this cycle. -/
def Dev.storeUsed (d : Dev) : Nat :=
  ((d.queued.filter (fun x => x.dram && !(x.fetched && decide (x.fetchAt < d.cycle)))).map (fun x => cellsOf x.data.length * 64)).sum

/-- PKT space used by spilled frames (R262). -/
def Dev.spillUsed (d : Dev) : Nat :=
  ((d.team.dom.map (fun x => (x.2.held.filter (fun h => h.spill && !h.fetched)).map
    (fun h => cellsOf h.pkt.data.length * 64))).flatten).sum

/-- Free PKT space (R241). -/
def Dev.storeFree (d : Dev) : Nat := d.fget F.SDC_CARVE_PKT * 2 ^ 30 - d.storeUsed - d.spillUsed

/-! Losses (R38) -/

/-- The device frees the buffers of an injected packet that has been sent, refused or dropped (R360, R415). -/
def Dev.freeAll (d : Dev) (l : List Nat) : Dev := forAll l (fun d a => d.bufRelease a) d

/-- Removes packets of a leaf queue that pass a test, counting each in TMG_Q_DISCARD. -/
def Dev.discardIf (d : Dev) (q : Nat) (p : QPkt → Bool) : Dev :=
  let n := ((d.lq q).pkts.filter p).length
  if n = 0 then d
  else
    let gone := ((d.lq q).pkts.filter p)
    let d := (d.updLq q (fun l => { l with pkts := l.pkts.filter (fun x => !p x), head := none })).cnt F.TMG_Q_DISCARD_COUNT q n
    d.freeAll (gone.map (fun x => x.frees)).flatten

/-- Discards the admitted packets of a port that have not started (R38 item 2, R89). -/
def Dev.discardPort (d : Dev) (p : Nat) : Dev :=
  forAll (d.leaves p) (fun d q => d.discardIf q (fun x => x.port == p)) d

/-- Multicast packets whose copies in the column are all gone leave their cells (R202, R219). -/
def Dev.settleMc (d : Dev) : Dev :=
  let ended (m : McPkt) : Bool := m.taken && m.todo.isEmpty && m.residue.isEmpty && decide (d.copies m.id m.col = 0)
  let gone := d.tm.mcs.filter ended
  let d := { d with tm.mcs := d.tm.mcs.filter (fun m => !ended m) }
  d.freeAll ((gone.filter (fun m => !d.tm.mcs.any (fun n => n.id == m.id))).map (fun m => m.src.frees)).flatten.eraseDups

/-- Packets of a column's residue list. -/
def Dev.residues (d : Dev) (s : Nat) : List McPkt := d.tm.mcs.filter (fun m => m.col == s && !m.residue.isEmpty)

/-- Counts the cycles that a column's residue list has been full (R217). -/
def Dev.settleStall (d : Dev) (s : Nat) : Dev :=
  match (d.sl s).resFull with
  | none => d
  | some c =>
    if d.cycle ≤ c then d
    else (d.cnt F.XPF_RES_STALL_COUNT s (d.cycle - c)).updSl s (fun x => { x with resFull := some d.cycle })

/-- What a column's residue list shows once it has changed: its peak, and whether cycles count as full from here. -/
def Dev.showRes (d : Dev) (s : Nat) : Dev :=
  let d := d.settleStall s
  let n := (d.residues s).length
  let d := d.updSl s (fun x => { x with resFull := if 1024 ≤ n then some d.cycle else none })
  if d.fget F.XPF_RES_PEAK_COUNT s < n then d.fset F.XPF_RES_PEAK_COUNT s n else d

/-- Residue and unasked copies of a port that goes down or recovers are dropped at once (R218). -/
def Dev.mcPortDown (d : Dev) (p : Nat) : Dev :=
  let n := ((d.tm.mcs.filter (fun m => m.residue.contains p))).length
  let d := { d with tm.mcs := d.tm.mcs.map (fun (m : McPkt) => { m with residue := m.residue.erase p }) }
  if n = 0 then d.settleMc else ((d.cnt (F.XPF_MC_DOWN_DROP_COUNT.nth (p % 32)) (p / 32) n).showRes (p / 32)).settleMc

end Sys2Proof.Machine
end

