-- ==== Sys2Proof/Machine/Ntu.lean ====
section
/-! DEFINITION. Network time (ch 13): corrections, triggers, captures, 1PPS, timestamp records. -/

namespace Sys2Proof.Machine

/-- A 64-bit two's complement number. -/
def signed64 (v : Nat) : Int := if v < 2 ^ 63 then (v : Int) else (v : Int) - 2 ^ 64

/-- Holds a value for a requester's next read of a register (R10). -/
def Dev.holdFor (d : Dev) (q off : Nat) (v : Nat) : Dev :=
  { d with hold := Sparse.set none d.hold (regKey off q) (some (BitVec.ofNat 32 v)) }

/-! Corrections (R289 to R291) -/

/-- Notes what the NTU is before it steps or its increment changes; what no frame needs any more is forgotten. -/
def Dev.ntuMark (d : Dev) : Dev :=
  let waits := d.ports.any (fun y => y.2.tx.any (fun t => !t.begun))
  { d with ntu.marks := (d.cycle, (d.ntu.total, d.incr)) :: d.ntu.marks.filter (fun m => waits || decide (d.cycle < m.1 + keepCycles)) }

/-- The last second boundary of 1PPS_OUT at or before a time, as its second plus one; 0 before the first. -/
def Dev.ppsAt (d : Dev) (t : Nat) : Nat :=
  (t + instant 1 0 - d.fget F.NTU_PPS_OFFSET_NS * ntuNs) / instant 1 0

/-- Whether the pulse of a second has been emitted (R303). -/
def Dev.ppsDone (d : Dev) (s : Nat) : Bool := d.ntu.ppsSecs.any (fun r => decide (r.1 ≤ s) && decide (s ≤ r.2))

/-- A train under a step from one time to another (R300): a start that it passes begins in the next cycle, a pulse in progress notes
it. -/
def Train.step (x : Train) (armed : Bool) (old new next : Nat) : Train :=
  let x := if x.level then { x with stepped := true } else x
  if armed && decide (old < x.next) && decide (x.next ≤ new) then { x with skipped := true, soon := some next } else x

/-- Sets the NTU to a time: a step of it (R289, R290). Trains whose start and a 1PPS boundary that the step passes start
in the first cycle after it (R300, R303). (DEDUCED, log 118.) -/
def Dev.ntuStepTo (d : Dev) (new : Nat) : Dev :=
  let old := d.ntu.total
  let passed := d.fon F.NTU_PPS_CFG_OUT_EN && decide (d.ppsAt old < d.ppsAt new) && !d.ppsDone (d.ppsAt new - 1)
  let d := d.ntuMark
  let d := { d with
    ntu := { d.ntu with
      total := new
      steps := d.ntu.steps + ((new : Int) - (old : Int))
      ppsDue := if passed then some (d.cycle + 1) else d.ntu.ppsDue
      ppsStepped := d.ntu.ppsStepped || d.ntu.ppsLevel
      trains := d.ntu.trains.map (fun (e : Nat × Train) =>
        (e.1, e.2.step (d.fon F.NTU_TRIG_STATUS_ARMED e.1) old new (d.cycle + 1))) } }
  (d.followNtu.cnt F.NTU_STEP_CNT_COUNT).fset F.NTU_STATUS_STEPPED 0 1

/-- The correction that NTU_ADJ holds, in 2^-16 ns. (DESIGN CHOICE, log 102.) -/
def Dev.ntuAdj (d : Dev) : Int :=
  signed64 (d.fget F.NTU_ADJ_LO_ADJ + d.fget F.NTU_ADJ_HI_ADJ * 2 ^ 32)

/-- Applies a signed step in 2^-16 ns; time does not go below zero. -/
def Dev.ntuApply (d : Dev) (adj : Int) : Dev := d.ntuStepTo ((d.ntu.total : Int) + adj * 2 ^ 24).toNat

/-- Whether the NTU has taken a correction, a FORCE_STEP or a SET in this cycle: it takes no other (R291). -/
def Dev.adjTaken (d : Dev) : Bool := d.ntu.adjAt == some d.cycle

/-- Takes a correction of this cycle. -/
def Dev.adjTake (d : Dev) : Dev := { d with ntu.adjAt := some d.cycle }

/-- NTU_CORRECTION (R289): the step that NTU_ADJ holds is applied, or refused against JUMP_LIMIT. -/
def ntuCorrection (d : Dev) : Dev :=
  let d := d.adjTake
  if d.ntuAdj.natAbs ≤ d.fget F.NTU_JUMP_LIMIT_NS * 65536 then
    (d.ntuApply d.ntuAdj).fset F.NTU_STATUS_PENDING 0 0
  else
    let d := (d.fset F.NTU_STATUS_JUMP_REFUSED 0 1).fset F.NTU_STATUS_PENDING 0 1
    (d.cnt F.NTU_REFUSED_CNT_COUNT).alarm 6 F.NTU_STATUS_JUMP_REFUSED

/-- NTU_FORCE_STEP (R290, R291): the pending correction is applied whatever its size; without one, or after another correction of the
cycle, the write is counted. -/
def ntuForceStep (d : Dev) : Dev :=
  if d.fon F.NTU_STATUS_PENDING && !d.adjTaken then (d.adjTake.ntuApply d.ntuAdj).fset F.NTU_STATUS_PENDING 0 0
  else d.cnt F.NTU_ADJ_IGNORED_COUNT

/-- NTU_SET (R290): loads the NTU with a fraction of zero. -/
def ntuSet (d : Dev) : Dev :=
  if d.adjTaken then d.cnt F.NTU_ADJ_IGNORED_COUNT
  else
    let d := d.adjTake.ntuStepTo (instant (d.fget F.NTU_SET_SEC_LO_SEC + d.fget F.NTU_SET_SEC_HI_SEC * 2 ^ 32)
      (d.fget F.NTU_SET_NS_NS))
    (d.fset F.NTU_STATUS_PENDING 0 0).fset F.NTU_STATUS_TIME_SET 0 1

/-- Notes an ARM of this cycle: a correction that reaches the device in it takes effect first (R291). Kinds: 0 a trigger output, 1 a
calendar switch, 2 a rate change, 3 a rule-set swap; `off` is the status register of the element. -/
def Dev.noteArm (d : Dev) (kind i off : Nat) : Dev :=
  let old := if d.ntu.armsAt = d.cycle then d.ntu.arms else []
  { d with ntu := { d.ntu with armsAt := d.cycle, arms := old ++ [(kind, (i, d.rget off i))] } }

/-- NTU_NOW_READ (R288): the nanoseconds, with seconds and fraction of the same cycle held for the requester. -/
def ntuNowRead (q : Nat) (d : Dev) : Word × Dev :=
  let d' := ((d.holdFor q R.NTU_NOW_SEC_LO d.ntuSec).holdFor q R.NTU_NOW_SEC_HI (d.ntuSec / 2 ^ 32 % 65536)).holdFor q
    R.NTU_NOW_FRAC d.ntuFrac
  (BitVec.ofNat 32 d.ntuNsec, d')

/-! Trigger outputs (R299, R300) -/

/-- A pulse train. -/
def Dev.train (d : Dev) (n : Nat) : Train := at0 d.ntu.trains n

/-- Changes a pulse train. -/
def Dev.updTrain (d : Dev) (n : Nat) (f : Train → Train) : Dev := { d with ntu.trains := upd0 d.ntu.trains n f }

/-- Shows a train's next start in NTU_TRIG_NEXT_NS. -/
def Dev.showNext (d : Dev) (n : Nat) : Dev :=
  d.fset F.NTU_TRIG_NEXT_NS_NS n ((d.train n).next / ntuNs % 1000000000)

/-- The first start + k × period after a time, all in 2^-40 ns. -/
def nextStart (start period now : Nat) : Nat :=
  if now < start ∨ period = 0 then start else start + ((now - start) / period + 1) * period

/-- TRIG_ARM (R300): a start that has passed sets LATE; a single pulse then starts in the next cycle, a periodic train at its
next start. -/
def trigArm (n : Nat) (d : Dev) : Dev :=
  let d := d.noteArm 0 n R.NTU_TRIG_STATUS
  let start := instant (d.fget F.NTU_TRIG_START_SEC_LO_SEC n + d.fget F.NTU_TRIG_START_SEC_HI_SEC n * 2 ^ 32)
    (d.fget F.NTU_TRIG_START_NS_NS n)
  let period := d.fget F.NTU_TRIG_PERIOD_NS n * ntuNs
  let late := decide (start ≤ d.ntu.total)
  let once := late && period == 0
  let next := if once then d.ntu.total else if late then nextStart start period d.ntu.total else start
  let d := d.updTrain n (fun x =>
    { x with next := next, made := 0, skipped := false, soon := if once then some (d.cycle + 1) else none })
  let d := d.fset F.NTU_TRIG_STATUS_ARMED n 1
  let d := if late then d.fset F.NTU_TRIG_STATUS_LATE n 1 else d
  d.showNext n

/-- TRIG_CANCEL (R300): a pulse in progress finishes, no further one starts. -/
def trigCancel (n : Nat) (d : Dev) : Dev := d.fset F.NTU_TRIG_STATUS_ARMED n 0

/-- TRIG_PULSE_START (R299, R300): at the start instant the output asserts; a start that had passed at ARM or that a step passed has its
full width from the cycle after. One that a step passed sets SKIPPED, and the train goes on from its next start in the new time. -/
def trigPulseStart (n : Nat) (d : Dev) : Dev :=
  let x := d.train n
  if !d.fon F.NTU_TRIG_STATUS_ARMED n || x.level then d
  else
    let d := d.toCycle (x.soon.getD (d.actAt x.next))
    let width := d.fget F.NTU_TRIG_WIDTH_NS n * ntuNs
    let period := d.fget F.NTU_TRIG_PERIOD_NS n * ntuNs
    let next := if x.skipped then nextStart x.next period d.ntu.total else x.next + period
    let to_ := if x.soon.isSome then d.ntu.total + width else x.next + width
    let d := if x.skipped then d.fset F.NTU_TRIG_STATUS_SKIPPED n 1 else d
    let d := d.updTrain n (fun x => { x with
      level := true, made := x.made + 1, fromCycle := d.cycle, pulseTo := to_, next := next, stepped := false, skipped := false, soon := none })
    d.showNext n

/-- The cycle in which a pulse ends: at its planned NTU instant; where a step came in it, no earlier than 1 ns after it began and no
later than its width after that (R300). -/
def Dev.pulseEnd (d : Dev) (to_ began width : Nat) (stepped : Bool) : Nat :=
  if stepped then max (began + 3) (min (d.actAt to_) (began + width)) else d.actAt to_

/-- TRIG_PULSE_END (R299, R300): the train is done at its count. -/
def trigPulseEnd (n : Nat) (d : Dev) : Dev :=
  let x := d.train n
  if !x.level then d
  else
    let d := d.toCycle (d.pulseEnd x.pulseTo x.fromCycle (cyclesOfNs (d.fget F.NTU_TRIG_WIDTH_NS n)) x.stepped)
    let d := d.updTrain n (fun x => { x with level := false })
    let count := d.fget F.NTU_TRIG_COUNT_COUNT n
    let finished := !d.fon F.NTU_TRIG_PERIOD_NS n || (count != 0 && decide (count ≤ x.made))
    if finished && d.fon F.NTU_TRIG_STATUS_ARMED n then
      (d.fset F.NTU_TRIG_STATUS_ARMED n 0).fset F.NTU_TRIG_STATUS_DONE n 1
    else d

/-- Whether output n is asserted: by its train, or by a rate-change pulse that names it (R278, R300; NTU_TRIG_STATUS.LEVEL). (DEDUCED, log 154.) -/
def Dev.trigOn (d : Dev) (n : Nat) : Bool :=
  (d.train n).level || d.cars.any (fun e => match e.2.pulse with | some (o, _) => o == n | none => false)

/-- The level of pin TRIG[n]: low while RESET_N is, else asserted or not after the output's polarity (R300, Table 03-5). (DEDUCED, log
154.) -/
def Dev.trigPin (d : Dev) (n : Nat) : Bool := !d.life.low && (d.trigOn n != d.fon F.NTU_TRIG_CFG_POL n)

/-! Timestamp records (R297, Table 13-2) -/

/-- A timestamp record; `stamp` is NTU time in 2^-16 ns. -/
def tsRecord (source tag kind : Nat) (edge : Bool) (stamp : Nat) : List Byte :=
  toLe 2 source ++ toLe 2 tag ++ toLe 1 (kind + 4 * b2n edge) ++ toLe 3 0 ++
  toLe 6 (stamp / 65536 / 1000000000) ++ toLe 4 (stamp / 65536 % 1000000000) ++ toLe 2 (stamp % 65536) ++ toLe 12 0

/-- A record goes to Stable as a timestamp task, or to the host timestamp ring; one that cannot be taken counts in
NTU_TS_DROP (R297). -/
def Dev.tsWrite (d : Dev) (recd : List Byte) : Dev :=
  if d.fon F.NTU_TS_CFG_DEST then
    if d.ringFull 5 (d.stream 5).length then d.cnt F.NTU_TS_DROP_COUNT else d.addStream 5 recd
  else
    let f := F.NTU_TS_DROP_COUNT
    { d with stb.posts := d.stb.posts ++ [{ (default : Post) with
        kind := 7, owner := 528, body := recd, failCnt := some (f.off, f.lo, f.w, 0) }] }

/-! Captures (R301, R302) -/

/-- CAPTURE_EDGE (R301): a selected edge is stamped; one within 8 ns of the previous captured edge is merged; a full FIFO
loses it. `offset` is the edge's place in the cycle in 2^-16 ns, from the surroundings. (DESIGN CHOICE, log 120.) -/
def captureEdge (n : Nat) (rising : Bool) (offset : Nat) (d : Dev) : Dev :=
  let x : CapIn := at0 d.ntu.caps n
  if !bit (d.fget F.NTU_CAP_CFG_EDGE n) (if rising then 0 else 1) then d
  else if (match x.last with | some c => decide (d.cycle < c + 24) | none => false) then d.cnt F.NTU_CAP_OVERRUN_COUNT n
  else
    let stamp := d.ntu.total / 2 ^ 24 + offset
    let d := { d with ntu.caps := upd0 d.ntu.caps n (fun (x : CapIn) => { x with last := some d.cycle, count := x.count + 1 }) }
    if 16 ≤ x.fifo.length then d.cnt F.NTU_CAP_LOST_COUNT n
    else
      let d := { d with ntu.caps := upd0 d.ntu.caps n (fun (x : CapIn) => { x with fifo := x.fifo ++ [(Capture.mk stamp rising)] }) }
      if d.fon F.NTU_CAP_CFG_EVT_EN n then d.tsWrite (tsRecord n ((x.count + 1) % 65536) 2 rising stamp) else d

/-- CAPTURE_READ (R302): takes the oldest capture; its other fields are held for the requester. -/
def captureRead (q n : Nat) (d : Dev) : Word × Dev :=
  let x : CapIn := at0 d.ntu.caps n
  match x.fifo with
  | [] => (0, d)
  | c :: rest =>
    let d := { d with ntu.caps := upd0 d.ntu.caps n (fun (x : CapIn) => { x with fifo := rest }) }
    let sec := c.stamp / 65536 / 1000000000
    let d := ((d.holdFor q R.NTU_CAP_SEC_LO sec).holdFor q R.NTU_CAP_SEC_HI (sec / 2 ^ 32 % 65536)).holdFor q
      R.NTU_CAP_FRAC (c.stamp % 65536 + 65536 * b2n c.rising)
    (BitVec.ofNat 32 (c.stamp / 65536 % 1000000000 + 2 ^ 31), d)

/-! 1PPS_OUT (R303) -/

/-- The first second from s on whose pulse has not been emitted. -/
def Dev.ppsFree (d : Dev) (s : Nat) : Nat :=
  d.ntu.ppsSecs.foldl (fun s _ => match d.ntu.ppsSecs.find? (fun r => decide (r.1 ≤ s) && decide (s ≤ r.2)) with
    | some r => r.2 + 1
    | none => s) s

/-- The second whose pulse comes next: the one that a step has just passed, else the next one not emitted. -/
def Dev.ppsNext (d : Dev) : Nat :=
  if d.ntu.ppsDue.isSome then d.ppsAt d.ntu.total - 1 else d.ppsFree (d.ppsAt (d.ntu.total - 1))

/-- Notes a second whose pulse has been emitted. -/
def NtuSt.emit (x : NtuSt) (s : Nat) : NtuSt :=
  if x.ppsSecs.any (fun r => r.2 + 1 == s) then
    { x with ppsSecs := x.ppsSecs.map (fun (r : Nat × Nat) => if r.2 + 1 = s then (r.1, s) else r) }
  else { x with ppsSecs := x.ppsSecs ++ [(s, s)] }

/-- PPS_PULSE_START (R303): at the second boundary plus the offset, or in the first cycle after a step passed it. -/
def ppsPulseStart (d : Dev) : Dev :=
  if !d.fon F.NTU_PPS_CFG_OUT_EN || d.ntu.ppsLevel then d
  else
    let s := d.ppsNext
    let at_ := instant s (d.fget F.NTU_PPS_OFFSET_NS)
    let late := d.ntu.ppsDue.isSome
    let d := d.toCycle (d.ntu.ppsDue.getD (d.actAt at_))
    let width := d.fget F.NTU_PPS_CFG_WIDTH_US * 1000 * ntuNs
    { d with ntu := { d.ntu.emit s with
        ppsLevel := true, ppsDue := none, ppsStepped := false, ppsFrom := d.cycle
        ppsEnd := (if late then d.ntu.total else at_) + width } }

/-- PPS_PULSE_END (R303): WIDTH_US after its start, on the edge of NTU that R299 gives; a step in the pulse as in R300. (DEDUCED, log
155.) -/
def ppsPulseEnd (d : Dev) : Dev :=
  if !d.ntu.ppsLevel then d
  else
    let d := d.toCycle (d.pulseEnd d.ntu.ppsEnd d.ntu.ppsFrom (d.fget F.NTU_PPS_CFG_WIDTH_US * 3000) d.ntu.ppsStepped)
    { d with ntu.ppsLevel := false }

end Sys2Proof.Machine
end

