-- ==== Sys2Proof/Machine/Parser.lean ====
section
/-! DEFINITION. The header parser (ch 05): the walk of R112 over Table 05-1, and the parse result of Table 05-4. -/

namespace Sys2Proof.Machine

/-- The parser's settings of a slice (Table 05-6) with the team EtherType, and the pass (R23); `shim` tells that a team shim can stand in
the frame: its ingress port is no team member (R108). -/
structure PCfg where
  en : Nat
  maxHdrs : Nat
  maxBytes : Nat
  alt : Nat
  vxlan : Nat
  geneve : Nat
  team : Nat
  shim : Bool
  pass : Nat
  deriving DecidableEq, Repr

/-- Headers of Table 05-1. `mpls` carries the EtherType that led to it, `ext` its type. -/
inductive Hdr where
  | eth | tag (k : Nat) | mpls | ip4 | ip6 | ext (nh : Nat) | udp | tcp | vxlan | geneve | gre
  | ptp (event : Option Bool) | shim | esp | macsec
  deriving DecidableEq, Repr

/-- The walk of R112: offset, layer, bound, the number that selected the header, the result so far. -/
structure Walk where
  off : Nat
  inner : Bool
  bound : Nat
  proto : Nat
  r : PRes

/-- Flag bits of Table 05-4. -/
def flagIp4Opt : Nat := 0
def flagFragNon : Nat := 1
def flagFragFirst : Nat := 2
def flagInnerFrag : Nat := 3
def flagSrh : Nat := 4
def flagHbh : Nat := 5
def flagPtpEvent : Nat := 6
def flagPtpGeneral : Nat := 7
def flagSci : Nat := 8
def flagTrailing : Nat := 9
def flagUnknown : Nat := 10
def flagDisabled : Nat := 11

/-- Sets a flag. -/
def PRes.flag (r : PRes) (n : Nat) (c : Bool := true) : PRes :=
  if c && !bit r.flags n then { r with flags := r.flags + 2 ^ n } else r

/-- Byte at an offset of a frame. -/
def fb (p : List Byte) (o : Nat) : Nat := (p.getD o 0).toNat

/-- Two bytes in network order. -/
def f16 (p : List Byte) (o : Nat) : Nat := 256 * fb p o + fb p (o + 1)

/-- Four bytes in network order. -/
def f32 (p : List Byte) (o : Nat) : Nat := 65536 * f16 p o + f16 p (o + 2)

/-- Enable bit of a header in SLC_PARSE_EN; 32 where it has none. -/
def Hdr.enBit : Hdr → Nat
  | .eth => 32
  | .tag k => k
  | .mpls => 3
  | .ip4 => 4
  | .ip6 => 5
  | .ext _ => 6
  | .udp => 8
  | .tcp => 9
  | .vxlan => 10
  | .geneve => 11
  | .gre => 12
  | .ptp _ => 13
  | .shim => 14
  | .esp => 15
  | .macsec => 16

/-- Whether a header is enabled: its bit, and past a tunnel header also INNER (R106, R107). -/
def Hdr.enabled (h : Hdr) (c : PCfg) (inner : Bool) : Bool :=
  (h.enBit == 32 || bit c.en h.enBit) && (!inner || bit c.en 17)

/-- Whether a routing extension is an SRH (Table 05-1, SLC_PARSE_EN.SRH). -/
def isSrh (c : PCfg) (p : List Byte) (off nh : Nat) : Bool := nh == 43 && fb p (off + 2) == 4 && bit c.en 7

/-- The fixed part of a header. -/
def Hdr.fixed : Hdr → Nat
  | .eth => 14
  | .tag _ => 4
  | .mpls => 4
  | .ip4 => 20
  | .ip6 => 40
  | .ext _ => 8
  | .udp => 8
  | .tcp => 20
  | .vxlan => 8
  | .geneve => 8
  | .gre => 4
  | .ptp _ => 34
  | .shim => 14
  | .esp => 8
  | .macsec => 8

/-- The length of a header under Table 05-1, at least its fixed part; the fixed part where its length field lies
past the bound (R112). (DEDUCED, log 70.) -/
def Hdr.length (h : Hdr) (p : List Byte) (off bound : Nat) : Nat :=
  let field (at_ n : Nat) : Nat := if bound ≤ off + at_ then h.fixed else n
  match h with
  | .ip4 => field 0 (max 20 (fb p off % 16 * 4))
  | .ext nh => if nh = 44 then 8 else field 1 ((fb p (off + 1) + 1) * 8)
  | .tcp => field 12 (max 20 (fb p (off + 12) / 16 * 4))
  | .geneve => field 0 (8 + fb p off % 64 * 4)
  | .gre => field 0 (4 + 4 * (b2n (bit (fb p off) 7) + b2n (bit (fb p off) 5) + b2n (bit (fb p off) 4)))
  | .macsec => field 0 (if bit (fb p off) 5 then 16 else 8)
  | _ => h.fixed

/-- The limit of Table 05-2 that a header breaks by its kind, codes 3 to 6. -/
def Hdr.kindLimit (h : Hdr) (w : Walk) : Option Nat :=
  match h with
  | .tag _ => if (if w.inner then w.r.iTags else w.r.oTags) ≥ 3 then some 3 else none
  | .mpls => if w.r.labels ≥ 8 then some 4 else none
  | .ext _ => if (if w.inner then w.r.iExt else w.r.oExt) ≥ 4 then some 5 else none
  | .vxlan => if w.inner then some 6 else none
  | .geneve => if w.inner then some 6 else none
  | .gre => if w.inner then some 6 else none
  | _ => none

/-- The length fields of a header against Table 05-3, codes 2 to 9. -/
def Hdr.lengthBad (h : Hdr) (c : PCfg) (p : List Byte) (off len bound : Nat) : Option Nat :=
  match h with
  | .ip4 =>
    if fb p off % 16 < 5 then some 2
    else if f16 p (off + 2) < len ∨ bound < off + f16 p (off + 2) then some 3 else none
  | .ip6 => if f16 p (off + 4) = 0 ∨ bound < off + 40 + f16 p (off + 4) then some 4 else none
  | .ext nh =>
    if bound < off + len then some 5
    else if isSrh c p off nh ∧ fb p (off + 4) + 1 > fb p (off + 1) / 2 then some 6 else none
  | .udp => if f16 p (off + 4) < 8 ∨ bound < off + f16 p (off + 4) then some 7 else none
  | .tcp => if fb p (off + 12) / 16 < 5 then some 8 else none
  | .geneve => if bound < off + len then some 9 else none
  | _ => none

/-- Records SPECIAL_TYPE with its fields, unless a shim is recorded: its fields stay (R119). -/
def PRes.setSpecial (r : PRes) (typ o v : Nat) : PRes :=
  if r.special = 4 then r else { r with special := typ, offSpecial := some o, special0 := v }

/-- Records a header that passed its checks (R105, R111, R118, R119). (DEDUCED, log 71.) -/
def Hdr.record (h : Hdr) (c : PCfg) (p : List Byte) (w : Walk) (len : Nat) : Walk :=
  let o := w.off
  let r : PRes := { w.r with hdrs := w.r.hdrs + 1, endOff := o + len }
  let w : Walk := { w with off := o + len }
  match h with
  | .eth => { w with r := if w.inner then { r with offIL2 := some o } else r }
  | .tag _ =>
    { w with r := if w.inner then { r with iTags := r.iTags + 1 }
                  else { r with oTags := r.oTags + 1, offTags := r.offTags.or (some o) } }
  | .mpls => { w with r := { r with labels := r.labels + 1, offMpls := r.offMpls.or (some o) } }
  | .ip4 =>
    let e := o + f16 p (o + 2)
    let fr := f16 p (o + 6)
    let r := (r.flag flagTrailing (decide (e < w.bound))).flag flagIp4Opt (decide (len > 20))
    let r := (r.flag (if w.inner then flagInnerFrag else flagFragNon) (fr % 8192 != 0)).flag flagFragFirst
      (!w.inner && fr % 8192 == 0 && bit fr 13)
    { w with bound := e, r := if w.inner then { r with iL3 := 1, offIL3 := some o } else { r with oL3 := 1, offL3 := some o } }
  | .ip6 =>
    let e := o + 40 + f16 p (o + 4)
    let r := r.flag flagTrailing (decide (e < w.bound))
    { w with bound := e, r := if w.inner then { r with iL3 := 2, offIL3 := some o } else { r with oL3 := 2, offL3 := some o } }
  | .ext nh =>
    let r := if w.inner then { r with iExt := r.iExt + 1 } else { r with oExt := r.oExt + 1 }
    let fr := f16 p (o + 2)
    let r := r.flag flagHbh (nh == 0)
    let r := (r.flag (if w.inner then flagInnerFrag else flagFragNon) (nh == 44 && fr / 8 != 0)).flag flagFragFirst
      (nh == 44 && !w.inner && fr / 8 == 0 && bit fr 0)
    { w with r := if isSrh c p o nh then { r.flag flagSrh with
        special1 := if r.special = 4 then r.special1 else fb p (o + 3) + 256 * fb p (o + 4) } else r }
  | .udp => { w with r := if w.inner then { r with iL4 := 1, offIL4 := some o } else { r with oL4 := 1, offL4 := some o } }
  | .tcp => { w with r := if w.inner then { r with iL4 := 2, offIL4 := some o } else { r with oL4 := 2, offL4 := some o } }
  | .vxlan => { w with inner := true, r := { r with tunnel := 1, offTunnel := some o } }
  | .geneve => { w with inner := true, r := { r with tunnel := 2, offTunnel := some o } }
  | .gre => { w with inner := true, r := { r with tunnel := 3, offTunnel := some o } }
  | .ptp ev =>
    let isEv := ev.getD (decide (fb p o % 16 < 8))
    { w with r := (r.flag (if isEv then flagPtpEvent else flagPtpGeneral)).setSpecial 1 o (fb p o % 16 + 256 * fb p (o + 4)) }
  | .shim =>
    { w with r := { r with special := 4, offSpecial := some o, shimTeam := fb p (o + 1) % 32,
                           special1 := f16 p (o + 4) % 4096, special0 := f32 p (o + 6) } }
  | .esp => { w with r := r.setSpecial 2 o (f32 p o) }
  | .macsec =>
    { w with r := (r.flag flagSci (bit (fb p o) 5)).setSpecial 3 o (fb p o) }

/-- Whether a selected header's version nibble is as Table 05-1 asks; a nibble past the bound is left to TRUNC. -/
def verOk (p : List Byte) (w : Walk) (v : Nat) : Bool := decide (w.bound ≤ w.off) || fb p w.off / 16 == v

/-- The header that an EtherType selects (R105 to R108). Fixed EtherTypes come first; of an alternate tag and a team shim with one value
the tag (DESIGN CHOICE, log 144). -/
def byEtype (c : PCfg) (p : List Byte) (w : Walk) (t : Nat) : Option Hdr :=
  if t = 0x8100 then some (.tag 0)
  else if t = 0x88A8 then some (.tag 1)
  else if t = 0x8847 ∨ t = 0x8848 then (if w.inner then none else some .mpls)
  else if t = 0x0800 then (if verOk p w 4 then some .ip4 else none)
  else if t = 0x86DD then (if verOk p w 6 then some .ip6 else none)
  else if t = 0x88F7 then some (.ptp none)
  else if t = 0x88E5 then (if w.inner then none else some .macsec)
  else if t < 0x0600 then none
  else if t = c.alt then some (.tag 2)
  else if t = c.team then
    (if w.inner || !c.shim then none else if decide (w.bound ≤ w.off) || fb p w.off / 16 == 1 then some .shim else none)
  else none

/-- The header that an IP protocol or next header number selects. -/
def byProto (p : List Byte) (w : Walk) (v6 : Bool) (n : Nat) : Option Hdr :=
  if n = 17 then some .udp
  else if n = 6 then some .tcp
  else if n = 50 then some .esp
  else if n = 47 then (if decide (w.bound ≤ w.off) || fb p (w.off + 1) % 8 == 0 then some .gre else none)
  else if v6 ∧ (n = 0 ∨ n = 43 ∨ n = 44 ∨ n = 60) then some (.ext n)
  else none

/-- A tunnel's protocol type selects the inner layer's first header (Table 05-1). -/
def byTunnel (p : List Byte) (w : Walk) (t : Nat) : Option Hdr :=
  if t = 0x6558 then some .eth
  else if t = 0x0800 then (if verOk p w 4 then some .ip4 else none)
  else if t = 0x86DD then (if verOk p w 6 then some .ip6 else none)
  else none

/-- The header after a recorded one that began at `o`, the walk standing behind it, and the number that selects it;
`none` ends the walk. -/
def Hdr.next (h : Hdr) (c : PCfg) (p : List Byte) (o : Nat) (w : Walk) : Option Hdr × Nat × Nat :=
  match h with
  | .eth => (byEtype c p w (f16 p (o + 12)), f16 p (o + 12), w.off)
  | .tag _ => (byEtype c p w (f16 p (o + 2)), f16 p (o + 2), w.off)
  | .mpls =>
    if bit (fb p (o + 2)) 0 then
      (if w.bound ≤ w.off then none
       else if fb p w.off / 16 = 4 then some .ip4
       else if fb p w.off / 16 = 6 then some .ip6 else none, w.proto, w.off)
    else (some .mpls, w.proto, w.off)
  | .ip4 =>
    (if f16 p (o + 6) % 8192 ≠ 0 then none else byProto p w false (fb p (o + 9)), fb p (o + 9), w.off)
  | .ip6 => (byProto p w true (fb p (o + 6)), fb p (o + 6), w.off)
  | .ext nh =>
    (if nh = 44 ∧ f16 p (o + 2) / 8 ≠ 0 then none else byProto p w true (fb p o), fb p o, w.off)
  | .udp =>
    let port := f16 p (o + 2)
    (if port = 319 then some (.ptp (some true))
     else if port = 320 then some (.ptp (some false))
     else if port = c.vxlan then some .vxlan
     else if port = c.geneve then (if decide (w.bound ≤ w.off) || fb p w.off / 64 == 0 then some .geneve else none)
     else none, w.proto, w.off)
  | .vxlan => (some .eth, w.proto, w.off)
  | .geneve => (byTunnel p w (f16 p (o + 2)), f16 p (o + 2), w.off)
  | .gre => (byTunnel p w (f16 p (o + 2)), f16 p (o + 2), w.off)
  | .shim =>
    let w' : Walk := { w with off := w.off + 2 }
    (byEtype c p w' (f16 p w.off), f16 p w.off, w.off + 2)
  | _ => (none, w.proto, w.off)

/-- A walk that fails. -/
def Walk.fail (w : Walk) (result reason : Nat) : PRes :=
  { w.r with result := result, reason := reason, failInner := w.inner, failOff := w.off }

/-- A walk that stops: the stop and the number that ended it (R106). -/
def Walk.stop (w : Walk) (flag : Nat) : PRes := { w.r.flag flag with nextProto := w.proto }

/-- The loop of R112; `fuel` bounds its at most 17 headers. (DEDUCED, log 69.) NEXT_PROTO is 0 for an EtherType below 0x0600, also after a
shim, and keeps a tunnel's protocol type (DEDUCED, log 143). -/
def walkFrom (c : PCfg) (p : List Byte) : Nat → Hdr → Walk → PRes
  | 0, _, w => w.stop flagUnknown
  | fuel + 1, h, w =>
    if !h.enabled c w.inner then w.stop flagDisabled
    else if w.r.hdrs + 1 > c.maxHdrs then w.fail 2 1
    else
      match h.kindLimit w with
      | some k => w.fail 2 k
      | none =>
        let len := h.length p w.off w.bound
        if w.off + len > c.maxBytes * 8 then w.fail 2 2
        else if w.off + len > w.bound then w.fail 1 1
        else
          match h.lengthBad c p w.off len w.bound with
          | some k => w.fail 1 k
          | none =>
            let w' := h.record c p w len
            match h.next c p w.off w' with
            | (none, pr, _) =>
              let et := match h with | .eth => true | .tag _ => true | .shim => true | _ => false
              { w' with proto := if et && decide (pr < 0x0600) then 0 else pr }.stop flagUnknown
            | (some h', pr, o') => walkFrom c p fuel h' { w' with proto := pr, off := o' }

/-- The parse of a frame without its FCS (R104, R112). PASS of a third pass reads 3 (DEDUCED, log 110). -/
def parse (c : PCfg) (p : List Byte) : PRes :=
  let w : Walk := ⟨0, false, p.length, 0, { pass := c.pass, len := p.length }⟩
  if c.pass > 2 then w.fail 2 7 else walkFrom c p 40 .eth w

/-- An offset field: 0xFFFF where absent (R118). -/
def offBytes (o : Option Nat) : List Byte := toLe 2 (o.getD 0xFFFF)

/-- Byte 0 of the parse result. -/
def PRes.status (r : PRes) : Nat := r.result + 4 * r.reason + 128 * b2n r.failInner

/-- The 40 bytes of the parse result (Table 05-4). -/
def PRes.bytes (r : PRes) : List Byte :=
  toLe 1 r.status ++ toLe 1 (r.hdrs % 32 + 32 * (r.pass % 4)) ++ toLe 2 r.endOff ++ toLe 2 r.len ++ toLe 2 r.flags ++
  toLe 1 (r.oTags + 4 * r.iTags + 16 * r.labels) ++ toLe 1 (r.oExt + 8 * r.iExt) ++ toLe 1 (r.oL3 + 16 * r.iL3) ++
  toLe 1 (r.oL4 + 16 * r.iL4) ++ toLe 1 (r.tunnel + 16 * r.special) ++ toLe 1 r.shimTeam ++ offBytes r.offTags ++
  offBytes r.offMpls ++ offBytes r.offL3 ++ offBytes r.offL4 ++ offBytes r.offTunnel ++ offBytes r.offIL2 ++
  offBytes r.offIL3 ++ offBytes r.offIL4 ++ offBytes r.offSpecial ++ toLe 4 r.special0 ++ toLe 2 r.special1 ++
  toLe 2 r.nextProto

/-- The parser's settings of a slice for a frame of an ingress port (R108, R120). -/
def Dev.pcfg (d : Dev) (s pass : Nat) (member : Bool) : PCfg :=
  { en := (d.rget R.SLC_PARSE_EN s).toNat, maxHdrs := d.fget F.SLC_PARSE_LIMIT_MAX_HDRS s,
    maxBytes := d.fget F.SLC_PARSE_LIMIT_MAX_BYTES s, alt := d.fget F.SLC_TPID_ALT_TPID s,
    vxlan := d.fget F.SLC_UDP_PORTS_VXLAN s, geneve := d.fget F.SLC_UDP_PORTS_GENEVE s,
    team := d.fget F.TEM_ETYPE_ETYPE, shim := !member, pass := pass }

end Sys2Proof.Machine
end

