-- ==== Sys2Proof/Machine/Classifier.lean ====
section
/-! DEFINITION. The decision-tree classifier (ch 06): key, walk, banks, swaps, epochs, updates of the active bank. -/

namespace Sys2Proof.Machine

/-! Banks (R125) -/

/-- Address of a slice's classifier memory in its space: 1 MiB of banks, then the counters. -/
def clsBase (s : Nat) : Nat := s * 0x200000

def Dev.share0 (d : Dev) (s : Nat) : Nat := d.fget F.CLS_BANK_SIZE_SHARE0 s * 65536

/-- Address and size of a bank. -/
def Dev.bankAt (d : Dev) (s b : Nat) : Nat := clsBase s + (if b = 0 then 0 else d.share0 s)
def Dev.bankSize (d : Dev) (s b : Nat) : Nat := if b = 0 then d.share0 s else 0x100000 - d.share0 s

/-- Bank states (Table 06-7). -/
def bkEmpty : Nat := 0
def bkLoading : Nat := 1
def bkSealed : Nat := 2
def bkActive : Nat := 3
def bkDraining : Nat := 4
def bkIdle : Nat := 5

def bankFld (b : Nat) : Fld := if b = 0 then F.CLS_STATE_BANK0 else F.CLS_STATE_BANK1
def Dev.bankSt (d : Dev) (s b : Nat) : Nat := d.fget (bankFld b) s
def Dev.setBank (d : Dev) (s b v : Nat) : Dev := d.fset (bankFld b) s v
def Dev.activeBank (d : Dev) (s : Nat) : Nat := d.fget F.CLS_STATE_ACTIVE_BANK s

/-- The staged bank (R130); bank 0 while no bank is active, as in an apply pass (R131). -/
def Dev.stagedBank (d : Dev) (s : Nat) : Nat :=
  if d.bankSt s (d.activeBank s) = bkActive then 1 - d.activeBank s else 0

/-- Packets that hold an epoch of a slice (R134). -/
def Dev.inflight (d : Dev) (s e : Nat) : Nat := if e = 0 then 0 else Sparse.get 0 d.epochs (s * 65536 + e)

/-! The key (R122, R123) -/

/-- Entry of the port configuration table (Table 08-8). -/
def Block.portCfg (b : Block) (p n : Nat) (k : Nat := 1) : Nat := b.mem.num .tabs (0x35C0000 + p * 16 + n) k

/-- The outer VLAN: the first tag's VLAN ID, or the port's PVID (R115, R174). -/
def Block.outerVlan (b : Block) (p : Pkt) : Nat :=
  match p.pr.offTags with
  | some o => f16 p.data o % 4096
  | none => b.portCfg p.port 0 2 % 4096

/-- Metadata bytes of Table 06-2. -/
def Block.metaBytes (b : Block) (p : Pkt) : List Byte :=
  toLe 1 (p.port % 32) ++ toLe 1 p.pass ++ toBe 2 (b.outerVlan p) ++ (p.pr.bytes.drop 10).take 3 ++ toLe 1 p.slice

/-- Where a BASE lies (Table 06-1). -/
def PRes.base (r : PRes) (n : Nat) : Option Nat :=
  match n with
  | 0 => some 0
  | 1 => r.offTags
  | 2 => r.offMpls
  | 3 => r.offL3
  | 4 => r.offL4
  | 5 => r.offTunnel
  | 6 => r.offIL2
  | 7 => r.offIL3
  | 8 => r.offIL4
  | 9 => r.offSpecial
  | 10 => r.offIL3.or r.offL3
  | 11 => r.offIL4.or r.offL4
  | _ => none

/-- Type of the innermost L3 header. -/
def PRes.innerL3 (r : PRes) : Nat := if r.offIL3.isSome then r.iL3 else r.oL3

/-- Bytes that a descriptor contributes, with their first key byte. A SRC 2 descriptor that runs past the 8 metadata bytes contributes
nothing (DESIGN CHOICE, log 145). -/
def extract (desc : Nat) (p : Pkt) (md : List Byte) : Option (Nat × List Byte) :=
  let src := desc % 4
  let n := bits desc 14 4 + 1
  let cond := bits desc 24 2
  if cond ≠ 0 ∧ p.pr.innerL3 ≠ cond then none
  else
    let from' : Option (List Byte) :=
      if src = 1 then
        match p.pr.base (bits desc 2 4) with
        | some o =>
          let a := o + bits desc 6 8
          if p.pr.len < a + n then none else some ((p.data.drop a).take n)
        | none => none
      else if src = 2 then
        let a := bits desc 6 8
        if 8 < a + n then none else some ((md.drop a).take n)
      else none
    from'.map (fun bs => (bits desc 18 6, bs))

/-- Writes bytes into a list from a place. -/
def putBytes (l : List Byte) (o : Nat) (bs : List Byte) : List Byte := (l.take o ++ bs ++ l.drop (o + bs.length)).take l.length

/-- The 48-byte key. -/
def Block.clsKey (b : Block) (p : Pkt) : List Byte :=
  let md := b.metaBytes p
  (List.range 16).foldl (fun k n =>
    match extract (b.dev.rget (R.CLS_KEY_EXT + 4 * n) p.slice).toNat p md with
    | some (o, bs) => putBytes k o bs
    | none => k) (List.replicate 48 0)

/-- `w` bits of the key from bit `o`, the first the most significant (R122, R126). -/
def keyBits (k : List Byte) (o w : Nat) : Nat :=
  (List.range w).foldl (fun v i => 2 * v + b2n (bit (k.getD ((o + i) / 8) 0).toNat (7 - (o + i) % 8))) 0

/-! The walk (R126, R127) -/

/-- How a walk ends: a leaf, a miss, a thirteenth node, or in a tree the spec calls unpredictable. -/
inductive WalkEnd where
  | leaf (rule act : Nat)
  | miss
  | deep
  | broken
  deriving DecidableEq, Repr

/-- The walk from a child reference, at most 12 nodes. -/
def Block.walk (b : Block) (base size : Nat) (key : List Byte) : Nat → Nat → WalkEnd
  | fuel, ref =>
    let kind := ref / 2 ^ 30
    if kind = 1 then .leaf (bits ref 12 18) (ref % 4096)
    else if kind = 2 then .miss
    else if kind = 3 then .broken
    else
      match fuel with
      | 0 => .deep
      | f + 1 =>
        let at' := bits ref 0 17 * 8
        let h := b.mem.num .cls (base + at') 4
        if size < at' + 8 then .broken
        else if h % 4 = 1 then
          let w := bits h 2 4
          let i := keyBits key (bits h 6 9) w
          if w = 0 ∨ 8 < w ∨ 384 < bits h 6 9 + w ∨ size < at' + 8 + 4 * 2 ^ w then .broken
          else b.walk base size key f (b.mem.num .cls (base + at' + 8 + 4 * i) 4)
        else if h % 4 = 2 then
          let n := bits h 2 3
          let fld := bits h 5 6
          let v := f16 key fld
          let i := ((List.range n).filter (fun k => decide (b.mem.num .cls (base + at' + 8 + 2 * k) 2 ≤ v))).length
          if n = 0 ∨ 46 < fld ∨ size < at' + 56 then .broken
          else b.walk base size key f (b.mem.num .cls (base + at' + 24 + 4 * i) 4)
        else .broken

/-- Index of the root (Table 06-4). -/
def rootIndex (r : PRes) : Nat := if r.tunnel ≠ 0 ∧ r.iL3 ≠ 0 then 3 else r.oL3

/-- An action record of a bank; null at or above ACTION_COUNT. -/
def Block.action (b : Block) (base i : Nat) : Nat :=
  if b.mem.num .cls (base + 20) 2 ≤ i then 0
  else b.mem.num .cls (base + (bits (b.mem.num .cls (base + 16) 4) 0 17 + 2 * i) * 8) 16

/-- Address of a classifier counter (R141). -/
def cntAt (s n : Nat) : Nat := clsBase s + 0x100000 + n * 16

/-- One classification of a packet in a bank (R121, R127 to R129, R139, R141). A walk through a tree that the spec calls
unpredictable ends in a free action record (DESIGN CHOICE, log 2). -/
def Block.classify (b : Block) (p : Pkt) (bank : Nat) : Pkt × Block :=
  let s := p.slice
  let base := b.dev.bankAt s bank
  let key := b.clsKey p
  let b := b.on (fun d =>
    (d.cnt F.CLS_CLASSIFIED_COUNT s).fset F.CLS_PKT_SEQ_SEQ s (d.fget F.CLS_PKT_SEQ_SEQ s + 1))
  let e := b.walk base (b.dev.bankSize s bank) key 12 (b.mem.num .cls (base + 4 * rootIndex p.pr) 4)
  let dflt := bits (b.mem.num .cls (base + 22) 2) 0 12
  let r : Nat × Nat × Bool × Block := match e with
    | .leaf rule a =>
      (b.action base a, rule, true,
        if b.mem.num .cls (base + 20) 2 ≤ a then b.on (fun d => d.cnt F.CLS_BAD_ACTION_COUNT s) else b)
    | .miss => (b.action base dflt, 0, false, b.on (fun d => d.cnt F.CLS_MISS_CNT_COUNT s))
    | .deep => (b.action base dflt, 0, false, b.on (fun d => (d.cnt F.CLS_DEPTH_ERR_COUNT s).cnt F.CLS_MISS_CNT_COUNT s))
    | .broken => let f := b.dev.fresh 128; (f.1, 0, false, { b with dev := f.2 })
  let b := r.2.2.2
  let b := if bit r.1 79 then
      let a := cntAt s (bits r.1 64 12)
      (b.store .cls a (toLe 8 (b.mem.num .cls a 8 + 1))).store .cls (a + 8) (toLe 8 (b.mem.num .cls (a + 8) 8 + p.pr.len))
    else b
  ({ p with act := r.1, rule := r.2.1, matched := r.2.2.1, key := key }, b)

/-! Fields of a copied action record (Table 06-6) -/

def Pkt.verdict (p : Pkt) : Nat := p.act % 4
def Pkt.clsEn (p : Pkt) : Bool := bit p.act 2
def Pkt.actCls (p : Pkt) : Nat := bits p.act 3 3
def Pkt.actGroup (p : Pkt) : Nat := if bit p.act 6 then bits p.act 8 4 else 0
def Pkt.profEn (p : Pkt) : Bool := bit p.act 16
def Pkt.flowProf (p : Pkt) : Nat := bits p.act 12 4
def Pkt.noFlow (p : Pkt) : Bool := bit p.act 17
def Pkt.mirEn (p : Pkt) : Bool := bit p.act 18
def Pkt.mirror (p : Pkt) : Nat := bits p.act 19 4
def Pkt.noLearn (p : Pkt) : Bool := bit p.act 23
def Pkt.telemetry (p : Pkt) : Nat := bits p.act 24 8
def Pkt.actPol (p : Pkt) : Option Nat := if bit p.act 52 then some (bits p.act 32 20) else none
def Pkt.puntCode (p : Pkt) : Nat := bits p.act 80 16
def Pkt.metaWord (p : Pkt) : Nat := bits p.act 96 32

/-! Staging (R130) -/

/-- A staged-window write (R130): bytes into the staged bank, or refused. A write beyond the bank's share is dropped, but moves the bank to
LOADING (DESIGN CHOICE, log 146). -/
def Block.stageWrite (b : Block) (s o : Nat) (bs : List Byte) : Block :=
  let k := b.dev.stagedBank s
  let st := b.dev.bankSt s k
  if st = bkSealed ∨ st = bkActive ∨ st = bkDraining then b.on (fun d => d.cnt F.CLS_REFUSED_COUNT s)
  else
    let b := b.on (fun d => d.setBank s k bkLoading)
    if o + bs.length ≤ b.dev.bankSize s k then b.store .cls (b.dev.bankAt s k + o) bs else b

/-- CLS_SEAL. -/
def clsSeal (s : Nat) (d : Dev) : Dev :=
  let k := d.stagedBank s
  let st := d.bankSt s k
  if st = bkEmpty ∨ st = bkLoading ∨ st = bkIdle then d.setBank s k bkSealed else d.cnt F.CLS_REFUSED_COUNT s

/-- CLS_UNSEAL. -/
def clsUnseal (s : Nat) (d : Dev) : Dev :=
  let k := d.stagedBank s
  if d.bankSt s k = bkSealed ∧ !d.fon F.CLS_SWAP_STATUS_ARMED s then d.setBank s k bkLoading
  else d.cnt F.CLS_REFUSED_COUNT s

/-! Swaps (R132, R133) -/

/-- CLS_SWAP_ARM (R132). -/
def clsSwapArm (s : Nat) (d : Dev) : Dev :=
  if d.bankSt s (d.stagedBank s) ≠ bkSealed ∨ d.bankSt s (d.activeBank s) ≠ bkActive ∨ d.fon F.CLS_SWAP_STATUS_ARMED s then
    d.cnt F.CLS_REFUSED_COUNT s
  else
    let d := d.noteArm 3 s R.CLS_SWAP_STATUS
    let t := instant (d.fget F.CLS_SWAP_TIME_SEC_LO_SEC s + d.fget F.CLS_SWAP_TIME_SEC_HI_SEC s * 2 ^ 32)
      (d.fget F.CLS_SWAP_TIME_NS_NS s)
    let imm := d.fon F.CLS_SWAP_CTRL_IMMEDIATE s
    let late := !imm && decide (t < d.ntu.total)
    let d := if late then d.fset F.CLS_SWAP_STATUS_LATE s 1 else d
    (d.fset F.CLS_SWAP_STATUS_ARMED s 1).updSl s (fun x =>
      { x with swapAt := some (if imm || late then d.cycle + 1 else d.cycleOf t), swapT := if imm || late then none else some t })

/-- The swap of a slice is no longer armed. -/
def Dev.swapOff (d : Dev) (s : Nat) : Dev :=
  (d.fset F.CLS_SWAP_STATUS_ARMED s 0).updSl s (fun x => { x with swapAt := none, swapT := none })

/-- CLS_SWAP_CANCEL (R132): ignored in the boundary's own cycle. -/
def clsSwapCancel (s : Nat) (d : Dev) : Dev :=
  if (d.sl s).swapAt.any (fun c => decide (c ≤ d.cycle)) then d else d.swapOff s

/-- CLS_SWAP (R133, R140): the boundary of an armed swap. -/
def clsSwap (s : Nat) (b : Block) : Block :=
  match (b.dev.sl s).swapAt with
  | none => b
  | some c =>
    let b := b.on (fun d => ((d.toCycle c).swapOff s).fset F.CLS_SWAP_STATUS_DONE s 1)
    let d := b.dev
    let a := d.activeBank s
    let e := d.fget F.CLS_EPOCH_ACTIVE s
    let d := (d.setBank s a bkDraining).setBank s (1 - a) bkActive
    let d := d.fset F.CLS_STATE_ACTIVE_BANK s (1 - a)
    let d := (d.fset F.CLS_EPOCH_DRAINING s e).fset F.CLS_EPOCH_ACTIVE s (if e + 1 = 65536 then 2 else e + 1)
    let d := d.fset F.CLS_LAST_SWAP_NS_NS s d.ntuNsec
    let d := forAll (d.sl s).upd (fun d g =>
      (d.fset F.CLS_UPD_STATUS_BUSY g.who 0).fset F.CLS_UPD_STATUS_ERR g.who 1) d
    let d := (d.updSl s (fun x => { x with upd := [] })).notice F.CLS_SWAP_STATUS_DONE s
    { b with dev := d }

/-- The draining bank becomes IDLE (R136). -/
def Dev.bankIdle (d : Dev) (s : Nat) : Dev :=
  let k := 1 - d.activeBank s
  let d := if d.bankSt s k = bkDraining then d.setBank s k bkIdle else d
  d.fset F.CLS_EPOCH_DRAINING s 0

/-- EPOCH_DRAINED (R136). -/
def epochDrained (s : Nat) (d : Dev) : Dev :=
  let e := d.fget F.CLS_EPOCH_DRAINING s
  if e ≠ 0 ∧ d.inflight s e = 0 then d.bankIdle s else d

/-- CLS_RELEASE (R136): ignored when no bank drains. -/
def clsRelease (s : Nat) (d : Dev) : Dev :=
  let e := d.fget F.CLS_EPOCH_DRAINING s
  if e = 0 then d else (d.fset F.CLS_EPOCH_REL_RELEASED s e).bankIdle s

/-- CLS_COUNTER_CLEAR (R141). -/
def clsCounterClear (s : Nat) (b : Block) : Block :=
  { b with mem := b.mem.keep .cls (fun a => !(decide (clsBase s + 0x100000 ≤ a) && decide (a < clsBase s + 0x110000))) }

/-! Changes to the active bank (R137 to R139) -/

/-- CLS_UPDATE_GO (R138) for the requester with index q. -/
def clsUpdateGo (s q : Nat) (d : Dev) : Dev :=
  let word := d.fget F.CLS_UPD_ADDR_WORD q
  let n := d.fget F.CLS_UPD_ADDR_WORDS q
  let busy := d.fon F.CLS_UPD_STATUS_BUSY q
  if busy ∨ 8 ≤ (d.sl s).upd.length ∨ d.bankSize s (d.activeBank s) < (word + n) * 8 then
    let err := if busy ∨ 8 ≤ (d.sl s).upd.length then 2 else 3
    (d.cnt F.CLS_REFUSED_COUNT s).fset F.CLS_UPD_STATUS_ERR q err
  else
    let data := ((List.range (2 * n)).map (fun k => toLe 4 (d.rget (R.CLS_UPD_DATA + 4 * k) q).toNat)).flatten
    let d := (d.fset F.CLS_UPD_STATUS_BUSY q 1).fset F.CLS_UPD_STATUS_ERR q 0
    d.updSl s (fun x => { x with upd := x.upd ++ [⟨q, word, data⟩] })

/-- Word index of a bank's word in class 0x15, over all slices' memories (DEDUCED, log 21). -/
def Dev.clsWord (d : Dev) (s bank w : Nat) : Nat := s * 131072 + (d.bankAt s bank - clsBase s) / 8 + w

/-- CLS_GROUP_COMMIT (R138, R139): the oldest queued group. Its words, written whole, are good again (R323, R328). -/
def clsGroupCommit (s : Nat) (b : Block) : Block :=
  match (b.dev.sl s).upd with
  | [] => b
  | g :: r =>
    let k := b.dev.activeBank s
    let b := (b.store .cls (b.dev.bankAt s k + g.word * 8) g.data).scrubFrees 0x15 (b.dev.clsWord s k g.word) (g.data.length / 8)
    b.on (fun d =>
      let d := d.updSl s (fun x => { x with upd := r })
      let d := (d.fset F.CLS_UPD_STATUS_BUSY g.who 0).fset F.CLS_UPD_STATUS_DONE g.who 1
      (d.fset F.CLS_COMMIT_SEQ g.who (d.fget F.CLS_PKT_SEQ_SEQ s)).fset F.CLS_COMMIT_NS_NS g.who d.ntuNsec)

/-- CLS_RULES: RULE_COUNT of the active bank; 0 while none is active (R125). -/
def Block.ruleCount (b : Block) (s : Nat) : Nat :=
  let k := b.dev.activeBank s
  if b.dev.bankSt s k = bkActive then bits (b.mem.num .cls (b.dev.bankAt s k + 24) 4) 0 18 else 0

/-! Windows (R142) -/

/-- A word of the classifier windows; `o` counts from 0x300_0000. Beyond a bank's share it reads 0. -/
def Block.clsWindow (b : Block) (s o : Nat) : Nat :=
  let d := b.dev
  if o < 0x100000 then
    (if o + 4 ≤ d.bankSize s (d.stagedBank s) then b.mem.num .cls (d.bankAt s (d.stagedBank s) + o) 4 else 0)
  else if o < 0x200000 then
    (if o - 0x100000 + 4 ≤ d.bankSize s (d.activeBank s) then
      b.mem.num .cls (d.bankAt s (d.activeBank s) + (o - 0x100000)) 4 else 0)
  else b.mem.num .cls (cntAt s 0 + (o - 0x200000)) 4

/-- The bank and its word that an offset of the two bank windows reads, if it lies in the bank's share. -/
def Dev.windowWord (d : Dev) (s o : Nat) : Option (Nat × Nat) :=
  let k := if o < 0x100000 then d.stagedBank s else d.activeBank s
  if o < 0x200000 ∧ o % 0x100000 + 4 ≤ d.bankSize s k then some (k, o % 0x100000 / 8) else none

/-- A read of the classifier windows: a word of a bank that fails parity is recorded, and the data then read are free (DESIGN CHOICE,
log 2). -/
def Block.clsWindowRead (b : Block) (s o : Nat) : Word × Block :=
  match b.dev.windowWord s o with
  | none => (BitVec.ofNat 32 (b.clsWindow s o), b)
  | some (k, w) =>
    let r := b.dev.sramRead 0x15 s (b.dev.clsWord s k w) (toLe 4 w ++ toLe 1 k)
    if r.1 then (BitVec.ofNat 32 (r.2.fresh 32).1, { b with dev := (r.2.fresh 32).2 })
    else (BitVec.ofNat 32 (b.clsWindow s o), b)

/-- Word of class 0x20 that counter word i of a slice's classifier is (DESIGN CHOICE, log 42). -/
def clsCounterWord (s i : Nat) : Nat := 0x1000000 + s * 0x2000 + i

/-- A counter of the classifier with a word that fails parity restarts from 0 (Table 15-2, class 0x20). -/
def Block.clsCounterZero (b : Block) (s i : Nat) : Block :=
  let r := b.dev.sramRead 0x20 s (clsCounterWord s i) []
  if r.1 then
    { b with dev := r.2.wordsGood 0x20 (clsCounterWord s i) 1, mem := b.mem.write .cls (cntAt s 0 + 8 * i) (toLe 8 0) }
  else b

/-- CLS_COUNTER_READ (R142): the low word of a packet count, its other three words captured for the requester. -/
def clsCounterRead (q s o : Nat) (b : Block) : Word × Block :=
  let a := o / 16 * 16
  let b := (b.clsCounterZero s ((a - 0x200000) / 8)).clsCounterZero s ((a - 0x200000) / 8 + 1)
  let w (k : Nat) : Nat := b.clsWindow s (a + 4 * k)
  let base := 0x3000000 + a
  (BitVec.ofNat 32 (w 0), b.on (fun d =>
    ((d.holdFor q (base + 4) (w 1)).holdFor q (base + 8) (w 2)).holdFor q (base + 12) (w 3)))

/-- The classifier of a slice as R131 leaves it: bank 0 ACTIVE with epoch 1, bank 1 EMPTY. -/
def Dev.clsStart (d : Dev) (s : Nat) : Dev :=
  let d := (d.setBank s 0 bkActive).setBank s 1 bkEmpty
  (d.fset F.CLS_STATE_ACTIVE_BANK s 0).fset F.CLS_EPOCH_ACTIVE s 1

/-- A bank's initial contents: roots MISS, ACTION_COUNT 0 (Table 06-7). -/
def Block.bankInit (b : Block) (s k : Nat) : Block :=
  let a := b.dev.bankAt s k
  let n := b.dev.bankSize s k
  let m := b.mem.keep .cls (fun x => !(decide (a ≤ x) && decide (x < a + n)))
  { b with mem := m.write .cls a (((List.range 4).map (fun _ => toLe 4 (2 ^ 31))).flatten) }

/-- CLS_BANK_SIZE was written (R125, R130): the EMPTY banks are initialized within their new shares. -/
def Block.bankResized (b : Block) (s : Nat) : Block :=
  forAll ((List.range 2).filter (fun k => b.dev.bankSt s k == bkEmpty)) (fun b k => b.bankInit s k) b

/-- A live CLS_RULESET section begins (R131): a SEALED staged bank is LOADING. -/
def Dev.rulesetOpens (d : Dev) (s : Nat) : Dev :=
  let k := d.stagedBank s
  if d.bankSt s k = bkSealed then d.setBank s k bkLoading else d

end Sys2Proof.Machine
end

