-- ==== Sys2Proof/Machine/Flow.lean ====
section
/-! DEFINITION. The flow engine (ch 07): keys, records, cache, lookup and miss lanes, insertion, aging, export, software
operations. A record is held as a number of 512 bits, byte 0 lowest. -/

namespace Sys2Proof.Machine

/-! Fields of a record (Table 07-1) -/

def rcH1 (r : Nat) : Nat := bits r 0 32
def rcState (r : Nat) : Nat := bits r 96 2
def rcStatic (r : Nat) : Bool := bit r 99
def rcHop (r : Nat) : Nat := bits r 240 16
def rcProf (r : Nat) : Nat := bits r 104 4
def rcVer (r : Nat) : Nat := bits r 108 4
def rcLast (r : Nat) : Nat := bits r 320 32 * 1000000000 + bits r 352 30

/-- Valid or idle. -/
def rcUsed (r : Nat) : Bool := rcState r == 1 || rcState r == 2

/-- A place where a record matches a key (R150). -/
structure FKey where
  h1 : Nat
  h2 : Nat
  h3 : Nat
  prof : Nat
  deriving DecidableEq, Repr

def rcMatch (r : Nat) (k : FKey) : Bool :=
  rcUsed r && rcH1 r == k.h1 && bits r 32 32 == k.h2 && bits r 64 32 == k.h3 && rcProf r == k.prof

/-- The hashes of a key (R147). -/
def Dev.fkey (d : Dev) (key : List Byte) (prof : Nat) : FKey :=
  let h (salt : Nat) : Nat := crc32c (toLe 4 salt ++ toLe 1 prof ++ key)
  ⟨h (d.fget F.FLW_SALT1_SALT), h (d.fget F.FLW_SALT2_SALT), h (d.fget F.FLW_SALT3_SALT), prof⟩

/-- Buckets of the table (R148). -/
def Dev.flowBuckets (d : Dev) : Nat := 2 ^ (21 + d.fget F.FLW_CFG_TABLE_SIZE)

/-- d1 and d2 (R148). -/
def Dev.buckets (d : Dev) (k : FKey) : Nat × Nat :=
  let a := k.h1 % d.flowBuckets
  let b := k.h2 % d.flowBuckets
  (a, if a = b then a ^^^ 1 else b)

/-- The home slot (R148). -/
def Dev.homeSlot (d : Dev) (k : FKey) : Nat := (d.buckets k).1 * 8 + k.h3 % 8

/-- The probe order P (R149). -/
def Dev.probes (d : Dev) (k : FKey) : List Nat :=
  let b := d.buckets k
  ((List.range 8).map (fun i => [b.1 * 8 + (k.h3 + i) % 8, b.2 * 8 + (k.h3 + i) % 8])).flatten

/-- The hop bit of a slot for a key's home. -/
def Dev.hopBit (d : Dev) (k : FKey) (slot : Nat) : Nat := if slot / 8 = (d.buckets k).1 then slot % 8 else 8 + slot % 8

/-- The key of a stored record. -/
def rcKey (r : Nat) : FKey := ⟨rcH1 r, bits r 32 32, bits r 64 32, rcProf r⟩

/-! Cache (R152, R153) and slots -/

def cacheBucket (slot : Nat) : Nat := slot / 8 % 131072

/-- The line that caches a slot. -/
def Dev.cached (d : Dev) (slot : Nat) : Option (Nat × Nat) :=
  (List.range 8).findSome? (fun i => match at0 d.flow.cache (cacheBucket slot * 8 + i) with
    | some c => if c.slot = slot then some (cacheBucket slot * 8 + i, c.recd) else none
    | none => none)

def Dev.setLine (d : Dev) (i : Nat) (l : Option CacheLine) : Dev :=
  { d with flow.cache := Sparse.set none d.flow.cache i l }

def Dev.slotAddr (d : Dev) (slot : Nat) : Nat := d.flowBase + slot * 64

/-- The export entry of a record (Table 07-3) goes to the staging ring (R169). -/
def Dev.flowExport (d : Dev) (r slot reason slice : Nat) : Dev :=
  if !d.fon F.FLW_CFG_EXPORT_EN || bit r 123 then d
  else if 524288 ≤ (d.stream 6).length then d.cnt F.FLW_EXP_DROP_COUNT
  else
    let e := toLe 64 (setBits (setBits r 240 16 0) 124 1 0) ++ toLe 1 reason ++ toLe 1 slice ++ toLe 2 0 ++ toLe 4 slot ++
      toLe 4 (d.ntuSec % 2 ^ 32) ++ toLe 4 d.ntuNsec ++ toLe 48 0
    (d.addStream 6 e).cnt F.FLW_EXP_CNT_COUNT

/-- Adds to the count of VALID and IDLE records. -/
def Dev.occ (d : Dev) (n : Int) : Dev :=
  d.fset F.FLW_OCCUPANCY_COUNT 0 ((d.fget F.FLW_OCCUPANCY_COUNT : Int) + n).toNat

/-- Writes a slot in whichever copy is authoritative. -/
def Block.slotPut (b : Block) (slot r : Nat) : Block :=
  match b.dev.cached slot with
  | some (i, _) => b.on (fun d => d.setLine i (some ⟨slot, setBits r 124 1 1⟩))
  | none => b.dramWhole (b.dev.slotAddr slot) (toLe 64 (setBits r 124 1 0))

/-- Writes the hop bit of a key's slot into its home's copy. -/
def Block.hopPut (b : Block) (k : FKey) (slot : Nat) (v : Bool) : Block :=
  let h := b.dev.homeSlot k
  let r := match b.dev.cached h with
    | some (_, r) => r
    | none => b.mem.num .dram (b.dev.slotAddr h) 64
  b.slotPut h (setBits r (240 + b.dev.hopBit k slot) 1 (b2n v))

/-- Whether a slot's read fails, and the block after it: true of no cached slot. -/
def Block.slotFails (b : Block) (slot : Nat) : Bool × Block :=
  if (b.dev.cached slot).isSome then (false, b)
  else
    let a := b.dev.slotAddr slot
    let x := b.dramRead a 64 0xFFFF
    (x.1.isNone, x.2)

/-- A slot whose burst failed twice is invalidated: freed, its hop map kept, its hop bit at its home cleared, exported with reason 4
(R166). A home that fails in turn is invalidated first; no burst fails a second time, which bounds the chain. -/
def Block.slotsLost : Nat → Block → Nat → Block
  | 0, b, _ => b
  | n + 1, b, slot =>
    let a := b.dev.slotAddr slot
    let r := b.mem.num .dram a 64
    let b := b.dramWhole a (toLe 64 (setBits 0 240 16 (rcHop r)))
    let b := if rcUsed r then
        let h := b.dev.homeSlot (rcKey r)
        let x := b.slotFails h
        (if x.1 then Block.slotsLost n x.2 h else x.2).hopPut (rcKey r) slot false
      else b
    b.on (fun d =>
      let d := if rcUsed r then d.occ (-1) else d
      (d.flowExport r slot 4 0).cnt F.FLW_INVALID_CNT_COUNT)

/-- Invalidates a slot (R166). -/
def Block.slotLost (b : Block) (slot : Nat) : Block := b.slotsLost (b.dev.badBursts.length + 1) slot

/-- A cache line with a word w that fails parity is dropped; a dirty one's slot is invalidated, from its DRAM copy (Table 15-2, classes 0x11
and 0x12). -/
def Block.lineFails (b : Block) (w : Nat) : Block :=
  match at0 b.dev.flow.cache (w / 8) with
  | none => b.on (fun d => d.wordsGood 0x11 w 1)
  | some l =>
    let dirty := bit l.recd 124
    let kept := b.mem.num .dram (b.dev.slotAddr l.slot) 64
    let b := b.on (fun d =>
      let d := d.parityFail (if dirty then 0x12 else 0x11) 0xFFFF w (if dirty then toLe 4 l.slot else [])
      ((d.setLine (w / 8) none).wordsGood 0x11 (w / 8 * 8) 8).wordsGood 0x12 w 1)
    if !dirty then b
    else (b.slotLost l.slot).on (fun d => if rcUsed l.recd && !rcUsed kept then d.occ (-1) else d)

/-- A read of the lines of two cache buckets: those that fail parity go first (R323). The words of line i are 8 i to 8 i + 7 (DEDUCED, log 60). -/
def Block.cacheRead (b : Block) (c1 c2 : Nat) : Block :=
  forAll ((b.dev.integ.badWords.filter (fun x => x.1 == 0x11 && (x.2 / 64 == c1 || x.2 / 64 == c2))).map (fun x => x.2))
    (fun b w => b.lineFails w) b

/-- Reads a slot; a DRAM copy that fails its check twice becomes FREE (R166). -/
def Block.slotGet (b : Block) (slot : Nat) : Nat × Block :=
  let b := b.cacheRead (cacheBucket slot) (cacheBucket slot)
  match b.dev.cached slot with
  | some (_, r) => (r, b)
  | none =>
    let x := b.slotFails slot
    let b := if x.1 then x.2.slotLost slot else x.2
    (b.mem.num .dram (b.dev.slotAddr slot) 64, b)

/-- Changes the hop bit of a key's slot at its home, which is read first. -/
def Block.hopSet (b : Block) (k : FKey) (slot : Nat) (v : Bool) : Block := (b.slotGet (b.dev.homeSlot k)).2.hopPut k slot v

/-- Whether a slot is read from DRAM, and so charged. -/
def Dev.uncached (d : Dev) (slot : Nat) : Bool := (d.cached slot).isNone

/-! Accounts (R159, R163): 3,000 units are one access; a rate of M per second gives rate units a cycle. -/

def acctUnit : Nat := 3000

/-- Takes n reads or writes of a lane of a slice from its accounts, and counts them (R163). -/
def Dev.laneCharge (d : Dev) (s rd wr : Nat) : Dev :=
  let rs := d.fget F.FLW_SLICE_BUDGET_RATE s
  let rv := d.fget F.FLW_DEV_BUDGET_RATE
  let c := d.cycle
  let d := d.updSl s (fun x => { x with
    rdAcct := x.rdAcct.take (64 * acctUnit) rs c (rd * acctUnit)
    wrAcct := x.wrAcct.take (64 * acctUnit) rs c (wr * acctUnit) })
  let d := { d with
    flow.devRd := d.flow.devRd.take (1024 * acctUnit) rv c (rd * acctUnit)
    flow.devWr := d.flow.devWr.take (1024 * acctUnit) rv c (wr * acctUnit) }
  let d := if rd = 0 then d else d.cnt F.FLW_MISS_READS_COUNT s rd
  if wr = 0 then d else d.cnt F.FLW_MISS_WRITES_COUNT s wr

/-- Takes n reads and writes of a software operation from the device accounts (R171). -/
def Dev.opCharge (d : Dev) (rd wr : Nat) : Dev :=
  let rv := d.fget F.FLW_DEV_BUDGET_RATE
  { d with
    flow.devRd := d.flow.devRd.take (1024 * acctUnit) rv d.cycle (rd * acctUnit)
    flow.devWr := d.flow.devWr.take (1024 * acctUnit) rv d.cycle (wr * acctUnit) }

/-- Charges a lane of a slice, or a software operation. -/
def Dev.flowCharge (d : Dev) (s : Option Nat) (rd wr : Nat) : Dev :=
  match s with
  | some s => d.laneCharge s rd wr
  | none => d.opCharge rd wr

/-- Whether the four accounts let a packet open a lane (R163). -/
def Dev.budgetOk (d : Dev) (s : Nat) : Bool :=
  let rs := d.fget F.FLW_SLICE_BUDGET_RATE s
  let rv := d.fget F.FLW_DEV_BUDGET_RATE
  let u : Int := acctUnit
  decide (u ≤ (d.sl s).rdAcct.now (64 * acctUnit) rs d.cycle) && decide (u ≤ (d.sl s).wrAcct.now (64 * acctUnit) rs d.cycle) &&
  decide (u ≤ d.flow.devRd.now (1024 * acctUnit) rv d.cycle) && decide (u ≤ d.flow.devWr.now (1024 * acctUnit) rv d.cycle)

/-- Places a record in the cache (R153): a full bucket replaces its line with the smallest LAST, written back if dirty. -/
def Block.fill (b : Block) (slot r : Nat) (who : Option Nat) : Block :=
  let b := b.cacheRead (cacheBucket slot) (cacheBucket slot)
  match b.dev.cached slot with
  | some (i, _) => b.on (fun d => d.setLine i (some ⟨slot, r⟩))
  | none =>
    let c := cacheBucket slot * 8
    match (List.range 8).find? (fun i => (at0 b.dev.flow.cache (c + i)).isNone) with
    | some i => b.on (fun d => d.setLine (c + i) (some ⟨slot, r⟩))
    | none =>
      let last (i : Nat) : Nat := match at0 b.dev.flow.cache (c + i) with
        | some l => rcLast l.recd
        | none => 0
      let v := (List.range 8).foldl (fun a i => if last i < last a then i else a) 0
      match at0 b.dev.flow.cache (c + v) with
      | some l =>
        let b := if bit l.recd 124 then
            (b.dramWhole (b.dev.slotAddr l.slot) (toLe 64 (setBits l.recd 124 1 0))).on (fun d =>
              (d.cnt F.FLW_WB_CNT_COUNT).flowCharge who 0 1)
          else b
        b.on (fun d => d.setLine (c + v) (some ⟨slot, r⟩))
      | none => b

/-! Update (R154, R167) -/

/-- Receive time as seconds and nanoseconds. -/
def secOf (t : Nat) : Nat := t / ntuNs / 1000000000 % 2 ^ 32
def nsOf (t : Nat) : Nat := t / ntuNs % 1000000000

/-- flow_update of a cached record, and the bindings the packet carries on (R167). -/
def Block.flowUpdate (b : Block) (slot : Nat) (p : Pkt) : Pkt × Block :=
  match b.dev.cached slot with
  | none => (p, b)
  | some (i, r) =>
    let b := if rcState r = 2 then b.on (fun d => d.cnt F.FLW_REVIVE_CNT_COUNT) else b
    let r := setBits (setBits r 96 2 1) 192 48 (bits r 192 48 + 1)
    let r := setBits r 128 64 (bits r 128 64 + p.pr.len)
    let r := setBits (setBits r 320 32 (secOf p.rxAt)) 352 32 (nsOf p.rxAt)
    let r := setBits (setBits r 98 1 1) 124 1 1
    let r := setBits r 112 8 (bits r 112 8 ||| p.telemetry)
    let p := { p with
      pol := if bit r 120 then some (bits r 384 20) else p.actPol
      nat := if bit r 121 then some (bits r 416 24) else none
      dom := if bit r 122 then some (bits r 448 5, bits r 464 12) else none }
    (p, b.on (fun d => d.setLine i (some ⟨slot, r⟩)))

/-! Insertion and eviction (R159, R160) -/

/-- The eviction LFSR: x^16 + x^14 + x^13 + x^11 + 1, shifted right, the value after the step (DEDUCED, log 18). -/
def lfsrStep (v : Nat) : Nat :=
  let f := (v ^^^ (v / 4) ^^^ (v / 8) ^^^ (v / 32)) % 2
  v / 2 + f * 32768

/-- A seed of 0 is read as 0xACE1. -/
def lfsrSeed (v : Nat) : Nat := if v = 0 then 0xACE1 else v

/-- A new record (R159). -/
def Dev.newRecord (d : Dev) (k : FKey) (p : Pkt) : Nat :=
  let cfg := k.prof
  let r := k.h1 + k.h2 * 2 ^ 32 + k.h3 * 2 ^ 64
  let r := setBits (setBits r 96 2 1) 98 1 1
  let r := setBits (setBits r 100 4 (d.fget F.FLW_PROF_CFG_IDLE_CLASS cfg)) 104 4 k.prof
  let r := setBits r 112 8 p.telemetry
  let r := setBits r 123 1 (1 - d.fget F.FLW_PROF_CFG_EXPORT cfg)
  let r := setBits (setBits r 120 1 (bits p.act 52 1)) 384 20 (bits p.act 32 20)
  let r := setBits (setBits r 256 32 (secOf p.rxAt)) 288 32 (nsOf p.rxAt)
  let r := setBits (setBits r 320 32 (secOf p.rxAt)) 352 32 (nsOf p.rxAt)
  setBits r 480 32 p.metaWord

/-- Reads slots in order; answers them with their records. -/
def Block.slotsGet (b : Block) (l : List Nat) : List (Nat × Nat) × Block :=
  l.foldl (fun a s => let x := a.2.slotGet s; (a.1 ++ [(s, x.1)], x.2)) ([], b)

/-- Clears a slot's hop bit at its record's home: a read and a write (R159). -/
def Block.clearOld (b : Block) (slot r : Nat) (who : Option Nat) : Block :=
  let h := b.dev.homeSlot (rcKey r)
  let n := b2n (b.dev.uncached h)
  (b.hopSet (rcKey r) slot false).on (fun d => d.flowCharge who n n)

/-- The outcome of flow_insert: the slot, or overflow: 0 INSRATE, 1 FULL. -/
inductive InsEnd where
  | ok (slot : Nat)
  | overflow (why : Nat)
  deriving DecidableEq, Repr

/-- The first slot of a probe order, among those read, that has a state. -/
def firstIn (ps : List Nat) (got : List (Nat × Nat)) (st : Nat) : Option Nat :=
  ps.find? (fun s => got.any (fun x => x.1 == s && rcState x.2 == st))

/-- Whether the slots read settle which FREE slot is the first in P: no slot before it is unread (R159). -/
def freeKnown (ps : List Nat) (got : List (Nat × Nat)) : Bool :=
  (firstIn ps got 0).any (fun f => (ps.takeWhile (fun s => s != f)).all (fun s => got.any (fun x => x.1 == s)))

/-- A round of candidate reads, charged; none once the FREE slot to take is known (DEDUCED, log 147). -/
def Block.insertRound (b : Block) (ps l : List Nat) (got : List (Nat × Nat)) (who : Option Nat) : List (Nat × Nat) × Block :=
  if freeKnown ps got then (got, b)
  else
    let n := (l.filter (fun s => b.dev.uncached s)).length
    let x := b.slotsGet l
    (got ++ x.1, x.2.on (fun d => d.flowCharge who n 0))

/-- The new-flow notice of R170; a software insertion's names slice 0 (DESIGN CHOICE, log 148). -/
def Dev.newFlowNotice (d : Dev) (k : FKey) (key : List Byte) (slot slice : Nat) : Dev :=
  if !d.fon F.FLW_PROF_CFG_NOTIFY k.prof then d
  else
    let f := F.FLW_NOTICE_DROP_COUNT
    { d with stb.posts := d.stb.posts ++ [{ (default : Post) with
        kind := 6
        owner := 528
        want := 128
        data := key ++ toLe 4 k.h1 ++ toLe 4 k.h2 ++ toLe 4 k.h3 ++ toLe 4 slot ++ toLe 1 k.prof ++ toLe 63 0
        slice := slice
        failCnt := some (f.off, f.lo, f.w, 0) }] }

/-- flow_insert of a record made for a key (R159); `seen` are the slots already read; `who` is the slice whose packet
asks. The rate account applies to packets only (R171). -/
def Block.flowInsert (b : Block) (k : FKey) (key : List Byte) (recd : Nat) (seen : List (Nat × Nat)) (who : Option Nat) :
    InsEnd × Block :=
  let rate := b.dev.fget F.FLW_INS_RATE_RATE
  if who.isSome ∧ b.dev.flow.ins.now (64 * acctUnit) rate b.dev.cycle < (acctUnit : Int) then (.overflow 0, b)
  else
    let ps := b.dev.probes k
    let unread := ps.filter (fun s => !seen.any (fun x => x.1 == s))
    let r1 := b.insertRound ps (unread.take 4) seen who
    let r2 := r1.2.insertRound ps (unread.drop 4) r1.1 who
    let got := r2.1
    let b := r2.2
    let recOf (s : Nat) : Nat := ((got.find? (fun x => x.1 == s)).map (fun x => x.2)).getD 0
    let cand := ps.filter (fun s => !rcStatic (recOf s))
    let pick : Option Nat × Block :=
      match (firstIn ps got 0).or (firstIn ps got 2) with
      | some s => (some s, b)
      | none =>
        if cand.isEmpty then (none, b)
        else if b.dev.fon F.FLW_CFG_EVICT then
          let v := lfsrStep (b.dev.flow.lfsr.getD (lfsrSeed (b.dev.fget F.FLW_LFSR_SEED)))
          (some (cand.getD (v % cand.length) 0), b.on (fun d => { d with flow.lfsr := some v }))
        else
          (some (cand.foldl (fun a s => if rcLast (recOf s) < rcLast (recOf a) then s else a) (cand.headD 0)), b)
    match pick with
    | (none, b) => (.overflow 1, b)
    | (some s, b) =>
      let old := recOf s
      let b := if rcState old = 1 then
          b.on (fun d => (d.flowExport old s 1 (who.getD 0)).cnt F.FLW_EVICT_CNT_COUNT)
        else b
      let b := if rcState old = 0 then b.on (fun d => d.occ 1) else b.clearOld s old who
      let hop := match b.dev.cached s with
        | some (_, r) => rcHop r
        | none => b.mem.num .dram (b.dev.slotAddr s + 30) 2
      let home := b.dev.homeSlot k
      let w := b2n (b.dev.uncached home)
      let b := if s = home then b else (b.hopPut k s true).on (fun d => d.flowCharge who 0 w)
      let hop := if s = home then setBits hop (b.dev.hopBit k s) 1 1 else hop
      let b := b.fill s (setBits (setBits recd 240 16 hop) 124 1 1) who
      let b := b.on (fun d =>
        let d := (d.cnt F.FLW_INSERT_CNT_COUNT).newFlowNotice k key s (who.getD 0)
        if who.isSome then { d with flow.ins := d.flow.ins.take (64 * acctUnit) rate d.cycle acctUnit } else d)
      (.ok s, b)

/-- flow_miss of a lane (R156): the slot of the record found or inserted. -/
def Block.flowMiss (b : Block) (s : Nat) (k : FKey) (p : Pkt) : InsEnd × Block :=
  let home := b.dev.homeSlot k
  let n := b2n (b.dev.uncached home)
  let x := b.slotGet home
  let b := x.2.on (fun d => d.laneCharge s n 0)
  if rcMatch x.1 k then (.ok home, b.fill home x.1 (some s))
  else
    let bk := b.dev.buckets k
    let hops := ((List.range 16).filter (fun i => bit (rcHop x.1) i)).map (fun i =>
      if i < 8 then bk.1 * 8 + i else bk.2 * 8 + (i - 8))
    let hops := hops.filter (fun h => h != home)
    let c := (hops.filter (fun h => b.dev.uncached h)).length
    let y := b.slotsGet hops
    let b := y.2.on (fun d => d.laneCharge s c 0)
    match y.1.find? (fun z => rcMatch z.2 k) with
    | some z => (.ok z.1, b.fill z.1 z.2 (some s))
    | none =>
      b.flowInsert k p.key (b.dev.newRecord k p) ((home, x.1) :: y.1) (some s)

/-! Bucket locks (R157). A lane and a software operation take the locks of their two buckets in rising order and hold them until they
are done. -/

/-- One that takes bucket locks: the i-th lane of a slice, or the i-th waiting software operation. -/
inductive Claimant where
  | lane (s i : Nat)
  | op (i : Nat)
  deriving DecidableEq, Repr

/-- Place in the order of arrival: cycle, then slices, then requesters in the order of R61. -/
def comeAt (cycle rank : Nat) : Nat := cycle * 512 + rank

/-- Buckets in the order in which their locks are taken. -/
def lockOrder (b : Nat × Nat) : List Nat := if b.1 < b.2 then [b.1, b.2] else [b.2, b.1]

/-- The locks that are held. -/
def Dev.locksHeld (d : Dev) : List Nat :=
  ((List.range 16).map (fun s => ((d.sl s).flow.map (fun l => l.needs.take l.got)).flatten)).flatten ++
    (d.flow.ops.map (fun o => o.needs.take o.got)).flatten

/-- Whether a bucket's lock is held. -/
def Dev.locked (d : Dev) (bucket : Nat) : Bool := d.locksHeld.contains bucket

/-- The locks that a list of needs can take now, in order. -/
def Dev.canTake (d : Dev) (needs : List Nat) (got : Nat) : Nat :=
  got + ((needs.drop got).takeWhile (fun b => !d.locked b)).length

/-- A claimant takes the locks it can. -/
def Dev.takeLocks (d : Dev) (c : Claimant) : Dev :=
  match c with
  | .lane s i => d.updSl s (fun x => { x with flow := x.flow.modify i (fun l => { l with got := d.canTake l.needs l.got }) })
  | .op i => { d with flow.ops := d.flow.ops.modify i (fun o => { o with got := d.canTake o.needs o.got }) }

/-- Puts a claimant into a list in the order of arrival, after its equals. -/
def byArrival (c : Nat × Claimant) : List (Nat × Claimant) → List (Nat × Claimant)
  | [] => [c]
  | x :: r => if c.1 < x.1 then c :: x :: r else x :: byArrival c r

/-- All claimants in the order of arrival. -/
def Dev.claimants (d : Dev) : List Claimant :=
  let lanes := ((List.range 16).map (fun s => (d.sl s).flow.mapIdx (fun i l => (l.come, Claimant.lane s i)))).flatten
  let ops := d.flow.ops.mapIdx (fun i o => (o.come, Claimant.op i))
  ((lanes ++ ops).foldl (fun a c => byArrival c a) []).map (fun c => c.2)

/-- Locks that are free go to those who wait for them, in the order of arrival (R157). -/
def Dev.grant (d : Dev) : Dev := forAll d.claimants (fun d c => d.takeLocks c) d

/-! Software operations (R171, R172) -/

/-- The requester's key, and data words. -/
def Dev.opKey (d : Dev) (q : Nat) : List Byte :=
  ((List.range 12).map (fun n => toLe 4 (d.rget (R.FLW_OP_KEY + 4 * n) q).toNat)).flatten
def Dev.opData (d : Dev) (q : Nat) : Nat :=
  ((List.range 16).map (fun n => (d.rget (R.FLW_OP_DATA + 4 * n) q).toNat * 2 ^ (32 * n))).sum

/-- Returns a record in FLW_OP_DATA and its slot. -/
def Dev.opReturn (d : Dev) (q slot r : Nat) : Dev :=
  let d := forAll (List.range 16) (fun d n => d.rset (R.FLW_OP_DATA + 4 * n) q (BitVec.ofNat 32 (bits r (32 * n) 32))) d
  d.fset F.FLW_OP_RSLOT_SLOT q slot

/-- Ends an operation with a code. -/
def Dev.opEnd (d : Dev) (q err : Nat) : Dev :=
  ((d.fset F.FLW_OP_STATUS_BUSY q 0).fset F.FLW_OP_STATUS_DONE q 1).fset F.FLW_OP_STATUS_ERR q err

/-- The slot whose record matches a key, with the reads charged (R171). -/
def Block.opFind (b : Block) (k : FKey) : Option (Nat × Nat) × List (Nat × Nat) × Block :=
  let home := b.dev.homeSlot k
  let n := b2n (b.dev.uncached home)
  let x := b.slotGet home
  let b := x.2.on (fun d => d.opCharge n 0)
  if rcMatch x.1 k then (some (home, x.1), [(home, x.1)], b)
  else
    let bk := b.dev.buckets k
    let hops := (((List.range 16).filter (fun i => bit (rcHop x.1) i)).map (fun i =>
      if i < 8 then bk.1 * 8 + i else bk.2 * 8 + (i - 8))).filter (fun h => h != home)
    let c := (hops.filter (fun h => b.dev.uncached h)).length
    let y := b.slotsGet hops
    (y.1.find? (fun z => rcMatch z.2 k), (home, x.1) :: y.1, y.2.on (fun d => d.opCharge c 0))

/-- The requester's key hashed (R171). -/
def Dev.opFKey (d : Dev) (q : Nat) : FKey := d.fkey (d.opKey q) (d.fget F.FLW_OP_CTRL_PROFILE q)

/-- The key of an operation under way, under the profile it was started with. -/
def Dev.opKeyOf (d : Dev) (o : FlowOp) : FKey := d.fkey (d.opKey o.who) (fv o.ctl F.FLW_OP_CTRL_PROFILE)

/-- LOOKUP (Table 07-4). -/
def Block.opLookup (b : Block) (o : FlowOp) : Block :=
  let q := o.who
  let x := b.opFind (b.dev.opKeyOf o)
  match x.1 with
  | some (s, r) => x.2.2.on (fun d => (d.opReturn q s r).opEnd q 0)
  | none => x.2.2.on (fun d => d.opEnd q 1)

/-- INSERT: words 3 to 15 of the data, VALID, its VERSION advanced. -/
def Block.opInsert (b : Block) (o : FlowOp) : Block :=
  let q := o.who
  let k := b.dev.opKeyOf o
  let x := b.opFind k
  match x.1 with
  | some (s, r) => x.2.2.on (fun d => (d.opReturn q s r).opEnd q 2)
  | none =>
    let w := b.dev.opData q
    let r := setBits (setBits (setBits w 0 32 k.h1) 32 32 k.h2) 64 32 k.h3
    let r := setBits (setBits (setBits r 96 2 1) 104 4 k.prof) 108 4 (rcVer w + 1)
    match x.2.2.flowInsert k (b.dev.opKey q) r x.2.1 none with
    | (.ok s, b) => b.on (fun d => (d.fset F.FLW_OP_RSLOT_SLOT q s).opEnd q 0)
    | (.overflow _, b) => b.on (fun d => d.opEnd q 4)

/-- Whether CHECK lets an UPDATE or DELETE proceed (R172). -/
def opCheck (ctl : Word) (r : Nat) : Bool := fv ctl F.FLW_OP_CTRL_CHECK == 0 || rcVer r == fv ctl F.FLW_OP_CTRL_EXP_VERSION

/-- The bits of word n that WMASK may write (R172). -/
def wordMask (n : Nat) : Nat := if n < 3 then 0 else if n = 3 then 0x0FFF00F8 else if n = 7 then 0xFFFF else 0xFFFFFFFF

/-- UPDATE (Table 07-4). -/
def Block.opUpdate (b : Block) (o : FlowOp) : Block :=
  let q := o.who
  let x := b.opFind (b.dev.opKeyOf o)
  match x.1 with
  | none => x.2.2.on (fun d => d.opEnd q 1)
  | some (s, r) =>
    if !opCheck o.ctl r then x.2.2.on (fun d => (d.fset F.FLW_OP_RSLOT_SLOT q s).opEnd q 3)
    else
      let w := b.dev.opData q
      let wm := fv o.ctl F.FLW_OP_CTRL_WMASK
      let new := (List.range 16).foldl (fun r n =>
        if bit wm n then
          let m := wordMask n
          let o := bits r (32 * n) 32
          setBits r (32 * n) 32 ((o &&& (0xFFFFFFFF - m)) ||| (bits w (32 * n) 32 &&& m))
        else r) r
      let new := setBits new 108 4 (rcVer r + 1)
      let n := b2n (x.2.2.dev.uncached s)
      ((x.2.2.slotPut s new).on (fun d => d.opCharge 0 n)).on (fun d => (d.fset F.FLW_OP_RSLOT_SLOT q s).opEnd q 0)

/-- DELETE (Table 07-4). -/
def Block.opDelete (b : Block) (o : FlowOp) : Block :=
  let q := o.who
  let k := b.dev.opKeyOf o
  let x := b.opFind k
  match x.1 with
  | none => x.2.2.on (fun d => d.opEnd q 1)
  | some (s, r) =>
    if !opCheck o.ctl r then x.2.2.on (fun d => (d.fset F.FLW_OP_RSLOT_SLOT q s).opEnd q 3)
    else
      let home := b.dev.homeSlot k
      let n := b2n (x.2.2.dev.uncached s) + b2n (home != s && x.2.2.dev.uncached home)
      let b := x.2.2.hopPut k s false
      let hop := match b.dev.cached s with
        | some (_, y) => rcHop y
        | none => b.mem.num .dram (b.dev.slotAddr s + 30) 2
      let b := b.slotPut s (setBits 0 240 16 hop)
      b.on (fun d =>
        let d := (d.opCharge 0 n).occ (-1)
        let d := if fv o.ctl F.FLW_OP_CTRL_EXPORT = 1 then d.flowExport r s 3 0 else d
        (d.fset F.FLW_OP_RSLOT_SLOT q s).opEnd q 0)

/-- READ_SLOT (Table 07-4). -/
def Block.opReadSlot (b : Block) (o : FlowOp) : Block :=
  let q := o.who
  let s := b.dev.fget F.FLW_OP_SLOT_SLOT q
  let n := b2n (b.dev.uncached s)
  let x := b.slotGet s
  x.2.on (fun d => ((d.opCharge n 0).opReturn q s x.1).opEnd q 0)

/-- An operation runs, its locks held. -/
def Block.opRun (b : Block) (o : FlowOp) : Block :=
  match fv o.ctl F.FLW_OP_CTRL_OP with
  | 1 => b.opLookup o
  | 2 => b.opInsert o
  | 3 => b.opUpdate o
  | 4 => b.opDelete o
  | _ => b.opReadSlot o

/-- Whether an operation can run: it holds its locks and the device read account stands at 1 or more (R171). -/
def Dev.opReady (d : Dev) (o : FlowOp) : Bool :=
  decide (o.needs.length ≤ o.got) &&
    decide ((acctUnit : Int) ≤ d.flow.devRd.now (1024 * acctUnit) (d.fget F.FLW_DEV_BUDGET_RATE) d.cycle)

/-- Runs the waiting operations that can run, at most n of them; each then frees its locks. What they touch is locked until then, so
they may be brought up to date when the flow engine is next looked at (DESIGN CHOICE, log 19). -/
def Block.opsRun : Nat → Block → Block
  | 0, b => b
  | n + 1, b =>
    match b.dev.flow.ops.find? (fun o => b.dev.opReady o) with
    | none => b
    | some o =>
      let b := (b.opRun o).on (fun d => { d with flow.ops := d.flow.ops.filter (fun x => x.who != o.who) }.grant)
      Block.opsRun n b

/-- The software operations of the flow engine, brought up to date. -/
def Block.flowOps (b : Block) : Block := b.opsRun b.dev.flow.ops.length

/-- A GO (R171, R172): ignored and counted while the requester's BUSY is 1; else the operation takes its locks and waits for its turn. -/
def Block.opGo (b : Block) (q op : Nat) : Block :=
  let b := b.flowOps
  if b.dev.fon F.FLW_OP_STATUS_BUSY q then b.on (fun d => d.cnt F.FLW_OP_REFUSED_COUNT q)
  else
    let d := b.dev
    let ctl := setBits (d.rget R.FLW_OP_CTRL q).toNat 1 3 op
    let needs := if op = 5 then [d.fget F.FLW_OP_SLOT_SLOT q / 8] else lockOrder (d.buckets (d.opFKey q))
    let o : FlowOp := { who := q, ctl := BitVec.ofNat 32 ctl, come := comeAt d.cycle (16 + q), needs := needs }
    (b.on (fun d => { d.fset F.FLW_OP_STATUS_BUSY q 1 with flow.ops := d.flow.ops ++ [o] }.grant)).flowOps

/-- FLW_OP_LOOKUP. -/
def flwOpLookup (q : Nat) (b : Block) : Block := b.opGo q 1

/-- FLW_OP_INSERT. -/
def flwOpInsert (q : Nat) (b : Block) : Block := b.opGo q 2

/-- FLW_OP_UPDATE. -/
def flwOpUpdate (q : Nat) (b : Block) : Block := b.opGo q 3

/-- FLW_OP_DELETE. -/
def flwOpDelete (q : Nat) (b : Block) : Block := b.opGo q 4

/-- FLW_OP_READ_SLOT. -/
def flwOpReadSlot (q : Nat) (b : Block) : Block := b.opGo q 5

/-! The packet's lookup (R144, R145, R155, R164) -/

/-- The profile class (R145). -/
def Pkt.profClass (p : Pkt) : Nat := if p.clsEn then p.actCls else 0

/-- The flow key and its profile (R145), also used by R188. -/
def Block.flowKey (b : Block) (p : Pkt) : Pkt :=
  let d := b.dev
  let prof := if p.profEn then p.flowProf else bits (d.rget R.FLW_CLASS_PROF).toNat (4 * p.profClass) 4
  let mask := (d.rget R.FLW_PROF_MASK_LO prof).toNat + (d.rget R.FLW_PROF_MASK_HI prof).toNat * 2 ^ 32
  let k := (List.range 48).map (fun n => if bit mask n then p.key.getD n 0 else 0)
  let src := d.fget F.FLW_PROF_CFG_VRF_SRC prof
  let k := if src = 1 then putBytes k 46 (toBe 2 (p.metaWord % 65536))
    else if src = 2 then putBytes k 46 (toBe 2 (b.outerVlan p)) else k
  { p with key := k, prof := prof }

/-- Where a packet stands after the flow engine. -/
inductive FlowEnd where
  | go (p : Pkt)
  | waits
  | drop (p : Pkt)
  deriving DecidableEq, Repr

/-- MISS_OVERFLOW (R164) with the counter of its reason. -/
def Dev.missOverflow (d : Dev) (p : Pkt) (why : Fld) : FlowEnd × Dev :=
  let d := (d.cnt why p.slice).pl p.slice 0x09
  if bit (d.fget F.FLW_CLASS_OVF_DROP) p.profClass then (.drop p, d.cnt F.FLW_OVF_DROP_COUNT p.slice)
  else (.go { p with pol := p.actPol }, d)

/-- Finds a key among the cached lines of its two buckets (R154). -/
def Dev.cacheHit (d : Dev) (k : FKey) : Option Nat :=
  (d.probes k).find? (fun s => match d.cached s with
    | some (_, r) => rcMatch r k
    | none => false)

/-- Packet places in use in a slice's lanes (R155). -/
def Dev.lanePkts (d : Dev) (s : Nat) : Nat := ((d.sl s).flow.map (fun l => l.pkts.length)).sum

/-- The lookup of a packet whose flow key is built (R31, R154, R155, R163). -/
def Block.flowLookup (b : Block) (p : Pkt) : FlowEnd × Block :=
  let s := p.slice
  let b := b.flowOps.on (fun d => d.cnt F.FLW_LOOKUPS_COUNT s)
  let d := b.dev
  match (d.sl s).flow.findIdx? (fun l => l.key == p.key && l.prof == p.prof) with
  | some i =>
    if d.lanePkts s < 4096 then
      (.waits, b.on (fun d => d.updSl s (fun x => { x with
        flow := x.flow.modify i (fun l => { l with pkts := l.pkts ++ [p] }) })))
    else let o := d.missOverflow p F.FLW_OVF_LANE_COUNT; (o.1, { b with dev := o.2 })
  | none =>
    let k := d.fkey p.key p.prof
    let b := b.cacheRead (cacheBucket ((d.buckets k).1 * 8)) (cacheBucket ((d.buckets k).2 * 8))
    let d := b.dev
    match d.cacheHit k with
    | some slot =>
      let u := (b.on (fun d => (d.cnt F.FLW_HITS_COUNT s).pl s 0x07)).flowUpdate slot p
      (.go u.1, u.2)
    | none =>
      if !d.budgetOk s then let o := d.missOverflow p F.FLW_OVF_BUDGET_COUNT; (o.1, { b with dev := o.2 })
      else if 512 ≤ (d.sl s).flow.length ∨ 4096 ≤ d.lanePkts s then
        let o := d.missOverflow p F.FLW_OVF_LANE_COUNT; (o.1, { b with dev := o.2 })
      else
        let lane : Lane := { key := p.key, prof := p.prof, pkts := [p], come := comeAt d.cycle s, needs := lockOrder (d.buckets k) }
        let d := (d.updSl s (fun x => { x with flow := x.flow ++ [lane] })).grant
        let d := (d.cnt F.FLW_MISS_LOOKUPS_COUNT s).pl s 0x08
        let n := (d.sl s).flow.length
        let d := if d.fget F.FLW_LANE_PEAK_COUNT s < n then d.fset F.FLW_LANE_PEAK_COUNT s n else d
        (.waits, { b with dev := d })

/-- The resolution of a lane (R155, R156): the lane leaves, its packets stand after the flow engine in their order. A lane that waits
for a lock is not resolved yet (R157). -/
def Block.laneResolve (b : Block) (s i : Nat) : List FlowEnd × Block :=
  let b := b.flowOps
  match (b.dev.sl s).flow[i]? with
  | none => ([], b)
  | some l =>
    if l.got < l.needs.length then ([], b)
    else
    let b := b.on (fun d => d.updSl s (fun x => { x with flow := x.flow.eraseIdx i }))
    let freed (r : List FlowEnd × Block) : List FlowEnd × Block := (r.1, (r.2.on (fun d => d.grant)).flowOps)
    freed <| match l.pkts with
    | [] => ([], match l.ghost with | some p => (b.flowMiss s (b.dev.fkey l.key l.prof) p).2 | none => b)
    | p :: _ =>
      let r := b.flowMiss s (b.dev.fkey l.key l.prof) p
      l.pkts.foldl (fun (a : List FlowEnd × Block) q =>
        match r.1 with
        | .ok slot => let u := a.2.flowUpdate slot q; (a.1 ++ [.go u.1], u.2)
        | .overflow why =>
          let o := a.2.dev.missOverflow q (if why = 0 then F.FLW_OVF_INSRATE_COUNT else F.FLW_OVF_FULL_COUNT)
          (a.1 ++ [o.1], { a.2 with dev := o.2 })) ([], r.2)

/-! Aging (R161) -/

/-- age_visit of a record: what it becomes, and whether it aged. -/
def Dev.ageVisit (d : Dev) (r : Nat) : Nat × Bool :=
  if rcState r ≠ 1 || rcStatic r then (r, false)
  else if bit r 98 then (setBits r 98 1 0, false)
  else
    let t := d.fget (F.FLW_IDLE_T_MS.nth (bits r 100 4))
    let wrap := 2 ^ 32 * 1000000000
    let now := d.ntuSec % 2 ^ 32 * 1000000000 + d.ntuNsec
    if t ≠ 0 ∧ t * 1000000 ≤ (now + wrap - rcLast r) % wrap then (setBits r 96 2 2, true) else (r, false)

/-- CACHE_SCAN_VISIT (R161): the scanner reads the next cache bucket, its parity checked, and ages it, unless it must wait for a lock
(R157). -/
def cacheScanVisit (b : Block) : Block :=
  let c := b.dev.flow.scanC
  if !b.dev.fon F.FLW_CFG_SCAN_EN ||
      (List.range 8).any (fun i => (at0 b.dev.flow.cache (c * 8 + i)).any (fun l => b.dev.locked (l.slot / 8))) then b
  else (b.cacheRead c c).on fun d =>
    let d := forAll (List.range 8) (fun d i =>
      match at0 d.flow.cache (c * 8 + i) with
      | none => d
      | some l =>
        let v := d.ageVisit l.recd
        let d := if v.2 then (d.flowExport l.recd l.slot 2 0).cnt F.FLW_AGED_CNT_COUNT else d
        if v.1 = l.recd then d else d.setLine (c * 8 + i) (some ⟨l.slot, setBits v.1 124 1 1⟩)) d
    { d with flow.scanC := (c + 1) % 131072 }

/-- DRAM_SCAN_VISIT (R161): the scanner visits the next DRAM slot; a cached one is skipped. SCAN_EN = 0 stops it at a bucket's first
slot; a locked bucket makes it wait (R157). -/
def dramScanVisit (b : Block) : Block :=
  let s := b.dev.flow.scanD
  if (!b.dev.fon F.FLW_CFG_SCAN_EN && s % 8 == 0) || !b.dev.fon F.FLW_SCAN_RATE_RATE || b.dev.locked (s / 8) then b
  else
    let next (b : Block) : Block := b.on (fun d => { d with flow.scanD := (s + 1) % (d.flowBuckets * 8) })
    if !b.dev.uncached s then next b
    else
      let x := b.slotGet s
      let v := x.2.dev.ageVisit x.1
      let b := if v.2 then x.2.on (fun d => (d.flowExport x.1 s 2 0).cnt F.FLW_AGED_CNT_COUNT) else x.2
      next (if v.1 = x.1 then b else b.slotPut s v.1)

end Sys2Proof.Machine
end

