-- ==== Sys2Proof/Machine/Fwd.lean ====
section
/-! DEFINITION. Forwarding (ch 08): L2 tables, learning, LPM, MPLS, destinations, rewrites, table windows. -/

namespace Sys2Proof.Machine

/-! L2 tables (R175, R176) -/

/-- Buckets of a slice's L2 table. -/
def Dev.l2Buckets (d : Dev) : Nat := d.fget F.FWD_SRAM_SPLIT_L2_MIB * 512

/-- Buckets b1 and b2 of a key. The VLAN is hashed in network order, as the MAC before it (DEDUCED, log 20). -/
def Dev.l2Hash (d : Dev) (mac vlan : Nat) : Nat × Nat :=
  let h (salt : Nat) : Nat := crc32c (toLe 4 salt ++ toBe 6 mac ++ toBe 2 vlan) % d.l2Buckets
  let a := h (d.fget F.FWD_L2_SALT1_SALT)
  let b := h (d.fget F.FWD_L2_SALT2_SALT)
  (a, if a = b then a ^^^ 1 else b)

/-- The 16 entries of a key: those of b1, then of b2. -/
def Dev.l2Places (d : Dev) (mac vlan : Nat) : List Nat :=
  let b := d.l2Hash mac vlan
  (List.range 8).map (fun i => b.1 * 8 + i) ++ (List.range 8).map (fun i => b.2 * 8 + i)

/-- An entry of a slice's table. -/
def Dev.l2 (d : Dev) (s i : Nat) : Option L2E := at0 d.fwd.l2 (s * 65536 + i)

/-- Sets an entry. -/
def Dev.setL2 (d : Dev) (s i : Nat) (e : Option L2E) : Dev :=
  { d with fwd.l2 := Sparse.set none d.fwd.l2 (s * 65536 + i) e }

/-- Word index of an entry in the class of L2 entries (Table 15-2; DEDUCED, log 21). -/
def l2Word (s i : Nat) : Nat := (s * 65536 + i) * 2

/-- Finds a key; an entry that fails parity reads as absent (Table 15-2). -/
def Dev.l2Find (d : Dev) (s mac vlan : Nat) : Option (Nat × L2E) × Dev :=
  match (d.l2Places mac vlan).findSome? (fun i => (d.l2 s i).bind (fun e =>
      if e.mac = mac ∧ e.vlan = vlan then some (i, e) else none)) with
  | none => (none, d)
  | some x =>
    let r := d.sramReads 0x16 s (l2Word s x.1) 2 (toBe 6 mac ++ toLe 2 vlan)
    (if r.1 then none else some x, r.2)

/-- Valid entries of a slice's table (FWD_L2_ENTRIES). -/
def Dev.l2Count (d : Dev) (s : Nat) : Nat :=
  (d.fwd.l2.filter (fun x => x.1 / 65536 == s && x.2.isSome)).length

/-- NTU seconds mod 65,536. -/
def Dev.stampNow (d : Dev) : Nat := d.ntuSec % 65536

/-! Learning (R177 to R182) -/

/-- A learn record (Table 08-2); `t` is NTU time in 2^-40 ns. -/
def Dev.learnRecord (d : Dev) (s : Nat) (mac vlan reason : Nat) (move : Bool) (flaps dest prev t : Nat) : List Byte :=
  toBe 6 mac ++ toLe 2 vlan ++ toLe 1 (reason + 8 * b2n move + 16 * flaps) ++ toLe 1 s ++ toLe 1 d.devid ++ toLe 1 0 ++
  toLe 4 dest ++ toLe 4 prev ++ toLe 4 (secOf t) ++ toLe 4 (nsOf t) ++ toLe 4 0

/-- Posts a learn record to Stable or to the host learn ring (R182). -/
def Dev.learnPost (d : Dev) (s : Nat) (recd : List Byte) : Dev :=
  if d.fon F.FWD_LEARN_CFG_DEST then
    if d.ringFull 4 (d.stream 4).length then d.cnt F.FWD_LEARN_DROP_COUNT s
    else (d.addStream 4 recd).cnt F.FWD_LEARN_POSTED_COUNT s
  else
    let f := F.FWD_LEARN_DROP_COUNT
    (d.addPost { (default : Post) with
      kind := 5, owner := 528, body := recd, slice := s, failCnt := some (f.off, f.lo, f.w, s) }).cnt
      F.FWD_LEARN_POSTED_COUNT s

/-- Posts an AGED or EVICTED record (R182). -/
def Dev.agePost (d : Dev) (s reason : Nat) (e : L2E) : Dev :=
  if d.fon F.FWD_LEARN_CFG_AGE_EVT then
    d.learnPost s (d.learnRecord s e.mac e.vlan reason false 0 e.dest 0xFFFFFFFF d.ntu.total)
  else d

/-- A learn candidate (R179, R180). `rx` is the packet's receive time. (DEDUCED, log 77.) -/
def Dev.learn (d : Dev) (s mac vlan src reason entryDest rx : Nat) : Dev :=
  let fresh : LearnPlace :=
    { mac := mac, vlan := vlan, latest := src, prev := 0xFFFFFFFF, moved := false, flaps := 0, reason := reason,
      entryDest := entryDest, opened := rx, since := d.cycle, hold := none }
  let ps := (d.sl s).learn
  let put (l : List LearnPlace) : Dev := d.updSl s (fun x => { x with learn := l })
  match ps.findIdx? (fun x => x.mac == mac && x.vlan == vlan) with
  | some i =>
    let x := ps.getD i fresh
    if x.latest = src then d
    else if x.hold.isSome then put (ps.set i fresh)
    else put (ps.set i { x with moved := true, prev := x.latest, latest := src, flaps := min 15 (x.flaps + 1) })
  | none =>
    if ps.length < 1024 then put (ps ++ [fresh])
    else
      let oldest := (List.range 1024).foldl (fun (a : Option (Nat × Nat)) i =>
        match (ps.getD i fresh).hold, a with
        | some h, none => some (i, h)
        | some h, some (j, g) => if h < g then some (i, h) else some (j, g)
        | none, a => a) none
      match oldest with
      | some (i, _) => put (ps.set i fresh)
      | none => d.cnt F.FWD_LEARN_DROP_COUNT s

/-- LEARN_WINDOW_CLOSE (R179): the window of place i closes 2,000 ns after it opened; its record is posted. -/
def learnWindowClose (s i : Nat) (d : Dev) : Dev :=
  match (d.sl s).learn[i]? with
  | none => d
  | some x =>
    if x.hold.isSome then d
    else
      let d := d.toCycle (x.since + cyclesOfNs 2000)
      let prev := if x.moved then x.prev else if x.reason = 2 then x.entryDest else 0xFFFFFFFF
      let d := d.learnPost s (d.learnRecord s x.mac x.vlan x.reason x.moved x.flaps x.latest prev x.opened)
      d.updSl s (fun y => { y with learn := y.learn.set i { x with hold := some d.cycle } })

/-- LEARN_HOLDOFF_END (R180): the place becomes free. -/
def learnHoldoffEnd (s i : Nat) (d : Dev) : Dev :=
  match (d.sl s).learn[i]? with
  | none => d
  | some x =>
    match x.hold with
    | none => d
    | some h =>
      (d.toCycle (h + cyclesOfNs (d.fget F.FWD_LEARN_CFG_HOLDOFF_US * 1000))).updSl s (fun y =>
        { y with learn := y.learn.eraseIdx i })

/-! Tables of the windows (Table 08-7, Table 08-8) -/

/-- A read of `n` bytes of the tables of class 0x17 at a window offset; whether a word of them fails parity. -/
def Block.tabBad (b : Block) (s off n : Nat) : Bool × Block :=
  (List.range ((off % 8 + n + 7) / 8)).foldl (fun a i =>
    let w := (off - 0x3400000) / 8 + i
    let r := a.2.dev.sramRead 0x17 s w (toLe 4 (0x3400000 + 8 * w))
    (a.1 || r.1, { a.2 with dev := r.2 })) (false, b)

def vlanOff (v : Nat) : Nat := 0x34C0000 + v * 16
def Block.vlanVrf (b : Block) (v : Nat) : Nat := b.mem.num .tabs (vlanOff v) 2 % 4096
def Block.vlanLearn (b : Block) (v : Nat) : Bool := bit (b.mem.num .tabs (vlanOff v) 2) 12
def Block.vlanFlood (b : Block) (v : Nat) : Bool := bit (b.mem.num .tabs (vlanOff v) 2) 13
def Block.floodGroup (b : Block) (v : Nat) : Nat := b.mem.num .tabs (vlanOff v + 2) 2 % 4096

/-- DEST encodings (Table 08-4). -/
def mkDest (kind index : Nat) : Nat := kind * 65536 + index
def destKind (t : Nat) : Nat := bits t 16 3
def destIndex (t : Nat) : Nat := bits t 0 16

/-- Destination and source MAC addresses of a packet. -/
def daOf (p : List Byte) : Nat := beNat (p.take 6)
def saOf (p : List Byte) : Nat := beNat ((p.drop 6).take 6)

/-- The learn source of a packet (R177). -/
def Block.learnSource (b : Block) (p : Pkt) : Nat :=
  if bit (b.portCfg p.port 6 2) 15 then mkDest 2 (b.portCfg p.port 6 2 % 4096)
  else if p.kind = 1 then mkDest 3 p.team else mkDest 0 p.port

/-- The source check (R177). -/
def Block.sourceCheck (b : Block) (p : Pkt) (vlan : Nat) : Block :=
  if p.pass ≠ 1 ∨ 1 < p.kind ∨ p.l2only then b
  else
    let s := p.slice
    let mac := saOf p.data
    let src := b.learnSource p
    let may := bit (b.portCfg p.port 0 2) 12 && b.vlanLearn vlan && !p.noLearn
    let r := b.dev.l2Find s mac vlan
    let d := r.2
    { b with dev := match r.1 with
      | some (i, e) =>
        if e.dest = src then d.setL2 s i (some { e with hit := true, stamp := d.stampNow })
        else if e.isStatic then d.cnt F.FWD_L2_STATIC_MOVE_COUNT s
        else if may then d.learn s mac vlan src 2 e.dest p.rxAt else d
      | none => if may then d.learn s mac vlan src 1 0 p.rxAt else d }

/-! Software operations on L2 (R183) -/

/-- The requester's key. -/
def Dev.l2Key (d : Dev) (q : Nat) : Nat × Nat :=
  (d.fget F.FWD_L2_OP_KEY_LO_MAC q + d.fget F.FWD_L2_OP_KEY_HI_MAC q * 2 ^ 32, d.fget F.FWD_L2_OP_KEY_HI_VLAN q)

/-- Ends an operation: DONE, ERR, the INSERT outcome. -/
def Dev.l2End (d : Dev) (q err : Nat) (ev re : Bool) : Dev :=
  let d := (d.fset F.FWD_L2_OP_STATUS_BUSY q 0).fset F.FWD_L2_OP_STATUS_DONE q 1
  ((d.fset F.FWD_L2_OP_STATUS_ERR q err).fset F.FWD_L2_OP_STATUS_EVICTED q (b2n ev)).fset F.FWD_L2_OP_STATUS_REPLACED q (b2n re)

/-- A GO while BUSY is 1 is ignored and counted (R183, R190). -/
def Block.opIfFree (b : Block) (q : Nat) (busy : Fld) (f : Block → Block) : Block :=
  if b.dev.fon busy q then b.on (fun d => d.cnt F.FWD_OP_REFUSED_COUNT q) else f b

/-- The place of a key in the table as stored, parity apart. -/
def Dev.l2At (d : Dev) (s mac vlan : Nat) : Option (Nat × L2E) :=
  (d.l2Places mac vlan).findSome? (fun i => (d.l2 s i).bind (fun e =>
    if e.mac = mac ∧ e.vlan = vlan then some (i, e) else none))

/-- Writes an entry whole: its failing words read good again (R328). -/
def Block.putL2 (b : Block) (s i : Nat) (e : Option L2E) : Block :=
  (b.on (fun d => d.setL2 s i e)).scrubFrees 0x16 (l2Word s i) 2

/-- The victim of a full pair of buckets (R183); none where every entry is static. -/
def Dev.l2Victim (d : Dev) (s : Nat) (ps : List Nat) : Option Nat × Dev :=
  let cand := ps.filter (fun i => match d.l2 s i with | some e => !e.isStatic | none => false)
  let age (i : Nat) : Nat := match d.l2 s i with | some e => (d.stampNow + 65536 - e.stamp) % 65536 | none => 0
  if cand.isEmpty then (none, d)
  else if d.fon F.FWD_CFG_L2_EVICT then
    let v := lfsrStep ((d.sl s).lfsr.getD (lfsrSeed (d.fget F.FWD_L2_LFSR_SEED)))
    (cand[v % cand.length]?, d.updSl s (fun x => { x with lfsr := some v }))
  else (some (cand.foldl (fun a i => if age a < age i then i else a) (cand.headD 0)), d)

/-- L2_OP_INSERT (R183). (DEDUCED, log 129.) -/
def l2OpInsert (q s : Nat) (b : Block) : Block :=
  b.opIfFree q F.FWD_L2_OP_STATUS_BUSY (fun b =>
    let d := b.dev
    let k := d.l2Key q
    let dest := d.fget F.FWD_L2_OP_DEST_DEST q
    let st := d.fon F.FWD_L2_OP_CTRL_STATIC q
    let new : L2E := { mac := k.1, vlan := k.2, isStatic := st, hit := false, dest := dest, stamp := d.stampNow }
    match d.l2At s k.1 k.2 with
    | some (i, e) => (b.putL2 s i (some { e with dest := dest, isStatic := st })).on (fun d => d.l2End q 0 false true)
    | none =>
      let ps := d.l2Places k.1 k.2
      match ps.find? (fun i => (d.l2 s i).isNone) with
      | some i => (b.putL2 s i (some new)).on (fun d => d.l2End q 0 false false)
      | none =>
        let v := d.l2Victim s ps
        match v.1 with
        | none => { b with dev := v.2.l2End q 2 false false }
        | some i =>
          let old := (v.2.l2 s i).getD new
          let d := (v.2.cnt F.FWD_L2_EVICT_COUNT s).agePost s 4 old
          ({ b with dev := d }.putL2 s i (some new)).on (fun d => d.l2End q 0 true false))

/-- L2_OP_DELETE (R183). -/
def l2OpDelete (q s : Nat) (b : Block) : Block :=
  b.opIfFree q F.FWD_L2_OP_STATUS_BUSY (fun b =>
    let k := b.dev.l2Key q
    match b.dev.l2At s k.1 k.2 with
    | some (i, _) => (b.putL2 s i none).on (fun d => d.l2End q 0 false false)
    | none => b.on (fun d => d.l2End q 1 false false))

/-- L2_OP_LOOKUP (R183). Without an entry it ends as a DELETE does (DESIGN CHOICE, log 22). -/
def l2OpLookup (q s : Nat) (b : Block) : Block :=
  b.opIfFree q F.FWD_L2_OP_STATUS_BUSY (fun b =>
    let k := b.dev.l2Key q
    let r := b.dev.l2Find s k.1 k.2
    match r.1 with
    | some (_, e) => { b with dev := (r.2.fset F.FWD_L2_OP_RESULT_DEST q e.dest).l2End q 0 false false }
    | none => { b with dev := r.2.l2End q 1 false false })

/-- L2_OP_FLUSH (R183): the walk starts. -/
def l2OpFlush (q s : Nat) (b : Block) : Block :=
  b.opIfFree q F.FWD_L2_OP_STATUS_BUSY (fun b => b.on (fun d =>
    let f : Flush :=
      { who := q, since := d.cycle
        dest := if d.fon F.FWD_L2_OP_CTRL_FLUSH_DEST q then some (d.fget F.FWD_L2_OP_DEST_DEST q) else none
        vlan := if d.fon F.FWD_L2_OP_CTRL_FLUSH_VLAN q then some (d.l2Key q).2 else none }
    (d.fset F.FWD_L2_OP_STATUS_BUSY q 1).updSl s (fun x => { x with flush := x.flush ++ [f] })))

/-- L2_FLUSH_DONE (R183): a flush ends, one bucket a cycle after its start; the matching entries are gone (DESIGN CHOICE, log 23). -/
def l2FlushDone (s : Nat) (d : Dev) : Dev :=
  match (d.sl s).flush with
  | [] => d
  | f :: r =>
    let d := d.toCycle (f.since + d.l2Buckets)
    let gone (x : Nat × Option L2E) : Bool := x.1 / 65536 == s && (match x.2 with
      | some e => !e.isStatic && f.dest.all (fun t => e.dest == t) && f.vlan.all (fun v => e.vlan == v)
      | none => false)
    let d := { d with fwd.l2 := d.fwd.l2.filter (fun x => !gone x) }
    (d.updSl s (fun x => { x with flush := r })).l2End f.who 0 false false

/-- L2_SCAN_VISIT (R184): the slice's scanner visits its next entry. -/
def l2ScanVisit (s : Nat) (d : Dev) : Dev :=
  if !d.fon F.FWD_CFG_L2_SCAN_EN then d
  else
    let i := (d.sl s).scanL2
    let d := d.updSl s (fun x => { x with scanL2 := (i + 1) % (d.l2Buckets * 8) })
    match d.l2 s i with
    | none => d
    | some e =>
      let p := d.sramReads 0x16 s (l2Word s i) 2 (toBe 6 e.mac ++ toLe 2 e.vlan)
      if p.1 then p.2 else
      let age := d.fget F.FWD_L2_AGE_SEC
      if e.isStatic then d
      else if e.hit then d.setL2 s i (some { e with hit := false })
      else if age ≠ 0 ∧ age ≤ (d.stampNow + 65536 - e.stamp) % 65536 then
        ((d.setL2 s i none).cnt F.FWD_L2_AGED_COUNT s).agePost s 3 e
      else d

/-! LPM (R189, R190) -/

/-- Whether a prefix covers an address of its VRF and family. -/
def Prefix.covers (x : Prefix) (vrf : Nat) (v6 : Bool) (addr : Nat) : Bool :=
  x.vrf == vrf && x.v6 == v6 && x.addr / 2 ^ (addrBits v6 - x.len) == addr / 2 ^ (addrBits v6 - x.len)

/-- Whether a prefix is long (R189). -/
def Prefix.long (x : Prefix) : Bool := decide (blockBits x.v6 ≤ x.len)

/-- The longest of some prefixes that covers an address. -/
def longest (l : List Prefix) (vrf : Nat) (v6 : Bool) (addr : Nat) : Option Prefix :=
  (l.filter (fun x => x.covers vrf v6 addr)).foldl (fun (a : Option Prefix) x => match a with
    | none => some x
    | some y => if y.len < x.len then some x else some y) none

/-- Whether a block has a top entry. -/
def Dev.topEntry (d : Dev) (vrf : Nat) (v6 : Bool) (addr : Nat) : Bool :=
  d.fwd.lpm.any (fun x => x.vrf == vrf && x.v6 == v6 && x.long && blockOf v6 x.addr == blockOf v6 addr)

/-- Top entries in use. -/
def Dev.topUsed (d : Dev) : Nat :=
  ((d.fwd.lpm.filter (fun x => x.long)).foldl (fun (a : List (Nat × Bool × Nat)) x =>
    let k := (x.vrf, x.v6, blockOf x.v6 x.addr)
    if a.contains k then a else a ++ [k]) []).length

/-- Top entries there are. -/
def Dev.topAll (d : Dev) : Nat := d.fget F.FWD_SRAM_SPLIT_LPM_TOP_MIB * 65536

/-- The leaf that a lookup reads (R189): the short prefixes' without a top entry; none where the top entry's block has no longer prefix. -/
def Dev.lpmLeaf (d : Dev) (vrf : Nat) (v6 : Bool) (addr : Nat) : Option LeafKey :=
  if !d.topEntry vrf v6 addr then some ⟨vrf, v6, none⟩
  else
    let k : LeafKey := ⟨vrf, v6, some (blockOf v6 addr)⟩
    if d.fwd.lpm.any (fun x => x.leaf == some k) then some k else none

/-- Leaf reads of a lookup (R189): one in the short-prefix leaf; in another one or two, as the leaves' layout, which is not visible, has it: a
free value (DESIGN CHOICE, log 2). (DESIGN CHOICE, log 59.) -/
def Dev.lpmReads (d : Dev) (vrf : Nat) (v6 : Bool) (addr : Nat) : Nat × Dev :=
  match d.lpmLeaf vrf v6 addr with
  | none => (0, d)
  | some k => if k.block.isNone then (1, d) else (1 + (d.fresh 1).1, (d.fresh 1).2)

/-- The top entry of an address of a VRF and family. -/
def topOf (vrf : Nat) (v6 : Bool) (addr : Nat) : LeafKey := ⟨vrf, v6, some (blockOf v6 addr)⟩

/-- The reads of a software LOOKUP or MATCH: the prefixes it can see. Those of a leaf that fails, or of the leaf of a top entry that fails,
are absent to it (DESIGN CHOICE, log 164). -/
def Dev.lpmSeen (d : Dev) (exact : Bool) (x : Prefix) : List Prefix × Dev :=
  let t := topOf x.vrf x.v6 x.addr
  let r := d.topRead t 0xFFFF
  match (if exact then x.leaf else r.2.lpmLeaf x.vrf x.v6 x.addr) with
  | none => (r.2.fwd.lpm, r.2)
  | some k =>
    let f := r.2.leafRead k 0xFFFF false (topDetail x.vrf x.v6 (blockOf x.v6 x.addr))
    (if f.1 || r.1 then f.2.fwd.lpm.filter (fun y => y.leaf != some k) else f.2.fwd.lpm, f.2)

/-- The DEST that the covering top entry carries (R193): of its block's own prefix, or the longest short one. -/
def Dev.topDest (d : Dev) (vrf : Nat) (v6 : Bool) (addr : Nat) : Option Nat :=
  if d.topEntry vrf v6 addr then
    (longest (d.fwd.lpm.filter (fun x => decide (x.len ≤ blockBits v6))) vrf v6 addr).map (fun x => x.dest)
  else none

/-- The prefix that the requester's registers name. -/
def Dev.lpmPrefix (d : Dev) (q : Nat) : Prefix :=
  let v6 := d.fon F.FWD_LPM_OP_CFG_V6 q
  let a := ((List.range (if v6 then 4 else 1)).map (fun n => d.fget (F.FWD_LPM_OP_ADDR_ADDR.nth n) q * 2 ^ (32 * n))).sum
  { vrf := d.fget F.FWD_LPM_OP_CFG_VRF q, v6 := v6, addr := a, len := d.fget F.FWD_LPM_OP_CFG_LEN q,
    dest := d.fget F.FWD_LPM_OP_DEST_DEST q }

/-- Lengths accepted (R189). -/
def Prefix.lenOk (x : Prefix) : Bool := if x.v6 then decide (x.len ≤ 64) || x.len == 128 else decide (x.len ≤ 32)

/-- Same VRF, family, length and prefix bits. -/
def Prefix.same (x y : Prefix) : Bool := x.len == y.len && x.covers y.vrf y.v6 y.addr

/-- Ends an LPM operation. -/
def Dev.lpmEnd (d : Dev) (q err : Nat) : Dev :=
  ((d.fset F.FWD_LPM_OP_STATUS_BUSY q 0).fset F.FWD_LPM_OP_STATUS_DONE q 1).fset F.FWD_LPM_OP_STATUS_ERR q err

/-- The rate of the device leaf account, M per second: at most 6,250 (R192), also where a larger one was written (DESIGN CHOICE,
log 149). -/
def Dev.leafRate (d : Dev) : Nat := min 6250 (d.fget F.FWD_LEAF_DEV_BUDGET_RATE)

/-- M per second: 3,000 units are one leaf read. -/
def Dev.leafDevTake (d : Dev) (n : Nat) : Dev :=
  { d with fwd.leafDev := d.fwd.leafDev.take (1024 * acctUnit) d.leafRate d.cycle (n * acctUnit) }

/-- Whether n reads of an operation find the device leaf account at 1 or more (R190). -/
def Dev.lpmReady (d : Dev) (n : Nat) : Bool :=
  n == 0 || decide ((acctUnit : Int) ≤ d.fwd.leafDev.now (1024 * acctUnit) d.leafRate d.cycle)

/-- LPM_OP_ADD and LPM_OP_DELETE (R190): the change waits for its commit. -/
def Dev.lpmChange (d : Dev) (q : Nat) (add : Bool) : Dev :=
  let x := d.lpmPrefix q
  if !x.lenOk then d.lpmEnd q 3
  else { d.fset F.FWD_LPM_OP_STATUS_BUSY q 1 with fwd.lpmOps := d.fwd.lpmOps ++ [(q, (add, x))] }

/-- Answers RESULT and RLEN, or NOT_FOUND. -/
def Dev.lpmAnswer (d : Dev) (q : Nat) (r : Option Prefix) : Dev :=
  match r with
  | some x => ((d.fset F.FWD_LPM_OP_RESULT_DEST q x.dest).fset F.FWD_LPM_OP_RLEN_LEN q x.len).lpmEnd q 0
  | none => d.lpmEnd q 1

/-- The outcome of a LOOKUP (`exact`) or a MATCH, its n leaf reads charged. -/
def Dev.lpmFind (d : Dev) (q : Nat) (exact : Bool) (n : Nat) (x : Prefix) : Dev :=
  let r := d.lpmSeen exact x
  (r.2.leafDevTake n).lpmAnswer q (if exact then r.1.find? (fun y => y.same x) else longest r.1 x.vrf x.v6 x.addr)

/-- A LOOKUP or MATCH reads at once, or waits for the device leaf account, BUSY set (R190). -/
def Dev.lpmAsk (d : Dev) (q : Nat) (exact : Bool) : Dev :=
  let x := d.lpmPrefix q
  if exact && !x.lenOk then d.lpmEnd q 3
  else
    let n := d.lpmReads x.vrf x.v6 x.addr
    if n.2.lpmReady n.1 then n.2.lpmFind q exact n.1 x
    else { n.2.fset F.FWD_LPM_OP_STATUS_BUSY q 1 with fwd.lpmAsks := d.fwd.lpmAsks ++ [(q, (exact, (n.1, x)))] }

/-- The waiting LOOKUPs and MATCHes whose turn has come, in order: brought up to date before the table changes and when the FWD block is
accessed (DESIGN CHOICE, log 19). -/
def Dev.lpmAnswers (d : Dev) : Dev :=
  forAll d.fwd.lpmAsks (fun d a =>
    if d.lpmReady a.2.2.1 then
      { d.lpmFind a.1 a.2.1 a.2.2.1 a.2.2.2 with fwd.lpmAsks := d.fwd.lpmAsks.filter (fun y => y.1 != a.1) }
    else d) d

/-- An LPM operation of a requester (R190): ignored and counted while its BUSY is 1. -/
def Block.lpmOp (b : Block) (q : Nat) (f : Dev → Dev) : Block :=
  (b.on (fun d => d.lpmAnswers)).opIfFree q F.FWD_LPM_OP_STATUS_BUSY (fun b => b.on f)

/-- LPM_OP_ADD (R190): a new or replaced prefix. -/
def lpmOpAdd (q : Nat) (b : Block) : Block := b.lpmOp q (fun d => d.lpmChange q true)

/-- LPM_OP_DELETE (R190). -/
def lpmOpDelete (q : Nat) (b : Block) : Block := b.lpmOp q (fun d => d.lpmChange q false)

/-- LPM_OP_LOOKUP (R190): an exact prefix. -/
def lpmOpLookup (q : Nat) (b : Block) : Block := b.lpmOp q (fun d => d.lpmAsk q true)

/-- LPM_OP_MATCH (R190): the longest match for an address. -/
def lpmOpMatch (q : Nat) (b : Block) : Block := b.lpmOp q (fun d => d.lpmAsk q false)

/-- Whether a prefix takes leaf space in DRAM (R189): all but those as long as their block. -/
def Prefix.inLeaves (x : Prefix) : Bool := x.len != blockBits x.v6

/-- Whether leaf space runs out for a new prefix (R189): a free value, as the layout is not visible; never for the first one that takes
any (DESIGN CHOICE, log 59). -/
def Dev.leafSpaceOut (d : Dev) (x : Prefix) : Bool × Dev :=
  if x.inLeaves && d.fwd.lpm.any (fun y => y.inLeaves) then ((d.fresh 1).1 == 1, (d.fresh 1).2) else (false, d)

/-- Whether an ADD of a new prefix finds no room for its entry (R189, R190). -/
def Dev.lpmFull (d : Dev) (x : Prefix) : Bool :=
  decide (2097152 ≤ d.fwd.lpm.length) ||
  (if x.long then !d.topEntry x.vrf x.v6 x.addr && decide (d.topAll ≤ d.topUsed)
   else decide (4096 ≤ (d.fwd.lpm.filter (fun y => y.vrf == x.vrf && y.v6 == x.v6 && !y.long)).length))

/-- A change that commits within a top entry, or among the short prefixes, whose leaf or word has failed (R328): the failed leaf gives way
to a new one, so what it held is gone, and the records are freed. -/
def Block.leafRepair (b : Block) (k : LeafKey) : Block :=
  let leaf := b.dev.fwd.leafAt.find? (fun x => x.1 == k && b.dev.burstBad x.2)
  let top := b.dev.fwd.topAt.find? (fun x => x.1 == k && b.dev.wordBad 0x18 x.2)
  if leaf.isNone && top.isNone then b
  else
    let b := b.on (fun d => { d with
      fwd.lpm := d.fwd.lpm.filter (fun y => y.leaf != some k)
      fwd.leafAt := d.fwd.leafAt.filter (fun x => x.1 != k)
      fwd.topAt := d.fwd.topAt.filter (fun x => x.1 != k) })
    let b := match leaf with
      | some x => b.scrubFree 0x04 x.2
      | none => b
    match top with
    | some x => b.scrubFree 0x18 x.2
    | none => b

/-- LPM_COMMIT (R190): the oldest waiting change commits, its DRAM reads done: their number, which the hidden layout decides, is a free
value (DESIGN CHOICE, log 2). While they wait for the device leaf account it does not. -/
def lpmCommit (b : Block) : Block :=
  let b := b.on (fun d => d.lpmAnswers)
  let f := b.dev.fresh 2
  match b.dev.fwd.lpmOps with
  | [] => b
  | (q, (add, x)) :: r =>
    if !b.dev.lpmReady f.1 then b
    else
    let d := { f.2.leafDevTake f.1 with fwd.lpmOps := r }
    let b := { b with dev := d }
    let has := d.fwd.lpm.any (fun y => y.same x)
    let k : LeafKey := ⟨x.vrf, x.v6, if x.long then some (blockOf x.v6 x.addr) else none⟩
    let put (b : Block) (l : List Prefix) : Block :=
      (b.leafRepair k).on (fun d => { d with fwd.lpm := d.fwd.lpm.filter (fun (y : Prefix) => !y.same x) ++ l }.lpmEnd q 0)
    if add then
      let full := if has then (false, d) else d.leafSpaceOut x
      let b := { b with dev := full.2 }
      if !has && (d.lpmFull x || full.1) then b.on (fun d => d.lpmEnd q 2) else put b [x]
    else if has then put b []
    else b.on (fun d => d.lpmEnd q 1)

/-! MPLS (R191) -/

/-- First byte of a label's record. -/
def Dev.labelAddr (d : Dev) (l : Nat) : Nat := d.mplsBase + l * 64

/-- Ends an MPLS operation. -/
def Dev.mplsEnd (d : Dev) (q : Nat) (nf : Bool) : Dev :=
  (d.fset F.FWD_MPLS_OP_STATUS_DONE q 1).fset F.FWD_MPLS_OP_STATUS_NOT_FOUND q (b2n nf)

/-- MPLS_OP_WRITE: the record is written and the label marked. -/
def mplsOpWrite (q : Nat) (b : Block) : Block :=
  let l := b.dev.fget F.FWD_MPLS_OP_LABEL_LABEL q
  let bs := ((List.range 4).map (fun n => toLe 4 (b.dev.fget (F.FWD_MPLS_OP_DATA_DATA.nth n) q))).flatten
  let b := b.dramWhole (b.dev.labelAddr l) (bs ++ List.replicate 48 0)
  let b := (b.scrubFree 0x05 (b.dev.labelAddr l)).scrubFree 0x19 (l / 64)
  b.on (fun d => ({ d with fwd.labels := if d.fwd.labels.contains l then d.fwd.labels else d.fwd.labels ++ [l] }).mplsEnd q false)

/-- MPLS_OP_CLEAR: the label is unmarked. -/
def mplsOpClear (q : Nat) (b : Block) : Block :=
  let l := b.dev.fget F.FWD_MPLS_OP_LABEL_LABEL q
  (b.scrubFree 0x19 (l / 64)).on (fun d => ({ d with fwd.labels := d.fwd.labels.erase l }).mplsEnd q false)

/-- MPLS_OP_READ: the record, or NOT_FOUND for an unmarked label. A word of the bitmap that fails parity reads unmarked; a record that fails
its check twice is not found (DESIGN CHOICE, log 164). -/
def mplsOpRead (q : Nat) (b : Block) : Block :=
  let l := b.dev.fget F.FWD_MPLS_OP_LABEL_LABEL q
  let m := b.dev.sramRead 0x19 0xFFFF (l / 64) []
  let b := { b with dev := m.2 }
  if m.1 || !b.dev.fwd.labels.contains l then b.on (fun d => d.mplsEnd q true)
  else
    let r := b.dramRead (b.dev.labelAddr l) 64 0xFFFF
    match r.1 with
    | none => r.2.on (fun d => d.mplsEnd q true)
    | some e => r.2.on (fun d => (forAll (List.range 4) (fun d n =>
        d.fset (F.FWD_MPLS_OP_DATA_DATA.nth n) q (leNat ((e.drop (4 * n)).take 4))) d).mplsEnd q false)

/-! Destination selection (R174, R178) -/

/-- What fwd_select answers: a DEST, an LPM lookup, a label record to read, a punt with its code, or a packet that is
gone (its counter already taken). -/
inductive Sel where
  | dest (t : Nat)
  | lpm (vrf : Nat) (v6 : Bool) (addr : Nat) (popped : Bool)
  | label (l : Nat)
  | punt (code : Nat)
  | gone
  deriving DecidableEq, Repr

/-- The destination lookup (R178). -/
def Block.l2Dest (b : Block) (s da vlan : Nat) : Sel × Block :=
  let r := b.dev.l2Find s da vlan
  match r.1 with
  | some (_, e) => (.dest e.dest, { b with dev := r.2 })
  | none =>
    let b := { b with dev := r.2.cnt F.FWD_L2_DA_MISS_COUNT s }
    if b.vlanFlood vlan then (.dest (mkDest 4 (b.floodGroup vlan)), b) else (.gone, b)

/-- Whether an address hits the router MAC (R174). (DEDUCED, log 76.) -/
def Dev.rmac (d : Dev) (n : Nat) : Nat :=
  (d.rget (R.FWD_RMAC + 8 * n)).toNat + (d.rget (R.FWD_RMAC + 8 * n + 4)).toNat % 65536 * 2 ^ 32
def Dev.rmacHit (d : Dev) (da : Nat) : Bool :=
  (List.range 16).any (fun n => bit (d.rget (R.FWD_RMAC + 8 * n + 4)).toNat 16 && d.rmac n == da)

/-- The outer IP destination as a number. -/
def outerDst (p : Pkt) : Nat :=
  let o := p.pr.offL3.getD 0
  if p.pr.oL3 = 2 then beNat ((p.data.drop (o + 24)).take 16) else beNat ((p.data.drop (o + 16)).take 4)

/-- The MPLS lookup of the top label up to the record read (R191). -/
def Block.mplsDest (b : Block) (p : Pkt) (vlan : Nat) : Sel × Block :=
  let w := f32 p.data (p.pr.offMpls.getD 0)
  let l := w / 4096
  if (l = 0 ∨ l = 2) ∧ bit w 8 then (.lpm (b.vlanVrf vlan) (p.pr.oL3 == 2) (outerDst p) true, b)
  else if l < 16 then (.punt 3, b)
  else
    let r := b.dev.sramRead 0x19 p.slice (l / 64) []
    let b := { b with dev := r.2 }
    if r.1 || !b.dev.fwd.labels.contains l then
      let b := b.on (fun d => d.cnt F.FWD_MPLS_MISS_COUNT p.slice)
      (if bit (b.portCfg p.port 4) 4 then .punt 4 else .gone, b)
    else (.label l, b)

/-- fwd_select (R174); a VLAN or port entry that fails parity drops the packet (Table 15-2). -/
def Block.fwdSelect (b : Block) (p : Pkt) : Sel × Block :=
  let vlan := b.outerVlan p
  let x := b.tabBad p.slice (0x35C0000 + p.port * 16) 16
  let y := x.2.tabBad p.slice (vlanOff vlan) 16
  if x.1 || y.1 then (.gone, y.2.on (fun d => d.cnt F.FWD_DEST_DROP_COUNT p.slice))
  else
    let b := y.2.sourceCheck p vlan
    let da := daOf p.data
    if p.l2only || !b.dev.rmacHit da then b.l2Dest p.slice da vlan
    else if p.pr.labels ≠ 0 ∧ bit (b.portCfg p.port 0 2) 14 then b.mplsDest p vlan
    else if p.pr.oL3 ≠ 0 ∧ bit (b.portCfg p.port 0 2) 13 then
      (.lpm (b.vlanVrf vlan) (p.pr.oL3 == 2) (outerDst p) false, b)
    else b.l2Dest p.slice da vlan

/-! Resolution (R186 to R188) -/

/-- The 48-byte key of R188: the flow key, or MACs and VLAN for L2_ONLY packets. (DESIGN CHOICE, log 31.) -/
def Block.hashKey (b : Block) (p : Pkt) : List Byte :=
  if p.l2only then (p.data.take 12 ++ toBe 2 (b.outerVlan p) ++ List.replicate 48 0).take 48 else p.key

/-- h of R188 and R251. -/
def Block.hash (b : Block) (p : Pkt) (salt : Nat) : Nat := crc32c (toLe 4 salt ++ b.hashKey p)

/-- Where a packet goes: a port, a team, a multicast group, a punt, or nowhere. -/
inductive Route where
  | port (p : Nat)
  | team (t : Nat)
  | mcast (g : Nat)
  | punt (code : Nat)
  | drop
  deriving DecidableEq, Repr

/-- A group entry (Table 08-8): KIND, COUNT, BASE. -/
def Block.group (b : Block) (g : Nat) : Bool × Nat × Nat :=
  let a := 0x3540000 + g * 8
  (bit (b.mem.num .tabs a 1) 0, b.mem.num .tabs (a + 2) 1 % 128, b.mem.num .tabs (a + 4) 2)

/-- A group's members as the table lists them. -/
def Block.groupMembers (b : Block) (g : Nat) : List Nat :=
  let e := b.group g
  (List.range e.2.1).map (fun i => b.mem.num .tabs (0x3580000 + (e.2.2 + i) * 4) 2)

/-- Next hop entry (Table 08-5). -/
def nhOff (n : Nat) : Nat := 0x3400000 + n * 32
def Block.nhDest (b : Block) (n : Nat) : Nat := b.mem.num .tabs (nhOff n + 12) 4

/-- A destination chain that the spec calls unpredictable ends at a free port or nowhere (DESIGN CHOICE, log 2). -/
def Block.freeRoute (b : Block) : Route × Block :=
  let f := b.dev.fresh 10
  (if f.1 < 512 then .port f.1 else .drop, { b with dev := f.2 })

/-- Resolves a DEST along the chains of R186: the route and the next hop passed. -/
def Block.resolve (b : Block) (p : Pkt) : Nat → Option Nat → Nat → Route × Option Nat × Block
  | 0, nh, _ => let r := b.freeRoute; (r.1, nh, r.2)
  | fuel + 1, nh, t =>
    let i := destIndex t
    let k := destKind t
    let dead (b : Block) : Route × Option Nat × Block := (.drop, nh, b.on (fun d => d.cnt F.FWD_DEST_DROP_COUNT p.slice))
    if k = 0 ∧ i < 512 then (.port i, nh, b)
    else if k = 1 ∧ i < 16384 ∧ nh.isNone then
      let x := b.tabBad p.slice (nhOff i) 32
      if x.1 then dead x.2 else x.2.resolve p fuel (some i) (x.2.nhDest i)
    else if k = 2 ∧ i < 4096 then
      let x := b.tabBad p.slice (0x3540000 + i * 8) 8
      let e := x.2.group i
      let m := x.2.groupMembers i
      let y := if x.1 then x else x.2.tabBad p.slice (0x3580000 + e.2.2 * 4) (4 * e.2.1)
      let x := (x.1 || y.1, y.2)
      if x.1 then dead x.2
      else if e.2.1 = 0 ∨ 64 < e.2.1 ∨ 65536 < e.2.2 + e.2.1 ∨ (!e.1 ∧ nh.isSome) then
        let r := x.2.freeRoute
        (r.1, nh, r.2)
      else
        let use := if e.1 then m.filter (fun q => x.2.dev.link q) else m
        if use.isEmpty then dead x.2
        else
          let h := x.2.hash p (x.2.dev.fget (if e.1 then F.FWD_LAG_SALT_SALT else F.FWD_ECMP_SALT_SALT))
          let c := use.getD (h * use.length / 2 ^ 32) 0
          x.2.resolve p fuel nh (mkDest (if e.1 then 0 else 1) c)
    else if k = 3 ∧ i < 32 then (.team i, nh, b)
    else if k = 4 ∧ i < 4096 then (.mcast i, nh, b)
    else if k = 5 then dead b
    else if k = 6 then (.punt 1, nh, b)
    else let r := b.freeRoute; (r.1, nh, r.2)

/-! Rewrites (R168, R187, R191) -/

/-- One's complement sum of 16-bit words folded into 16 bits. -/
def fold16 (n : Nat) : Nat :=
  let a := n % 65536 + n / 65536
  let b := a % 65536 + a / 65536
  b % 65536 + b / 65536

/-- An Internet checksum updated for old words that become new ones (RFC 1624). -/
def csumUpdate (hc : Nat) (old new : List Nat) : Nat :=
  65535 - fold16 ((65535 - hc) + (old.map (fun o => 65535 - o)).sum + new.sum)

/-- The 16-bit words of bytes, in network order. -/
def words16 (bs : List Byte) : List Nat := (List.range ((bs.length + 1) / 2)).map (fun i => f16 bs (2 * i))

/-- Replaces bytes of a frame and updates the checksum at `c` for the change. -/
def rewriteAt (p : List Byte) (o : Nat) (bs : List Byte) (cs : List (Option Nat)) : List Byte :=
  let old := (p.drop o).take bs.length
  let q := putBytes p o bs
  cs.foldl (fun q c => match c with
    | some a => putBytes q a (toBe 2 (csumUpdate (f16 q a) (words16 old) (words16 bs)))
    | none => q) q

/-- Place of the L4 checksum that a change must update: none for a UDP checksum of zero over IPv4. -/
def l4Csum (p : List Byte) (v6 : Bool) (l4 : Option Nat) (kind : Nat) : Option Nat :=
  match l4 with
  | none => none
  | some o => if kind = 2 then some (o + 16) else if kind = 1 then (if !v6 && f16 p (o + 6) == 0 then none else some (o + 6))
    else none

/-- Applies a rewrite record (Table 07-2) to the innermost L3 and L4 headers; none where it does not fit (R168). -/
def natApply (r : PRes) (p : List Byte) (recd : List Byte) : Option (List Byte) :=
  let inner := r.offIL3.isSome
  let l3 := if inner then r.offIL3 else r.offL3
  let k3 := if inner then r.iL3 else r.oL3
  let l4 := if inner then r.offIL4 else r.offL4
  let k4 := if inner then r.iL4 else r.oL4
  let f := fb recd 18
  let v6 := bit f 1
  match l3 with
  | none => none
  | some o =>
    if k3 ≠ (if v6 then 2 else 1) ∨ (bit f 2 ∧ l4.isNone) then none
    else
      let side := b2n (bit f 0)
      let c4 := l4Csum p v6 l4 k4
      let p := if v6 then rewriteAt p (o + 8 + 16 * side) (recd.take 16) [c4]
        else rewriteAt p (o + 12 + 4 * side) (recd.take 4) [some (o + 10), c4]
      match l4 with
      | some x => if bit f 2 then some (rewriteAt p (x + 2 * side) (toBe 2 (leNat ((recd.drop 16).take 2))) [c4]) else some p
      | none => some p

/-- Where the outer label stack begins or would begin: behind Ethernet and the outer tags. -/
def stackAt (r : PRes) : Nat := 14 + 4 * r.oTags

/-- Takes the top label away; the bottom one leaves the EtherType of the IP header below it, a free value below none
(RFC 3032; PRESUMED, log 24). -/
def Block.popLabel (b : Block) (p : Pkt) : List Byte × Block :=
  let o := p.pr.offMpls.getD (stackAt p.pr)
  let q := p.data.take o ++ p.data.drop (o + 4)
  if !bit (fb p.data (o + 2)) 0 then (q, b)
  else if p.pr.oL3 = 1 then (putBytes q (o - 2) (toBe 2 0x0800), b)
  else if p.pr.oL3 = 2 then (putBytes q (o - 2) (toBe 2 0x86DD), b)
  else
    let f := b.dev.fresh 16
    (putBytes q (o - 2) (toBe 2 f.1), { b with dev := f.2 })

/-- SWAP: the new label, TTL one less (R191). -/
def swapLabel (p : Pkt) (label : Nat) : List Byte :=
  let o := p.pr.offMpls.getD (stackAt p.pr)
  let w := f32 p.data o
  putBytes p.data o (toBe 4 (label * 4096 + w % 4096 - 1))

/-- TTL or hop limit of the outer IP header. -/
def outerTtl (p : Pkt) : Option Nat :=
  p.pr.offL3.map (fun o => fb p.data (if p.pr.oL3 = 2 then o + 7 else o + 8))

/-- DEC_TTL on a packet (R187). -/
def decTtl (p : Pkt) : List Byte :=
  match p.pr.offL3 with
  | none => p.data
  | some o =>
    if p.pr.oL3 = 2 then putBytes p.data (o + 7) [BitVec.ofNat 8 (fb p.data (o + 7) - 1)]
    else rewriteAt p.data (o + 8) [BitVec.ofNat 8 (fb p.data (o + 8) - 1), p.data.getD (o + 9) 0] [some (o + 10)]

/-- The length-changing and MAC parts of a next hop (R187) on a frame whose outer label stack begins at `o`; `labels` tells
whether labels stand there. The priority bits of an inserted tag are a free value (DESIGN CHOICE, log 2). (DESIGN CHOICE, log 79.) -/
def Block.nhRewrite (b : Block) (n : Nat) (p : Pkt) (labels : Bool) : List Byte × Block :=
  let a := nhOff n
  let en := b.mem.num .tabs (a + 7) 1
  let o := stackAt p.pr
  let q := p.data
  let q := if bit en 3 then
      let w := b.mem.num .tabs (a + 16) 4
      let e := bits w 0 20 * 4096 + bits w 20 3 * 512 + b2n (!labels) * 256 + bits w 23 8
      let q := q.take o ++ toBe 4 e ++ q.drop o
      if labels then q else putBytes q (o - 2) (toBe 2 0x8847)
    else q
  let vid := b.mem.num .tabs (a + 8) 2 % 4096
  let r : List Byte × Block :=
    if !bit en 1 then (q, b)
    else match p.pr.offTags with
      | some t => (putBytes q t (toBe 2 (f16 q t / 4096 * 4096 + vid)), b)
      | none =>
        let f := b.dev.fresh 4
        (q.take 12 ++ toBe 2 0x8100 ++ toBe 2 (f.1 * 4096 + vid) ++ q.drop 12, { b with dev := f.2 })
  let q := if bit en 0 then
      putBytes r.1 0 (b.mem.read .tabs a 6 ++ toBe 6 (b.dev.rmac (b.mem.num .tabs (a + 6) 1 % 16)))
    else r.1
  (q, r.2)

/-! Table windows (R197, R198) -/

/-- The entry of Table 08-7 that a window offset lies in: its first offset and length; none outside the writable tables. -/
def tabEntry (o : Nat) : Option (Nat × Nat) :=
  let e (base n : Nat) : Option (Nat × Nat) := some (base + (o - base) / n * n, n)
  if 0x3400000 ≤ o ∧ o < 0x3480000 then e 0x3400000 32
  else if 0x34C0000 ≤ o ∧ o < 0x34D0000 then e 0x34C0000 16
  else if 0x3500000 ≤ o ∧ o < 0x3540000 then e 0x3500000 64
  else if 0x3540000 ≤ o ∧ o < 0x3548000 then e 0x3540000 8
  else if 0x3580000 ≤ o ∧ o < 0x35C0000 then e 0x3580000 4
  else if 0x35C0000 ≤ o ∧ o < 0x35C2000 then e 0x35C0000 16
  else if 0x35C4000 ≤ o ∧ o < 0x35C4100 then e 0x35C4000 16
  else none

/-- TABLE_ENTRY_WRITE (R198): a word of an entry is staged for the requester; the last one commits the entry. Words that
were not staged keep what the entry holds (DESIGN CHOICE, log 25). -/
def tableEntryWrite (q o : Nat) (v : Word) (b : Block) : Block :=
  match tabEntry o with
  | none => b
  | some (e, n) =>
    if o + 4 < e + n then
      b.on (fun d => { d with words := Sparse.set none d.words (regKey o q) (some v) })
    else
      let k := n / 4 - 1
      let bs := ((List.range k).map (fun i => match at0 b.dev.words (regKey (e + 4 * i) q) with
        | some w => toLe 4 w.toNat
        | none => b.mem.read .tabs (e + 4 * i) 4)).flatten ++ toLe 4 v.toNat
      let b := (b.store .tabs e bs).on (fun d =>
        { d with words := d.words.filter (fun x => !(x.1 % 2 ^ 20 == q && decide (e ≤ x.1 / 2 ^ 20) && decide (x.1 / 2 ^ 20 < e + n))) })
      b.scrubFrees 0x17 ((e - 0x3400000) / 8) ((n + 7) / 8)

/-! Leaf reads (R192, R193) -/

/-- Whether a packet may enter a forwarding lane. -/
def Dev.leafOk (d : Dev) (s : Nat) : Bool :=
  let u : Int := acctUnit
  decide (u ≤ (d.sl s).fwdAcct.now (64 * acctUnit) (d.fget F.FWD_LEAF_BUDGET_RATE s) d.cycle) &&
  decide (u ≤ d.fwd.leafDev.now (1024 * acctUnit) d.leafRate d.cycle) &&
  decide ((d.sl s).leaf.length < 256)

/-- Charges n leaf reads of a slice. -/
def Dev.leafCharge (d : Dev) (s n : Nat) : Dev :=
  if n = 0 then d
  else
    let d := d.updSl s (fun x => { x with
      fwdAcct := x.fwdAcct.take (64 * acctUnit) (d.fget F.FWD_LEAF_BUDGET_RATE s) d.cycle (n * acctUnit) })
    (d.leafDevTake n).cnt F.FWD_LEAF_READS_COUNT s n

end Sys2Proof.Machine
end

