-- ==== Sys2Proof/Machine/Stamp.lean ====
section
/-! DEFINITION. Timestamps at the pins and in PTP messages (R295 to R298). -/

namespace Sys2Proof.Machine

/-! Corrections (Table 13-1), in tenths of a nanosecond: transmit, receive -/

/-- Corrections of an Ethernet mode: speed code, lanes (log2), BASE-R FEC. -/
def corrOf (speed lanes : Nat) (fec74 : Bool) : Nat × Nat :=
  match speed with
  | 0 => if fec74 then (551, 1824) else (423, 576)
  | 1 => (386, 1519)
  | 2 => (462, 748)
  | 3 => if lanes = 0 then (314, 982) else (357, 1046)
  | 4 => if lanes = 0 then (289, 723) else (320, 866)
  | 5 => if lanes = 0 then (264, 581) else (275, 634)
  | 6 => if lanes = 1 then (259, 556) else (271, 610)
  | 7 => (253, 527)
  | _ => (248, 502)

/-- Lanes of a FlexE PHY as log2, by its type (0 100G, 1 200G, 2 400G) and lane rate code (Tables 04-1, 04-2). -/
def phyLanes (typ rate : Nat) : Nat := typ + rate - 1

/-- A port's corrections; a FlexE client has its PHY's row and the shim's 12.8 and 19.2 ns (R296). -/
def Dev.corr (d : Dev) (p : Nat) : Nat × Nat :=
  if d.isClient p then
    let c := d.carrierOf p
    let t := d.fget F.CAR_CFG_PHY_TYPE c
    let x := corrOf (4 + t) (phyLanes t (d.fget F.CAR_CFG_LANE_RATE c)) false
    (x.1 + 128, x.2 + 192)
  else corrOf (d.fget F.PRT_MODE_SPEED p) (d.fget F.PRT_MODE_LANES p) (d.fon F.PRT_MODE_FEC74 p)

/-- Tenths of a nanosecond as U16.16, to the nearest unit (DEDUCED, log 27). -/
def corrFixed (t : Nat) : Nat := (t * 65536 + 5) / 10

/-- NTU_PORT_CORR_TX and NTU_PORT_CORR_RX of a port. -/
def Dev.corrTx (d : Dev) (p : Nat) : Nat := corrFixed (d.corr p).1
def Dev.corrRx (d : Dev) (p : Nat) : Nat := corrFixed (d.corr p).2

/-- A signed S16.16 register. -/
def signed32 (v : Nat) : Int := if v < 2 ^ 31 then (v : Int) else (v : Int) - 2 ^ 32

/-- The place of a FlexE client's first block in its calendar, which the device measures and no rule states: a free value
in 2^-16 ns (DESIGN CHOICE, log 2); 0 for an Ethernet port. (DESIGN CHOICE, log 91.) -/
def Dev.clientPlace (d : Dev) (p : Nat) : Nat × Dev := if d.isClient p then d.fresh 24 else (0, d)

/-- The NTU as the first byte of a frame of n bytes passed whose last byte comes now, in 2^-40 ns: the cycle that holds it, and the
byte's place in that cycle at the port's rate. -/
def Dev.firstByteNtu (d : Dev) (p n : Nat) : Nat :=
  let r := 5 * d.units p
  let c := d.firstByte p n
  d.ntuAt c + ((d.cycle - c) * r - 24 * n) * d.incr / max 1 r

/-- Pin time of a frame of n bytes whose last byte passes the MAC now, in 2^-40 ns of NTU (R295). -/
def Dev.rxStamp (d : Dev) (p n : Nat) : Nat × Dev :=
  let pl := d.clientPlace p
  let t : Int := (d.firstByteNtu p n : Int) +
    (signed32 (d.fget F.NTU_PORT_ASYM_RX_NS p) - (d.corrRx p : Nat) + pl.1) * 2 ^ 24
  (t.toNat, pl.2)

/-- Pin time of a frame whose MAC start was at a cycle, in 2^-16 ns of NTU (R295). -/
def Dev.txStamp (d : Dev) (p start : Nat) : Nat × Dev :=
  let pl := d.clientPlace p
  let mac : Nat := d.ntuAt start / 2 ^ 24
  let t : Int := (mac : Int) + d.corrTx p + signed32 (d.fget F.NTU_PORT_ASYM_TX_NS p) + pl.1
  (t.toNat, pl.2)

/-! PTP messages (R298) -/

/-- Where a message lies in a frame, with its messageType, and the UDP header before it (L3 kind, offset). -/
structure PtpAt where
  o : Nat
  typ : Nat
  udp : Option (Bool × Nat)
  deriving DecidableEq, Repr

/-- The PTP message that the parser finds in a frame. (DEDUCED, log 90.) -/
def ptpAt (c : PCfg) (p : List Byte) : Option PtpAt :=
  let r := parse c p
  if r.special ≠ 1 then none
  else
    r.offSpecial.map (fun o =>
      let u := if r.iL4 = 1 ∧ r.offIL4 = some (o - 8) then some (r.iL3 == 2, o - 8)
        else if r.oL4 = 1 ∧ r.offL4 = some (o - 8) then some (r.oL3 == 2, o - 8) else none
      { o := o, typ := fb p o % 16, udp := u })

/-- Writes bytes of a message with its UDP checksum updated (RFC 1624); a zero one over IPv4 stays zero. -/
def ptpWrite (m : PtpAt) (p : List Byte) (o : Nat) (bs : List Byte) : List Byte :=
  rewriteAt p o bs [match m.udp with
    | some (v6, u) => l4Csum p v6 (some u) 1
    | none => none]

/-- The correctionField of a message with a number of 2^-16 ns added; none where it overflows. -/
def ptpCorrect (m : PtpAt) (p : List Byte) (add : Int) : Option (List Byte) :=
  let v := signed64 (beNat ((p.drop (m.o + 8)).take 8)) + add
  if v < -(2 ^ 63) ∨ 2 ^ 63 ≤ v then none else some (ptpWrite m p (m.o + 8) (toBe 8 (v % 2 ^ 64).toNat))

/-- The one-step write of a Sync message sent at a pin time. -/
def ptpOrigin (m : PtpAt) (p : List Byte) (t : Nat) : Option (List Byte) :=
  let ns := t / 65536
  (ptpCorrect m p ((t % 65536 : Nat) : Int)).map (fun q =>
    ptpWrite m q (m.o + 34) (toBe 6 (ns / 1000000000) ++ toBe 4 (ns % 1000000000)))

/-- Which write a message asks for at its egress port: one-step, transparent clock. -/
def Dev.ptpWants (d : Dev) (x : QPkt) (m : PtpAt) : Bool × Bool :=
  (x.oneStep && m.typ == 0 && d.fon F.NTU_PORT_CFG_ONE_STEP_EN x.port,
   decide (x.kind ≤ 1) && decide (m.typ ≤ 3) && d.fon F.NTU_PORT_CFG_TC_EN x.port)

/-- The writes of R298 into a frame that leaves port p at pin time t (2^-16 ns). -/
def Dev.ptpSend (d : Dev) (x : QPkt) (t : Nat) : List Byte × Dev :=
  match ptpAt (d.pcfg x.row 1 (d.memberOf x.inPort).isSome) x.data with
  | none => (x.data, d)
  | some m =>
    let w := d.ptpWants x m
    if !w.1 && !w.2 then (x.data, d)
    else
      let skip := (x.data, d.cnt F.NTU_PORT_TS_SKIP_COUNT x.port)
      if (d.teamOf x.port).isSome then skip
      else
        match (if w.1 then ptpOrigin m x.data t else ptpCorrect m x.data ((t : Int) - (x.rxAt / 2 ^ 24 : Nat))) with
        | some q => (q, d.cnt F.NTU_PORT_ONESTEP_CNT_COUNT x.port)
        | none => skip

/-- The egress timestamp of a TS_REQ frame (R297). -/
def Dev.tsTake (d : Dev) (x : QPkt) (t : Nat) : Dev :=
  if x.tsReq then (d.cnt F.NTU_PORT_TS_CNT_COUNT x.port).tsWrite (tsRecord x.port x.tag 1 false t) else d

end Sys2Proof.Machine
end

