-- ==== Sys2Proof/Machine/Line.lean ====
section
/-! DEFINITION. Frames on the line (R208, R213, R307): shim (R254), MAC start, timestamps and statistics (R197, R297, R298), holds
(R99, R100), frames cut short; the sample ring (R242) and the gates of R233. -/

namespace Sys2Proof.Machine

/-! Port statistics (R197) -/

/-- Adds to a statistics counter of 64 bits, which wraps. -/
def Dev.stat (d : Dev) (p dir c n : Nat) : Dev :=
  { d with tm.stats := Sparse.upd 0 d.tm.stats (p * 40 + dir * 20 + c) (fun v => (v + n) % 2 ^ 64) }

/-- Index of the size bin of a frame where MAX_FRAME is `max`; none below 64 bytes and above MAX_FRAME. -/
def sizeBin (n max : Nat) : Option Nat :=
  if n < 64 then none
  else if n = 64 then some 11
  else if n < 128 then some 12
  else if n < 256 then some 13
  else if n < 512 then some 14
  else if n < 1024 then some 15
  else if n < 1519 then some 16
  else if n < 2048 then some 17
  else if n < 4096 then some 18
  else if n ≤ max then some 19
  else none

/-- Octets, packets, size bin, broadcast and multicast of a frame of n bytes with its FCS; `good` as RFC 2819 asks for
the last two. -/
def Dev.statFrame (d : Dev) (p dir : Nat) (bytes : List Byte) (n max : Nat) (good : Bool) : Dev :=
  let d := (d.stat p dir 1 n).stat p dir 2 1
  let d := match sizeBin n max with
    | some k => d.stat p dir k 1
    | none => d
  if !good then d
  else if (bytes.take 6).all (fun x => x == 0xFF) then d.stat p dir 3 1
  else if bit (bytes.getD 0 0).toNat 0 then d.stat p dir 4 1
  else d

/-- A word of the statistics window, counted in bytes from its start. -/
def Dev.statWord (d : Dev) (o : Nat) : Word := BitVec.ofNat 32 (Sparse.get 0 d.tm.stats (o / 8) / 2 ^ (o / 4 % 2 * 32))

/-- Window offset of the statistics (Table 08-7). -/
def statBase : Nat := 0x3600000

/-- A statistics counter whose word fails parity restarts from 0 (Table 15-2, class 0x20). The words are numbered as the window has them
(DESIGN CHOICE, log 42). -/
def Dev.statZero (d : Dev) (w : Nat) : Dev :=
  let r := d.sramRead 0x20 0xFFFF w []
  if r.1 then ({ r.2 with tm.stats := Sparse.set 0 r.2.tm.stats w 0 }).wordsGood 0x20 w 1 else d

/-- STAT_COUNTER_READ (R197): the low word of the counter at a window offset, its high word held for the requester. -/
def statCounterRead (q off : Nat) (d : Dev) : Word × Dev :=
  let d := d.statZero ((off - statBase) / 8)
  (d.statWord (off - statBase), d.holdFor q (off + 4) (d.statWord (off + 4 - statBase)).toNat)

/-! Samples (R242) -/

/-- A sample record (Table 10-4). -/
def Dev.sampleBytes (d : Dev) (q typ reason backlog soj sojMax refused : Nat) : List Byte :=
  toLe 2 q ++ toLe 1 typ ++ toLe 1 reason ++ toLe 4 backlog ++ toLe 4 (min soj (2 ^ 27 - 1)) ++
  toLe 4 (min sojMax (2 ^ 27 - 1)) ++ toLe 4 refused ++ toLe 4 (d.ntuSec % 2 ^ 32) ++ toLe 4 d.ntuNsec ++ toLe 4 0

/-- Writes a record to the sample ring: at most 200 M per second and 1,048,576 waiting. -/
def Dev.sample (d : Dev) (r : List Byte) : Dev :=
  let cap := 3000 * (1 + Config.sampleBurst)
  if d.tm.sampAcct.now cap 200 d.cycle < 3000 ∨ 1048576 ≤ (d.stream 7).length then d.cnt F.TMG_SAMPLE_DROP_COUNT
  else { d with tm.sampAcct := d.tm.sampAcct.take cap 200 d.cycle 3000 }.addStream 7 r

/-- The port that a leaf queue belongs to: one in use first (R222). (DEDUCED, log 126.) -/
def Dev.portOf (d : Dev) (q : Nat) : Nat :=
  let has (p : Nat) : Bool := decide (d.qBase p ≤ q) && decide (q < d.qBase p + 8 * d.groups p)
  let ps := (List.range 512).filter has
  ((ps.find? (fun p => d.isEth p || d.isClient p || (d.teamOf p).isSome)).or ps.head?).getD 0

/-- A deadline expiry (R37): its counters and its record. -/
def Dev.expired (d : Dev) (x : QPkt) (start : Nat) : Dev :=
  let d := (d.cnt F.TMG_Q_EXPIRED_COUNT x.queue).pl (x.port / 32) 0x13
  if d.fon F.TMG_CFG_REF_SAMPLE_EN then
    d.sample (d.sampleBytes x.queue 3 0 (d.backlog x.port x.queue) ((start - (x.adm + x.bound)) / 3) 0 0)
  else d

/-- The sojourn of a frame that starts (R242, TMG_Q_SOJ_MAX). -/
def Dev.sojourn (d : Dev) (x : QPkt) (start : Nat) : Dev :=
  let ns := (start - x.adm) / 3
  let d := d.updLq x.queue (fun (l : LeafSt) => { l with sojMax := max l.sojMax ns })
  let m := min ns (2 ^ F.TMG_Q_SOJ_MAX_NS.w - 1)
  if d.fget F.TMG_Q_SOJ_MAX_NS x.queue < m then d.fset F.TMG_Q_SOJ_MAX_NS x.queue m else d

/-! Gates (R233) -/

/-- Place in the operating cycle of an NTU instant, in 2^-40 ns: the list runs on a time base that takes no step (R294). -/
def Dev.gatePhase (d : Dev) (p t : Nat) : Nat :=
  (((t : Int) - d.ntu.steps - (d.pt p).operBase) % ((max 1 (d.gateCycle p 0) * ntuNs : Nat) : Int)).toNat

/-- The administrative base time in ns. -/
def Dev.gateBase (d : Dev) (p : Nat) : Nat :=
  (d.fget F.TMG_GATE_ADMIN_BASE_SEC_LO_SEC p + d.fget F.TMG_GATE_ADMIN_BASE_SEC_HI_SEC p * 2 ^ 32) * 1000000000 +
    d.fget F.TMG_GATE_ADMIN_BASE_NS_NS p

/-- Place in the pending list's cycle of an instant from its change time on. -/
def Dev.pendPhase (d : Dev) (p change t : Nat) : Nat := (t - change * ntuNs) % (max 1 (d.gateCycle p 1) * ntuNs)

/-- Open time of a class from a place in the cycle on, along spans of one cycle in order; none where it never ends. -/
def openFor (c : Nat) : List (Nat × Nat × Nat) → Nat → Option Nat
  | [], _ => none
  | x :: r, n => if bit x.1 c then openFor c r (n + (x.2.2 - x.2.1)) else some n

/-- Whether list k keeps a class open from a place in its cycle for a time τ, both in 2^-40 ns. -/
def Dev.openIn (d : Dev) (p k c ph tau : Nat) : Bool :=
  let sp := d.gateSpans p k
  let before := sp.filter (fun x => decide (x.2.2 * ntuNs ≤ ph))
  match sp.filter (fun x => decide (ph < x.2.2 * ntuNs)) with
  | [] => true
  | x :: r =>
    bit x.1 c && (match openFor c (r ++ before ++ [x]) 0 with
      | none => true
      | some n => decide (tau ≤ x.2.2 * ntuNs - ph + n * ntuNs))

/-- Whether a class's gate stays open from an NTU instant for a time τ, both in 2^-40 ns (R233): up to the change time of a pending list
under the operating list, from it on under the new one. -/
def Dev.gateOpen (d : Dev) (p c t tau : Nat) : Bool :=
  let oper := !d.fon F.TMG_GATE_STATUS_OPER_VALID p || d.openIn p 0 c (d.gatePhase p t) tau
  if !d.gated p c then true
  else match (d.pt p).gate with
    | none => oper
    | some ⟨r, none⟩ => oper && (decide (d.actAt (t + tau) ≤ max r d.cycle) || decide (t + tau ≤ d.gateBase p * ntuNs))
    | some ⟨_, some ch⟩ =>
      if ch * ntuNs ≤ t then d.openIn p 1 c (d.pendPhase p ch t) tau else oper && decide (t + tau ≤ ch * ntuNs)

/-- Instants from t on at which entries of a list begin within one cycle, from a place in it. -/
def Dev.entryStarts (d : Dev) (p k ph t : Nat) : List Nat :=
  let cyc := max 1 (d.gateCycle p k) * ntuNs
  (d.gateSpans p k).map (fun x => t + (x.2.1 * ntuNs + cyc - ph) % cyc)

/-- The first instant from t on at which a class's gate opens for a time τ; none where it never does. -/
def Dev.gateNext (d : Dev) (p c t tau : Nat) : Option Nat :=
  let oper := if d.fon F.TMG_GATE_STATUS_OPER_VALID p then d.entryStarts p 0 (d.gatePhase p t) t else []
  let pend := match (d.pt p).gate with
    | some ⟨_, some ch⟩ =>
      let u := max t (ch * ntuNs)
      u :: d.entryStarts p 1 (d.pendPhase p ch u) u
    | _ => []
  ((t :: oper ++ pend).mergeSort (fun a b => decide (a ≤ b))).find? (fun u => d.gateOpen p c u tau)

/-- τ of R233 for a packet of L bytes, in 2^-40 ns. -/
def Dev.tau (d : Dev) (p l : Nat) : Nat :=
  upDiv ((max (l + 4) 64 + 20 + (if (d.teamOf p).isSome then 16 else 0)) * 8 * ntuNs) (5 * d.units p)

/-- The first cycle from c on in which the gates let a packet start; none where they never do. -/
def Dev.gateStart (d : Dev) (x : QPkt) (c : Nat) : Option Nat :=
  (d.gateNext x.port (d.classOf x.port x.queue) (d.ntuAt c) (d.tau x.port x.data.length)).map (fun u =>
    if u = d.ntuAt c then c else max c (d.actAt u))

/-! The line of a port -/

/-- Cycles that n bytes take on a port's line, rounded up. -/
def Dev.byteCycles (d : Dev) (p n : Nat) : Nat := upDiv (24 * n) (5 * d.units p)

/-- Whether a port's transmit path is free for a frame taken now (R208). -/
def Dev.pathFree (d : Dev) (p : Nat) : Bool := decide ((d.pt p).freeAt ≤ d.cycle + 84)

/-- A frame with its FCS (R306). -/
def withFcs (bs : List Byte) : List Byte := bs ++ toLe 4 (crc32 bs)

/-- The complement of the correct FCS of bytes already sent (R307). -/
def stompFcs (bs : List Byte) : List Byte := toLe 4 (0xFFFFFFFF - crc32 bs)

/-- The 16 bytes of a member's shim (Table 11-1) for a frame that starts at an NTU time in whole ns. -/
def Dev.shim (d : Dev) (k : Nat) (probe drain : Bool) (dom seq alive sendT : Nat) : List Byte :=
  let ph := d.fget F.TEM_MBR_STATUS_TX_PHASE k
  let body := toBe 1 (16 + b2n probe + 2 * ph + 4 * b2n drain) ++ toBe 1 (k / 16) ++ toBe 1 (k % 16) ++ toBe 1 alive ++
    toBe 2 dom ++ toBe 4 seq ++ toBe 2 (sendT % 65536)
  toBe 2 (d.fget F.TEM_ETYPE_ETYPE) ++ body ++ toBe 2 (crc16 body)

/-- A probe (R250, Table 11-2) that starts at an NTU time in 2^-40 ns. -/
def Dev.probeBytes (d : Dev) (k now : Nat) (t : Tx) : List Byte :=
  let ns := now / ntuNs
  toBe 6 (d.fget F.TEM_PROBE_MAC_LO_MAC + d.fget F.TEM_PROBE_MAC_HI_MAC * 2 ^ 32) ++ toBe 6 t.src ++
  d.shim k true t.drain 0 t.seq t.alive ns ++ toBe 2 (d.fget F.TEM_ETYPE_ETYPE) ++
  toBe 6 (ns / 1000000000) ++ toBe 4 (ns % 1000000000) ++ toBe 2 (now % ntuNs / 2 ^ 24) ++ t.pkt.data

/-- A frame leaves with these bytes: statistics of its port (R197). -/
def Dev.onLine (d : Dev) (p : Nat) (t : Tx) (bytes : List Byte) : Dev :=
  (d.updPt p (fun x => { x with
    tx := x.tx.map (fun (u : Tx) => if !u.begun && u.start == t.start then { u with begun := true, bytes := bytes } else u) })).statFrame
    p 1 bytes t.len (d.maxFrame p) true

/-- A member's frame has started. -/
def Dev.mbrSent (d : Dev) (k : Nat) (t : Tx) : Dev :=
  let d := d.updMbr k (fun m => { m with lastFrame := t.start, lastProbe := if t.probe then t.start else m.lastProbe })
  d.cnt (if t.probe then F.TEM_MBR_TX_PROBES_COUNT else F.TEM_MBR_TX_FRAMES_COUNT) k

/-- A packet's frame at its MAC start: timestamp, PTP writes, shim, counters (R208, R254, R297, R298, R306). -/
def Dev.packetStarts (d : Dev) (p : Nat) (t : Tx) : Dev :=
  let x := t.pkt
  let st := d.txStamp p t.start
  let ptp := st.2.ptpSend x st.1
  let d := ptp.2.tsTake x st.1
  let s := x.port / 32
  let d := ((d.cnt F.TMG_Q_TX_COUNT x.queue).cnt (if x.ct then F.XPF_CT_CNT_COUNT else F.XPF_SF_CNT_COUNT) s).sojourn x t.start
  match t.mbr with
  | some k =>
    let sh := d.shim k false false x.dom t.seq t.alive (d.ntuAt t.start / ntuNs)
    (d.mbrSent k t).onLine p t (withFcs (ptp.1.take 12 ++ sh ++ ptp.1.drop 12))
  | none => d.onLine p t (withFcs ptp.1)

/-- A frame's MAC start comes. -/
def Dev.beginTx (d : Dev) (p : Nat) (t : Tx) : Dev :=
  match t.probe, t.mbr with
  | true, some k => (d.mbrSent k t).onLine p t (withFcs (d.probeBytes k (d.ntuAt t.start) t))
  | _, _ => d.packetStarts p t

/-- Brings a port's line up to date: the frames whose MAC start has come have begun. (DEDUCED, log 156.) -/
def Dev.begins (d : Dev) (p : Nat) : Dev :=
  forAll ((d.pt p).tx.filter (fun t => !t.begun && d.started p t)) (fun d t => d.beginTx p t) d

/-- Brings every line up to date. -/
def Dev.beginAll (d : Dev) : Dev := forAll d.ports (fun d y => d.begins y.1) d

/-- Bytes of a frame that have left by now at the port's rate. -/
def Dev.sentBytes (d : Dev) (p : Nat) (t : Tx) : Nat := (d.cycle - t.start) * 5 * d.units p / 24

/-- Frames of a port that have ended leave the line; one not yet marked read counts as read and sent. -/
def Dev.lineDone (d : Dev) (p : Nat) : Dev :=
  let d := d.begins p
  let ended (t : Tx) : Bool := t.begun && decide (t.stop ≤ d.cycle)
  let done := (d.pt p).tx.filter ended
  if done.isEmpty then d
  else
    let d := { d with tm.sent := d.tm.sent ++ done.map (fun (t : Tx) => (p, t.bytes)) }
    let d := (d.updPt p (fun x => { x with tx := x.tx.filter (fun t => !ended t) })).settleMc
    d.freeAll ((done.filter (fun t => !t.isRead)).map (fun t => t.pkt.frees)).flatten

/-- Puts a frame on a port's line from a MAC start cycle; the path is free again after it and 20 bytes (R208). -/
def Dev.putLine (d : Dev) (p start : Nat) (t : Tx) : Dev :=
  (d.lineDone p).updPt p (fun x => { x with
    tx := x.tx ++ [{ t with start := start, stop := start + d.byteCycles p t.len }]
    freeAt := start + d.byteCycles p (t.len + 20) })

/-! Holds and cuts -/

/-- Places frames kept at the MAC one behind the other from a cycle on, where the gates let them start (R100, R208, R233); one whose
deadline will have passed is discarded (R37). Answers the frames that stay, those that go with the cycle of their start, and the
cycle at which the path is free. -/
def Dev.placeKept (d : Dev) (p : Nat) : Nat → List Tx → List Tx × List (Tx × Nat) × Nat
  | free, [] => ([], [], free)
  | free, t :: r =>
    let at_ := if t.probe then some free else d.gateStart t.pkt free
    match at_ with
    | some c =>
      if !t.probe && decide (t.pkt.adm + t.pkt.bound < c) then
        let x := d.placeKept p free r
        (x.1, (t, c) :: x.2.1, x.2.2)
      else
        let x := d.placeKept p (c + d.byteCycles p (t.len + 20)) r
        ({ t with start := c, stop := c + d.byteCycles p t.len } :: x.1, x.2)
    | none =>
      let x := d.placeKept p free r
      (x.1, (t, max free (t.pkt.adm + t.pkt.bound + 1)) :: x.2.1, x.2.2)

/-- A hold since cycle `c` has ended: frames kept at the MAC start from now. -/
def Dev.resumeTx (d : Dev) (p c : Nat) : Dev :=
  let kept (t : Tx) : Bool := !t.begun && decide (c ≤ t.start)
  let on := (d.pt p).tx.filter (fun t => !kept t)
  if ((d.pt p).tx.filter kept).isEmpty then d
  else
    let free := (on.map (fun t => t.start + d.byteCycles p (t.len + 20))).foldl max d.cycle
    let x := d.placeKept p free ((d.pt p).tx.filter kept)
    let d := d.updPt p (fun y => { y with freeAt := x.2.2, tx := on ++ x.1 })
    let d := forAll x.2.1 (fun d g => d.expired g.1.pkt g.2) d
    d.settleMc.freeAll (x.2.1.map (fun g => g.1.pkt.frees)).flatten

/-- A packet that was taken and has not started returns to its leaf queue (R257). -/
def Dev.requeue (d : Dev) (x : QPkt) : Dev :=
  d.updLq x.queue (fun (l : LeafSt) => { l with
    pkts := l.pkts.filter (fun y => decide (y.id < x.id)) ++ x :: l.pkts.filter (fun y => decide (x.id < y.id)), head := none })

/-- What becomes of a frame that is cut off: a started one ends with the complement of its FCS and is counted (R89, R213, R307); one
that has not started is discarded (R38), or, where `back`, a team's returns to its leaf queue (R257; its SEQ is not used again,
DESIGN CHOICE, log 150). -/
def Dev.cutOne (d : Dev) (p : Nat) (back : Bool) (t : Tx) : Dev :=
  if t.begun then
    let d := (d.cnt F.PRT_TX_ABORT_COUNT p).cnt F.CKU_TX_STOMP_COUNT p
    let part := t.bytes.take (d.sentBytes p t)
    { d with tm.sent := d.tm.sent ++ [(p, part ++ stompFcs part)] }
  else if t.probe then d
  else if back then d.requeue t.pkt
  else d.cnt F.TMG_Q_DISCARD_COUNT t.pkt.queue

/-- Cuts off the frames of a port that pass a test. -/
def Dev.cutTx (d : Dev) (p : Nat) (sel : Tx → Bool) (back : Bool := false) : Dev :=
  let d := d.lineDone p
  let cut := (d.pt p).tx.filter sel
  if cut.isEmpty then d
  else
    let d := forAll cut (fun d t => d.cutOne p (back && t.mbr.isSome) t) d
    let d := d.updPt p (fun x =>
      let rest := x.tx.filter (fun t => !sel t)
      { x with tx := rest, freeAt := if rest.isEmpty then d.cycle else x.freeAt })
    d.settleMc.freeAll ((cut.filter (fun t => !t.isRead && (t.begun || !(back && t.mbr.isSome)))).map (fun t => t.pkt.frees)).flatten

end Sys2Proof.Machine
end

