-- ==== Sys2Proof/Machine/Reseq.lean ====
section
/-! DEFINITION. The resequencer of a team (R260 to R265, R267) and the skews of its members (R266). -/

namespace Sys2Proof.Machine

def domKey (t dm : Nat) : Nat := t * 4096 + dm

/-- Serial difference modulo 2^32. -/
def ser32 (a b : Nat) : Nat := (a + 2 ^ 32 - b % 2 ^ 32) % 2 ^ 32

/-- GAP_WAIT in cycles (R263). -/
def Dev.gapWait (d : Dev) (t : Nat) : Nat :=
  let us := d.fget F.TEM_GAP_WAIT_US t
  cyclesOfNs ((if us = 0 then d.fget F.TEM_TEAM_SKEW_SKEW_US t + 50 else us) * 1000)

/-- F in cycles (R263). -/
def Dev.gapF (d : Dev) (t : Nat) : Nat := if d.fon F.TEM_TEAM_CFG_SPILL t then cyclesOfNs 1200 else 0

/-- Bytes a team holds on die, and in PKT. -/
def Dev.heldBytes (d : Dev) (t : Nat) (spill : Bool) : Nat :=
  ((d.team.dom.filter (fun x => x.1 / 4096 == t)).map (fun x =>
    ((x.2.held.filter (fun h => h.inPkt == spill)).map (fun h => h.pkt.data.length)).sum)).sum

/-- Bytes of released frames that wait in the window. -/
def Dev.relBytes (d : Dev) : Nat := (d.slices.map (fun x => (x.2.rel.map (fun p => p.data.length)).sum)).sum

/-- Free bytes of the on-die window (R262). -/
def Dev.winFree (d : Dev) : Nat :=
  23552 * 1024 - (((List.range 32).map (fun t => d.heldBytes t false)).sum + d.relBytes)

/-- Releases a frame to its delivery slice, or drops it there (R265). -/
def Dev.release (d : Dev) (t dm : Nat) (p : Pkt) : Dev :=
  let d := d.cnt F.TEM_RELEASED_COUNT t
  let s := d.deliv t dm
  if !d.forwards s then d.cnt F.TEM_DELIV_DROP_COUNT t
  else d.updSl s (fun x => { x with rel := x.rel ++ [{ p with slice := s }] })

/-- The held frame nearest to E. -/
def DomSt.nearest (x : DomSt) : Option HFrame :=
  x.held.foldl (fun (a : Option HFrame) h => match a with
    | none => some h
    | some b => if ser32 h.seq x.expect < ser32 b.seq x.expect then some h else some b) none

/-- When the earliest held frame of a domain came. -/
def DomSt.first (x : DomSt) : Option Nat :=
  x.held.foldl (fun (a : Option Nat) h => match a with
    | none => some h.came
    | some b => some (min b h.came)) none

/-- Whether every LIVE member has delivered a frame sent after h (R264). -/
def Dev.fastSkip (d : Dev) (t : Nat) (h : HFrame) : Bool :=
  d.fon F.TEM_TEAM_CFG_FAST_SKIP t &&
  ((d.members t).filter (fun k => d.fget F.TEM_MBR_STATUS_RX_STATE k == 1)).all (fun k => decide (h.sent < (d.mbr k).latest))

/-- Moves E, forgets the holes it has passed, and drops held frames that are now older than E as duplicates (R260). -/
def Dev.setExpect (d : Dev) (k e : Nat) : Dev :=
  let old (q : Nat) : Bool := decide (2 ^ 31 ≤ ser32 q (e % 2 ^ 32))
  let n := ((d.dom k).held.filter (fun h => old h.seq)).length
  let d := d.updDom k (fun x => { x with
    expect := e % 2 ^ 32, holes := x.holes.filter (fun q => !old q), held := x.held.filter (fun h => !old h.seq) })
  if n = 0 then d else d.cnt F.TEM_DUP_SEQ_COUNT (k / 4096) n

/-- reseq_check (R264). Skipped sequences that are holes are not counted as lost (R262). A frame in PKT is released once it has been
read back (R262, R263). -/
def reseqCheck (t dm : Nat) : Nat → Dev → Dev
  | 0, d => d
  | fuel + 1, d =>
    let k := domKey t dm
    let x := d.dom k
    match x.nearest with
    | none => d
    | some h =>
      if h.seq = x.expect then
        if h.inPkt then d else
        let d := d.updDom k (fun y => { y with held := y.held.erase h })
        reseqCheck t dm fuel ((d.release t dm h.pkt).setExpect k (x.expect + 1))
      else if x.holes.contains x.expect then reseqCheck t dm fuel (d.setExpect k (x.expect + 1))
      else
        let due := decide ((x.first.getD 0) + d.gapWait t - d.gapF t ≤ d.cycle)
        let fast := d.fastSkip t h
        if due || fast then
          let n := ser32 h.seq x.expect
          let lost := n - (x.holes.filter (fun q => decide (ser32 q x.expect < n))).length
          let d := d.cnt F.TEM_LOST_COUNT t lost
          let d := if due then d else d.cnt F.TEM_FAST_SKIP_COUNT t lost
          reseqCheck t dm fuel (d.setExpect k h.seq)
        else d

/-- Runs the check of a domain; a step for each held frame, hole and gap suffices. (DEDUCED, log 72.) -/
def Dev.reseq (d : Dev) (t dm : Nat) : Dev :=
  reseqCheck t dm (2 * (d.dom (domKey t dm)).held.length + (d.dom (domKey t dm)).holes.length + 2) d

/-- Runs the check of every domain of a team that holds frames. -/
def Dev.reseqAll (d : Dev) (t : Nat) : Dev :=
  forAll ((d.team.dom.filter (fun x => x.1 / 4096 == t && x.2.synced && !x.2.held.isEmpty)).map (fun x => x.1 % 4096))
    (fun d dm => d.reseq t dm) d

/-- Fill rate of the spill account, Gb/s (R262). -/
def Dev.spillGbps (d : Dev) : Nat := 12800 - d.fget F.TMG_STORE_RATE_GBPS

/-- A store or spill account counts 24ths of a byte: R Gb/s give R/24 bytes a cycle (R241, R262). -/
def storeCap : Nat := 24 * 131072

/-- Holds a frame: on die, in PKT, or dropped with its sequence kept as a hole (R262). -/
def Dev.holdFrame (d : Dev) (t dm : Nat) (h : HFrame) : Dev :=
  let n := h.pkt.data.length
  let k := domKey t dm
  let add (d : Dev) (h : HFrame) : Dev :=
    let d := d.updDom k (fun x => { x with held := x.held ++ [h] })
    let all := d.heldBytes t false + d.heldBytes t true
    if d.fget F.TEM_HELD_PEAK_BYTES t < all then d.fset F.TEM_HELD_PEAK_BYTES t (min all (2 ^ 32 - 1)) else d
  if d.heldBytes t false + n ≤ d.fget F.TEM_TEAM_WIN_KIB t * 1024 ∧ n ≤ d.winFree then add d h
  else
    let spill := d.fon F.TEM_TEAM_CFG_SPILL t
    if spill ∧ (24 * n : Nat) ≤ d.team.spill.now storeCap d.spillGbps d.cycle ∧ cellsOf n * 64 ≤ d.storeFree then
      add { d with team.spill := d.team.spill.take storeCap d.spillGbps d.cycle (24 * n) } { h with spill := true }
    else
      let d := d.updDom k (fun x => { x with holes := x.holes ++ [h.seq] })
      d.cnt (if spill then F.TEM_SPILL_DROP_COUNT else F.TEM_WIN_DROP_COUNT) t

/-- Classifies a data frame (R260, R261); a second frame of a held sequence is held too, and older than E once the first is
released. -/
def Dev.resequence (d : Dev) (t dm : Nat) (h : HFrame) : Dev :=
  let k := domKey t dm
  let x := d.dom k
  if !x.synced then
    let d := if x.sync.isSome then d else
      d.updDom k (fun y => { y with sync := some (d.cycle +
        min (cyclesOfNs (d.fget F.TEM_TEAM_SKEW_SKEW_US t * 1000)) (d.gapWait t)) })
    d.holdFrame t dm h
  else
    let δ := ser32 h.seq x.expect
    if δ = 0 then ((d.release t dm h.pkt).setExpect k (x.expect + 1)).reseq t dm
    else if δ < 2 ^ 24 then (d.holdFrame t dm h).reseq t dm
    else if δ < 2 ^ 31 then d.cnt F.TEM_FAR_COUNT t
    else d.cnt F.TEM_DUP_SEQ_COUNT t

/-- The receive side starts anew (R267): domains UNSYNCED, held frames discarded. -/
def Dev.resync (d : Dev) (t : Nat) : Dev :=
  let n := ((d.team.dom.filter (fun x => x.1 / 4096 == t)).map (fun x => x.2.held.length)).sum
  let d := forAll ((d.team.dom.filter (fun x => x.1 / 4096 == t)).map (fun x => x.1)) (fun d k =>
    d.updDom k (fun x => { x with synced := false, sync := none, held := [], holes := [] })) d
  if n = 0 then d else d.cnt F.TEM_RESYNC_DROP_COUNT t n

/-- Shows the members' delays and skews in whole ns, and reports a skew over SKEW_US (R266). -/
def Dev.showSkew (d : Dev) (t : Nat) : Dev :=
  let known := (d.members t).filter (fun k => (d.mbr k).known)
  let d := forAll known (fun d k =>
    d.fset F.TEM_MBR_DELAY_NS_NS k (((d.mbr k).delay / 65536) % 2 ^ 32).toNat) d
  match known.filter (fun k => d.fget F.TEM_MBR_STATUS_RX_STATE k == 1) with
  | [] => d
  | a :: r =>
    let lo := r.foldl (fun m k => min m (d.mbr k).delay) (d.mbr a).delay
    forAll known (fun d k =>
      let sk := ((d.mbr k).delay - lo).toNat
      let d := d.fset F.TEM_MBR_SKEW_NS_NS k (min (sk / 65536) (2 ^ 23 - 1))
      if d.fget F.TEM_TEAM_SKEW_SKEW_US t * 65536000 < sk ∧ !d.fon F.TEM_MBR_STATUS_SKEW_OVER k then
        ((d.fset F.TEM_MBR_STATUS_SKEW_OVER k 1).fset F.TEM_TEAM_STATUS_SKEW_OVER t 1).alarm 5 F.TEM_TEAM_STATUS_SKEW_OVER t
      else d) d

end Sys2Proof.Machine
end

