-- ==== Sys2Proof/Machine/Ports.lean ====
section
/-! DEFINITION. Ports, carriers, calendars and HOLD inputs (ch 04). -/

namespace Sys2Proof.Machine

/-- Whether a port is held (R99); a team port only while every ACTIVE member is (R256). -/
def Dev.held (d : Dev) (p : Nat) : Bool :=
  match d.teamOf p with
  | some t =>
    let a := (d.members t).filter (fun k => d.mbrTx k == 1)
    !a.isEmpty && a.all (fun k => d.heldKey (d.holdKeyOf (d.mbrPort k)))
  | none => d.heldKey (d.holdKeyOf p)

/-- Shows HELD where the hold is in force (R99). -/
def Dev.showHeld (d : Dev) (k : Nat) : Dev :=
  let v := b2n (d.heldKey k)
  if k < 512 then d.fset F.PRT_STATUS_HELD k v
  else
    let d := d.fset F.CAR_STATUS_HELD (k - 512) v
    forAll (d.clients (k - 512)) (fun d p =>
      let d := d.fset F.PRT_STATUS_HELD p v
      match d.memberOf p with
      | some m =>
        (d.fset F.TEM_MBR_STATUS_HELD m v).fset F.PRT_STATUS_HELD (d.teamPort (m / 16)) (b2n (d.held (d.teamPort (m / 16))))
      | none => d) d

/-- Brings a carrier's members' deficit counters up to the present: a held member gains no credit (R253). -/
def Dev.settleMbr (d : Dev) (k : Nat) : Dev :=
  let p := d.mbrPort k
  let r := if d.heldKey (d.holdKeyOf p) || d.mbrTx k != 1 then 0 else 5 * d.units p
  d.updMbr k (fun m => { m with dc := m.dc.settle (dcCap (d.wMax (d.teamPort (k / 16)))) r d.cycle })

/-- Settles the members that a hold key covers. -/
def Dev.settleMbrs (d : Dev) (k : Nat) : Dev :=
  if k < 512 then d
  else forAll (d.clients (k - 512)) (fun d p => match d.memberOf p with
    | some m => d.settleMbr m
    | none => d) d

/-- Ports whose hold a key is. -/
def Dev.heldPorts (d : Dev) (k : Nat) : List Nat := if k < 512 then [k] else d.clients (k - 512)

/-- The port whose leaves a held port stops: a team member's team port holds only when every member does. -/
def Dev.stopHeads (d : Dev) (p : Nat) : Dev :=
  match d.memberOf p with
  | some m => if d.held (d.teamPort (m / 16)) then d.clearHeads (d.teamPort (m / 16)) else d
  | none => d.clearHeads p

/-- A carrier or port becomes or stays held (R99, R100). -/
def Dev.holdNow (d : Dev) (k : Nat) : Dev :=
  let h := d.heldSt k
  if h.since.isSome then d.setHeld k { h with resume := none }
  else
    let d := ((d.settleMbrs k).setHeld k { since := some d.cycle, resume := none, mark := d.cycle }).showHeld k
    forAll (d.heldPorts k) (fun d p => d.stopHeads p) d

/-- The hold of a team port ends once no member of it is held: the held time of that stretch is tested against the team port's
allowance (R237, R256). (DEDUCED, log 153.) -/
def Dev.teamHoldEnd (d : Dev) (t : Nat) : Dev :=
  if (d.members t).any (fun k => d.heldKey (d.holdKeyOf (d.mbrPort k))) then d
  else
    let p := d.teamPort t
    let long := decide (u16 (d.fget F.TMG_PORT_HOLD_ALLOW_NS p) < Sparse.get 0 d.team.holdSum t)
    let d : Dev := { d with team.holdSum := Sparse.set 0 d.team.holdSum t 0 }
    if long then d.cnt F.TMG_PORT_HOLD_OVER_COUNT p else d

/-- What the end of a hold since cycle `c` counts for a port that was under it (R237): a member's counts for its team port. -/
def Dev.holdEnd (d : Dev) (p c : Nat) : Dev :=
  match d.memberOf p with
  | some k => d.teamHoldEnd (k / 16)
  | none => if cyclesOfNs (d.fget F.TMG_PORT_HOLD_ALLOW_NS p) < d.cycle - c then d.cnt F.TMG_PORT_HOLD_OVER_COUNT p else d

/-- A hold ends: held time is counted (R99, R237), frames kept at the MAC start (R100). -/
def Dev.unhold (d : Dev) (k : Nat) : Dev :=
  let d := d.settleHold k
  match (d.heldSt k).since with
  | none => d
  | some c =>
    let d := forAll (d.heldPorts k) (fun d p => d.begins p) d
    let d := ((d.settleMbrs k).setHeld k {}).showHeld k
    forAll (d.heldPorts k) (fun d p => (d.holdEnd p c).resumeTx p c) d

/-- The input's followers: carriers by SEL, Ethernet ports by HOLD_SEL (R98). -/
def Dev.followers (d : Dev) (n : Nat) : List Nat :=
  ((List.range 512).filter (fun p => d.isEth p && d.fget F.PRT_MAC_CFG_HOLD_SEL p == n)) ++
  ((List.range 64).filter (fun c => d.fget F.CAR_HOLD_CFG_SEL c == n)).map (fun c => 512 + c)

/-- The next sampling cycle of the 1.5 GHz HOLD clock, every second CLK_CORE cycle (R28, R99). (DEDUCED, log 128.) -/
def Dev.toSample (d : Dev) : Dev := d.elapse (d.cycle % 2)

/-- Whether an input holds: sampled asserted and not masked (R98). -/
def Dev.holds (d : Dev) (n : Nat) : Bool := bit (d.rget R.CAR_HOLD_PIN).toNat n && !bit (d.rget R.CAR_HOLD_MASK).toNat n

/-- A follower's input lets go: an Ethernet port resumes at once, a carrier after RESUME_NS (R100). -/
def Dev.letGo (d : Dev) (k : Nat) : Dev :=
  let ns := if k < 512 then 0 else d.fget F.CAR_HOLD_CFG_RESUME_NS (k - 512)
  if ns = 0 then d.unhold k
  else if d.heldKey k then d.setHeld k { d.heldSt k with resume := some (d.cycle + cyclesOfNs ns) } else d

/-- The NTU millisecond now (R101). -/
def Dev.ntuMs (d : Dev) : Nat := d.ntu.total / (1000000 * ntuNs)

/-- HOLD_ASSERT (R99): an input is sampled asserted. -/
def holdAssert (n : Nat) (d : Dev) : Dev :=
  let d := d.toSample
  if bit (d.rget R.CAR_HOLD_PIN).toNat n then d
  else
    let d := d.fset ⟨R.CAR_HOLD_PIN, n, 1⟩ 0 1
    let ms := d.ntuMs
    let d := { d with holdIns := upd0 d.holdIns n (fun x =>
      if x.win = ms then { x with on := true, since := d.cycle, stuck := false, n := x.n + 1 }
      else { x with on := true, since := d.cycle, stuck := false, win := ms, n := 1, chat := false }) }
    if d.holds n then forAll (d.followers n) (fun d k => d.holdNow k) d else d

/-- HOLD_RELEASE (R100): an input is sampled released. (DEDUCED, log 83.) -/
def holdRelease (n : Nat) (d : Dev) : Dev :=
  let d := d.toSample
  if !bit (d.rget R.CAR_HOLD_PIN).toNat n then d
  else
    let was := d.holds n
    let d := d.fset ⟨R.CAR_HOLD_PIN, n, 1⟩ 0 0
    let d := { d with holdIns := upd0 d.holdIns n (fun x => { x with on := false }) }
    if was then forAll (d.followers n) (fun d k => d.letGo k) d else d

/-- HOLD_RESUME (R100): a carrier's resume interval ends. -/
def holdResume (c : Nat) (d : Dev) : Dev :=
  match (d.car c).hold.resume with
  | none => d
  | some t => (d.toCycle t).unhold (512 + c)

/-- HOLD_STUCK (R101): an input has stayed asserted for STUCK_MS. -/
def holdStuck (n : Nat) (d : Dev) : Dev :=
  let h := at0 d.holdIns n
  if !h.on || h.stuck then d
  else
    let d := d.toCycle (h.since + cyclesOfNs (d.fget F.CAR_HOLD_LIMITS_STUCK_MS * 1000000))
    let d := { d with holdIns := upd0 d.holdIns n (fun x => { x with stuck := true }) }
    (d.fset ⟨R.CAR_HOLD_STUCK, n, 1⟩ 0 1).alarm 3 F.CAR_HOLD_STUCK_STUCK

/-- HOLD_CHATTER (R101): more assertions than CHATTER_MAX within one NTU millisecond. -/
def holdChatter (n : Nat) (d : Dev) : Dev :=
  let h := at0 d.holdIns n
  if h.chat || decide (h.n ≤ d.fget F.CAR_HOLD_LIMITS_CHATTER_MAX) then d
  else
    let d := { d with holdIns := upd0 d.holdIns n (fun x => { x with chat := true }) }
    (d.fset ⟨R.CAR_HOLD_CHATTER, n, 1⟩ 0 1).alarm 4 F.CAR_HOLD_CHATTER_CHATTER

/-- HOLD_MASK_WRITE (R101): changed mask bits release or hold the followers of asserted inputs at the next sampling
cycle. -/
def holdMaskWrite (v : Word) (d : Dev) : Dev :=
  let old := d.rget R.CAR_HOLD_MASK
  let d := (d.rset R.CAR_HOLD_MASK 0 v).toSample
  forAll (List.range 32) (fun d n =>
    if !bit (d.rget R.CAR_HOLD_PIN).toNat n || bit old.toNat n == bit v.toNat n then d
    else if bit v.toNat n then forAll (d.followers n) (fun d k => d.letGo k) d
    else forAll (d.followers n) (fun d k => d.holdNow k) d) d

/-- A changed HOLD selection follows the input it names now (R98). -/
def Dev.reselect (d : Dev) (k n : Nat) : Dev := if n < 32 ∧ d.holds n then d.holdNow k else d.letGo k

/-! Members of teams as their ports change (R252, R257, R266) -/

/-- A port's link is gone (R89): its packets that have not started are discarded, and it counts. -/
def Dev.linkLost (d : Dev) (p : Nat) : Dev :=
  (((d.discardPort p).mcPortDown p).cnt F.PRT_LINK_DOWN_CNT_COUNT p).notice F.PRT_LINK_DOWN_CNT_COUNT p

/-- Refreshes a team port after its members changed (R245, R257): with its last ACTIVE member it goes down as any port does, and its
packets are discarded (R38, R89, R218; DEDUCED, log 151). -/
def Dev.teamRates (d : Dev) (t : Nat) (ramped : Bool) : Dev :=
  let p := d.teamPort t
  let d := forAll (d.members t) (fun d k => d.mbrRate k) d
  let any := (d.members t).any (fun k => d.mbrTx k == 1)
  let lost := d.link p && !any
  let d := d.fset F.PRT_STATUS_LINK p (b2n any)
  let d := (d.fset F.TEM_TEAM_STATUS_STATE t (if any then 1 else 2)).applyRate p ramped
  if lost then d.linkLost p else d

/-- What follows a change of a member's receive state: skews, and the check of the team's domains (R264, R266). -/
def Dev.rxChanged (d : Dev) (t : Nat) : Dev := (d.showSkew t).reseqAll t

/-- A member port goes down. -/
def Dev.mbrDown (d : Dev) (k : Nat) : Dev :=
  let d := if d.mbrTx k == 1 || d.mbrTx k == 2 then d.fset F.TEM_MBR_STATUS_TX_STATE k 3 else d
  ((d.fset F.TEM_MBR_STATUS_RX_STATE k 4).teamRates (k / 16) false).rxChanged (k / 16)

/-- A member port comes up: DOWN returns to ACTIVE, the receive side waits for its first frame. -/
def Dev.mbrUp (d : Dev) (k : Nat) : Dev :=
  let d := if d.mbrTx k == 3 then
      (d.fset F.TEM_MBR_STATUS_TX_STATE k 1).updMbr k (fun m =>
        { m with dc := Acct.zero d.cycle, lastFrame := d.cycle, lastProbe := d.cycle })
    else d
  let d := (d.fset F.TEM_MBR_STATUS_RX_STATE k 0).updMbr k (fun m => { m with rxAlive := none })
  d.teamRates (k / 16) false

/-! Ports (R89) -/

/-- Items 1 to 5 of R89 for a port that is up; a team's frames that have not started on a member go back to their leaves (R257). -/
def Dev.portFalls (d : Dev) (p : Nat) : Dev :=
  let d := d.cutTx p (fun _ => true) true
  let d := ((d.fset F.PRT_STATUS_LINK p 0).applyRate p true).linkLost p
  match d.memberOf p with
  | some k => d.mbrDown k
  | none => d

/-- A port goes down, if it is up; a frame whose reception is cut off counts (R89). A team port's link follows its members alone
(R245). (DEDUCED, log 84.) -/
def Dev.portDownNow (d : Dev) (p : Nat) (cut : Bool) : Dev :=
  if !d.link p || (d.teamOf p).isSome then d
  else d.portFalls p |> fun d => if cut then d.cnt F.PRT_RX_DOWN_DROP_COUNT p else d

/-- The same where nothing tells whether a frame was being received: a free value does (DESIGN CHOICE, log 138). -/
def Dev.portDownAny (d : Dev) (p : Nat) : Dev :=
  if !d.link p || (d.teamOf p).isSome then d else (d.fresh 1).2.portDownNow p ((d.fresh 1).1 == 1)

/-- A port comes up: its rate reads, its member follows. -/
def Dev.portRises (d : Dev) (p : Nat) : Dev :=
  if d.link p || (d.teamOf p).isSome then d
  else
    let d := (d.fset F.PRT_STATUS_LINK p 1).applyRate p true
    match d.memberOf p with
    | some k => d.mbrUp k
    | none => d

/-- PORT_DOWN (R89): an Ethernet port's PCS loses lock or alignment, or its FEC reports an uncorrectable codeword. (DEDUCED, log 130.) -/
def portDown (p : Nat) (fec cut : Bool) (d : Dev) : Dev :=
  if !d.isEth p then d
  else
    let d := if fec then d.cnt F.PRT_FEC_UNCORR_COUNT p else d.fset F.PRT_STATUS_FEC_LOCK p 0
    let d := d.updPt p (fun x => { x with lockAt := if fec then x.lockAt.map (fun _ => d.cycle) else none })
    d.portDownNow p cut

/-- PORT_UP (R89): the hold of an enabled Ethernet port ends; the clock stands at its end. -/
def portUp (p : Nat) (d : Dev) : Dev :=
  match (d.pt p).lockAt with
  | none => d
  | some l =>
    if !d.isEth p || d.link p || !d.fon F.PRT_MAC_CFG_ENABLE p || !d.forwards (p / 32) then d
    else (d.toCycle (max l (d.pt p).enAt + cyclesOfNs (d.fget F.PRT_LINK_UP_HOLD_MS p * 1000000))).portRises p

/-- An enabled client with slots comes up, one without goes down (R97). -/
def Dev.clientsFollow (d : Dev) (c : Nat) : Dev :=
  forAll (d.clients c) (fun d p =>
    if d.fon F.PRT_MAC_CFG_ENABLE p && d.slots c (d.active c) (p % 32) != 0 then d.portRises p
    else d.portDownAny p) d

/-- Whether every PHY of a carrier holds lock and alignment and the overhead is locked (R97). -/
def Dev.carLocked (d : Dev) (c : Nat) : Bool :=
  d.fon F.CAR_STATUS_OH_LOCK c && d.fget F.CAR_STATUS_PHY_ALIGNED c == 2 ^ d.fget F.CAR_CFG_PHY_COUNT c - 1

/-- Shows which PHYs of a carrier are aligned, and overhead lock. -/
def Dev.showLock (d : Dev) (c phys : Nat) (oh : Bool) : Dev :=
  (d.fset F.CAR_STATUS_PHY_ALIGNED c (phys % 2 ^ d.fget F.CAR_CFG_PHY_COUNT c)).fset F.CAR_STATUS_OH_LOCK c (b2n oh)

/-- PCS_LOCK_GAINED (R89, R97): a port's PCS, or some PHYs of a carrier and its overhead, gain lock and alignment; a carrier's hold
counts from the last of them. -/
def pcsLockGained (lock : PcsLock) (n : Nat) (d : Dev) : Dev :=
  match lock with
  | .carrier phys oh =>
    let c := n % 64
    let d := d.showLock c (d.fget F.CAR_STATUS_PHY_ALIGNED c ||| phys.toNat) (oh || d.fon F.CAR_STATUS_OH_LOCK c)
    if d.carLocked c && (d.car c).lockAt.isNone then d.updCar c (fun x => { x with lockAt := some d.cycle }) else d
  | .port =>
    if (d.pt n).lockAt.isSome then d
    else (d.fset F.PRT_STATUS_FEC_LOCK n 1).updPt n (fun x => { x with lockAt := some d.cycle })

/-- A carrier goes down with its clients (R97); `fall` takes a client down. -/
def Dev.carFalls (d : Dev) (c : Nat) (fall : Nat → Dev → Dev) : Dev :=
  if !d.fon F.CAR_STATUS_UP c then d
  else forAll (d.clients c) (fun d p => fall p d) ((d.fset F.CAR_STATUS_UP c 0).cnt F.CAR_DOWN_CNT_COUNT c)

/-- CARRIER_DOWN (R97): PHYs still aligned, overhead lock, the clients of which a frame was being received, by slice index. Where all
are aligned and locked it reports an uncorrectable codeword: the carrier stays, its up hold starts again. -/
def carrierDown (c aligned : Nat) (oh : Bool) (cut : Nat) (d : Dev) : Dev :=
  let d := d.showLock c aligned oh
  if d.carLocked c then d.updCar c (fun x => { x with lockAt := some d.cycle })
  else (d.updCar c (fun x => { x with lockAt := none })).carFalls c (fun p d => d.portDownNow p (bit cut (p % 32)))

/-- A directly armed switch whose first boundary passed while its carrier was down qualifies anew from the first boundary after the
carrier is up (R94). (DEDUCED, log 141.) -/
def Dev.swAfterUp (d : Dev) (c : Nat) : Dev :=
  match (d.car c).sw with
  | some sw =>
    if (d.car c).rc.isNone && decide (d.mfCycle c (d.mfAfter c (sw.due - 1)) ≤ d.cycle) then
      d.updCar c (fun x => { x with sw := some { sw with due := d.cycle + 1, inst := none } })
    else d
  | none => d

/-- CARRIER_UP (R97): the hold ends, counted from lock or enabling. -/
def carrierUp (c : Nat) (d : Dev) : Dev :=
  match (d.car c).lockAt with
  | none => d
  | some l =>
    if d.fon F.CAR_STATUS_UP c || !d.fon F.CAR_CFG_ENABLE c || !d.forwards (d.fget F.CAR_CFG_SLICE c) then d
    else
      let d := d.toCycle (max l (d.car c).enAt + cyclesOfNs (d.fget F.CAR_LINK_UP_HOLD_MS c * 1000000))
      ((d.fset F.CAR_STATUS_UP c 1).swAfterUp c).clientsFollow c

/-! Calendars (R93, R94) -/

/-- Shows CAR_RATE of the active calendar. -/
def Dev.showCarRate (d : Dev) (c : Nat) : Dev :=
  (d.fset F.CAR_RATE_CLIENT_SLOTS c (d.clientSlots c (d.active c))).fset F.CAR_RATE_AVAIL_SLOTS c (d.availSlots c (d.active c))

/-- SLOT advances by one after each access (R93); 9 bits, beyond which it starts again. (DESIGN CHOICE, log 81.) -/
def Dev.calAdvance (d : Dev) (c : Nat) : Dev :=
  d.fset F.CAR_CAL_IDX_SLOT c (d.fget F.CAR_CAL_IDX_SLOT c + 1)

/-- The calendar place that CAR_CAL_IDX names. -/
def Dev.calPlace (d : Dev) (c : Nat) : Nat :=
  calKey c (d.fon F.CAR_CAL_IDX_RX c) (d.fget F.CAR_CAL_IDX_BANK c) (d.fget F.CAR_CAL_IDX_SLOT c)

/-- CAL_ENTRY_WRITE (R93): the loader's FLEXE section loads calendar A, which is active. An entry that names no client of the carrier,
or leaves a client with one slot, is unpredictable; it stands as an ordinary slot of that value (DESIGN CHOICE, log 139). -/
def calEntryWrite (loader : Bool) (c v : Nat) (d : Dev) : Dev :=
  let rx := d.fon F.CAR_CAL_IDX_RX c
  let bank := d.fget F.CAR_CAL_IDX_BANK c
  let inUse := !loader &&
    (if rx then bank == d.fget F.CAR_CAL_STATUS_RX_CCC c else bank == d.active c || d.fon F.CAR_CAL_STATUS_ARMED c)
  let refused := inUse || decide (d.calLen c ≤ d.fget F.CAR_CAL_IDX_SLOT c)
  let d := if refused then d.cnt F.CAR_CAL_REFUSED_COUNT c else d.fset F.CAR_CAL_ENTRY_ENTRY (d.calPlace c) v
  d.calAdvance c

/-- CAL_ENTRY_READ (R93). -/
def calEntryRead (c : Nat) (d : Dev) : Word × Dev := (d.rget R.CAR_CAL_ENTRY (d.calPlace c), d.calAdvance c)

/-- Arms the calendar switch (R94): due at a cycle, waiting for CA at most so many multiframes. -/
def Dev.armSwitch (d : Dev) (c due : Nat) (inst hs : Option Nat) : Dev :=
  let d := d.updCar c (fun x => { x with sw := some ⟨due, inst, hs⟩ })
  (d.fset F.CAR_CAL_STATUS_ARMED c 1).fset F.CAR_CAL_STATUS_CR_SENT c 1

/-- Disarms the calendar switch. -/
def Dev.disarm (d : Dev) (c : Nat) : Dev :=
  ((d.updCar c (fun x => { x with sw := none })).fset F.CAR_CAL_STATUS_ARMED c 0).fset F.CAR_CAL_STATUS_CR_SENT c 0

/-- The instant of CAR_SW_TIME in 2^-40 ns. -/
def Dev.swTime (d : Dev) (c : Nat) : Nat :=
  instant (d.fget F.CAR_SW_TIME_SEC_LO_SEC c + d.fget F.CAR_SW_TIME_SEC_HI_SEC c * 2 ^ 32) (d.fget F.CAR_SW_TIME_NS_NS c)

/-- CAL_SWITCH_ARM (R94): with IMMEDIATE, or for a passed instant, the first boundary after ARM. -/
def calSwitchArm (c : Nat) (d : Dev) : Dev :=
  if d.fon F.CAR_CAL_STATUS_ARMED c then d.cnt F.CAR_CAL_REFUSED_COUNT c
  else
    let d := d.noteArm 1 c R.CAR_CAL_STATUS
    let t := d.swTime c
    let imm := d.fon F.CAR_CAL_CTRL_IMMEDIATE c
    let late := !imm && decide (t < d.ntu.total)
    let due := if imm || late then d.cycle + 1 else d.swDue c t
    let hs := if d.fon F.CAR_CAL_CTRL_MODE c then some (d.fget F.CAR_CAL_CTRL_HS_TIMEOUT c) else none
    let d := if late then d.fset F.CAR_CAL_STATUS_LATE c 1 else d
    d.armSwitch c due (if imm || late then none else some t) hs

/-- The switch itself at its boundary (R94): ACTIVE changes, rates and clients follow. `ramped` as for R240. -/
def Dev.switchNow (d : Dev) (c : Nat) (ramped : Nat → Bool) : Dev :=
  let d := forAll (d.clients c) (fun d p => d.begins p) d
  let d := (d.disarm c).fset F.CAR_CAL_STATUS_ACTIVE c (1 - d.active c)
  let d := (d.updCar c (fun x => { x with phase := !x.phase })).showCarRate c
  let d := forAll (d.clients c) (fun d p =>
    let d := if d.link p && d.slots c (d.active c) (p % 32) != 0 then d.applyRate p (ramped p) else d
    match d.memberOf p with
    | some k => (d.fset F.TEM_MBR_STATUS_TX_PHASE k (b2n (d.car c).phase)).teamRates (k / 16) (ramped (d.teamPort (k / 16)))
    | none => d) d
  if d.fon F.CAR_STATUS_UP c then d.clientsFollow c else d

/-- The first qualifying boundary of an armed switch (R94): at or after its instant, or the first after ARM. -/
def Dev.swFirst (d : Dev) (c : Nat) (sw : SwSt) : Nat := d.mfAfter c (sw.due - 1)

/-- The boundary at which an armed switch may take effect now (R94): none before the present. -/
def Dev.swBoundary (d : Dev) (c : Nat) (sw : SwSt) : Nat := max (d.swFirst c sw) (d.mfAfter c (d.cycle - 1))

/-- Whether the last qualifying boundary of a handshake has passed at boundary `n`. -/
def Dev.swLast (d : Dev) (c : Nat) (sw : SwSt) (n : Nat) : Bool :=
  match sw.hs with
  | some h => decide (d.swFirst c sw + h < n)
  | none => false

/-- The cycle in which a directly armed switch takes effect, as things stand (R94): none while the carrier is down or CA is missing. -/
def Dev.swCycle (d : Dev) (c : Nat) : Option Nat :=
  match (d.car c).sw with
  | none => none
  | some sw =>
    let n := d.swBoundary c sw
    if (d.car c).rc.isSome || (d.car c).boot.isNone || !d.fon F.CAR_STATUS_UP c then none
    else if sw.hs.isSome && (!d.fon F.CAR_CAL_STATUS_CA_RCVD c || d.swLast c sw n) then none
    else some (d.mfCycle c n)

/-- CAL_SWITCH (R94): the qualifying boundary of a directly armed switch comes. A carrier that is down keeps it armed. -/
def calSwitch (c : Nat) (d : Dev) : Dev :=
  match d.swCycle c with
  | some n => (d.toCycle n).switchNow c (fun _ => false)
  | none => d

/-- CAL_SWITCH_CANCEL (R94, R272): refused while a coordinated change is armed; ignored in the boundary's cycle. -/
def calSwitchCancel (c : Nat) (d : Dev) : Dev :=
  if (d.car c).rc.isSome then d.cnt F.CAR_CAL_REFUSED_COUNT c
  else if d.swCycle c = some d.cycle then d
  else if (d.car c).sw.isSome then d.disarm c else d

/-- CAL_SWITCH_ABORT (R94): a handshake without CA by its last boundary. -/
def calSwitchAbort (c : Nat) (d : Dev) : Dev :=
  match (d.car c).sw with
  | some ⟨due, inst, some h⟩ =>
    if d.fon F.CAR_CAL_STATUS_CA_RCVD c || (d.car c).boot.isNone || !d.fon F.CAR_STATUS_UP c then d
    else
      let d := (d.toCycle (d.mfCycle c (d.swFirst c ⟨due, inst, some h⟩ + h))).disarm c
      (d.fset F.CAR_CAL_STATUS_ABORTED c 1).error F.CAR_CAL_STATUS_ABORTED c
  | _ => d

/-- CA_RECEIVED (R94): CA_RCVD shows what the received overhead carries (DEDUCED, log 43). -/
def caReceived (c : Nat) (on : Bool) (d : Dev) : Dev := d.fset F.CAR_CAL_STATUS_CA_RCVD c (b2n on)

/-- The carrier's next boundary in 2^-40 ns of NTU; none while its transmitter does not run (R95). -/
def Dev.mfNext (d : Dev) (c : Nat) : Option Nat :=
  (d.car c).boot.map (fun _ => d.mfNtu c (d.mfAfter c d.cycle))

/-- MF_NEXT_READ (R95): CAR_MF_NEXT_NS, with both seconds registers captured for the requester. -/
def mfNextRead (q c : Nat) (d : Dev) : Word × Dev :=
  let t := ((d.mfNext c).getD 0) / ntuNs
  let sec := t / 1000000000
  (BitVec.ofNat 32 (t % 1000000000),
    (d.holdFor q R.CAR_MF_NEXT_SEC_LO (sec % 2 ^ 32)).holdFor q R.CAR_MF_NEXT_SEC_HI (sec / 2 ^ 32))

/-- The client ports with a slot on which received client numbers, slot by slot, and the selected receive calendar disagree (R96). -/
def Dev.rxBad (d : Dev) (c : Nat) (nums : List Nat) : List Nat :=
  let off := (List.range (min nums.length (d.calLen c))).filter (fun k => nums.getD k 0 != d.rxCal c k)
  (d.clients c).filter (fun p => off.any (fun k => nums.getD k 0 == p % 32 || d.rxCal c k == p % 32))

/-- RX_CALENDAR_CHANGE (R96, R282): the received CCC selects a calendar; the client numbers in the received overhead, as calendar
entries, are compared with it: slots on which they disagree are discarded until both agree. -/
def rxCalendarChange (c : Nat) (sel : Bool) (nums : List Nat) (d : Dev) : Dev :=
  let ccc := b2n sel
  let d := d.fset F.CAR_CAL_STATUS_RX_CCC c ccc
  let bad := d.rxBad c nums
  let differ := (List.range (min nums.length (d.calLen c))).any (fun k => nums.getD k 0 != d.rxCal c k)
  let d := d.updCar c (fun x => { x with bad := bad })
  let d := if !differ then d else (d.fset F.CAR_CAL_STATUS_CAL_MISMATCH c 1).error F.CAR_CAL_STATUS_CAL_MISMATCH c
  match (d.car c).rx with
  | some (old, _) =>
    if b2n old = ccc then d
    else (d.fset F.CAR_RC_STATUS_RX_DONE c 1).updCar c (fun x => { x with rx := none })
  | none => d

end Sys2Proof.Machine
end

