-- ==== Sys2Proof/Machine/Change.lean ====
section
/-! DEFINITION. The rate-change unit of a carrier (ch 12). -/

namespace Sys2Proof.Machine

/-- The instant of CAR_RC_TIME in 2^-40 ns. -/
def Dev.rcTime (d : Dev) (c : Nat) : Nat :=
  instant (d.fget F.CAR_RC_TIME_SEC_LO_SEC c + d.fget F.CAR_RC_TIME_SEC_HI_SEC c * 2 ^ 32) (d.fget F.CAR_RC_TIME_NS_NS c)

/-- The team member among a carrier's clients (R244: at most one). -/
def Dev.carMember (d : Dev) (c : Nat) : Option Nat := (d.clients c).findSome? (fun p => d.memberOf p)

/-- The ARM refusal of Table 12-1, 0 for none. -/
def Dev.rcRefusal (d : Dev) (c : Nat) : Nat :=
  let op := d.fget F.CAR_RC_CTRL_MEMBER_OP c
  if (d.car c).rc.isSome || (d.car c).sw.isSome then 1
  else if !d.fon F.CAR_CFG_ENABLE c then 2
  else if op ≠ 0 ∧ (d.carMember c).isNone then 3
  else if !d.fon F.CAR_RC_CTRL_CAL_SW c ∧ op = 0 then 4
  else 0

/-- Affected ports with old and new rates (R273): a member's team port carries the member's rates. -/
def Dev.rcPorts (d : Dev) (c : Nat) (sw : Bool) (op : Nat) : List (Nat × (Nat × Nat)) :=
  (d.clients c).filterMap (fun p =>
    let old := 5000 * d.slots c (d.active c) (p % 32)
    let new := if sw then 5000 * d.slots c (1 - d.active c) (p % 32) else old
    match d.memberOf p with
    | some k =>
      let o := if op = 2 then 0 else old
      let n := if op = 1 then 0 else new
      if o = n then none else some (d.teamPort (k / 16), (o, n))
    | none => if old = new then none else some (p, (old, new)))

/-- Whether a member will be ACTIVE after a change that it is in: it is, and no DRAIN takes it out, or a RESTORE brings it back. -/
def Dev.activeAfter (d : Dev) (rc : RcSt) (k : Nat) : Bool :=
  if rc.mem = some k then (d.mbrTx k == 1 && rc.op != 1) || (d.mbrTx k == 0 && rc.op == 2) else d.mbrTx k == 1

/-- A port's rate after a change (R274): of a team port, the rates of the members that will be ACTIVE. -/
def Dev.rateAfter (d : Dev) (p : Nat) (rc : RcSt) (r : Nat × Nat) : Nat :=
  match d.teamOf p with
  | some t => (((d.members t).filter (fun k => d.activeAfter rc k)).map (fun k =>
      if rc.mem = some k then r.2 else d.rp (d.mbrPort k))).sum
  | none => r.2

/-- R5 of a port at its new rate (NEW_VOID, R276). -/
def Dev.newVoidPort (d : Dev) (c : Nat) (rc : RcSt) (y : Nat × (Nat × Nat)) : Bool :=
  let d' := (d.updCar c (fun x => { x with rc := none })).fset F.PRT_STATUS_PAYLOAD_RATE y.1 (d.rateAfter y.1 rc y.2 / 5000)
  let on := (d'.leaves y.1).filter (fun q => d'.qOn q)
  decide (d'.rp y.1 * 65536 < (on.map (fun q => d'.gSum y.1 q)).sum) ||
  on.any (fun q => d'.gAdm y.1 q != 0 && decide (d'.qBound q < d'.floorNs y.1 q))

/-- NEW_VOID while a change is armed. -/
def Dev.newVoid (d : Dev) (c : Nat) : Bool :=
  match (d.car c).rc with
  | some rc => rc.ports.any (fun y => d.newVoidPort c rc y)
  | none => false

/-- Whether an affected port of a carrier's armed change is in its ramp (R276). (DEDUCED, log 124.) -/
def Dev.rcRamp (d : Dev) (c : Nat) : Bool :=
  match (d.car c).rc with
  | some rc => rc.ports.any (fun y => (d.leaves y.1).any (fun q => d.qOn q && d.ramping c rc q))
  | none => false

/-- The first boundary at or after an NTU instant that has not passed (R271). (DEDUCED, log 125.) -/
def Dev.mfAt (d : Dev) (c t : Nat) : Nat :=
  let n := d.mfFrom c (d.cycleOf t)
  if n ≠ 0 ∧ t ≤ d.mfNtu c (n - 1) ∧ d.cycle < d.mfCycle c (n - 1) then n - 1 else n

/-- RC_ARM (R271 to R276). T_plan of a carrier whose transmitter does not run is a free value (DESIGN CHOICE, log 2). (DESIGN CHOICE, log 74.) -/
def rcArm (c : Nat) (d : Dev) : Dev :=
  let e := d.rcRefusal c
  let d := if e = 0 then d.noteArm 2 c R.CAR_RC_STATUS else d
  let d := d.fset F.CAR_RC_STATUS_ERR c e
  if e ≠ 0 then d.cnt F.CAR_CAL_REFUSED_COUNT c
  else
    let t := d.rcTime c
    let imm := d.fon F.CAR_RC_CTRL_IMMEDIATE c
    let late := !imm && decide (t < d.ntu.total)
    let sw := d.fon F.CAR_RC_CTRL_CAL_SW c
    let op := d.fget F.CAR_RC_CTRL_MEMBER_OP c
    let f := d.fresh 32
    let n := if (d.car c).boot.isSome then (if imm || late then d.mfAfter c d.cycle else d.mfAt c t) else f.1
    let d : Dev := if (d.car c).boot.isSome then d else f.2
    let rc : RcSt := { mf := n, armed := d.cycle, calSw := sw, op := op, ports := d.rcPorts c sw op, mem := d.carMember c }
    let plan := d.mfCycle c n
    let pulse := plan - cyclesOfNs (d.fget F.CAR_RC_ADVANCE_NS c)
    let short := rc.ports.any (fun y => decide (y.2.2 < y.2.1) && (d.leaves y.1).any (fun q =>
      d.qOn q && decide (plan < d.cycle + d.rampLead c q)))
    let ccc := d.fon F.CAR_CAL_STATUS_RX_CCC c
    let d := d.updCar c (fun x => { x with
      rc := some rc
      plan := some n
      trig := some (if pulse < d.cycle then d.cycle + 1 else pulse)
      rx := if d.fon F.CAR_RC_CFG_RX_CHECK c && sw then some (ccc, none) else none })
    let d := d.fset F.CAR_RC_SLOTS_OLD c (d.clientSlots c (d.active c))
    let d := d.fset F.CAR_RC_SLOTS_NEW c (d.clientSlots c (1 - d.active c))
    let d := if sw then d.armSwitch c plan none none else d
    let d := d.fset F.CAR_RC_STATUS_ARMED c 1
    let d := if late then d.fset F.CAR_RC_STATUS_LATE c 1 else d
    let d := if short then d.fset F.CAR_RC_STATUS_SHORT_LEAD c 1 else d
    forAll rc.ports (fun d y => d.evalPort y.1) d

/-- Ends a carrier's armed change without effect: the ramp ends, the switch is disarmed (R281, R283). -/
def Dev.rcStop (d : Dev) (c : Nat) (err : Nat) : Dev :=
  match (d.car c).rc with
  | none => d
  | some rc =>
    let d := if rc.calSw then d.disarm c else d
    let d := d.updCar c (fun x => { x with rc := none, trig := none, rx := none })
    let d := (d.fset F.CAR_RC_STATUS_ARMED c 0).fset F.CAR_RC_STATUS_DEFERRED c 0
    let d := d.fset F.CAR_RC_STATUS_CANCELLED c 1
    let d := if err = 0 then d else d.fset F.CAR_RC_STATUS_ERR c err
    forAll rc.ports (fun d y => d.evalPort y.1) d

/-- The cycle in which an armed change takes effect, as things stand (R277): none while the switch is deferred (R280). -/
def Dev.rcCycle (d : Dev) (c : Nat) (rc : RcSt) : Option Nat :=
  let plan := d.rcPlan c rc
  if rc.calSw && ((d.car c).boot.isNone || !d.fon F.CAR_STATUS_UP c) then none
  else some (if rc.calSw && decide (plan < d.cycle) then d.mfCycle c (d.mfAfter c (d.cycle - 1)) else plan)

/-- RC_CANCEL (R281): ignored in the cycle of the change. -/
def rcCancel (c : Nat) (d : Dev) : Dev :=
  match (d.car c).rc with
  | none => d
  | some rc => if d.rcCycle c rc = some d.cycle then d else d.rcStop c 0

/-- RAMP_START (R239, R275): a leaf's T_q comes. -/
def rampStart (c q : Nat) (d : Dev) : Dev :=
  match (d.car c).rc with
  | none => d
  | some rc =>
    match rc.ports.find? (fun y => (d.leaves y.1).contains q) with
    | none => d
    | some y => (d.toCycle (d.rcPlan c rc - d.rampLead c q)).evalPort y.1

/-- The cycle in which a leaf's ramp began, if it has begun: at T_q or at ARM, unless T_q has moved (R275). -/
def Dev.rampBegan (d : Dev) (c : Nat) (rc : RcSt) (q : Nat) : Nat :=
  ((rc.began.find? (fun e => e.1 == q)).map (fun e => e.2)).getD (max rc.armed (d.rcPlan c rc - d.rampLead c q))

/-- Notes where ramps began after a leaf's bound or a carrier's lead changed: ramps under way go on, one whose T_q has passed
starts now (R275). `old` is the device before the change. -/
def Dev.rampMark (old d : Dev) : Dev :=
  { d with cars := d.cars.map (fun (e : Nat × CarSt) =>
      (e.1, { e.2 with rc := e.2.rc.map (fun rc =>
        { rc with began := ((rc.ports.map (fun y => d.leaves y.1)).flatten.filter (fun q => d.ramping e.1 rc q)).map (fun q =>
          (q, if old.ramping e.1 rc q then old.rampBegan e.1 rc q else d.cycle)) }) })) }

/-- Whether every leaf of a port was ramped for max(RATE_LEAD, D_q) before now (R240). -/
def Dev.ramped (d : Dev) (c : Nat) (rc : RcSt) (p : Nat) : Bool :=
  rc.ports.any (fun y => y.1 == p) &&
  (d.leaves p).all (fun q => decide (d.rampBegan c rc q + d.rampLead c q ≤ d.cycle))

/-- Item 2 of R277: the member operation, or MEMBER_FAIL (R280). -/
def Dev.rcMember (d : Dev) (c : Nat) (rc : RcSt) (ok : Bool) : Dev :=
  match rc.mem with
  | none => d
  | some k =>
    let fail (d : Dev) : Dev := (d.fset F.CAR_RC_STATUS_MEMBER_FAIL c 1).error F.CAR_RC_STATUS_MEMBER_FAIL c
    if rc.op = 1 then
      (if d.mbrTx k = 1 then (d.fset F.TEM_MBR_STATUS_TX_STATE k 2).teamRates (k / 16) ok else fail d)
    else if rc.op = 2 then
      (if d.mbrTx k = 0 ∧ d.link (d.mbrPort k) then
        ((d.fset F.TEM_MBR_STATUS_TX_STATE k 1).updMbr k (fun m =>
          { m with dc := Acct.zero d.cycle, lastFrame := d.cycle, lastProbe := d.cycle })).teamRates (k / 16) ok
       else fail d)
    else d

/-- RATE_CHANGE (R277, R280): the armed change takes effect at T_plan, or is deferred while the carrier is down. -/
def rateChange (c : Nat) (d : Dev) : Dev :=
  match (d.car c).rc with
  | none => d
  | some rc =>
    match d.rcCycle c rc with
    | none => (d.toCycle (d.rcPlan c rc)).fset F.CAR_RC_STATUS_DEFERRED c 1
    | some n =>
      let d := d.toCycle n
      let oks := (rc.ports.map (fun y => y.1)).filter (fun p => d.ramped c rc p)
      let rx := (d.car c).rx.map (fun x => (x.1, some (d.cycle + cyclesOfNs (d.fget F.CAR_RC_RXWAIT_US c * 1000))))
      let d := d.updCar c (fun x => { x with rc := none, rx := rx })
      let d := (d.fset F.CAR_RC_STATUS_ARMED c 0).fset F.CAR_RC_STATUS_DEFERRED c 0
      let d := if rc.calSw then d.switchNow c (fun p => oks.contains p) else d
      let d := d.rcMember c rc (match rc.mem with | some k => oks.contains (d.teamPort (k / 16)) | none => true)
      let d := forAll rc.ports (fun d y => d.evalPort y.1) d
      let d := (d.fset F.CAR_RC_STATUS_DONE c 1).fset F.CAR_RC_EFFECT_NS_NS c d.ntuNsec
      (d.cnt F.CAR_RC_DONE_CNT_COUNT c).notice F.CAR_RC_STATUS_DONE c

/-- RC_TRIG_START (R278): the pulse asserts at its time; where that had passed at ARM, in the first cycle after ARM. -/
def rcTrigStart (c : Nat) (d : Dev) : Dev :=
  match (d.car c).trig with
  | none => d
  | some t =>
    let sel := d.fget F.CAR_RC_CFG_TRIG_SEL c
    let d := (d.toCycle t).updCar c (fun x => { x with trig := none })
    if 16 ≤ sel then d
    else d.updCar c (fun x => { x with pulse := some (sel, d.cycle + cyclesOfNs (d.fget F.CAR_RC_CFG_TRIG_WIDTH_NS c)) })

/-- RC_TRIG_END (R278). -/
def rcTrigEnd (c : Nat) (d : Dev) : Dev :=
  match (d.car c).pulse with
  | none => d
  | some (_, e) => (d.toCycle e).updCar c (fun x => { x with pulse := none })

/-- RX_CHECK_LATE (R282). -/
def rxCheckLate (c : Nat) (d : Dev) : Dev :=
  match (d.car c).rx with
  | some (_, some t) =>
    let d := (d.toCycle t).updCar c (fun x => { x with rx := none })
    (d.fset F.CAR_RC_STATUS_RX_LATE c 1).error F.CAR_RC_STATUS_RX_LATE c
  | _ => d

end Sys2Proof.Machine
end

