-- ==== Sys2Proof/Machine/Cku.lean ====
section
/-! DEFINITION. The programmable CRC engines (R309 to R314). -/

namespace Sys2Proof.Machine

/-- The engine attached to a source, if any (R310): SRC_KIND 0 a channel, 1 a DMA queue. -/
def Dev.engineOf (d : Dev) (kind src : Nat) : Option Nat :=
  (List.range 4).find? (fun e =>
    d.fon F.CKU_ENG_CFG_ENABLE e && d.fget F.CKU_ENG_CFG_SRC_KIND e == kind && d.fget F.CKU_ENG_CFG_SRC e == src)

/-- A check value's bytes in the engine's ORDER (R309). -/
def Dev.checkBytes (d : Dev) (e v : Nat) : List Byte :=
  let w := algBytes (d.fget F.CKU_ENG_CFG_ALG e)
  if d.fon F.CKU_ENG_CFG_ORDER e then toBe w v else toLe w v

/-- Records the check value an engine computed (R313) and a block completed. -/
def Dev.engineLast (d : Dev) (e v : Nat) : Dev :=
  ((d.fset F.CKU_ENG_LAST_LO_VALUE e v).fset F.CKU_ENG_LAST_HI_VALUE e (v / 2 ^ 32)).cnt F.CKU_ENG_BLOCKS_COUNT e

/-- Counts a mismatch (R312). -/
def Dev.engineMismatch (d : Dev) (e : Nat) : Dev :=
  let d := (d.cnt F.CKU_ENG_MISMATCH_COUNT e).fset F.CKU_ENG_STATUS_MISMATCH e 1
  if d.fon F.CKU_ENG_CFG_EVT_EN e then d.error F.CKU_ENG_STATUS_MISMATCH e else d

/-- Changes an engine's partly seen block. -/
def Dev.updEng (d : Dev) (e : Nat) (f : CrcEng → CrcEng) : Dev := { d with cku := upd0 d.cku e f }

/-- Sets the messages an engine has seen of its block. -/
def Dev.enginePos (d : Dev) (e pos : Nat) (data : List Byte) : Dev :=
  (d.updEng e (fun x => { x with pos := pos, data := data })).fset F.CKU_ENG_STATUS_POS e pos

/-- Messages of a channel that are committed and not yet visible. -/
def Dev.chanWaiting (d : Dev) (c : Nat) : Nat :=
  if c < 240 then (at0 d.drv.chans c).com.length
  else ((at0 d.drv.injQ (c - 240)).filter (fun x => !x.visible)).length

/-- What of an engine's source was committed before its next block may start: the block is counted from the next message committed (R310,
R314). -/
def Dev.enginePass (d : Dev) (e : Nat) : Nat :=
  if d.fon F.CKU_ENG_CFG_SRC_KIND e then 0 else d.chanWaiting (d.fget F.CKU_ENG_CFG_SRC e)

/-- A commit on a channel: the engine that snoops it notes the writer's cluster, if one wrote it (R314). (DEDUCED, log 159.) -/
def Dev.engineWriter (d : Dev) (c writer : Nat) : Dev :=
  match d.engineOf 0 c with
  | some e => if writer < 8 then d.updEng e (fun x => { x with writers := writer :: x.writers.erase writer }) else d
  | none => d

/-- A message of a channel becomes visible: the engine that snoops it takes it into its block and, at the block's
last message, appends or checks (R310 to R312). One committed before the block's start passes untouched. The message as the channel
then shows it. -/
def engineMessage (ch : Nat) (msg : List Byte) (d : Dev) : List Byte × Dev :=
  match d.engineOf 0 ch with
  | none => (msg, d)
  | some e =>
    let x := at0 d.cku e
    if 0 < x.pass then (msg, d.updEng e (fun y => { y with pass := y.pass - 1 }))
    else if x.pos + 1 < d.fget F.CKU_ENG_CFG_BLOCK e then (msg, d.enginePos e (x.pos + 1) (x.data ++ msg))
    else
      let alg := d.fget F.CKU_ENG_CFG_ALG e
      let w := algBytes alg
      let body := msg.take (64 - w)
      let v := algCrc alg (x.data ++ body)
      let d := (d.engineLast e v).enginePos e 0 []
      if d.fon F.CKU_ENG_CFG_MODE e then
        let ok := msg.drop (64 - w) == d.checkBytes e v
        let d := if ok then d else d.engineMismatch e
        if d.fon F.CKU_ENG_CFG_STRIP e then (body ++ List.replicate w (if ok then 0x00 else 0xFF), d) else (msg, d)
      else (body ++ d.checkBytes e v, d)

/-- What an engine makes of the data of one DMA descriptor (R311, R312): the data moved, the length reported, CRC_ERR. -/
structure DmaCheck where
  data : List Byte
  len : Nat
  crcErr : Bool
  deriving DecidableEq, Repr

/-- The data of one descriptor passes the engine that snoops its queue; `room` is the descriptor's buffer length. -/
def engineDma (q room : Nat) (data : List Byte) (d : Dev) : DmaCheck × Dev :=
  match d.engineOf 1 q with
  | none => (⟨data, data.length, false⟩, d)
  | some e =>
    let alg := d.fget F.CKU_ENG_CFG_ALG e
    let w := algBytes alg
    if d.fon F.CKU_ENG_CFG_MODE e then
      if data.length ≤ w then (⟨data, data.length, false⟩, d.cnt F.CKU_ENG_SHORT_COUNT e)
      else
        let body := data.take (data.length - w)
        let v := algCrc alg body
        let d := d.engineLast e v
        let ok := data.drop (data.length - w) == d.checkBytes e v
        let d := if ok then d else d.engineMismatch e
        let strip := d.fon F.CKU_ENG_CFG_STRIP e
        (⟨data, if strip then data.length - w else data.length, strip && !ok⟩, d)
    else if room < data.length + w then (⟨data, data.length, false⟩, d.cnt F.CKU_ENG_SHORT_COUNT e)
    else
      let v := algCrc alg data
      (⟨data ++ d.checkBytes e v, data.length + w, false⟩, d.engineLast e v)

/-- A partly seen block is abandoned (R314). -/
def Dev.engineAbandon (d : Dev) (e : Nat) : Dev :=
  if (at0 d.cku e).pos = 0 then d
  else ((d.enginePos e 0 []).cnt F.CKU_ENG_ABANDON_COUNT e).fset F.CKU_ENG_STATUS_ABANDONED e 1

/-- A per-cluster reset reaches an engine whose channel the cluster writes: its block is abandoned, and the next one starts with the next
message committed (R314). -/
def Dev.engineReset (d : Dev) (e : Nat) : Dev := (d.engineAbandon e).updEng e (fun x => { x with pass := d.enginePass e })

/-- A write of CKU_ENG_CFG with ENABLE 1 (R310, R314): ENGINE_ENABLE. While enabled, other fields are refused; a
source already used is refused. -/
def engineEnable (e : Nat) (v : Word) (d : Dev) : Dev :=
  if d.fon F.CKU_ENG_CFG_ENABLE e then d.cnt F.CKU_REFUSED_COUNT
  else if (d.engineOf (bits v.toNat 6 1) (bits v.toNat 8 8)).isSome then d.cnt F.CKU_REFUSED_COUNT
  else
    let d := ((d.rset R.CKU_ENG_CFG e (v &&& 0x1FFFFFF#32)).enginePos e 0 []).fset F.CKU_ENG_STATUS_ACTIVE e 1
    d.updEng e (fun x => { x with writers := [], pass := d.enginePass e })

/-- A write of ENABLE 0 to a running engine (R314): ENGINE_DISABLE. -/
def engineDisable (e : Nat) (d : Dev) : Dev :=
  ((d.engineAbandon e).fset F.CKU_ENG_CFG_ENABLE e 0).fset F.CKU_ENG_STATUS_ACTIVE e 0

/-- A write of CKU_ENG_CFG (R310, R314). A write with ENABLE 0 to a running engine stops it; its other fields count
in CKU_REFUSED where they differ. -/
def engineCfgWrite (e : Nat) (v : Word) (d : Dev) : Dev :=
  let cur := d.rget R.CKU_ENG_CFG e
  if bit v.toNat 0 then
    if d.fon F.CKU_ENG_CFG_ENABLE e ∧ cur = v &&& 0x1FFFFFF#32 then d else engineEnable e v d
  else if d.fon F.CKU_ENG_CFG_ENABLE e then
    let d' := engineDisable e d
    if cur &&& 0x1FFFFFE#32 = v &&& 0x1FFFFFE#32 then d' else d'.cnt F.CKU_REFUSED_COUNT
  else d.rset R.CKU_ENG_CFG e (v &&& 0x1FFFFFE#32)

end Sys2Proof.Machine
end

