-- ==== Sys2Proof/Machine/Drover.lean ====
section
/-! DEFINITION. Drover threads (ch 16): registers, issue, faults, loads and stores, channels, waits, tasks, debug. Each
operation of Table 16-4 once, over a thread number and register values. -/

namespace Sys2Proof.Machine

/-! Thread state (R339, R349) -/

/-- A general register; g0 reads 0 (R339). -/
def Dev.gr (d : Dev) (t r : Nat) : Word := if r = 0 then 0 else Sparse.get 0 (d.thr t).g r

/-- Writes a general register; writes to g0 are ignored (R339). -/
def Dev.setGr (d : Dev) (t r : Nat) (v : Word) : Dev :=
  if r = 0 then d else d.updThr t (fun x => { x with g := Sparse.set 0 x.g r v })

/-- THREAD_STATUS.STATE of a thread. -/
def Dev.tstate (d : Dev) (t : Nat) : Nat := d.fget F.THREAD_STATUS_STATE t

/-- User mode: USER = 1 outside a trap (R349). -/
def Dev.userMode (d : Dev) (t : Nat) : Bool :=
  d.fon F.THREAD_CFG_USER t && !d.fon F.THREAD_STATUS_IN_TRAP t

/-- Whether a thread counts as stalled (R361): OFF, halted, or in a SPIN wait on its own cluster's memory without
channel wake. -/
def Dev.stalled (d : Dev) (t : Nat) : Bool :=
  let st := d.tstate t
  st == 0 || st == 4 || st == 5 ||
  match (d.thr t).hold with
  | .wait a _ => !d.fon F.THREAD_CFG_WAIT_MODE t && decide (a < 0x100000) && !d.fon F.THREAD_CFG_WAKE_EN t
  | _ => false

/-- Whether a thread is in a SPIN wait. -/
def Dev.spinning (d : Dev) (t : Nat) : Bool :=
  d.tstate t == 2 && !d.fon F.THREAD_CFG_WAIT_MODE t && match (d.thr t).hold with | .wait .. => true | _ => false

/-- Whether all threads of a cluster count as stalled, at least one of them in a SPIN wait (R362). -/
def Dev.allStalled (d : Dev) (k : Nat) : Bool :=
  let ts := (List.range 32).map (fun j => 32 * k + j)
  ts.all (fun t => d.stalled t) && ts.any (fun t => d.spinning t)

/-- Keeps the cycle since which all threads of a thread's cluster have been stalled (R362). -/
def Dev.stallWatch (d : Dev) (t : Nat) : Dev :=
  let k := t / 32
  let now := Sparse.get none d.drv.stallSince k
  if d.allStalled k then
    if now.isSome then d else { d with drv.stallSince := Sparse.set none d.drv.stallSince k (some d.cycle) }
  else { d with drv.stallSince := Sparse.set none d.drv.stallSince k none }

/-- Carries the clock to the thread's next issue slot (R337). In one cycle threads issue in ascending number, as R344 and R358 order what
they do: a thread whose turn in its slot's cycle is past leaves that slot empty (DESIGN CHOICE, log 166). -/
def Dev.toSlot (d : Dev) (t : Nat) : Dev :=
  let c := max (max d.cycle (d.thr t).slotsAt) ((d.drv.slotAt - t + 255) / 256)
  d.toCycle (nextSlot t c)

/-- An instruction of a thread, or an imprecise fault, takes the slot of the present cycle. -/
def Dev.takeSlot (d : Dev) (t : Nat) : Dev :=
  let d := d.updThr t (fun x => { x with issuedAt := d.cycle, slotsAt := d.cycle + 1 })
  { d with drv.slotAt := d.cycle * 256 + t + 1 }.countSlot t

/-- A thread's pending slot whose instruction never completes is INACTIVE (R393; DESIGN CHOICE, log 166). -/
def Dev.dropSlot (d : Dev) (t : Nat) : Dev :=
  match (d.thr t).hold with
  | .none => d
  | .fill _ => d
  | _ => d.closeSlot t 5

/-- Changes what a thread does: its STATE and what it waits for; the slots passed are placed first (R391). -/
def Dev.enter (d : Dev) (t st : Nat) (h : Hold) : Dev :=
  let d := (d.settle t).fset F.THREAD_STATUS_STATE t st
  (d.updThr t (fun x => { x with hold := h })).stallWatch t

/-- Halts a thread (R363): DBG_PC holds where it resumes. What it waits for is suspended. -/
def Dev.halt (d : Dev) (t cause : Nat) : Dev :=
  let d := d.enter t 4 (d.thr t).hold
  let d := (d.fset F.DBG_STATUS_HALTED t 1).fset F.DBG_STATUS_CAUSE t cause
  let d := d.fset F.DBG_PC_PC t (d.thr t).pc
  d.updThr t (fun x => { x with haltReq := false, stepping := false })

/-- A thread that asked to halt, or that steps, halts once its instruction has ended (R363, R364). -/
def Dev.afterSlot (d : Dev) (t : Nat) : Dev :=
  if (d.thr t).haltReq then d.halt t 1 else if (d.thr t).stepping then d.halt t 2 else d

/-- An instruction retires: its slot is placed, the thread goes on at `next` (R338, R391). -/
def Dev.retireAt (d : Dev) (t next : Nat) (evs : List Nat := []) : Dev :=
  let d := (d.settle t).placeSlot t false 0 evs
  let d := d.fset F.THREAD_PC_PC t (d.thr t).pc
  let d := d.updThr t (fun x => { x with pc := next % 2 ^ 32 })
  (d.enter t 1 .none).afterSlot t

/-- An instruction retires and the thread goes on at the next word. -/
def Dev.retire (d : Dev) (t : Nat) (evs : List Nat := []) : Dev := d.retireAt t ((d.thr t).pc + 4) evs

/-- Retires with a result in rd. -/
def Dev.result (d : Dev) (t rd : Nat) (v : Word) (evs : List Nat := []) : Dev := (d.setGr t rd v).retire t evs

/-- A thread fault (R352 to R354): recorded; the handler is entered, or the thread halts as a double fault. `imprecise`
sets bit 8 of the code (R353). (DEDUCED, log 107.) -/
def Dev.tfault (d : Dev) (t code addr : Nat) (imprecise : Bool := false) : Dev :=
  let double := d.fon F.THREAD_STATUS_IN_TRAP t || !d.fon F.THREAD_HANDLER_PC t
  let d := (d.settle t).placeSlot t true code [0x17]
  let d := d.fset F.THREAD_PC_PC t (d.thr t).pc
  let d := d.fset F.THREAD_FAULT_PC_PC t (d.thr t).pc
  let d := d.fset F.THREAD_FAULT_CODE_CODE t (code + 256 * b2n imprecise)
  let d := d.fset F.THREAD_FAULT_ADDR_ADDR t addr
  let d := (d.cnt F.THREAD_FAULT_CNT_COUNT t).cnt F.DRV_CL_FAULT_CNT_COUNT (t / 32)
  if double then
    let d := d.enter t 5 .none
    let d := (d.fset F.DBG_STATUS_HALTED t 1).fset F.DBG_STATUS_CAUSE t 5
    let d := d.fset F.DBG_PC_PC t (d.thr t).pc
    (d.updThr t (fun x => { x with haltReq := false, stepping := false })).error F.THREAD_STATUS_STATE t
  else
    let d := d.fset F.THREAD_STATUS_IN_TRAP t 1
    let d := d.updThr t (fun x => { x with pc := d.fget F.THREAD_HANDLER_PC t })
    (d.enter t 1 .none).afterSlot t

/-- Takes 64 bytes from a cluster's DRAM account (R343), in thirds of a byte. Where it stands below 64 bytes the access waits until it reaches
them, in the order of the accesses: `dramAt` of the thread is the cycle in which it has them. -/
def Dev.chargeDram (d : Dev) (t : Nat) : Dev :=
  let k := t / 32
  let rate := d.fget F.DRV_CL_DRAM_RATE_GBPS k
  let a := at0 d.drv.accts k
  let c := max d.cycle a.since
  let l := (a.now 12288 rate c).toNat
  let wait := upDiv (192 - l) (max rate 1)
  let a' : Acct := ⟨some ((l + rate * wait : Nat) - 192), c + wait⟩
  { d with drv.accts := Sparse.set default d.drv.accts k a' }.updThr t (fun x => { x with dramAt := c + wait })

/-! Fetch (R341, R346) -/

/-- Core of a thread. -/
def coreOf (t : Nat) : Nat := t / 8

/-- The cached line of a core that starts at a thread address. -/
def Dev.cacheLine (d : Dev) (t line : Nat) : Option (List Byte) :=
  ((at0 d.drv.icache (coreOf t)).find? (fun e => e.1 == line)).map (fun e => e.2)

/-- A core's cache holds 512 lines of 64 bytes; which line a fill replaces when they are all in use is not stated: a
free value chooses (DESIGN CHOICE, log 2). -/
def Dev.cacheFill (d : Dev) (t line : Nat) (bs : List Byte) : Dev :=
  let c := at0 d.drv.icache (coreOf t)
  if c.length < 512 then { d with drv.icache := upd0 d.drv.icache (coreOf t) (fun c => c ++ [(line, bs)]) }
  else
    let r := d.fresh 9
    { r.2 with drv.icache := upd0 r.2.drv.icache (coreOf t) (fun c => c.eraseIdx r.1 ++ [(line, bs)]) }

/-- The word a thread fetches at its PC, where the fetch needs no DRAM fill. -/
def Block.fetchWord (b : Block) (t : Nat) : Option Word :=
  let pc := (b.dev.thr t).pc
  if pc < 0x100000 then some (BitVec.ofNat 32 (b.mem.num .cluster (clusterAddr (t / 32) pc) 4))
  else (b.dev.cacheLine t (pc / 64 * 64)).map (fun l => BitVec.ofNat 32 (leNat ((l.drop (pc % 64)).take 4)))

/-- Whether an address of a fetch is mapped: own cluster memory or the FW window (Table 16-2). -/
def Dev.fetchMapped (d : Dev) (pc : Nat) : Bool :=
  decide (pc < 0x100000) || (decide (0x80000000 ≤ pc) && (d.mapAddr pc).isSome)

/-- Whether a thread can issue: RUN and waiting for nothing. -/
def Dev.canIssue (d : Dev) (t : Nat) : Bool :=
  d.tstate t == 1 && (d.thr t).hold == .none

/-- Whether the thread's breakpoint stands at its PC (R364). -/
def Dev.atBreak (d : Dev) (t : Nat) : Bool :=
  d.fon F.DBG_BP_EN t && d.fget F.DBG_BP_ADDR t * 4 == (d.thr t).pc

/-- The next slot of a thread, for one instruction (R337). A thread that cannot issue leaves it empty. A pending
STORE_FAIL fault takes the slot (R353); the breakpoint halts (R364, unless stepping); a bad fetch faults; a fetch
that misses the instruction cache starts a fill (R346), and the slot is the fill's. -/
def issueAs (t : Nat) (step : Bool) (f : Block → Block) (b : Block) : Block :=
  let d := b.dev
  if !d.canIssue t then b
  else
    let pc := (d.thr t).pc
    let at' := b.on (fun d => d.toSlot t)
    let b := at'.on (fun d => d.takeSlot t)
    match (d.thr t).storeFail with
    | some a =>
      b.on (fun d => (d.updThr t (fun x => { x with storeFail := none })).tfault t 0x0C a true)
    | none =>
      if !step && d.atBreak t then at'.on (fun d => d.halt t 3)
      else if pc % 4 ≠ 0 then b.on (fun d => d.tfault t 0x02 0)
      else if !d.fetchMapped pc then b.on (fun d => d.tfault t 0x03 0)
      else if pc < 0x100000 then
        if d.wordBad 0x1D (clusterAddr (t / 32) pc / 8) then
          b.on (fun d => (d.parityFail 0x1D (t / 32) (clusterAddr (t / 32) pc / 8) []).tfault t 0x07 0)
        else f b
      else if (d.cacheLine t (pc / 64 * 64)).isSome then f b
      else at'.on (fun d =>
        ((d.chargeDram t).updThr t (fun x => { x with issuedAt := d.cycle, slotsAt := d.cycle })).enter t 1 (.fill (pc / 64 * 64)))

/-- Carries the clock to the cycle in which a thread's access to DRAM has its 64 bytes of the account (R343). -/
def Dev.toDram (d : Dev) (t : Nat) : Dev := d.toCycle (d.thr t).dramAt

/-- An instruction command of a thread. (DESIGN CHOICE, log 49.) -/
def issue (t : Nat) (f : Block → Block) (b : Block) : Block := issueAs t false f b

/-- A fetch that missed the cache faults in the thread's next slot (R352). -/
def Dev.fetchFault (d : Dev) (t code : Nat) : Dev :=
  (((d.settle t).updThr t (fun x => { x with hold := .none })).toSlot t |>.takeSlot t).tfault t code 0

/-- ICACHE_FILL_DONE (R346): the line comes into the core's cache, or the fetch faults FETCH_FAIL. The fill has waited for the cluster's
DRAM account (R343). -/
def icacheFillDone (t : Nat) (b : Block) : Block :=
  match (b.dev.thr t).hold with
  | .fill line =>
    let b := b.on (fun d => d.toDram t)
    match b.dev.mapAddr line with
    | some (sp, p) =>
      let r := b.dramRead p 64 (t / 32)
      match r.1 with
      | none => r.2.on (fun d => d.fetchFault t 0x07)
      | some bs =>
        if sp = .dram then
          r.2.on (fun d =>
            let d := d.settle t
            let d := d.updSlot t (fun x => { x with filled := some (d.cycle - (d.thr t).issuedAt) })
            let d := (d.cacheFill t line bs).enter t 1 .none
            if (d.thr t).haltReq then d.halt t 1 else d)
        else b
    | none => b.on (fun d => d.fetchFault t 0x03)
  | _ => b

/-! Register instructions (Table 16-4) -/

/-- A register-register operation. -/
def opRR (f : Word → Word → Word) (t rd rs1 rs2 : Nat) (b : Block) : Block :=
  b.on (fun d => d.result t rd (f (d.gr t rs1) (d.gr t rs2)))

/-- A register-immediate operation. -/
def opRI (f : Word → Word) (t rd rs1 : Nat) (b : Block) : Block :=
  b.on (fun d => d.result t rd (f (d.gr t rs1)))

/-- rd = 1 where a comparison holds, else 0. -/
def boolWord (c : Bool) : Word := if c then 1 else 0

/-- Leading zeros of a word, 0 to 32. -/
def clz32 (v : Word) : Word := if v = 0 then 32 else BitVec.ofNat 32 (31 - Nat.log2 v.toNat)

/-- A conditional branch; target = PC + 4 + 4 × offset (R347). (DEDUCED, log 121.) -/
def opBranch (c : Word → Word → Bool) (t rs1 rs2 : Nat) (off : BitVec 16) (b : Block) : Block :=
  b.on (fun d =>
    let pc := BitVec.ofNat 32 (d.thr t).pc
    if c (d.gr t rs1) (d.gr t rs2) then d.retireAt t (pc + 4 + 4 * off.signExtend 32).toNat [0x16] else d.retire t)

/-- JAL. -/
def opJal (t rd : Nat) (off : BitVec 21) (b : Block) : Block :=
  b.on (fun d =>
    let pc := BitVec.ofNat 32 (d.thr t).pc
    (d.setGr t rd (pc + 4)).retireAt t (pc + 4 + 4 * off.signExtend 32).toNat)

/-- JALR: PC = (rs1 + imm) & ~3. -/
def opJalr (t rd rs1 : Nat) (imm : BitVec 16) (b : Block) : Block :=
  b.on (fun d =>
    let pc := BitVec.ofNat 32 (d.thr t).pc
    let target := (d.gr t rs1 + imm.signExtend 32) &&& 0xFFFFFFFC#32
    (d.setGr t rd (pc + 4)).retireAt t target.toNat)

/-! Loads and stores (R341 to R345) -/

/-- Extends loaded bytes to a word. -/
def extendLoad (size : Nat) (signed : Bool) (bs : List Byte) : Word :=
  let v := leNat bs
  if size = 1 then (if signed then (BitVec.ofNat 8 v).signExtend 32 else BitVec.ofNat 32 v)
  else if size = 2 then (if signed then (BitVec.ofNat 16 v).signExtend 32 else BitVec.ofNat 32 v)
  else BitVec.ofNat 32 v

/-- Whether an address lies in the register window. -/
def inRegWin (a : Nat) : Bool := decide (0x10000000 ≤ a) && decide (a < 0x14000000)

/-- Bytes of a thread's loads see its own posted stores (R344: program order for any one address). -/
def overlay (a : Nat) (bs : List Byte) (p : Posted) : List Byte :=
  bs.mapIdx (fun i x => if p.addr ≤ a + i ∧ a + i < p.addr + p.data.length then p.data.getD (a + i - p.addr) x else x)

/-- A load. Alignment is checked before the map (DESIGN CHOICE, log 13). -/
def opLoad (size : Nat) (signed : Bool) (t rd rs1 : Nat) (imm : BitVec 16) (b : Block) : Block :=
  let d := b.dev
  let a := (d.gr t rs1 + imm.signExtend 32).toNat
  if a % size ≠ 0 ∨ (inRegWin a ∧ size ≠ 4) then b.on (fun d => d.tfault t 0x02 a)
  else if a < 0x100000 then
    let p := clusterAddr (t / 32) a
    if d.wordBad 0x1D (p / 8) then
      b.on (fun d => (d.parityFail 0x1D (t / 32) (p / 8) []).tfault t 0x06 a)
    else b.on (fun d => d.result t rd (extendLoad size signed (b.mem.read .cluster p size)))
  else if inRegWin a then
    if d.userMode t then b.on (fun d => d.tfault t 0x04 a)
    else b.on (fun d => d.enter t 1 (.regLoad rd (a - 0x10000000)))
  else
    match d.mapAddr a with
    | none => b.on (fun d => d.tfault t 0x03 a)
    | some (.dram, _) => b.on (fun d => (d.chargeDram t).enter t 1 (.load rd a size signed))
    | some (sp, p) =>
      if d.wordBad 0x1E (p / 8) then
        b.on (fun d => (d.parityFail 0x1E 0 (p / 8) []).tfault t 0x06 a)
      else b.on (fun d => d.result t rd (extendLoad size signed (b.mem.read sp p size)))

/-- DRAM_LOAD_COMPLETE (R338): a waiting DRAM load ends, or faults MEM_FAIL. It has waited for the cluster's DRAM account (R343). -/
def dramLoadComplete (t : Nat) (b : Block) : Block :=
  match (b.dev.thr t).hold with
  | .load rd a size signed =>
    let b := b.on (fun d => d.toDram t)
    match b.dev.mapAddr a with
    | none => b.on (fun d => d.tfault t 0x03 a)
    | some (_, p) =>
      let r := b.dramRead p size (t / 32)
      match r.1 with
      | none => r.2.on (fun d => d.tfault t 0x06 a)
      | some bs =>
        r.2.on (fun d => d.result t rd (extendLoad size signed ((d.thr t).posted.foldl (overlay a) bs)) [0x10])
  | _ => b

/-- A store. A DRAM store is posted (R344). -/
def opStore (size : Nat) (t rs2 rs1 : Nat) (imm : BitVec 16) (b : Block) : Block :=
  let d := b.dev
  let a := (d.gr t rs1 + imm.signExtend 32).toNat
  let v := d.gr t rs2
  let bs := toLe size v.toNat
  if a % size ≠ 0 ∨ (inRegWin a ∧ size ≠ 4) then b.on (fun d => d.tfault t 0x02 a)
  else if a < 0x100000 then
    (b.sramWrite .cluster 0x1D (clusterAddr (t / 32) a) bs).on (fun d => d.retire t)
  else if inRegWin a then
    if d.userMode t then b.on (fun d => d.tfault t 0x04 a)
    else b.on (fun d => d.enter t 1 (.regStore (a - 0x10000000) v))
  else
    match d.mapAddr a with
    | none => b.on (fun d => d.tfault t 0x03 a)
    | some (.dram, _) =>
      b.on (fun d => ((d.chargeDram t).updThr t (fun x => { x with posted := x.posted ++ [⟨a, bs, x.dramAt⟩] })).retire t)
    | some (sp, p) => (b.sramWrite sp 0x1E p bs).on (fun d => d.retire t)

/-- An atomic on cluster memory: returns the word and stores `f` of it (R345). -/
def opAtomic (f : Word → Word → Word) (t rd rs1 rs2 : Nat) (b : Block) : Block :=
  let d := b.dev
  let a := (d.gr t rs1).toNat
  if a % 4 ≠ 0 then b.on (fun d => d.tfault t 0x02 a)
  else if 0x100000 ≤ a then b.on (fun d => d.tfault t 0x05 a)
  else
    let p := clusterAddr (t / 32) a
    if d.wordBad 0x1D (p / 8) then
      b.on (fun d => (d.parityFail 0x1D (t / 32) (p / 8) []).tfault t 0x06 a)
    else
      let w := BitVec.ofNat 32 (b.mem.num .cluster p 4)
      (b.store .cluster p (toLe 4 (f w (d.gr t rs2)).toNat)).on (fun d => d.result t rd w [0x15])

/-! Channels (R356 to R358) -/

/-- A channel. -/
def Dev.chan (d : Dev) (c : Nat) : Chan := at0 d.drv.chans c

/-- Changes a channel. -/
def Dev.updChan (d : Dev) (c : Nat) (f : Chan → Chan) : Dev := { d with drv.chans := upd0 d.drv.chans c f }

/-- Messages a general channel's ring holds. -/
def Dev.chanDepth (d : Dev) (c : Nat) : Nat := 2 ^ d.fget F.DRV_CHAN_CFG_DEPTH c

/-- Visible messages of a channel. -/
def Dev.chanVisible (d : Dev) (c : Nat) : Nat :=
  if c < 240 then (d.chan c).vis else ((at0 d.drv.injQ (c - 240)).filter (fun e => e.visible && !e.task)).length

/-- Whether a channel has room: a general channel's ring, or the 64 places of an injection queue (R359). -/
def Dev.chanRoom (d : Dev) (c : Nat) : Bool :=
  if c < 240 then decide ((d.chan c).vis + (d.chan c).com.length < d.chanDepth c) else d.injRoom (c - 240)

/-- Whether a channel may be used: injection channels always, general channels while enabled. -/
def Dev.chanOn (d : Dev) (c : Nat) : Bool := decide (240 ≤ c) || d.fon F.DRV_CHAN_CFG_ENABLE c

/-- Appends a message to a channel that has room (R357). -/
def Dev.chanAppend (d : Dev) (c writer : Nat) (msg : List Byte) : Dev :=
  let d := d.engineWriter c writer
  if c < 240 then
    let d := d.updChan c (fun x => { x with com := x.com ++ [msg] })
    let n := (d.chan c).vis + (d.chan c).com.length
    if d.fget F.DRV_CHAN_PEAK_COUNT c < n then d.fset F.DRV_CHAN_PEAK_COUNT c n else d
  else
    let d := d.injAdd (c - 240) { desc := msg, visible := false, task := false, epoch := none }
    let n := ((at0 d.drv.injQ (c - 240)).filter (fun e => !e.task)).length
    if d.fget F.DRV_CHAN_PEAK_COUNT c < n then d.fset F.DRV_CHAN_PEAK_COUNT c n else d

/-- Byte of cluster memory space of a ring place of a channel. -/
def Dev.ringPlace (d : Dev) (c i : Nat) : Nat :=
  clusterAddr (d.fget F.DRV_CHAN_CFG_HOME c) (d.fget F.DRV_CHAN_CFG_BASE c * 64 + i % d.chanDepth c * 64)

/-- CHANNEL_MESSAGE_VISIBLE (R357): the oldest committed message of a channel becomes visible, after the CRC engine
that snoops the channel (R310, R311). -/
def channelVisible (c : Nat) (b : Block) : Block :=
  if c < 240 then
    let x := b.dev.chan c
    match x.com with
    | [] => b
    | msg :: com =>
      let r := engineMessage c msg b.dev
      let b := { b with dev := r.2.updChan c (fun x => { x with com := com, vis := x.vis + 1 }) }
      b.sramWrite .cluster 0x1D (b.dev.ringPlace c (x.head + x.vis)) r.1
  else
    let q := at0 b.dev.drv.injQ (c - 240)
    match q.findIdx? (fun e => !e.visible) with
    | none => b
    | some i =>
      let e := q.getD i default
      let r := engineMessage c e.desc b.dev
      { b with dev := { r.2 with
          drv.injQ := upd0 r.2.drv.injQ (c - 240) (fun q => q.set i { e with desc := r.1, visible := true }) } }

/-- CHANNEL_FLUSH (R358): every visible message of a channel is discarded. -/
def channelFlush (c : Nat) (d : Dev) : Dev :=
  if c < 240 then d.updChan c (fun x => { x with head := (x.head + x.vis) % 4096, vis := 0 })
  else { d with drv.injQ := upd0 d.drv.injQ (c - 240) (fun q => q.filter (fun e => e.task || !e.visible)) }

/-- The 64 bytes of a thread's staging slot. -/
def Dev.stageBytes (d : Dev) (t : Nat) : List Byte :=
  ((List.range 16).map (fun w => toLe 4 (Sparse.get 0 (d.thr t).stage w).toNat)).flatten

/-- CHWR: one word of the staging slot. -/
def opChwr (t rs2 word : Nat) (b : Block) : Block :=
  b.on (fun d => (d.updThr t (fun x => { x with stage := Sparse.set 0 x.stage word (d.gr t rs2) })).retire t)

/-- CHSTG: the staging slot from 64 aligned bytes of cluster memory. -/
def opChstg (t rs1 : Nat) (imm : BitVec 16) (b : Block) : Block :=
  let a := (b.dev.gr t rs1 + imm.signExtend 32).toNat
  if a % 64 ≠ 0 then b.on (fun d => d.tfault t 0x02 a)
  else if 0x100000 ≤ a then b.on (fun d => d.tfault t 0x03 a)
  else
    let p := clusterAddr (t / 32) a
    let ws := (List.range 16).map (fun w => (w, BitVec.ofNat 32 (b.mem.num .cluster (p + 4 * w) 4)))
    let r := b.dev.sramReads 0x1D (t / 32) (p / 8) 8 []
    if r.1 then { b with dev := r.2.tfault t 0x06 a }
    else b.on (fun d => (d.updThr t (fun x => { x with
      stage := ws.foldl (fun s e => Sparse.set 0 s e.1 e.2) [] })).retire t)

/-- The commit itself, after its FENCE (R344, R357). -/
def commitNow (t rd c : Nat) (d : Dev) : Dev :=
  if d.chanRoom c then
    ((d.chanAppend c (t / 32) (d.stageBytes t)).updThr t (fun x => { x with stage := [] })).result t rd 1
  else (d.cnt F.DRV_CHAN_FULL_CNT_COUNT c).result t rd 0 [0x13]

/-- CHCOMMIT (R357): it includes a FENCE. -/
def opChcommit (t rd rs1 : Nat) (b : Block) : Block :=
  let c := (b.dev.gr t rs1).toNat % 256
  if !b.dev.chanOn c then b.on (fun d => d.tfault t 0x08 0)
  else if (b.dev.thr t).posted.isEmpty then b.on (commitNow t rd c)
  else b.on (fun d => d.enter t 1 (.commit rd c))

/-- Whether a thread may receive from or count a general channel: enabled, and of its own cluster. -/
def Dev.chanMine (d : Dev) (t c : Nat) : Bool := d.chanOn c && d.fget F.DRV_CHAN_CFG_HOME c == t / 32

/-- CHRECV (R358): the head message moves to 64 aligned bytes of cluster memory. -/
def opChrecv (t rd rs1 rs2 : Nat) (b : Block) : Block :=
  let d := b.dev
  let c := (d.gr t rs1).toNat % 256
  let a := (d.gr t rs2).toNat
  if 240 ≤ c ∨ !d.chanMine t c then b.on (fun d => d.tfault t 0x08 0)
  else if a % 64 ≠ 0 then b.on (fun d => d.tfault t 0x02 a)
  else if 0x100000 ≤ a then b.on (fun d => d.tfault t 0x03 a)
  else if (d.chan c).vis = 0 then b.on (fun d => d.result t rd 0 [0x14])
  else
    let p := d.ringPlace c (d.chan c).head
    let r := d.sramReads 0x1D (t / 32) (p / 8) 8 []
    if r.1 then { b with dev := r.2.tfault t 0x06 a }
    else (b.sramWrite .cluster 0x1D (clusterAddr (t / 32) a) (b.mem.read .cluster p 64)).on (fun d =>
      (d.updChan c (fun x => { x with head := (x.head + 1) % 4096, vis := x.vis - 1 })).result t rd 1)

/-- CHCOUNT: visible messages. An injection channel has no home cluster and is counted for any thread (DESIGN CHOICE, log 15). -/
def opChcount (t rd rs1 : Nat) (b : Block) : Block :=
  b.on (fun d =>
    let c := (d.gr t rs1).toNat % 256
    if c < 240 ∧ !d.chanMine t c then d.tfault t 0x08 0
    else d.result t rd (BitVec.ofNat 32 (d.chanVisible c)))

/-! FENCE, ISYNC, tasks, buffers (R344, R346, R372, R376, R383) -/

/-- FENCE: waits until the thread's posted stores are performed. -/
def opFence (t : Nat) (b : Block) : Block :=
  b.on (fun d => if (d.thr t).posted.isEmpty then d.retire t else d.enter t 1 .fence)

/-- ISYNC: clears the core's cache. -/
def opIsync (t : Nat) (b : Block) : Block :=
  b.on (fun d =>
    if d.userMode t then d.tfault t 0x04 0
    else { d with drv.icache := upd0 d.drv.icache (coreOf t) (fun _ => []) }.retire t)

/-- GETTASK: blocks until Stable hands a task (R372). -/
def opGettask (t rd : Nat) (b : Block) : Block :=
  b.on (fun d =>
    if d.userMode t then d.tfault t 0x04 0
    else if (d.thr t).task.isSome then d.tfault t 0x09 0
    else d.enter t 3 (.task rd d.cycle))

/-- The completion itself, after its FENCE (R376). A task that was ended as void while the FENCE waited is not held any more. -/
def doneNow (t h out : Nat) (void : Bool) (b : Block) : Block :=
  let o : TaskOut := if void then .void else if out = 0 then .empty else .inject (t / 32) out
  if (b.dev.thr t).task ≠ some h then b.on (fun d => d.tfault t 0x09 0)
  else (b.completeTask t (h % 4096) o).on (fun d => d.retire t)

/-- DONETASK (R376): faults TASK where the thread does not hold the handle. -/
def opDonetask (t rs1 rs2 : Nat) (void : Bool) (b : Block) : Block :=
  let d := b.dev
  let h := (d.gr t rs1).toNat
  if d.userMode t then b.on (fun d => d.tfault t 0x04 0)
  else if (d.thr t).task ≠ some h then b.on (fun d => d.tfault t 0x09 0)
  else if (d.thr t).posted.isEmpty then doneNow t h (d.gr t rs2).toNat void b
  else b.on (fun d => d.enter t 1 (.done h (d.gr t rs2).toNat void))

/-- The slots up to the cycle in which a pool serves a thread's request are BACK (R384, R391): the thread issues again from that cycle. -/
def Dev.poolWait (d : Dev) (t c : Nat) : Dev :=
  (d.passSlots t 4 0x0B (d.thr t).slotsAt c).updThr t (fun x => { x with slotsAt := max x.slotsAt c })

/-- BUFGET (R383): its pool serves it in its turn (R384). -/
def opBufget (t rd rs1 : Nat) (b : Block) : Block :=
  b.on (fun d =>
    let x := d.bufTurn (poolFor (d.gr t rs1).toNat)
    let r := x.2.bufGet (d.gr t rs1).toNat t
    (r.2.result t rd (BitVec.ofNat 32 r.1) (if r.1 = 0 then [0x19] else [])).poolWait t x.1)

/-- BUFPUT (R385): the buffer's pool serves it in its turn (R384). -/
def opBufput (t rd rs1 : Nat) (b : Block) : Block :=
  b.on (fun d =>
    let a := (d.gr t rs1).toNat
    let x := match d.bufAt a with
      | some (p, _) => d.bufTurn p
      | none => (d.cycle, d)
    let r := x.2.bufFree a t
    (r.2.result t rd (boolWord r.1)).poolWait t x.1)

/-- POSTED_STORE_DONE (R344): a posted store is performed, unless an earlier one to the same bytes waits; a store that
completes the last one ends a waiting FENCE, CHCOMMIT or DONETASK. One that meets a failing burst is abandoned
(R322) and raises STORE_FAIL (R353). -/
def fenceEnd (t : Nat) (b : Block) : Block :=
  if (b.dev.thr t).posted.isEmpty then
    match (b.dev.thr t).hold with
    | .fence => b.on (fun d => d.retire t)
    | .commit rd c => b.on (commitNow t rd c)
    | .done h out v => doneNow t h out v b
    | _ => b
  else b

/-- Two posted stores touch a common byte. -/
def postedOverlap (p q : Posted) : Bool :=
  decide (p.addr < q.addr + q.data.length) && decide (q.addr < p.addr + p.data.length)

/-- An abandoned posted store's STORE_FAIL fault: at once where the thread's next slot would issue, else at its next
issue (R353). -/
def storeFailNow (t a : Nat) (d : Dev) : Dev :=
  if d.canIssue t then ((d.toSlot t).takeSlot t).tfault t 0x0C a true else d.updThr t (fun x => { x with storeFail := some a })

/-- STORE_FAIL_FAULT (R353): posted store i is abandoned, once it has its 64 bytes of the account. -/
def storeFailFault (t i : Nat) (b : Block) : Block :=
  match (b.dev.thr t).posted[i]? with
  | none => b
  | some p =>
    let b := b.on (fun d => (d.toCycle p.since).updThr t (fun x => { x with posted := x.posted.eraseIdx i }))
    let b := match b.dev.mapAddr p.addr with
      | some (_, q) => b.on (fun d => (d.burstFails 1 q (t / 32)).cnt F.SDC_WR_ABORT_COUNT)
      | none => b
    fenceEnd t (b.on (storeFailNow t p.addr))

/-- POSTED_STORE_DONE (R344). -/
def postedStoreDone (t i : Nat) (b : Block) : Block :=
  match (b.dev.thr t).posted[i]? with
  | none => b
  | some p =>
    if ((b.dev.thr t).posted.take i).any (postedOverlap p) then b
    else
      let b := b.on (fun d => d.toCycle p.since)
      match b.dev.mapAddr p.addr with
      | none => fenceEnd t (b.on (fun d => d.updThr t (fun x => { x with posted := x.posted.eraseIdx i })))
      | some (_, q) =>
        if b.dev.burstBad q then storeFailFault t i b
        else
          fenceEnd t ((b.store .dram q p.data).on
            (fun d => d.updThr t (fun x => { x with posted := x.posted.eraseIdx i })))

/-! Control registers, waits, traps (R349, R350, R355, R364) -/

/-- THREAD_STATUS as it reads: stored bits, STAGED and STALLED computed (Table 16-8). -/
def Dev.statusWord (d : Dev) (t : Nat) : Word :=
  BitVec.ofNat 32 (d.tstate t + 8 * d.fget F.THREAD_STATUS_IN_TRAP t + 16 * b2n (!(d.thr t).stage.isEmpty) +
    32 * d.fget F.THREAD_STATUS_TASK_HELD t + 64 * b2n (d.stalled t))

/-- MFSR (Table 16-5, Table 18-5). -/
def opMfsr (t rd sr : Nat) (b : Block) : Block :=
  b.on (fun d =>
    let ret (v : Nat) : Dev := d.result t rd (BitVec.ofNat 32 v)
    if sr = 0 then ret t
    else if sr = 1 then ret (d.fget F.THREAD_TCMP_NS_NS t)
    else if sr = 2 then ret (d.fget F.THREAD_TCMP_SEC_SEC t)
    else if sr = 3 then ret (d.fget F.THREAD_HANDLER_PC t)
    else if sr = 4 then ret (d.fget F.THREAD_FAULT_PC_PC t)
    else if sr = 5 then ret (d.fget F.THREAD_FAULT_CODE_CODE t)
    else if sr = 6 then ret (d.fget F.THREAD_FAULT_ADDR_ADDR t)
    else if sr = 7 then ret (d.fget F.THREAD_WMASK_MASK t)
    else if sr = 8 then
      (d.updThr t (fun x => { x with ntuSec := d.ntuSec % 2 ^ 32 })).result t rd (BitVec.ofNat 32 d.ntuNsec)
    else if sr = 9 then ret (d.thr t).ntuSec
    else if sr = 10 then ret d.cycle
    else if sr = 11 then d.result t rd (d.statusWord t)
    else if 16 ≤ sr ∧ sr ≤ 27 then
      if d.userMode t ∧ !d.fon F.PMU_THR_CFG_USER_EN t then d.tfault t 0x04 0
      else if sr < 20 then
        (fun d => d.result t rd (BitVec.ofNat 32 (d.pmuGet (pmuThr t (sr - 15))))) (d.settle t)
      else
        (fun (d : Dev) => d.result t rd (BitVec.ofNat 32 (d.pmuGet (pmuCore (coreOf t) (sr - 20)))))
          (forAll ((List.range 8).map (fun j => coreOf t * 8 + j)) (fun d j => d.settle j) d)
    else d.tfault t 0x01 0)

/-- MTSR (Table 16-5, R399). A write to a control register that only reads is ignored (DESIGN CHOICE, log 14). -/
def opMtsr (t rs1 sr : Nat) (b : Block) : Block :=
  b.on (fun d =>
    let v := (d.gr t rs1).toNat
    if sr = 1 then (d.fset F.THREAD_TCMP_NS_NS t v).retire t
    else if sr = 2 then (d.fset F.THREAD_TCMP_SEC_SEC t v).retire t
    else if sr = 7 then (d.fset F.THREAD_WMASK_MASK t v).retire t
    else if sr = 3 ∨ sr = 4 then
      if d.userMode t then d.tfault t 0x04 0
      else if sr = 3 then (d.fset F.THREAD_HANDLER_PC t v).retire t
      else (d.fset F.THREAD_FAULT_PC_PC t v).retire t
    else if 16 ≤ sr ∧ sr ≤ 27 then if d.userMode t then d.tfault t 0x04 0 else d.retire t
    else if sr < 12 then d.retire t
    else d.tfault t 0x01 0)

/-- Ends a SPIN wait with the STALL fault that waits for it (R362). -/
def stallFault (t : Nat) (d : Dev) : Dev :=
  if (d.thr t).stallDue && d.spinning t then
    (d.updThr t (fun x => { x with stallDue := false })).tfault t 0x0A 0
  else d

/-- WAIT (R350): the thread waits under THREAD_CFG.WAIT_MODE; a SPIN address that would fault under R341 faults here. -/
def opWait (t rs1 rs2 : Nat) (b : Block) : Block :=
  b.on (fun d =>
    let a := (d.gr t rs1).toNat
    let spin := !d.fon F.THREAD_CFG_WAIT_MODE t
    if spin ∧ a % 4 ≠ 0 then d.tfault t 0x02 a
    else if spin ∧ inRegWin a ∧ d.userMode t then d.tfault t 0x04 a
    else if spin ∧ !(decide (a < 0x100000) || inRegWin a || (decide (0x80000000 ≤ a) && (d.mapAddr a).isSome)) then
      d.tfault t 0x03 a
    else stallFault t (d.enter t 2 (.wait a (d.gr t rs2))))

/-- Whether a thread's TIMER instant has been reached: seconds compare as serial numbers modulo 2^32 (R350). -/
def Dev.timerDue (d : Dev) (t : Nat) : Bool :=
  let ds := (d.ntuSec + 2 ^ 32 - d.fget F.THREAD_TCMP_SEC_SEC t % 2 ^ 32) % 2 ^ 32
  if ds = 0 then decide (d.fget F.THREAD_TCMP_NS_NS t ≤ d.ntuNsec) else decide (ds < 2 ^ 31)

/-- Carries the clock to a thread's TIMER instant, if it lies ahead (DESIGN CHOICE, log 8). -/
def Dev.toTimer (d : Dev) (t : Nat) : Dev :=
  if d.timerDue t then d
  else
    let ahead := (d.fget F.THREAD_TCMP_SEC_SEC t + 2 ^ 32 - d.ntuSec % 2 ^ 32) % 2 ^ 32
    d.toNtu (instant (d.ntuSec + ahead) (d.fget F.THREAD_TCMP_NS_NS t))

/-- Whether channel wake ends a wait (R351). -/
def Dev.channelWake (d : Dev) (t : Nat) : Bool :=
  d.fon F.THREAD_CFG_WAKE_EN t && decide (0 < d.chanVisible (d.fget F.THREAD_CFG_WAKE_CHAN t))

/-- Whether a word ends a SPIN wait (R350). -/
def Dev.spinEnds (d : Dev) (t : Nat) (w v : Word) : Bool := w &&& d.rget R.THREAD_WMASK t == v

/-- WAIT_END (R350, R351): the wait condition is evaluated in the thread's next slot; a wait that ends resumes after WAIT, in that slot
(DESIGN CHOICE, log 166). `win` reads a register-window word for the thread. A read of DRAM waits for the account (R343). -/
def waitEnd (win : Nat → Nat → Block → Word × Block) (t : Nat) (b : Block) : Block :=
  match (b.dev.thr t).hold with
  | .wait a v =>
    if b.dev.tstate t ≠ 2 then b
    else
    let b := b.on (fun d => (if d.fon F.THREAD_CFG_WAIT_MODE t ∧ !d.channelWake t then d.toTimer t else d).toSlot t)
    if b.dev.channelWake t then b.on (fun d => d.retire t)
    else if b.dev.fon F.THREAD_CFG_WAIT_MODE t then b.on (fun d => if d.timerDue t then d.retire t else d)
    else if a < 0x100000 then
      let p := clusterAddr (t / 32) a
      if b.dev.wordBad 0x1D (p / 8) then
        b.on (fun d => (d.parityFail 0x1D (t / 32) (p / 8) []).tfault t 0x06 a)
      else if b.dev.spinEnds t (BitVec.ofNat 32 (b.mem.num .cluster p 4)) v then b.on (fun d => d.retire t)
      else b
    else if inRegWin a then
      let r := win t (a - 0x10000000) b
      if r.2.dev.spinEnds t r.1 v then r.2.on (fun d => d.retire t) else r.2
    else
      match b.dev.mapAddr a with
      | none => b.on (fun d => d.tfault t 0x03 a)
      | some (sp, p) =>
        let r := (b.on (fun d => (d.chargeDram t).toDram t)).dramRead p 4 (t / 32)
        match r.1 with
        | none => r.2.on (fun d => d.tfault t 0x06 a)
        | some bs =>
          if sp = .dram ∧
              r.2.dev.spinEnds t (BitVec.ofNat 32 (leNat ((r.2.dev.thr t).posted.foldl (overlay a) bs))) v then
            r.2.on (fun d => d.retire t)
          else r.2
  | _ => b

/-- RFT (R355). -/
def opRft (t : Nat) (b : Block) : Block :=
  b.on (fun d =>
    if !d.fon F.THREAD_STATUS_IN_TRAP t then d.tfault t 0x01 0
    else (d.fset F.THREAD_STATUS_IN_TRAP t 0).retireAt t (d.fget F.THREAD_FAULT_PC_PC t))

/-- BRK (R364): halts when BRK_EN is 1, its slot INACTIVE (R393), else faults BREAK. -/
def opBrk (t : Nat) (b : Block) : Block :=
  b.on (fun d => if d.fon F.DBG_CTRL_BRK_EN t then (d.closeSlot t 5).halt t 4 else d.tfault t 0x0B 0)

/-! Start, reset, stall, debug (R340, R362, R363) -/

/-- A thread starts at THREAD_ENTRY (R340): registers and staging zero, outside a trap. -/
def Dev.startThread (d : Dev) (t : Nat) : Dev :=
  let d := d.settle t
  let d := d.updThr t (fun x => { (default : Thread) with
    pc := d.fget F.THREAD_ENTRY_PC t, posted := x.posted, slotsAt := x.slotsAt })
  let d := ((d.fset F.THREAD_STATUS_IN_TRAP t 0).fset F.THREAD_STATUS_TASK_HELD t 0).fset F.DBG_STATUS_HALTED t 0
  (d.fset F.DBG_STATUS_CAUSE t 0).enter t 1 .none

/-- Whether a cluster is held. -/
def Dev.clusterHeld (d : Dev) (k : Nat) : Bool := bit (d.fget F.GLB_CLUSTER_HOLD_HOLD) k

/-- THREAD_START (R340): a write of START starts an OFF thread of a cluster that is not held. -/
def threadStart (t : Nat) (d : Dev) : Dev :=
  if d.tstate t = 0 ∧ !d.clusterHeld (t / 32) then d.startThread t else d

/-- The reset of one thread by a cluster hold (R340, R76): registers, PC, staging, waits, halts, breakpoints; a task it
holds ends void. -/
def Dev.resetThread (d : Dev) (t : Nat) : Dev :=
  let d := match (d.thr t).task with
    | some h => d.voidTask (h % 4096)
    | none => d
  let d := (d.settle t).dropSlot t
  let d := d.updThr t (fun x => { (default : Thread) with posted := x.posted, slotsAt := x.slotsAt })
  forAll [R.THREAD_STATUS, R.THREAD_PC, R.THREAD_FAULT_CODE, R.THREAD_FAULT_PC, R.THREAD_FAULT_ADDR, R.THREAD_TCMP_NS,
      R.THREAD_TCMP_SEC, R.THREAD_HANDLER, R.THREAD_WMASK, R.DBG_CTRL, R.DBG_STATUS, R.DBG_PC, R.DBG_BP]
    (fun d off => d.rset off t (resetWord off)) d

/-- Threads of a cluster. -/
def clusterThreads (k : Nat) : List Nat := (List.range 32).map (fun j => 32 * k + j)

/-- A per-cluster reset (R76, R340): threads, their tasks, instruction caches; a CRC block that the cluster writes is
abandoned, on a channel that the cluster has written since ENABLE (R314). (DEDUCED, log 159.) -/
def Dev.resetCluster (d : Dev) (k : Nat) : Dev :=
  let d := forAll (clusterThreads k) (fun d t => d.resetThread t) d
  let d := { d with drv.icache := d.drv.icache.filter (fun e => e.1 / 4 != k) }
  let d := forAll (List.range 4) (fun d e => if (at0 d.cku e).writers.contains k then d.engineReset e else d) d
  { d with drv.stallSince := Sparse.set none d.drv.stallSince k none }

/-- A cluster's release (R340): its ROLE 1 threads start. -/
def Dev.releaseCluster (d : Dev) (k : Nat) : Dev :=
  forAll (clusterThreads k) (fun d t => if d.fon F.THREAD_CFG_ROLE t then d.startThread t else d) d

/-- CLUSTER_STALL (R362): the clock is carried to the end of the limit; STALL_ALL, the ALARM, and the STALL fault of the
chosen thread, at once or when it next spins. -/
def clusterStall (k : Nat) (d : Dev) : Dev :=
  let lim := d.fget F.DRV_CL_STALL_LIMIT_CYCLES k
  match Sparse.get none d.drv.stallSince k with
  | none => d
  | some c =>
    if lim = 0 then d
    else
      let d := d.toCycle (c + lim)
      let d := { d with drv.stallSince := Sparse.set none d.drv.stallSince k (some d.cycle) }
      let d := (d.fset F.DRV_CL_STATUS_STALL_ALL k 1).cnt F.DRV_CL_STALL_CNT_COUNT k
      let d := d.alarm 7 F.DRV_CL_STATUS_STALL_ALL k
      let t := 32 * k + d.fget F.DRV_CL_STALL_WAKE_THREAD k
      stallFault t (d.updThr t (fun x => { x with stallDue := true }))

/-- Whether a thread is halted (HALTED or DFAULT). -/
def Dev.isHalted (d : Dev) (t : Nat) : Bool := d.tstate t == 4 || d.tstate t == 5

/-- DEBUG_HALT (R363): outstanding accesses complete first; a wait is suspended. -/
def debugHalt (t : Nat) (d : Dev) : Dev :=
  if d.isHalted t ∨ d.tstate t = 0 then d
  else
    match (d.thr t).hold with
    | .none => d.halt t 1
    | .wait .. => d.halt t 1
    | .task .. => d.halt t 1
    | _ => d.updThr t (fun x => { x with haltReq := true })

/-- DEBUG_RESUME (R363): at DBG_PC; a suspended wait is entered again unless DBG_PC was moved. -/
def debugResume (t : Nat) (d : Dev) : Dev :=
  if !d.isHalted t then d
  else
    let pc := d.fget F.DBG_PC_PC t
    let moved := decide (pc ≠ (d.thr t).pc)
    let d := if moved then (d.settle t).dropSlot t else d
    let h := if moved then .none else (d.thr t).hold
    let st := match h with
      | .wait .. => 2
      | .task .. => 3
      | _ => 1
    let d := d.updThr t (fun x => { x with pc := pc })
    let d := (d.fset F.DBG_STATUS_HALTED t 0).fset F.DBG_STATUS_CAUSE t 0
    stallFault t (d.enter t st h)

/-- BREAKPOINT_HIT (R364): a thread that would issue at its breakpoint halts. -/
def breakpointHit (t : Nat) (d : Dev) : Dev := if d.canIssue t && d.atBreak t then d.halt t 3 else d

/-- DEBUG_CHDISCARD (R365): zeroes a halted thread's staging slot. -/
def debugChdiscard (t : Nat) (d : Dev) : Dev :=
  if d.isHalted t then d.updThr t (fun x => { x with stage := [] }) else d.cnt F.DRV_REFUSED_COUNT

/-- TASK_HANDOFF (R372, R373): a cluster's best READY task goes to its thread that waits longest; GETTASK completes
with the handle. It waits for the task store's account (R380); a task whose descriptor fails its check twice ends void (class 0x08 of
Table 15-2). -/
def taskHandoff (k : Nat) (b : Block) : Block :=
  let b := b.on Dev.ticked
  match b.dev.bestTask k, b.dev.bestThread k with
  | some (i, x), some (t, rd) =>
    if !b.dev.bufReady then b
    else
      let b := b.on (fun d => d.handTurn k)
      let r := (b.on (fun d => d.bufCharge (d.taskAddr i) 64)).dramRead (b.dev.taskAddr i) 64 0xFFFF
      match r.1 with
      | none => r.2.on (fun d => d.voidReady i)
      | some desc => (r.2.handTask t i desc).on (fun d => d.result t rd (BitVec.ofNat 32 (handleOf i x.gen)) [0x18])
  | _, _ => b

end Sys2Proof.Machine
end

