-- ==== Sys2Proof/Machine/Team.lean ====
section
/-! DEFINITION. Carrier teams (ch 11): shim and probes, distributor, receive checks, resequencer. -/

namespace Sys2Proof.Machine

/-- Sends a probe on a member (R250, R255): it stands at the MAC like a frame, and its times are those of its start. The source
address of a port is not stated: the addresses of R250 leave it to the member port, whose address no register holds, so it is a free
value (DESIGN CHOICE, log 2). (DESIGN CHOICE, log 73.) -/
def Dev.sendProbe (d : Dev) (k : Nat) (drain : Bool) : Dev :=
  let p := d.mbrPort k
  let m := d.mbr k
  let src := d.fresh 48
  let d := src.2
  let tail := toBe 2 (d.fget F.TEM_TEAM_STATUS_TX_EPOCH (k / 16)) ++ toBe 2 (d.units p) ++ toBe 1 (d.mbrTx k) ++ List.replicate 13 0
  let d := d.updMbr k (fun m => { m with alive := (m.alive + 1) % 256, probes := (m.probes + 1) % 2 ^ 32 })
  d.putLine p (max d.cycle (d.pt p).freeAt) { pkt := { data := tail }, len := 64, probe := true, mbr := some k, seq := m.probes, alive := m.alive, drain := drain, src := src.1 }

/-- Whether a member may start a frame: its port up and not held. -/
def Dev.mbrFree (d : Dev) (k : Nat) : Bool := d.link (d.mbrPort k) && !d.held (d.mbrPort k)

/-- When a member's last frame starts, or its last probe, those that stand at the MAC included. -/
def Dev.lastStart (d : Dev) (k : Nat) (probe : Bool) : Nat :=
  (((d.pt (d.mbrPort k)).tx.filter (fun t => !probe || t.probe)).map (fun t => t.start)).foldl max
    (if probe then (d.mbr k).lastProbe else (d.mbr k).lastFrame)

/-- IDLE_PROBE (R255). -/
def idleProbe (k : Nat) (d : Dev) : Dev :=
  if (d.mbrTx k != 1 && d.mbrTx k != 2) || !d.mbrFree k then d
  else
    let t := d.lastStart k false + cyclesOfNs (d.fget F.TEM_PROBE_CFG_IDLE_US (k / 16) * 1000)
    (d.toCycle (max t (d.pt (d.mbrPort k)).freeAt)).sendProbe k false

/-- FORCED_PROBE (R255, R256): its wire time is held time of the team port. -/
def forcedProbe (k : Nat) (d : Dev) : Dev :=
  if (d.mbrTx k != 1 && d.mbrTx k != 2) || !d.mbrFree k then d
  else
    let t := d.lastStart k true + cyclesOfNs (d.fget F.TEM_PROBE_CFG_MAX_US (k / 16) * 1000)
    let d := (d.toCycle (max t (d.pt (d.mbrPort k)).freeAt)).sendProbe k false
    let r := d.units (d.teamPort (k / 16))
    if r = 0 then d else (d.teamAdd (k / 16) (672 * 65536 / (5 * r))).teamHoldEnd (k / 16)

/-- DRAIN_PROBE (R252, R255): a DRAINING member sends its DRAIN probe and becomes OUT. -/
def drainProbe (k : Nat) (d : Dev) : Dev :=
  if d.mbrTx k != 2 || !d.mbrFree k then d
  else ((d.toCycle (d.pt (d.mbrPort k)).freeAt).sendProbe k true).fset F.TEM_MBR_STATUS_TX_STATE k 0

/-- MEMBER_DRAIN (R252, R257). -/
def memberDrain (k : Nat) (d : Dev) : Dev :=
  if d.mbrTx k = 1 then (d.fset F.TEM_MBR_STATUS_TX_STATE k 2).teamRates (k / 16) false else d

/-- MEMBER_RESTORE (R252). -/
def memberRestore (k : Nat) (d : Dev) : Dev :=
  if d.mbrTx k = 0 ∧ d.link (d.mbrPort k) then
    ((d.fset F.TEM_MBR_STATUS_TX_STATE k 1).updMbr k (fun m =>
      { m with dc := Acct.zero d.cycle, lastFrame := d.cycle, lastProbe := d.cycle })).teamRates (k / 16) true
  else d

/-! Distributor (R253, R254) -/

/-- The members of a team that can carry a frame now. -/
def Dev.eligible (d : Dev) (t : Nat) : List Nat :=
  (d.members t).filter (fun k => d.mbrTx k == 1 && d.mbrFree k && d.pathFree (d.mbrPort k))

/-- dist_pick: the eligible member with the largest deficit counter, lowest number on a tie. -/
def Dev.distPick (d : Dev) (t : Nat) : Option Nat :=
  let cap := dcCap (d.wMax (d.teamPort t))
  (d.eligible t).foldl (fun (a : Option Nat) k =>
    let v (k : Nat) : Int := (d.mbr k).dc.now cap (5 * d.units (d.mbrPort k)) d.cycle
    match a with
    | none => some k
    | some b => if v b < v k then some k else some b) none

/-- Gives a frame of the team port to a member: charge, and the SEQ and ALIVE of its shim (R253, R254). -/
def Dev.distribute (d : Dev) (k dom w : Nat) : Nat × Nat × Dev :=
  let t := k / 16
  let cap := dcCap (d.wMax (d.teamPort t))
  let n := (d.dom (domKey t dom)).next
  let d' := d.updMbr k (fun m => { m with
    dc := m.dc.take cap (5 * d.units (d.mbrPort k)) d.cycle (24 * w)
    alive := (m.alive + 1) % 256 })
  (n, (d.mbr k).alive, d'.updDom (domKey t dom) (fun x => { x with next := (x.next + 1) % 2 ^ 32 }))

/-! The receive side (R261 to R267) -/

/-- SYNC_WAIT_END (R261): E takes the smallest held sequence. -/
def syncWaitEnd (t dm : Nat) (d : Dev) : Dev :=
  let k := domKey t dm
  match (d.dom k).sync with
  | none => d
  | some c =>
    let d := d.toCycle c
    match (d.dom k).held with
    | [] => d.updDom k (fun x => { x with sync := none })
    | h :: r =>
      let e := r.foldl (fun a y => if 2 ^ 31 ≤ ser32 y.seq a then y.seq else a) h.seq
      let far := ((d.dom k).held.filter (fun y => decide (2 ^ 24 ≤ ser32 y.seq e))).length
      let d := d.updDom k (fun x => { x with
        synced := true, sync := none, expect := e, holes := x.holes.filter (fun q => decide (ser32 q e < 2 ^ 24)),
        held := x.held.filter (fun y => decide (ser32 y.seq e < 2 ^ 24)) })
      (if far = 0 then d else d.cnt F.TEM_FAR_COUNT t far).reseq t dm

/-- GAP_TIMER_EXPIRY (R263). -/
def gapTimerExpiry (t dm : Nat) (d : Dev) : Dev :=
  let x := d.dom (domKey t dm)
  match x.first with
  | none => d
  | some c => if !x.synced then d else (d.toCycle (c + d.gapWait t - d.gapF t)).reseq t dm

/-- SPILL_READBACK (R262, R263): the spilled frame nearest to E is read back, its read charged to the packet store's account (DEDUCED, log
152); one whose read fails twice is lost, its sequence a hole (class 0x02 of Table 15-2). What is then in order is released. -/
def spillReadback (t dm : Nat) (ok : Bool) (d : Dev) : Dev :=
  let k := domKey t dm
  let x := d.dom k
  match { x with held := x.held.filter (fun h => h.inPkt) }.nearest with
  | none => d
  | some h =>
    let d : Dev := { d with team.spill := d.team.spill.take storeCap d.spillGbps d.cycle (24 * h.pkt.data.length) }
    let d := if ok then d.updDom k (fun y => { y with held := y.held.map (fun z => if z = h then { z with fetched := true } else z) })
      else
        let f := d.fresh 40
        let d := f.2.dramFail 1 (d.pktBase + f.1 % max 1 d.pktSize) 0x02 t []
        (d.updDom k (fun y => { y with held := y.held.erase h, holes := y.holes ++ [h.seq] })).cnt F.TEM_SPILL_DROP_COUNT t
    if x.synced then d.reseq t dm else d

/-- TEAM_RESYNC (R267). -/
def teamResync (t : Nat) (d : Dev) : Dev := d.resync t

/-- TEAM_TX_RESET (R267): a new epoch, next-to-send values zero, a probe on each ACTIVE member. -/
def teamTxReset (t : Nat) (d : Dev) : Dev :=
  let d := d.fset F.TEM_TEAM_STATUS_TX_EPOCH t (d.fget F.TEM_TEAM_STATUS_TX_EPOCH t + 1)
  let d := forAll ((d.team.dom.filter (fun x => x.1 / 4096 == t)).map (fun x => x.1)) (fun d k =>
    d.updDom k (fun x => { x with next := 0 })) d
  forAll ((d.members t).filter (fun k => d.mbrTx k == 1)) (fun d k => d.sendProbe k false) d

/-! Delay, skew, receive checks (R258, R259, R266) -/

/-- The full send time congruent to SEND_T nearest to a time, both in 2^-16 ns (R266). -/
def unwrap (near : Int) (sendT : Nat) : Int :=
  let r := ((sendT : Int) * 65536 - near) % 2 ^ 32
  if r < 2 ^ 31 then near + r else near + r - 2 ^ 32

/-- An accepted probe (R259, R266, R267). -/
def Dev.rxProbe (d : Dev) (k rx : Nat) (p : List Byte) (drain : Bool) : Dev :=
  let t := k / 16
  let b := p.drop 30
  let sent : Int := ((beNat (b.take 6) * 1000000000 + beNat ((b.drop 6).take 4)) * 65536 + beNat ((b.drop 10).take 2) : Nat)
  let now : Int := (rx / 2 ^ 24 : Nat)
  let d := d.updMbr k (fun m => { m with known := true, delay := now - sent, latest := sent })
  let st := d.fget F.TEM_MBR_STATUS_RX_STATE k
  let d := if drain then d.fset F.TEM_MBR_STATUS_RX_STATE k 3
    else if st = 0 ∨ st = 2 ∨ st = 3 then d.fset F.TEM_MBR_STATUS_RX_STATE k 1 else d
  let d := d.showSkew t
  let ep := beNat ((b.drop 12).take 2)
  let d := if ep = d.fget F.TEM_RX_EPOCH_EPOCH t then d else (d.fset F.TEM_RX_EPOCH_EPOCH t ep).resync t
  d.reseqAll t

/-- An accepted data frame goes to the resequencer (R259, R266). -/
def Dev.rxData (d : Dev) (k rx : Nat) (p : List Byte) (drain : Bool) : Dev :=
  let t := k / 16
  let now : Int := (rx / 2 ^ 24 : Nat)
  let sent := unwrap (now - (d.mbr k).delay) (f16 p 24)
  let live := d.fget F.TEM_MBR_STATUS_RX_STATE k == 1
  let d := d.updMbr k (fun m => { m with known := true, delay := now - sent, latest := if live then max m.latest sent else m.latest })
  let d := if drain then d.fset F.TEM_MBR_STATUS_RX_STATE k 3 else d
  let d := d.showSkew t
  let pk : Pkt := { data := p.take 12 ++ p.drop 28, port := d.mbrPort k, kind := 1, team := t, rxAt := rx }
  let h : HFrame := { seq := f32 p 20, sent := sent, came := d.cycle, pkt := pk }
  (d.resequence t (f16 p 18 % 4096) h).reseqAll t

/-- The checks of Table 11-4 on a frame without its FCS, and what follows (R258, R259); `rx` is its receive pin time in 2^-40 ns of NTU. -/
def Dev.memberRx (d : Dev) (k rx : Nat) (p : List Byte) : Dev :=
  if f16 p 12 ≠ d.fget F.TEM_ETYPE_ETYPE then d.cnt F.TEM_MBR_RX_NOSHIM_COUNT k
  else if crc16 ((p.drop 14).take 12) ≠ f16 p 26 then d.cnt F.TEM_MBR_RX_CRC_COUNT k
  else if fb p 14 / 16 ≠ 1 then d.cnt F.TEM_MBR_RX_BADVER_COUNT k
  else if fb p 15 % 32 ≠ k / 16 ∨ fb p 16 % 16 ≠ k % 16 then d.cnt F.TEM_MBR_RX_MISWIRE_COUNT k
  else
    let a := fb p 17
    let last := (d.mbr k).rxAlive
    if last = some a then d.cnt F.TEM_MBR_ALIVE_DUP_COUNT k
    else
      let d := match last with
        | some l =>
          if a = (l + 1) % 256 then d
          else (d.cnt F.TEM_MBR_ALIVE_JUMP_COUNT k).cnt F.TEM_MBR_ALIVE_LOST_COUNT k ((a + 512 - l - 1) % 256)
        | none => d
      let d := (d.updMbr k (fun m => { m with rxAlive := some a, lastRx := d.cycle })).cnt F.TEM_MBR_RX_FRAMES_COUNT k
      let ph := b2n (bit (fb p 14) 1)
      let d := if d.fget F.TEM_MBR_STATUS_RX_PHASE k = ph then d
        else (d.fset F.TEM_MBR_STATUS_RX_PHASE k ph).notice F.TEM_MBR_STATUS_RX_PHASE k
      if bit (fb p 14) 0 then d.rxProbe k rx p (bit (fb p 14) 2) else d.rxData k rx p (bit (fb p 14) 2)

/-- MEMBER_SILENT (R266): a LIVE member without an accepted frame for TEM_SILENT. -/
def memberSilent (k : Nat) (d : Dev) : Dev :=
  if d.fget F.TEM_MBR_STATUS_RX_STATE k != 1 then d
  else
    let d := d.toCycle ((d.mbr k).lastRx + cyclesOfNs (d.fget F.TEM_SILENT_US (k / 16) * 1000))
    ((d.fset F.TEM_MBR_STATUS_RX_STATE k 2).error F.TEM_MBR_STATUS_RX_STATE k).rxChanged (k / 16)

/-- A team forms at STARTUP (R252, R261, R267). -/
def Dev.formTeam (d : Dev) (t : Nat) : Dev :=
  if !d.teamOn t || d.fget F.TEM_TEAM_STATUS_TX_EPOCH t != 0 then d
  else
    let d := d.fset F.TEM_TEAM_STATUS_TX_EPOCH t 1
    let d := forAll (d.members t) (fun d k =>
      (d.fset F.TEM_MBR_STATUS_TX_STATE k (b2n (d.link (d.mbrPort k)))).updMbr k (fun m =>
        { m with dc := Acct.zero d.cycle, lastFrame := d.cycle, lastProbe := d.cycle })) d
    d.teamRates t true

end Sys2Proof.Machine
end

