-- ==== Sys2Proof/Machine/Tm.lean ====
section
/-! DEFINITION. The traffic manager (ch 10): samples, admission, tags, policers, gate lists, the scheduler's choice. -/

namespace Sys2Proof.Machine

/-! Samples (R242) -/

/-- PERIODIC_SAMPLE (R242): the sample period ends; a record for every leaf with SAMPLE 1. (DESIGN CHOICE, log 88.) -/
def periodicSample (d : Dev) : Dev :=
  if !d.fon F.TMG_CFG_SAMPLE_EN then d
  else
    let d := (d.toCycle (d.tm.sampleAt + d.fget F.TMG_SAMPLE_PERIOD_US * 3000)).beginAll
    let d : Dev := { d with tm.sampleAt := d.cycle }
    let qs := (d.regs.filter (fun x => x.1 / 2 ^ 20 == R.TMG_Q_CFG && bit x.2.toNat 3)).map (fun x => x.1 % 2 ^ 20)
    forAll qs (fun d q =>
      let l := d.lq q
      let soj := ((l.pkts ++ d.unstarted q).map (fun x => (d.cycle - x.adm) / 3)).foldl max 0
      let d := d.sample (d.sampleBytes q 1 0 (d.backlog (d.portOf q) q) soj l.sojMax l.refused)
      d.updLq q (fun l => { l with sojMax := 0, refused := 0 })) d

/-! Admission (R234) -/

/-- The first failing test of tm_admit, 0 where none fails. `mc`: a multicast copy, without the cell and write-queue
tests. -/
def Dev.admitTest (d : Dev) (p q i l : Nat) (mc : Bool) : Nat :=
  if !d.qOn q || d.gAdm p q == 0 then 7
  else if !d.link p || d.recovering (p / 32) then 6
  else if d.maxFrame p < l + 4 then 8
  else if (match d.predict p q (d.backlog p q) with
      | some t => decide (u16 (d.qBound q) < t)
      | none => true) then 1
  else if !mc && decide (131072 < d.wrqBytes i + l) then 3
  else if d.fon F.TMG_Q_CFG_DRAM q then
    (if d.tm.store.now storeCap (d.fget F.TMG_STORE_RATE_GBPS) d.cycle < (24 * l : Nat) then 4
     else if d.storeFree < cellsOf l * 64 then 5 else 0)
  else if !mc && decide (3072 < d.xpUsed i (p / 32) + cellsOf l) then 2
  else 0

/-- The refusal counter of a code of Table 10-3. -/
def refusalCounter (code : Nat) : Fld :=
  match code with
  | 1 => F.TMG_Q_REF_DELAY_COUNT
  | 2 => F.TMG_Q_REF_XP_COUNT
  | 3 => F.TMG_Q_REF_WRQ_COUNT
  | 4 => F.TMG_Q_REF_STORE_COUNT
  | 5 => F.TMG_Q_REF_STORE_COUNT
  | 6 => F.TMG_Q_REF_DOWN_COUNT
  | 7 => F.TMG_Q_REF_NORATE_COUNT
  | _ => F.TMG_Q_REF_LONG_COUNT

/-- The REFUSAL sample of every N-th refusal (R242). -/
def Dev.refusalSample (d : Dev) (p q code : Nat) : Dev :=
  let n := d.fget F.TMG_REF_SAMPLE_N_N
  if d.fon F.TMG_CFG_REF_SAMPLE_EN && n != 0 && d.tm.refs % n == 0 then
    let b := d.backlog p q
    let soj : Nat := match d.predict p q b with
      | some t => upDiv t 65536
      | none => 0x8000000
    d.sample (d.sampleBytes q 2 code b soj 0 0)
  else d

/-- Refuses a packet with a code of Table 10-3: counters and the REFUSAL sample. -/
def Dev.refuse (d : Dev) (p q i code : Nat) : Dev :=
  let d := d.cnt (refusalCounter code) q
  let d := if code = 2 then d.cnt F.XPF_XP_REFUSED_COUNT (p / 32 * 16 + i)
    else if code = 3 then d.cnt F.XPF_WRQ_FULL_COUNT i else d
  let d := (d.pl i 0x0C).updLq q (fun (l : LeafSt) => { l with refused := l.refused + 1 })
  let d : Dev := { d with tm.refs := d.tm.refs + 1 }
  d.refusalSample p q code

/-- Serial order of tags modulo 2^48 (R206, R227). -/
def ser48 (a b : Nat) : Bool := decide (a ≠ b) && decide ((b + 2 ^ 48 - a % 2 ^ 48) % 2 ^ 48 < 2 ^ 47)

/-- The later of two tags. -/
def max48 (a b : Nat) : Nat := if ser48 a b then b else a

/-- Time of a charge at a rate in Mb/s × 65,536, in 2^-16 ns, rounded up. -/
def chargeTime (w g : Nat) : Nat := upDiv (w * 8000 * 65536 * 65536) g

/-- The tag of a packet admitted now (R226). -/
def Dev.nextTag (d : Dev) (p q l : Nat) : Nat :=
  (max48 (d.lq q).fLast (d.pt p).v + chargeTime (d.charge p l) (d.gAdm p q)) % 2 ^ 48

/-- Puts an accepted packet into its leaf queue with tag, deadline and identity (R226, R234). -/
def Dev.enqueue (d : Dev) (x : QPkt) : Dev :=
  let t := d.nextTag x.port x.queue x.data.length
  let y : QPkt := { x with id := d.tm.nextId, adm := d.cycle, bound := cyclesOfNs (d.qBound x.queue), tagv := t }
  let d := { d with tm.nextId := d.tm.nextId + 1 }
  let d := d.updLq x.queue (fun l => { l with pkts := l.pkts ++ [y], fLast := t })
  ((d.cnt F.TMG_Q_ADMIT_COUNT x.queue).pl x.row 0x0B).pl x.row 0x0D x.data.length

/-- The most bytes a row's write queue has held. -/
def Dev.wrqPeak (d : Dev) (i : Nat) : Dev :=
  let n := d.wrqBytes i
  if d.fget F.XPF_WRQ_PEAK_BYTES i < n then d.fset F.XPF_WRQ_PEAK_BYTES i n else d

/-- The packet-store account pays for a packet of L bytes (R241). -/
def Dev.storeTake (d : Dev) (l : Nat) : Dev :=
  { d with tm.store := d.tm.store.take storeCap (d.fget F.TMG_STORE_RATE_GBPS) d.cycle (24 * l) }

/-- Asks admission for a packet that is no multicast copy: `x` names data, row, port, queue and marks (R201, R203, R234). -/
def Dev.admitTo (d : Dev) (x : QPkt) : Bool × Dev :=
  let l := x.data.length
  match d.admitTest x.port x.queue x.row l false with
  | 0 =>
    let w := d.rowWrite x.row l
    let dram := d.fon F.TMG_Q_CFG_DRAM x.queue
    let ct := d.ctLeaf x.port x.queue && x.kind != 5
    let d := w.2.2.enqueue { x with wrStart := w.1, wrEnd := w.2.1, dram := dram, ct := ct }
    let d := if dram then d.storeTake l else d
    (true, (d.xpPeak x.row (x.port / 32)).wrqPeak x.row)
  | c => (false, d.refuse x.port x.queue x.row c)

/-! Policers (R229, R230): profile [9:0], TC [21:10], TE [33:22], time in µs [47:34] -/

def Dev.polSt (d : Dev) (n : Nat) : Nat := Sparse.get 0 d.tm.pol n
def Dev.setPol (d : Dev) (n prof tc te t : Nat) : Dev :=
  { d with tm.pol := Sparse.set 0 d.tm.pol n (prof + tc * 2 ^ 10 + te * 2 ^ 22 + t * 2 ^ 34) }

/-- The microsecond count of an update time. -/
def Dev.polNow (d : Dev) : Nat := d.cycle / 3000 % 16384

/-- Whole units in a number of bytes. The spec does not say what becomes of a part of a unit: it counts or not, a free
value (DESIGN CHOICE, log 2). -/
def Dev.inUnits (d : Dev) (bytes8 unit : Nat) : Nat × Dev :=
  if bytes8 % (8 * unit) = 0 then (bytes8 / (8 * unit), d)
  else
    let f := d.fresh 1
    (bytes8 / (8 * unit) + f.1, f.2)

/-- A policer brought up to the present: TC, TE. (DESIGN CHOICE, log 78.) -/
def Dev.polFill (d : Dev) (n : Nat) : (Nat × Nat) × Dev :=
  let v := d.polSt n
  let k := bits v 0 10
  let dt := (d.polNow + 16384 - bits v 34 14) % 16384
  let unit := 64 * 2 ^ d.fget F.TMG_POLP_CFG_UNIT k
  let cbs := d.fget F.TMG_POLP_BURST_CBS k
  let ebs := d.fget F.TMG_POLP_BURST_EBS k
  let a := d.inUnits (d.fget F.TMG_POLP_CIR_MBPS k * dt) unit
  let tc := bits v 10 12 + a.1
  if d.fon F.TMG_POLP_CFG_MODE k then
    let e := a.2.inUnits (d.fget F.TMG_POLP_EIR_MBPS k * dt) unit
    ((min cbs tc, min ebs (bits v 22 12 + e.1)), e.2)
  else ((min cbs tc, min ebs (bits v 22 12 + (tc - cbs))), a.2)

/-- Colors. -/
inductive Color where
  | green | yellow | red
  deriving DecidableEq, Repr

/-- One meter of a packet of FRAME_LEN l (RFC 2697, RFC 2698, color-blind). -/
def Dev.meter (d : Dev) (n l : Nat) : Color × Dev :=
  let k := bits (d.polSt n) 0 10
  let f := d.polFill n
  let u := f.2.inUnits (8 * l) (64 * 2 ^ d.fget F.TMG_POLP_CFG_UNIT k)
  let tc := f.1.1
  let te := f.1.2
  let c := u.1
  let d := u.2
  let t := d.polNow
  if d.fon F.TMG_POLP_CFG_MODE k then
    if te < c then (.red, (d.setPol n k tc te t).cnt F.TMG_POLP_RED_COUNT k)
    else if tc < c then (.yellow, (d.setPol n k tc (te - c) t).cnt F.TMG_POLP_YELLOW_COUNT k)
    else (.green, (d.setPol n k (tc - c) (te - c) t).cnt F.TMG_POLP_GREEN_COUNT k)
  else if c ≤ tc then (.green, (d.setPol n k (tc - c) te t).cnt F.TMG_POLP_GREEN_COUNT k)
  else if c ≤ te then (.yellow, (d.setPol n k tc (te - c) t).cnt F.TMG_POLP_YELLOW_COUNT k)
  else (.red, (d.setPol n k tc te t).cnt F.TMG_POLP_RED_COUNT k)

/-- Policing of a packet (R229): dropped, or going on with the class it now has. -/
def Block.police (b : Block) (s n l cls : Nat) : Option Nat × Block :=
  let r := b.dev.sramRead 0x1A s n (toLe 4 n)
  if r.1 then (none, { b with dev := r.2 })
  else
    let k := bits (r.2.polSt n) 0 10
    let m := r.2.meter n l
    let act := m.2.fget F.TMG_POLP_CFG_YELLOW_ACT k
    (match m.1 with
      | .green => some cls
      | .yellow => if act = 1 then none else if act = 2 then some (m.2.fget F.TMG_POLP_CFG_YELLOW_CLASS k) else some cls
      | .red => none, { b with dev := m.2 })

/-- POL_ASSIGN (R230): the requester's policer takes a profile, both buckets full. (DEDUCED, log 108.) -/
def polAssign (q : Nat) (b : Block) : Block :=
  let n := b.dev.fget F.TMG_POL_IDX_POLICER q
  let k := b.dev.fget F.TMG_POL_CTRL_PROFILE q
  (b.scrubFree 0x1A n).on (fun d =>
    (d.setPol n k (d.fget F.TMG_POLP_BURST_CBS k) (d.fget F.TMG_POLP_BURST_EBS k) d.polNow).fset F.TMG_POL_STATUS_DONE q 1)

/-- POL_READ: the policer's profile and buckets; free values where its word fails parity (DESIGN CHOICE, log 2). -/
def polRead (q : Nat) (d : Dev) : Dev :=
  let n := d.fget F.TMG_POL_IDX_POLICER q
  let r := d.sramRead 0x1A 0xFFFF n (toLe 4 n)
  let f := r.2.fresh 34
  let v := if r.1 then f.1 else d.polSt n
  let d := if r.1 then f.2 else r.2
  let d := (d.fset F.TMG_POL_STATUS_PROFILE q (bits v 0 10)).fset F.TMG_POL_TOKENS_TC q (bits v 10 12)
  (d.fset F.TMG_POL_TOKENS_TE q (bits v 22 12)).fset F.TMG_POL_STATUS_DONE q 1

/-- POLICER_REFRESH (R230): the scanner updates a policer; one whose word fails parity stays as it is. -/
def policerRefresh (n : Nat) (d : Dev) : Dev :=
  let r := d.sramRead 0x1A 0xFFFF n (toLe 4 n)
  if r.1 then r.2 else
  let k := bits (d.polSt n) 0 10
  let f := d.polFill n
  f.2.setPol n k f.1.1 f.1.2 f.2.polNow

/-! Gate lists (R231 to R233) -/

/-- A port's gate list becomes pending: its terms are computed within 50 µs, after a free number of cycles (DESIGN CHOICE, log 2). (DESIGN CHOICE, log 86.) -/
def Dev.gatePend (d : Dev) (p : Nat) : Dev :=
  let f := d.fresh 32
  let d := f.2.updPt p (fun x => { x with gateArmed := false, gate := some ⟨d.cycle + f.1 % (cyclesOfNs 50000 + 1), none⟩ })
  (d.fset F.TMG_GATE_STATUS_PENDING p 1).evalPort p

/-- Whether a slice's apply pass runs or still waits, so that an arming waits for its end (R232). -/
def Dev.applying (d : Dev) (s : Nat) : Bool := d.sliceSt s == stHarness || d.sliceSt s == stStructure || d.sliceSt s == stRecovery

/-- GATE_ARM (R232). -/
def gateArm (p : Nat) (d : Dev) : Dev :=
  if d.fon F.TMG_GATE_STATUS_PENDING p then d.cnt F.TMG_GATE_REFUSED_COUNT p
  else if d.applying (p / 32) then d.updPt p (fun x => { x with gateArmed := true })
  else d.gatePend p

/-- GATE_CANCEL (R232). -/
def gateCancel (p : Nat) (d : Dev) : Dev :=
  let own := match (d.pt p).gate with
    | some ⟨_, some c⟩ => decide (d.actAt (c * ntuNs) = d.cycle)
    | _ => false
  if !d.fon F.TMG_GATE_STATUS_PENDING p || own then d.cnt F.TMG_GATE_REFUSED_COUNT p
  else ((d.updPt p (fun x => { x with gate := none })).fset F.TMG_GATE_STATUS_PENDING p 0).evalPort p

/-- GATE_COMPUTE_DONE (R232): the change time is fixed. -/
def gateComputeDone (p : Nat) (d : Dev) : Dev :=
  match (d.pt p).gate with
  | some ⟨r, none⟩ =>
    let d := d.toCycle r
    let base := d.gateBase p
    let now := d.ntu.total / ntuNs
    let cyc := max 1 (d.gateCycle p 1)
    if d.ntu.total < base * ntuNs then d.updPt p (fun x => { x with gate := some ⟨r, some base⟩ })
    else
      (d.updPt p (fun x => { x with gate := some ⟨r, some (base + ((now - base) / cyc + 1) * cyc)⟩ })).fset
        F.TMG_GATE_STATUS_LATE_START p 1
  | _ => d

/-- GATE_LIST_CHANGE (R232): the administrative list becomes operating. -/
def gateListChange (p : Nat) (d : Dev) : Dev :=
  match (d.pt p).gate with
  | some ⟨_, some c⟩ =>
    let d := (d.toCycle (d.actAt (c * ntuNs))).clearHeads p
    let n := d.gateLen p 1
    let d := forAll (List.range n) (fun d i => d.rset (gateOff p 0 i) 0 (d.rget (gateOff p 1 i))) d
    let d := (d.fset F.TMG_GATE_OPER_LEN_LEN p n).fset F.TMG_GATE_OPER_CYCLE_NS p (d.gateCycle p 1)
    let d := (d.fset F.TMG_GATE_STATUS_PENDING p 0).fset F.TMG_GATE_STATUS_OPER_VALID p 1
    let d := (d.fset F.TMG_GATE_CHANGE_NS_NS p (c % 1000000000)).fset F.TMG_GATE_CHANGE_SEC_LO_SEC p (c / 1000000000 % 2 ^ 32)
    let d := d.fset F.TMG_GATE_CHANGE_SEC_HI_SEC p (c / 1000000000 / 2 ^ 32)
    (d.updPt p (fun x => { x with gate := none, operBase := (c * ntuNs : Nat) - d.ntu.steps, entry := 0 })).evalPort p
  | _ => d

/-- GATE_ENTRY_ADVANCE (R231): the clock comes to the end of the operating entry in force; leaves of classes that close are
not selectable. -/
def gateEntryAdvance (p : Nat) (d : Dev) : Dev :=
  if !d.fon F.TMG_GATE_STATUS_OPER_VALID p then d
  else
    let sp := d.gateSpans p 0
    let ph := d.gatePhase p d.ntu.total
    match sp.find? (fun x => decide (ph < x.2.2 * ntuNs)) with
    | none => d
    | some x =>
      let d := d.toNtu (d.ntu.total + (x.2.2 * ntuNs - ph))
      let ph := d.gatePhase p d.ntu.total
      let i := (sp.filter (fun y => decide (y.2.2 * ntuNs ≤ ph))).length
      let st := (sp.getD i (255, 0, 0)).1
      let d := d.updPt p (fun y => { y with entry := i })
      forAll ((d.leaves p).filter (fun q => !bit st (d.classOf p q))) (fun d q => d.clearHead q) d

/-! The effects of time on rates (R238, R240) -/

/-- GUAR_LOWER_EFFECT (R238). -/
def guarLowerEffect (q : Nat) (d : Dev) : Dev :=
  if (d.lq q).low.isEmpty then d else (d.settleLow q).evalPort (d.portOf q)

/-- FALL_VOID_CLEAR (R240): a down port keeps its value (R236). -/
def fallVoidClear (p : Nat) (d : Dev) : Dev :=
  match (d.pt p).fall with
  | some t =>
    if !d.link p then d
    else (((d.toCycle t).fset F.TMG_CFG_STATUS_FALL_VOID p 0).updPt p (fun x => { x with fall := none })).evalPort p
  | none => d

/-! Heads and the choice among leaves (R206, R212, R227) -/

/-- Whether a packet is cut-through now: admitted so, and its class not gated since (R211, R233). -/
def Dev.ctNow (d : Dev) (x : QPkt) : Bool := x.ct && !d.gated x.port (d.classOf x.port x.queue)

/-- First cycle at which a packet is readable: none while an event is still to come (R207, R212). -/
def Dev.readyAt (d : Dev) (x : QPkt) : Option Nat :=
  if x.dram then (if x.fetched then some x.adm else none)
  else if d.ctNow x then some ((x.wrStart + 3 * min x.data.length 256 + 399) / 400)
  else if x.written || x.mc.isSome then some x.adm
  else none

/-- The heads of a leaf's sub-queues: the oldest packet of each row, the store input apart (R205, R207). -/
def Dev.subHeads (d : Dev) (q : Nat) : List QPkt :=
  let key (x : QPkt) : Nat := if x.dram then 16 else x.row
  (d.lq q).pkts.foldl (fun (a : List QPkt) x => if a.any (fun y => key y == key x) then a else a ++ [x]) []

/-- The head of a leaf (R206): the readable sub-queue head with the smallest tag, lowest input on a tie. -/
def Dev.headOf (d : Dev) (q : Nat) : Option QPkt :=
  let key (x : QPkt) : Nat := if x.dram then 16 else x.row
  ((d.subHeads q).filter (fun x => match d.readyAt x with | some c => decide (c ≤ d.cycle) | none => false)).foldl
    (fun (a : Option QPkt) x => match a with
      | none => some x
      | some y => if ser48 x.tagv y.tagv || (x.tagv == y.tagv && decide (key x < key y)) then some x else some y) none

/-- Whether the shapers of a leaf let it start (R228). -/
def Dev.shaped (d : Dev) (p q : Nat) : Bool :=
  let neg (s : Option (Nat × Nat)) (a : Acct) : Bool := match s with
    | some (r, c) => decide (a.now c r d.cycle < 0)
    | none => false
  neg (d.leafShape p q) (d.lq q).shaper || neg (d.clsShape p (d.classOf p q)) (at0 (d.pt p).cls (d.classOf p q))

/-- The MAC start of a frame that a port takes now (R208). -/
def Dev.macStart (d : Dev) (p : Nat) : Nat := max (d.cycle + 84) (d.pt p).freeAt

/-- Whether a leaf is selectable with a head (R227). -/
def Dev.selectable (d : Dev) (p q : Nat) : Option QPkt :=
  if !d.qOn q || !d.link p || d.held p || d.gSch p q == 0 then none
  else
    match d.headOf q with
    | none => none
    | some x =>
      if d.gateOpen p (d.classOf p q) (d.ntuAt (d.macStart p)) (d.tau p x.data.length) && !d.shaped p q then some x else none

/-- The selectable leaves of a port with their heads. -/
def Dev.choices (d : Dev) (p : Nat) : List (Nat × QPkt) :=
  (d.leaves p).filterMap (fun q => if (d.lq q).pkts.isEmpty then none else (d.selectable p q).map (fun x => (q, x)))

/-- The first part of tm_select: heads that are new or newly selectable take S and F. -/
def Dev.tagHeads (d : Dev) (p : Nat) : Dev :=
  let cs := d.choices p
  let v := (d.pt p).v
  let d := forAll ((d.leaves p).filter (fun q => !cs.any (fun c => c.1 == q))) (fun d q => d.clearHead q) d
  forAll cs (fun d c =>
    let l := d.lq c.1
    if l.head = some c.2.id then d
    else
      let s := max48 l.fServed v
      d.updLq c.1 (fun l => { l with
        head := some c.2.id, s := s, f := (s + chargeTime (d.charge p c.2.data.length) (d.gSch p c.1)) % 2 ^ 48 })) d

/-- tm_select (R227): the leaf and its head. (DEDUCED, log 87.) -/
def tmSelect (p : Nat) (d : Dev) : Option (Nat × QPkt) × Dev :=
  let d := d.tagHeads p
  let cs := d.choices p
  match cs with
  | [] => (none, d)
  | c0 :: r0 =>
    let late (v : Nat) (c : Nat × QPkt) : Bool := !ser48 v (d.lq c.1).s
    let v := (d.pt p).v
    let v := if cs.any (late v) then v
      else r0.foldl (fun a c => if ser48 (d.lq c.1).s a then (d.lq c.1).s else a) (d.lq c0.1).s
    let best := (cs.filter (late v)).foldl (fun (a : Option (Nat × QPkt)) c => match a with
      | none => some c
      | some y => if ser48 (d.lq c.1).f (d.lq y.1).f then some c else some y) none
    match best with
    | none => (none, d)
    | some (q, x) =>
      let d := d.updLq q (fun l => { l with fServed := l.f, head := none })
      (some (q, x), d.updPt p (fun y => { y with
        v := (v + chargeTime (d.charge p x.data.length) (d.rp p * 65536)) % 2 ^ 48 }))

end Sys2Proof.Machine
end

