-- ==== Sys2Proof/Machine/Fabric.lean ====
section
/-! DEFINITION. The crosspoint fabric and the egress pipelines (ch 09): row writes, store fetches, frame starts, the
replicator; mirror sessions (R195). -/

namespace Sys2Proof.Machine

/-! Row writes (R203) -/

/-- Ends of the writes still to come in a row, in 1/400 cycle. -/
def Dev.rowEnds (d : Dev) (s : Nat) : List Nat :=
  ((d.queued ++ d.reading).filter (fun x => x.row == s && !x.written && x.mc.isNone)).map (fun x => x.wrEnd) ++
  (d.tm.mcs.filter (fun m => m.row == s && !m.written)).map (fun m => m.wrEnd)

/-- Marks the packets of a row written whose write ends at a time. -/
def Dev.markWritten (d : Dev) (s e : Nat) : Dev :=
  let mark (x : QPkt) : QPkt := if x.row = s ∧ x.wrEnd = e ∧ x.mc.isNone then { x with written := true } else x
  let markMc (m : McPkt) : McPkt := if m.row = s ∧ m.wrEnd = e then { m with written := true } else m
  { d with
    tm.leaves := d.tm.leaves.map (fun (y : Nat × LeafSt) => (y.1, { y.2 with pkts := y.2.pkts.map mark }))
    tm.mcs := d.tm.mcs.map markMc
    ports := d.ports.map (fun (y : Nat × PortSt) =>
      (y.1, { y.2 with tx := y.2.tx.map (fun (t : Tx) => { t with pkt := mark t.pkt }) })) }

/-- ROW_WRITE_END (R203): the oldest write of a row ends. -/
def rowWriteEnd (s : Nat) (d : Dev) : Dev :=
  match d.rowEnds s with
  | [] => d
  | e :: r =>
    let e := r.foldl min e
    (d.toCycle ((e + 399) / 400)).markWritten s e

/-! The packet store (R241) -/

/-- Removes a packet from its leaf queue. -/
def Dev.unqueue (d : Dev) (q id : Nat) : Dev :=
  d.updLq q (fun (l : LeafSt) => { l with pkts := l.pkts.filter (fun x => x.id != id) })

/-- A free place in a range: where a packet's bytes lie in a memory is not visible (DESIGN CHOICE, log 2). (DESIGN CHOICE, log 111.) -/
def Dev.freePlace (d : Dev) (base n : Nat) : Nat × Dev :=
  let f := d.fresh 40
  (base + f.1 % max 1 n, f.2)

/-- STORE_FETCH_DONE (R241): the head of a leaf's store sub-queue is read, and its bursts are free from the next cycle on; a fetch that fails its
check twice loses the packet (Table 15-2, class 0x01). -/
def storeFetchDone (q : Nat) (ok : Bool) (d : Dev) : Dev :=
  match (d.lq q).pkts.find? (fun x => x.dram) with
  | none => d
  | some x =>
    if x.fetched || !x.written then d
    else if ok then
      d.updLq q (fun (l : LeafSt) => { l with
        pkts := l.pkts.map (fun (y : QPkt) => if y.id = x.id then { y with fetched := true, fetchAt := d.cycle } else y) })
    else
      let a := d.freePlace d.pktBase d.pktSize
      let d := a.2.dramFail 1 a.1 0x01 q []
      d.discardIf q (fun y => y.id == x.id)

/-! Mirror sessions (R195) -/

def mirOff (n : Nat) : Nat := 0x35C4000 + n * 16

/-- Whether a session copies this packet: in use, of the type, and chosen by SAMPLE_N. -/
def Block.mirrorTakes (b : Block) (slice n : Nat) (egress : Bool) : Bool × Block :=
  let x := b.tabBad slice (mirOff n) 16
  let b := x.2
  let w := b.mem.num .tabs (mirOff n) 1
  if x.1 then (false, b.on (fun d => d.cnt F.FWD_DEST_DROP_COUNT slice))
  else if !bit w 0 || bit w 1 != egress then (false, b)
  else
    let k := b.mem.num .tabs (mirOff n + 4) 4 % 2 ^ 24
    let c := Sparse.get 0 b.dev.fwd.mir n + 1
    (decide (k < 2) || c % k == 0, b.on (fun d => { d with fwd.mir := Sparse.set 0 d.fwd.mir n c }))

/-- A session's copy of a frame. -/
def Block.mirrorCut (b : Block) (n : Nat) (data : List Byte) : List Byte :=
  let t := b.mem.num .tabs (mirOff n + 8) 2 % 2 ^ 14
  if t < 64 then data else data.take t

/-- Admission of a copy to its session's leaf queue, written through a row (R34, R36, R196). -/
def Block.mirrorAdmit (b : Block) (row n kind : Nat) (data : List Byte) : Block :=
  let w := b.mem.num .tabs (mirOff n + 1) 1
  let p := b.mem.num .tabs (mirOff n + 2) 2 % 512
  b.on (fun d =>
    let x : QPkt := { data := data, row := row, port := p, queue := d.leafOf p (w % 8) (bits w 3 4), kind := kind }
    let r := d.admitTo x
    if r.1 then r.2.cnt (F.FWD_MIR_COPY_COUNT.nth n) else r.2.cnt (F.FWD_MIR_REF_COUNT.nth n))

/-- The egress copy of a frame that starts (R195, R196): it goes to the recirculation input of its slice. -/
def Block.mirrorEgress (b : Block) (x : QPkt) (data : List Byte) : Block :=
  let s := x.port / 32
  if x.kind = 5 ∨ x.kind = 6 ∨ !bit (b.portCfg x.port 3) 5 then b
  else
    let n := b.portCfg x.port 4 % 16
    let t := b.mirrorTakes s n true
    if !t.1 then t.2
    else t.2.on (fun d => d.updSl s (fun (y : SliceSt) => { y with
      recirc := y.recirc ++ [{ data := t.2.mirrorCut n data, port := x.port, slice := s, kind := 5, session := n }] }))

/-! Frame starts (R208) -/

/-- First cycle at which shapers that hold a leaf let it go. -/
def Dev.shapedTill (d : Dev) (p q : Nat) : Nat :=
  let t (s : Option (Nat × Nat)) (a : Acct) : Nat := match s with
    | some (r, c) => d.cycle + upDiv (-(a.now c r d.cycle)).toNat r
    | none => d.cycle
  max (t (d.leafShape p q) (d.lq q).shaper) (t (d.clsShape p (d.classOf p q)) (at0 (d.pt p).cls (d.classOf p q)))

/-- The smallest of some numbers. -/
def minOf (l : List Nat) : Option Nat :=
  match l with
  | [] => none
  | a :: r => some (r.foldl min a)

/-- First cycle at which a leaf has a readable head that no shaper holds, gates apart. -/
def Dev.leafReady (d : Dev) (p q : Nat) : Option Nat :=
  if !d.qOn q then none
  else (minOf ((d.subHeads q).filterMap d.readyAt)).map (fun c => max c (d.shapedTill p q))

/-- First cycle at which a port's path takes a frame. -/
def Dev.pathReady (d : Dev) (p : Nat) : Option Nat :=
  match d.teamOf p with
  | some t =>
    minOf (((d.members t).filter (fun k => d.mbrTx k == 1 && d.mbrFree k)).map (fun k => (d.pt (d.mbrPort k)).freeAt - 84))
  | none => some ((d.pt p).freeAt - 84)

/-- Ports of a slice that are up, not held, and have packets. -/
def Dev.busyPorts (d : Dev) (s : Nat) : List Nat :=
  ((List.range 32).map (fun k => 32 * s + k)).filter (fun p =>
    d.link p && !d.held p && (d.leaves p).any (fun q => !(d.lq q).pkts.isEmpty))

/-- First cycle at which a port may start a frame. -/
def Dev.portReady (d : Dev) (p : Nat) : Option Nat :=
  match d.pathReady p, minOf ((d.leaves p).filterMap (fun q => if (d.lq q).pkts.isEmpty then none else d.leafReady p q)) with
  | some a, some c => some (max a c)
  | _, _ => none

/-- Whether a port's path is free for a frame taken now. -/
def Dev.pathNow (d : Dev) (p : Nat) : Bool :=
  match d.teamOf p with
  | some t => !(d.eligible t).isEmpty
  | none => d.pathFree p

/-- Whether a port can start a frame now (R208). -/
def Dev.canStart (d : Dev) (p : Nat) : Bool := d.pathNow p && !(d.choices p).isEmpty

/-- The port with the largest byte-deficit counter, the lowest number on a tie. -/
def Dev.egressPick (d : Dev) (ps : List Nat) : Option Nat :=
  let v (p : Nat) : Int := (d.pt p).dc.now (dcCap (d.wMax p)) (5 * d.units p) d.cycle
  ps.foldl (fun (a : Option Nat) p => match a with
    | none => some p
    | some b => if v b < v p then some p else some b) none

/-- A frame whose deadline has passed at its MAC start is discarded (R37). It takes no credit of the port (DESIGN CHOICE, log 28). -/
def Dev.expire (d : Dev) (x : QPkt) (start : Nat) : Dev :=
  ((d.unqueue x.queue x.id).expired x start).settleMc.freeAll x.frees

/-- A start takes credit of its port (R208) and tokens of its shapers (R228). -/
def Dev.startCharge (d : Dev) (x : QPkt) : Dev :=
  let p := x.port
  let q := x.queue
  let l := x.data.length
  let w := d.charge p l * shapeByte
  let c := d.classOf p q
  let r := 5 * d.units p
  let d := d.updPt p (fun (y : PortSt) => { y with dc := y.dc.take (dcCap (d.wMax p)) r d.cycle (24 * (max l 114 + 20)) })
  let d := match d.leafShape p q with
    | some (r, k) => d.updLq q (fun (y : LeafSt) => { y with shaper := y.shaper.take k r d.cycle w })
    | none => d
  let d := match d.clsShape p c with
    | some (r, k) => d.updPt p (fun (y : PortSt) => { y with cls := upd0 y.cls c (fun a => a.take k r d.cycle w) })
    | none => d
  forAll ((d.leaves p).filter (fun y => (y == q || d.classOf p y == c) && d.shaped p y)) (fun d y => d.clearHead y) d

/-- A frame is taken for transmission (R208): it leaves its queue and stands at the MAC; a mirror copy is of what the pipeline takes
(R195). (DEDUCED, log 158.) -/
def Block.takeFrame (b : Block) (x : QPkt) (start : Nat) (mbr : Option Nat) : Block :=
  let d := b.dev
  let p := x.port
  let n := x.data.length + 4
  let x := { x with ct := d.ctNow x }
  let d := (d.unqueue x.queue x.id).startCharge x
  let d := match mbr with
    | some k =>
      let r := d.distribute k x.dom (d.charge p x.data.length)
      r.2.2.putLine (d.mbrPort k) start { pkt := x, len := n + 16, mbr := some k, seq := r.1, alive := r.2.1 }
    | none => d.putLine p start { pkt := x, len := n }
  let d := d.pl (p / 32) 0x0E
  let d := if x.ct then d.pl (p / 32) 0x10 else d
  { b with dev := d }.mirrorEgress x x.data

/-- EGRESS_FRAME_START (R19, R208, R37): the clock comes to the pipeline's next start slot, and on to the first cycle at which
a port of the slice can start a frame; the port with the most credit takes its leaf-queue head. -/
def egressFrameStart (s : Nat) (b : Block) : Block :=
  let d := match (b.dev.sl s).lastTx with
    | some c => b.dev.toCycle (c + 1)
    | none => b.dev
  let ps := d.busyPorts s
  let d := if ps.any (fun p => d.canStart p) then d
    else match minOf (ps.filterMap (fun p => d.portReady p)) with
      | some c => d.toCycle c
      | none => d
  match d.egressPick (ps.filter (fun p => d.canStart p)) with
  | none => { b with dev := d }
  | some p =>
    let mbr := (d.teamOf p).bind (fun t => d.distPick t)
    let start := d.macStart (match mbr with | some k => d.mbrPort k | none => p)
    let d := d.updSl s (fun (x : SliceSt) => { x with lastTx := some d.cycle })
    match tmSelect p d with
    | (none, d) => { b with dev := d }
    | (some (_, x), d) =>
      if x.adm + x.bound < start then { b with dev := d.expire x start }
      else { b with dev := d }.takeFrame x start mbr

/-- FRAME_READ_END (R202): the last byte of a port's oldest frame in reading is read. With a parity failure in its bytes the frame is
lost, a started one cut short (R213, Table 15-2, class 0x10). -/
def frameReadEnd (p : Nat) (parity : Bool) (d : Dev) : Dev :=
  match (d.pt p).tx.find? (fun t => !t.isRead && !t.probe && !d.keptTx p t) with
  | none => d
  | some t =>
    let d := (d.toCycle (t.stop - 84)).begins p
    let mine (u : Tx) : Bool := u.start == t.start && !u.probe
    if parity then
      let s := t.pkt.port / 32
      let w := d.fresh 20
      let d := w.2.parityFail 0x10 s w.1 []
      let cut := (d.pt p).tx.any (fun u => mine u && u.begun)
      let d := (d.cutTx p mine).cnt F.XPF_PAR_DROP_COUNT s
      if cut then (d.cnt F.XPF_ABORT_CNT_COUNT s).cnt F.TMG_Q_DISCARD_COUNT t.pkt.queue else d
    else
      let d := d.updPt p (fun (y : PortSt) => { y with
        tx := y.tx.map (fun (u : Tx) => if mine u then { u with isRead := true } else u) })
      d.settleMc.freeAll t.pkt.frees

/-! Multicast (R215 to R218) -/

/-- Whether the ports of an earlier packet of the same crosspoint and class keep a port as residue (R217). -/
def Dev.mcBlocked (d : Dev) (m : McPkt) (p : Nat) : Bool :=
  d.tm.mcs.any (fun n => n.row == m.row && n.col == m.col && n.cls == m.cls && decide (n.id < m.id) && n.residue.contains p)

/-- Changes a multicast packet of a column. -/
def Dev.updMc (d : Dev) (id col : Nat) (f : McPkt → McPkt) : Dev :=
  { d with tm.mcs := d.tm.mcs.map (fun m => if m.id = id ∧ m.col = col then f m else m) }

/-- Counts a copy that is not made (R218). -/
def Dev.mcDrop (d : Dev) (p : Nat) : Dev := d.cnt (F.XPF_MC_RES_DROP_COUNT.nth (p % 32)) (p / 32)

/-- The outcome of a request for a copy. -/
inductive CopyEnd where
  | made | residue | dropped
  deriving DecidableEq, Repr

/-- The order domain of a packet on a port: the flow record's for its team, else the key's (R251). -/
def Dev.domFor (d : Dev) (k : Pkt) (hashed p : Nat) : Nat :=
  match d.teamOf p, k.dom with
  | some t, some (u, dm) => if u = t then dm else hashed
  | _, _ => hashed

/-- Requests admission of the copy of a packet for a port (R216). A copy of a DRAM-backed leaf takes the store tests and its bytes from
the store account, and its bytes stay in the packet's cells (DESIGN CHOICE, log 29). -/
def Dev.mcCopy (d : Dev) (m : McPkt) (p : Nat) : CopyEnd × Dev :=
  let l := m.src.data.length
  let q := d.leafOf p m.cls m.group
  match d.admitTest p q m.row l true with
  | 0 =>
    let x : QPkt :=
      { data := m.src.data, row := m.row, queue := q, port := p, mc := some m.id, written := true, dom := d.domFor m.src m.hashDom p,
        inPort := m.src.port, rxAt := m.src.rxAt, kind := m.src.kind }
    let d := if d.fon F.TMG_Q_CFG_DRAM q then d.storeTake l else d
    (.made, ((d.enqueue x).cnt F.XPF_MC_COPIES_COUNT (p / 32)).pl (p / 32) 0x11)
  | c =>
    let d := d.refuse p q m.row c
    if c = 8 ∨ d.fget F.XPF_MC_CFG_RESIDUE_WAIT_US m.col = 0 then (.dropped, d.mcDrop p) else (.residue, d)

/-- The packet a replicator works on: the one it has taken, else the next by class and ingress slice (R216). -/
def Dev.mcNext (d : Dev) (s : Nat) : Option McPkt :=
  let ready := d.tm.mcs.filter (fun m => m.col == s && m.written && !m.todo.isEmpty)
  match ready.find? (fun m => m.taken) with
  | some m => some m
  | none =>
    ready.foldl (fun (a : Option McPkt) m => match a with
      | none => some m
      | some b => if b.cls < m.cls ∨ (b.cls = m.cls ∧ (m.row < b.row ∨ (m.row = b.row ∧ m.id < b.id))) then some m
        else some b) none

/-- What a column's residue list shows once it has changed; the retries of a list count from the cycle in which it came to hold a packet
(R217). (DEDUCED, log 157.) -/
def Dev.resChanged (d : Dev) (s : Nat) (was : Bool) : Dev :=
  let d := d.showRes s
  if !was && !(d.residues s).isEmpty then d.updSl s (fun (x : SliceSt) => { x with retryAt := d.cycle + 256 }) else d

/-- REPLICATE (R216, R217): one request of the slice's replicator, one cycle. A full residue list stops it from taking a new
packet. -/
def replicate (s : Nat) (d : Dev) : Dev :=
  match d.mcNext s with
  | none => d
  | some m =>
    if !m.taken && decide (1024 ≤ (d.residues s).length) then d.elapse 1
    else
      match m.todo with
      | [] => d
      | p :: r =>
        let d := d.elapse 1
        let was := !(d.residues s).isEmpty
        let o : CopyEnd × Dev := if d.mcBlocked m p then (.residue, d) else d.mcCopy m p
        let d := o.2.updMc m.id s (fun (y : McPkt) => { y with
          taken := true, todo := r, residue := if o.1 = .residue then y.residue ++ [p] else y.residue })
        (d.resChanged s was).settleMc

/-- One request of a retry: the copy of a listed packet for one of its residue ports. -/
def Dev.retryOne (d : Dev) (s id p : Nat) : Dev :=
  match d.tm.mcs.find? (fun y => y.id == id && y.col == s) with
  | none => d
  | some y =>
    if d.mcBlocked y p then d
    else
      let o := d.mcCopy y p
      let d := o.2.elapse 1
      if o.1 = .residue then d
      else d.updMc y.id s (fun (z : McPkt) => { z with residue := z.residue.erase p })

/-- RESIDUE_RETRY (R217): every 256 cycles every residue port is asked again, the oldest packet first, one request a cycle (R216). -/
def residueRetry (s : Nat) (d : Dev) : Dev :=
  if (d.residues s).isEmpty then d
  else
    let d := d.toCycle (max (d.sl s).retryAt d.cycle)
    let d := d.updSl s (fun (x : SliceSt) => { x with retryAt := d.cycle + 256 })
    let d := forAll (d.residues s) (fun d m => forAll m.residue (fun d p => d.retryOne s m.id p) d) d
    (d.showRes s).settleMc

/-- RESIDUE_EXPIRY (R218): MC_RESIDUE_WAIT of a column's oldest packet ends; its copies not yet made are dropped, after a retry that is
due by then. -/
def residueExpiry (s : Nat) (d : Dev) : Dev :=
  let wait := cyclesOfNs (d.fget F.XPF_MC_CFG_RESIDUE_WAIT_US s * 1000)
  let l := d.tm.mcs.filter (fun m => m.col == s && (!m.todo.isEmpty || !m.residue.isEmpty))
  match l with
  | [] => d
  | m0 :: r =>
    if wait = 0 then d
    else
      let m := r.foldl (fun a y => if y.acc < a.acc then y else a) m0
      let d := d.toCycle (m.acc + wait)
      let d := if (d.sl s).retryAt ≤ d.cycle then residueRetry s d else d
      match d.tm.mcs.find? (fun y => y.id == m.id && y.col == s) with
      | none => d
      | some m =>
        let d := forAll (m.todo ++ m.residue) (fun d p => d.mcDrop p) d
        ((d.updMc m.id s (fun (y : McPkt) => { y with taken := true, todo := [], residue := [] })).showRes s).settleMc

/-- Admission of a multicast packet, column by column, and its one write (R203, R204, R215); answers whether any column took
it. `ports` is the map after R178. -/
def Dev.mcAdmit (d : Dev) (k : Pkt) (cls group hashed : Nat) (ports : List Nat) : Bool × Dev :=
  let i := k.slice
  let l := k.data.length
  let n := cellsOf l
  let cols := ((List.range 16).filter (fun j => ports.any (fun p => p / 32 == j)))
  if cols.isEmpty then (false, d)
  else if 131072 < d.wrqBytes i + l then (false, d.cnt F.XPF_WRQ_FULL_COUNT i)
  else
    let fits (j : Nat) : Bool := decide (d.mcCells i j + n ≤ d.fget F.XPF_MC_CAP_CELLS j) && decide (d.xpUsed i j + n ≤ 3072)
    let ok := cols.filter fits
    let d := forAll (cols.filter (fun j => !fits j)) (fun d j => d.cnt F.XPF_XP_MC_REFUSED_COUNT (j * 16 + i)) d
    if ok.isEmpty then (false, d)
    else
      let w := d.rowWrite i l
      let d := w.2.2
      let id := d.tm.nextId
      let d := { d with
        tm.nextId := id + 1
        tm.mcs := d.tm.mcs ++ ok.map (fun j =>
          ({ id := id, row := i, col := j, src := k, cls := cls, group := group,
             todo := (ports.filter (fun p => p / 32 == j)).mergeSort (fun a b => decide (a ≤ b)),
             acc := d.cycle, wrStart := w.1, wrEnd := w.2.1, hashDom := hashed } : McPkt)) }
      (true, (forAll ok (fun d j => (d.cnt F.XPF_MC_PKTS_COUNT j).xpPeak i j) d).wrqPeak i)

end Sys2Proof.Machine
end

