-- ==== Sys2Proof/Machine/Views.lean ====
section
/-! DEFINITION. Register fields that show what the engines hold at the moment of a read. -/

namespace Sys2Proof.Machine

/-- A word with a field replaced. -/
def putF (v : Word) (f : Fld) (x : Nat) : Word := BitVec.ofNat 32 (setBits v.toNat f.lo f.w x)

/-- A number limited to a width: a saturating field. -/
def sat (w n : Nat) : Nat := min (2 ^ w - 1) n

/-- A word of a number. -/
def wordOf (n : Nat) : Word := BitVec.ofNat 32 n

/-- The delivery list of a team (R30, R269): while none is configured it reads as the members' slices. -/
def Dev.viewDeliv (d : Dev) (off i : Nat) (v : Word) : Word :=
  if d.fon F.TEM_DELIV_LEN_LEN i then v
  else if off = R.TEM_DELIV_LEN then wordOf (d.delivList i).length
  else
    let e := (d.delivList i).drop (if off = R.TEM_DELIV_LO then 0 else 8)
    wordOf ((List.range 8).map (fun k => e.getD k 0 * 16 ^ k)).sum

/-- Views of TEM: free window, spill rate, held bytes, an order domain (R260 to R262, R269). -/
def Dev.viewTem (d : Dev) (off i : Nat) (v : Word) : Word :=
  if off = R.TEM_WIN_FREE then wordOf (d.winFree / 1024)
  else if off = R.TEM_SPILL_RATE then wordOf d.spillGbps
  else if off = R.TEM_HELD_BYTES then wordOf (sat 32 (d.heldBytes i false + d.heldBytes i true))
  else if off = R.TEM_SPILLED_BYTES then wordOf (sat 32 (d.heldBytes i true / 1024))
  else if off = R.TEM_DELIV_LO ∨ off = R.TEM_DELIV_HI ∨ off = R.TEM_DELIV_LEN then d.viewDeliv off i v
  else if off = R.TEM_DOM_EXPECT then wordOf (d.dom i).expect
  else if off = R.TEM_DOM_NEXT then wordOf (d.dom i).next
  else if off = R.TEM_DOM_STATUS then
    wordOf (b2n (!(d.dom i).synced) + 2 * b2n (!(d.dom i).held.isEmpty) + 65536 * sat 16 (d.dom i).held.length)
  else v

/-- Views of CAR: the planned switch and the state of a change (R273, R276). -/
def Dev.viewCar (d : Dev) (off i : Nat) (v : Word) : Word :=
  let plan := match (d.car i).plan with | some n => d.mfNtu i n / ntuNs | none => 0
  if off = R.CAR_RC_STATUS then
    putF (putF v F.CAR_RC_STATUS_RAMP (b2n (d.rcRamp i))) F.CAR_RC_STATUS_NEW_VOID (b2n (d.newVoid i))
  else if off = R.CAR_RC_TSW_NS then wordOf (plan % 1000000000)
  else if off = R.CAR_RC_TSW_SEC_LO then wordOf (plan / 1000000000)
  else if off = R.CAR_RC_TSW_SEC_HI then wordOf (plan / 1000000000 / 2 ^ 32 % 65536)
  else if off = R.CAR_MF_NEXT_SEC_LO then wordOf ((d.mfNext i).getD 0 / ntuNs / 1000000000)
  else if off = R.CAR_MF_NEXT_SEC_HI then wordOf ((d.mfNext i).getD 0 / ntuNs / 1000000000 / 2 ^ 32 % 65536)
  else v

/-- Views of SLC, FLW and FWD: epochs, the export ring, table occupancy (R135, R169, R189 to R191). -/
def Dev.viewTables (d : Dev) (off i : Nat) (v : Word) : Word :=
  if off = R.CLS_EPOCH_INFLIGHT then wordOf (sat 24 (d.inflight i (d.fget F.CLS_EPOCH_DRAINING i)))
  else if off = R.CLS_ACTIVE_INFLIGHT then wordOf (sat 24 (d.inflight i (d.fget F.CLS_EPOCH_ACTIVE i)))
  else if off = R.FLW_EXP_FILL then wordOf (sat 20 (d.stream 6).length)
  else if off = R.FWD_LPM_PREFIXES then wordOf d.fwd.lpm.length
  else if off = R.FWD_LPM_TOP_FREE then wordOf (d.topAll - d.topUsed)
  else if off = R.FWD_MPLS_LABELS then wordOf d.fwd.labels.length
  else if off = R.FWD_L2_ENTRIES then wordOf (d.l2Count i)
  else v

/-- Views of XPF (R201, R204, R215, R217): a crosspoint is column × 16 + row. -/
def Dev.viewXpf (d : Dev) (off i : Nat) (v : Word) : Word :=
  if off = R.XPF_XP_USED then wordOf (d.xpUsed (i % 16) (i / 16) + 65536 * d.mcCells (i % 16) (i / 16))
  else if off = R.XPF_COL_USED then wordOf ((List.range 16).map (fun r => d.xpUsed r i)).sum
  else if off = R.XPF_WRQ_BYTES then wordOf (d.wrqBytes i)
  else if off = R.XPF_RES_USED then wordOf (d.residues i).length
  else v

/-- Views of TMG (R233 to R236, R241, R242). (DEDUCED, log 61.) -/
def Dev.viewTmg (d : Dev) (off i : Nat) (v : Word) : Word :=
  let p := d.portOf i
  let c := d.classOf p i
  let terms : Nat × Nat :=
    if d.closes p 0 c then d.gateTerms p 0 c (d.tM p (d.rAdm p i)) (d.lag p (d.gAdm p i)) else (0, 0)
  if off = R.TMG_SAMPLE_FILL then wordOf (sat 21 (d.stream 7).length)
  else if off = R.TMG_STORE_FREE then wordOf (d.storeFree / 2 ^ 20)
  else if off = R.TMG_GATE_STATUS then
    putF v F.TMG_GATE_STATUS_GATED ((List.range 8).map (fun c => if d.gated i c then 2 ^ c else 0)).sum
  else if off = R.TMG_Q_FLOOR then wordOf (sat 27 (d.floorNs p i))
  else if off = R.TMG_Q_RATE then wordOf (d.gAdm p i / 65536)
  else if off = R.TMG_Q_BACKLOG then wordOf (sat 32 (d.backlog p i))
  else if off = R.TMG_Q_GATE_U then wordOf (sat 30 (terms.1 / 65536))
  else if off = R.TMG_Q_GATE_Z then wordOf (sat 30 (upDiv terms.2 65536))
  else v

/-- Views of NTU: the time, the trigger outputs' levels, the FIFOs of the captures, the corrections of a port (R288, R296, R300, R301). -/
def Dev.viewNtu (d : Dev) (off i : Nat) (v : Word) : Word :=
  if off = R.NTU_NOW_SEC_LO then wordOf d.ntuSec
  else if off = R.NTU_NOW_SEC_HI then wordOf (d.ntuSec / 2 ^ 32 % 65536)
  else if off = R.NTU_NOW_FRAC then wordOf d.ntuFrac
  else if off = R.NTU_TRIG_STATUS then putF v F.NTU_TRIG_STATUS_LEVEL (b2n (d.trigOn i))
  else if off = R.NTU_CAP_FILL then wordOf (at0 d.ntu.caps i).fifo.length
  else if off = R.NTU_PORT_CORR_TX then wordOf (d.corrTx i)
  else if off = R.NTU_PORT_CORR_RX then wordOf (d.corrRx i)
  else v

/-- Views of BPM and STB (R371, R375, R382, R387). -/
def Dev.viewStb (d : Dev) (off i : Nat) (v : Word) : Word :=
  let n (f : Task → Bool) : Word := wordOf (d.taskCount f)
  if off = R.BPM_POOL_SRAM then wordOf (d.poolSram i)
  else if off = R.BPM_POOL_FREE then wordOf (d.poolFree i)
  else if off = R.STB_FREE_CNT then wordOf (4096 - d.taskCount (fun t => t.st != .free))
  else if off = R.STB_READY_CNT then n (fun t => t.st == .ready)
  else if off = R.STB_DELAYED_CNT then n (fun t => t.st == .delayed)
  else if off = R.STB_HANDED_CNT then n (fun t => t.st == .handed)
  else if off = R.STB_GROUP_STATUS then putF v F.STB_GROUP_STATUS_WAITING (at0 d.stb.waiters i).length
  else if off = R.STB_CL_WAITING then wordOf ((clusterThreads i).filter (fun t => d.tstate t == 3)).length
  else v

/-- Views of DRV for requester `q` (R339, R356, R361, R365). -/
def Dev.viewDrv (d : Dev) (q off i : Nat) (v : Word) : Word :=
  if off = R.DRV_CHAN_STATUS then wordOf (d.chanVisible i + 65536 * b2n (!d.chanRoom i))
  else if off = R.DRV_CL_STATUS then
    putF (putF v F.DRV_CL_STATUS_STALLED (b2n (d.allStalled i))) F.DRV_CL_STATUS_RUNNING
      ((clusterThreads i).filter (fun t => d.tstate t != 0 && !d.isHalted t)).length
  else if off = R.THREAD_STATUS then d.statusWord i
  else if off = R.DBG_GPR then d.gr i (d.fget F.DBG_GPR_IDX_REG q)
  else if off = R.DBG_STAGE then Sparse.get 0 (d.thr i).stage (d.fget F.DBG_STAGE_IDX_WORD q)
  else v

/-- Views of PMU: the halves of the 64-bit counters (R394), the sampler's records (R398). -/
def Dev.viewPmu (d : Dev) (off i : Nat) (v : Word) : Word :=
  let half (k : Nat) (hi : Bool) : Word := wordOf (if hi then d.pmuGet k / 2 ^ 32 else d.pmuGet k)
  if off = R.PMU_PL_LO then half (pmuPl 0 i) false
  else if off = R.PMU_PL_HI then half (pmuPl 0 i) true
  else if off = R.PMU_CCNT_LO then half (pmuCore 0 i) false
  else if off = R.PMU_CCNT_HI then half (pmuCore 0 i) true
  else if R.PMU_THR_SLOTS_LO ≤ off ∧ off ≤ R.PMU_THR_INACTIVE_HI then
    half (pmuThr i ((off - R.PMU_THR_SLOTS_LO) / 8)) ((off - R.PMU_THR_SLOTS_LO) / 4 % 2 == 1)
  else if off = R.PMU_SMP_FILL then wordOf (at0 d.pmu.smp i).fill
  else v

/-- Views of ERR: a unit's queue (R329, R330). -/
def Dev.viewErr (d : Dev) (off i : Nat) (v : Word) : Word :=
  let u := d.eunit i
  let has (k : Nat) : Nat := b2n (!(d.eunit k).queue.isEmpty)
  if off = R.ERR_Q_STATUS then
    putF (putF v F.ERR_Q_STATUS_FILL u.queue.length) F.ERR_Q_STATUS_PENDING (min 64 u.pend.length)
  else if R.ERR_Q_HEAD ≤ off ∧ off < R.ERR_Q_HEAD + 32 then
    wordOf (leNat (((u.queue.headD []).drop (off - R.ERR_Q_HEAD)).take 4))
  else if off = R.ERR_Q_NONEMPTY_LO then wordOf ((List.range 32).map (fun k => has k * 2 ^ k)).sum
  else if off = R.ERR_Q_NONEMPTY_HI then wordOf (has 32)
  else v

/-- What a read of a register shows: its stored word, with the fields that show what an engine holds. (DEDUCED, log 82.) -/
def Dev.view (d : Dev) (q off i : Nat) : Word :=
  let v := d.rget off i
  match blockIndex off with
  | 2 => if off = R.HTR_STATUS then putF v F.HTR_STATUS_ROOT (b2n d.isRoot) else v
  | 5 => d.viewCar off i v
  | 6 => d.viewTem off i v
  | 7 => d.viewTables off i v
  | 8 => d.viewTables off i v
  | 9 => d.viewTables off i v
  | 10 => d.viewXpf off i v
  | 11 => d.viewTmg off i v
  | 12 => d.viewNtu off i v
  | 14 => d.viewStb off i v
  | 15 => d.viewDrv q off i v
  | 16 => d.viewStb off i v
  | 17 => d.viewPmu off i v
  | 19 => d.viewErr off i v
  | _ => v

end Sys2Proof.Machine
end

