-- ==== Sys2Proof/Machine/DroverStep.lean ====
section
/-! DEFINITION. The instruction words of Table 16-3 and 16-4, and DBG_CTRL.STEP, which issues the word at a halted thread's PC
(R347, R348, R364). -/

namespace Sys2Proof.Machine

/-- Shifts by the low 5 bits of a count. -/
def shl (a c : Word) : Word := a <<< (c.toNat % 32)
def shr (a c : Word) : Word := a >>> (c.toNat % 32)
def sar (a c : Word) : Word := a.sshiftRight (c.toNat % 32)

/-- The unsigned high 32 bits of a product. -/
def mulHigh (a b : Word) : Word := BitVec.ofNat 32 (a.toNat * b.toNat / 2 ^ 32)

/-- Immediates of a word: sign-extended, zero-extended. -/
def sx (imm : BitVec 16) : Word := imm.signExtend 32
def zx (imm : BitVec 16) : Word := imm.zeroExtend 32

/-- The register operations of op 0x00 by func (Table 16-4). -/
def aluOf (func : Nat) : Option (Word → Word → Word) :=
  match func with
  | 0x000 => some (fun a b => a + b)
  | 0x001 => some (fun a b => a - b)
  | 0x002 => some (fun a b => a &&& b)
  | 0x003 => some (fun a b => a ||| b)
  | 0x004 => some (fun a b => a ^^^ b)
  | 0x005 => some shl
  | 0x006 => some shr
  | 0x007 => some sar
  | 0x008 => some (fun a b => boolWord (a.slt b))
  | 0x009 => some (fun a b => boolWord (a.ult b))
  | 0x00A => some (fun a b => a * b)
  | 0x00B => some mulHigh
  | _ => none

/-- The shifts by a count in the rs2 field. -/
def shiftOf (func : Nat) : Option (Word → Word → Word) :=
  match func with
  | 0x010 => some shl
  | 0x011 => some shr
  | 0x012 => some sar
  | _ => none

/-- The branch conditions of op 0x20 to 0x25. -/
def branchOf (op : Nat) : Option (Word → Word → Bool) :=
  match op with
  | 0x20 => some (fun a b => a == b)
  | 0x21 => some (fun a b => a != b)
  | 0x22 => some (fun a b => a.slt b)
  | 0x23 => some (fun a b => !a.slt b)
  | 0x24 => some (fun a b => a.ult b)
  | 0x25 => some (fun a b => !a.ult b)
  | _ => none

/-- The immediate operations of op 0x01 to 0x06. -/
def immOf (op : Nat) (imm : BitVec 16) : Option (Word → Word) :=
  match op with
  | 0x01 => some (fun a => a + sx imm)
  | 0x02 => some (fun a => a &&& zx imm)
  | 0x03 => some (fun a => a ||| zx imm)
  | 0x04 => some (fun a => a ^^^ zx imm)
  | 0x05 => some (fun a => boolWord (a.slt (sx imm)))
  | 0x06 => some (fun a => boolWord (a.ult (sx imm)))
  | _ => none

/-- Size and sign of the loads of op 0x10 to 0x14, and size of the stores of op 0x18 to 0x1A. -/
def loadOf (op : Nat) : Option (Nat × Bool) :=
  match op with
  | 0x10 => some (1, true)
  | 0x11 => some (1, false)
  | 0x12 => some (2, true)
  | 0x13 => some (2, false)
  | 0x14 => some (4, false)
  | _ => none

def storeOf (op : Nat) : Option Nat :=
  match op with
  | 0x18 => some 1
  | 0x19 => some 2
  | 0x1A => some 4
  | _ => none

/-- The R rows from op 0x1C up, by op and func; fields that a row does not use are 0 (R348). -/
def rRow (t op rd rs1 rs2 func : Nat) : Option (Block → Block) :=
  let none3 : Bool := rd == 0 && rs1 == 0 && rs2 == 0
  match op, func with
  | 0x1C, 0 => some (opAtomic (fun a b => a + b) t rd rs1 rs2)
  | 0x1C, 1 => some (opAtomic (fun _ b => b) t rd rs1 rs2)
  | 0x1D, 0 => if none3 then some (opFence t) else none
  | 0x1E, 0 => if none3 then some (opIsync t) else none
  | 0x32, 0 => if rs2 = 0 then some (opChcommit t rd rs1) else none
  | 0x33, 0 => some (opChrecv t rd rs1 rs2)
  | 0x34, 0 => if rs2 = 0 then some (opChcount t rd rs1) else none
  | 0x38, 0 => if rs1 = 0 ∧ rs2 = 0 then some (opGettask t rd) else none
  | 0x39, 0 => if rd = 0 then some (opDonetask t rs1 rs2 false) else none
  | 0x39, 1 => if rd = 0 then some (opDonetask t rs1 rs2 true) else none
  | 0x3A, 0 => if rs2 = 0 then some (opBufget t rd rs1) else none
  | 0x3B, 0 => if rs2 = 0 then some (opBufput t rd rs1) else none
  | 0x3C, 0 => if rd = 0 then some (opWait t rs1 rs2) else none
  | 0x3F, 0 => if none3 then some (opRft t) else none
  | 0x3F, 1 => if none3 then some (opBrk t) else none
  | _, _ => none

/-- The I, S and J rows that are neither arithmetic nor loads and stores. -/
def iRow (t op a b : Nat) (imm : BitVec 16) (w : Nat) : Option (Block → Block) :=
  match op with
  | 0x07 => if b = 0 then some (fun x => x.on (fun d => d.result t a (zx imm <<< 16))) else none
  | 0x28 => some (opJal t a (BitVec.ofNat 21 w))
  | 0x29 => some (opJalr t a b imm)
  | 0x30 => if b = 0 ∧ imm.toNat / 64 = 0 ∧ imm.toNat % 4 = 0 then some (opChwr t a (imm.toNat / 4)) else none
  | 0x31 => if a = 0 then some (opChstg t b imm) else none
  | 0x3D => if b = 0 ∧ imm.toNat < 32 then some (opMfsr t a imm.toNat) else none
  | 0x3E => if a = 0 ∧ imm.toNat < 32 then some (opMtsr t b imm.toNat) else none
  | _ => none

/-- What an instruction word does; none where no row of Table 16-4 matches it (R348). -/
def wordOp (t : Nat) (word : Word) : Option (Block → Block) :=
  let w := word.toNat
  let op := bits w 26 6
  let a := bits w 21 5
  let b := bits w 16 5
  let c := bits w 11 5
  let func := bits w 0 11
  let imm := BitVec.ofNat 16 w
  if op = 0 then
    match aluOf func, shiftOf func with
    | some f, _ => some (opRR f t a b c)
    | none, some f => some (opRI (fun x => f x (BitVec.ofNat 32 c)) t a b)
    | none, none => if func = 0x00C ∧ c = 0 then some (opRI clz32 t a b) else none
  else
    match immOf op imm, loadOf op, storeOf op, branchOf op with
    | some f, _, _, _ => some (opRI f t a b)
    | none, some l, _, _ => some (opLoad l.1 l.2 t a b imm)
    | none, none, some n, _ => some (opStore n t a b imm)
    | none, none, none, some f => some (opBranch f t a b imm)
    | none, none, none, none => (iRow t op a b imm w).or (rRow t op a b c func)

/-- Runs the word at a thread's PC; a word of no row faults with ILLEGAL. -/
def runWord (t : Nat) (b : Block) : Block :=
  match b.fetchWord t with
  | none => b
  | some w =>
    match wordOp t w with
    | some f => f b
    | none => b.on (fun d => d.tfault t 0x01 0)

/-- A stepped instruction that waits halts at the wait (R364). -/
def Dev.stepWaits (d : Dev) (t : Nat) : Dev :=
  if (d.thr t).stepping && (d.tstate t == 2 || d.tstate t == 3) then d.halt t 2 else d

/-- Issues the word at the PC of a thread that steps. -/
def stepIssue (t : Nat) (b : Block) : Block := (issueAs t true (runWord t) b).on (fun d => d.stepWaits t)

/-- DEBUG_STEP (R364): a halted thread issues one instruction at DBG_PC and halts again; it is ignored for other threads. -/
def debugStep (t : Nat) (b : Block) : Block :=
  if !b.dev.isHalted t then b
  else
    stepIssue t (b.on (fun d =>
      let d := (d.settle t).dropSlot t
      let d := d.updThr t (fun (x : Thread) => { x with pc := d.fget F.DBG_PC_PC t, stepping := true })
      ((d.fset F.DBG_STATUS_HALTED t 0).fset F.DBG_STATUS_CAUSE t 0).enter t 1 .none))

/-- ICACHE_FILL_DONE of a thread that steps goes on with its instruction. -/
def fillDoneStep (t : Nat) (b : Block) : Block :=
  let b := icacheFillDone t b
  if (b.dev.thr t).stepping then stepIssue t b else b

end Sys2Proof.Machine
end

