-- ==== Sys2Proof/Machine/Halter.lean ====
section
/-! DEFINITION. The halter ring (R404 to R410): discovery, hops, link messages, remote accesses, memory messages; the
MSI-X table and PCIe configuration space. -/

namespace Sys2Proof.Machine

/-! Read results and the PCIe function (R72, R401, R421) -/

/-- A read's result for a requester (DESIGN CHOICE, log 4). -/
def Dev.answer (d : Dev) (q : Nat) (v : Word) : Dev := { d with host.rdata := Sparse.set 0 d.host.rdata q v }

/-- Fixed bits of a configuration dword: identity of R401; BAR types (Table 19-1); the MSI-X capability (PRESUMED, log 10). -/
def cfgFixed (reg : Nat) : Nat :=
  if reg = 0 then 0x51161F2A else if reg = 1 then 0x00100000 else if reg = 2 then 0x028000B0
  else if reg = 4 ∨ reg = 6 ∨ reg = 8 then 0x4 else if reg = 0xD then 0x70
  else if reg = 0x1c then 0x01FF0011 else if reg = 0x1d then 0x4 else if reg = 0x1e then 0x8004 else 0

/-- Writable bits of a configuration dword (PRESUMED, log 10). -/
def cfgMask (reg : Nat) : Nat :=
  if reg = 1 then 0x0546 else if reg = 5 ∨ reg = 7 ∨ reg = 9 then 0xFFFFFFFF
  else if reg = 6 then 0xFC000000 else if reg = 8 then 0xFFFF0000 else if reg = 0x1c then 0xC0000000 else 0

/-- A configuration dword as it reads. -/
def Dev.cfgRead (d : Dev) (reg : Nat) : Word := Sparse.get 0 d.host.cfg reg ||| BitVec.ofNat 32 (cfgFixed reg)

/-- Vectors that are pending and no longer masked are sent (R421). -/
def Dev.msixFlush (d : Dev) : Dev :=
  forAll d.host.msix (fun d e =>
    if e.2.pending && e.2.unmasked && !bit (Sparse.get 0 d.host.cfg cfgMsixReg).toNat 30 then
      ({ d with host.msix := upd0 d.host.msix e.1 (fun (x : Msix) => { x with pending := false }) }).msixFire e.1
    else d) d

/-- PCIE_CONFIG_REQUEST (R72): Configuration Request Retry Status, and no other effect, before the 20 ms point; a normal answer
after it. With PERST_N low the endpoint answers nothing. -/
def pcieConfig (write : Bool) (reg : Nat) (v : Word) (d : Dev) : Dev :=
  if d.life.perstLow then d
  else if !d.host.pcieReady then { d with host.retry := true }
  else
  let d : Dev := { d with host.retry := false }
  if write then
    { d with host.cfg := Sparse.set 0 d.host.cfg reg (v &&& BitVec.ofNat 32 (cfgMask reg)) }.msixFlush
  else d.answer 0 (d.cfgRead reg)

/-- Whether the root may use host memory: link and bus mastering (R422). -/
def Dev.busOk (d : Dev) : Bool := d.host.pcieReady && bit (Sparse.get 0 d.host.cfg 1).toNat 2

/-- MSIX_TABLE_ACCESS (R402, R421): 512 entries of 16 bytes at 0x0000 of BAR4, the pending array at 0x8000. -/
def msixAccess (write : Bool) (off : Nat) (v : Word) (d : Dev) : Dev :=
  if off < 0x2000 then
    let i := off / 16
    let w := off % 16 / 4
    let e : Msix := at0 d.host.msix i
    if write then
      let e := if w = 0 then { e with addr := setBits e.addr 0 32 v.toNat }
        else if w = 1 then { e with addr := setBits e.addr 32 32 v.toNat }
        else if w = 2 then { e with data := v.toNat }
        else { e with unmasked := !bit v.toNat 0 }
      { d with host.msix := Sparse.set default d.host.msix i e }.msixFlush
    else
      d.answer 0 (BitVec.ofNat 32 (if w = 0 then e.addr else if w = 1 then e.addr / 2 ^ 32 else if w = 2 then e.data
        else b2n (!e.unmasked)))
  else if write then d
  else
    let n := (off - 0x8000) / 4
    d.answer 0 (BitVec.ofNat 32 ((List.range 32).map (fun i =>
      b2n (at0 d.host.msix (32 * n + i)).pending * 2 ^ i)).sum)

/-! Hop map and routes (R407 to R409) -/

/-- Changes the hop map; a destination whose direction changes holds its new messages for 20 us (R408). -/
def Dev.setHops (d : Dev) (down : List (Nat × Nat)) (order : List Nat) : Dev :=
  let me := d.devid
  let h' := { d.halter with down := down, order := order }
  let changed := (List.range 64).filter (fun t => t != me &&
    (match d.halter.dir me t, h'.dir me t with | some a, some b => a != b | _, _ => false))
  let holds := changed.foldl (fun l t => (l.filter (fun p => p.1 != t)) ++ [(t, d.cycle + cyclesOfNs 20000)]) d.halter.holds
  { d with halter := { h' with holds := holds } }

/-- Sets one hop of the map up or down. -/
def Dev.setHop (d : Dev) (up dn : Nat) (isUp : Bool) : Dev :=
  let rest := d.halter.down.filter (fun p => p != (up, dn))
  d.setHops (if isUp then rest else rest ++ [(up, dn)]) d.halter.order

/-- ADDR of a LINK message: bytes 8 to 10 of the header (Table 19-2). -/
def linkAddr (up dn st : Nat) : Nat := up * 2 ^ 56 + dn * 2 ^ 48 + st * 2 ^ 40

/-- A hop of this device changes (R408, R409): the map, a LINK message out of the other port. -/
def Dev.hopChange (d : Dev) (h1 : Bool) (far : Nat) (isUp : Bool) : Dev :=
  let me := d.devid
  let ends := if h1 then (me, far) else (far, me)
  let d := d.fset (if h1 then F.HTR_STATUS_H1_UP else F.HTR_STATUS_H0_UP) 0 (b2n isUp)
  let d := d.setHop ends.1 ends.2 isUp
  let d := if h1 then { d with halter.dnId := some far } else { d with halter.upId := some far }
  d.sendVia (!h1) (d.mkMsg 11 0 0 0 0 (linkAddr ends.1 ends.2 (b2n isUp)) [])

/-- HOP_DOWN (R408): an ERROR event, a count, the map, a LINK message. -/
def hopDown (h1 : Bool) (far : Nat) (d : Dev) : Dev :=
  let f := if h1 then F.HTR_STATUS_H1_UP else F.HTR_STATUS_H0_UP
  if !d.fon f then d
  else
    let d := d.cnt (if h1 then F.HTR_H1_DOWN_CNT_COUNT else F.HTR_H0_DOWN_CNT_COUNT)
    (d.error f).hopChange h1 far false

/-- HOP_UP (R408, R409): a hop of a port that HTR_CFG enables. -/
def hopUp (h1 : Bool) (far : Nat) (d : Dev) : Dev :=
  if d.portHop h1 ∨ !d.fon (if h1 then F.HTR_CFG_H1_EN else F.HTR_CFG_H0_EN) then d else d.hopChange h1 far true

/-- A write of HTR_CFG that disables a port takes its hop down (R424). -/
def Dev.portsEnabled (d : Dev) : Dev :=
  let off (h1 : Bool) (far : Option Nat) (d : Dev) : Dev :=
    if d.fon (if h1 then F.HTR_CFG_H1_EN else F.HTR_CFG_H0_EN) then d else hopDown h1 (far.getD 0) d
  off true d.halter.dnId (off false d.halter.upId d)

/-- LINK (R409): the map is updated and the message goes on, unless this device is at the other end of the hop. -/
def linkMsg (m : HMsg) (d : Dev) : Dev :=
  let up := m.addr / 2 ^ 56 % 64
  let dn := m.addr / 2 ^ 48 % 64
  let d := d.setHop up dn (m.addr / 2 ^ 40 % 256 == 1)
  if d.devid = up ∨ d.devid = dn then d
  else d.sendVia (!m.fromH1) m

/-- ROUTE_HOLD_END (R408): after 20 us the held messages to a destination are sent. -/
def routeHoldEnd (dst : Nat) (d : Dev) : Dev :=
  match d.halter.holds.find? (fun p => p.1 == dst) with
  | none => d
  | some (_, c) =>
    let d := d.toCycle c
    let mine := d.halter.held.filter (fun o => o.msg.dst == dst)
    let d := { d with halter := { d.halter with
      holds := d.halter.holds.filter (fun p => p.1 != dst)
      held := d.halter.held.filter (fun o => o.msg.dst != dst) } }
    forAll mine (fun d o => d.send o.msg) d

/-- DEVIDs as bytes of a DISCOVER payload, and back. -/
def idBytes (l : List Nat) : List Byte := l.map (fun n => BitVec.ofNat 8 n)

/-- Sets HTR_PRESENT from a list of DEVIDs. -/
def Dev.setPresent (d : Dev) (l : List Nat) : Dev :=
  let mask := ((List.range 64).map (fun i => b2n (l.contains i) * 2 ^ i)).sum
  (d.fset F.HTR_PRESENT_LO_DEVID 0 mask).fset F.HTR_PRESENT_HI_DEVID 0 (mask / 2 ^ 32)

/-- Whether a DEVID's bit of HTR_PRESENT is set. -/
def Dev.present (d : Dev) (t : Nat) : Bool :=
  if t < 32 then bit (d.fget F.HTR_PRESENT_LO_DEVID) t else bit (d.fget F.HTR_PRESENT_HI_DEVID) (t - 32)

/-- DEVIDs whose bit of HTR_PRESENT is set. -/
def Dev.presentList (d : Dev) : List Nat := (List.range 64).filter (fun t => d.present t)

/-- The round before the one that ends is over too: what left both its DISCOVERs clears from HTR_PRESENT (R407). -/
def Dev.lateRound (d : Dev) : Dev :=
  match d.halter.late with
  | none => d
  | some l => { d with halter := { d.halter with late := none } }.setPresent l

/-- DISCOVER_TIMEOUT (R407): a DISCOVER that has not returned within 100 us: RING_CLOSED 0, a second one upstream, whose round lasts until
the round after it ends. -/
def discoverTimeout (d : Dev) : Dev :=
  match d.halter.roundAt with
  | none => d
  | some c =>
    if d.halter.returned ∨ d.halter.timedOut ∨ !d.isRoot then d
    else
      let d := (d.toCycle (c + cyclesOfNs 100000)).lateRound
      let d := { d with halter := { d.halter with late := some d.halter.seen, timedOut := true } }
      (d.fset F.HTR_STATUS_RING_CLOSED 0 0).sendVia false (d.mkMsg 1 0 0 1 0 0 (idBytes [0]))

/-- DISCOVER_ROUND (R407): from the end of BOOT the root sends DISCOVER out of H1 every 100 us; the round before ends: what left its
DISCOVER clears from HTR_PRESENT, or waits for the second one. -/
def discoverRound (d : Dev) : Dev :=
  if !d.isRoot ∨ d.fget F.GLB_STATE_DEV = 0 then d
  else
    let d := match d.halter.roundAt with
      | none => d
      | some c =>
        if d.halter.returned then (d.toCycle (c + cyclesOfNs 100000)).lateRound.setPresent d.halter.seen
        else (discoverTimeout d).toCycle (c + cyclesOfNs 100000)
    let d := { d with halter := { d.halter with roundAt := some d.cycle, seen := [0], returned := false, timedOut := false } }
    d.sendVia true (d.mkMsg 1 0 0 0 0 0 (idBytes [0]))

/-- Neighbouring pairs of a list. -/
def pairsOf (l : List Nat) : List (Nat × Nat) := l.zip (l.drop 1)

/-- The device after another in the known ring order. -/
def HalterSt.after (h : HalterSt) (me : Nat) : Option Nat :=
  (h.order.idxOf? me).bind (fun i => h.order[(i + 1) % h.order.length]?)

/-- What a DISCOVER that turned round at the end of a chain tells the root of the hops (R409): those it went over are up, the one at which it
turned is down. `ids` are in the order of the round's direction. (DEDUCED, log 9.) -/
def Dev.chainHops (d : Dev) (ids : List Nat) (downstream : Bool) : Dev :=
  let order := if downstream then (if d.halter.order = [] then ids else d.halter.order)
    else d.halter.order ++ (ids.reverse.filter (fun i => !d.halter.order.contains i))
  let h : HalterSt := { d.halter with order := order }
  let up := if downstream then pairsOf ids else (pairsOf ids).map (fun p => (p.2, p.1))
  let last := ids.getLastD 0
  let cut : List (Nat × Nat) := if downstream then (h.after last).toList.map (fun n => (last, n))
    else ((order.filter (fun i => h.after i == some last)).map (fun i => (i, last)))
  d.setHops ((d.halter.down.filter (fun p => !up.contains p && !cut.contains p)) ++ cut) order

/-- DISCOVER (R407): a device adds its DEVID and forwards; the root takes what the message gathered. TAG 1 marks the
second, upstream DISCOVER of a round. At the end of a chain the message turns round, and goes back unchanged (DEDUCED, log 9). -/
def discoverMsg (m : HMsg) (d : Dev) : Dev :=
  let ids := m.payload.map (fun b => b.toNat % 64)
  if d.isRoot then
    let more (l : List Nat) : List Nat := l ++ ids.filter (fun i => !l.contains i)
    let d : Dev := { d with halter := if m.tag = 0 then { d.halter with seen := more d.halter.seen }
      else { d.halter with late := d.halter.late.map more } }
    let d := d.setPresent (d.presentList ++ ids)
    if m.tag = 0 ∧ !m.fromH1 then
      let d : Dev := { d with halter := { d.halter with returned := true } }
      (d.setHops [] ids).fset F.HTR_STATUS_RING_CLOSED 0 1
    else if m.tag = 0 ∨ !m.fromH1 then d.chainHops ids (m.tag == 0)
    else d
  else
    let me := d.devid
    if ids.contains me then d.sendVia (!m.fromH1) m
    else
      let d := if m.tag = 0 then
          let after := (d.halter.order.dropWhile (fun i => i != me)).drop 1
          (d.setHops d.halter.down (ids ++ [me] ++ after)).fset F.HTR_STATUS_POSITION 0 ids.length
        else d
      let on := if d.portHop (!m.fromH1) then !m.fromH1 else m.fromH1
      d.sendVia on { m with payload := m.payload ++ idBytes [me] }

/-! Requests and completions (R404, R405, R410) -/

/-- Sends a request that waits for a completion. -/
def Dev.sendReq (d : Dev) (typ dst req addr : Nat) (remote : Option Nat) : Dev :=
  let tag := d.halter.nextTag
  let d := { d with halter := { d.halter with
    nextTag := (tag + 1) % 65536
    reqs := d.halter.reqs ++ [RingReq.mk tag dst d.cycle remote] } }
  d.send (d.mkMsg typ dst req tag 0 addr [])

/-- Ends a remote operation of a requester (R405). -/
def Dev.rmtDone (d : Dev) (q err : Nat) (v : Word) : Dev :=
  ((((d.fset F.HTR_RMT_DATA_DATA q v.toNat).fset F.HTR_RMT_STATUS_BUSY q 0).fset F.HTR_RMT_STATUS_DONE q 1).fset
    F.HTR_RMT_STATUS_ERR q err)

/-- A GO of HTR_RMT_CTRL (R405): REMOTE_READ, REMOTE_WRITE. The root knows absent devices by HTR_PRESENT (R404). -/
def remoteOp (q dst : Nat) (write : Bool) (d : Dev) : Dev :=
  if d.fon F.HTR_RMT_STATUS_BUSY q then d.cnt F.HTR_RMT_REFUSED_COUNT q
  else
    let d := (d.fset F.HTR_RMT_CTRL_WRITE q (b2n write)).fset F.HTR_RMT_CTRL_DEVID q dst
    let d := d.fset F.HTR_RMT_STATUS_ERR q 0
    if d.isRoot ∧ dst ≠ d.devid ∧ !d.present dst then
      (d.cnt F.HTR_NOPEER_CNT_COUNT).rmtDone q 1 (if write then d.rget R.HTR_RMT_DATA q else 0)
    else
      let addr := d.fget F.HTR_RMT_ADDR_ADDR q
      if write then
        (d.send (d.mkMsg 2 dst 1 0 0 addr (toLe 4 (d.rget R.HTR_RMT_DATA q).toNat))).rmtDone q 0 (d.rget R.HTR_RMT_DATA q)
      else (d.fset F.HTR_RMT_STATUS_BUSY q 1).sendReq 3 dst 1 addr (some q)

/-- REG_CPL (R404, R405): the completion goes to the remote operation or the host read that waits for it. -/
def regCpl (m : HMsg) (d : Dev) : Dev :=
  match d.halter.reqs.find? (fun r => r.tag == m.tag && r.target == m.src) with
  | none => d
  | some r =>
    let d := { d with halter.reqs := d.halter.reqs.erase r }
    let v := BitVec.ofNat 32 (leNat (m.payload.take 4))
    match r.remote with
    | some q => d.rmtDone q (if m.status = 0 then 0 else 1) v
    | none => d.answer 0 v

/-- FORWARD_TIMEOUT (R404): 80 us after its arrival a read without completion is answered with zero and counted. -/
def forwardTimeout (tag : Nat) (d : Dev) : Dev :=
  match d.halter.reqs.find? (fun r => r.tag == tag) with
  | none => d
  | some r =>
    let d := d.toCycle (r.since + cyclesOfNs 80000)
    let d := { d with halter.reqs := d.halter.reqs.erase r }.cnt F.HTR_TIMEOUT_CNT_COUNT
    match r.remote with
    | some q => d.rmtDone q 2 0
    | none => d.answer 0 0

/-- MEM_WR at the root (R410, R422): a PCIe write, unless the link or bus mastering is not up. -/
def memWr (m : HMsg) (b : Block) : Block :=
  if b.dev.isRoot && b.dev.busOk then b.store .host m.addr m.payload else b

/-- MEM_RD at the root (R410, R422): a PCIe read whose data and outcome the surroundings give, as many bytes as the message asks
for, answered by MEM_CPL. -/
def memRd (m : HMsg) (data : List Byte) (ok : Bool) (d : Dev) : Dev :=
  if !d.isRoot then d
  else if d.busOk && ok then d.send (d.mkMsg 7 m.src m.req m.tag 0 m.addr ((data ++ List.replicate m.want 0).take m.want))
  else d.send (d.mkMsg 7 m.src m.req m.tag 2 m.addr [])

/-- MEM_CPL (R410): the completion returns to the engine that asked, by its TAG; one that nobody waits for has no effect. -/
def memCpl (m : HMsg) (d : Dev) : Dev :=
  { d with halter.reads := d.halter.reads.map (fun r =>
      if r.tag = m.tag ∧ r.got.isNone then { r with got := some (m.status, m.payload) } else r) }

/-- INTR at the root (R421): the vector is sent as MSI-X. -/
def intrMsg (m : HMsg) (d : Dev) : Dev := if d.isRoot then d.msixFire (m.addr % 512) else d

/-- HALTER_BAD_FRAME (R410). -/
def halterBadFrame (d : Dev) : Dev := d.cnt F.HTR_RX_BAD_COUNT

end Sys2Proof.Machine
end

