-- ==== Sys2Proof/Machine/HostDma.lean ====
section
/-! DEFINITION. DMA queues (R412 to R415), the injection descriptors of R360, host rings' register writes. -/

namespace Sys2Proof.Machine

/-- Slices that the harness image enables (R50, HLD_SLICE_EN). -/
def Dev.sliceOn (d : Dev) (s : Nat) : Bool := bit (d.fget F.HLD_SLICE_EN_EN) s

/-! Descriptors (Table 19-3) -/

/-- Descriptors in a queue's ring. -/
def Dev.dmaSize (d : Dev) (q : Nat) : Nat := 2 ^ d.fget F.HDM_Q_CFG_SIZE q

/-- The 32 bytes of the descriptor a queue takes next, if any was handed to it (R413, R414). -/
def Block.dmaDesc (b : Block) (q kind : Nat) : Option (List Byte) :=
  let d := b.dev
  let h := d.fget F.HDM_Q_HEAD_INDEX q
  if d.fon F.HDM_Q_CFG_ENABLE q && d.fget F.HDM_Q_CFG_KIND q == kind && h != d.fget F.HDM_Q_TAIL_INDEX q then
    some (b.mem.read .bar2 (q * 0x2000 + h * 32) 32)
  else none

/-- A number in a descriptor's bytes. -/
def dnum (l : List Byte) (i n : Nat) : Nat := leNat ((l.drop i).take n)

/-- Writes a completion (R414, Table 19-4), advances HEAD, flips PHASE at the wrap, interrupts where INT asks. -/
def Block.dmaComplete (b : Block) (q len status : Nat) (crcErr int : Bool) : Block :=
  let d := b.dev
  let h := d.fget F.HDM_Q_HEAD_INDEX q
  let x : DmaQ := at0 d.host.dma q
  let cpl := toLe 2 h ++ toLe 2 len ++ toLe 1 (status + 8 * b2n crcErr + 128 * b2n (!x.flipped)) ++ toLe 11 0
  let base := d.fget F.HDM_Q_CPL_LO_ADDR q + d.fget F.HDM_Q_CPL_HI_ADDR q * 2 ^ 32
  let h' := (h + 1) % d.dmaSize q
  (b.hostWrite (base + h * 16) cpl).on (fun d =>
    let d := (d.fset F.HDM_Q_HEAD_INDEX q h').cnt F.HDM_Q_DONE_CNT_COUNT q
    let d := (d.fset F.HDM_Q_STATUS_WAITING q 0).fset F.HDM_Q_STATUS_BUSY q 0
    let d := if h' = 0 then
        { d with host.dma := upd0 d.host.dma q (fun (x : DmaQ) => { x with flipped := !x.flipped }) } else d
    let d := if status = 1 then d.cnt F.HDM_Q_NOBUF_COUNT q
      else if status = 2 then d.cnt F.HDM_HOST_ERR_COUNT
      else if status = 3 then d.cnt F.HDM_Q_DROP_COUNT q else d
    if int then d.vector 7 else d)

/-- Owner ID of a DMA queue (Table 17-7). -/
def dmaOwner (q : Nat) : Nat := 256 + q

/-- Data as the surroundings gave it, at the length the descriptor names. -/
def fitData (data : List Byte) (n : Nat) : List Byte := (data ++ List.replicate n 0).take n

/-- The data of a queue's descriptor in host memory and whether they could be read: by PCIe at the root, as the surroundings give them, else by
MEM_RD messages to the root, which are sent first (R410). None while completions are missing. (DESIGN CHOICE, log 168.) -/
def Dev.dmaData (d : Dev) (q addr n : Nat) (data : List Byte) (ok : Bool) : Option (List Byte × Bool) × Dev :=
  if d.isRoot then (some (fitData data n, ok), d)
  else
    match d.memGot q addr n with
    | some x => (some (fitData (x.getD []) n, x.isSome), { d with halter.reads := d.halter.reads.filter (fun r => r.who != q) })
    | none =>
      let asked := (d.halter.reads.filter (fun r => r.who == q)).map (fun r => (r.addr, r.n)) == readPieces addr n
      (none, if asked then d else (d.memAsk q 2 addr n).fset F.HDM_Q_STATUS_BUSY q 1)

/-- The bytes of a device buffer that a descriptor asks for: at least those it moves (DESIGN CHOICE, log 168). -/
def roomFor (room len : Nat) : Nat := min (max room len) 8192

/-- Slice of a port (R18). -/
def sliceOf (port : Nat) : Nat := port / 32

/-- DMA_INJECT (R412, R415): the queue's next descriptor copies a frame from host memory into one buffer or two and
injects it, then writes its completion. A full slice queue makes the queue wait, as does the account of buffers in DRAM (R380). A buffer that
cannot be written ends as HOST_ERR (DESIGN CHOICE, log 16). -/
def dmaInject (q : Nat) (data : List Byte) (ok : Bool) (b : Block) : Block :=
  match b.dmaDesc q 1 with
  | none => b
  | some x =>
    let len := dnum x 8 2 % 16384
    let room := dnum x 10 2 % 16384
    let port := dnum x 12 2 % 512
    let kind := dnum x 14 1 % 4
    let int := bit (dnum x 14 1) 4
    if kind = 0 ∨ kind = 3 ∨ len < 60 ∨ 12284 < len ∨ !b.dev.sliceOn (sliceOf port) then b.dmaComplete q 0 3 false int
    else if 16 ≤ (at0 b.dev.hostInj (sliceOf port)).length then b.on (fun d => d.fset F.HDM_Q_STATUS_WAITING q 1)
    else
    match b.dev.dmaData q (dnum x 0 8) len data ok with
    | (none, d) => { b with dev := d }
    | (some (data, ok), d) =>
      let g := (d.bufServe (poolFor (roomFor room len))).bufGet (roomFor room len) (dmaOwner q)
      if g.1 = 0 then { b with dev := g.2 }.dmaComplete q 0 1 false int
      else if b.dev.bufWaits g.1 then b
      else
        let g2 := if len ≤ 8192 then (0, g.2) else
          (g.2.bufServe (poolFor (max (room - 8192) (len - 8192)))).bufGet (max (room - 8192) (len - 8192)) (dmaOwner q)
        if 8192 < len ∧ g2.1 = 0 then
          { b with dev := (g2.2.bufFree g.1 (dmaOwner q)).2 }.dmaComplete q 0 1 false int
        else
          let frees := if len ≤ 8192 then [g.1] else [g.1, g2.1]
          let b := { b with dev := g2.2 }
          if !ok then
            (b.on (fun d => forAll frees (fun d a => (d.bufFree a (dmaOwner q)).2) d)).dmaComplete q 0 2 false int
          else
            let c := engineDma q room data b.dev
            let w := { b with dev := c.2 }.bufWrite g.1 (c.1.data.take 8192) (dmaOwner q)
            let w2 := if len ≤ 8192 then (true, w.2) else w.2.bufWrite g2.1 (c.1.data.drop 8192) (dmaOwner q)
            let b := w2.2
            if !(w.1 && w2.1) then
              (b.on (fun d => forAll frees (fun d a => (d.bufFree a (dmaOwner q)).2) d)).dmaComplete q 0 2 false int
            else
            let j : Inject := { (default : Inject) with
              data := c.1.data
              port := port
              kind := kind
              tsReq := bit (dnum x 14 1) 2
              oneStep := bit (dnum x 14 1) 3
              tag := dnum x 16 2
              cls := dnum x 15 1 % 8
              group := dnum x 15 1 / 8 % 16
              frees := frees }
            (b.on (fun d => { d with hostInj := upd0 d.hostInj (sliceOf port) (fun l => l ++ [j]) })).dmaComplete q
              c.1.len 0 c.1.crcErr int

/-- DMA_TO_CHAN (R412): data into a buffer, a message to channel CHAN; a full channel makes the queue wait. -/
def dmaToChan (q : Nat) (data : List Byte) (ok : Bool) (b : Block) : Block :=
  match b.dmaDesc q 2 with
  | none => b
  | some x =>
    let len := min (dnum x 8 2 % 16384) 8192
    let room := dnum x 10 2 % 16384
    let int := bit (dnum x 14 1) 4
    let c := b.dev.fget F.HDM_Q_CFG_CHAN q
    if !b.dev.chanOn c ∨ !b.dev.chanRoom c then b.on (fun d => d.fset F.HDM_Q_STATUS_WAITING q 1)
    else
    match b.dev.dmaData q (dnum x 0 8) len data ok with
    | (none, d) => { b with dev := d }
    | (some (data, ok), d) =>
      let g := (d.bufServe (poolFor (roomFor room len))).bufGet (roomFor room len) (dmaOwner q)
      if g.1 = 0 then { b with dev := g.2 }.dmaComplete q 0 1 false int
      else if b.dev.bufWaits g.1 then b
      else if !ok then { b with dev := (g.2.bufFree g.1 (dmaOwner q)).2 }.dmaComplete q 0 2 false int
      else
        let k := engineDma q room data g.2
        let w := { b with dev := k.2 }.bufWrite g.1 k.1.data (dmaOwner q)
        if !w.1 then (w.2.on (fun d => (d.bufFree g.1 (dmaOwner q)).2)).dmaComplete q 0 2 false int
        else
        let b := w.2
        let msg := toLe 4 g.1 ++ toLe 2 k.1.len ++ toLe 2 0 ++ (x.drop 18).take 14 ++ List.replicate 42 0
        (b.on (fun d => d.chanAppend c 8 msg)).dmaComplete q k.1.len 0 k.1.crcErr int

/-- DMA_FROM_CHAN (R412, R415): the head message's buffer goes to host memory and is freed under the queue's owner ID. A
buffer or a message whose data cannot be read ends as HOST_ERR (DESIGN CHOICE, log 16), its failures counted and queued (R321, R323). It waits
for the account of buffers in DRAM (R380). -/
def dmaFromChan (q : Nat) (ok : Bool) (b : Block) : Block :=
  let c := b.dev.fget F.HDM_Q_CFG_CHAN q
  match b.dmaDesc q 3 with
  | none => b
  | some x =>
    if b.dev.chanVisible c = 0 ∨ 240 ≤ c then b
    else
      let at' := b.dev.ringPlace c (b.dev.chan c).head
      let msg := b.mem.read .cluster at' 64
      let s := b.dev.sramReads 0x1D (b.dev.fget F.DRV_CHAN_CFG_HOME c) (at' / 8) 8 []
      let buf := dnum msg 0 4
      if !s.1 && b.dev.bufWaits buf then b
      else
      let b := { b with dev := s.2 }.on (fun d => d.updChan c (fun y => { y with head := (y.head + 1) % 4096, vis := y.vis - 1 }))
      let len := dnum msg 4 2 % 16384
      let room := dnum x 10 2 % 16384
      let int := bit (dnum x 14 1) 4
      let free (b : Block) : Block := b.on (fun d => (d.bufFree buf (dmaOwner q)).2)
      if s.1 then b.dmaComplete q 0 2 false int
      else if room < len then (free b).dmaComplete q 0 4 false int
      else
        let r := b.bufRead buf len (dmaOwner q)
        let b := r.2
        match (if ok && (b.dev.mapAddr buf).isSome then r.1 else none) with
        | none => (free b).dmaComplete q 0 2 false int
        | some bytes =>
          let k := engineDma q room bytes b.dev
          let b := { b with dev := k.2 }.hostWrite (dnum x 0 8) k.1.data
          (free b).dmaComplete q k.1.len 0 k.1.crcErr int

/-! Entries of the staging rings in SYS (R169, R242) -/

/-- Where the next entry of a staging ring lies: 64 MiB or 32 MiB of entries in SYS, below the scrub list (DESIGN CHOICE, log 165). -/
def Dev.ringPlaceOf (d : Dev) (r n : Nat) : Nat :=
  (Config.ringBurst r * 64 + Sparse.get 0 d.host.moved r * n % (if r = 6 then 0x4000000 else 0x2000000)) % scrubBase

/-- RING_ENTRY_WRITE (R416): the oldest entry of a stream goes to its host ring. One of the export or sample ring that fails its check twice is
lost and counted in the ring's drop counter (Table 15-2, class 0x09). -/
def ringEntryMove (r : Nat) (b : Block) : Block :=
  if r < 6 then ringEntryWrite r b
  else
    match b.dev.stream r with
    | [] => b
    | e :: l =>
      if b.dev.ringFull r then b
      else
        let x := b.dramRead (b.dev.ringPlaceOf r e.length) e.length 0xFFFF
        let b := x.2.on (fun d => { d with host.moved := Sparse.set 0 d.host.moved r (Sparse.get 0 d.host.moved r + 1) })
        match x.1 with
        | some _ => ringEntryWrite r b
        | none => b.on (fun d =>
            { d with host.streams := upd0 d.host.streams r (fun _ => l) }.cnt
              (if r = 6 then F.FLW_EXP_DROP_COUNT else F.TMG_SAMPLE_DROP_COUNT))

/-! Injection descriptors (R359, R360, Table 16-7) -/

/-- INJECTION_DESCRIPTOR (R360): a slice takes the oldest visible descriptor of its injection queue and hands the packet
to its ingress pipeline, or drops and counts the descriptor. A dropped one frees its buffers unless NO_FREE is set
(DESIGN CHOICE, log 17), and its packet stops holding its epoch. A REINJECT that a task puts out passes its task's hold on; one on a
channel leaves it with the task (DEDUCED, log 30). The read of a buffer in DRAM waits for its account (R380); a packet whose bytes cannot be
read is dropped as such a descriptor is (DESIGN CHOICE, log 163). -/
def injectionDescriptor (s : Nat) (b : Block) : Block :=
  let q := at0 b.dev.drv.injQ s
  match q with
  | [] => b
  | e :: rest =>
    if !e.visible then b
    else
      let x := e.desc
      let take (b : Block) : Block := b.on (fun d => { d with drv.injQ := upd0 d.drv.injQ s (fun _ => rest) })
      let buf := dnum x 0 4
      let len := dnum x 4 2 % 16384
      let port := dnum x 6 2 % 512
      let kind := dnum x 8 1 % 4
      let buf2 := dnum x 16 4
      let noFree := bit (dnum x 8 1) 4
      let frees := if noFree then [] else if 8192 < len then [buf, buf2] else [buf]
      let drop (b : Block) : Block :=
        (b.on (fun d =>
          let d := d.cnt (F.DRV_INJ_DROP_COUNT.nth s)
          let d := forAll frees (fun d a => d.bufRelease a) d
          d.epochDrop e.epoch)).retryUnordered
      if kind = 3 ∨ len < 60 ∨ 12284 < len ∨ (8192 < len ∧ buf2 = 0) ∨ (!e.task ∧ sliceOf port ≠ s) then
        drop (take b)
      else if b.dev.bufWaits buf then b
      else
        let r := (take b).bufRead buf (min len 8192) s
        let r2 := if 8192 < len then r.2.bufRead buf2 (len - 8192) s else (some [], r.2)
        let b := r2.2
        match r.1, r2.1 with
        | some x1, some x2 =>
        let j : Inject := { (default : Inject) with
          data := x1 ++ x2
          port := port
          kind := kind
          tsReq := bit (dnum x 8 1) 2
          oneStep := bit (dnum x 8 1) 3
          tag := dnum x 10 2
          cls := dnum x 9 1 % 8
          group := dnum x 9 1 / 8 % 16
          epoch := dnum x 12 2
          first := dnum x 14 2 % 16
          holds := if kind = 0 then e.epoch else none
          second := e.second || b.dev.isSecond buf
          frees := frees }
        (b.on (fun d =>
          let d := if kind = 0 then d else d.epochDrop e.epoch
          { d with drvInj := upd0 d.drvInj s (fun l => l ++ [j]) })).retryUnordered
        | _, _ => drop b

/-- SOFTWARE_EVENT (R420): a requester's event with its own ERR_SW_DATA; a software ALARM also sets ERR_ALARM.SW. -/
def softwareEvent (r : Req) (cls code : Nat) (d : Dev) : Dev :=
  let q := reqIdx r
  let data := ((List.range 8).map (fun n => toLe 4 (d.rget (R.ERR_SW_DATA + 4 * n) q).toNat)).flatten
  let d := if cls = 0 then d.alarmBit 12 else d
  d.raiseRaw cls 20 code 0 (ownerOf r) data

end Sys2Proof.Machine
end

