-- ==== Sys2Proof/Machine/Ecdsa.lean ====
section
/-! DEFINITION. The verification of ECDSA signatures over P-384 (R46). The spec names FIPS 186-5 and SEC 1: the curve's
constants and the steps are taken from those standards (PRESUMED, log 34). -/

namespace Sys2Proof.Machine

/-! ECDSA over P-384 -/

def p384P : Nat := 0xfffffffffffffffffffffffffffffffffffffffffffffffffffffffffffffffeffffffff0000000000000000ffffffff
def p384N : Nat := 0xffffffffffffffffffffffffffffffffffffffffffffffffc7634d81f4372ddf581a0db248b0a77aecec196accc52973
def p384B : Nat := 0xb3312fa7e23ee7e4988e056be3f82d19181d9c6efe8141120314088f5013875ac656398d8a2ed19d2a85c8edd3ec2aef
def p384Gx : Nat := 0xaa87ca22be8b05378eb1c71ef320ad746e1d3b628ba79b9859f741e082542a385502f25dbf55296c3a545e3872760ab7
def p384Gy : Nat := 0x3617de4a96262c6f5d9e98bf9292dc29f8f41dbd289a147ce9da3113b5f0b8c00a60b1ce1d7e819d7a431d7c90ea0e5f

/-- base ^ e modulo m, over so many bits of e from the lowest. -/
def powMod (m : Nat) : Nat → Nat → Nat → Nat → Nat
  | 0, _, _, acc => acc
  | k + 1, base, e, acc => powMod m k (base * base % m) (e / 2) (if e % 2 = 1 then acc * base % m else acc)

/-- The inverse modulo a prime of at most 384 bits. -/
def invMod (m a : Nat) : Nat := powMod m 384 (a % m) (m - 2) 1

/-- A point as (X, Y, Z): its coordinates are X/Z and Y/Z, the point at infinity has Z = 0. -/
abbrev EcPoint := Nat × Nat × Nat

/-- Twice a point (curve coefficient -3). -/
def ecDouble (p : EcPoint) : EcPoint :=
  let m := p384P
  let (x, y, z) := p
  let w := (3 * x * x + (m - 3) * (z * z % m)) % m
  let s := y * z % m
  let b := x * y % m * s % m
  let h := (w * w + 8 * m - 8 * b) % m
  let t := y * s % m
  (2 * h * s % m, (w * (4 * b + m - h) + 8 * (m * m - t * t)) % m, 8 * s * s % m * s % m)

/-- The sum of two points. -/
def ecAdd (p q : EcPoint) : EcPoint :=
  let m := p384P
  let (x1, y1, z1) := p
  let (x2, y2, z2) := q
  if z1 = 0 then q
  else if z2 = 0 then p
  else
    let u := (y2 * z1 + m * m - y1 * z2) % m
    let v := (x2 * z1 + m * m - x1 * z2) % m
    if v = 0 then (if u = 0 then ecDouble p else (0, 1, 0))
    else
      let zz := z1 * z2 % m
      let v2 := v * v % m
      let v3 := v2 * v % m
      let r := v2 * x1 % m * z2 % m
      let a := (u * u % m * zz + 3 * m - v3 - 2 * r) % m
      (v * a % m, (u * (r + m - a) + m * m - v3 * (y1 * z2 % m)) % m, v3 * zz % m)

/-- k times a point, over so many bits of k from the lowest. -/
def ecMul : Nat → Nat → EcPoint → EcPoint → EcPoint
  | 0, _, _, acc => acc
  | n + 1, k, p, acc => ecMul n (k / 2) (ecDouble p) (if k % 2 = 1 then ecAdd acc p else acc)

/-- Whether (x, y) is a point of the curve. -/
def onCurve (x y : Nat) : Bool :=
  decide (x < p384P) && decide (y < p384P) && y * y % p384P == (x * x * x + (p384P - 3) * x + p384B) % p384P

/-- Whether (r, s) is a signature of a hash under a public key. -/
def ecdsaOk (qx qy r s hash : Nat) : Bool :=
  if r = 0 ∨ p384N ≤ r ∨ s = 0 ∨ p384N ≤ s ∨ !onCurve qx qy then false
  else
    let w := invMod p384N s
    let u1 := hash * w % p384N
    let u2 := r * w % p384N
    let (x, _, z) := ecAdd (ecMul 384 u1 (p384Gx, p384Gy, 1) (0, 1, 0)) (ecMul 384 u2 (qx, qy, 1) (0, 1, 0))
    z != 0 && x * invMod p384P z % p384P % p384N == r

end Sys2Proof.Machine
end

