-- ==== Sys2Proof/Machine/Image.lean ====
section
/-! DEFINITION. The harness image (R42 to R52): header, section table, signature block, body records and the checks on
them, as functions of bytes. -/

namespace Sys2Proof.Machine

/-- A number of n bytes at a place of a byte string, least significant first (R43). -/
def leAt (l : List Byte) (i n : Nat) : Nat := leNat ((l.drop i).take n)

/-- Whether n bytes at a place are zero. -/
def zeroAt (l : List Byte) (i n : Nat) : Bool := ((l.drop i).take n).all (fun x => x == 0)

/-! Error codes (Table 02-8) -/

def errMagic : Nat := 0x01
def errFormat : Nat := 0x02
def errPart : Nat := 0x03
def errLength : Nat := 0x04
def errKey : Nat := 0x05
def errSig : Nat := 0x06
def errTable : Nat := 0x07
def errUnknown : Nat := 0x08
def errMissing : Nat := 0x09
def errDigest : Nat := 0x0A
def errBadRecord : Nat := 0x0B
def errFetch : Nat := 0x0C
def errNoKey : Nat := 0x0D
def errApply : Nat := 0x0E
def errMode : Nat := 0x0F

/-- SECTION where no section applies. -/
def noSection : Nat := 0xFFFF

/-! Header and signature block -/

/-- SECTION_COUNT of a header (Table 02-2). -/
def hdrCount (h : List Byte) : Nat := leAt h 14 2

/-- SIG_OFFSET that a section count gives (Table 02-1). -/
def sigOffset (n : Nat) : Nat := 128 + 64 * n

/-- TOTAL_LEN of a header. -/
def hdrTotal (h : List Byte) : Nat := leAt h 16 4

/-- The header checks of R52 in their order; 0 where all pass. (DEDUCED, log 45.) -/
def hdrCheck (h : List Byte) (rev devid : Nat) (live : Bool) (limit : Nat) : Nat :=
  let n := hdrCount h
  let flags := leAt h 11 1
  if leAt h 0 4 ≠ 0x49485A47 then errMagic
  else if leAt h 4 2 ≠ 1 ∨ leAt h 6 2 ≠ 128 ∨ 4 ≤ flags ∨ 64 ≤ leAt h 12 1 ∨ !zeroAt h 13 1 ∨ !zeroAt h 30 2 ∨ !zeroAt h 36 92 ∨
      leAt h 32 4 ≠ sigOffset n then errFormat
  else if leAt h 8 2 ≠ 0x5116 ∨ rev < leAt h 10 1 ∨ (bit flags 0 ∧ leAt h 12 1 ≠ devid) then errPart
  else if n < 1 ∨ 64 < n ∨ hdrTotal h < sigOffset n + 256 ∨ limit < hdrTotal h then errLength
  else if bit flags 1 ≠ live then errMode
  else 0

/-- The checks on the signature block before the signature itself (R52); `key` is the key hash of the fuses. -/
def sigFormCheck (g key : List Byte) : Nat :=
  if leAt g 0 2 ≠ 1 ∨ leAt g 2 2 ≠ 1 ∨ !zeroAt g 4 4 ∨ !zeroAt g 200 56 then errFormat
  else if zeroAt key 0 48 then errNoKey
  else if sha384 ((g.drop 8).take 96) ≠ key then errKey
  else 0

/-- Whether the signature block signs a manifest (R46). -/
def sigOk (man g : List Byte) : Bool :=
  ecdsaOk (beNat ((g.drop 8).take 48)) (beNat ((g.drop 56).take 48)) (beNat ((g.drop 104).take 48))
    (beNat ((g.drop 152).take 48)) (beNat (sha384 man))

/-! The section table (Table 02-3) -/

/-- A section table entry. -/
structure Entry where
  idx : Nat
  typ : Nat
  version : Nat
  flags : Nat
  target : Nat
  off : Nat
  len : Nat
  digest : List Byte
  deriving DecidableEq, Repr

/-- The entries of a manifest. -/
def entries (man : List Byte) : List Entry :=
  (List.range (hdrCount man)).map (fun i =>
    let e := man.drop (128 + 64 * i)
    { idx := i, typ := leAt e 0 2, version := leAt e 2 2, flags := leAt e 4 2, target := leAt e 6 2, off := leAt e 8 4,
      len := leAt e 12 4, digest := (e.drop 16).take 48 })

/-- Scopes of section types. -/
inductive Scope where
  | device | slice | cluster
  deriving DecidableEq, Repr

/-- A section type of Table 02-6: code, scope, mandatory, live, indices of the blocks it writes. -/
structure SecType where
  code : Nat
  scope : Scope
  mandatory : Bool
  live : Bool
  blocks : List Nat
  deriving DecidableEq, Repr

/-- Table 02-6; blocks in the order of Table 00-5. -/
def secTypes : List SecType := [
  ⟨0x0001, .device, true, false, [0]⟩, ⟨0x0002, .device, true, false, [18, 8]⟩, ⟨0x0003, .device, true, false, [7, 9, 14]⟩,
  ⟨0x0010, .slice, true, true, [4]⟩, ⟨0x0011, .device, false, false, [4, 5]⟩, ⟨0x0012, .device, false, false, [6]⟩,
  ⟨0x0020, .slice, true, false, [7]⟩, ⟨0x0021, .slice, true, false, [7]⟩, ⟨0x0030, .slice, false, false, [7]⟩,
  ⟨0x0031, .slice, false, true, [7]⟩, ⟨0x0040, .device, false, false, [8]⟩, ⟨0x0050, .device, true, false, [11, 10]⟩,
  ⟨0x0051, .slice, false, true, [11]⟩, ⟨0x0060, .cluster, true, true, [15]⟩, ⟨0x0061, .device, true, false, [16, 14]⟩]

/-- The section type of an entry. -/
def Entry.sec (e : Entry) : Option SecType := secTypes.find? (fun t => t.code == e.typ)

/-- Whether an entry applies: known type, version 1. -/
def Entry.applies (e : Entry) : Bool := e.sec.isSome && e.version == 1

/-- Whether a target names a slice or cluster. -/
def Entry.names (e : Entry) (n : Nat) : Bool := bit e.target n

/-- Form of TARGET (R52). -/
def Entry.targetOk (e : Entry) (live : Bool) : Bool :=
  match e.sec with
  | none => true
  | some t =>
    (match t.scope with
      | .device => e.target == 0
      | .slice => e.target != 0
      | .cluster => e.target != 0 && decide (e.target < 256)) &&
    (!live || e.typ != 0x10 || (((List.range 16).filter (fun s => e.names s)).length == 1))

/-- table_entry_ok of R52. -/
def Entry.ok (e : Entry) (all : List Entry) (total n : Nat) (live : Bool) : Bool :=
  e.off % 64 == 0 && decide (sigOffset n + 256 ≤ e.off) && e.len % 8 == 0 && decide (8 ≤ e.len) && decide (e.off + e.len ≤ total) &&
  all.all (fun f => f.idx == e.idx || decide (f.off + f.len ≤ e.off) || decide (e.off + e.len ≤ f.off)) &&
  decide (e.flags < 2) && e.targetOk live

/-- mandatory_missing of R52: entries count by TYPE and TARGET alone, whatever their version. -/
def mandatoryMissing (es : List Entry) : Bool :=
  secTypes.any (fun t => t.mandatory && !es.any (fun e => e.typ == t.code)) || !es.any (fun e => e.typ == 0x60 && e.names 0)

/-- The checks on the table after the signature (R52): code and section, 0 where all pass. (DESIGN CHOICE, log 53.) -/
def tableCheck (man : List Byte) (live : Bool) : Nat × Nat :=
  let es := entries man
  match es.find? (fun e => !e.ok es (hdrTotal man) (hdrCount man) live) with
  | some e => (errTable, e.idx)
  | none =>
    match es.find? (fun e => !e.applies && !bit e.flags 0) with
    | some e => (errUnknown, e.idx)
    | none =>
      if !live && mandatoryMissing es then (errMissing, noSection)
      else
        match es.find? (fun e => live && !(e.sec.map (fun t => t.live)).getD true) with
        | some e => (errUnknown, e.idx)
        | none => (0, noSection)

/-- slice_coverage_missing of R52 for a mask of enabled slices. -/
def coverageMissing (es : List Entry) (mask : Nat) : Bool :=
  (List.range 16).any (fun s => bit mask s &&
    [0x10, 0x20, 0x21].any (fun t => !es.any (fun e => e.typ == t && e.names s)))

/-! Bodies (R47, R49) -/

/-- A record of a body, END apart (Table 02-5). -/
inductive Rec where
  | reg (off val : Nat)
  | bulk (off : Nat) (data : List Byte)
  | dramw (off : Nat) (data : List Byte)
  deriving DecidableEq, Repr

/-- The record at the head of bytes, END apart, and its length; none where its form is wrong (R47). -/
def headRec (bs : List Byte) : Option (Rec × Nat) :=
  let w0 := leAt bs 0 4
  let w1 := leAt bs 4 4
  let off := w0 % 2 ^ 26
  let kind := w0 / 2 ^ 28
  if bs.length < 8 ∨ bits w0 26 2 ≠ 0 then none
  else if kind = 1 then (if off % 4 = 0 then some (.reg off w1, 8) else none)
  else if kind = 2 then (if w1 % 8 = 0 ∧ 8 + w1 ≤ bs.length then some (.bulk off ((bs.drop 8).take w1), 8 + w1) else none)
  else if kind = 3 then
    (if w1 % 8 = 0 ∧ 16 + w1 ≤ bs.length then some (.dramw (leAt bs 8 8) ((bs.drop 16).take w1), 16 + w1) else none)
  else none

/-- Whether bytes are the END record. -/
def isEnd (bs : List Byte) : Bool := bs.length == 8 && leAt bs 0 4 / 2 ^ 26 == 60

/-- The records of a body, read with so many records left to read; none where a record's form is wrong or END is missing or
misplaced. -/
def readBody : Nat → List Byte → Option (List Rec)
  | 0, _ => none
  | k + 1, bs =>
    match headRec bs with
    | some (r, n) => (readBody k (bs.drop n)).map (fun l => r :: l)
    | none => if isEnd bs then some [] else none

/-- The records of a body. -/
def bodyRecs (bs : List Byte) : Option (List Rec) := readBody (bs.length / 8 + 1) bs

/-- Whether a BULK of n bytes lies in the ranges of a section type (R49). -/
def bulkOk (e : Entry) (off n : Nat) : Bool :=
  if e.typ = 0x31 then decide (0x3000000 ≤ off) && decide (off + n ≤ 0x3100000)
  else if e.typ = 0x51 then
    let o := off - 0x3800000
    decide (0x3800000 ≤ off) && decide (o < 0x400000) && o / 4096 % 2 == 1 && decide (o % 4096 + n ≤ 4096) && e.names (o / 8192 / 32)
  else false

/-- Whether a record is allowed in a section (R49). -/
def Rec.ok (e : Entry) (r : Rec) : Bool :=
  match r with
  | .reg off _ => decide (off < 0x3000000) && ((e.sec.map (fun t => t.blocks.contains (blockIndex off))).getD false)
  | .bulk off data => bulkOk e off data.length
  | .dramw _ _ => e.typ == 0x60

/-- The records at the head of a body, each with the place of its end, up to the first that R47 or R49 does not allow. -/
def headRecs (e : Entry) : Nat → Nat → List Byte → List (Nat × Rec)
  | 0, _, _ => []
  | k + 1, i, bs =>
    match headRec bs with
    | some (r, n) => if r.ok e then (i + n, r) :: headRecs e k (i + n) (bs.drop n) else []
    | none => []

/-- records_ok of R52. -/
def recordsOk (e : Entry) (body : List Byte) : Bool :=
  match bodyRecs body with
  | none => false
  | some l => l.all (fun r => r.ok e)

/-- The slices that a SLICE_ENABLE body enables: the last register value it writes (R50, DEDUCED, log 36). -/
def enableMask (body : List Byte) : Nat :=
  ((bodyRecs body).getD []).foldl (fun m r => match r with
    | .reg _ v => v % 65536
    | _ => m) 0

/-- Entries that apply, in the order in which the loader applies them (R50). -/
def applyOrder (es : List Entry) : List Entry :=
  (es.filter (fun e => e.applies)).mergeSort (fun a b => decide (a.typ < b.typ) || (a.typ == b.typ && decide (a.idx ≤ b.idx)))

end Sys2Proof.Machine
end

