-- ==== Sys2Proof/Machine/Ingress.lean ====
section
/-! DEFINITION. The ingress side: reception (R86 to R88, R305), the input arbiter (R20), the path of a packet through parser,
classifier, flow engine and forwarding to admission (Table 01-5). -/

namespace Sys2Proof.Machine

/-! Reception -/

/-- Bytes of the receive buffer that a port holds: frames received, in lanes, and admitted but not yet written (R88, R203). -/
def Dev.rxHeld (d : Dev) (s : Nat) (sel : Nat → Bool) : Nat :=
  let x := d.sl s
  let sum (l : List Pkt) : Nat := ((l.filter (fun p => p.kind == 0 && sel p.port)).map (fun p => p.data.length + 4)).sum
  sum x.rx + (x.flow.map (fun l => sum l.pkts)).sum + (x.leaf.map (fun l => sum (l.pkts.map (fun w => w.pkt)))).sum +
  (((d.queued ++ d.reading).filter (fun q => q.row == s && q.kind == 0 && !q.written && q.mc.isNone && sel q.inPort)).map
    (fun q => q.data.length + 4)).sum +
  ((d.tm.mcs.filter (fun m => m.row == s && !m.written && m.src.kind == 0 && sel m.src.port &&
    !d.tm.mcs.any (fun n => n.id == m.id && decide (n.col < m.col)))).map (fun m => m.src.data.length + 4)).sum

/-- FRAME_RECEIVE (R22, R86 to R88, R96, R305): the last byte of a frame, its FCS included, arrives at a port. (DEDUCED, log 89.) (DEDUCED, log 93.) -/
def frameReceive (p : Nat) (bytes : List Byte) (d : Dev) : Dev :=
  let n := bytes.length
  let s := p / 32
  let body := bytes.take (n - 4)
  let good := crc32 body == leNat (bytes.drop (n - 4))
  let max := d.maxFrameAt p (d.firstByte p n)
  if !d.link p || d.slotsLost p then d
  else if !d.forwards s then d.cnt F.PRT_RX_RECOVERY_DROP_COUNT p
  else if n < 64 then
    ((d.cnt F.PRT_RX_RUNT_COUNT p).statFrame p 0 bytes n max false).stat p 0 (if good then 6 else 8) 1
  else if max < n then
    ((d.cnt F.PRT_RX_OVERSIZE_COUNT p).statFrame p 0 bytes n max false).stat p 0 (if good then 7 else 9) 1
  else if !good then ((d.cnt F.CKU_RX_FCS_ERR_COUNT p).statFrame p 0 bytes n max false).stat p 0 5 1
  else
    let d := d.statFrame p 0 bytes n max true
    if f16 body 12 = 0x8808 then d.cnt F.PRT_RX_MACCTRL_COUNT p
    else if d.fget F.PRT_RX_CAP_KIB p * 1024 < d.rxHeld s (fun q => q == p) + n ∨ 114688 < d.rxHeld s (fun _ => true) + n then
      ((d.cnt F.PRT_RX_OVERRUN_COUNT p).pl s 0x06).stat p 0 0 1
    else
      let t := d.rxStamp p n
      t.2.updSl s (fun (x : SliceSt) => { x with
        rx := x.rx ++ [{ data := body, port := p, slice := s, kind := 0, rxAt := t.1 }] })

/-- MEMBER_FRAME_RECEIVE (R258): the oldest frame of a member port goes through the checks of Table 11-4. -/
def memberFrameReceive (p : Nat) (d : Dev) : Dev :=
  match d.memberOf p, (d.sl (p / 32)).rx.find? (fun x => x.port == p) with
  | some k, some f =>
    (d.updSl (p / 32) (fun (x : SliceSt) => { x with rx := x.rx.erase f })).memberRx k f.rxAt f.data
  | _, _ => d

/-! The end of a packet's pass -/

/-- A packet that is not admitted leaves the ingress pipeline (R134, R360). -/
def Block.leave (b : Block) (p : Pkt) : Block := b.on (fun d => (d.epochDrop p.epoch).freeAll p.frees)

/-- Hands a packet to Stable (R115, R129, R186, R370); the packet keeps its epoch. -/
def Block.punt (b : Block) (p : Pkt) (kind code info : Nat) : Block :=
  let n := p.data.length
  let h := b.hash p 0
  b.on (fun d => (d.addPost { (default : Post) with
    kind := kind, owner := 512 + p.slice, want := min n 8192, data := p.data.take 8192, trunc := decide (8192 < n),
    port := p.port, slice := p.slice, epoch := (p.epoch.map (fun e => e.2)).getD 0, code := code, info := info,
    body := p.pr.bytes, hash := h, holds := p.epoch, second := decide (2 ≤ p.pass) }).freeAll p.frees)

/-- The packet as it goes to admission. -/
def Pkt.toQ (k : Pkt) (data : List Byte) (p q dom : Nat) : QPkt :=
  { data := data, row := k.slice, queue := q, port := p, dom := dom, inPort := k.port, rxAt := k.rxAt, tsReq := k.tsReq,
    oneStep := k.oneStep, tag := k.tag, kind := k.kind, frees := k.frees }

/-- Asks admission to a leaf queue of a port. -/
def Block.admitTo (b : Block) (k : Pkt) (data : List Byte) (p cls grp hashed : Nat) : Block :=
  let d := b.dev
  let r := d.admitTo (k.toQ data p (d.leafOf p cls grp) (d.domFor k hashed p))
  if r.1 then { b with dev := r.2.epochDrop k.epoch } else { b with dev := r.2 }.leave k

/-- The order domain that a packet's key hashes to (R251). -/
def Block.hashDom (b : Block) (k : Pkt) : Nat := b.hash k (b.dev.fget F.TEM_DOMAIN_SALT_SALT) * 4096 / 2 ^ 32

/-- Ports that a multicast copy of a packet is never made to (R178): its ingress port, for team traffic the team port too,
and its ingress LAG's members (DEDUCED, log 33). -/
def Block.mcExcluded (b : Block) (k : Pkt) : List Nat :=
  let lag := b.portCfg k.port 6 2
  [k.port] ++ (if k.kind = 1 then [b.dev.teamPort k.team] else []) ++
  (if bit lag 15 then b.groupMembers (lag % 4096) else [])

/-- Where a multicast group's entry lies. -/
def mcOff (g : Nat) : Nat := 0x3500000 + g * 64

/-- Admission along a route (R34, R215). -/
def Block.sendTo (b : Block) (k : Pkt) (data : List Byte) (r : Route) (cls grp : Nat) : Block :=
  match r with
  | .port p => b.admitTo k data p cls grp (b.hashDom k)
  | .team t => b.admitTo k data (b.dev.teamPort t) cls grp (b.hashDom k)
  | .mcast g =>
    let x := b.tabBad k.slice (mcOff g) 64
    if x.1 then (x.2.on (fun d => d.cnt F.FWD_DEST_DROP_COUNT k.slice)).leave k
    else
      let b := x.2
      let m := b.mem.num .tabs (mcOff g) 64
      let no := b.mcExcluded k
      let ps := (List.range 512).filter (fun p => bit m p && !no.contains p)
      let a := b.dev.mcAdmit { k with data := data } cls grp (b.hashDom k) ps
      if a.1 then { b with dev := a.2.epochDrop k.epoch } else { b with dev := a.2 }.leave k
  | _ => b.leave k

/-! Class (R194) -/

/-- The class and group of a packet; `lbl` is the class of its label record. -/
def Block.leafClass (b : Block) (k : Pkt) (lbl : Option Nat) : Nat × Nat :=
  let d := b.dev
  if k.l2only then (d.fget F.SLC_FAIL_ACT_L2_CLASS k.slice, 0)
  else
    let t := b.portCfg k.port 2
    let dflt := bits t 2 3
    let byTrust :=
      if t % 4 = 1 then match k.pr.offTags with
        | some o => bits (d.fget F.FWD_PCP_MAP_MAP) (4 * (fb k.data o / 32)) 3
        | none => dflt
      else if t % 4 = 2 then match k.pr.offL3 with
        | some o =>
          let dscp := if k.pr.oL3 = 2 then f16 k.data o / 64 % 64 else fb k.data (o + 1) / 4
          bits (d.fget (F.FWD_DSCP_MAP_MAP.nth (dscp / 8))) (4 * (dscp % 8)) 3
        | none => dflt
      else dflt
    (if k.clsEn then k.actCls else lbl.getD byTrust, k.actGroup)

/-! Mirroring at ingress (R195) -/

/-- The ingress copy of a packet, as received. -/
def Block.mirrorIngress (b : Block) (k : Pkt) : Block :=
  let c := b.portCfg k.port 3
  let n : Option Nat := if !k.l2only && k.mirEn then some k.mirror else if bit c 0 then some (bits c 1 4) else none
  match n with
  | none => b
  | some n =>
    let t := b.mirrorTakes k.slice n false
    if t.1 then t.2.mirrorAdmit k.slice n 6 (t.2.mirrorCut n k.data) else t.2

/-! Forwarding once the leaf reads are there -/

/-- What the lookups choose: a DEST with what becomes of the top label (0 nothing, 1 SWAP, 2 POP) and the record's class; a
punt; a drop already counted. -/
inductive Choice where
  | dest (t op new : Nat) (cls : Option Nat)
  | punt (code : Nat)
  | drop
  deriving DecidableEq, Repr

/-- Whether a TTL lets a packet go on. -/
def ttlOk (t : Nat) : Bool := decide (1 < t)

/-- The label record's part of R191. -/
def Block.chooseLabel (b : Block) (k : Pkt) (l : Nat) : Choice × Block :=
  let r := b.dramRead (b.dev.labelAddr l) 64 k.slice
  match r.1 with
  | none =>
    let b := r.2.on (fun d => d.cnt F.FWD_MPLS_MISS_COUNT k.slice)
    (if bit (b.portCfg k.port 4) 4 then .punt 4 else .drop, b)
  | some e =>
    let act := fb e 0 % 4
    let cls := if bit (fb e 0) 2 then some (bits (fb e 0) 3 3) else none
    let dest := leNat ((e.drop 8).take 4)
    if act = 2 then (.drop, r.2.on (fun d => d.cnt F.FWD_DEST_DROP_COUNT k.slice))
    else if act = 3 then (.punt 1, r.2)
    else if !ttlOk (fb k.data (k.pr.offMpls.getD 0 + 3)) then (.punt 2, r.2.on (fun d => d.cnt F.FWD_TTL_PUNT_COUNT k.slice))
    else (.dest dest (act + 1) (leNat ((e.drop 4).take 4) % 2 ^ 20) cls, r.2)

/-- The DEST of a packet. An address without a prefix has none: the packet is dropped; whether FWD_DEST_DROP counts it is not
stated, a free value (DESIGN CHOICE, log 32). -/
def Block.choose (b : Block) (w : LeafWait) : Choice × Block :=
  let op := if w.popped then 2 else 0
  match w.label, w.lpm with
  | some l, _ => b.chooseLabel w.pkt l
  | none, some (vrf, v6, addr) =>
    (match longest b.dev.fwd.lpm vrf v6 addr with
     | some x => (.dest x.dest op 0 none, b)
     | none =>
       let f := b.dev.fresh 1
       (.drop, { b with dev := if f.1 = 1 then f.2.cnt F.FWD_DEST_DROP_COUNT w.pkt.slice else f.2 }))
  | none, none => (.dest w.dest op 0 none, b)

/-- Address of a rewrite record (R167). -/
def Dev.natAddr (d : Dev) (n : Nat) : Nat := d.natBase + n * 32

/-- The flow's rewrite on a packet's bytes (R167, R168). -/
def Block.rewrite (b : Block) (k : Pkt) : List Byte × Block :=
  match k.nat with
  | none => (k.data, b)
  | some n =>
    let r := b.dramRead (b.dev.natAddr n) 32 k.slice
    let skip := (k.data, r.2.on (fun d => d.cnt F.FLW_NAT_SKIP_COUNT k.slice))
    match r.1 with
    | none => skip
    | some e =>
      match natApply k.pr k.data e with
      | some q => (q, r.2)
      | none => skip

/-- The frame that leaves by a next hop after label work (R187, R191). -/
def Block.rewriteAll (b : Block) (k : Pkt) (op new : Nat) (nh : Option Nat) : List Byte × Block :=
  let x := b.rewrite k
  let k := { k with data := x.1 }
  let k : Pkt := match nh with
    | some n => if bit (b.mem.num .tabs (nhOff n + 7) 1) 2 then { k with data := decTtl k } else k
    | none => k
  let y : List Byte × Block := if op = 1 then (swapLabel k new, x.2) else if op = 2 then x.2.popLabel k else (k.data, x.2)
  let k := { k with data := y.1 }
  match nh with
  | some n => y.2.nhRewrite n k (decide (b2n (op == 2) < k.pr.labels))
  | none => (k.data, y.2)

/-- Whether a next hop's DEC_TTL punts a packet (R187). -/
def Block.ttlStops (b : Block) (k : Pkt) (nh : Option Nat) : Bool :=
  match nh with
  | some n => bit (b.mem.num .tabs (nhOff n + 7) 1) 2 && (match outerTtl k with | some t => !ttlOk t | none => false)
  | none => false

/-- Steps 5 and 6 of Table 01-5 for a packet whose DEST is known: route, policing, mirror decision, admission. -/
def Block.onward (b : Block) (k : Pkt) (t op new : Nat) (lbl : Option Nat) : Block :=
  let r := b.resolve k 4 none t
  let b := r.2.2
  let nh := r.2.1
  match r.1 with
  | .drop => b.leave k
  | .punt c => b.punt k 4 c 0
  | route =>
    if b.ttlStops k nh then (b.on (fun d => d.cnt F.FWD_TTL_PUNT_COUNT k.slice)).punt k 4 2 0
    else
      let c := b.leafClass k lbl
      let p : Option Nat × Block := match (if k.l2only then none else k.pol) with
        | some n => b.police k.slice n k.pr.len c.1
        | none => (some c.1, b)
      match p.1 with
      | none => p.2.leave k
      | some cls =>
        let x := p.2.rewriteAll k op new nh
        (x.2.sendTo k x.1 route cls c.2).mirrorIngress k

/-- Finishes forwarding of a packet whose reads are done. -/
def Block.finish (b : Block) (w : LeafWait) : Block :=
  let c := b.choose w
  match c.1 with
  | .dest t op new cls => c.2.onward w.pkt t op new cls
  | .punt code => c.2.punt w.pkt 4 code 0
  | .drop => c.2.leave w.pkt

/-- The LEAF_OVF action (R193). -/
def Block.leafOverflow (b : Block) (w : LeafWait) : Block :=
  let k := w.pkt
  let short : Option Nat :=
    if b.dev.fon F.FWD_CFG_LEAF_OVF ∧ k.nat.isNone then w.lpm.bind (fun x => b.dev.topDest x.1 x.2.1 x.2.2) else none
  match short with
  | some t => (b.on (fun d => d.cnt F.FWD_LEAF_OVF_SHORT_COUNT k.slice)).onward k t (if w.popped then 2 else 0) 0 none
  | none => (b.on (fun d => d.cnt F.FWD_LEAF_OVF_DROP_COUNT k.slice)).leave k

/-- A packet enters a forwarding miss lane, joins one of its key, overflows, or goes on at once (R31, R192). -/
def Block.enterLeaf (b : Block) (w : LeafWait) (reads : Nat) : Block :=
  let k := w.pkt
  let s := k.slice
  let n := reads + b2n k.nat.isSome
  let lane := if k.l2only then none else (b.dev.sl s).leaf.findIdx? (fun l => l.key == k.key)
  match lane with
  | some i =>
    b.on (fun d => (d.leafCharge s n).updSl s (fun (x : SliceSt) => { x with
      leaf := x.leaf.modify i (fun (l : LeafLane) => { l with pkts := l.pkts ++ [w] }) }))
  | none =>
    if n = 0 then b.finish w
    else if b.dev.leafOk s then
      b.on (fun d => ((d.leafCharge s n).pl s 0x0A).updSl s (fun (x : SliceSt) =>
        { x with leaf := x.leaf ++ [⟨k.key, k.prof, [w]⟩] }))
    else b.leafOverflow w

/-- Forwarding of a packet (R174, R192). -/
def Block.forward (b : Block) (k : Pkt) : Block :=
  let x := b.fwdSelect k
  match x.1 with
  | .gone => x.2.leave k
  | .punt c => x.2.punt k 4 c 0
  | .dest t => x.2.enterLeaf ⟨k, none, none, t, false⟩ 0
  | .lpm vrf v6 addr popped =>
    let t := x.2.dev.topRead (topOf vrf v6 addr) k.slice
    if t.1 then { x.2 with dev := t.2.cnt F.FWD_DEST_DROP_COUNT k.slice }.leave k else
    let r := t.2.lpmReads vrf v6 addr
    { x.2 with dev := r.2 }.enterLeaf ⟨k, some (vrf, v6, addr), none, 0, popped⟩ r.1
  | .label l => x.2.enterLeaf ⟨k, none, some l, 0, false⟩ 1

/-- A packet whose leaf reads are done goes on, or is handled as R193 where the LPM leaf it reads fails its check twice (Table 15-2, class
0x04): now, or as one that has failed before. -/
def Block.leafDone (b : Block) (s : Nat) (w : LeafWait) (now : Bool) : Block :=
  match w.lpm with
  | none => b.finish w
  | some (vrf, v6, addr) =>
    match b.dev.lpmLeaf vrf v6 addr with
    | none => b.finish w
    | some k =>
      let r := b.dev.leafRead k s now (topDetail vrf v6 (blockOf v6 addr))
      if r.1 then { b with dev := r.2 }.leafOverflow w else { b with dev := r.2 }.finish w

/-- LEAF_LANE_DONE (R192): the reads of a slice's i-th lane are done, and its packets go on in their order. With `ok` false the
opener's LPM leaf failed its check twice. -/
def leafLaneDone (s i : Nat) (ok : Bool) (b : Block) : Block :=
  match (b.dev.sl s).leaf[i]? with
  | none => b
  | some l =>
    let b := b.on (fun d => d.updSl s (fun (x : SliceSt) => { x with leaf := x.leaf.eraseIdx i }))
    match l.pkts with
    | [] => b
    | w :: r => forAll r (fun b w => b.leafDone s w false) (b.leafDone s w !ok)

/-! The flow engine's part -/

/-- Goes on with what the flow engine answers. -/
def Block.afterFlow (b : Block) (e : FlowEnd) : Block :=
  match e with
  | .go k => b.forward k
  | .waits => b
  | .drop k => b.leave k

/-- MISS_LANE_RESOLVE (R155, R156): the reads of a slice's i-th miss lane are done. -/
def missLaneResolve (s i : Nat) (b : Block) : Block :=
  let r := b.laneResolve s i
  forAll r.1 (fun b e => b.afterFlow e) r.2

/-! Classification -/

/-- Words of a bank that a walk reads, counted from the bank's start (R126). -/
def Block.walkWords (b : Block) (base : Nat) (key : List Byte) : Nat → Nat → List Nat
  | 0, _ => []
  | f + 1, ref =>
    if ref / 2 ^ 30 ≠ 0 then []
    else
      let a := bits ref 0 17 * 8
      let h := b.mem.num .cls (base + a) 4
      if h % 4 = 1 then
        let c := a + 8 + 4 * keyBits key (bits h 6 9) (bits h 2 4)
        a / 8 :: c / 8 :: b.walkWords base key f (b.mem.num .cls (base + c) 4)
      else if h % 4 = 2 then
        let v := f16 key (bits h 5 6)
        let i := ((List.range (bits h 2 3)).filter (fun k => decide (b.mem.num .cls (base + a + 8 + 2 * k) 2 ≤ v))).length
        ((List.range 7).map (fun k => a / 8 + k)) ++ b.walkWords base key f (b.mem.num .cls (base + a + 24 + 4 * i) 4)
      else [a / 8]

/-- Reads the words of a walk and of the action record it ends in; whether one fails parity (Table 15-2, class 0x15). -/
def Block.walkBad (b : Block) (s bank : Nat) (k : Pkt) : Bool × Block :=
  let base := b.dev.bankAt s bank
  let root := b.mem.num .cls (base + 4 * rootIndex k.pr) 4
  let dflt := bits (b.mem.num .cls (base + 22) 2) 0 12
  let act : Option Nat := match b.walk base (b.dev.bankSize s bank) (b.clsKey k) 12 root with
    | .leaf _ a => some a
    | .broken => none
    | _ => some dflt
  let acts := match act with
    | some a => if b.mem.num .cls (base + 20) 2 ≤ a then [] else
      let m := bits (b.mem.num .cls (base + 16) 4) 0 17 + 2 * a
      [m, m + 1]
    | none => []
  let ws := [rootIndex k.pr / 2, 2] ++ b.walkWords base (b.clsKey k) 12 root ++ acts
  let r := ws.foldl (fun (a : Bool × Dev) w =>
    let x := a.2.sramRead 0x15 s (a.2.clsWord s bank w) (toLe 4 w ++ toLe 1 bank)
    (a.1 || x.1, x.2)) (false, b.dev)
  (r.1, { b with dev := r.2 })

/-- The pipeline behind a verdict CONTINUE. -/
def Block.flowStage (b : Block) (k : Pkt) : Block :=
  if k.noFlow then b.forward { k with pol := k.actPol }
  else let r := b.flowLookup k; r.2.afterFlow r.1

/-- Classification and what follows it (R121, R129, R134). A reserved verdict is taken as one of the three, a free value
(DESIGN CHOICE, log 2). -/
def Block.classStage (b : Block) (k : Pkt) (bank : Nat) : Block :=
  let s := k.slice
  let w := b.walkBad s bank k
  if w.1 then (w.2.on (fun d => d.cnt F.CLS_DROP_CNT_COUNT s)).leave k
  else
    let c := w.2.classify k bank
    let b := c.2
    let k := if k.pass = 2 then { c.1 with epoch := none } else c.1
    let b := if k.pass = 2 then b.on (fun d => d.epochDrop c.1.epoch) else b
    let k := b.flowKey k
    let v : Nat × Block := if k.verdict = 3 then (let f := b.dev.fresh 2; (f.1 % 3, { b with dev := f.2 })) else (k.verdict, b)
    if v.1 = 0 then v.2.flowStage k
    else if v.1 = 1 then (v.2.on (fun d => d.cnt F.CLS_DROP_CNT_COUNT s)).leave k
    else (v.2.on (fun d => d.cnt F.CLS_PUNT_CNT_COUNT s)).punt k 3 k.puntCode k.metaWord

/-- The bank that holds an epoch (R135). -/
def Dev.epochBank (d : Dev) (s e : Nat) : Option Nat :=
  if e = d.fget F.CLS_EPOCH_ACTIVE s then some (d.activeBank s)
  else if e ≠ 0 ∧ e = d.fget F.CLS_EPOCH_DRAINING s then some (1 - d.activeBank s) else none

/-! Parsing and its failures (R113 to R117) -/

/-- The default-action code of a port in force (Table 03-2), from the port's own slice. -/
def Dev.defAct (d : Dev) (p : Nat) : Nat :=
  let byte := bits (d.fget (F.SLC_DEFACT_ACT.nth (p % 32 / 4)) (p / 32)) (8 * (p % 4)) 8
  let st := d.fget F.GLB_STATE_DEV
  bits byte (if st = stTest then 2 else if st = stRecovery then 4 else 0) 2

/-- Counts a parse failure (R116, R117): reasons and the last failure in the slice that parsed the packet, the port's counter in the
port's own slice (DEDUCED, log 142). -/
def Dev.failCount (d : Dev) (k : Pkt) : Dev :=
  let s := k.slice
  let n := k.port % 32
  let r := k.pr
  let d := if r.result = 1 then (d.cnt (F.SLC_MAL_RSN_COUNT.nth (r.reason - 1)) s).cnt (F.SLC_PORT_MAL_COUNT.nth n) (k.port / 32)
    else (d.cnt (F.SLC_PL_RSN_COUNT.nth (r.reason - 1)) s).cnt (F.SLC_PORT_PL_COUNT.nth n) (k.port / 32)
  ((d.fset F.SLC_LAST_FAIL_PORT s n).fset F.SLC_LAST_FAIL_STATUS s r.status).fset F.SLC_LAST_FAIL_OFFSET s r.failOff

/-- The action of a parse failure (R113, R115). A reserved code is taken as one of the three, a free value (DESIGN CHOICE, log 2). (DEDUCED, log 75.) -/
def Block.parseFail (b : Block) (k : Pkt) : Block :=
  let s := k.slice
  let b := b.on (fun d => d.failCount k)
  let svc := b.dev.fget F.GLB_STATE_DEV == stService
  let code := if svc then b.dev.fget (if k.pr.result = 1 then F.SLC_FAIL_ACT_MAL_ACT else F.SLC_FAIL_ACT_PL_ACT) s
    else b.dev.defAct k.port
  let b := if svc then b else b.on (fun d => d.cnt (F.SLC_PORT_DEFACT_COUNT.nth (k.port % 32)) (k.port / 32))
  let v : Nat × Block := if code = 3 then (let f := b.dev.fresh 2; (f.1 % 3, { b with dev := f.2 })) else (code, b)
  if v.1 = 0 then (v.2.on (fun d => d.cnt F.SLC_FAIL_DROP_COUNT s)).leave k
  else if v.1 = 1 then (v.2.on (fun d => d.cnt F.SLC_FAIL_PUNT_COUNT s)).punt k (if svc then 1 else 2) 0 0
  else (v.2.on (fun d => d.cnt F.SLC_FAIL_L2_COUNT s)).forward { k with l2only := true }

/-- A packet's way from the start of its pass (Table 01-5, steps 4 to 6). -/
def Block.ingress (b : Block) (k : Pkt) : Block :=
  let s := k.slice
  if k.kind = 5 then b.mirrorAdmit s k.session 5 k.data
  else if k.kind = 4 then b.admitTo k k.data k.port k.cls k.group (b.hashDom k)
  else
    let k := { k with pr := parse (b.dev.pcfg s k.pass (b.dev.memberOf k.port).isSome) k.data }
    if k.pr.result ≠ 0 then b.parseFail k
    else
      let b := b.on (fun d =>
        let d := d.cnt F.SLC_PARSE_OK_CNT_COUNT s
        if bit k.pr.flags flagUnknown || bit k.pr.flags flagDisabled then d.cnt F.SLC_STOP_CNT_COUNT s else d)
      if k.pass = 2 then
        if k.session ≠ s then (b.on (fun d => d.cnt F.CLS_XSLICE_DROP_COUNT s)).leave k
        else match b.dev.epochBank s k.dest with
          | none => (b.on (fun d => d.cnt F.CLS_RELEASED_DROP_COUNT s)).leave k
          | some bank => b.classStage k bank
      else
        let e := b.dev.fget F.CLS_EPOCH_ACTIVE s
        (b.on (fun d => d.epochHold s e)).classStage { k with epoch := some (s, e) } (b.dev.activeBank s)

/-! The input arbiter (R20) -/

/-- An injected packet as the pipeline takes it: a REINJECT carries its epoch and first-pass slice. (DEDUCED, log 92.) -/
def Inject.toPkt (j : Inject) (s now : Nat) : Pkt :=
  { data := j.data, port := j.port, slice := s, kind := 2 + j.kind,
    pass := if j.kind = 0 then (if j.second then 3 else 2) else 1, rxAt := now, tsReq := j.tsReq, oneStep := j.oneStep,
    tag := j.tag, cls := j.cls, group := j.group, epoch := j.holds, frees := j.frees, dest := j.epoch, session := j.first,
    key := List.replicate 48 0 }

/-- Takes the first internal packet: recirculation, then Drover, then host. -/
def Dev.takeInternal (d : Dev) (s : Nat) : Option (Pkt × Dev) :=
  match (d.sl s).recirc, at0 d.drvInj s, at0 d.hostInj s with
  | k :: r, _, _ => some (k, d.updSl s (fun (x : SliceSt) => { x with recirc := r }))
  | [], j :: r, _ => some (j.toPkt s d.ntu.total, { d with drvInj := upd0 d.drvInj s (fun _ => r) })
  | [], [], j :: r => some (j.toPkt s d.ntu.total, { d with hostInj := upd0 d.hostInj s (fun _ => r) })
  | [], [], [] => none

/-- Line sources of a slice with a frame ready: port indexes, 32 for the resequencer. -/
def Dev.lineReady (d : Dev) (s : Nat) : List Nat :=
  let x := d.sl s
  ((List.range 32).filter (fun n => x.rx.any (fun p => p.port % 32 == n && (d.memberOf p.port).isNone))) ++
  (if x.rel.isEmpty then [] else [32])

/-- Cap and rate of a line source, and the parts of its counter: the resequencer source counts in finer parts than a port. -/
def Dev.lineRate (d : Dev) (s n : Nat) : Nat × Nat × Nat :=
  if n = 32 then (d.relCap s, 5 * d.relUnits s, relParts)
  else (dcCap (d.maxFrame (32 * s + n) + 20), 5 * d.units (32 * s + n), 1)

/-- Takes the frame of the line source with the largest deficit counter. -/
def Dev.takeLine (d : Dev) (s : Nat) : Option (Pkt × Dev) :=
  let v (n : Nat) : Int :=
    (at0 (d.sl s).dc n).now (d.lineRate s n).1 (d.lineRate s n).2.1 d.cycle * (relParts / (d.lineRate s n).2.2 : Nat)
  let best := (d.lineReady s).foldl (fun (a : Option Nat) n => match a with
    | none => some n
    | some m => if v m < v n then some n else some m) none
  best.bind (fun n =>
    let x := d.sl s
    let f := if n = 32 then x.rel.head? else x.rx.find? (fun p => p.port % 32 == n)
    f.map (fun k =>
      let r := d.lineRate s n
      let w := 24 * (max (k.data.length + 4) 64 + 20) * r.2.2
      (k, d.updSl s (fun (x : SliceSt) => { x with
        rx := if n = 32 then x.rx else x.rx.erase k
        rel := if n = 32 then x.rel.drop 1 else x.rel
        dc := upd0 x.dc n (fun a => a.take r.1 r.2.1 d.cycle w) }))))

/-- Whether an internal source waits. -/
def Dev.internalWaits (d : Dev) (s : Nat) : Bool :=
  !(d.sl s).recirc.isEmpty || !(at0 d.drvInj s).isEmpty || !(at0 d.hostInj s).isEmpty

/-- pipeline_input_select: the packet, whether it is internal, whether the reserve granted it. Before a slice's first internal
grant, and after its logic reset, cycles_since_internal_grant counts from cycle 0 (DESIGN CHOICE, log 132). -/
def Dev.inputSelect (d : Dev) (s : Nat) : Option (Pkt × Bool × Bool × Dev) :=
  let line := !(d.lineReady s).isEmpty
  if d.internalWaits s && decide ((d.sl s).lastInt + 255 ≤ d.cycle) then
    (d.takeInternal s).map (fun x => (x.1, true, line, x.2))
  else if line then (d.takeLine s).map (fun x => (x.1, false, false, x.2))
  else (d.takeInternal s).map (fun x => (x.1, true, false, x.2))

/-- INGRESS_PACKET_START (R19, R20): the next start slot of a slice's ingress pipeline takes a packet. (DESIGN CHOICE, log 112.) -/
def ingressPacketStart (s : Nat) (b : Block) : Block :=
  let d := match (b.dev.sl s).last with
    | some c => b.dev.toCycle (c + 1)
    | none => b.dev
  match d.inputSelect s with
  | none => { b with dev := d }
  | some (k, int, res, d) =>
    let d := d.updSl s (fun (x : SliceSt) => { x with last := some d.cycle, lastInt := if int then d.cycle else x.lastInt })
    let d := d.pl s 0x02
    let d := if res then d.pl s 0x04 else d
    let d := if int then d.pl s 0x05 else d
    { b with dev := d }.ingress { k with slice := s, key := List.replicate 48 0 }

end Sys2Proof.Machine
end

