-- ==== Sys2Proof/Machine/Life.lean ====
section
/-! DEFINITION. Device and slice states (R66 to R69), clusters (R76), slice recovery (R77 to R79, R220, R265, R268, R283). -/

namespace Sys2Proof.Machine

/-! Device and slice states -/

/-- GLB_STATE.DEV. -/
def Dev.devSt (d : Dev) : Nat := d.fget F.GLB_STATE_DEV

/-- Shows a device state: PREV follows a change, REGIME is 1 in every state but SERVICE (R70). -/
def Dev.setDevSt (d : Dev) (v : Nat) : Dev :=
  let d := if v = d.devSt then d else (d.fset F.GLB_STATE_PREV 0 d.devSt).fset F.GLB_STATE_DEV 0 v
  d.fset F.GLB_STATE_REGIME 0 (b2n (v != stService))

/-- How a slice stands in its state. -/
def Dev.kindOf (d : Dev) (s : Nat) : Nat := Sparse.get 0 d.life.kind s

def Dev.setKind (d : Dev) (s k : Nat) : Dev := { d with life.kind := Sparse.set 0 d.life.kind s k }

/-- Slices that are not OFF. -/
def Dev.enabledSlices (d : Dev) : List Nat := (List.range 16).filter (fun s => d.sliceSt s != stOff)

/-- The device state that the slices' states give (R66, R67). -/
def Dev.devOf (d : Dev) : Nat :=
  let on := d.enabledSlices
  if on.any (fun s => d.kindOf s == 1) then stStructure
  else if on.any (fun s => d.kindOf s == 3 || d.kindOf s == 4) then stRecovery
  else if on.any (fun s => d.sliceSt s == stStartup) then stStartup
  else if on.any (fun s => d.sliceSt s == stTest) then stTest
  else stService

/-! Clusters (R76) -/

/-- CLUSTER_HOLD_SET (R75, R76): a cluster that is not held is reset and held. -/
def clusterHoldSet (k : Nat) (d : Dev) : Dev :=
  if d.clusterHeld k then d else (d.fset ⟨R.GLB_CLUSTER_HOLD, k, 1⟩ 0 1).resetCluster k

/-- CLUSTER_RELEASE (R76, R340): a held cluster's ROLE 1 threads start. -/
def clusterRelease (k : Nat) (d : Dev) : Dev :=
  if d.clusterHeld k then (d.fset ⟨R.GLB_CLUSTER_HOLD, k, 1⟩ 0 0).releaseCluster k else d

/-- Releases the clusters that the image holds firmware for (R73). -/
def Dev.releaseFw (d : Dev) : Dev :=
  forAll (List.range 8) (fun d k => if bit d.ld.fw k then clusterRelease k d else d) d

/-! States of slices -/

/-- Brings GLB_STATE up to date once the slices have states of their own; as DEV leaves the STRUCTURE of a boot load, the clusters
with firmware are released (R73). -/
def Dev.refresh (d : Dev) : Dev :=
  if d.life.wide then d
  else
    let n := d.setDevSt d.devOf
    if d.devSt == stStructure && n.devSt != stStructure then n.releaseFw else n

/-- Puts a slice into a state. -/
def Dev.putSlice (d : Dev) (s st kind : Nat) : Dev := ((d.setSliceSt s st).setKind s kind).refresh

/-- A state that all slices share: BOOT, TRAIN or HARNESS (R66). -/
def Dev.allStates (d : Dev) (v : Nat) : Dev :=
  let w := BitVec.ofNat 32 (0x11111111 * v)
  let d := ((d.rset R.GLB_SLICE_STATE_LO 0 w).rset R.GLB_SLICE_STATE_HI 0 w).setDevSt v
  { d with life := { d.life with wide := true, kind := [], ready := [], stopped := [] } }

/-- The field of a slice in a register pair of 4 bits per slice. -/
def nibble (lo hi s : Nat) : Fld := ⟨if s < 8 then lo else hi, s % 8 * 4, 4⟩

/-- Carriers of a slice that the image enables. -/
def Dev.carriersOf (d : Dev) (s : Nat) : List Nat :=
  (List.range 64).filter (fun c => d.fon F.CAR_CFG_ENABLE c && d.fget F.CAR_CFG_SLICE c == s)

/-- Ports of a slice. -/
def slicePorts (s : Nat) : List Nat := (List.range 32).map (fun k => 32 * s + k)

/-! STARTUP and SERVICE (R69, R73) -/

/-- Carriers of a slice at its STARTUP: framing starts (R95), the up-hold counts from here (R97). -/
def Dev.carrierStart (d : Dev) (c : Nat) : Dev :=
  let d := (d.updCar c (fun (x : CarSt) => { x with boot := some d.cycle, enAt := d.cycle })).showCarRate c
  d.reselect (512 + c) (d.fget F.CAR_HOLD_CFG_SEL c)

/-- Ports of a slice at its STARTUP: enabled in ascending order, counters of R20 and R208 at 0, a gate list that was armed in
the apply pass becomes pending (R232). -/
def Dev.portStart (d : Dev) (p : Nat) : Dev :=
  let d := d.updPt p (fun (x : PortSt) => { x with enAt := d.cycle, dc := Acct.zero d.cycle })
  let d := if d.isEth p then d.reselect p (d.fget F.PRT_MAC_CFG_HOLD_SEL p) else d
  if (d.pt p).gateArmed then d.gatePend p else d

/-- A slice enters STARTUP after its STRUCTURE (R68, R73, R131). -/
def Dev.startSlice (d : Dev) (s : Nat) (boot : Bool) : Dev :=
  let d := if !d.life.begun then { d with life.begun := true, stb.tickBase := d.cycle, stb.ticks := 0, flow.lfsr := some (lfsrSeed (d.fget F.FLW_LFSR_SEED)) } else d
  let d := (d.putSlice s stStartup (if boot then 0 else 3)).clsStart s
  let d := d.fset F.CLS_EPOCH_DRAINING s 0
  let d := d.updSl s (fun (x : SliceSt) => { x with
    dc := (List.range 33).map (fun k => (k, Acct.zero d.cycle)), lfsr := some (lfsrSeed (d.fget F.FWD_L2_LFSR_SEED)) })
  let d := forAll (d.carriersOf s) (fun d c => d.carrierStart c) d
  let d := forAll (slicePorts s) (fun d p => d.portStart p) d
  if boot then forAll d.teams (fun d t => d.formTeam t) d else d

/-- A slice's apply pass has ended: it leaves STRUCTURE, or waits in the hold (R68). -/
def Dev.leaveStructure (d : Dev) (s : Nat) (boot : Bool) : Dev :=
  if d.fon F.GLB_CTRL_STRUCT_HOLD then d.putSlice s stStructure (if boot then 1 else 4) else d.startSlice s boot

/-- STRUCT_RELEASE (R68): a slice that waits in the hold is released. -/
def structRelease (s : Nat) (d : Dev) : Dev :=
  if d.kindOf s = 1 then d.startSlice s true
  else if d.kindOf s = 4 then d.startSlice s false
  else d

/-- A slice enters SERVICE; the first one fixes GLB_BOOT_TIME (R81). -/
def Dev.serve (d : Dev) (s : Nat) : Dev :=
  let d := d.putSlice s stService 0
  if d.life.served then d
  else { d.fset F.GLB_BOOT_TIME_US 0 ((d.cycle - d.life.riseAt) / 3000) with life.served := true }

/-- SERVICE_REQUEST (R69): from STARTUP or TEST. -/
def serviceRequest (s : Nat) (d : Dev) : Dev :=
  if !d.life.wide ∧ (d.sliceSt s = stStartup ∨ d.sliceSt s = stTest) then d.serve s else d

/-- TEST_REQUEST (R69): from SERVICE. -/
def testRequest (s : Nat) (d : Dev) : Dev :=
  if !d.life.wide ∧ d.sliceSt s = stService then d.putSlice s stTest 0 else d

/-- AUTO_SERVICE_ENTRY (R69): the ports of a slice in STARTUP are enabled (R73), so AUTO_SERVICE moves it on. -/
def autoServiceEntry (s : Nat) (d : Dev) : Dev :=
  if d.fon F.GLB_CTRL_AUTO_SERVICE ∧ !d.life.wide ∧ d.sliceSt s = stStartup then d.serve s else d

/-! Recovery (R77 to R79) -/

/-- An ingress packet is lost with its slice's pipelines: counted as a recovery drop of its port, or as a delivery drop of its
team (R78 steps 2 and 3, R165, R268). -/
def Dev.recoverDrop (d : Dev) (p : Pkt) : Dev :=
  let d := if p.kind = 0 then d.cnt F.PRT_RX_RECOVERY_DROP_COUNT p.port
    else if p.kind = 1 then d.cnt F.TEM_DELIV_DROP_COUNT p.team else d
  (d.epochDrop p.epoch).freeAll p.frees

/-- The ingress side of a slice stops: its packets are dropped; lanes that hold a lock finish without them (R165). -/
def Dev.recoverIngress (d : Dev) (s : Nat) : Dev :=
  let x := d.sl s
  let gone := x.rx ++ x.rel ++ x.recirc ++ (x.flow.map (fun l => l.pkts)).flatten ++
    (x.leaf.map (fun l => l.pkts.map (fun w => w.pkt))).flatten
  let d := forAll gone (fun d p => d.recoverDrop p) d
  d.updSl s (fun (y : SliceSt) => { y with
    rx := [], rel := [], recirc := [], leaf := []
    flow := (y.flow.filter (fun l => l.got != 0)).map (fun (l : Lane) => { l with pkts := [], ghost := l.ghost.or l.pkts.head? }) })

/-- A carrier of a recovering slice: its armed change and switch are cleared, it goes down, its framing ends (R77, R283). (DEDUCED, log 104.) -/
def Dev.recoverCarrier (d : Dev) (c : Nat) : Dev :=
  let armed := (d.car c).sw.isSome
  let d := d.rcStop c 5
  let d := if armed then (d.disarm c).fset F.CAR_CAL_STATUS_ABORTED c 1 else d
  (d.carFalls c (fun p d => d.portDownAny p)).updCar c (fun (x : CarSt) => { x with boot := none, trig := none, bad := [] })

/-- A port of a recovering slice: down, but for a team port, whose link its members keep (R268); its leaf queues emptied, finish
times and shaper tokens reset (R77, R78). -/
def Dev.recoverPort (d : Dev) (p : Nat) : Dev :=
  let d := ((d.portDownAny p).discardPort p).mcPortDown p
  let d := forAll (d.leaves p) (fun d q => d.updLq q (fun (l : LeafSt) => { l with
    fLast := 0, fServed := 0, s := 0, f := 0, head := none, shaper := {} })) d
  d.updPt p (fun (x : PortSt) => { x with v := 0, cls := [] })

/-- Whether the row write of a packet is still to end. -/
def Dev.unwritten (d : Dev) (written : Bool) (e : Nat) : Bool := !written && decide (d.cycle * 400 < e)

/-- Row s's write queue is emptied (R220): its packets are lost, each counted once, and started cut-through frames among them cut
short (R213). -/
def Dev.recoverRow (d : Dev) (s : Nat) : Dev :=
  let mine (x : QPkt) : Bool := x.row == s && x.mc.isNone && d.unwritten x.written x.wrEnd
  let lost (d : Dev) (n : Nat) : Dev := if n = 0 then d else d.cnt F.XPF_WRQ_DROP_COUNT s n
  let d := forAll d.ports (fun d y =>
    let d := d.lineDone y.1
    let cut := (d.pt y.1).tx.filter (fun t => !t.probe && mine t.pkt)
    let d := d.cutTx y.1 (fun t => !t.probe && mine t.pkt)
    forAll cut (fun d t =>
      if t.begun then ((lost d 1).cnt F.TMG_Q_DISCARD_COUNT t.pkt.queue).cnt F.XPF_ABORT_CNT_COUNT (t.pkt.port / 32) else lost d 1) d) d
  let d := forAll d.tm.leaves (fun d y =>
    lost (d.discardIf y.1 mine) ((y.2.pkts.filter mine).length)) d
  let gone := d.tm.mcs.filter (fun m => m.row == s && d.unwritten m.written m.wrEnd)
  let d := lost d ((gone.map (fun m => m.id)).eraseDups.length)
  let d : Dev := { d with tm.mcs := d.tm.mcs.filter (fun m => !gone.contains m) }
  (forAll (gone.map (fun m => m.col)).eraseDups (fun (d : Dev) c => d.showRes c) d).freeAll (gone.map (fun m => m.src.frees)).flatten.eraseDups

/-- Column s is emptied (R220): frames being read from it are cut short, its multicast packets leave. (DEDUCED, log 94.) -/
def Dev.recoverColumn (d : Dev) (s : Nat) : Dev :=
  let d := forAll d.ports (fun d y => d.cutTx y.1 (fun t => !t.probe && !t.isRead && t.pkt.port / 32 == s)) d
  let gone := d.tm.mcs.filter (fun m => m.col == s)
  let d : Dev := { d with tm.mcs := d.tm.mcs.filter (fun m => m.col != s) }
  (d.showRes s).freeAll ((gone.filter (fun m => !d.tm.mcs.any (fun n => n.id == m.id))).map (fun m => m.src.frees)).flatten

/-- Steps 2 and 3 of R78, at once (the rule allows 1 us): the fabric first, so that each packet is counted for its own cause. (DESIGN
CHOICE, log 119.) -/
def Dev.recoverStop (d : Dev) (s : Nat) : Dev :=
  let d := (d.recoverRow s).recoverColumn s
  let d := forAll (d.carriersOf s) (fun d c => d.recoverCarrier c) d
  (forAll (slicePorts s) (fun d p => d.recoverPort p) d).recoverIngress s

/-- Records an outcome of a live unit (Table 02-11): slices 0 to 15, clusters 16 to 23. -/
def Dev.liveCode (d : Dev) (u code : Nat) : Dev :=
  let d := if u < 16 then d.fset (nibble R.HLD_LIVE_ERR_LO R.HLD_LIVE_ERR_HI u) 0 code
    else d.fset ⟨R.HLD_LIVE_KERR, (u - 16) * 4, 4⟩ 0 code
  d.fset ⟨if code = 0 then R.HLD_LIVE_DONE else R.HLD_LIVE_REFUSED, u, 1⟩ 0 1

/-- A live load whose units have all finished ends (R63). (DEDUCED, log 52.) -/
def Dev.liveFinish (d : Dev) : Dev :=
  if d.ld.step ≠ 6 ∨ d.ld.unit.isSome ∨ !d.ld.units.isEmpty then d
  else
    let d := { d with ld := { d.ld with step := 0, src := 0, waitAt := none } }
    let d := ((d.fset F.HLD_STATUS_BUSY 0 0).fset F.HLD_STATUS_DONE 0 1).fset F.HLD_STATUS_PHASE 0 0
    (((d.fset F.HLD_STATUS_FAIL 0 0).fset F.HLD_STATUS_ERR 0 0).fset F.HLD_STATUS_SECTION 0 0xFFFF).notice F.HLD_STATUS_DONE

/-- A live unit that a reset reaches stops (R64); a re-apply of the slice stops with its recovery (R79). -/
def Dev.stopApply (d : Dev) (s : Nat) : Dev :=
  let d := if d.ld.unit = some s then ({ d.liveCode s 7 with ld.unit := none }).liveFinish else d
  if d.ld.engine = some s then { d with ld.engine := none } else d

/-- The event of step 1 of R78. -/
def Dev.recoverEvent (d : Dev) (s cause : Nat) : Dev :=
  let f := nibble R.GLB_SLICE_CAUSE_LO R.GLB_SLICE_CAUSE_HI s
  let d := (d.fset f 0 cause).cnt F.GLB_RECOVERY_CNT_COUNT
  let c := if s < 8 then F.GLB_SLICE_CAUSE_LO_CAUSE else F.GLB_SLICE_CAUSE_HI_CAUSE
  if cause = 2 ∨ cause = 3 then d.alarm 2 c else if cause = 1 then d.notice c else d.error c

/-- A recovery of a slice starts, or starts again (R78 steps 1 to 3, R79): none for a slice that is OFF or while the slices share the
device state; a commanded reset is ignored for as long as DEV reads STRUCTURE. -/
def Dev.recover (d : Dev) (s cause : Nat) : Dev :=
  if d.life.wide ∨ d.sliceSt s = stOff ∨ (cause = 1 ∧ d.devSt = stStructure) then d
  else
    let cause := if d.kindOf s = 2 ∧ cause = 1 then 4 else cause
    let stop := (cause == 2 || cause == 3) && !d.fon F.GLB_CTRL_AUTO_RECOVER
    let d := ((d.stopApply s).putSlice s stRecovery 3).recoverEvent s cause
    let rest := d.life.stopped.filter (fun t => t != s)
    let d := { d with life := { d.life with
      ready := d.life.ready.filter (fun t => t != s), stopped := if stop then rest ++ [s] else rest } }
    d.recoverStop s

/-- SLICE_RESET (R79): a commanded recovery. -/
def sliceReset (s : Nat) (d : Dev) : Dev := d.recover s 1

/-- Whether a pipeline of a slice has work: packets to start, or frames to send. -/
def Dev.hasWork (d : Dev) (s : Nat) (egress : Bool) : Bool :=
  if egress then !(d.busyPorts s).isEmpty
  else
    let x := d.sl s
    !(x.rx ++ x.rel ++ x.recirc).isEmpty || !(at0 d.drvInj s).isEmpty || !(at0 d.hostInj s).isEmpty

/-- PIPELINE_STALL (R77, R78): a pipeline with work has started no packet for 1 ms. -/
def pipelineStall (s : Nat) (egress : Bool) (d : Dev) : Dev :=
  if !d.hasWork s egress then d
  else
    let last := if egress then (d.sl s).lastTx else (d.sl s).last
    (d.toCycle (last.getD 0 + 3000000)).recover s 3

/-- Bits of a row's fields with one of some access codes. -/
def RegRow.accMask (r : RegRow) (f : Acc → Bool) : Nat :=
  ((r.fields.filter (fun x => f x.acc)).map (fun x => (2 ^ x.w - 1) * 2 ^ x.lo)).sum

/-- Returns the fields of some access codes to their reset values in the listed registers that pass a test on row and
element. -/
def Dev.restore (d : Dev) (sel : RegRow → Nat → Bool) (f : Acc → Bool) : Dev :=
  forAll d.regs (fun d e =>
    let off := e.1 / 2 ^ 20
    let inst := e.1 % 2 ^ 20
    match findReg off with
    | none => d
    | some r =>
      if sel r inst then
        let m := BitVec.ofNat 32 (r.accMask f)
        d.rset off inst ((d.rget off inst &&& ~~~m) ||| (resetWord off &&& m))
      else d) d

/-- Whether a row lies in a block of Table 00-5. -/
def RegRow.inBlock (r : RegRow) (n : Nat) : Bool := blockIndex r.off == n

/-- Registers of a slice that its logic reset clears: parser and classifier status and structure (SLC), but not CLS_BANK_SIZE
of the device (R13, R77). -/
def slcOf (s : Nat) (r : RegRow) (inst : Nat) : Bool := r.inBlock 7 && r.kind == .slice && inst == s && r.off != R.CLS_BANK_SIZE

/-- Registers of a slice's ports and lanes that its PORT_CARVE sections write. -/
def prtOf (s : Nat) (r : RegRow) (inst : Nat) : Bool :=
  r.inBlock 4 && ((r.kind == .port && inst / 32 == s) || (r.kind == .lane && inst / 256 == s))

/-- A port's gate lists, operating or pending, are gone: a retained GATE_LIST section arms its own again (R78, DESIGN CHOICE, log 35). -/
def Dev.resetGates (d : Dev) (p : Nat) : Dev :=
  let d := (d.fset F.TMG_GATE_STATUS_PENDING p 0).fset F.TMG_GATE_STATUS_OPER_VALID p 0
  let d := (d.fset F.TMG_GATE_OPER_LEN_LEN p 0).fset F.TMG_GATE_OPER_CYCLE_NS p 0
  d.updPt p (fun (x : PortSt) => { x with gate := none, gateArmed := false, operBase := 0, entry := 0 })

/-- The logic of a slice is cleared (Table 03-5): structure registers and status of parser, classifier and ports, classifier
banks, L2 table, update groups, learn places, flushes, gate lists. Counters and rw registers stay (DESIGN CHOICE, log 35). -/
def Block.resetSlice (b : Block) (s : Nat) : Block :=
  let d := b.dev
  let d := forAll (d.sl s).flush (fun d _ => l2FlushDone s d) d
  let d := forAll (d.sl s).upd (fun d g => (d.fset F.CLS_UPD_STATUS_BUSY g.who 0).fset F.CLS_UPD_STATUS_ERR g.who 1) d
  let d := d.restore (slcOf s) (fun a => a == .rws || a == .ro)
  let d := d.restore (prtOf s) (fun a => a == .rws)
  let d := forAll (slicePorts s) (fun (d : Dev) p => d.resetGates p) d
  let d := { d with fwd.l2 := d.fwd.l2.filter (fun e => e.1 / 65536 != s) }
  let d := d.updSl s (fun (x : SliceSt) => { (default : SliceSt) with
    flow := x.flow, wrEnd := x.wrEnd, retryAt := x.retryAt, last := x.last, lastTx := x.lastTx })
  (({ b with dev := d }).bankInit s 0).bankInit s 1

/-- RECOVERY_LOGIC_RESET_DONE (R78 step 4, R79): the slice waits for the loader, unless a fatal error stopped it after
step 2. -/
def recoveryLogicResetDone (s : Nat) (b : Block) : Block :=
  let d := b.dev
  if d.sliceSt s ≠ stRecovery ∨ d.life.wide ∨ d.life.stopped.contains s ∨ d.life.ready.contains s then b
  else (b.resetSlice s).on (fun d => { d with life.ready := d.life.ready ++ [s] })

/-- RECOVERY_REAPPLY_START (R79): the loader, when free, takes the lowest waiting slice, which enters STRUCTURE. A load that fetches or
verifies does not keep it from that (DESIGN CHOICE, log 137). -/
def recoveryReapplyStart (d : Dev) : Dev :=
  match minOf d.life.ready with
  | none => d
  | some s =>
    if d.ld.engine.isSome ∨ d.ld.unit.isSome ∨ d.ld.step = 5 then d
    else
      { d.putSlice s stStructure 3 with
        ld.engine := some s
        ld.engineAt := d.cycle
        ld.done := 0
        life.ready := d.life.ready.filter (fun t => t != s) }

end Sys2Proof.Machine
end

