-- ==== Sys2Proof/Machine/Loader.lean ====
section
/-! DEFINITION. The harness loader up to the apply pass (R52 to R58, R61, R62): load starts, fetches, verification. -/

namespace Sys2Proof.Machine

/-- First DRAM byte of the area an image is staged in (R54): the retained image's, or the live staging area. -/
def stageBase (live : Bool) : Nat := if live then 0x50000000 else 0x30000000

/-- The key hash of the fuses (R65). -/
def Dev.keyHash (d : Dev) : List Byte :=
  (List.range 12).flatMap (fun n => toBe 4 (d.rget (R.HLD_KEY_HASH + 4 * n)).toNat)

/-- Changes the loader's state. -/
def Dev.updLd (d : Dev) (f : LoadSt → LoadSt) : Dev := { d with ld := f d.ld }

/-- Length of a source (R52): a flash slot, HLD_SRC_LEN, or the most that a retained image can hold. -/
def Dev.sourceLen (d : Dev) (src : Nat) : Nat :=
  if src = 1 ∨ src = 2 then 0x4000000 else if src = 3 then d.fget F.HLD_SRC_LEN_LEN else 0x20000000

/-- source_limit of R52. -/
def Dev.sourceLimit (d : Dev) : Nat :=
  min d.ld.len (if d.ld.live ∨ d.ld.src = 1 ∨ d.ld.src = 2 then 0x4000000 else 0x20000000)

/-! Pieces over the ring (R58, R410) -/

/-- Asks the serving device for the 1,024-byte pieces of a range of the image. -/
def Dev.imgAsk (d : Dev) (a n : Nat) : Dev :=
  if d.ld.src ≠ 4 ∨ (d.ld.byStrap ∧ d.ld.peer = d.devid) then d
  else
    let first := a / 1024
    let last := (a + n + 1023) / 1024
    forAll ((List.range (last - first)).map (fun k => first + k)) (fun d k =>
      if d.ld.got.any (fun e => e.1 == 1024 * k) then d
      else d.send (d.mkMsg 8 d.ld.peer 3 (k % 65536) 0 (1024 * k) [])) d

/-- A range of the image out of the pieces received, if they are all there. -/
def LoadSt.pieces (l : LoadSt) (a n : Nat) : Option (List Byte) :=
  let first := a / 1024
  let ks := (List.range ((a + n + 1023) / 1024 - first)).map (fun k => 1024 * (first + k))
  if ks.all (fun o => l.got.any (fun e => e.1 == o)) then
    let all := ks.flatMap (fun o => ((l.got.find? (fun e => e.1 == o)).map (fun e => e.2)).getD [])
    let bs := (all.drop (a - 1024 * first)).take n
    if bs.length = n then some bs else none
  else none

/-- Who the loader is among the engines that read host memory over the ring. -/
def ldReader : Nat := 64

/-- Whether the loader reads host memory over the ring: a PCIe load at a device that is not the root (R57, R410). -/
def Dev.ringReads (d : Dev) : Bool := d.ld.src == 3 && !d.isRoot

/-- Host bus address of a place of the image (R57). -/
def Dev.srcAddr (d : Dev) (a : Nat) : Nat := d.fget F.HLD_SRC_ADDR_LO_ADDR + d.fget F.HLD_SRC_ADDR_HI_ADDR * 2 ^ 32 + a

/-- Asks the source for a range of the image, where it is reached over the ring. -/
def Dev.askSrc (d : Dev) (a n : Nat) : Dev :=
  if d.ringReads then d.memAsk ldReader 3 (d.srcAddr a) n else d.imgAsk a n

/-- What a fetch of n bytes at a place delivers: the pieces for a halter load or the completions of a load over the ring, none
while some are missing; else the bytes that the source gave, as many as were asked for. -/
def Dev.fetched (d : Dev) (a n : Nat) (data : List Byte) : Option (List Byte) :=
  if d.ld.src = 4 then d.ld.pieces a n
  else if d.ringReads then (d.memGot ldReader (d.srcAddr a) n).bind (fun x => x)
  else some ((data ++ List.replicate n 0).take n)

/-- Whether the source answers a fetch with an error: as the surroundings say, or by a completion with HOST_ERR (R57). -/
def Dev.fetchBad (d : Dev) (a n : Nat) (ok : Bool) : Bool := !ok || (d.ringReads && d.memGot ldReader (d.srcAddr a) n == some none)

/-- The upstream neighbour (R58): the device before this one in the ring order, else the one at the other end of H0's hop. -/
def Dev.upstream (d : Dev) : Option Nat :=
  match d.halter.order.idxOf? d.devid with
  | some i => if d.halter.order.length < 2 then d.halter.upId else d.halter.order[(i + d.halter.order.length - 1) % d.halter.order.length]?
  | none => d.halter.upId

/-- A load that BOOTSEL 10 starts takes the upstream neighbour as its PEER (R55, R65). -/
def Dev.peerUp (d : Dev) : Dev :=
  match d.ld.byStrap, d.upstream with
  | true, some u => (d.fset F.HLD_CTRL_PEER 0 u).updLd (fun l => { l with peer := u })
  | _, _ => d

/-! Start and failure -/

/-- A load starts from a source (R56 to R58, R61). Where BOOTSEL 10 starts it and the upstream neighbour is not known yet, PEER names
this device and no request is sent (DEDUCED, log 134). -/
def Dev.loadFrom (d : Dev) (src : Nat) (live : Bool) : Dev :=
  let d := (d.fset F.HLD_STATUS_BUSY 0 1).fset F.HLD_STATUS_PHASE 0 1
  let d := if live then d else d.fset F.HLD_BOOT_SRC_SLOT 0 (min src 3)
  let d := d.updLd (fun l => { l with
    src := src, live := live, step := 1, since := d.cycle, len := d.sourceLen src, next := 0, got := [], man := []
    peer := if l.byStrap then d.devid else d.fget F.HLD_CTRL_PEER
    slotA := if src = 2 then l.slotA else none })
  d.peerUp.askSrc 0 128

/-- A load ends in failure (R52, R62): slot A goes on to slot B (R56). An image that the neighbour of BOOTSEL 10 has served and that
fails its checks is not asked for again: Table 02-9 retries until served (DESIGN CHOICE, log 135). -/
def Dev.loadFail (d : Dev) (err sec : Nat) : Dev :=
  if d.ld.src = 1 then (d.updLd (fun l => { l with slotA := some (err, sec) })).loadFrom 2 false
  else
    let live := d.ld.live
    let d := d.updLd (fun l => { l with src := 0, step := 0, byStrap := false, slotA := none })
    let d := ((d.fset F.HLD_STATUS_BUSY 0 0).fset F.HLD_STATUS_FAIL 0 1).fset F.HLD_STATUS_PHASE 0 0
    let d := (d.fset F.HLD_STATUS_ERR 0 err).fset F.HLD_STATUS_SECTION 0 sec
    let d := d.cnt F.HLD_FAIL_CNT_COUNT
    if live then d.error F.HLD_STATUS_FAIL else d.alarm 0 F.HLD_STATUS_FAIL

/-- A load that starts; a source shorter than 128 bytes fails at once (R52). -/
def Dev.loadStart (d : Dev) (src : Nat) (live : Bool) : Dev :=
  let d := d.loadFrom src live
  if d.ld.len < 128 then d.loadFail errLength noSection else d

/-- Whether the loader waits for a neighbour that has not served it yet; a host load takes its place (R55). -/
def Dev.strapWait (d : Dev) : Bool := d.ld.byStrap && d.ld.step == 1 && d.ld.got.isEmpty

/-- Whether the device stays in the STRUCTURE that a failed boot apply leaves (R53). -/
def Dev.applyStuck (d : Dev) : Bool := d.life.wide && d.devSt == stStructure && d.ld.step == 0

/-- A write of HLD_CTRL: SRC, LIVE, SERVE_EN and PEER take their values; START starts a load or is refused (R61, R62). In BOOT and
TRAIN no load can start, as staging needs DRAM (R74), nor in the STRUCTURE that a failed boot apply leaves, which only two resets end
(R53). -/
def Dev.hldCtrl (d : Dev) (v : Nat) : Dev :=
  let src := bits v 1 2
  let live := bit v 3
  let d := ((d.fset F.HLD_CTRL_SRC 0 src).fset F.HLD_CTRL_LIVE 0 (b2n live)).fset F.HLD_CTRL_SERVE_EN 0 (bits v 4 1)
  let d := d.fset F.HLD_CTRL_PEER 0 (bits v 8 6)
  if !bit v 0 then d
  else if (d.fon F.HLD_STATUS_BUSY && !d.strapWait) || src == 3 || (live && src != 1) then d.cnt F.HLD_REFUSED_CNT_COUNT
  else if d.devSt < stHarness || d.applyStuck then d
  else
    let d := d.updLd (fun l => { l with byStrap := false })
    let d := if live then
        forAll [R.HLD_LIVE_DONE, R.HLD_LIVE_REFUSED, R.HLD_LIVE_ERR_LO, R.HLD_LIVE_ERR_HI, R.HLD_LIVE_KERR]
          (fun d off => d.rset off 0 0) d
      else d
    if src = 0 then d.loadStart 1 false else if src = 1 then d.loadStart 3 live else d.loadStart 4 false

/-- HLD_CTRL as LOAD commands write it. (DEDUCED, log 97.) -/
def loadCtrl (src : Nat) (live serve : Bool) (peer : Nat) : Nat := 1 + 2 * src + 8 * b2n live + 16 * b2n serve + 256 * peer

/-- The boot load that HARNESS starts from the source that BOOTSEL selects (R55). -/
def Dev.bootLoad (d : Dev) : Dev :=
  let sel := d.fget F.HLD_BOOT_SRC_BOOTSEL
  if sel = 0 ∨ sel = 3 then d.loadStart 1 false
  else if sel = 2 then (d.updLd (fun l => { l with byStrap := true })).loadStart 4 false
  else d

/-! Fetches and verification (R52) -/

/-- HEADER_FETCH_DONE (R44, R52): the 128 bytes of the header, or an error of the source. -/
def headerFetchDone (data : List Byte) (ok : Bool) (d : Dev) : Dev :=
  if d.ld.step ≠ 1 then d
  else if d.fetchBad 0 128 ok then d.loadFail errFetch noSection
  else
    match d.fetched 0 128 data with
    | none => d
    | some h =>
      let e := hdrCheck h (d.fget F.GLB_ID_REV) d.devid d.ld.live d.sourceLimit
      if e ≠ 0 then d.loadFail e noSection
      else (d.updLd (fun l => { l with step := 2, since := d.cycle, man := h })).askSrc 128 (sigOffset (hdrCount h) + 128)

/-- The signature block of a fetched manifest. -/
def LoadSt.sig (l : LoadSt) : List Byte := l.man.drop (sigOffset (hdrCount l.man))

/-- MANIFEST_FETCH_DONE (R52): the rest of the manifest and the signature block; PHASE moves to VERIFY. -/
def manifestFetchDone (data : List Byte) (ok : Bool) (d : Dev) : Dev :=
  if d.ld.step ≠ 2 then d
  else if d.fetchBad 128 (sigOffset (hdrCount d.ld.man) + 128) ok then d.loadFail errFetch noSection
  else
    match d.fetched 128 (sigOffset (hdrCount d.ld.man) + 128) data with
    | none => d
    | some r =>
      let d := (d.updLd (fun l => { l with step := 3, man := l.man ++ r })).fset F.HLD_STATUS_PHASE 0 2
      let e := sigFormCheck d.ld.sig d.keyHash
      if e ≠ 0 then d.loadFail e noSection else d

/-- The entry that is staged next. -/
def LoadSt.entry (l : LoadSt) : Option Entry := (entries l.man)[l.next]?

/-- Asks for the next body where the source is reached over the ring. -/
def Dev.askBody (d : Dev) : Dev :=
  match d.ld.entry with
  | some e => d.askSrc e.off e.len
  | none => d

/-- SIGNATURE_CHECK_DONE (R45, R46, R52): the signature, then the table; PHASE moves to DIGEST, and the manifest lies in the staging
area. A boot load replaces the retained image from here on (R59). -/
def signatureCheckDone (b : Block) : Block :=
  let l := b.dev.ld
  let n := sigOffset (hdrCount l.man)
  if l.step ≠ 3 then b
  else if !sigOk (l.man.take n) l.sig then b.on (fun d => d.loadFail errSig noSection)
  else
    let c := tableCheck l.man l.live
    if c.1 ≠ 0 then b.on (fun d => d.loadFail c.1 c.2)
    else
      (b.store .dram (stageBase l.live) l.man).on (fun d =>
        ((d.updLd (fun l => { l with step := 4, since := d.cycle, next := 0, retained := l.retained && l.live })).fset
          F.HLD_STATUS_PHASE 0 3).askBody)

/-- The digest engine completes a digest (R315). -/
def Dev.digestDone (d : Dev) (dg : List Byte) (n : Nat) : Dev :=
  let d := forAll (List.range 12) (fun d k => d.rset (R.CKU_DIG_LAST + 4 * k) 0 (BitVec.ofNat 32 (beNat ((dg.drop (4 * k)).take 4)))) d
  d.cnt F.CKU_DIG_BYTES_COUNT 0 n

/-- The bytes of a staged body. -/
def Block.staged (b : Block) (live : Bool) (e : Entry) : List Byte := b.mem.read .dram (stageBase live + e.off) e.len

/-- The slices that a staged image enables: those of its last SLICE_ENABLE section. -/
def Block.imageMask (b : Block) (es : List Entry) : Nat :=
  ((applyOrder es).filter (fun e => e.typ == 1)).foldl (fun _ e => enableMask (b.staged false e)) 0

/-- The clusters that an image holds firmware for (R73). -/
def fwMask (es : List Entry) : Nat :=
  ((List.range 8).map (fun k => b2n (es.any (fun e => e.applies && e.typ == 0x60 && e.names k)) * 2 ^ k)).sum

/-- The boot apply pass starts (R41, R66): enabled slices enter STRUCTURE, the others read OFF. What a running device carried ends
(DESIGN CHOICE, log 37), its teams with it: they form anew (R252, R267). Structure registers and classifier banks start from their
reset contents, so that an absent section leaves its default (Table 02-6, R131). -/
def Block.bootApplyStart (b : Block) (mask fw : Nat) : Block :=
  let d := b.dev
  let d := forAll ((List.range 16).filter (fun s => d.forwards s)) (fun d s => d.recoverStop s) d
  let b := forAll ((List.range 16).filter (fun s => d.forwards s || bit mask s)) (fun b s => b.resetSlice s) { b with dev := d }
  let d := b.dev.restore (fun _ _ => true) (fun a => a == .rws)
  let d := { d.restore (fun r _ => r.inBlock 6) (fun a => a == .ro) with team := {} }
  let d := (d.fset F.HLD_STATUS_PHASE 0 4).updLd (fun l => { l with step := 5, since := d.cycle, done := 0, retained := true, mask := mask, fw := fw, engine := none, unit := none })
  let d := { d with life := { d.life with wide := true, isOpen := true, begun := false, kind := [], ready := [], stopped := [] } }
  let d := forAll (List.range 16) (fun d s => d.setSliceSt s (if bit mask s then stStructure else stOff)) d
  let d := forAll (List.range 64) (fun d c => d.fset F.CAR_CAL_STATUS_ACTIVE c 0) d
  let d := d.setDevSt stStructure
  forAll ((List.range 16).filter (fun s => bit mask s)) (fun b s => (b.bankInit s 0).bankInit s 1) { b with dev := d }

/-- The units that a live image names (R63): slices, then clusters, in ascending order. -/
def liveUnits (es : List Entry) : List Nat :=
  (List.range 24).filter (fun u => es.any (fun e => e.applies &&
    (if e.typ = 0x60 then decide (16 ≤ u) && e.names (u - 16) else decide (u < 16) && e.names u)))

/-- An image has passed its checks: a boot image's apply pass starts, a live image's units are handled (R63). -/
def Block.verified (b : Block) : Block :=
  let es := entries b.dev.ld.man
  if b.dev.ld.live then
    b.on (fun d => (d.fset F.HLD_STATUS_PHASE 0 4).updLd (fun l => { l with step := 6, units := liveUnits es, unit := none, waitAt := none }))
  else
    let mask := b.imageMask es
    if coverageMissing es mask then b.on (fun d => d.loadFail errMissing noSection)
    else b.bootApplyStart mask (fwMask es)

/-- BODY_STAGED (R47, R49, R52): the next body is staged and hashed, its records are checked; after the last body the image is
verified. -/
def bodyStaged (data : List Byte) (ok : Bool) (b : Block) : Block :=
  let l := b.dev.ld
  match l.entry with
  | none => b
  | some e =>
    if l.step ≠ 4 then b
    else if b.dev.fetchBad e.off e.len ok then b.on (fun d => d.loadFail errFetch e.idx)
    else
      match b.dev.fetched e.off e.len data with
      | none => b
      | some body =>
        let b := { b with dev := b.dev.digestDone (sha384 body) body.length }.dramWhole (stageBase l.live + e.off) body
        if sha384 body ≠ e.digest then b.on (fun d => d.loadFail errDigest e.idx)
        else if e.applies && !recordsOk e body then b.on (fun d => d.loadFail errBadRecord e.idx)
        else
          let b := b.on (fun d => d.updLd (fun l => { l with next := l.next + 1, since := d.cycle }))
          if l.next + 1 < hdrCount l.man then b.on (fun d => d.askBody) else b.verified

/-- FETCH_TIMEOUT (R56, R57): a flash read takes over 1 ms, a PCIe read over 10 ms. For a halter load the spec gives no limit: it
waits for the pieces that have not come, with BUSY 1 (DESIGN CHOICE, log 136). -/
def fetchTimeout (d : Dev) : Dev :=
  let l := d.ld
  if (l.step = 1 ∨ l.step = 2 ∨ l.step = 4) ∧ (l.src = 1 ∨ l.src = 2 ∨ l.src = 3) then
    (d.toCycle (l.since + (if l.src = 3 then 30000000 else 3000000))).loadFail errFetch (if l.step = 4 then l.next else noSection)
  else d

/-- HALTER_LOAD_RETRY (R55, R58): an image request that the neighbour has not served is sent again after 1 ms. -/
def halterLoadRetry (d : Dev) : Dev :=
  if d.strapWait && d.ld.src == 4 then
    let d := d.toCycle (d.ld.since + 3000000)
    (d.updLd (fun l => { l with since := d.cycle })).peerUp.imgAsk 0 128
  else d

/-- IMG_REQ (R58, R410): a piece of the retained image, while SERVE_EN is 1. -/
def imgReq (m : HMsg) (b : Block) : Block :=
  let d := b.dev
  if !d.ld.retained || !d.fon F.HLD_CTRL_SERVE_EN then b
  else
    let total := b.mem.num .dram (stageBase false + 16) 4
    let n := min 1024 (total - m.addr)
    b.on (fun d => d.send (d.mkMsg 9 m.src m.req m.tag 0 m.addr (b.mem.read .dram (stageBase false + m.addr) n)))

/-- IMG_DATA (R58, R410): a piece for the halter load that runs. -/
def imgData (m : HMsg) (d : Dev) : Dev :=
  if d.ld.src = 4 ∧ !d.ld.got.any (fun e => e.1 == m.addr) then d.updLd (fun l => { l with got := l.got ++ [(m.addr, m.payload)] })
  else d

end Sys2Proof.Machine
end

