-- ==== Sys2Proof/Machine/Reset.lean ====
section
/-! DEFINITION. Power, RESET_N, PERST_N and the start-up sequence (R72 to R75, R80), host soft reset, temperatures and thermal
shutdown (R437 to R439), the I2C sideband and JTAG (R434, R435). -/

namespace Sys2Proof.Machine

/-- Powered, RESET_N high, no thermal shutdown: the logic runs (R75, R439). -/
def Dev.running (d : Dev) : Bool := d.life.power && !d.life.low && !d.life.thermal

/-! Power and RESET_N -/

/-- HOLD pins keep their levels over a reset: the board drives them (R99). (DEDUCED, log 63.) -/
def Dev.keepPins (d : Dev) : List (Nat × HoldIn) :=
  forAll d.holdIns (fun l e =>
    if e.2.on then Sparse.set default l e.1 { (default : HoldIn) with on := true, since := d.cycle } else l) []

/-- The marks of hot stacks, as readings and TEMP_REFRESH stand (R319, Table 20-12). -/
def Dev.showHot (d : Dev) : Dev :=
  let hot (k : Nat) : Bool := decide (85 < d.fget F.SDC_STACK_STATUS_TEMP k)
  let d' := forAll (List.range 4) (fun n k => n.fset F.SDC_STACK_STATUS_HOT k (b2n (d.fon F.SDC_CFG_TEMP_REFRESH && hot k))) d
  d'.fset F.GLB_TEMP_STATUS_STACK_HOT 0 (b2n ((List.range 4).any hot))

/-- Temperatures as the sensors report them, which no reset stops (R434, R437). -/
def Dev.keepTemps (d old : Dev) : Dev :=
  let d := forAll (List.range 4) (fun d n => d.rset (R.GLB_TEMP_SLICE + 4 * n) 0 (old.rget (R.GLB_TEMP_SLICE + 4 * n))) d
  let d := (d.fset F.GLB_TEMP_MAX_DIE_C 0 (old.fget F.GLB_TEMP_MAX_DIE_C)).fset F.GLB_TEMP_MAX_STACK_C 0
    (old.fget F.GLB_TEMP_MAX_STACK_C)
  (forAll (List.range 4) (fun d k => d.fset F.SDC_STACK_STATUS_TEMP k (old.fget F.SDC_STACK_STATUS_TEMP k)) d).showHot

/-- The state of a pin reset (Table 03-5): all logic is cleared; GLB_RESET_CAUSE stays, and so do the pins. What has left the
device is no state of it: the records of frames, messages and interrupts sent go on. -/
def Dev.cleared (d : Dev) : Dev :=
  let n : Dev := {
    cycle := d.cycle
    free := d.free
    pmu := { zero := d.cycle, upTo := d.cycle }
    host := { msixOut := d.host.msixOut }
    halter := { out := d.halter.out }
    tm := { sent := d.tm.sent }
    holdIns := d.keepPins
    life := {
      power := true
      powerAt := d.life.powerAt
      low := d.life.low
      perstLow := d.life.perstLow
      perstAt := d.life.perstAt
      tempAt := d.life.tempAt
      i2c := d.life.i2c
      jtag := d.life.jtag } }
  (n.rset R.GLB_RESET_CAUSE 0 (d.rget R.GLB_RESET_CAUSE)).keepTemps d

/-- Every memory of the device emptied; the host's own memory stays. -/
def Mem.devClear (m : Mem) : Mem :=
  ((((m.clear .dram).clear .cls).clear .cluster).clear .sram |>.clear .tabs).clear .bar2

/-- POWER_ON (R75): rising rails clear everything; RESET_N is low (R428). Only the clock and the count of free values go on. -/
def powerOn (b : Block) : Block :=
  { dev := { cycle := b.dev.cycle, free := b.dev.free, pmu := { zero := b.dev.cycle, upTo := b.dev.cycle },
             life := { powerAt := b.dev.cycle, tempAt := b.dev.cycle } }
    mem := b.mem.devClear }

/-- POWER_LOSS (R429): nothing runs until a full power-up. -/
def powerLoss (b : Block) : Block :=
  { dev := { cycle := b.dev.cycle, free := b.dev.free, life := { power := false } }
    mem := b.mem.devClear }

/-- A pin reset starts (Table 03-5). -/
def Block.pinReset (b : Block) : Block :=
  { dev := b.dev.cleared.fset F.GLB_RESET_CAUSE_PIN 0 1
    mem := b.mem.devClear }

/-- RESET_N_ASSERT (R75): RESET_N goes low for at least `ns`. The filter ignores less than 2 us and passes 10 us; between them
either may happen, by a free value. In thermal shutdown a low of 10 us only counts for the way out (R439). (DEDUCED, log 67.) -/
def resetNAssert (ns : Nat) (b : Block) : Block :=
  let d := b.dev
  if !d.life.power || d.life.low || decide (ns < 2000) then b
  else if d.life.thermal then (if ns < 10000 then b else b.on (fun d => { d with life.low := true }))
  else if 10000 ≤ ns then ({ b with dev := { d with life.low := true } } : Block).pinReset
  else if (d.fresh 1).1 = 0 then { b with dev := (d.fresh 1).2 }
  else ({ b with dev := { (d.fresh 1).2 with life.low := true } } : Block).pinReset

/-- Every slice sensor and every stack reads below 95 degrees (R439). -/
def Dev.isCool (d : Dev) : Bool :=
  (List.range 16).all (fun s => decide (d.fget ⟨R.GLB_TEMP_SLICE + s / 4 * 4, s % 4 * 8, 8⟩ < 95)) &&
  (List.range 4).all (fun k => decide (d.fget F.SDC_STACK_STATUS_TEMP k < 95))

/-- RESET_N_RELEASE (R72, R439): the rising edge samples the straps and starts BOOT. In thermal shutdown it is ignored until the
device has cooled. -/
def resetNRelease (devid bootsel : Nat) (clksel : Bool) (d : Dev) : Dev :=
  if !d.life.power || !d.life.low then d
  else if d.life.thermal && !d.isCool then { d with life.low := false }
  else
    let d := { d with
      pmu := { d.pmu with zero := d.cycle, upTo := d.cycle }
      life := { d.life with low := false, thermal := false, riseAt := d.cycle, clkSel := clksel } }
    ((d.fset F.HLD_BOOT_SRC_BOOTSEL 0 bootsel).fset F.GLB_STRAPS_DEVID 0 devid).allStates stBoot

/-! Start-up (R66, R74, R80) -/

/-- A start-up failure: its GLB_BOOT_STATUS bit and ERR_ALARM.BOOT with an ALARM event (R74). -/
def Dev.bootFail (d : Dev) (f : Fld) : Dev := (d.fset f 0 1).alarm 1 f

/-- TRAIN starts when the fuses are read and all PLLs locked (Table 03-1). -/
def Dev.enterTrain (d : Dev) : Dev :=
  if d.life.fused && d.life.locked then
    { d.allStates stTrain with life := { (d.allStates stTrain).life with trips := [] } }
  else d

/-- FUSE_READ (R80): 0.05 ms after RESET_N rises; the fuses' contents come with the command. A CRC failure holds BOOT. (DESIGN CHOICE, log 41.) -/
def fuseRead (lotLo lotHi die : Nat) (drams : List Word) (key : List Word) (ok : Bool) (d : Dev) : Dev :=
  if !d.running || d.devSt != stBoot || d.life.fused || d.fon F.GLB_BOOT_STATUS_FUSE_FAIL then d
  else
    let d := d.toCycle (d.life.riseAt + 150000)
    if !ok then d.bootFail F.GLB_BOOT_STATUS_FUSE_FAIL
    else
      let d := (d.fset F.GLB_FUSE_LOT_LO_LOT 0 lotLo).fset F.GLB_FUSE_LOT_HI_LOT 0 lotHi
      let d := (d.fset F.GLB_FUSE_DIE_WAFER 0 die).fset F.GLB_FUSE_DIE_DIE_X 0 (die / 2 ^ 8)
      let d := (d.fset F.GLB_FUSE_DIE_DIE_Y 0 (die / 2 ^ 16)).fset F.GLB_FUSE_DIE_FUSE_REV 0 (die / 2 ^ 24)
      let d := forAll (List.range 4) (fun d k => d.rset (R.GLB_FUSE_STACK + 4 * k) 0 (drams.getD k 0)) d
      let d := forAll (List.range 12) (fun d k => d.rset (R.HLD_KEY_HASH + 4 * k) 0 (key.getD k 0)) d
      ({ d with life.fused := true } : Dev).enterTrain

/-- PLL_LOCK (R66, R287): the PLLs lock and the NTU starts. (DEDUCED, log 66.) -/
def pllLock (d : Dev) : Dev :=
  if !d.running || d.devSt != stBoot || d.life.locked || d.fon F.GLB_BOOT_STATUS_PLL_FAIL then d
  else ({ d with life.locked := true, ntu.run := true } : Dev).enterTrain

/-- PLL_LOCK_TIMEOUT (R74): no lock within 1 ms of the attempt's start; the third failure holds BOOT. -/
def pllLockTimeout (d : Dev) : Dev :=
  if !d.running || d.devSt != stBoot || d.life.locked || d.fon F.GLB_BOOT_STATUS_PLL_FAIL then d
  else
    let d := d.toCycle (d.life.riseAt + (d.life.pllTries + 1) * 3000000)
    let d := { d with life.pllTries := d.life.pllTries + 1 }
    if d.life.pllTries = 3 then d.bootFail F.GLB_BOOT_STATUS_PLL_FAIL else d

/-- Whether DRAM training runs. -/
def Dev.training (d : Dev) : Bool := d.running && d.devSt == stTrain && !d.fon F.GLB_BOOT_STATUS_TRAIN_FAIL

/-- DRAM_TRAINING_DONE (R66): the durations come with the command; HARNESS starts the boot load (R55). -/
def dramTrainingDone (us : List Nat) (d : Dev) : Dev :=
  if !d.training then d
  else
    let d := forAll (List.range 4) (fun d k =>
      (d.fset F.SDC_STACK_STATUS_TRAINED k 1).fset F.SDC_STACK_TRAIN_US k (us.getD k 0)) d
    (d.allStates stHarness).bootLoad

/-- TRAINING_ATTEMPT_FAIL (R74): the third failure of a stack holds TRAIN. -/
def trainingAttemptFail (k : Nat) (d : Dev) : Dev :=
  if !d.training then d
  else
    let n := Sparse.get 0 d.life.trips k + 1
    let d := { d with life.trips := Sparse.set 0 d.life.trips k n }
    let d := d.fset F.GLB_BOOT_STATUS_TRAIN_TRIES 0 (max (d.fget F.GLB_BOOT_STATUS_TRAIN_TRIES) (min n 2))
    if n < 3 then d
    else
      (d.fset F.GLB_BOOT_STATUS_STACK_FAIL 0 (2 ^ k)).bootFail F.GLB_BOOT_STATUS_TRAIN_FAIL

/-! The PCIe endpoint (R72, R75, R422) -/

/-- PERST_N_ASSERT (R75, R422): at the root the endpoint, the HDM ring and queue registers, the MSI-X table and the forwarding
of BAR accesses are cleared; queued events and the limiters stay. (DEDUCED, log 65.) -/
def perstAssert (b : Block) : Block :=
  let b := b.on (fun d => { d with life.perstLow := true })
  if !b.dev.running || !b.dev.isRoot then b
  else
    let gone (e : Nat × Word) : Bool :=
      match findReg (e.1 / 2 ^ 20) with
      | none => false
      | some r => r.kind == .dmaq || (r.kind == .ring && decide (r.off < R.HDM_EVT_RATE))
    { b with
      dev := { b.dev with
        regs := b.dev.regs.filter (fun e => !gone e)
        halter.reqs := b.dev.halter.reqs.filter (fun r => r.remote.isSome)
        host := { b.dev.host with
          cfg := [], msix := [], pcieReady := false, dma := [], intLast := [], intDue := [] } }
      mem := b.mem.clear .bar2 }

/-- PERST_N_RELEASE (R72). -/
def perstRelease (d : Dev) : Dev :=
  if d.life.perstLow then { d with life.perstLow := false, life.perstAt := d.cycle } else d

/-- PCIE_CONFIG_READY (R72): 20 ms after the later of the two releases. -/
def pcieConfigReady (d : Dev) : Dev :=
  if !d.running || d.life.perstLow || d.host.pcieReady then d
  else { d.toCycle (max d.life.riseAt d.life.perstAt + 60000000) with host.pcieReady := true }

/-! Host soft reset (R75) -/

/-- Registers that a host soft reset keeps: NTU, halter ring, host rings and events, sticky alarms, identity, straps, reset cause,
GLB_TEMP_WARN, the state it leaves, the retained image's serial, training times. (DEDUCED, log 64.) -/
def keptSoft (off : Nat) (r : RegRow) : Bool :=
  let n := blockIndex off
  n == 12 || n == 2 || r.kind == .ring || r.off == R.HDM_RING_IDX || r.off == R.ERR_ALARM || r.off == R.SDC_STACK_TRAIN ||
  r.off == R.HLD_IMAGE_SERIAL || r.off == R.HLD_BOOT_SRC || r.off == R.HLD_KEY_HASH || r.off == R.GLB_ID ||
  r.off == R.GLB_STATE || r.off == R.GLB_RESET_CAUSE || r.off == R.GLB_TEMP_WARN ||
  (n == 0 && decide (R.GLB_STRAPS ≤ off) && decide (off < R.GLB_TEMP_MAX))

/-- What a host soft reset leaves of the device. -/
def Dev.softCleared (d : Dev) : Dev :=
  let n : Dev := {
    regs := d.regs.filter (fun e => match findReg (e.1 / 2 ^ 20) with | none => false | some r => keptSoft (e.1 / 2 ^ 20) r)
    cycle := d.cycle
    free := d.free
    pmu := { zero := d.cycle, upTo := d.cycle }
    ntu := d.ntu
    integ := { crcDiff := d.integ.crcDiff.filter (fun x => decide (0x30000000 ≤ x.1) && decide (x.1 < 0x50000000)) }
    halter := { d.halter with reads := [] }
    host := { d.host with dma := [] }
    tm := { sent := d.tm.sent }
    holdIns := d.keepPins
    life := d.life
    ld := { retained := d.ld.retained } }
  let n := forAll (List.range 4) (fun n k => n.fset F.SDC_STACK_STATUS_TRAINED k (d.fget F.SDC_STACK_STATUS_TRAINED k)) (n.keepTemps d)
  let n := (n.fset F.HLD_BOOT_SRC_SLOT 0 0).fset F.GLB_RESET_CAUSE_SOFT 0 1
  let n := n.allStates stHarness
  { n with life := { n.life with isOpen := false, served := false } }

/-- HOST_SOFT_RESET (R75): the key, in HARNESS or a later state; the boot load starts again (R55). -/
def hostSoftReset (key : Nat) (b : Block) : Block :=
  let d := b.dev
  if !d.running || key != 0x00015116 || decide (d.devSt < stHarness) then b
  else
    let m := b.mem.keep .dram (fun a => decide (0x30000000 ≤ a) && decide (a < 0x50000000))
    { dev := d.softCleared.bootLoad
      mem := (((m.clear .cls).clear .cluster).clear .sram |>.clear .tabs).clear .bar2 }

/-! Temperature (R437 to R439) -/

/-- The largest of some bytes. -/
def maxByte (l : List Byte) : Nat := l.foldl (fun m b => max m b.toNat) 0

/-- TEMP_SENSOR_UPDATE (R319, R437, R438): every 100 us; the readings come with the command. The warning is part of the logic that a reset holds
(DESIGN CHOICE, log 168). -/
def tempSensorUpdate (slices drams : List Byte) (d : Dev) : Dev :=
  if !d.life.power then d
  else
    let sl := (slices ++ List.replicate 16 0).take 16
    let st := (drams ++ List.replicate 4 0).take 4
    let d := d.toCycle (d.life.tempAt + 300000)
    let d := { d with life.tempAt := d.cycle }
    let d := forAll (List.range 4) (fun d n =>
      d.rset (R.GLB_TEMP_SLICE + 4 * n) 0 (BitVec.ofNat 32 (leNat ((sl.drop (4 * n)).take 4)))) d
    let d := forAll (List.range 4) (fun d k =>
      d.fset F.SDC_STACK_STATUS_TEMP k (st.getD k 0).toNat) d
    let c := maxByte sl
    let d := (d.fset F.GLB_TEMP_MAX_DIE_C 0 c).fset F.GLB_TEMP_MAX_STACK_C 0 (maxByte st)
    let d := d.fset F.GLB_TEMP_MAX_PEAK_C 0 (max c (d.fget F.GLB_TEMP_MAX_PEAK_C))
    let d := d.showHot
    if !d.running then d
    else if d.fon F.GLB_TEMP_STATUS_WARN then
      if c < d.fget F.GLB_TEMP_WARN_CLEAR_C then d.fset F.GLB_TEMP_STATUS_WARN 0 0 else d
    else if d.fget F.GLB_TEMP_WARN_SET_C ≤ c then
      (d.fset F.GLB_TEMP_STATUS_WARN 0 1).alarm 11 F.GLB_TEMP_STATUS_WARN
    else d

/-- ALERT_N is driven low (R438). -/
def Dev.alertLow (d : Dev) : Bool := d.fon F.GLB_TEMP_STATUS_WARN && d.fon F.GLB_TEMP_WARN_ALERT_EN

/-- THERMTRIP_N is driven low (R439). -/
def Dev.thermtripLow (d : Dev) : Bool := d.life.thermal

/-- THERMAL_SHUTDOWN (R439): a sensor reached its limit; the state of a pin reset, and GLB_RESET_CAUSE.THERMAL. -/
def thermalShutdown (b : Block) : Block :=
  if !b.dev.life.power || b.dev.life.thermal then b
  else
    let d := b.dev.cleared.fset F.GLB_RESET_CAUSE_THERMAL 0 1
    { dev := { d with life := { d.life with thermal := true } }, mem := b.mem.devClear }

/-! The I2C sideband and JTAG (R434, R435) -/

/-- Where answers of the sideband and of the TAP go (DESIGN CHOICE, log 4). -/
def i2cIdx : Nat := 322
def jtagIdx : Nat := 323

/-- I2C_COMMAND_WRITE (R434): the command byte; the target answers whenever the rails are up. -/
def i2cCommandWrite (cmd : Nat) (d : Dev) : Dev := if d.life.power then { d with life.i2c := cmd } else d

/-- Answers a sideband read, with a free value where Table 20-9 calls the content not valid yet. -/
def Dev.i2cAnswer (d : Dev) (valid : Bool) (v : Word) : Dev :=
  if valid then d.answer i2cIdx v else (d.fresh 32).2.answer i2cIdx (BitVec.ofNat 32 (d.fresh 32).1)

/-- I2C_READ (R434, Table 20-9). -/
def i2cRead (d : Dev) : Dev :=
  let c := d.life.i2c
  let up := !d.life.low
  let warm := decide (d.life.powerAt + 3000000 ≤ d.cycle)
  if !d.life.power then d
  else if c = 0 then d.answer i2cIdx (if d.life.fused then d.rget R.GLB_ID else 0)
  else if c = 1 then d.i2cAnswer up (d.rget R.GLB_STATE)
  else if c = 2 then d.i2cAnswer warm (d.rget R.GLB_TEMP_MAX)
  else if c = 3 then d.i2cAnswer up (d.rget R.ERR_ALARM)
  else if c = 4 then d.answer i2cIdx (d.rget R.GLB_RESET_CAUSE)
  else if c = 5 then d.i2cAnswer warm (d.rget R.GLB_TEMP_STATUS)
  else if c = 6 then d.i2cAnswer d.life.fused (d.rget R.GLB_FUSE_DIE)
  else if c = 7 then d.i2cAnswer up (d.rget R.GLB_STRAPS)
  else d.answer i2cIdx 0

/-- JTAG_INSTRUCTION (R435): BYPASS, IDCODE and SAMPLE/PRELOAD leave the device untouched, IDCODE reads 0x251164B3. Any other
instruction is unpredictable while a slice is outside OFF; the working of any other stands in the BSDL file, which the spec does not
contain. -/
def jtagInstruction (op : JtagOp) (s : State) : Host.Outcome State Fault Refusal :=
  match op with
  | .bypass => runDev (fun d => { d with life.jtag := op }) s
  | .sample => runDev (fun d => { d with life.jtag := op }) s
  | .idcode => runDev (fun d => { d with life.jtag := op }.answer jtagIdx 0x251164B3) s
  | .other _ =>
    if (List.range 16).any (fun k => s.dev.sliceSt k != stOff) then .fault (.unpredictable 435)
    else .fault (.undescribed 435)

end Sys2Proof.Machine
end

