-- ==== Sys2Proof/Machine/Scrub.lean ====
section
/-! DEFINITION. Re-reads, refresh and the two scrubbers (R319, R321, R325, R326). -/

namespace Sys2Proof.Machine

/-- A flow slot in a failed burst is invalidated, unless its record is cached (R325). -/
def Block.flowBurst (b : Block) (a : Nat) : Block :=
  let slot := (burstOf a - b.dev.flowBase) / 64
  if b.dev.dramClass a = 0x03 ∧ b.dev.uncached slot then b.slotLost slot else b

/-- DRAM_REREAD_DONE (R321): the re-read of the burst at an address by a requester delivers its data, or is a double failure. (DEDUCED, log 58.) -/
def dramRereadDone (burst : Nat) (ok : Bool) (inst : Nat) (b : Block) : Block :=
  let a := burst % 2 ^ 36
  if ok then b.on (fun d => (d.cnt F.SDC_FIXED_CNT_COUNT).cnt F.SDC_STACK_FIXED_COUNT (a / 256 % 4))
  else (b.on (fun d => d.burstFails 1 a inst)).flowBurst a

/-- DRAM_REFRESH (R319): nothing that a program can see changes. (DEDUCED, log 131.) -/
def dramRefresh (_stack _channel : Nat) (d : Dev) : Dev := d

/-- PATROL_SCRUB_READ (R325): the next burst is read; it fails where the DRAM fails now or has failed before. -/
def patrolScrubRead (fails : Bool) (b : Block) : Block :=
  if !b.dev.fon F.SDC_CFG_SCRUB_EN then b
  else
    let n := b.dev.fget F.SDC_SCRUB_POS_BURST
    let a := n * 64
    let b := if fails || b.dev.burstBad a then (b.on (fun d => d.burstFails 3 a 0xFFFF)).flowBurst a else b
    b.on (fun d =>
      if n + 1 = 2 ^ 30 then (d.fset F.SDC_SCRUB_POS_BURST 0 0).cnt F.SDC_SCRUB_PASSES_COUNT
      else d.fset F.SDC_SCRUB_POS_BURST 0 (n + 1))

/-- The classes that the SRAM scrubber visits (Table 15-2). -/
def scrubbed (cls : Nat) : Bool := [0x14, 0x15, 0x16, 0x17, 0x18, 0x19, 0x1A, 0x1B, 0x1F, 0x20].contains cls

/-- The read-and-clear fields of a register's element restart from 0 (Table 15-2, class 0x20). -/
def Dev.zeroCounts (d : Dev) (off inst : Nat) : Dev :=
  match findReg off with
  | none => d
  | some r => forAll (r.fields.filter (fun f => f.acc == .rc)) (fun d f => d.fset ⟨off, f.lo, f.w⟩ inst 0) d

/-- A counter word that fails parity restarts from 0. The spec numbers no word of the counters: below 0x8000 lie the statistics, from 0x1000000
on the classifier's counters, between them the counter registers at their offset / 4 (DESIGN CHOICE, log 42). -/
def Block.countZero (b : Block) (inst addr : Nat) : Block :=
  let b := b.on (fun d => d.wordsGood 0x20 addr 1)
  if addr < 0x8000 then b.on (fun d => { d with tm.stats := Sparse.set 0 d.tm.stats addr 0 })
  else if addr < 0x1000000 then b.on (fun d => d.zeroCounts ((addr - 0x8000) * 4) inst)
  else
    let i := addr - 0x1000000
    b.store .cls (cntAt (i / 0x2000) (i % 0x2000 / 2) + 8 * (i % 2)) (toLe 8 0)

/-- The top entry that a DETAIL of class 0x18 names (Table 15-4). -/
def detailTop (detail : List Byte) : LeafKey :=
  let a := leNat (detail.take 4)
  let v6 := bit (leNat ((detail.drop 4).take 1)) 0
  ⟨leNat ((detail.drop 6).take 2) % 4096, v6, some (if v6 then a else a / 65536)⟩

/-- The outcome of a parity failure that a scrubber finds (Table 15-2). What the outcome itself writes anew is good again. -/
def Block.scrubOutcome (b : Block) (cls inst addr : Nat) (detail : List Byte) : Block :=
  if cls = 0x14 then
    b.on (fun d =>
      let d := d.wordsGood 0x14 addr 1
      let n := (d.dom addr).held.length
      let d := d.updDom addr (fun x => { x with synced := false, sync := none, held := [], holes := [] })
      if n = 0 then d else d.cnt F.TEM_RESYNC_DROP_COUNT (addr / 4096) n)
  else if cls = 0x18 then
    b.on (fun d =>
      let k := detailTop detail
      { d with fwd.topAt := d.fwd.topAt.filter (fun x => x.1 != k) ++ [(k, addr)] })
  else if cls = 0x1B then b.on (fun d => (d.recover (inst % 16) 2).wordsGood 0x1B addr 1)
  else if cls = 0x1F then b.on (fun d => d.bufQuarantine (addr / 2 ^ 20 % 8) (addr % 2 ^ 20))
  else if cls = 0x20 then b.countZero inst addr
  else b

/-- SRAM_SCRUB_READ (R326): a word of a scrubbed class is read; a failure takes the class outcome at once. A word of the flow cache is read by
the cache pass (Table 15-2), which takes the outcome of its line. A word of class 0x1F is a buffer by its key (DESIGN CHOICE, log 42). -/
def sramScrubRead (cls inst addr : Nat) (detail : List Byte) (fails : Bool) (b : Block) : Block :=
  if cls = 0x11 ∨ cls = 0x12 then
    if b.dev.fon F.FLW_CFG_SCAN_EN ∧ (fails ∨ b.dev.wordBad 0x11 addr) then (b.on (fun d => d.markWord 0x11 addr)).lineFails addr else b
  else if !b.dev.fon F.ERR_SCRUB_CTRL_EN || !scrubbed cls then b
  else if !(fails || b.dev.wordBad cls addr) then b
  else (b.on (fun d => d.parityFail cls inst addr detail (cls == 0x1B))).scrubOutcome cls inst addr detail

end Sys2Proof.Machine
end

