-- ==== Sys2Proof/Machine/RegMisuse.lean ====
section
/-! DEFINITION. Register accesses that the chapters list under "Unpredictable cases" with no effect of their own (R6, R16):
each is named by its rule. -/

namespace Sys2Proof.Machine

/-- Whether a number lies outside a range. -/
def outside (n lo hi : Nat) : Bool := decide (n < lo) || decide (hi < n)

/-- A HOLD selection that names no input and is not 63 (R98). -/
def badHold (n : Nat) : Bool := decide (32 ≤ n) && decide (n < 63)

/-- The rule of the first test that holds. -/
def firstBad (l : List (Bool × Nat)) : Option Nat := (l.find? (fun x => x.1)).map (fun x => x.2)

/-- Misuse by a value in GLB, HDM, PRT, CAR, TEM: clearing the hold of a cluster without firmware, a changed
configuration of a running queue or ring, values outside the ranges of R86, R88, R98, R270, R275, R278, R263. A PRT_MODE or CAR_CFG
that breaks R83 is unpredictable too, but only as a whole carve: a commanded one is stored (DESIGN CHOICE, log 140). -/
def badPorts (d : Dev) (off i : Nat) (v : Word) : Option Nat :=
  if off = R.GLB_CLUSTER_HOLD then
    firstBad [((List.range 8).any (fun k => d.clusterHeld k && !bit v.toNat k && !bit d.ld.fw k), 76)]
  else if off = R.GLB_TEMP_WARN then
    firstBad [(decide (fv v F.GLB_TEMP_WARN_SET_C ≤ fv v F.GLB_TEMP_WARN_CLEAR_C), 438)]
  else if off = R.HDM_Q_CFG then
    firstBad [(d.fon F.HDM_Q_CFG_ENABLE i && bit v.toNat 0 && d.rget off i != v &&
      bits (d.rget off i).toNat 1 19 != bits v.toNat 1 19, 412)]
  else if off = R.HDM_RING_CFG then
    firstBad [(d.fon F.HDM_RING_CFG_ENABLE i && bit v.toNat 0 && bits (d.rget off i).toNat 1 6 != bits v.toNat 1 6, 416)]
  else if off = R.HDM_Q_TAIL then
    firstBad [(decide (2 ^ d.fget F.HDM_Q_CFG_SIZE i ≤ fv v F.HDM_Q_TAIL_INDEX), 413)]
  else if off = R.HDM_EVT_RATE then
    firstBad [(i == 0 && (fv v F.HDM_EVT_RATE_PER_MS == 0 || fv v F.HDM_EVT_RATE_BURST == 0), 418)]
  else if off = R.PRT_MAC_CFG then
    firstBad [(badHold (fv v F.PRT_MAC_CFG_HOLD_SEL), 98), (outside (fv v F.PRT_MAC_CFG_MAX_FRAME) 1518 12288, 86)]
  else if off = R.PRT_RX_CAP then firstBad [(outside (fv v F.PRT_RX_CAP_KIB) 1 112, 88)]
  else if off = R.CAR_HOLD_CFG then firstBad [(badHold (fv v F.CAR_HOLD_CFG_SEL), 98)]
  else if off = R.CAR_RC_CFG then
    firstBad [(!(decide (fv v F.CAR_RC_CFG_TRIG_SEL < 16) || fv v F.CAR_RC_CFG_TRIG_SEL == 63) ||
      fv v F.CAR_RC_CFG_TRIG_WIDTH_NS == 0, 278)]
  else if off = R.CAR_RC_LEAD then firstBad [(decide (10000 < fv v F.CAR_RC_LEAD_US), 275)]
  else if off = R.CAR_RC_ADVANCE then firstBad [(decide (1000000 < fv v F.CAR_RC_ADVANCE_NS), 278)]
  else if off = R.CAR_RC_CTRL then firstBad [(fv v F.CAR_RC_CTRL_MEMBER_OP == 3, 270)]
  else if off = R.TEM_GAP_WAIT then firstBad [(decide (5000 < fv v F.TEM_GAP_WAIT_US), 263)]
  else if off = R.TEM_TEAM_SKEW then firstBad [(decide (4000 < fv v F.TEM_TEAM_SKEW_SKEW_US), 263)]
  else none

/-- Misuse by a value in SLC, FLW, FWD, XPF: reserved codes and values outside the ranges of R109, R113, R123, R125,
R145, R175, R189, R215, R218. -/
def badTables (d : Dev) (q off : Nat) (v : Word) : Option Nat :=
  if off = R.SLC_PARSE_LIMIT then
    firstBad [(outside (fv v F.SLC_PARSE_LIMIT_MAX_HDRS) 1 16 || outside (fv v F.SLC_PARSE_LIMIT_MAX_BYTES) 8 40, 109)]
  else if off = R.SLC_FAIL_ACT then
    firstBad [(fv v F.SLC_FAIL_ACT_MAL_ACT == 3 || fv v F.SLC_FAIL_ACT_PL_ACT == 3, 113)]
  else if off = R.SLC_UDP_PORTS then
    firstBad [(fv v F.SLC_UDP_PORTS_VXLAN == 0 || fv v F.SLC_UDP_PORTS_GENEVE == 0, 109)]
  else if R.SLC_DEFACT ≤ off ∧ off < R.SLC_DEFACT + 32 then
    firstBad [((List.range 4).any (fun k => bits v.toNat (8 * k) 2 == 3), 71)]
  else if R.CLS_KEY_EXT ≤ off ∧ off < R.CLS_KEY_EXT + 64 then
    let n := v.toNat
    firstBad [(bits n 0 2 == 3 || (bits n 0 2 == 1 && decide (11 < bits n 2 4)) || bits n 24 2 == 3 ||
      decide (48 < bits n 18 6 + bits n 14 4 + 1), 123)]
  else if off = R.CLS_BANK_SIZE then firstBad [(outside (fv v F.CLS_BANK_SIZE_SHARE0) 2 14, 125)]
  else if off = R.FLW_PROF_CFG then firstBad [(fv v F.FLW_PROF_CFG_VRF_SRC == 3, 145)]
  else if (R.FLW_OP_KEY ≤ off ∧ off < R.FLW_OP_CTRL) ∨ off = R.FLW_OP_SLOT then
    firstBad [(d.fon F.FLW_OP_STATUS_BUSY q, 171)]
  else if off = R.FWD_SRAM_SPLIT then
    let a := fv v F.FWD_SRAM_SPLIT_L2_MIB
    let b := fv v F.FWD_SRAM_SPLIT_LPM_TOP_MIB
    firstBad [(outside a 8 16 || outside b 8 16 || a + b != 24, 175)]
  else if off = R.XPF_MC_CAP then firstBad [(decide (3072 < fv v F.XPF_MC_CAP_CELLS), 215)]
  else if off = R.XPF_MC_CFG then firstBad [(decide (1000 < fv v F.XPF_MC_CFG_RESIDUE_WAIT_US), 218)]
  else none

/-- Misuse by a value in TMG and NTU: ranges of R223, R229, R231, R241, R286, R299, R303. -/
def badTime (d : Dev) (q off i : Nat) (v : Word) : Option Nat :=
  if off = R.TMG_STORE_RATE then firstBad [(decide (12800 < fv v F.TMG_STORE_RATE_GBPS), 241)]
  else if off = R.TMG_POLP_CFG then
    firstBad [(decide (10 < fv v F.TMG_POLP_CFG_UNIT) || fv v F.TMG_POLP_CFG_YELLOW_ACT == 3, 229)]
  else if off = R.TMG_Q_GUAR then
    firstBad [(!d.fon F.TMG_Q_CFG_GUAR_MODE i && decide (1600000 < fv v F.TMG_Q_GUAR_RATE), 223)]
  else if off = R.TMG_Q_CFG then
    firstBad [(fv v F.TMG_Q_CFG_GUAR_MODE == 0 && decide (1600000 < d.fget F.TMG_Q_GUAR_RATE i), 223)]
  else if off = R.TMG_Q_BOUND then firstBad [(outside (fv v F.TMG_Q_BOUND_NS) 1000 100000000, 223)]
  else if off = R.TMG_GATE_CTRL then
    firstBad [(bits v.toNat 0 2 == 1 && !d.fon F.TMG_GATE_STATUS_PENDING i &&
      (outside (d.gateLen i 1) 1 1024 || outside (d.gateCycle i 1) 1000 999999999 ||
        (List.range (min 1024 (d.gateLen i 1))).any (fun n => bits (d.rget (gateOff i 1 n)).toNat 8 24 == 0)), 231)]
  else if off = R.NTU_INCR_LO then
    let hi := match Sparse.get none d.staged (regKey R.NTU_INCR_HI q) with
      | some w => w.toNat % 256
      | none => d.fget F.NTU_INCR_HI_INCR
    firstBad [(outside (hi * 2 ^ 32 + v.toNat) 0x554A692173 0x5560418937, 286)]
  else if off = R.NTU_SET_NS ∨ off = R.NTU_TRIG_START_NS then
    firstBad [(decide (999999999 < bits v.toNat 0 30), 290)]
  else if off = R.NTU_PPS_CFG then
    firstBad [(outside (fv v F.NTU_PPS_CFG_WIDTH_US) 1 999999 ||
      decide (1000000000 < d.fget F.NTU_PPS_OFFSET_NS + 1000 * fv v F.NTU_PPS_CFG_WIDTH_US), 303)]
  else if off = R.NTU_PPS_OFFSET then
    firstBad [(decide (1000000000 < bits v.toNat 0 30 + 1000 * d.fget F.NTU_PPS_CFG_WIDTH_US), 303)]
  else if off = R.NTU_TRIG_CTRL then
    firstBad [(bits v.toNat 0 2 == 1 && (d.fget F.NTU_TRIG_WIDTH_NS i == 0 ||
      (d.fget F.NTU_TRIG_PERIOD_NS i != 0 &&
        decide (d.fget F.NTU_TRIG_PERIOD_NS i ≤ d.fget F.NTU_TRIG_WIDTH_NS i))), 299)]
  else none

/-- The event codes that are assigned: thread events (Table 18-2), pipeline events (Table 18-3). -/
def thrCode (n : Nat) : Bool := decide (n < 0x0C) || (decide (0x10 ≤ n) && decide (n < 0x1A))
def plCode (n : Nat) : Bool := decide (n < 0x14)

/-- Misuse by a value in CKU, BPM, DRV, PMU and SDC (R309, R310, R325, R356, R319, R387, R395 to R398). -/
def badCores (d : Dev) (off i : Nat) (v : Word) : Option Nat :=
  if off = R.CKU_ENG_CFG then
    if d.fon F.CKU_ENG_CFG_ENABLE i then none
    else firstBad [(fv v F.CKU_ENG_CFG_ALG == 3, 309), (outside (fv v F.CKU_ENG_CFG_BLOCK) 1 256 ||
      (fv v F.CKU_ENG_CFG_SRC_KIND == 1 && decide (63 < fv v F.CKU_ENG_CFG_SRC)), 310)]
  else if off = R.DRV_CHAN_CFG then
    firstBad [(bit v.toNat 0 && decide (i < 240) &&
      decide (2 ^ 20 < fv v F.DRV_CHAN_CFG_BASE * 64 + 64 * 2 ^ fv v F.DRV_CHAN_CFG_DEPTH), 356)]
  else if off = R.PMU_PL_CFG then firstBad [(!plCode (fv v F.PMU_PL_CFG_EVENT), 396)]
  else if off = R.PMU_CCNT_CFG then firstBad [(!thrCode (fv v F.PMU_CCNT_CFG_EVENT), 395)]
  else if off = R.PMU_SMP_CFG then
    firstBad [(!thrCode (fv v F.PMU_SMP_CFG_EVENT), 395), (bit v.toNat 0 && decide (d.fget F.PMU_SMP_N_N i < 64), 397)]
  else if off = R.PMU_SMP_N then firstBad [(d.fon F.PMU_SMP_CFG_EN i && decide (fv v F.PMU_SMP_N_N < 64), 397)]
  else if off = R.PMU_SMP_RD then
    firstBad [(decide ((at0 d.pmu.smp i).fill <
      (fv v F.PMU_SMP_RD_INDEX + 1024 - d.fget F.PMU_SMP_RD_INDEX i) % 1024), 398)]
  else if off = R.SDC_CFG then
    firstBad [(bit v.toNat 0 && outside (d.fget F.SDC_SCRUB_RATE_GBPS) 1 64, 325),
      (!bit v.toNat 1 && (List.range 4).any (fun k => d.fon F.SDC_STACK_STATUS_HOT k), 319)]
  else if off = R.SDC_SCRUB_RATE then
    firstBad [(d.fon F.SDC_CFG_SCRUB_EN && outside (fv v F.SDC_SCRUB_RATE_GBPS) 1 64, 325)]
  else none

/-- Misuse by the value of a register write. -/
def badValue (d : Dev) (q off i : Nat) (v : Word) : Option Nat :=
  match blockIndex off with
  | 7 => badTables d q off v
  | 8 => badTables d q off v
  | 9 => badTables d q off v
  | 10 => badTables d q off v
  | 11 => badTime d q off i v
  | 12 => badTime d q off i v
  | 13 => badCores d off i v
  | 15 => badCores d off i v
  | 17 => badCores d off i v
  | 18 => badCores d off i v
  | _ => badPorts d off i v

/-- Whether a port, slice or lane is one that the image enables: no part of a slice that is OFF. -/
def Dev.portLives (d : Dev) (p : Nat) : Bool := d.sliceSt (p / 32) != stOff

/-- Misuse by a select or index value beyond the range that the image enables (R14 and the chapters' lists): an element of
a slice that is OFF, a lane beyond the port's, a member beyond the team's or a team not formed, an input beyond 8, a
unit beyond 32. (DEDUCED, log 106.) -/
def badSelect (d : Dev) (k : Kind) (i : Nat) : Option Nat :=
  let off (s : Nat) : Bool := d.sliceSt s == stOff
  let team (t : Nat) : Bool := !d.teamOn t && d.fget F.GLB_STATE_DEV != stStructure
  match k with
  | .port => firstBad [(off (i / 32), 14)]
  | .nport => firstBad [(off (i / 32), 14)]
  | .cport => firstBad [(off (i / 32), 14)]
  | .tport => firstBad [(off (i / 32), 14)]
  | .tclass => firstBad [(off (i / 256), 14)]
  | .lane => firstBad [(off (i / 256), 14), (decide (2 ^ d.fget F.PRT_MODE_LANES (i / 8) ≤ i % 8), 14)]
  | .slice => firstBad [(off (i % 16), 14)]
  | .xp => firstBad [(off (i / 16), 14)]
  | .plcnt => firstBad [(off (i / 64), 14)]
  | .team => firstBad [(team i, 269)]
  | .domain => firstBad [(team (i / 4096), 269)]
  | .member => firstBad [(team (i / 16), 269),
      (d.teamOn (i / 16) && decide (d.teamCount (i / 16) ≤ i % 16), 269)]
  | .cap => firstBad [(decide (8 < i), 301)]
  | .unit => firstBad [(decide (32 < i), 329)]
  | _ => none

end Sys2Proof.Machine
end

