-- ==== Sys2Proof/Machine/RegFile.lean ====
section
/-! DEFINITION. The register file as requesters reach it (R8 to R14, R41): which element an access means, which fields a write
changes, when structure-locked fields are open, the pairs of R10. -/

namespace Sys2Proof.Machine

/-! Which registers are reached -/

/-- Blocks that are open before the first boot image is applied (R41). -/
def openBlocks : List Nat := [0, 1, 2, 3, 12, 19]

/-- Whether a read reaches a window offset (R41). -/
def Dev.readable (d : Dev) (off : Nat) : Bool :=
  d.running && (d.life.isOpen || (decide (off < 0x3000000) && openBlocks.contains (blockIndex off)))

/-- Whether a write, or an operation that a write starts, reaches a window offset: the NTU block is writable from the end of BOOT (R41,
R304). -/
def Dev.reachable (d : Dev) (off : Nat) : Bool :=
  d.readable off && (blockIndex off != 12 || d.fget F.GLB_STATE_DEV != 0)

theorem Dev.readable_of_reachable {d : Dev} {off : Nat} (h : d.reachable off = true) : d.readable off = true := by
  simp [Dev.reachable] at h; exact h.1

/-- The slice that a requester's SLICE_SEL of the block of an offset chooses. -/
def Dev.sliceSel (d : Dev) (q off : Nat) : Nat :=
  match blockIndex off with
  | 7 => d.fget F.SLICE_SEL_SLC_SLICE q
  | 8 => d.fget F.SLICE_SEL_FLW_SLICE q
  | 9 => d.fget F.SLICE_SEL_FWD_SLICE q
  | _ => d.fget F.SLICE_SEL_XPF_SLICE q

/-- The element whose register an access of requester q means (R14): its select and index registers choose it. (DEDUCED, log 98.) -/
def Dev.instOf (d : Dev) (q off : Nat) (k : Kind) : Nat :=
  match k with
  | .dev => 0
  | .req => q
  | .dmaq => d.fget F.HDM_Q_IDX_QUEUE q
  | .ring => d.fget F.HDM_RING_IDX_RING q
  | .port => d.fget F.PORT_SEL_PRT_PORT q
  | .lane => d.fget F.PORT_SEL_PRT_PORT q * 8 + d.fget F.PRT_LANE_IDX_IDX q
  | .carrier => d.fget F.CAR_SEL_CARRIER q
  | .team => d.fget F.TEAM_SEL_TEAM q
  | .member => d.fget F.TEAM_SEL_TEAM q * 16 + d.fget F.TEM_MEMBER_IDX_MEMBER q
  | .domain => d.fget F.TEAM_SEL_TEAM q * 4096 + d.fget F.TEM_DOM_IDX_DOMAIN q
  | .slice => d.sliceSel q off
  | .prof => d.fget F.FLW_PROF_IDX_IDX
  | .xp => d.sliceSel q off * 16 + d.fget F.XPF_XP_IDX_INGRESS q
  | .polp => d.fget F.TMG_POLP_IDX_PROFILE q
  | .tport => d.fget F.TMG_PORT_IDX_PORT q
  | .tclass => d.fget F.TMG_PORT_IDX_PORT q * 8 + d.fget F.TMG_CLASS_IDX_CLASS q
  | .queue => d.fget F.QUEUE_SEL_QUEUE q
  | .trig => d.fget F.NTU_TRIG_IDX_OUTPUT q
  | .cap => d.fget F.NTU_CAP_IDX_INPUT q
  | .nport => d.fget F.PORT_SEL_NTU_PORT q
  | .eng => d.fget F.CKU_ENG_IDX_ENGINE q
  | .cport => d.fget F.PORT_SEL_CKU_PORT q
  | .pool => d.fget F.POOL_SEL_POOL q
  | .chan => d.fget F.DRV_CHAN_IDX_CHANNEL q
  | .dcluster => d.fget F.THREAD_SEL_DRV_THREAD q / 32
  | .thread => d.fget F.THREAD_SEL_DRV_THREAD q
  | .kind => d.fget F.STB_KIND_IDX_KIND q
  | .group => d.fget F.STB_GROUP_IDX_GROUP q
  | .scluster => d.fget F.CLUSTER_SEL_CLUSTER q
  | .plcnt => d.fget F.PMU_SLICE_IDX_SLICE q * 64 + d.fget F.PMU_PL_IDX_COUNTER q
  | .ccnt => d.fget F.THREAD_SEL_PMU_THREAD q / 8 * 8 + d.fget F.PMU_CCNT_IDX_COUNTER q
  | .pcluster => d.fget F.THREAD_SEL_PMU_THREAD q / 32
  | .pthread => d.fget F.THREAD_SEL_PMU_THREAD q
  | .stack => d.fget F.SDC_STACK_IDX_STACK q
  | .unit => d.fget F.ERR_UNIT_IDX_UNIT q

/-! Structure-locked fields (R8, R12, R13) -/

/-- The slice that an rws register belongs to; none where it belongs to the device (R13). -/
def rwsSlice (off i : Nat) : Option Nat :=
  if off = R.PRT_MODE then some (i / 32)
  else if [R.SLC_PARSE_EN, R.SLC_PARSE_LIMIT, R.SLC_TPID_ALT, R.SLC_UDP_PORTS].contains off ||
      (decide (R.SLC_DEFACT ≤ off) && decide (off < R.SLC_DEFACT + 32)) ||
      (decide (R.CLS_KEY_EXT ≤ off) && decide (off < R.CLS_KEY_EXT + 64)) then some (i % 16)
  else none

/-- Whether the live sections of the unit in STRUCTURE cover an rws register of its slice (R12): PORT_CARVE covers PRT_MODE. -/
def Dev.liveCovers (d : Dev) (s off : Nat) : Bool :=
  off == R.PRT_MODE && d.ld.live && (entries d.ld.man).any (fun e => e.applies && e.typ == 0x10 && e.names s)

/-- Whether the rws fields of a register take a write (R13). -/
def Dev.rwsOpen (d : Dev) (off i : Nat) : Bool :=
  match rwsSlice off i with
  | none => d.devSt == stStructure
  | some s => d.sliceSt s == stStructure && (d.kindOf s != 2 || d.liveCovers s off)

/-- Whether a row has structure-locked fields. -/
def RegRow.locked (r : RegRow) : Bool := r.fields.any (fun f => f.acc == .rws)

/-- A write that R12 calls unpredictable: an rws register that the live sections applied to its slice do not cover. -/
def Dev.badLive (d : Dev) (r : RegRow) (off i : Nat) : Bool :=
  match rwsSlice off i with
  | none => false
  | some s => r.locked && d.sliceSt s == stStructure && d.kindOf s == 2 && !d.liveCovers s off

/-! Writes field by field -/

/-- The bits that a write leaves in a field, if it changes them (Table 00-3). -/
def RegField.taken (f : RegField) (opn : Bool) (old v : Nat) : Option Nat :=
  match f.acc with
  | .rw => some (bits v f.lo f.w)
  | .rws => if opn then some (bits v f.lo f.w) else none
  | .w1c => some (bits old f.lo f.w &&& (2 ^ f.w - 1 - bits v f.lo f.w))
  | .ro => none
  | .wo => none
  | .rc => none

/-- The word that a write leaves in a register. -/
def RegRow.merge (r : RegRow) (opn : Bool) (old v : Word) : Word :=
  BitVec.ofNat 32 (r.fields.foldl (fun (a : Nat) (f : RegField) =>
    match f.taken opn old.toNat v.toNat with
    | some x => setBits a f.lo f.w x
    | none => a) old.toNat)

/-- Writes a register of an element under its access codes. -/
def Dev.putReg (d : Dev) (r : RegRow) (off i : Nat) (v : Word) : Dev :=
  d.rset off i (r.merge (d.rwsOpen off i) (d.rget off i) v)

/-! Pairs (R10) -/

/-- Offsets of the _LO registers that stand alone. -/
def loOffsets : List Nat := [
  R.GLB_SLICE_STATE_LO, R.GLB_SLICE_CAUSE_LO, R.GLB_FUSE_LOT_LO, R.HLD_SRC_ADDR_LO, R.HLD_LIVE_ERR_LO, R.HTR_PRESENT_LO,
  R.HDM_Q_CPL_LO, R.HDM_RING_BASE_LO, R.HDM_RING_WB_LO, R.CAR_SW_TIME_SEC_LO, R.CAR_MF_NEXT_SEC_LO, R.CAR_RC_TIME_SEC_LO,
  R.CAR_RC_TSW_SEC_LO, R.TEM_PROBE_MAC_LO, R.TEM_DELIV_LO, R.CLS_SWAP_TIME_SEC_LO, R.FLW_PROF_MASK_LO, R.FWD_L2_OP_KEY_LO,
  R.TMG_GATE_ADMIN_BASE_SEC_LO, R.TMG_GATE_CHANGE_SEC_LO, R.NTU_INCR_LO, R.NTU_ADJ_LO, R.NTU_SET_SEC_LO, R.NTU_NOW_SEC_LO,
  R.NTU_TRIG_START_SEC_LO, R.NTU_CAP_SEC_LO, R.CKU_ENG_LAST_LO, R.PMU_PL_LO, R.PMU_CCNT_LO, R.ERR_Q_NONEMPTY_LO]

/-- Whether an offset is the _LO register of a pair: the list above, the router MACs, the thread counters. -/
def isLo (off : Nat) : Bool :=
  loOffsets.contains off ||
  (decide (R.FWD_RMAC ≤ off) && decide (off < R.FWD_RMAC + 128) && off % 8 == 0) ||
  (decide (R.PMU_THR_SLOTS_LO ≤ off) && decide (off ≤ R.PMU_THR_INACTIVE_HI) && off % 8 == 0)

/-- Whether an offset is the _HI register of a pair. -/
def isHi (off : Nat) : Bool := decide (4 ≤ off) && isLo (off - 4)

/-- The copy that a requester has staged of a _HI register. -/
def Dev.stagedOf (d : Dev) (q off : Nat) : Option Word := Sparse.get none d.staged (regKey off q)

/-- Stages, or forgets, a requester's copy of a _HI register. -/
def Dev.setStaged (d : Dev) (q off : Nat) (v : Option Word) : Dev := { d with staged := Sparse.set none d.staged (regKey off q) v }

/-- The copy that a requester holds of a register. -/
def Dev.heldOf (d : Dev) (q off : Nat) : Option Word := Sparse.get none d.hold (regKey off q)

/-- Holds, or drops, a requester's copy of a register. -/
def Dev.setHeldOf (d : Dev) (q off : Nat) (v : Option Word) : Dev := { d with hold := Sparse.set none d.hold (regKey off q) v }

/-- Writes a register as R10 states: a _HI write is staged, a _LO write commits both halves; a structure-locked register that
takes no write (R13) stages nothing and commits nothing. -/
def Dev.pairWrite (d : Dev) (r : RegRow) (q off i : Nat) (v : Word) : Dev :=
  let shut := r.locked && !d.rwsOpen off i
  if isHi off then (if shut then d else d.setStaged q off (some v))
  else if isLo off then
    if shut then d
    else
      let d := match d.stagedOf q (off + 4), findReg (off + 4) with
        | some w, some h => (d.putReg h (off + 4) i w).setStaged q (off + 4) none
        | _, _ => d
      d.putReg r off i v
  else d.putReg r off i v

end Sys2Proof.Machine
end

