-- ==== Sys2Proof/Machine/RegHooks.lean ====
section
/-! DEFINITION. What a register write does beside the bits it stores: writes that a rule ignores, accounts that are brought up
to date before a rate changes, and the commands that written fields give. -/

namespace Sys2Proof.Machine

/-! Writes that a rule ignores -/

/-- Whether a write of a register is ignored, and the counter that the rule names for it (R158, R163, R231, R272, R356, R365). -/
def Dev.ignores (d : Dev) (off i : Nat) (v : Word) : Option (Option (Fld × Nat)) :=
  let max (f : Fld) (n : Nat) : Option (Option (Fld × Nat)) := if n < fv v f then some none else none
  let cnt (c : Bool) (f : Fld) (k : Nat) : Option (Option (Fld × Nat)) := if c then some (some (f, k)) else none
  if R.CAR_RC_TIME_NS ≤ off ∧ off ≤ R.CAR_RC_TIME_SEC_HI then cnt (d.fon F.CAR_RC_STATUS_ARMED i) F.CAR_CAL_REFUSED_COUNT i
  else if R.TMG_GATE_ADMIN_LEN ≤ off ∧ off < R.TMG_GATE_CTRL then
    cnt (d.fon F.TMG_GATE_STATUS_PENDING i) F.TMG_GATE_REFUSED_COUNT i
  else if off = R.FLW_DEV_BUDGET then max F.FLW_DEV_BUDGET_RATE 6000
  else if off = R.FLW_INS_RATE then max F.FLW_INS_RATE_RATE 200
  else if off = R.FLW_SCAN_RATE then max F.FLW_SCAN_RATE_RATE 200
  else if off = R.DRV_CHAN_CFG then
    cnt (d.fon F.DRV_CHAN_CFG_ENABLE i && decide (0 < (d.chan i).vis + (d.chan i).com.length)) F.DRV_REFUSED_COUNT 0
  else if off = R.NTU_ADJ_LO then cnt d.adjTaken F.NTU_ADJ_IGNORED_COUNT 0
  else if off = R.DBG_GPR ∨ off = R.DBG_PC then cnt (!d.isHalted i) F.DRV_REFUSED_COUNT 0
  else none

/-! Before a rate changes, what it filled is settled (R447) -/

/-- A cluster's DRAM account under a new rate: what it holds stays, and a wait that is still to end is stretched to the new
rate. (DEDUCED, log 99.) -/
def Dev.settleDram (d : Dev) (k new : Nat) : Dev :=
  let rate := d.fget F.DRV_CL_DRAM_RATE_GBPS k
  let later (c : Nat) : Nat := if d.cycle < c then d.cycle + upDiv ((c - d.cycle) * rate) (max 1 new) else c
  let d := { d with drv.accts := upd0 d.drv.accts k (fun (a : Acct) =>
      if d.cycle < a.since then { a with since := later a.since } else a.settle 12288 rate d.cycle) }
  forAll (clusterThreads k) (fun d t => d.updThr t (fun x =>
    { x with dramAt := later x.dramAt, posted := x.posted.map (fun p => { p with since := later p.since }) })) d

/-- What is brought up to date before a write of a register. -/
def Dev.preWrite (d : Dev) (off i : Nat) (v : Word) : Dev :=
  let c := d.cycle
  let rate (f : Fld) (k : Nat) : Nat := d.fget f k
  if off = R.HDM_EVT_RATE then
    { d with host.limiter := upd0 d.host.limiter i (fun (a : Acct) =>
        a.settle (rate F.HDM_EVT_RATE_BURST i * evtToken) (rate F.HDM_EVT_RATE_PER_MS i) c) }
  else if off = R.PRT_MAC_CFG then (d.settleDc i).maxChanges i (fv v F.PRT_MAC_CFG_MAX_FRAME)
  else if off = R.FLW_DEV_BUDGET then
    let r := rate F.FLW_DEV_BUDGET_RATE 0
    { d with
      flow.devRd := d.flow.devRd.settle (1024 * acctUnit) r c
      flow.devWr := d.flow.devWr.settle (1024 * acctUnit) r c }
  else if off = R.FLW_INS_RATE then { d with flow.ins := d.flow.ins.settle (64 * acctUnit) (rate F.FLW_INS_RATE_RATE 0) c }
  else if off = R.FLW_SLICE_BUDGET then
    let r := rate F.FLW_SLICE_BUDGET_RATE i
    d.updSl i (fun (x : SliceSt) =>
      { x with rdAcct := x.rdAcct.settle (64 * acctUnit) r c, wrAcct := x.wrAcct.settle (64 * acctUnit) r c })
  else if off = R.FWD_LEAF_BUDGET then
    d.updSl i (fun (x : SliceSt) => { x with fwdAcct := x.fwdAcct.settle (64 * acctUnit) (rate F.FWD_LEAF_BUDGET_RATE i) c })
  else if off = R.FWD_LEAF_DEV_BUDGET then
    { d with fwd.leafDev := d.fwd.leafDev.settle (1024 * acctUnit) d.leafRate c }
  else if off = R.TMG_STORE_RATE then
    { d with
      tm.store := d.tm.store.settle storeCap (rate F.TMG_STORE_RATE_GBPS 0) c
      team.spill := d.team.spill.settle storeCap d.spillGbps c }
  else if off = R.NTU_INCR_LO then d.ntuMark
  else if off = R.DRV_CL_DRAM_RATE then d.settleDram i (fv v F.DRV_CL_DRAM_RATE_GBPS)
  else if off = R.TMG_CLS_SHAPE_RATE ∨ off = R.TMG_CLS_SHAPE_BURST then d.settleShapers (i / 8)
  else if off = R.TMG_PORT_QCFG then d.settleShapers i
  else if [R.TMG_Q_CFG, R.TMG_Q_GUAR, R.TMG_Q_SHAPE_RATE, R.TMG_Q_SHAPE_BURST].contains off then d.settleShapers (d.portOf i)
  else if off = R.PMU_CTRL then pmuFreeze (bit v.toNat 0) d
  else if off = R.PMU_PL_CFG then d.plSettle
  else if off = R.PMU_CCNT_CFG then forAll ((List.range 8).map (fun t => i / 8 * 8 + t)) (fun d t => d.settle t) d
  else if off = R.PMU_SMP_CFG ∨ off = R.PMU_SMP_N ∨ off = R.PMU_SMP_TMASK then forAll (clusterThreads i) (fun d t => d.settle t) d
  else d

/-! Registers whose write is one operation -/

/-- The write of GLB_CLUSTER_HOLD: each bit that changes holds or releases its cluster (R76). -/
def Dev.holdWrite (d : Dev) (v : Word) : Dev :=
  forAll (List.range 8) (fun d k => if bit v.toNat k then clusterHoldSet k d else clusterRelease k d) d

/-- The write of CAR_HOLD_POL: an input whose polarity changes is sampled the other way round (R98). (DEDUCED, log 114.) -/
def Dev.polWrite (d : Dev) (v : Word) : Dev :=
  let old := d.rget R.CAR_HOLD_POL
  forAll (List.range 32) (fun d n =>
    if bit old.toNat n == bit v.toNat n then d
    else if bit (d.rget R.CAR_HOLD_PIN).toNat n then holdRelease n d
    else holdAssert n d) (d.rset R.CAR_HOLD_POL 0 v)

/-- Writes that are carried out as a whole by their operation, not field by field. -/
def Dev.wholeWrite (d : Dev) (r : Req) (off i : Nat) (v : Word) : Option Dev :=
  if off = R.GLB_CLUSTER_HOLD then some (d.holdWrite v)
  else if off = R.HLD_CTRL then some (d.hldCtrl v.toNat)
  else if off = R.CAR_HOLD_MASK then some (holdMaskWrite v d)
  else if off = R.CAR_HOLD_POL then some (d.polWrite v)
  else if off = R.CAR_CAL_ENTRY then some (calEntryWrite (r == .loader) i (fv v F.CAR_CAL_ENTRY_ENTRY) d)
  else if off = R.CKU_ENG_CFG then some (engineCfgWrite i v d)
  else if off = R.PMU_SMP_RD then some (smpRdWrite i (fv v F.PMU_SMP_RD_INDEX) d)
  else none

/-! Commands that written fields give -/

/-- Runs a change for each set bit of a word, lowest first. -/
def bitsOf (v : Word) (n : Nat) (f : Nat → Dev → Dev) (d : Dev) : Dev :=
  forAll (List.range n) (fun d k => if bit v.toNat k then f k d else d) d

/-- ARM (bit 0) and CANCEL (bit 1) of a control register; both together are neither, and count where a counter is named
(R448). (DEDUCED, log 96.) -/
def armCancel (v : Word) (arm cancel both : Dev → Dev) (d : Dev) : Dev :=
  match bits v.toNat 0 2 with
  | 1 => arm d
  | 2 => cancel d
  | 3 => both d
  | _ => d

/-- Hooks of GLB, HTR, HDM and ERR registers. -/
def Dev.hookHost (d : Dev) (r : Req) (off i : Nat) (v : Word) : Dev :=
  let q := reqIdx r
  if off = R.GLB_STRUCT_REL then bitsOf v 16 structRelease d
  else if off = R.GLB_SERVICE_REQ then bitsOf v 16 serviceRequest d
  else if off = R.GLB_TEST_REQ then bitsOf v 16 testRequest d
  else if off = R.GLB_SLICE_RESET then bitsOf v 16 sliceReset d
  else if off = R.HTR_CFG then d.portsEnabled
  else if off = R.HTR_RMT_CTRL then
    (if bit v.toNat 0 then remoteOp q (fv v F.HTR_RMT_CTRL_DEVID) (bit v.toNat 1) d else d)
  else if off = R.ERR_SW_EVENT then softwareEvent r (fv v F.ERR_SW_EVENT_CLASS) (fv v F.ERR_SW_EVENT_CODE) d
  else if off = R.ERR_Q_CTRL then (if bit v.toNat 0 then errPop i d else d)
  else d

/-- The write of CAR_RC_LEAD: ramps of the carrier's armed change start anew or later (R275). (DEDUCED, log 123.) -/
def Dev.leadWritten (was d : Dev) (c : Nat) : Dev :=
  match (d.car c).rc with
  | none => d
  | some rc => forAll rc.ports (fun d y => d.evalPort y.1) (Dev.rampMark was d)

/-- Hooks of PRT, CAR and TEM registers; `was` is the device before the write. -/
def Dev.hookPorts (was d : Dev) (off i : Nat) (v : Word) : Dev :=
  let old := was.rget off i
  if off = R.PRT_MAC_CFG then
    let on := bit v.toNat 0
    let d := if fv old F.PRT_MAC_CFG_HOLD_SEL ≠ fv v F.PRT_MAC_CFG_HOLD_SEL ∧ d.isEth i then
        d.reselect i (fv v F.PRT_MAC_CFG_HOLD_SEL) else d
    let d := if bit old.toNat 0 && !on then d.portDownAny i
      else if !bit old.toNat 0 && on then
        let d := d.updPt i (fun (x : PortSt) => { x with enAt := d.cycle })
        if d.isClient i && d.fon F.CAR_STATUS_UP (d.carrierOf i) then d.clientsFollow (d.carrierOf i) else d
      else d
    if fv old F.PRT_MAC_CFG_MAX_FRAME ≠ fv v F.PRT_MAC_CFG_MAX_FRAME then d.evalPort i else d
  else if off = R.CAR_HOLD_CFG then
    (if fv old F.CAR_HOLD_CFG_SEL ≠ fv v F.CAR_HOLD_CFG_SEL then d.reselect (512 + i) (fv v F.CAR_HOLD_CFG_SEL) else d)
  else if off = R.CAR_CAL_CTRL then
    armCancel v (calSwitchArm i) (calSwitchCancel i) (fun d => d.cnt F.CAR_CAL_REFUSED_COUNT i) d
  else if off = R.CAR_RC_CTRL then armCancel v (rcArm i) (rcCancel i) (fun d => d.cnt F.CAR_CAL_REFUSED_COUNT i) d
  else if off = R.CAR_RC_LEAD then Dev.leadWritten was d i
  else if off = R.TEM_MBR_CTRL then
    let d := if bit v.toNat 0 then memberDrain i d else d
    if bit v.toNat 1 then memberRestore i d else d
  else if off = R.TEM_TEAM_CTRL then
    let d := if bit v.toNat 0 then teamResync i d else d
    if bit v.toNat 1 then teamTxReset i d else d
  else d

/-- Hooks of SLC, FLW and FWD registers. (DESIGN CHOICE, log 103.) -/
def Block.hookTables (b : Block) (q off i : Nat) (v : Word) : Block :=
  let go := bit v.toNat 0
  let s := b.dev.sliceSel q off
  if off = R.CLS_BANK_SIZE then b.bankResized i
  else if off = R.CLS_STAGE_CTRL then
    b.on (fun d =>
      let d := if bit v.toNat 0 then clsSeal i d else d
      if bit v.toNat 1 then clsUnseal i d else d)
  else if off = R.CLS_CTRL then
    let b := if bit v.toNat 0 then b.on (clsRelease i) else b
    if bit v.toNat 1 then clsCounterClear i b else b
  else if off = R.CLS_SWAP_CTRL then
    b.on (armCancel v (clsSwapArm i) (clsSwapCancel i) (fun d => d.cnt F.CLS_REFUSED_COUNT i))
  else if off = R.CLS_UPD_CTRL then (if go then b.on (clsUpdateGo s q) else b)
  else if off = R.FLW_OP_CTRL then
    (if go ∧ 1 ≤ fv v F.FLW_OP_CTRL_OP ∧ fv v F.FLW_OP_CTRL_OP ≤ 5 then b.opGo q (fv v F.FLW_OP_CTRL_OP) else b)
  else if off = R.FWD_L2_OP_CTRL then
    (if !go then b else
      match fv v F.FWD_L2_OP_CTRL_OP with
      | 1 => l2OpInsert q s b
      | 2 => l2OpDelete q s b
      | 3 => l2OpLookup q s b
      | 4 => l2OpFlush q s b
      | _ => b)
  else if off = R.FWD_LPM_OP_CTRL then
    (if !go then b else
      match fv v F.FWD_LPM_OP_CTRL_OP with
      | 0 => lpmOpAdd q b
      | 1 => lpmOpDelete q b
      | 2 => lpmOpLookup q b
      | _ => lpmOpMatch q b)
  else if off = R.FWD_MPLS_OP_CTRL then
    (if !go then b else
      match fv v F.FWD_MPLS_OP_CTRL_OP with
      | 0 => mplsOpWrite q b
      | 1 => mplsOpClear q b
      | 2 => mplsOpRead q b
      | _ => b)
  else b

/-- A leaf's guaranteed rate or ENABLE was written (R227, R238): a lowering keeps the old mode and value at the scheduler for the packets
that are queued; a leaf without rate or ENABLE is not selectable. -/
def Dev.guarWritten (d old : Dev) (q : Nat) : Dev :=
  let p := d.portOf q
  let was := old.gAt q (old.rp p)
  let d := if d.gAt q (d.rp p) < was ∧ !(d.lq q).pkts.isEmpty then
      d.updLq q (fun (l : LeafSt) => { l with
        low := l.low ++ [((old.fon F.TMG_Q_CFG_GUAR_MODE q, old.fget F.TMG_Q_GUAR_RATE q), d.tm.nextId)] })
    else d
  let d := if d.qOn q && d.gSch p q != 0 then d else d.clearHead q
  d.evalPort p

/-- What an ARM of a cycle is done anew with (R291): each kind's element, its status register, and the ARM. -/
def armAgain (kind i : Nat) (d : Dev) : Dev :=
  match kind with
  | 0 => trigArm i d
  | 1 => calSwitchArm i d
  | 2 => rcArm i d
  | _ => clsSwapArm i d

/-- The status register of an armed element. -/
def armStatus (kind : Nat) : Nat := [R.NTU_TRIG_STATUS, R.CAR_CAL_STATUS, R.CAR_RC_STATUS, R.CLS_SWAP_STATUS].getD kind 0

/-- An element as it stood before its ARM, but for what the status register before it shows. -/
def Dev.unarm (d : Dev) (kind i : Nat) : Dev :=
  match kind with
  | 1 => d.updCar i (fun x => { x with sw := none })
  | 2 => d.updCar i (fun x => { x with rc := none, trig := none, rx := none, sw := if (x.rc.map (fun r => r.calSw)).getD false then none else x.sw })
  | 3 => d.updSl i (fun x => { x with swapAt := none, swapT := none })
  | _ => d

/-- A correction of the NTU. The ARMs of its cycle, in whatever order they came, find the time that it gives (R291). -/
def corrected (f : Dev → Dev) (d : Dev) : Dev :=
  let arms := if d.ntu.armsAt = d.cycle then d.ntu.arms else []
  let n := f d
  if n.ntu.total = d.ntu.total then n
  else
    let n : Dev := { n with ntu := { n.ntu with arms := [] } }
    forAll arms (fun n a => armAgain a.1 a.2.1 ((n.rset (armStatus a.1) a.2.1 a.2.2).unarm a.1 a.2.1)) n

/-- Hooks of TMG and NTU registers; `old` is the device before the write. -/
def Block.hookTime (b : Block) (old : Dev) (q off i : Nat) (v : Word) : Block :=
  let go := bit v.toNat 0
  if off = R.TMG_POL_CTRL then
    (if !go then b else if bit v.toNat 1 then b.on (polRead q) else polAssign q b)
  else if off = R.TMG_GATE_CTRL then
    b.on (armCancel v (gateArm i) (gateCancel i) (fun d => d.cnt F.TMG_GATE_REFUSED_COUNT i))
  else if off = R.TMG_Q_CFG ∨ off = R.TMG_Q_GUAR then b.on (fun d => d.guarWritten old i)
  else if off = R.TMG_Q_BOUND then b.on (fun d => (Dev.rampMark old d).evalPort (d.portOf i))
  else if off = R.TMG_Q_SHAPE_RATE ∨ off = R.TMG_Q_SHAPE_BURST then b.on (fun d => d.evalPort (d.portOf i))
  else if off = R.TMG_CLS_SHAPE_RATE ∨ off = R.TMG_CLS_SHAPE_BURST then b.on (fun d => d.evalPort (i / 8))
  else if off = R.TMG_PORT_HOLD_ALLOW ∨ off = R.TMG_PORT_QCFG then b.on (fun d => d.evalPort i)
  else if off = R.NTU_CTRL then
    b.on (fun d =>
      let d := if bit v.toNat 0 then corrected ntuSet d else d
      if bit v.toNat 1 then corrected ntuForceStep d else d)
  else if off = R.NTU_ADJ_LO then b.on (corrected ntuCorrection)
  else if off = R.TMG_CFG then
    (if bit v.toNat 0 && !old.fon F.TMG_CFG_SAMPLE_EN then b.on (fun d => { d with tm.sampleAt := d.cycle }) else b)
  else if off = R.NTU_INCR_LO then b.on Dev.followNtu
  else if off = R.NTU_TRIG_CTRL then b.on (armCancel v (trigArm i) (trigCancel i) (fun d => d))
  else b

/-- Hooks of BPM, DRV, STB and PMU registers. -/
def Block.hookCores (b : Block) (r : Req) (off i : Nat) (v : Word) : Block :=
  let go := bit v.toNat 0
  if off = R.BPM_OP_CTRL then (if go then b.on (bpmOp r (fv v F.BPM_OP_CTRL_OP)) else b)
  else if off = R.BPM_POOL_LOW ∨ off = R.BPM_POOL_HIGH then b.on (fun d => d.poolMarks i)
  else if off = R.DRV_CHAN_FLUSH then (if go then b.on (channelFlush i) else b)
  else if off = R.THREAD_CTRL then (if go then b.on (threadStart i) else b)
  else if off = R.DBG_CTRL then
    let b := if bit v.toNat 0 then b.on (debugHalt i) else b
    let b := if bit v.toNat 1 then b.on (debugResume i) else b
    let b := if bit v.toNat 2 then debugStep i b else b
    if bit v.toNat 3 then b.on (debugChdiscard i) else b
  else if off = R.THREAD_CFG then b.on (fun d => d.stallWatch i)
  else if off = R.DBG_GPR then b.on (fun d => d.setGr i (d.fget F.DBG_GPR_IDX_REG (reqIdx r)) v)
  else if off = R.STB_POST_CTRL then
    (if !go then b else
      match fv v F.STB_POST_CTRL_OP with
      | 0 => stbPost r (fv v F.STB_POST_CTRL_DELAY) b
      | 1 => b.on (stbCancel r)
      | 2 => b.on (stbVoid r)
      | _ => b)
  else if off = R.PMU_CTRL then
    (if bit v.toNat 1 then b.on pmuClear else b)
  else if off = R.SDC_CFG then b.on Dev.showHot
  else b

/-- What a write of a register does beside its bits: `old` is the device before it. -/
def Block.hook (b : Block) (r : Req) (old : Dev) (off i : Nat) (v : Word) : Block :=
  let q := reqIdx r
  match blockIndex off with
  | 0 => if off = R.GLB_SOFT_RESET then hostSoftReset v.toNat b else b.on (fun d => d.hookHost r off i v)
  | 1 => b
  | 2 => b.on (fun d => d.hookHost r off i v)
  | 3 => b
  | 4 => b.on (fun d => Dev.hookPorts old d off i v)
  | 5 => b.on (fun d => Dev.hookPorts old d off i v)
  | 6 => b.on (fun d => Dev.hookPorts old d off i v)
  | 7 => b.hookTables q off i v
  | 8 => b.hookTables q off i v
  | 9 => b.hookTables q off i v
  | 10 => b
  | 11 => b.hookTime old q off i v
  | 12 => b.hookTime old q off i v
  | 19 => b.on (fun d => d.hookHost r off i v)
  | _ => b.hookCores r off i v

end Sys2Proof.Machine
end

