-- ==== Sys2Proof/Machine/Windows.lean ====
section
/-! DEFINITION. The indirect windows at 0x300_0000 and above (Tables 06-9, 08-7, 10-6, 18-8, R333). -/

namespace Sys2Proof.Machine

/-! The DRAM window (R333) -/

/-- The DRAM byte that an offset of the DRAM window means. -/
def Dev.dramWinAddr (d : Dev) (q off : Nat) : Nat := d.fget F.SDC_WIN_BASE_BASE q * 0x400000 + (off - 0x3C00000)

/-- Key of a staged word of the DRAM window. -/
def dramWordKey (q a : Nat) : Nat := regKey (2 ^ 40 + a) q

/-- A word of the DRAM window: a burst that fails its check sets CRC_ERR, and the data then read are free (DESIGN CHOICE, log 2). -/
def dramWinRead (q off : Nat) (b : Block) : Word × Block :=
  let a := b.dev.dramWinAddr q off
  if b.dev.burstBad a then
    let b := (b.on (fun d => (d.burstFails 1 a 0).fset F.SDC_WIN_STATUS_CRC_ERR q 1)).flowBurst a
    (BitVec.ofNat 32 (b.dev.fresh 32).1, b.on (fun d => (d.fresh 32).2))
  else (BitVec.ofNat 32 (b.mem.num .dram a 4), b)

/-- DRAM_WINDOW_COMMIT (R333): the last word of a burst takes the staged words with it; the others come from DRAM, and a burst that
fails its check abandons the commit, with the outcome of its class (R322). -/
def dramWinCommit (q a : Nat) (v : Word) (b : Block) : Block :=
  let first := burstOf a
  let staged (i : Nat) : Option Word := Sparse.get none b.dev.words (dramWordKey q (first + 4 * i))
  let whole := (List.range 15).all (fun i => (staged i).isSome)
  let bytes := ((List.range 15).map (fun i => match staged i with
    | some w => toLe 4 w.toNat
    | none => b.mem.read .dram (first + 4 * i) 4)).flatten ++ toLe 4 v.toNat
  let b := b.on (fun d => { d with words := (List.range 15).foldl (fun (m : List (Nat × Option Word)) i =>
    Sparse.set none m (dramWordKey q (first + 4 * i)) none) d.words })
  if whole then (b.dramWhole first bytes).scrubFree (b.dev.dramClass first) first
  else
    let r := b.dramMerge first bytes 0
    if r.1 then r.2 else (r.2.flowBurst first).on (fun d => d.fset F.SDC_WIN_STATUS_WR_ABORT q 1)

/-- A write of a word of the DRAM window: staged for the requester, or the commit of its burst. -/
def dramWinWrite (q off : Nat) (v : Word) (b : Block) : Block :=
  let a := b.dev.dramWinAddr q off
  if a % 64 = 60 then dramWinCommit q a v b
  else b.on (fun d => { d with words := Sparse.set none d.words (dramWordKey q a) (some v) })

/-- A commit that the list of ch 15 calls unpredictable: while a slice is in SERVICE, into the loader's area, FLOW, PKT, or LPM
bursts other than rewrite records. -/
def Dev.badWindow (d : Dev) (q off : Nat) : Bool :=
  let a := d.dramWinAddr q off
  decide (0x3C00000 ≤ off) && a % 64 == 60 && (List.range 16).any (fun s => d.sliceSt s == stService) &&
  ((decide (fwBase ≤ a) && decide (a < fwBase + fwWindow)) || decide (d.flowBase ≤ a) || d.dramClass a == 0x04)

/-! The classifier, table, gate and sampler windows -/

/-- A 32-bit write renews half of a classifier word: a failing one is good again, its record freed, once both halves have been written
(R323, R328; DEDUCED, log 60). -/
def Block.halfWritten (b : Block) (w : Nat) (hi : Bool) : Block :=
  if !b.dev.wordBad 0x15 w then b
  else if b.dev.integ.halves.contains (w, !hi) then
    (b.on (fun d => { d with integ.halves := d.integ.halves.filter (fun x => x.1 != w) })).scrubFree 0x15 w
  else b.on (fun d => { d with integ.halves := (w, hi) :: d.integ.halves.filter (fun x => x.1 != w) })

/-- STAGED_BANK_WRITE (R130): a word of the staged bank; taken writes of both its halves repair a 64-bit word (R328). -/
def stagedBankWrite (s o : Nat) (v : Word) (b : Block) : Block :=
  let k := b.dev.stagedBank s
  let st := b.dev.bankSt s k
  let taken := !(st == bkSealed || st == bkActive || st == bkDraining) && decide (o + 4 ≤ b.dev.bankSize s k)
  let b := b.stageWrite s o (toLe 4 v.toNat)
  if taken then b.halfWritten (b.dev.clsWord s k (o / 8)) (o % 8 == 4) else b

/-- A write into the gate-list window (Table 10-6): the operating list and a pending administrative list refuse it. -/
def gateWrite (off : Nat) (v : Word) (d : Dev) : Dev :=
  let p := (off - 0x3800000) / 8192
  let admin := (off - 0x3800000) / 4096 % 2 == 1
  if admin && !d.fon F.TMG_GATE_STATUS_PENDING p then d.rset off 0 v else d.cnt F.TMG_GATE_REFUSED_COUNT p

/-- A write into a window. -/
def Block.winWrite (b : Block) (q off : Nat) (v : Word) : Block :=
  if off < 0x3100000 then stagedBankWrite (b.dev.sliceSel q R.SLICE_SEL_SLC) (off - 0x3000000) v b
  else if off < 0x3400000 then b
  else if off < 0x3600000 then tableEntryWrite q off v b
  else if off < 0x3800000 then b
  else if off < 0x3C00000 then b.on (gateWrite off v)
  else if off < 0x4000000 then dramWinWrite q off v b
  else b

/-- A word that a requester holds from an earlier read, or what a read gives. -/
def Block.orHeld (b : Block) (q off : Nat) (f : Block → Word × Block) : Word × Block :=
  match b.dev.heldOf q off with
  | some w => (w, b.on (fun d => d.setHeldOf q off none))
  | none => f b

/-- A word of a sampler record (R398). -/
def Dev.smpWord (d : Dev) (o : Nat) : Word :=
  let s := at0 d.pmu.smp (o / 0x4000)
  wordOf (leNat (((Sparse.get [] s.buf (o % 0x4000 / 16)).drop (o % 16)).take 4))

/-- A read of a window word; a table word that fails parity is recorded and reads free bits (DESIGN CHOICE, log 2). -/
def Block.winRead (b : Block) (q off : Nat) : Word × Block :=
  let s := b.dev.sliceSel q R.SLICE_SEL_SLC
  let tab (b : Block) : Word × Block :=
    let r := b.tabBad 0xFFFF off 4
    if r.1 then (BitVec.ofNat 32 (r.2.dev.fresh 32).1, r.2.on (fun d => (d.fresh 32).2))
    else (BitVec.ofNat 32 (b.mem.num .tabs off 4), r.2)
  if off < 0x3200000 then b.clsWindowRead s (off - 0x3000000)
  else if off < 0x3210000 then
    b.orHeld q off (fun b =>
      if off % 16 = 0 then clsCounterRead q s (off - 0x3000000) b
      else (BitVec.ofNat 32 (b.clsWindow s (off - 0x3000000)), b))
  else if off < 0x3300000 then (0, b)
  else if off < 0x3320000 then (b.dev.smpWord (off - 0x3300000), b)
  else if off < 0x3400000 then (0, b)
  else if off < 0x3600000 then (if (tabEntry off).isSome then tab b else (0, b))
  else if off < 0x3640000 then (b.on Dev.beginAll).orHeld q off (fun b =>
      if off % 8 = 0 then ((statCounterRead q off b.dev).1, b.on (fun d => (statCounterRead q off d).2))
      else (b.dev.statWord (off - statBase), b))
  else if off < 0x3800000 then (0, b)
  else if off < 0x3C00000 then (b.dev.rget off, b)
  else if off < 0x4000000 then dramWinRead q off b
  else (0, b)

end Sys2Proof.Machine
end

