-- ==== Sys2Proof/Machine/RegAccess.lean ====
section
/-! DEFINITION. Register reads and writes of every requester (R8 to R14, R41), with all that an access does. -/

namespace Sys2Proof.Machine

/-! Reads -/

/-- What is brought up to date before a read of a register. -/
def Dev.preRead (d : Dev) (off i : Nat) : Dev :=
  if off = R.PRT_HOLD_NS then d.settleHolds i
  else if off = R.XPF_RES_STALL then d.settleStall i
  else if off = R.CAR_HOLD_NS then d.settleHold (512 + i)
  else if off = R.PMU_PL_LO ∨ off = R.PMU_PL_HI then d.plSettle
  else if off = R.PMU_CCNT_LO ∨ off = R.PMU_CCNT_HI then
    forAll ((List.range 8).map (fun t => i / 8 * 8 + t)) (fun d t => d.settle t) d
  else if R.PMU_THR_SLOTS_LO ≤ off ∧ off ≤ R.PMU_THR_INACTIVE_HI then d.settle i
  else if off = R.PMU_SMP_WR ∨ off = R.PMU_SMP_FILL then forAll (clusterThreads i) (fun d t => d.settle t) d
  else d

/-- Whether a lane runs: it is one of an Ethernet port's in a slice that is in operation. -/
def Dev.laneRuns (d : Dev) (i : Nat) : Bool :=
  d.isEth (i / 8) && decide (i % 8 < 2 ^ d.fget F.PRT_MODE_LANES (i / 8)) && d.forwards (i / 256)

/-- Whether a lane's PRBS checker runs on a sequence. -/
def Dev.prbsOn (d : Dev) (i : Nat) : Bool :=
  d.laneRuns i && d.fon F.PRT_LANE_CTRL_PRBS_CHK i && decide (d.fget F.PRT_LANE_CTRL_PRBS_SEL i ∈ [1, 2, 3])

/-- Fields whose value the analog parts give, or that the spec gives a value only in a state that does not hold: free values
(DESIGN CHOICE, log 2). (DESIGN CHOICE, log 100.) (DEDUCED, log 101.) -/
def Dev.freeRead (d : Dev) (off i : Nat) (v : Word) : Option Nat :=
  if off = R.PRT_LANE_STATUS then (if d.laneRuns i then some (if d.prbsOn i then 0xFF0F else 0xFF07) else none)
  else if off = R.PRT_LANE_PRBS_ERR then (if d.prbsOn i then some 0xFFFFFFFF else none)
  else if off = R.PRT_FEC_CORR then (if d.fon F.PRT_STATUS_FEC_LOCK i ∨ v ≠ 0 then some 0xFFFFFFFF else none)
  else if off = R.DBG_GPR ∨ off = R.DBG_STAGE then (if d.isHalted i then none else some 0xFFFFFFFF)
  else none

/-- Clears the rc fields of a register after a read (R8). -/
def Dev.clearRc (d : Dev) (r : RegRow) (off i : Nat) : Dev :=
  let m := r.accMask (fun a => a == .rc)
  if m = 0 then d
  else
    let d := d.rset off i (d.rget off i &&& ~~~(BitVec.ofNat 32 m))
    if off = R.BPM_POOL_MIN then { d with minSeen := d.minSeen.filter (fun p => p != i) } else d

/-- A read of a register (R8, R10): a held copy answers it, or the register does; a _LO read holds its _HI half. -/
def Dev.readReg (d : Dev) (r : RegRow) (q off i : Nat) : Word × Dev :=
  match d.heldOf q off with
  | some w => (w, d.setHeldOf q off none)
  | none =>
    let d := d.preRead off i
    let v := d.view q off i
    let f : Word × Dev := match d.freeRead off i v with
      | some m => (BitVec.ofNat 32 ((d.fresh 32).1 &&& m), (d.fresh 32).2)
      | none => (v, d)
    let d := if isLo off then f.2.setHeldOf q (off + 4) (some (f.2.view q (off + 4) i)) else f.2
    (f.1, d.clearRc r off i)

/-- An access of a wrong alignment (R9): counted by the host interface. -/
def Dev.badAccess (d : Dev) : Dev := if d.running then d.cnt F.HDM_BAD_ACCESS_COUNT else d

/-- What an access to the FLW or FWD block finds brought up to date: their waiting operations (R171, R190); one to the STB block the delay list (R375). -/
def Block.atTables (b : Block) (off : Nat) : Block :=
  if blockIndex off = 8 then b.flowOps else if blockIndex off = 9 then b.on (fun d => d.lpmAnswers)
  else if R.STB_CFG ≤ off ∧ off ≤ R.STB_STUCK_CNT then b.on Dev.ticked else b

/-- A read of CAR_RC_TSW_NS captures both seconds registers for the requester (R271). -/
def Dev.tswHold (d : Dev) (q i : Nat) : Dev :=
  let take (d : Dev) (off : Nat) : Dev := d.holdFor q off (d.view q off i).toNat
  take (take d R.CAR_RC_TSW_SEC_LO) R.CAR_RC_TSW_SEC_HI

/-- A register read by requester q at a window offset. -/
def Block.regRead (b : Block) (q off : Nat) : Word × Block :=
  if off % 4 ≠ 0 then (0, b.on (fun d => d.badAccess))
  else if !b.dev.readable off then (0, b)
  else if 0x3000000 ≤ off then b.winRead q off
  else
    match findReg off with
    | none => (0, b)
    | some r =>
      let b := (b.atTables off).on Dev.beginAll
      let d := b.dev
      let i := d.instOf q off r.kind
      let x : Word × Dev :=
        if off = R.CAR_CAL_ENTRY then calEntryRead i d
        else if off = R.CAR_MF_NEXT_NS then mfNextRead q i d
        else if off = R.CAR_RC_TSW_NS then (d.view q off i, d.tswHold q i)
        else if off = R.CLS_RULES then (wordOf (b.ruleCount i), d)
        else if off = R.NTU_NOW_NS then ntuNowRead q d
        else if off = R.NTU_CAP_NS then captureRead q i d
        else d.readReg r q off i
      (x.1, { b with dev := x.2 })

/-! Writes -/

/-- A register write by a requester at a window offset. -/
def Block.regWrite (b : Block) (r : Req) (off : Nat) (v : Word) : Block :=
  let q := reqIdx r
  if off % 4 ≠ 0 then b.on (fun d => d.badAccess)
  else if !b.dev.reachable off then b
  else if 0x3000000 ≤ off then b.winWrite q off v
  else
    match findReg off with
    | none => b
    | some row =>
      let b := (b.atTables off).on Dev.beginAll
      let d := b.dev
      let i := d.instOf q off row.kind
      let v := if off = R.ERR_ALARM then d.keepAlarms v else v
      match d.ignores off i v with
      | some (some c) => b.on (fun d => d.cnt c.1 c.2)
      | some none => b
      | none =>
        match d.wholeWrite r off i v with
        | some d => { b with dev := d }
        | none =>
          let d := d.preWrite off i v
          let b := { b with dev := d.pairWrite row q off i v }
          if isHi off then b else b.hook r d off i v

/-! Misuse (R6, R12, R14, R16) -/

/-- The rule of the unpredictable case that an access names, if it names one: an element beyond what the image enables, an rws
register that a live application does not cover, a value outside its range, a window write into a running table. -/
def Dev.misuse (d : Dev) (q off : Nat) (v : Option Word) : Option Nat :=
  if off % 4 ≠ 0 ∨ !(if v.isSome then d.reachable off else d.readable off) then none
  else if 0x3000000 ≤ off then (if v.isSome && d.badWindow q off then some 333 else none)
  else
    match findReg off with
    | none => none
    | some row =>
      let i := d.instOf q off row.kind
      match badSelect d row.kind i with
      | some n => some n
      | none =>
        match v with
        | none => none
        | some v =>
          if d.badLive row off i then some 12
          else if (d.ignores off i v).isSome || (row.locked && !d.rwsOpen off i && !row.fields.any (fun f => f.acc == .rw)) then none
          else badValue d q off i v

end Sys2Proof.Machine
end

