-- ==== Sys2Proof/Machine/Apply.lean ====
section
/-! DEFINITION. The apply passes: a boot image's (R48, R50, R53, R59), a recovering slice's (R59, R79), a live image's units
(R63, R64). -/

namespace Sys2Proof.Machine

/-! Records (R47, R48) -/

/-- Index of the loader among the requesters. -/
def loaderQ : Nat := reqIdx .loader

/-- The loader's select and index registers. FLW_PROF_IDX is shared by all requesters and keeps its value. -/
def loaderSelects : List Nat := [
  R.HDM_Q_IDX, R.HDM_RING_IDX, R.PORT_SEL_PRT, R.PRT_LANE_IDX, R.CAR_SEL, R.CAR_CAL_IDX, R.TEAM_SEL, R.TEM_MEMBER_IDX,
  R.TEM_DOM_IDX, R.SLICE_SEL_SLC, R.SLICE_SEL_FLW, R.SLICE_SEL_FWD, R.SLICE_SEL_XPF, R.XPF_XP_IDX, R.QUEUE_SEL,
  R.TMG_PORT_IDX, R.TMG_CLASS_IDX, R.TMG_POL_IDX, R.TMG_POLP_IDX, R.PORT_SEL_NTU, R.NTU_TRIG_IDX, R.NTU_CAP_IDX, R.PORT_SEL_CKU,
  R.CKU_ENG_IDX, R.POOL_SEL, R.THREAD_SEL_DRV, R.DRV_CHAN_IDX, R.CLUSTER_SEL, R.STB_KIND_IDX, R.STB_GROUP_IDX, R.THREAD_SEL_PMU,
  R.PMU_SLICE_IDX, R.PMU_PL_IDX, R.PMU_CCNT_IDX, R.SDC_STACK_IDX, R.ERR_UNIT_IDX, R.DBG_GPR_IDX, R.DBG_STAGE_IDX]

/-- What a body is applied to (R48). -/
inductive Target where
  | device
  | slice (s : Nat)
  | cluster (k : Nat)
  deriving DecidableEq, Repr

/-- The loader's selects at the start of a body (R48). -/
def Dev.bodySelects (d : Dev) (t : Target) : Dev :=
  let d := forAll loaderSelects (fun d off => d.rset off loaderQ 0) d
  match t with
  | .device => d
  | .slice s =>
    forAll [R.SLICE_SEL_SLC, R.SLICE_SEL_FLW, R.SLICE_SEL_FWD, R.SLICE_SEL_XPF] (fun d off => d.rset off loaderQ (BitVec.ofNat 32 s)) d
  | .cluster k => d.rset R.CLUSTER_SEL loaderQ (BitVec.ofNat 32 k)

/-- Writes bytes word by word through a window. -/
def Block.bulkBytes (b : Block) (off : Nat) (data : List Byte) : Block :=
  forAll (List.range (data.length / 4)) (fun b k => b.winWrite loaderQ (off + 4 * k) (wordOf (leNat ((data.drop (4 * k)).take 4)))) b

/-- The effect of a record (Table 02-5). -/
def Block.applyRec (b : Block) (r : Rec) : Block :=
  match r with
  | .reg off v => b.regWrite .loader off (wordOf v)
  | .bulk off data => b.bulkBytes off data
  | .dramw off data => (Block.dramBytes (data.length / 64 + 2) (fwBase + off) data 0 b).2

/-- The rule of the unpredictable case that a record is (R48, R54), if it is one. -/
def Rec.bad (r : Rec) (d : Dev) (e : Entry) : Option Nat :=
  let far (s : Nat) : Bool := e.sec.any (fun t => t.scope == .slice) && e.target != 2 ^ s
  match r with
  | .reg off v =>
    if off = R.PORT_SEL_PRT ∧ far (v % 512 / 32) then some 48
    else if off = R.QUEUE_SEL ∧ far (d.portOf (v % 65536) / 32) then some 48
    else none
  | .bulk _ _ => none
  | .dramw off data => if off < fwWindow ∨ d.fwSize < off + data.length then some 54 else none

/-! Sections -/

/-- An apply pass under way: the block, the section whose digest fails, the rule of an unpredictable record, the place reached in
the bytes of the pass. -/
structure Pass where
  b : Block
  fail : Option Nat := none
  bad : Option Nat := none
  pos : Nat := 0
  deriving DecidableEq, Repr

/-- What is left of a pass to do now: the bytes after `done` up to `upto`; `last` tells that the pass ends here. -/
structure Span where
  live : Bool
  done : Nat
  upto : Nat
  last : Bool
  deriving DecidableEq, Repr

/-- Applies a record, unless the pass has stopped. -/
def Pass.record (e : Entry) (p : Pass) (r : Rec) : Pass :=
  if p.bad.isSome then p
  else
    match r.bad p.b.dev e with
    | some n => { p with bad := some n }
    | none => { p with b := p.b.applyRec r }

/-- DRAM bursts of a staged body that fail their check. -/
def Block.broken (b : Block) (live : Bool) (e : Entry) : List Nat :=
  b.dev.badBursts.filter (fun a => decide (stageBase live + e.off < a + 64) && decide (a < stageBase live + e.off + e.len))

/-- Bytes of a staged body that can be read: those before its first failing burst. -/
def Block.readable (b : Block) (live : Bool) (e : Entry) : Nat :=
  (b.broken live e).foldl (fun n a => min n (a - (stageBase live + e.off))) e.len

/-- The end of a body in a pass: its digest, recomputed from the bytes read again, is compared (R53). A failure stops the pass; it is
reported when the pass ends. -/
def Pass.bodyEnd (sp : Span) (e : Entry) (p : Pass) : Pass :=
  let dg := sha384 (p.b.staged sp.live e)
  let broken := p.b.broken sp.live e
  let ok := broken.isEmpty && dg == e.digest
  let report (d : Dev) : Dev := forAll broken (fun d a => d.burstFails 1 a 0) (d.digestDone dg e.len)
  { p with
    b := if ok || sp.last then p.b.on report else p.b
    fail := if ok then none else some e.idx
    pos := if ok then p.pos else p.pos - 1 }

/-- What the start of a section does: a live CLS_RULESET takes a SEALED staged bank (R131). -/
def Dev.sectionOpens (d : Dev) (live : Bool) (w : Target × Entry) : Dev :=
  match w.1 with
  | .slice s => if live ∧ w.2.typ = 0x31 then d.rulesetOpens s else d
  | _ => d

/-- Applies a section to a target, or what the span holds of it: its staged bytes are read again and each record is written as it
is read (R53, R60). (DEDUCED, log 50.) (DEDUCED, log 51.) -/
def Pass.section (sp : Span) (p : Pass) (w : Target × Entry) : Pass :=
  if p.bad.isSome || p.fail.isSome then p
  else
    let e := w.2
    let base := p.pos
    let p := { p with pos := base + e.len }
    if base + e.len ≤ sp.done ∨ sp.upto ≤ base then p
    else
      let stop := min sp.upto (base + p.b.readable sp.live e)
      let recs := (headRecs e (e.len / 8 + 1) 0 (p.b.staged sp.live e)).filter
        (fun r => decide (sp.done < base + r.1) && decide (base + r.1 ≤ stop))
      let p := if sp.done ≤ base then { p with b := p.b.on (fun d => (d.bodySelects w.1).sectionOpens sp.live w) } else p
      let p := (recs.map (fun r => r.2)).foldl (Pass.record e) p
      if base + e.len ≤ sp.upto then p.bodyEnd sp e else p

/-- Applies what a span holds of a pass over bodies. -/
def Block.runPass (b : Block) (sp : Span) (ws : List (Target × Entry)) : Pass := ws.foldl (Pass.section sp) { b := b }

/-- What the sections of a boot image are applied to: device sections once, others to each named slice or cluster (R48). -/
def Entry.targets (e : Entry) : List Target :=
  match e.sec with
  | none => []
  | some t =>
    match t.scope with
    | Scope.device => [Target.device]
    | Scope.slice => ((List.range 16).filter (fun s => e.names s)).map Target.slice
    | Scope.cluster => ((List.range 8).filter (fun k => e.names k)).map Target.cluster

/-- Whether a section names a live unit: slices 0 to 15, clusters 16 to 23. -/
def Entry.forUnit (e : Entry) (u : Nat) : Bool :=
  if u < 16 then e.typ != 0x60 && e.sec.any (fun t => t.scope == .slice) && e.names u else e.typ == 0x60 && e.names (u - 16)

/-- The target of a live unit. -/
def unitTarget (u : Nat) : Target := if u < 16 then .slice u else .cluster (u - 16)

/-- Bytes of an apply pass. -/
def passBytes (ws : List (Target × Entry)) : Nat := (ws.map (fun w => w.2.len)).sum

/-- Cycles of an apply pass over bodies: 8 body bytes every 3 cycles (R53, R315). -/
def passCycles (ws : List (Target × Entry)) : Nat := 3 * (passBytes ws / 8)

/-- The bodies of the boot apply pass: each is read again for each slice or cluster it is applied to (DEDUCED, log 40). -/
def bootWork (es : List Entry) : List (Target × Entry) := es.flatMap (fun e => e.targets.map (fun t => (t, e)))

/-! Passes under way (R60) -/

/-- The retained image's manifest, as it lies in the staging area. -/
def Block.retainedMan (b : Block) : List Byte :=
  let h := b.mem.read .dram (stageBase false) 128
  b.mem.read .dram (stageBase false) (sigOffset (hdrCount h))

/-- The live sections that name a unit, in apply order. -/
def Dev.unitSections (d : Dev) (u : Nat) : List Entry :=
  (applyOrder (entries d.ld.man)).filter (fun e => e.forUnit u)

/-- The slice's own sections of the retained image. -/
def Block.sliceWork (b : Block) (u : Nat) : List (Target × Entry) :=
  ((applyOrder (entries b.retainedMan)).filter (fun e => decide (u < 16) && e.forUnit u)).map (fun e => (.slice u, e))

/-- The sections of a live unit. -/
def Dev.unitWork (d : Dev) (u : Nat) : List (Target × Entry) := (d.unitSections u).map (fun e => (unitTarget u, e))

/-- The apply pass under way: whether its image is live, its first cycle, its bodies. -/
def Block.passNow (b : Block) : Option (Bool × Nat × List (Target × Entry)) :=
  let l := b.dev.ld
  if l.step = 5 then some (false, l.since, bootWork (applyOrder (entries l.man)))
  else
    match l.engine, l.unit with
    | some u, _ => some (false, l.engineAt, b.sliceWork u)
    | none, some u => some (true, l.unitAt, b.dev.unitWork u)
    | none, none => none

/-- Whether no apply pass is under way. -/
def Dev.noPass (d : Dev) : Bool := d.ld.step != 5 && d.ld.engine.isNone && d.ld.unit.isNone

/-- Runs the loader's writes of the cycles before the present one, so that a requester's access meets them in cycle order; a write of
the loader's in the same cycle comes after it and takes effect (R60). -/
def caught (f : State → Host.Outcome State Fault Refusal) (s : State) : Host.Outcome State Fault Refusal :=
  match s.blk.passNow with
  | none => f s
  | some (live, since, ws) =>
    let upto := min (passBytes ws) ((s.dev.cycle - since - 1) * 8 / 3)
    if upto ≤ s.dev.ld.done then f s
    else
      let p := s.blk.runPass ⟨live, s.dev.ld.done, upto, false⟩ ws
      match p.bad with
      | some n => .fault (.unpredictable n)
      | none => f (s.withBlk (p.b.on (fun d => d.updLd (fun l => { l with done := min upto p.pos }))))

/-- The end of an apply pass over bodies: all that is left of them is applied; an unpredictable record stops the model. -/
def passEnd (live : Bool) (since : Nat) (ws : List (Target × Entry)) (f : Option Nat → Dev → Dev) (s : State) :
    Host.Outcome State Fault Refusal :=
  let b := s.blk.on (fun d => d.toCycle (since + passCycles ws))
  let p := b.runPass ⟨live, s.dev.ld.done, passBytes ws, true⟩ ws
  match p.bad with
  | some n => .fault (.unpredictable n)
  | none => .next (s.withBlk (p.b.on (f p.fail)))

/-- The loader reports a body whose digest fails in the apply pass of a boot image or of a recovery (R53, R59). -/
def Dev.applyFails (d : Dev) (sec : Nat) : Dev :=
  let d := ((d.fset F.HLD_STATUS_FAIL 0 1).fset F.HLD_STATUS_ERR 0 errApply).fset F.HLD_STATUS_SECTION 0 sec
  (d.cnt F.HLD_FAIL_CNT_COUNT).alarm 0 F.HLD_STATUS_FAIL

/-! Boot -/

/-- The end of a boot load's apply pass (boot load procedure, step 5; R53 on a failure). -/
def Dev.bootApplied (d : Dev) (fail : Option Nat) : Dev :=
  let d := (d.fset F.HLD_STATUS_BUSY 0 0).fset F.HLD_STATUS_PHASE 0 0
  match fail with
  | some sec => (d.applyFails sec).updLd (fun l => { l with step := 0, src := 0, byStrap := false, slotA := none })
  | none =>
    let l := d.ld
    let mask := l.mask
    let r := l.slotA.getD (0, noSection)
    let d := d.updLd (fun l => { l with step := 0, src := 0, byStrap := false, slotA := none })
    let d := (d.fset F.HLD_STATUS_DONE 0 1).fset F.HLD_STATUS_FAIL 0 0
    let d := (d.fset F.HLD_STATUS_ERR 0 r.1).fset F.HLD_STATUS_SECTION 0 r.2
    let d := (d.rset R.HLD_IMAGE_SERIAL 0 (wordOf (leAt l.man 20 4))).fset F.HLD_SLICE_EN_EN 0 mask
    let d := d.notice F.HLD_STATUS_DONE
    let d := { d with life.wide := false }
    let on := (List.range 16).filter (fun s => bit mask s)
    let d := forAll on (fun d s => d.setKind s 1) d
    (forAll on (fun d s => d.leaveStructure s true) d).refresh

/-- APPLY_PASS_END (R53, R68): the boot load's apply pass ends. (DEDUCED, log 50.) -/
def applyPassEnd (s : State) : Host.Outcome State Fault Refusal :=
  if s.dev.ld.step ≠ 5 then .next s
  else passEnd false s.dev.ld.since (bootWork (applyOrder (entries s.dev.ld.man))) (fun fail d => d.bootApplied fail) s

/-! Recovery -/

/-- The end of a recovering slice's re-application (R59, R79). -/
def Dev.reapplied (d : Dev) (s : Nat) (fail : Option Nat) : Dev :=
  let d := d.updLd (fun l => { l with engine := none })
  match fail with
  | none => d.leaveStructure s false
  | some sec =>
    let d := d.putSlice s stRecovery 3
    let d := { d with life.stopped := d.life.stopped.filter (fun t => t != s) ++ [s] }
    (d.fset (nibble R.GLB_SLICE_CAUSE_LO R.GLB_SLICE_CAUSE_HI s) 0 5).applyFails sec

/-- RECOVERY_APPLY_END (R59, R79): the slice's own sections of the retained image have been applied again. -/
def recoveryApplyEnd (s : State) : Host.Outcome State Fault Refusal :=
  match s.dev.ld.engine with
  | none => .next s
  | some u => passEnd false s.dev.ld.engineAt (s.blk.sliceWork u) (fun fail d => d.reapplied u fail) s

/-! Live units -/

/-- The slice of a live unit with its PORT_CARVE sections applied on a copy: what the new carve would be. (DEDUCED, log 105.) -/
def Block.newCarve (b : Block) (u : Nat) : Dev :=
  let c := b.on (fun d => d.putSlice u stStructure 2)
  let ws := (b.dev.unitWork u).filter (fun w => w.2.typ == 0x10)
  (c.runPass ⟨true, 0, passBytes ws, true⟩ ws).b.dev

/-- Ports of a slice that a new carve creates, removes or changes. -/
def Dev.carved (d n : Dev) (u : Nat) : List Nat := (slicePorts u).filter (fun p => d.rget R.PRT_MODE p != n.rget R.PRT_MODE p)

/-- Lanes of a PHY of a carrier (Table 04-2). -/
def Dev.phyLanes (d : Dev) (c : Nat) : Nat := 2 ^ (d.fget F.CAR_CFG_PHY_TYPE c + d.fget F.CAR_CFG_LANE_RATE c) / 2

/-- Lanes of a carrier within its slice: PHYs times lanes of a PHY (R83). -/
def Dev.carLanes (d : Dev) (c : Nat) : List Nat :=
  (List.range (d.fget F.CAR_CFG_PHY_COUNT c * d.phyLanes c)).map (fun k => d.fget F.CAR_CFG_FIRST_LANE c + k)

/-- Lanes of an Ethernet port within its slice. -/
def Dev.portLanes (d : Dev) (p : Nat) : List Nat :=
  if d.isEth p then (List.range (2 ^ d.fget F.PRT_MODE_LANES p)).map (fun k => d.fget F.PRT_MODE_FIRST_LANE p + k) else []

/-- The ports whose TMG_PORT_QCFG the records of a QUEUES body write, from an index on (R222). -/
def qcfgPorts : Nat → List Rec → List Nat
  | _, [] => []
  | p, .reg off v :: r =>
    if off = R.TMG_PORT_IDX then qcfgPorts (v % 512) r
    else if off = R.TMG_PORT_QCFG then p :: qcfgPorts p r
    else qcfgPorts p r
  | p, _ :: r => qcfgPorts p r

/-- The ports that have leaf queues in the current QUEUES section, that of the retained image (Table 02-10). -/
def Block.queued (b : Block) : List Nat :=
  (((entries b.retainedMan).filter (fun e => e.typ == 0x50)).map (fun e => qcfgPorts 0 ((bodyRecs (b.staged false e)).getD []))).flatten

/-- The preconditions of PORT_CARVE in the order of Table 02-10: 0 where they hold; `qs` are the ports with leaf queues. (DEDUCED, log 55.) -/
def Dev.carveCode (d n : Dev) (qs : List Nat) (u : Nat) : Nat :=
  let ch := d.carved n u
  let cars := d.carriersOf u
  let locked (p : Nat) : Bool := d.isClient p || n.isClient p ||
    (d.portLanes p ++ n.portLanes p).any (fun l => cars.any (fun c => (d.carLanes c).contains l))
  if ch.any (fun p => n.fget F.PRT_MODE_KIND p != 0 && !qs.contains p) then 4
  else if cars.any (fun c => d.fon F.CAR_RC_STATUS_ARMED c) then 5
  else if ch.any locked then 9
  else 0

/-- Whether the staged storage of a slice holds an epoch with packets in flight. -/
def Dev.epochBusy (d : Dev) (u : Nat) : Bool :=
  d.fget F.CLS_EPOCH_DRAINING u != 0 && d.inflight u (d.fget F.CLS_EPOCH_DRAINING u) != 0

/-- The first failing precondition of a unit's section (Table 02-10): its code; 2 while the staged epoch drains. -/
def Dev.sectionCode (d n : Dev) (qs : List Nat) (u : Nat) (e : Entry) : Nat :=
  if e.typ = 0x10 then d.carveCode n qs u
  else if e.typ = 0x31 then (if d.fon F.CLS_SWAP_STATUS_ARMED u then 1 else if d.epochBusy u then 2 else 0)
  else if e.typ = 0x51 then (if (slicePorts u).any (fun p => d.fon F.TMG_GATE_STATUS_PENDING p) then 3 else 0)
  else if e.typ = 0x60 then (if d.clusterHeld (u - 16) then 0 else 8)
  else 0

/-- The code of a unit's preconditions (R63): NOT_SERVICE first, then its sections in apply order. (DEDUCED, log 54.) -/
def Dev.unitCode (d n : Dev) (qs : List Nat) (u : Nat) : Nat :=
  if u < 16 ∧ (d.life.wide ∨ d.sliceSt u ≠ stService) then 6
  else (((d.unitSections u).map (fun e => d.sectionCode n qs u e)).find? (fun c => c != 0)).getD 0

/-- A unit is refused with a code. -/
def Dev.unitRefused (d : Dev) (u code : Nat) : Dev :=
  ((d.liveCode u code).updLd (fun l => { l with units := l.units.drop 1, waitAt := none })).liveFinish

/-- A port that a carve changes stops: down, its admitted packets discarded, its lock lost (Table 02-10). -/
def Dev.carveStop (d : Dev) (p : Nat) : Dev :=
  let d := ((d.portDownAny p).discardPort p).mcPortDown p
  (d.fset F.PRT_STATUS_FEC_LOCK p 0).updPt p (fun (x : PortSt) => { x with lockAt := none, enAt := d.cycle })

/-- A unit enters STRUCTURE (R63 step 3). -/
def Dev.unitEnters (d n : Dev) (u : Nat) : Dev :=
  let d := d.updLd (fun l => { l with units := l.units.drop 1, unit := some u, unitAt := d.cycle, done := 0, waitAt := none })
  if u < 16 then
    let d := epochDrained u (d.putSlice u stStructure 2)
    forAll (d.carved n u) (fun d p => d.carveStop p) d
  else d

/-- LIVE_UNIT_PRECHECK (R63): the next unit is tested; it is refused, waits for its epoch, or enters STRUCTURE. -/
def liveUnitPrecheck (b : Block) : Block :=
  let d := b.dev
  let l := d.ld
  if l.step ≠ 6 ∨ l.unit.isSome ∨ l.engine.isSome ∨ !d.life.ready.isEmpty then b
  else
    match l.units.head? with
    | none => b.on (fun d => d.liveFinish)
    | some u =>
      let n := b.newCarve u
      let c := d.unitCode n b.queued u
      if c = 0 then b.on (fun d => d.unitEnters n u)
      else if c = 2 then b.on (fun d => d.updLd (fun l => { l with waitAt := some (l.waitAt.getD d.cycle) }))
      else b.on (fun d => d.unitRefused u c)

/-- LIVE_EPOCH_WAIT_EXPIRY (R63, Table 02-10): the wait of HLD_LIVE_WAIT ends; a unit whose epoch still drains is refused. -/
def liveEpochWaitExpiry (d : Dev) : Dev :=
  match d.ld.waitAt, d.ld.units.head? with
  | some t, some u =>
    let d := d.toCycle (t + cyclesOfNs (d.fget F.HLD_LIVE_WAIT_WAIT_US * 1000))
    if d.epochBusy u then d.unitRefused u 2 else d
  | _, _ => d

/-- The end of a live unit's application (R63, R64). -/
def Dev.unitApplied (d : Dev) (u : Nat) (fail : Option Nat) : Dev :=
  let d := d.updLd (fun l => { l with unit := none })
  let d := match fail with
    | some _ =>
      let d := d.liveCode u 0xA
      if u < 16 then d.recover u 5 else d
    | none =>
      let d := if u < 16 then
          forAll ((slicePorts u).filter (fun p => (d.pt p).gateArmed)) (fun (d : Dev) p => d.gatePend p) (d.putSlice u stService 0)
        else d
      d.liveCode u 0
  d.liveFinish

/-- LIVE_UNIT_APPLY_END (R63, R64): the sections of the unit have been applied, its digests checked again. -/
def liveUnitApplyEnd (s : State) : Host.Outcome State Fault Refusal :=
  match s.dev.ld.unit with
  | none => .next s
  | some u => passEnd true s.dev.ld.unitAt (s.dev.unitWork u) (fun fail d => d.unitApplied u fail) s

end Sys2Proof.Machine
end

