-- ==== Sys2Proof/Machine/HostAcc.lean ====
section
/-! DEFINITION. Accesses that come from outside or from threads: BAR accesses of the host (R9, R402 to R404), register messages
of the ring (R403, R405, R410), register-window accesses of Drover threads (R342); how commands are gated. -/

namespace Sys2Proof.Machine

/-! Gates -/

/-- An event of the device, with no effect while it is not running. (DESIGN CHOICE, log 57.) -/
def event (f : Dev → Dev) (s : State) : Host.Outcome State Fault Refusal := if s.dev.running then runDev f s else .next s

/-- An event that reaches memories too. -/
def eventBlk (f : Block → Block) (s : State) : Host.Outcome State Fault Refusal := if s.dev.running then runBlk f s else .next s

/-! Accesses of requesters -/

/-- A register write commanded by a requester. -/
def writeCmd (r : Req) (off : Nat) (v : Word) : State → Host.Outcome State Fault Refusal :=
  caught (fun s =>
    match s.dev.misuse (reqIdx r) off (some v) with
    | some n => .fault (.unpredictable n)
    | none => runBlk (fun b => b.regWrite r off v) s)

/-- A register read by a requester; `done` takes the word. -/
def readTo (r : Req) (off : Nat) (done : Word → Dev → Dev) : State → Host.Outcome State Fault Refusal :=
  caught (fun s =>
    match s.dev.misuse (reqIdx r) off none with
    | some n => .fault (.unpredictable n)
    | none => runBlk (fun b => (b.regRead (reqIdx r) off).2.on (done (b.regRead (reqIdx r) off).1)) s)

/-- A register read commanded by a requester: the word read answers it. -/
def readCmd (r : Req) (off : Nat) (s : State) : Host.Outcome State Fault Refusal :=
  readTo r off (fun w d => d.answer (reqIdx r) w) s

/-- An operation on the element that a requester's selects choose (R14), where it exists. -/
def elemOp (r : Req) (off : Nat) (k : Kind) (f : Nat → Block → Block) (s : State) : Host.Outcome State Fault Refusal :=
  match badSelect s.dev k (s.dev.instOf (reqIdx r) off k) with
  | some n => .fault (.unpredictable n)
  | none => runBlk (f (s.dev.instOf (reqIdx r) off k)) s

/-- An operation that a requester starts by writing a register: it acts on the element that the requester's selects choose
(R14), where the block is open (R41) and the element exists. (DEDUCED, log 46.) -/
def regOp (r : Req) (off : Nat) (k : Kind) (f : Nat → Block → Block) : State → Host.Outcome State Fault Refusal :=
  caught (fun s => if !s.dev.reachable off then .next s else elemOp r off k f s)

/-- The same for an operation that leaves memories alone. -/
def regDev (r : Req) (off : Nat) (k : Kind) (f : Nat → Dev → Dev) (s : State) : Host.Outcome State Fault Refusal :=
  regOp r off k (fun i b => b.on (f i)) s

/-- A read of a register that is one operation: its answer goes to the requester, 0 from a closed block (R41)
(DESIGN CHOICE, log 4). -/
def regAsk (r : Req) (off : Nat) (k : Kind) (f : Nat → Dev → Word × Dev) (s : State) : Host.Outcome State Fault Refusal :=
  if !s.dev.readable off then runDev (fun d => d.answer (reqIdx r) 0) s
  else caught (elemOp r off k (fun i b => b.on (fun d => (f i d).2.answer (reqIdx r) (f i d).1))) s

/-! The host (R402 to R404) -/

/-- ADDR of REG messages that name a BAR2 offset: above the 64 MiB of a register window (DESIGN CHOICE, log 38). -/
def bar2Mark : Nat := 0x04000000

/-- A word of the descriptor window of BAR2, at its offset: 64 queues of 0x2000 bytes. -/
def bar2Read (o : Nat) (b : Block) : Word × Block :=
  if o % 4 ≠ 0 then (0, b.on (fun d => d.badAccess))
  else if 0x80000 ≤ o then (0, b)
  else (BitVec.ofNat 32 (b.mem.num .bar2 o 4), b)

/-- A write of a word of the descriptor window. -/
def bar2Write (o : Nat) (v : Word) (b : Block) : Block :=
  if o % 4 ≠ 0 then b.on (fun d => d.badAccess)
  else if 0x80000 ≤ o then b
  else b.store .bar2 o (toLe 4 v.toNat)

/-- A write at a device for a requester: a register of its window, or a word of its descriptors. -/
def localWrite (r : Req) (a : Nat) (v : Word) (s : State) : Host.Outcome State Fault Refusal :=
  if bar2Mark ≤ a then runBlk (bar2Write (a - bar2Mark) v) s else writeCmd r a v s

/-- A read at a device for a requester; `done` takes the word. -/
def localRead (r : Req) (a : Nat) (done : Word → Dev → Dev) (s : State) : Host.Outcome State Fault Refusal :=
  if bar2Mark ≤ a then runBlk (fun b => (bar2Read (a - bar2Mark) b).2.on (done (bar2Read (a - bar2Mark) b).1)) s
  else readTo r a done s

/-- A host access to another device: forwarded, or completed at the root where the device is absent (R404). -/
def Dev.hostForward (d : Dev) (dev a : Nat) (write : Bool) (v : Word) : Dev :=
  if !d.present dev then
    let d := d.cnt F.HTR_NOPEER_CNT_COUNT
    if write then d else d.answer 0 0
  else if write then d.send (d.mkMsg 2 dev 0 0 0 a (toLe 4 v.toNat))
  else d.sendReq 3 dev 0 a none

/-- HOST_REG_ACCESS (R9, R402 to R404): BAR0, BAR2 and BAR4 are 0, 1, 2; `oneDw` tells a request of one DW with all byte
enables. The root alone uses its PCIe link. (DESIGN CHOICE, log 47.) -/
def hostRegAccess (bar off : Nat) (write : Bool) (v : Word) (oneDw : Bool) (s : State) : Host.Outcome State Fault Refusal :=
  let d := s.dev
  if !d.running ∨ !d.isRoot ∨ !d.host.pcieReady then .next s
  else if bar = 2 then runDev (msixAccess write (off % 0x10000) v) s
  else if !oneDw then runDev (fun d => if write then d.badAccess else d.badAccess.answer 0 0) s
  else
    let size := if bar = 0 then 0x4000000 else 0x100000
    let dev := off / size % 64
    let a := off % size + (if bar = 0 then 0 else bar2Mark)
    if dev ≠ d.devid then runDev (fun d => d.hostForward dev a write v) s
    else if write then localWrite .host a v s
    else localRead .host a (fun w d => d.answer 0 w) s

/-! Messages that pass a device (R408) -/

/-- A message for another device goes on out of the other port; one for this device is taken. (DEDUCED, log 48.) -/
def taken (typ : Nat) (m : HMsg) (f : State → Host.Outcome State Fault Refusal) (s : State) : Host.Outcome State Fault Refusal :=
  if !s.dev.running then .next s
  else if m.dst = s.dev.devid then f s
  else runDev (fun d => d.sendVia (!m.fromH1) { m with typ := typ }) s

/-- The requester that a register message acts for (R403, R405). -/
def msgReq (m : HMsg) : Req := if m.req = 0 then .host else .peer (Fin.ofNat 64 m.src)

/-- REG_WR (R403, R410). -/
def regWr (m : HMsg) (s : State) : Host.Outcome State Fault Refusal :=
  taken 2 m (localWrite (msgReq m) m.addr (wordOf (leNat (m.payload.take 4)))) s

/-- REG_RD (R403, R410): the word goes back in a REG_CPL. -/
def regRd (m : HMsg) (s : State) : Host.Outcome State Fault Refusal :=
  taken 3 m (localRead (msgReq m) m.addr (fun w d => d.send (d.mkMsg 4 m.src m.req m.tag 0 m.addr (toLe 4 w.toNat)))) s

/-! Threads (R342) -/

/-- REGWIN_ACCESS_DONE (R342): the access of a waiting thread is performed, as a requester of its own. -/
def regwinDone (n : Fin 256) (s : State) : Host.Outcome State Fault Refusal :=
  match (s.dev.thr n.val).hold with
  | .regLoad rd off => readTo (.thread n) off (fun w d => d.result n.val rd w [0x11]) s
  | .regStore off v =>
    caught (fun s =>
      match s.dev.misuse (reqIdx (.thread n)) off (some v) with
      | some k => .fault (.unpredictable k)
      | none => runBlk (fun b => (b.regWrite (.thread n) off v).on (fun d =>
        if (d.thr n.val).hold == .regStore off v then d.retire n.val [0x11] else d)) s) s
  | _ => .next s

/-- A register-window word that a thread's SPIN wait reads. -/
def spinRead (t off : Nat) (b : Block) : Word × Block := b.regRead (65 + t) off

/-- Books a unit's oldest failure and starts the recovery that a fatal class gives its slice (R330, R78). -/
def errorBooking (u : Nat) (b : Block) : Block :=
  match (errBook u b).2 with
  | some s => (errBook u b).1.on (fun d => d.recover s 2)
  | none => (errBook u b).1

end Sys2Proof.Machine
end

