-- ==== Sys2Proof/Machine/CmdAccess.lean ====
section
/-! DEFINITION. Meanings of commands: Register accesses of requesters (R8 to R14), accesses of the host and of the ring (R403 to R410). -/

namespace Sys2Proof.Machine

/-- REGISTER_WRITE (R8): A write to a register that has no row of its own takes effect under its access code. -/
def execRegisterWrite (r : Req) (off : Nat) (val : Word) (s : State) : Host.Outcome State Fault Refusal :=
  writeCmd r off val s

/-- RC_REGISTER_READ (R8): A read of an rc field returns its value and clears it; events arriving in the same cycle are kept. -/
def execRcRegisterRead (r : Req) (off : Nat) (s : State) : Host.Outcome State Fault Refusal := readCmd r off s

/-- PAIR_LO_READ (R10): A read of a _LO register captures the _HI half into the requester's holding copy. -/
def execPairLoRead (r : Req) (off : Nat) (s : State) : Host.Outcome State Fault Refusal := readCmd r off s

/-- HOST_REG_ACCESS (R403): A BAR0 or BAR2 request is served locally or forwarded over the ring. -/
def execHostRegAccess (bar : Fin 3) (off : Nat) (write : Bool) (val : Word) (oneDw : Bool) (s : State) : Host.Outcome State Fault Refusal :=
  hostRegAccess bar.val off write val oneDw s

/-- FORWARD_TIMEOUT (R404): A forwarded read has no completion within 80 us, and the root answers zero. -/
def execForwardTimeout (tag : Nat) (s : State) : Host.Outcome State Fault Refusal := event (forwardTimeout tag) s

/-- REMOTE_READ (R405): HTR_RMT_CTRL.GO with WRITE = 0 reads a word of another device. -/
def execRemoteRead (r : Req) (dev : Fin 64) (s : State) : Host.Outcome State Fault Refusal :=
  regDev r R.HTR_RMT_CTRL .req (fun q => remoteOp q dev.val false) s

/-- REMOTE_WRITE (R405): HTR_RMT_CTRL.GO with WRITE = 1 writes a word of another device. -/
def execRemoteWrite (r : Req) (dev : Fin 64) (s : State) : Host.Outcome State Fault Refusal :=
  regDev r R.HTR_RMT_CTRL .req (fun q => remoteOp q dev.val true) s

/-- DISCOVER_ROUND (R407): Every 100 us the root sends DISCOVER out of H1. -/
def execDiscoverRound (s : State) : Host.Outcome State Fault Refusal := event discoverRound s

/-- DISCOVER_TIMEOUT (R407): A DISCOVER that does not return within 100 us leads to an upstream DISCOVER and an open-ring update. -/
def execDiscoverTimeout (s : State) : Host.Outcome State Fault Refusal := event discoverTimeout s

/-- DISCOVER (R407): A device receives DISCOVER, adds its DEVID and forwards it. -/
def execDiscover (m : HMsg) (s : State) : Host.Outcome State Fault Refusal := event (discoverMsg m) s

/-- REG_WR (R410): A received register write message is performed at the target. -/
def execRegWr (m : HMsg) (s : State) : Host.Outcome State Fault Refusal := regWr m s

/-- REG_RD (R410): A received register read message is performed and answered. -/
def execRegRd (m : HMsg) (s : State) : Host.Outcome State Fault Refusal := regRd m s

/-- REG_CPL (R410): A register completion returns to its requester. -/
def execRegCpl (m : HMsg) (s : State) : Host.Outcome State Fault Refusal := taken 4 m (runDev (regCpl m)) s

/-- MEM_WR (R410): The root turns a host memory write message into a PCIe write. -/
def execMemWr (m : HMsg) (s : State) : Host.Outcome State Fault Refusal := taken 5 m (runBlk (memWr m)) s

/-- MEM_RD (R410): The root turns a host memory read message into a PCIe read. -/
def execMemRd (m : HMsg) (data : List Byte) (ok : Bool) (s : State) : Host.Outcome State Fault Refusal :=
  taken 6 m (runDev (memRd m data ok)) s

/-- MEM_CPL (R410): A host memory completion returns to the source device. -/
def execMemCpl (m : HMsg) (s : State) : Host.Outcome State Fault Refusal := taken 7 m (runDev (memCpl m)) s

/-- IMG_REQ (R58): A request for the retained image is served in IMG_DATA pieces. -/
def execImgReq (m : HMsg) (s : State) : Host.Outcome State Fault Refusal := taken 8 m (runBlk (imgReq m)) s

/-- IMG_DATA (R58): A piece of a served image arrives at the loading device. -/
def execImgData (m : HMsg) (s : State) : Host.Outcome State Fault Refusal := taken 9 m (runDev (imgData m)) s

/-- INTR (R421): An interrupt message from a non-root device is sent as MSI-X by the root. -/
def execIntr (m : HMsg) (s : State) : Host.Outcome State Fault Refusal := taken 10 m (runDev (intrMsg m)) s

/-- LINK (R409): A LINK message updates the hop map and is forwarded. -/
def execLink (m : HMsg) (s : State) : Host.Outcome State Fault Refusal := event (linkMsg m) s

/-- HOP_DOWN (R408): A halter hop goes down; ERROR events are raised and a LINK message is sent. -/
def execHopDown (h1 : Bool) (far : Fin 64) (s : State) : Host.Outcome State Fault Refusal :=
  event (hopDown h1 far.val) s

/-- HOP_UP (R408): A halter hop comes up and a LINK message is sent. -/
def execHopUp (h1 : Bool) (far : Fin 64) (s : State) : Host.Outcome State Fault Refusal := event (hopUp h1 far.val) s

/-- ROUTE_HOLD_END (R408): 20 us after a route change, held messages to the destination are sent. -/
def execRouteHoldEnd (dst : Fin 64) (s : State) : Host.Outcome State Fault Refusal := event (routeHoldEnd dst.val) s

/-- HALTER_BAD_FRAME (R410): A halter frame with a bad FCS or an unknown TYPE is dropped and counted in HTR_RX_BAD. -/
def execHalterBadFrame (s : State) : Host.Outcome State Fault Refusal := event halterBadFrame s

end Sys2Proof.Machine
end

