-- ==== Sys2Proof/Machine/CmdAlu.lean ====
section
/-! DEFINITION. Meanings of commands: Drover instructions: arithmetic, loads and stores, branches (R341 to R348). -/

namespace Sys2Proof.Machine

/-- ADD (R348): rd = rs1 + rs2. -/
def execAdd (t : Fin 256) (rd rs1 rs2 : Fin 32) (s : State) : Host.Outcome State Fault Refusal :=
  runBlk (issue t.val (opRR (fun a b => a + b) t.val rd.val rs1.val rs2.val)) s

/-- SUB (R348): rd = rs1 - rs2. -/
def execSub (t : Fin 256) (rd rs1 rs2 : Fin 32) (s : State) : Host.Outcome State Fault Refusal :=
  runBlk (issue t.val (opRR (fun a b => a - b) t.val rd.val rs1.val rs2.val)) s

/-- AND (R348): Bitwise AND of two registers. -/
def execAnd (t : Fin 256) (rd rs1 rs2 : Fin 32) (s : State) : Host.Outcome State Fault Refusal :=
  runBlk (issue t.val (opRR (fun a b => a &&& b) t.val rd.val rs1.val rs2.val)) s

/-- OR (R348): Bitwise OR of two registers. -/
def execOr (t : Fin 256) (rd rs1 rs2 : Fin 32) (s : State) : Host.Outcome State Fault Refusal :=
  runBlk (issue t.val (opRR (fun a b => a ||| b) t.val rd.val rs1.val rs2.val)) s

/-- XOR (R348): Bitwise XOR of two registers. -/
def execXor (t : Fin 256) (rd rs1 rs2 : Fin 32) (s : State) : Host.Outcome State Fault Refusal :=
  runBlk (issue t.val (opRR (fun a b => a ^^^ b) t.val rd.val rs1.val rs2.val)) s

/-- SLL (R348): Shift left logical by rs2[4:0]. -/
def execSll (t : Fin 256) (rd rs1 rs2 : Fin 32) (s : State) : Host.Outcome State Fault Refusal :=
  runBlk (issue t.val (opRR shl t.val rd.val rs1.val rs2.val)) s

/-- SRL (R348): Shift right logical by rs2[4:0]. -/
def execSrl (t : Fin 256) (rd rs1 rs2 : Fin 32) (s : State) : Host.Outcome State Fault Refusal :=
  runBlk (issue t.val (opRR shr t.val rd.val rs1.val rs2.val)) s

/-- SRA (R348): Shift right arithmetic by rs2[4:0]. -/
def execSra (t : Fin 256) (rd rs1 rs2 : Fin 32) (s : State) : Host.Outcome State Fault Refusal :=
  runBlk (issue t.val (opRR sar t.val rd.val rs1.val rs2.val)) s

/-- SLT (R348): Set rd on a signed less-than. -/
def execSlt (t : Fin 256) (rd rs1 rs2 : Fin 32) (s : State) : Host.Outcome State Fault Refusal :=
  runBlk (issue t.val (opRR (fun a b => boolWord (a.slt b)) t.val rd.val rs1.val rs2.val)) s

/-- SLTU (R348): Set rd on an unsigned less-than. -/
def execSltu (t : Fin 256) (rd rs1 rs2 : Fin 32) (s : State) : Host.Outcome State Fault Refusal :=
  runBlk (issue t.val (opRR (fun a b => boolWord (a.ult b)) t.val rd.val rs1.val rs2.val)) s

/-- MUL (R348): Low 32 bits of the product. -/
def execMul (t : Fin 256) (rd rs1 rs2 : Fin 32) (s : State) : Host.Outcome State Fault Refusal :=
  runBlk (issue t.val (opRR (fun a b => a * b) t.val rd.val rs1.val rs2.val)) s

/-- MULHU (R348): Unsigned high 32 bits of the product. -/
def execMulhu (t : Fin 256) (rd rs1 rs2 : Fin 32) (s : State) : Host.Outcome State Fault Refusal :=
  runBlk (issue t.val (opRR mulHigh t.val rd.val rs1.val rs2.val)) s

/-- CLZ (R348): Count of leading zeros of rs1. -/
def execClz (t : Fin 256) (rd rs1 : Fin 32) (s : State) : Host.Outcome State Fault Refusal :=
  runBlk (issue t.val (opRI clz32 t.val rd.val rs1.val)) s

/-- SLLI (R348): Shift left logical by an immediate count. -/
def execSlli (t : Fin 256) (rd rs1 sh : Fin 32) (s : State) : Host.Outcome State Fault Refusal :=
  runBlk (issue t.val (opRI (fun a => shl a (BitVec.ofNat 32 sh.val)) t.val rd.val rs1.val)) s

/-- SRLI (R348): Shift right logical by an immediate count. -/
def execSrli (t : Fin 256) (rd rs1 sh : Fin 32) (s : State) : Host.Outcome State Fault Refusal :=
  runBlk (issue t.val (opRI (fun a => shr a (BitVec.ofNat 32 sh.val)) t.val rd.val rs1.val)) s

/-- SRAI (R348): Shift right arithmetic by an immediate count. -/
def execSrai (t : Fin 256) (rd rs1 sh : Fin 32) (s : State) : Host.Outcome State Fault Refusal :=
  runBlk (issue t.val (opRI (fun a => sar a (BitVec.ofNat 32 sh.val)) t.val rd.val rs1.val)) s

/-- ADDI (R348): rd = rs1 + sign-extended immediate. -/
def execAddi (t : Fin 256) (rd rs1 : Fin 32) (imm : BitVec 16) (s : State) : Host.Outcome State Fault Refusal :=
  runBlk (issue t.val (opRI (fun a => a + sx imm) t.val rd.val rs1.val)) s

/-- ANDI (R348): Bitwise AND with a zero-extended immediate. -/
def execAndi (t : Fin 256) (rd rs1 : Fin 32) (imm : BitVec 16) (s : State) : Host.Outcome State Fault Refusal :=
  runBlk (issue t.val (opRI (fun a => a &&& zx imm) t.val rd.val rs1.val)) s

/-- ORI (R348): Bitwise OR with a zero-extended immediate. -/
def execOri (t : Fin 256) (rd rs1 : Fin 32) (imm : BitVec 16) (s : State) : Host.Outcome State Fault Refusal :=
  runBlk (issue t.val (opRI (fun a => a ||| zx imm) t.val rd.val rs1.val)) s

/-- XORI (R348): Bitwise XOR with a zero-extended immediate. -/
def execXori (t : Fin 256) (rd rs1 : Fin 32) (imm : BitVec 16) (s : State) : Host.Outcome State Fault Refusal :=
  runBlk (issue t.val (opRI (fun a => a ^^^ zx imm) t.val rd.val rs1.val)) s

/-- SLTI (R348): Signed compare with an immediate. -/
def execSlti (t : Fin 256) (rd rs1 : Fin 32) (imm : BitVec 16) (s : State) : Host.Outcome State Fault Refusal :=
  runBlk (issue t.val (opRI (fun a => boolWord (a.slt (sx imm))) t.val rd.val rs1.val)) s

/-- SLTIU (R348): Unsigned compare with an immediate. -/
def execSltiu (t : Fin 256) (rd rs1 : Fin 32) (imm : BitVec 16) (s : State) : Host.Outcome State Fault Refusal :=
  runBlk (issue t.val (opRI (fun a => boolWord (a.ult (sx imm))) t.val rd.val rs1.val)) s

/-- LUI (R348): rd = imm16 << 16. -/
def execLui (t : Fin 256) (rd : Fin 32) (imm : BitVec 16) (s : State) : Host.Outcome State Fault Refusal :=
  runBlk (issue t.val (fun b => b.on (fun d => d.result t.val rd.val (zx imm <<< 16)))) s

/-- LB (R341): Load a sign-extended byte. -/
def execLb (t : Fin 256) (rd rs1 : Fin 32) (imm : BitVec 16) (s : State) : Host.Outcome State Fault Refusal :=
  runBlk (issue t.val (opLoad 1 true t.val rd.val rs1.val imm)) s

/-- LBU (R341): Load a zero-extended byte. -/
def execLbu (t : Fin 256) (rd rs1 : Fin 32) (imm : BitVec 16) (s : State) : Host.Outcome State Fault Refusal :=
  runBlk (issue t.val (opLoad 1 false t.val rd.val rs1.val imm)) s

/-- LH (R341): Load a sign-extended halfword. -/
def execLh (t : Fin 256) (rd rs1 : Fin 32) (imm : BitVec 16) (s : State) : Host.Outcome State Fault Refusal :=
  runBlk (issue t.val (opLoad 2 true t.val rd.val rs1.val imm)) s

/-- LHU (R341): Load a zero-extended halfword. -/
def execLhu (t : Fin 256) (rd rs1 : Fin 32) (imm : BitVec 16) (s : State) : Host.Outcome State Fault Refusal :=
  runBlk (issue t.val (opLoad 2 false t.val rd.val rs1.val imm)) s

/-- LW (R341): Load a word from cluster memory, the register window, buffer SRAM or FW. -/
def execLw (t : Fin 256) (rd rs1 : Fin 32) (imm : BitVec 16) (s : State) : Host.Outcome State Fault Refusal :=
  runBlk (issue t.val (opLoad 4 false t.val rd.val rs1.val imm)) s

/-- SB (R341): Store a byte. -/
def execSb (t : Fin 256) (rs2 rs1 : Fin 32) (imm : BitVec 16) (s : State) : Host.Outcome State Fault Refusal :=
  runBlk (issue t.val (opStore 1 t.val rs2.val rs1.val imm)) s

/-- SH (R341): Store a halfword. -/
def execSh (t : Fin 256) (rs2 rs1 : Fin 32) (imm : BitVec 16) (s : State) : Host.Outcome State Fault Refusal :=
  runBlk (issue t.val (opStore 2 t.val rs2.val rs1.val imm)) s

/-- SW (R341): Store a word; DRAM stores are posted. -/
def execSw (t : Fin 256) (rs2 rs1 : Fin 32) (imm : BitVec 16) (s : State) : Host.Outcome State Fault Refusal :=
  runBlk (issue t.val (opStore 4 t.val rs2.val rs1.val imm)) s

/-- AADD (R345): Atomic fetch-and-add on cluster memory. -/
def execAadd (t : Fin 256) (rd rs1 rs2 : Fin 32) (s : State) : Host.Outcome State Fault Refusal :=
  runBlk (issue t.val (opAtomic (fun a b => a + b) t.val rd.val rs1.val rs2.val)) s

/-- ASWAP (R345): Atomic swap on cluster memory. -/
def execAswap (t : Fin 256) (rd rs1 rs2 : Fin 32) (s : State) : Host.Outcome State Fault Refusal :=
  runBlk (issue t.val (opAtomic (fun _ b => b) t.val rd.val rs1.val rs2.val)) s

/-- FENCE (R344): Wait until the thread's earlier DRAM stores and window accesses are performed. -/
def execFence (t : Fin 256) (s : State) : Host.Outcome State Fault Refusal := runBlk (issue t.val (opFence t.val)) s

/-- ISYNC (R346): Clear the core's instruction cache. -/
def execIsync (t : Fin 256) (s : State) : Host.Outcome State Fault Refusal := runBlk (issue t.val (opIsync t.val)) s

/-- BEQ (R348): Branch if equal. -/
def execBeq (t : Fin 256) (rs1 rs2 : Fin 32) (off : BitVec 16) (s : State) : Host.Outcome State Fault Refusal :=
  runBlk (issue t.val (opBranch (fun a b => a == b) t.val rs1.val rs2.val off)) s

/-- BNE (R348): Branch if not equal. -/
def execBne (t : Fin 256) (rs1 rs2 : Fin 32) (off : BitVec 16) (s : State) : Host.Outcome State Fault Refusal :=
  runBlk (issue t.val (opBranch (fun a b => a != b) t.val rs1.val rs2.val off)) s

/-- BLT (R348): Branch if signed less. -/
def execBlt (t : Fin 256) (rs1 rs2 : Fin 32) (off : BitVec 16) (s : State) : Host.Outcome State Fault Refusal :=
  runBlk (issue t.val (opBranch (fun a b => a.slt b) t.val rs1.val rs2.val off)) s

/-- BGE (R348): Branch if signed greater or equal. -/
def execBge (t : Fin 256) (rs1 rs2 : Fin 32) (off : BitVec 16) (s : State) : Host.Outcome State Fault Refusal :=
  runBlk (issue t.val (opBranch (fun a b => !a.slt b) t.val rs1.val rs2.val off)) s

/-- BLTU (R348): Branch if unsigned less. -/
def execBltu (t : Fin 256) (rs1 rs2 : Fin 32) (off : BitVec 16) (s : State) : Host.Outcome State Fault Refusal :=
  runBlk (issue t.val (opBranch (fun a b => a.ult b) t.val rs1.val rs2.val off)) s

/-- BGEU (R348): Branch if unsigned greater or equal. -/
def execBgeu (t : Fin 256) (rs1 rs2 : Fin 32) (off : BitVec 16) (s : State) : Host.Outcome State Fault Refusal :=
  runBlk (issue t.val (opBranch (fun a b => !a.ult b) t.val rs1.val rs2.val off)) s

/-- JAL (R348): Jump and link by a word offset. -/
def execJal (t : Fin 256) (rd : Fin 32) (off : BitVec 21) (s : State) : Host.Outcome State Fault Refusal :=
  runBlk (issue t.val (opJal t.val rd.val off)) s

/-- JALR (R348): Jump and link to a register plus an immediate. -/
def execJalr (t : Fin 256) (rd rs1 : Fin 32) (imm : BitVec 16) (s : State) : Host.Outcome State Fault Refusal :=
  runBlk (issue t.val (opJalr t.val rd.val rs1.val imm)) s

end Sys2Proof.Machine
end

