-- ==== Sys2Proof/Machine/CmdBoot.lean ====
section
/-! DEFINITION. Meanings of commands: Power, pins, start-up, resets and the sideband ports (chs 03, 20). -/

namespace Sys2Proof.Machine

/-- POWER_ON (R75): The rising rails clear everything and start BOOT. -/
def execPowerOn (s : State) : Host.Outcome State Fault Refusal := runBlk powerOn s

/-- POWER_LOSS (R429): The rails fall, and a full power-up is then needed. -/
def execPowerLoss (s : State) : Host.Outcome State Fault Refusal := runBlk powerLoss s

/-- RESET_N_ASSERT (R75): RESET_N held low past its filter starts a pin reset; TRIG, 1PPS_OUT and the SerDes go idle. -/
def execResetNAssert (ns : Nat) (s : State) : Host.Outcome State Fault Refusal := runBlk (resetNAssert ns) s

/-- RESET_N_RELEASE (R72): The rising edge of RESET_N samples the straps and starts BOOT. -/
def execResetNRelease (devid : BitVec 6) (bootsel : BitVec 2) (clksel : Bool) (s : State) : Host.Outcome State Fault Refusal :=
  runDev (resetNRelease devid.toNat bootsel.toNat clksel) s

/-- FUSE_READ (R80): The fuses are read, the identity registers become valid, and a fuse CRC failure is detected. -/
def execFuseRead (lotLo : Word) (lotHi : BitVec 16) (die s0 s1 s2 s3 : Word) (key : List Word) (ok : Bool) (s : State) : Host.Outcome State Fault Refusal :=
  event (fuseRead lotLo.toNat lotHi.toNat die.toNat [s0, s1, s2, s3] key ok) s

/-- PLL_LOCK (R66): The PLLs lock, the device enters TRAIN and the NTU starts. -/
def execPllLock (s : State) : Host.Outcome State Fault Refusal := event pllLock s

/-- PLL_LOCK_TIMEOUT (R74): A PLL fails to lock within 1 ms; the device retries, or holds BOOT with PLL_FAIL. -/
def execPllLockTimeout (s : State) : Host.Outcome State Fault Refusal := event pllLockTimeout s

/-- DRAM_TRAINING_DONE (R66): All four stacks are trained and the device enters HARNESS. -/
def execDramTrainingDone (us0 us1 us2 us3 : BitVec 16) (s : State) : Host.Outcome State Fault Refusal :=
  event (dramTrainingDone [us0.toNat, us1.toNat, us2.toNat, us3.toNat]) s

/-- TRAINING_ATTEMPT_FAIL (R74): A stack fails a training attempt; the device retries, or holds TRAIN with TRAIN_FAIL. -/
def execTrainingAttemptFail (stack : Fin 4) (s : State) : Host.Outcome State Fault Refusal :=
  event (trainingAttemptFail stack.val) s

/-- PERST_N_ASSERT (R75): A PCIe fundamental reset clears the endpoint and the HDM state and leaves traffic running. -/
def execPerstNAssert (s : State) : Host.Outcome State Fault Refusal := runBlk perstAssert s

/-- PERST_N_RELEASE (R72): PERST_N rises and the 20 ms configuration retry interval starts. -/
def execPerstNRelease (s : State) : Host.Outcome State Fault Refusal := runDev perstRelease s

/-- PCIE_CONFIG_READY (R72): 20 ms after the later release, the endpoint answers configuration requests normally. -/
def execPcieConfigReady (s : State) : Host.Outcome State Fault Refusal := event pcieConfigReady s

/-- HOST_SOFT_RESET (R75): A write of the key to GLB_SOFT_RESET clears the non-kept blocks and returns the device to HARNESS. -/
def execHostSoftReset (r : Req) (key : Word) (s : State) : Host.Outcome State Fault Refusal :=
  regOp r R.GLB_SOFT_RESET .dev (fun _ => hostSoftReset key.toNat) s

/-- TEMP_SENSOR_UPDATE (R437): The temperature readings update every 100 us. -/
def execTempSensorUpdate (slices drams : List Byte) (s : State) : Host.Outcome State Fault Refusal :=
  runDev (tempSensorUpdate slices drams) s

/-- THERMAL_SHUTDOWN (R439): A sensor reaches the shutdown limit; THERMTRIP_N asserts and the device enters the pin-reset state. -/
def execThermalShutdown (s : State) : Host.Outcome State Fault Refusal := runBlk thermalShutdown s

/-- I2C_COMMAND_WRITE (R434): An I2C write sets the sideband command byte. -/
def execI2cCommandWrite (cmd : Byte) (s : State) : Host.Outcome State Fault Refusal :=
  runDev (i2cCommandWrite cmd.toNat) s

/-- I2C_READ (R434): An I2C read returns the 4 bytes of the selected sideband register. -/
def execI2cRead (s : State) : Host.Outcome State Fault Refusal := runDev i2cRead s

/-- JTAG_INSTRUCTION (R435): A JTAG instruction is shifted in and performed by the TAP. -/
def execJtagInstruction (op : JtagOp) (s : State) : Host.Outcome State Fault Refusal := jtagInstruction op s

end Sys2Proof.Machine
end

