-- ==== Sys2Proof/Machine/CmdChecks.lean ====
section
/-! DEFINITION. Meanings of commands: CRC engines, memory integrity, error units (chs 14, 15). -/

namespace Sys2Proof.Machine

/-- ENGINE_ENABLE (R310): Setting CKU_ENG_CFG.ENABLE attaches a CRC engine to its source, or is refused. -/
def execEngineEnable (r : Req) (cfg : Word) (s : State) : Host.Outcome State Fault Refusal :=
  regDev r R.CKU_ENG_CFG .eng (fun e => engineEnable e (cfg ||| 1#32)) s

/-- ENGINE_DISABLE (R314): Clearing ENABLE stops the engine and abandons a partly seen block. -/
def execEngineDisable (r : Req) (s : State) : Host.Outcome State Fault Refusal :=
  regDev r R.CKU_ENG_CFG .eng engineDisable s

/-- DRAM_REREAD_DONE (R321): The re-read of a failed burst completes as fixed or as a double failure. -/
def execDramRereadDone (burst : Nat) (ok : Bool) (inst : Nat) (s : State) : Host.Outcome State Fault Refusal :=
  eventBlk (dramRereadDone burst ok inst) s

/-- DRAM_REFRESH (R319): A channel is refreshed at its interval. -/
def execDramRefresh (stack : Fin 4) (channel : Fin 16) (s : State) : Host.Outcome State Fault Refusal :=
  event (dramRefresh stack.val channel.val) s

/-- PATROL_SCRUB_READ (R325): The patrol scrubber reads the next burst and records any failure. -/
def execPatrolScrubRead (fails : Bool) (s : State) : Host.Outcome State Fault Refusal :=
  eventBlk (patrolScrubRead fails) s

/-- SRAM_SCRUB_READ (R326): The SRAM scrubber reads a word of a scrubbed class. -/
def execSramScrubRead (cls inst addr : Nat) (detail : List Byte) (fails : Bool) (s : State) : Host.Outcome State Fault Refusal :=
  eventBlk (sramScrubRead cls inst addr detail fails) s

/-- ERROR_BOOKING (R330): A unit books a pending failure into the scrub list and its error queue and raises the event. -/
def execErrorBooking (unit : Fin 33) (s : State) : Host.Outcome State Fault Refusal :=
  eventBlk (errorBooking unit.val) s

/-- ERR_QUEUE_POP (R329): ERR_Q_CTRL.POP removes a unit's head error record. -/
def execErrQueuePop (r : Req) (s : State) : Host.Outcome State Fault Refusal := regDev r R.ERR_Q_CTRL .unit errPop s

/-- DRAM_WINDOW_COMMIT (R333): A write of a burst's last word in the DRAM window commits the burst. -/
def execDramWindowCommit (r : Req) (burst : Fin 65536) (val : Word) (s : State) : Host.Outcome State Fault Refusal :=
  writeCmd r (0x3C00000 + 64 * burst.val + 60) val s

end Sys2Proof.Machine
end

