-- ==== Sys2Proof/Machine/CmdClassifier.lean ====
section
/-! DEFINITION. Meanings of commands: Classifier banks, swaps, updates, counters (ch 06). -/

namespace Sys2Proof.Machine

/-- STAGED_BANK_WRITE (R130): A write through the staged window writes the staged bank or is refused. -/
def execStagedBankWrite (r : Req) (word : BitVec 18) (val : Word) (s : State) : Host.Outcome State Fault Refusal :=
  writeCmd r (0x3000000 + 4 * word.toNat) val s

/-- CLS_SEAL (R130): CLS_STAGE_CTRL.SEAL moves the staged bank to SEALED. -/
def execClsSeal (r : Req) (s : State) : Host.Outcome State Fault Refusal := regDev r R.CLS_STAGE_CTRL .slice clsSeal s

/-- CLS_UNSEAL (R130): CLS_STAGE_CTRL.UNSEAL moves a SEALED bank to LOADING. -/
def execClsUnseal (r : Req) (s : State) : Host.Outcome State Fault Refusal :=
  regDev r R.CLS_STAGE_CTRL .slice clsUnseal s

/-- CLS_SWAP_ARM (R132): CLS_SWAP_CTRL.ARM latches the instant and arms the swap. -/
def execClsSwapArm (r : Req) (s : State) : Host.Outcome State Fault Refusal :=
  regDev r R.CLS_SWAP_CTRL .slice clsSwapArm s

/-- CLS_SWAP_CANCEL (R132): CLS_SWAP_CTRL.CANCEL disarms the swap before its boundary. -/
def execClsSwapCancel (r : Req) (s : State) : Host.Outcome State Fault Refusal :=
  regDev r R.CLS_SWAP_CTRL .slice clsSwapCancel s

/-- CLS_SWAP (R133): At the boundary the staged bank becomes active with a new epoch and the old bank drains. -/
def execClsSwap (slice : Fin 16) (s : State) : Host.Outcome State Fault Refusal := eventBlk (clsSwap slice.val) s

/-- EPOCH_DRAINED (R136): The draining epoch's in-flight count reaches zero and its bank becomes IDLE. -/
def execEpochDrained (slice : Fin 16) (s : State) : Host.Outcome State Fault Refusal := event (epochDrained slice.val) s

/-- CLS_RELEASE (R136): CLS_CTRL.RELEASE forces the draining bank IDLE. -/
def execClsRelease (r : Req) (s : State) : Host.Outcome State Fault Refusal := regDev r R.CLS_CTRL .slice clsRelease s

/-- CLS_COUNTER_CLEAR (R141): CLS_CTRL.CNT_CLEAR clears all classifier counters in one cycle. -/
def execClsCounterClear (r : Req) (s : State) : Host.Outcome State Fault Refusal :=
  regOp r R.CLS_CTRL .slice clsCounterClear s

/-- CLS_UPDATE_GO (R138): CLS_UPD_CTRL.GO queues an update group for the active bank or refuses it. -/
def execClsUpdateGo (r : Req) (s : State) : Host.Outcome State Fault Refusal :=
  regDev r R.CLS_UPD_CTRL .slice (fun i => clsUpdateGo i (reqIdx r)) s

/-- CLS_GROUP_COMMIT (R139): A queued group commits to the active bank at a sequence point. -/
def execClsGroupCommit (slice : Fin 16) (s : State) : Host.Outcome State Fault Refusal :=
  eventBlk (clsGroupCommit slice.val) s

/-- CLS_COUNTER_READ (R142): A read of a counter's low word captures its other three words. -/
def execClsCounterRead (r : Req) (n : Fin 4096) (s : State) : Host.Outcome State Fault Refusal :=
  readCmd r (0x3200000 + 16 * n.val) s

end Sys2Proof.Machine
end

