-- ==== Sys2Proof/Machine/CmdCores.lean ====
section
/-! DEFINITION. Meanings of commands: Drover instructions of channels, tasks, buffers, waits and control; events of threads (ch 16). -/

namespace Sys2Proof.Machine

/-- CHWR (R357): Write one word of the staging slot. -/
def execChwr (t : Fin 256) (rs2 : Fin 32) (word : Fin 16) (s : State) : Host.Outcome State Fault Refusal :=
  runBlk (issue t.val (opChwr t.val rs2.val word.val)) s

/-- CHSTG (R357): Load the staging slot from 64 bytes of cluster memory. -/
def execChstg (t : Fin 256) (rs1 : Fin 32) (imm : BitVec 16) (s : State) : Host.Outcome State Fault Refusal :=
  runBlk (issue t.val (opChstg t.val rs1.val imm)) s

/-- CHCOMMIT (R357): Commit the staging slot to a channel, or return 0 when the channel is full. -/
def execChcommit (t : Fin 256) (rd rs1 : Fin 32) (s : State) : Host.Outcome State Fault Refusal :=
  runBlk (issue t.val (opChcommit t.val rd.val rs1.val)) s

/-- CHRECV (R358): Move a channel's head message to cluster memory, or return 0 when the channel is empty. -/
def execChrecv (t : Fin 256) (rd rs1 rs2 : Fin 32) (s : State) : Host.Outcome State Fault Refusal :=
  runBlk (issue t.val (opChrecv t.val rd.val rs1.val rs2.val)) s

/-- CHCOUNT (R348): Return the number of visible messages in a channel. -/
def execChcount (t : Fin 256) (rd rs1 : Fin 32) (s : State) : Host.Outcome State Fault Refusal :=
  runBlk (issue t.val (opChcount t.val rd.val rs1.val)) s

/-- GETTASK (R372): Block until Stable hands the thread a task. -/
def execGettask (t : Fin 256) (rd : Fin 32) (s : State) : Host.Outcome State Fault Refusal :=
  runBlk (issue t.val (opGettask t.val rd.val)) s

/-- DONETASK (R376): Complete a held task with an empty, injection or void output. -/
def execDonetask (t : Fin 256) (rs1 rs2 : Fin 32) (void : Bool) (s : State) : Host.Outcome State Fault Refusal :=
  runBlk (issue t.val (opDonetask t.val rs1.val rs2.val void)) s

/-- BUFGET (R383): Request a buffer of at least rs1 bytes. -/
def execBufget (t : Fin 256) (rd rs1 : Fin 32) (s : State) : Host.Outcome State Fault Refusal :=
  runBlk (issue t.val (opBufget t.val rd.val rs1.val)) s

/-- BUFPUT (R385): Free a buffer under the free checks. -/
def execBufput (t : Fin 256) (rd rs1 : Fin 32) (s : State) : Host.Outcome State Fault Refusal :=
  runBlk (issue t.val (opBufput t.val rd.val rs1.val)) s

/-- WAIT (R350): Suspend issue in SPIN or TIMER mode. -/
def execWait (t : Fin 256) (rs1 rs2 : Fin 32) (s : State) : Host.Outcome State Fault Refusal :=
  runBlk (issue t.val (opWait t.val rs1.val rs2.val)) s

/-- MFSR (R349): Read a control register or monitor counter. -/
def execMfsr (t : Fin 256) (rd : Fin 32) (sr : Fin 32) (s : State) : Host.Outcome State Fault Refusal :=
  runBlk (issue t.val (opMfsr t.val rd.val sr.val)) s

/-- MTSR (R349): Write a control register. -/
def execMtsr (t : Fin 256) (rs1 : Fin 32) (sr : Fin 32) (s : State) : Host.Outcome State Fault Refusal :=
  runBlk (issue t.val (opMtsr t.val rs1.val sr.val)) s

/-- RFT (R355): Return from a trap to FAULT_PC. -/
def execRft (t : Fin 256) (s : State) : Host.Outcome State Fault Refusal := runBlk (issue t.val (opRft t.val)) s

/-- BRK (R364): Halt at a breakpoint, or fault with BREAK. -/
def execBrk (t : Fin 256) (s : State) : Host.Outcome State Fault Refusal := runBlk (issue t.val (opBrk t.val)) s

/-- DRAM_LOAD_COMPLETE (R338): A thread's DRAM load completes and the thread resumes issue. -/
def execDramLoadComplete (t : Fin 256) (s : State) : Host.Outcome State Fault Refusal :=
  runBlk (dramLoadComplete t.val) s

/-- REGWIN_ACCESS_DONE (R342): A thread's register-window access completes. -/
def execRegwinAccessDone (t : Fin 256) (s : State) : Host.Outcome State Fault Refusal := regwinDone t s

/-- ICACHE_FILL_DONE (R346): An instruction-cache fill from DRAM completes. -/
def execIcacheFillDone (t : Fin 256) (s : State) : Host.Outcome State Fault Refusal := runBlk (fillDoneStep t.val) s

/-- STORE_FAIL_FAULT (R353): An abandoned posted DRAM store raises an imprecise STORE_FAIL fault. -/
def execStoreFailFault (t : Fin 256) (n : Nat) (s : State) : Host.Outcome State Fault Refusal :=
  runBlk (storeFailFault t.val n) s

/-- POSTED_STORE_DONE (R344): A thread's posted DRAM store is performed, which lets a FENCE, CHCOMMIT or DONETASK that waits on it complete. -/
def execPostedStoreDone (t : Fin 256) (n : Nat) (s : State) : Host.Outcome State Fault Refusal :=
  runBlk (postedStoreDone t.val n) s

/-- WAIT_END (R350): A thread's SPIN, TIMER or channel-wake condition holds and the thread resumes. -/
def execWaitEnd (t : Fin 256) (s : State) : Host.Outcome State Fault Refusal := caught (runBlk (waitEnd spinRead t.val)) s

/-- CHANNEL_MESSAGE_VISIBLE (R357): A committed message becomes visible in its channel. -/
def execChannelMessageVisible (ch : Fin 256) (s : State) : Host.Outcome State Fault Refusal :=
  eventBlk (channelVisible ch.val) s

/-- CHANNEL_FLUSH (R358): DRV_CHAN_FLUSH discards a channel's visible messages. -/
def execChannelFlush (r : Req) (s : State) : Host.Outcome State Fault Refusal :=
  regDev r R.DRV_CHAN_FLUSH .chan channelFlush s

/-- THREAD_START (R340): THREAD_CTRL.START starts an OFF thread at THREAD_ENTRY. -/
def execThreadStart (r : Req) (s : State) : Host.Outcome State Fault Refusal :=
  regDev r R.THREAD_CTRL .thread threadStart s

/-- INJECTION_DESCRIPTOR (R360): A slice takes an injection descriptor and injects the packet, or drops the descriptor. -/
def execInjectionDescriptor (slice : Fin 16) (s : State) : Host.Outcome State Fault Refusal :=
  eventBlk (injectionDescriptor slice.val) s

/-- CLUSTER_STALL (R362): All threads of a cluster stay stalled for the limit, and the chosen thread is woken with a STALL fault. -/
def execClusterStall (k : Fin 8) (s : State) : Host.Outcome State Fault Refusal := event (clusterStall k.val) s

/-- DEBUG_HALT (R363): DBG_CTRL.HALT halts the selected thread. -/
def execDebugHalt (r : Req) (s : State) : Host.Outcome State Fault Refusal := regDev r R.DBG_CTRL .thread debugHalt s

/-- DEBUG_RESUME (R363): DBG_CTRL.RESUME restarts a halted thread at DBG_PC. -/
def execDebugResume (r : Req) (s : State) : Host.Outcome State Fault Refusal :=
  regDev r R.DBG_CTRL .thread debugResume s

/-- DEBUG_STEP (R364): DBG_CTRL.STEP issues one instruction of a halted thread and halts it again. -/
def execDebugStep (r : Req) (s : State) : Host.Outcome State Fault Refusal := regOp r R.DBG_CTRL .thread debugStep s

/-- DEBUG_CHDISCARD (R365): DBG_CTRL.CHDISCARD zeroes a halted thread's staging slot. -/
def execDebugChdiscard (r : Req) (s : State) : Host.Outcome State Fault Refusal :=
  regDev r R.DBG_CTRL .thread debugChdiscard s

/-- BREAKPOINT_HIT (R364): A thread reaching DBG_BP.ADDR halts with cause BREAKPOINT. -/
def execBreakpointHit (t : Fin 256) (s : State) : Host.Outcome State Fault Refusal := event (breakpointHit t.val) s

end Sys2Proof.Machine
end

