-- ==== Sys2Proof/Machine/CmdHost.lean ====
section
/-! DEFINITION. Meanings of commands: DMA queues, host rings, events, the PCIe function (ch 19). -/

namespace Sys2Proof.Machine

/-- QUEUE_DOORBELL (R413): A write of HDM_Q_TAIL hands new descriptors to a DMA queue. -/
def execQueueDoorbell (r : Req) (index : BitVec 8) (s : State) : Host.Outcome State Fault Refusal :=
  writeCmd r R.HDM_Q_TAIL (index.zeroExtend 32) s

/-- DMA_INJECT (R412): An INJECT descriptor copies a frame from the host and injects it, then writes its completion. -/
def execDmaInject (q : Fin 64) (data : List Byte) (ok : Bool) (s : State) : Host.Outcome State Fault Refusal :=
  eventBlk (dmaInject q.val data ok) s

/-- DMA_TO_CHAN (R412): A TO_CHAN descriptor copies data into a buffer and commits a message. -/
def execDmaToChan (q : Fin 64) (data : List Byte) (ok : Bool) (s : State) : Host.Outcome State Fault Refusal :=
  eventBlk (dmaToChan q.val data ok) s

/-- DMA_FROM_CHAN (R412): A FROM_CHAN queue writes a channel message's buffer to host memory and frees it. -/
def execDmaFromChan (q : Fin 64) (ok : Bool) (s : State) : Host.Outcome State Fault Refusal :=
  eventBlk (dmaFromChan q.val ok) s

/-- RING_ENTRY_WRITE (R416): A stream entry is written to its host ring and the producer index is written back. -/
def execRingEntryWrite (ring : Fin 8) (s : State) : Host.Outcome State Fault Refusal :=
  eventBlk (fun b => ringEntryMove ring.val (b.on Dev.beginAll)) s

/-- RING_HEAD_WRITE (R416): The host returns ring entries by writing HDM_RING_HEAD. -/
def execRingHeadWrite (r : Req) (index : BitVec 20) (s : State) : Host.Outcome State Fault Refusal :=
  writeCmd r R.HDM_RING_HEAD (index.zeroExtend 32) s

/-- EVENT_RING_WRITE (R418): A queued event record is written to its class ring. -/
def execEventRingWrite (cls : Fin 4) (s : State) : Host.Outcome State Fault Refusal :=
  eventBlk (eventRingWrite cls.val) s

/-- SOFTWARE_EVENT (R420): A write of ERR_SW_EVENT raises a software event. -/
def execSoftwareEvent (r : Req) (cls : Fin 4) (code : BitVec 16) (s : State) : Host.Outcome State Fault Refusal :=
  regDev r R.ERR_SW_EVENT .req (fun _ => softwareEvent r cls.val code.toNat) s

/-- PCIE_CONFIG_REQUEST (R72): A PCIe configuration request is answered with Retry Status before the 20 ms point and performed normally after it. -/
def execPcieConfigRequest (write : Bool) (reg : Nat) (val : Word) (s : State) : Host.Outcome State Fault Refusal :=
  event (pcieConfig write reg val) s

/-- MSIX_TABLE_ACCESS (R421): A host access to the BAR4 MSI-X table or pending bit array changes the masking or reads the pending bits. -/
def execMsixTableAccess (write : Bool) (off : Nat) (val : Word) (s : State) : Host.Outcome State Fault Refusal :=
  event (fun d => if d.isRoot && d.host.pcieReady then msixAccess write (off % 0x10000) val d else d) s

end Sys2Proof.Machine
end

