-- ==== Sys2Proof/Machine/CmdLoad.lean ====
section
/-! DEFINITION. Meanings of commands: The harness loader (ch 02). -/

namespace Sys2Proof.Machine

/-- LOAD_FLASH (R55): HLD_CTRL.START with SRC FLASH starts a load from flash slot A, then slot B. -/
def execLoadFlash (serve : Bool) (peer : Fin 64) (s : State) : Host.Outcome State Fault Refusal :=
  event (fun d => d.hldCtrl (loadCtrl 0 false serve peer.val)) s

/-- LOAD_PCIE (R57): HLD_CTRL.START with SRC PCIE starts a boot load from host memory. -/
def execLoadPcie (serve : Bool) (peer : Fin 64) (s : State) : Host.Outcome State Fault Refusal :=
  event (fun d => d.hldCtrl (loadCtrl 1 false serve peer.val)) s

/-- LOAD_HALTER (R58): HLD_CTRL.START with SRC HALTER starts a load of a peer's retained image. -/
def execLoadHalter (serve : Bool) (peer : Fin 64) (s : State) : Host.Outcome State Fault Refusal :=
  event (fun d => d.hldCtrl (loadCtrl 2 false serve peer.val)) s

/-- LOAD_LIVE (R62): HLD_CTRL.START with LIVE = 1 and SRC PCIE starts a live image load. -/
def execLoadLive (serve : Bool) (peer : Fin 64) (s : State) : Host.Outcome State Fault Refusal :=
  event (fun d => d.hldCtrl (loadCtrl 1 true serve peer.val)) s

/-- HEADER_FETCH_DONE (R52): The 128-byte header arrives and the header checks run. -/
def execHeaderFetchDone (data : List Byte) (ok : Bool) (s : State) : Host.Outcome State Fault Refusal :=
  event (headerFetchDone data ok) s

/-- MANIFEST_FETCH_DONE (R52): The rest of the manifest and the signature block arrive, the format and key checks run and PHASE moves to VERIFY. -/
def execManifestFetchDone (data : List Byte) (ok : Bool) (s : State) : Host.Outcome State Fault Refusal :=
  event (manifestFetchDone data ok) s

/-- SIGNATURE_CHECK_DONE (R52): ECDSA verification ends; the table, type and mandatory checks follow and PHASE moves to DIGEST. -/
def execSignatureCheckDone (s : State) : Host.Outcome State Fault Refusal := eventBlk signatureCheckDone s

/-- BODY_STAGED (R52): A body is staged and hashed and its records are checked; after the last body the coverage checks run. -/
def execBodyStaged (data : List Byte) (ok : Bool) (s : State) : Host.Outcome State Fault Refusal :=
  eventBlk (bodyStaged data ok) s

/-- FETCH_TIMEOUT (R56): A flash or PCIe fetch misses its time limit and the load ends with FETCH_ERROR. -/
def execFetchTimeout (s : State) : Host.Outcome State Fault Refusal := event fetchTimeout s

/-- HALTER_LOAD_RETRY (R55): With BOOTSEL 10, an unserved image request is retried every 1 ms. -/
def execHalterLoadRetry (s : State) : Host.Outcome State Fault Refusal := event halterLoadRetry s

/-- APPLY_PASS_END (R53): The boot apply pass ends: DONE is set, or APPLY_DIGEST stops it; slices leave STRUCTURE and clusters are released. -/
def execApplyPassEnd (s : State) : Host.Outcome State Fault Refusal := applyPassEnd s

/-- LIVE_UNIT_PRECHECK (R63): The loader tests a live unit's preconditions and refuses the unit or enters STRUCTURE. -/
def execLiveUnitPrecheck (s : State) : Host.Outcome State Fault Refusal := eventBlk liveUnitPrecheck s

/-- LIVE_EPOCH_WAIT_EXPIRY (R63): HLD_LIVE_WAIT passes without the staged epoch draining, and the unit is refused with EPOCH_BUSY. -/
def execLiveEpochWaitExpiry (s : State) : Host.Outcome State Fault Refusal := event liveEpochWaitExpiry s

/-- LIVE_UNIT_APPLY_END (R63): A live unit's sections are applied, the unit returns to SERVICE and its HLD_LIVE_DONE bit is set. -/
def execLiveUnitApplyEnd (s : State) : Host.Outcome State Fault Refusal := liveUnitApplyEnd s

end Sys2Proof.Machine
end

