-- ==== Sys2Proof/Machine/CmdPath.lean ====
section
/-! DEFINITION. Meanings of commands: Packets on their way: ingress pipeline, crosspoint, egress (chs 01, 07, 08, 09). -/

namespace Sys2Proof.Machine

/-- INGRESS_PACKET_START (R20): The input arbiter starts one packet from a line or internal source into the ingress pipeline. -/
def execIngressPacketStart (slice : Fin 16) (s : State) : Host.Outcome State Fault Refusal :=
  eventBlk (ingressPacketStart slice.val) s

/-- MISS_LANE_RESOLVE (R156): A miss lane's DRAM reads complete and its record is found or inserted, then its packets continue. -/
def execMissLaneResolve (slice : Fin 16) (n : Nat) (s : State) : Host.Outcome State Fault Refusal :=
  eventBlk (missLaneResolve slice.val n) s

/-- LEAF_LANE_DONE (R192): A forwarding miss lane's leaf reads complete and its packet continues. -/
def execLeafLaneDone (slice : Fin 16) (n : Nat) (ok : Bool) (s : State) : Host.Outcome State Fault Refusal :=
  eventBlk (leafLaneDone slice.val n ok) s

/-- ROW_WRITE_END (R203): The row write of an admitted packet into its crosspoints or the packet store ends. -/
def execRowWriteEnd (slice : Fin 16) (s : State) : Host.Outcome State Fault Refusal := event (rowWriteEnd slice.val) s

/-- STORE_FETCH_DONE (R241): The fetch of a packet-store head completes, the packet becomes readable and its bursts are freed. -/
def execStoreFetchDone (q : Fin 65536) (ok : Bool) (s : State) : Host.Outcome State Fault Refusal :=
  event (storeFetchDone q.val ok) s

/-- EGRESS_FRAME_START (R208): The egress pipeline picks a port and takes its leaf-queue head for transmission. -/
def execEgressFrameStart (slice : Fin 16) (s : State) : Host.Outcome State Fault Refusal :=
  eventBlk (egressFrameStart slice.val) s

/-- FRAME_READ_END (R202): A packet's last byte is read and its cells return to the crosspoint. -/
def execFrameReadEnd (p : Fin 512) (parity : Bool) (s : State) : Host.Outcome State Fault Refusal :=
  event (frameReadEnd p.val parity) s

/-- REPLICATE (R216): The replicator requests admission of one multicast copy per cycle. -/
def execReplicate (slice : Fin 16) (s : State) : Host.Outcome State Fault Refusal := event (replicate slice.val) s

/-- RESIDUE_RETRY (R217): Every 256 cycles the residue ports of listed packets are retried. -/
def execResidueRetry (slice : Fin 16) (s : State) : Host.Outcome State Fault Refusal := event (residueRetry slice.val) s

/-- RESIDUE_EXPIRY (R218): MC_RESIDUE_WAIT expires and the copies not yet made are dropped. -/
def execResidueExpiry (slice : Fin 16) (s : State) : Host.Outcome State Fault Refusal :=
  event (residueExpiry slice.val) s

end Sys2Proof.Machine
end

