-- ==== Sys2Proof/Machine/CmdPorts.lean ====
section
/-! DEFINITION. Meanings of commands: Ports, carriers, HOLD inputs, rate changes (chs 04, 12). -/

namespace Sys2Proof.Machine

/-- FRAME_RECEIVE (R22): The last byte of a frame arrives at a port; the length, FCS and MAC Control checks and the receive-buffer check run. -/
def execFrameReceive (p : Fin 512) (bytes : List Byte) (s : State) : Host.Outcome State Fault Refusal :=
  event (frameReceive p.val bytes) s

/-- PORT_DOWN (R89): A port loses lock or alignment or is disabled; its frames are cut short and its admitted packets discarded. -/
def execPortDown (p : Fin 512) (fec cut : Bool) (s : State) : Host.Outcome State Fault Refusal :=
  event (portDown p.val fec cut) s

/-- PORT_UP (R89): An enabled port holds lock for PRT_LINK_UP_HOLD and comes up. -/
def execPortUp (p : Fin 512) (s : State) : Host.Outcome State Fault Refusal := event (portUp p.val) s

/-- CARRIER_DOWN (R97): A PHY or the overhead loses lock, and the carrier and all its clients go down. -/
def execCarrierDown (c : Fin 64) (aligned : BitVec 16) (oh : Bool) (cut : Word) (s : State) : Host.Outcome State Fault Refusal :=
  event (carrierDown c.val aligned.toNat oh cut.toNat) s

/-- CARRIER_UP (R97): The carrier holds lock for CAR_LINK_UP_HOLD, and it comes up with its clients. -/
def execCarrierUp (c : Fin 64) (s : State) : Host.Outcome State Fault Refusal := event (carrierUp c.val) s

/-- PCS_LOCK_GAINED (R89): A port's PCS, or a carrier's PHYs and overhead, gain lock and alignment; FEC_LOCK or OH_LOCK sets and the up-hold count starts. -/
def execPcsLockGained (lock : PcsLock) (n : Fin 512) (s : State) : Host.Outcome State Fault Refusal :=
  event (pcsLockGained lock n.val) s

/-- CAL_ENTRY_WRITE (R93): A write of CAR_CAL_ENTRY loads a calendar slot or is refused, and SLOT advances. -/
def execCalEntryWrite (r : Req) (entry : BitVec 6) (s : State) : Host.Outcome State Fault Refusal :=
  regDev r R.CAR_CAL_ENTRY .carrier (fun c => calEntryWrite (r == .loader) c entry.toNat) s

/-- CAL_ENTRY_READ (R93): A read of CAR_CAL_ENTRY returns the slot and advances SLOT. -/
def execCalEntryRead (r : Req) (s : State) : Host.Outcome State Fault Refusal :=
  regAsk r R.CAR_CAL_ENTRY .carrier (fun c => calEntryRead c) s

/-- CAL_SWITCH_ARM (R94): CAR_CAL_CTRL.ARM latches the instant, sets CR and arms the calendar switch. -/
def execCalSwitchArm (r : Req) (s : State) : Host.Outcome State Fault Refusal :=
  regDev r R.CAR_CAL_CTRL .carrier calSwitchArm s

/-- CAL_SWITCH_CANCEL (R94): CAR_CAL_CTRL.CANCEL disarms the switch before its boundary. -/
def execCalSwitchCancel (r : Req) (s : State) : Host.Outcome State Fault Refusal :=
  regDev r R.CAR_CAL_CTRL .carrier calSwitchCancel s

/-- CAL_SWITCH (R94): At the qualifying multiframe boundary the standby calendar becomes active and the rates change. -/
def execCalSwitch (c : Fin 64) (s : State) : Host.Outcome State Fault Refusal := event (calSwitch c.val) s

/-- CAL_SWITCH_ABORT (R94): A handshake switch without CA by its last boundary is abandoned. -/
def execCalSwitchAbort (c : Fin 64) (s : State) : Host.Outcome State Fault Refusal := event (calSwitchAbort c.val) s

/-- CA_RECEIVED (R94): CA arrives in the received overhead and is recorded. -/
def execCaReceived (c : Fin 64) (on : Bool) (s : State) : Host.Outcome State Fault Refusal :=
  event (caReceived c.val on) s

/-- MF_NEXT_READ (R95): A read of CAR_MF_NEXT_NS captures both seconds registers of the next boundary. -/
def execMfNextRead (r : Req) (s : State) : Host.Outcome State Fault Refusal :=
  regAsk r R.CAR_MF_NEXT_NS .carrier (fun c => mfNextRead (reqIdx r) c) s

/-- RX_CALENDAR_CHANGE (R96): The received CCC selects the other calendar and the receiver changes calendars at the boundary. -/
def execRxCalendarChange (c : Fin 64) (ccc : Bool) (nums : List (BitVec 6)) (s : State) : Host.Outcome State Fault Refusal :=
  event (rxCalendarChange c.val ccc (nums.map (fun n => n.toNat))) s

/-- HOLD_ASSERT (R99): A sampled HOLD input stops new frame starts on the carriers and ports that follow it. -/
def execHoldAssert (n : Fin 32) (s : State) : Host.Outcome State Fault Refusal := event (holdAssert n.val) s

/-- HOLD_RELEASE (R100): The HOLD input reads released and the RESUME_NS interval starts. -/
def execHoldRelease (n : Fin 32) (s : State) : Host.Outcome State Fault Refusal := event (holdRelease n.val) s

/-- HOLD_RESUME (R100): RESUME_NS passes after release and frame starts may begin again. -/
def execHoldResume (c : Fin 64) (s : State) : Host.Outcome State Fault Refusal := event (holdResume c.val) s

/-- HOLD_STUCK (R101): An input stays asserted for STUCK_MS, and its stuck bit and an ALARM are raised. -/
def execHoldStuck (n : Fin 32) (s : State) : Host.Outcome State Fault Refusal := event (holdStuck n.val) s

/-- HOLD_CHATTER (R101): An input is asserted more than CHATTER_MAX times in a 1 ms window. -/
def execHoldChatter (n : Fin 32) (s : State) : Host.Outcome State Fault Refusal := event (holdChatter n.val) s

/-- HOLD_MASK_WRITE (R101): A change of CAR_HOLD_MASK releases or holds the followers of an asserted input. -/
def execHoldMaskWrite (r : Req) (mask : Word) (s : State) : Host.Outcome State Fault Refusal :=
  regDev r R.CAR_HOLD_MASK .dev (fun _ => holdMaskWrite mask) s

/-- RC_ARM (R271): CAR_RC_CTRL.ARM computes T_plan and the rates and arms the coordinated change, or is refused. -/
def execRcArm (r : Req) (s : State) : Host.Outcome State Fault Refusal := regDev r R.CAR_RC_CTRL .carrier rcArm s

/-- RC_CANCEL (R281): CAR_RC_CTRL.CANCEL disarms the change and ends its ramp. -/
def execRcCancel (r : Req) (s : State) : Host.Outcome State Fault Refusal := regDev r R.CAR_RC_CTRL .carrier rcCancel s

/-- RAMP_START (R275): At T_q a leaf's admission moves to the minimum of the old and new rates. -/
def execRampStart (c : Fin 64) (q : Fin 65536) (s : State) : Host.Outcome State Fault Refusal :=
  event (rampStart c.val q.val) s

/-- RATE_CHANGE (R277): At T_plan the calendar switches, the member operation applies and the rates update. -/
def execRateChange (c : Fin 64) (s : State) : Host.Outcome State Fault Refusal := event (rateChange c.val) s

/-- RC_TRIG_START (R278): The rate-change pulse asserts on TRIG at T_plan - ADVANCE. -/
def execRcTrigStart (c : Fin 64) (s : State) : Host.Outcome State Fault Refusal := event (rcTrigStart c.val) s

/-- RC_TRIG_END (R278): The rate-change pulse ends after TRIG_WIDTH_NS. -/
def execRcTrigEnd (c : Fin 64) (s : State) : Host.Outcome State Fault Refusal := event (rcTrigEnd c.val) s

/-- RX_CHECK_LATE (R282): RX_WAIT passes after the change without the CCC flip, and RX_LATE is set. -/
def execRxCheckLate (c : Fin 64) (s : State) : Host.Outcome State Fault Refusal := event (rxCheckLate c.val) s

end Sys2Proof.Machine
end

