-- ==== Sys2Proof/Machine/CmdStates.lean ====
section
/-! DEFINITION. Meanings of commands: Slice and cluster states, recovery (ch 03). -/

namespace Sys2Proof.Machine

/-- A release of a cluster; one of a held cluster without firmware is unpredictable (R76). -/
def clusterReleaseCmd (k : Nat) (s : State) : Host.Outcome State Fault Refusal :=
  if s.dev.running && s.dev.clusterHeld k && !bit s.dev.ld.fw k then .fault (.unpredictable 76)
  else event (clusterRelease k) s

/-- SLICE_RESET (R79): A GLB_SLICE_RESET bit starts or restarts a slice recovery at step 1. -/
def execSliceReset (slice : Fin 16) (s : State) : Host.Outcome State Fault Refusal := event (sliceReset slice.val) s

/-- PIPELINE_STALL (R78): A pipeline that has started no packet for 1 ms while it has work causes a slice-fatal recovery. -/
def execPipelineStall (slice : Fin 16) (egress : Bool) (s : State) : Host.Outcome State Fault Refusal :=
  event (pipelineStall slice.val egress) s

/-- RECOVERY_LOGIC_RESET_DONE (R78): The slice logic has been reset and the slice waits for the loader. -/
def execRecoveryLogicResetDone (slice : Fin 16) (s : State) : Host.Outcome State Fault Refusal :=
  eventBlk (recoveryLogicResetDone slice.val) s

/-- RECOVERY_REAPPLY_START (R79): The loader becomes free and starts re-applying a waiting slice's sections from the retained image. -/
def execRecoveryReapplyStart (s : State) : Host.Outcome State Fault Refusal := event recoveryReapplyStart s

/-- RECOVERY_APPLY_END (R78): The recovery apply pass ends; the slice leaves STRUCTURE or goes back to RECOVERY on APPLY_DIGEST. -/
def execRecoveryApplyEnd (s : State) : Host.Outcome State Fault Refusal := recoveryApplyEnd s

/-- CLUSTER_HOLD_SET (R75): Setting a GLB_CLUSTER_HOLD bit resets the cluster's threads and voids their tasks. -/
def execClusterHoldSet (k : Fin 8) (s : State) : Host.Outcome State Fault Refusal := event (clusterHoldSet k.val) s

/-- CLUSTER_RELEASE (R76): Clearing a GLB_CLUSTER_HOLD bit releases the cluster, and its ROLE 1 threads start. -/
def execClusterRelease (k : Fin 8) (s : State) : Host.Outcome State Fault Refusal := clusterReleaseCmd k.val s

/-- STRUCT_RELEASE (R68): A GLB_STRUCT_REL bit releases a slice that waits in the STRUCTURE hold. -/
def execStructRelease (slice : Fin 16) (s : State) : Host.Outcome State Fault Refusal :=
  event (structRelease slice.val) s

/-- SERVICE_REQUEST (R69): A GLB_SERVICE_REQ bit moves a slice from STARTUP or TEST to SERVICE. -/
def execServiceRequest (slice : Fin 16) (s : State) : Host.Outcome State Fault Refusal :=
  event (serviceRequest slice.val) s

/-- TEST_REQUEST (R69): A GLB_TEST_REQ bit moves a slice from SERVICE to TEST. -/
def execTestRequest (slice : Fin 16) (s : State) : Host.Outcome State Fault Refusal := event (testRequest slice.val) s

/-- AUTO_SERVICE_ENTRY (R69): With AUTO_SERVICE set, a slice enters SERVICE once all its carved ports are enabled. -/
def execAutoServiceEntry (slice : Fin 16) (s : State) : Host.Outcome State Fault Refusal :=
  event (autoServiceEntry slice.val) s

end Sys2Proof.Machine
end

