-- ==== Sys2Proof/Machine/CmdTables.lean ====
section
/-! DEFINITION. Meanings of commands: The flow table, L2, LPM and MPLS tables, table entries (chs 07, 08). -/

namespace Sys2Proof.Machine

/-- CACHE_SCAN_VISIT (R161): Every 256 cycles the scanner ages one flow-cache bucket. -/
def execCacheScanVisit (s : State) : Host.Outcome State Fault Refusal := eventBlk cacheScanVisit s

/-- DRAM_SCAN_VISIT (R161): The scanner visits DRAM slots at FLW_SCAN_RATE and ages them. -/
def execDramScanVisit (s : State) : Host.Outcome State Fault Refusal := eventBlk dramScanVisit s

/-- FLW_OP_LOOKUP (R171): The software LOOKUP operation returns the matching flow record. -/
def execFlwOpLookup (r : Req) (s : State) : Host.Outcome State Fault Refusal := regOp r R.FLW_OP_CTRL .req flwOpLookup s

/-- FLW_OP_INSERT (R171): The software INSERT operation inserts a record under the insertion rules. -/
def execFlwOpInsert (r : Req) (s : State) : Host.Outcome State Fault Refusal := regOp r R.FLW_OP_CTRL .req flwOpInsert s

/-- FLW_OP_UPDATE (R172): The software UPDATE operation writes the masked words of a record, with an optional VERSION check. -/
def execFlwOpUpdate (r : Req) (s : State) : Host.Outcome State Fault Refusal := regOp r R.FLW_OP_CTRL .req flwOpUpdate s

/-- FLW_OP_DELETE (R171): The software DELETE operation frees the matching slot and may export it. -/
def execFlwOpDelete (r : Req) (s : State) : Host.Outcome State Fault Refusal := regOp r R.FLW_OP_CTRL .req flwOpDelete s

/-- FLW_OP_READ_SLOT (R171): The software READ_SLOT operation returns the record of a slot. -/
def execFlwOpReadSlot (r : Req) (s : State) : Host.Outcome State Fault Refusal :=
  regOp r R.FLW_OP_CTRL .req flwOpReadSlot s

/-- LEARN_WINDOW_CLOSE (R179): A learn window closes after 2,000 ns and posts one learn record. -/
def execLearnWindowClose (slice : Fin 16) (n : Nat) (s : State) : Host.Outcome State Fault Refusal :=
  event (learnWindowClose slice.val n) s

/-- LEARN_HOLDOFF_END (R180): A coalescer place's hold-off ends and the place becomes free. -/
def execLearnHoldoffEnd (slice : Fin 16) (n : Nat) (s : State) : Host.Outcome State Fault Refusal :=
  event (learnHoldoffEnd slice.val n) s

/-- L2_OP_INSERT (R183): The L2 INSERT operation writes, places or evicts an entry. -/
def execL2OpInsert (r : Req) (s : State) : Host.Outcome State Fault Refusal :=
  regOp r R.FWD_L2_OP_CTRL .slice (l2OpInsert (reqIdx r)) s

/-- L2_OP_DELETE (R183): The L2 DELETE operation clears an entry. -/
def execL2OpDelete (r : Req) (s : State) : Host.Outcome State Fault Refusal :=
  regOp r R.FWD_L2_OP_CTRL .slice (l2OpDelete (reqIdx r)) s

/-- L2_OP_LOOKUP (R183): The L2 LOOKUP operation returns an entry's DEST. -/
def execL2OpLookup (r : Req) (s : State) : Host.Outcome State Fault Refusal :=
  regOp r R.FWD_L2_OP_CTRL .slice (l2OpLookup (reqIdx r)) s

/-- L2_OP_FLUSH (R183): The L2 FLUSH operation starts deleting the matching non-static entries. -/
def execL2OpFlush (r : Req) (s : State) : Host.Outcome State Fault Refusal :=
  regOp r R.FWD_L2_OP_CTRL .slice (l2OpFlush (reqIdx r)) s

/-- L2_FLUSH_DONE (R183): A FLUSH operation finishes its walk of the table. -/
def execL2FlushDone (slice : Fin 16) (s : State) : Host.Outcome State Fault Refusal := event (l2FlushDone slice.val) s

/-- L2_SCAN_VISIT (R184): The L2 scanner clears HIT bits or ages out entries. -/
def execL2ScanVisit (slice : Fin 16) (s : State) : Host.Outcome State Fault Refusal := event (l2ScanVisit slice.val) s

/-- LPM_OP_ADD (R190): The LPM ADD operation adds or replaces a prefix. -/
def execLpmOpAdd (r : Req) (s : State) : Host.Outcome State Fault Refusal := regOp r R.FWD_LPM_OP_CTRL .req lpmOpAdd s

/-- LPM_OP_DELETE (R190): The LPM DELETE operation removes a prefix. -/
def execLpmOpDelete (r : Req) (s : State) : Host.Outcome State Fault Refusal :=
  regOp r R.FWD_LPM_OP_CTRL .req lpmOpDelete s

/-- LPM_OP_LOOKUP (R190): The LPM LOOKUP operation returns an exact prefix. -/
def execLpmOpLookup (r : Req) (s : State) : Host.Outcome State Fault Refusal :=
  regOp r R.FWD_LPM_OP_CTRL .req lpmOpLookup s

/-- LPM_OP_MATCH (R190): The LPM MATCH operation returns the longest match for an address. -/
def execLpmOpMatch (r : Req) (s : State) : Host.Outcome State Fault Refusal :=
  regOp r R.FWD_LPM_OP_CTRL .req lpmOpMatch s

/-- LPM_COMMIT (R190): An ADD or DELETE commits to the table in one cycle. -/
def execLpmCommit (s : State) : Host.Outcome State Fault Refusal := eventBlk lpmCommit s

/-- MPLS_OP_WRITE (R191): The MPLS WRITE operation writes a label record and marks the label. -/
def execMplsOpWrite (r : Req) (s : State) : Host.Outcome State Fault Refusal :=
  regOp r R.FWD_MPLS_OP_CTRL .req mplsOpWrite s

/-- MPLS_OP_CLEAR (R191): The MPLS CLEAR operation unmarks a label. -/
def execMplsOpClear (r : Req) (s : State) : Host.Outcome State Fault Refusal :=
  regOp r R.FWD_MPLS_OP_CTRL .req mplsOpClear s

/-- MPLS_OP_READ (R191): The MPLS READ operation returns a label record. -/
def execMplsOpRead (r : Req) (s : State) : Host.Outcome State Fault Refusal :=
  regOp r R.FWD_MPLS_OP_CTRL .req mplsOpRead s

/-- TABLE_ENTRY_WRITE (R198): A write of a table entry's last word commits the staged entry. -/
def execTableEntryWrite (r : Req) (word : BitVec 19) (val : Word) (s : State) : Host.Outcome State Fault Refusal :=
  writeCmd r (0x3400000 + 4 * word.toNat) val s

/-- STAT_COUNTER_READ (R197): A read of a statistics counter's low word captures its high word. -/
def execStatCounterRead (r : Req) (n : Fin 32768) (s : State) : Host.Outcome State Fault Refusal :=
  readCmd r (0x3600000 + 8 * n.val) s

end Sys2Proof.Machine
end

