-- ==== Sys2Proof/Machine/CmdTasks.lean ====
section
/-! DEFINITION. Meanings of commands: Stable, buffer pools, the performance monitor (chs 17, 18). -/

namespace Sys2Proof.Machine

/-- TASK_POST (R370): A hardware source posts a task with a buffer and ticket, or the post fails. -/
def execTaskPost (s : State) : Host.Outcome State Fault Refusal := eventBlk (fun b => taskPost (b.on Dev.beginAll)) s

/-- STB_POST (R374): The POST operation creates a software task, ready or delayed. -/
def execStbPost (r : Req) (delay : BitVec 24) (s : State) : Host.Outcome State Fault Refusal :=
  regOp r R.STB_POST_CTRL .req (fun _ => stbPost r delay.toNat) s

/-- STB_CANCEL (R374): The CANCEL operation frees a READY or DELAYED task and voids its ticket. -/
def execStbCancel (r : Req) (s : State) : Host.Outcome State Fault Refusal :=
  regDev r R.STB_POST_CTRL .req (fun _ => stbCancel r) s

/-- STB_VOID (R374): The VOID operation ends a HANDED task as void. -/
def execStbVoid (r : Req) (s : State) : Host.Outcome State Fault Refusal :=
  regDev r R.STB_POST_CTRL .req (fun _ => stbVoid r) s

/-- DELAY_TICK (R375): At each tick, the delayed tasks that fall due become READY. -/
def execDelayTick (s : State) : Host.Outcome State Fault Refusal := event delayTick s

/-- TASK_HANDOFF (R373): Stable hands a READY task to an eligible thread and transfers its buffer. -/
def execTaskHandoff (k : Fin 8) (s : State) : Host.Outcome State Fault Refusal := eventBlk (taskHandoff k.val) s

/-- ORDERED_RELEASE (R377): A completion whose ticket equals P is released to its slice and P advances. -/
def execOrderedRelease (g : Fin 256) (s : State) : Host.Outcome State Fault Refusal := eventBlk (orderedRelease g.val) s

/-- GROUP_STUCK (R379): A later ticket waits STB_STUCK_US behind P, and STUCK is reported. -/
def execGroupStuck (g : Fin 256) (s : State) : Host.Outcome State Fault Refusal := event (groupStuck g.val) s

/-- BPM_GET (R383): The GET operation hands out a buffer or answers EMPTY. -/
def execBpmGet (r : Req) (s : State) : Host.Outcome State Fault Refusal :=
  regDev r R.BPM_OP_CTRL .req (fun _ => bpmOp r 0) s

/-- BPM_PUT (R385): The PUT operation frees a buffer under the free checks. -/
def execBpmPut (r : Req) (s : State) : Host.Outcome State Fault Refusal :=
  regDev r R.BPM_OP_CTRL .req (fun _ => bpmOp r 1) s

/-- BPM_XFER (R386): The XFER operation changes the owner of a held buffer. -/
def execBpmXfer (r : Req) (s : State) : Host.Outcome State Fault Refusal :=
  regDev r R.BPM_OP_CTRL .req (fun _ => bpmOp r 2) s

/-- PMU_FREEZE (R394): PMU_CTRL.FREEZE stops or restarts all counting. -/
def execPmuFreeze (r : Req) (freeze : Bool) (s : State) : Host.Outcome State Fault Refusal :=
  regDev r R.PMU_CTRL .dev (fun _ => pmuFreeze freeze) s

/-- PMU_CLEAR (R394): PMU_CTRL.CLEAR zeroes all counters and reloads the samplers. -/
def execPmuClear (r : Req) (s : State) : Host.Outcome State Fault Refusal :=
  regDev r R.PMU_CTRL .dev (fun _ => pmuClear) s

/-- SAMPLER_RECORD (R397): The sampler countdown reaches zero and a sample record is written. -/
def execSamplerRecord (k : Fin 8) (s : State) : Host.Outcome State Fault Refusal := event (samplerRecord k.val) s

end Sys2Proof.Machine
end

