-- ==== Sys2Proof/Machine/CmdTeams.lean ====
section
/-! DEFINITION. Meanings of commands: Carrier teams (ch 11). -/

namespace Sys2Proof.Machine

/-- MEMBER_FRAME_RECEIVE (R258): A member frame passes the shim and alive checks and goes to the resequencer or updates the probe state. -/
def execMemberFrameReceive (p : Fin 512) (s : State) : Host.Outcome State Fault Refusal :=
  event (memberFrameReceive p.val) s

/-- SYNC_WAIT_END (R261): An UNSYNCED domain's sync wait ends and E takes the smallest held sequence. -/
def execSyncWaitEnd (t : Fin 32) (dm : Fin 4096) (s : State) : Host.Outcome State Fault Refusal :=
  event (syncWaitEnd t.val dm.val) s

/-- GAP_TIMER_EXPIRY (R263): The gap timer reaches GAP_WAIT - F; the gap is skipped and the in-order frames are released. -/
def execGapTimerExpiry (t : Fin 32) (dm : Fin 4096) (s : State) : Host.Outcome State Fault Refusal :=
  event (gapTimerExpiry t.val dm.val) s

/-- SPILL_READBACK (R262): A spilled frame is read back from PKT ahead of its release. -/
def execSpillReadback (t : Fin 32) (dm : Fin 4096) (ok : Bool) (s : State) : Host.Outcome State Fault Refusal :=
  event (spillReadback t.val dm.val ok) s

/-- IDLE_PROBE (R255): A probe is sent on a member idle for IDLE_US. -/
def execIdleProbe (k : Fin 512) (s : State) : Host.Outcome State Fault Refusal := event (idleProbe k.val) s

/-- FORCED_PROBE (R255): A probe is forced at the next frame boundary after MAX_US without one. -/
def execForcedProbe (k : Fin 512) (s : State) : Host.Outcome State Fault Refusal := event (forcedProbe k.val) s

/-- DRAIN_PROBE (R255): A DRAINING member sends its DRAIN probe and becomes OUT. -/
def execDrainProbe (k : Fin 512) (s : State) : Host.Outcome State Fault Refusal := event (drainProbe k.val) s

/-- MEMBER_DRAIN (R252): TEM_MBR_CTRL.DRAIN moves an ACTIVE member to DRAINING. -/
def execMemberDrain (r : Req) (s : State) : Host.Outcome State Fault Refusal :=
  regDev r R.TEM_MBR_CTRL .member memberDrain s

/-- MEMBER_RESTORE (R252): TEM_MBR_CTRL.RESTORE moves an OUT member with an up port to ACTIVE. -/
def execMemberRestore (r : Req) (s : State) : Host.Outcome State Fault Refusal :=
  regDev r R.TEM_MBR_CTRL .member memberRestore s

/-- TEAM_TX_RESET (R267): TX_RESET advances the epoch, zeroes the next-to-send values and sends probes. -/
def execTeamTxReset (r : Req) (s : State) : Host.Outcome State Fault Refusal :=
  regDev r R.TEM_TEAM_CTRL .team teamTxReset s

/-- TEAM_RESYNC (R267): RESYNC makes every domain UNSYNCED and discards the held frames. -/
def execTeamResync (r : Req) (s : State) : Host.Outcome State Fault Refusal :=
  regDev r R.TEM_TEAM_CTRL .team teamResync s

/-- MEMBER_SILENT (R266): A LIVE member without an accepted frame for TEM_SILENT becomes SILENT. -/
def execMemberSilent (k : Fin 512) (s : State) : Host.Outcome State Fault Refusal := event (memberSilent k.val) s

end Sys2Proof.Machine
end

