-- ==== Sys2Proof/Machine/CmdTime.lean ====
section
/-! DEFINITION. Meanings of commands: Network time, triggers, captures (ch 13). -/

namespace Sys2Proof.Machine

/-- NTU_CORRECTION (R289): A write of NTU_ADJ_LO requests a step that is applied or refused against JUMP_LIMIT. -/
def execNtuCorrection (r : Req) (lo : Word) (s : State) : Host.Outcome State Fault Refusal :=
  writeCmd r R.NTU_ADJ_LO lo s

/-- NTU_FORCE_STEP (R290): NTU_CTRL.FORCE_STEP applies the pending correction. -/
def execNtuForceStep (r : Req) (s : State) : Host.Outcome State Fault Refusal :=
  regDev r R.NTU_CTRL .dev (fun _ => corrected ntuForceStep) s

/-- NTU_SET (R290): NTU_CTRL.SET loads the NTU from NTU_SET. -/
def execNtuSet (r : Req) (s : State) : Host.Outcome State Fault Refusal := regDev r R.NTU_CTRL .dev (fun _ => corrected ntuSet) s

/-- NTU_NOW_READ (R288): A read of NTU_NOW_NS captures the seconds and fraction. -/
def execNtuNowRead (r : Req) (s : State) : Host.Outcome State Fault Refusal :=
  regAsk r R.NTU_NOW_NS .dev (fun _ => ntuNowRead (reqIdx r)) s

/-- TRIG_ARM (R300): NTU_TRIG_CTRL.ARM arms a trigger pulse train. -/
def execTrigArm (r : Req) (s : State) : Host.Outcome State Fault Refusal := regDev r R.NTU_TRIG_CTRL .trig trigArm s

/-- TRIG_CANCEL (R300): NTU_TRIG_CTRL.CANCEL stops the train after any pulse in progress. -/
def execTrigCancel (r : Req) (s : State) : Host.Outcome State Fault Refusal :=
  regDev r R.NTU_TRIG_CTRL .trig trigCancel s

/-- TRIG_PULSE_START (R299): A trigger pulse asserts at its start instant. -/
def execTrigPulseStart (n : Fin 16) (s : State) : Host.Outcome State Fault Refusal := event (trigPulseStart n.val) s

/-- TRIG_PULSE_END (R299): A trigger pulse ends after its width; DONE is set when the count is reached. -/
def execTrigPulseEnd (n : Fin 16) (s : State) : Host.Outcome State Fault Refusal := event (trigPulseEnd n.val) s

/-- CAPTURE_EDGE (R301): A selected edge on CAP or 1PPS_IN is timestamped into the input's FIFO. -/
def execCaptureEdge (input : Fin 9) (rising : Bool) (offset : Nat) (s : State) : Host.Outcome State Fault Refusal :=
  event (captureEdge input.val rising offset) s

/-- CAPTURE_READ (R302): A read of NTU_CAP_NS takes the oldest capture and captures its other fields. -/
def execCaptureRead (r : Req) (s : State) : Host.Outcome State Fault Refusal :=
  regAsk r R.NTU_CAP_NS .cap (fun n => captureRead (reqIdx r) n) s

/-- PPS_PULSE_START (R303): 1PPS_OUT asserts at each second boundary plus the offset. -/
def execPpsPulseStart (s : State) : Host.Outcome State Fault Refusal := event ppsPulseStart s

/-- PPS_PULSE_END (R303): 1PPS_OUT releases after WIDTH_US. -/
def execPpsPulseEnd (s : State) : Host.Outcome State Fault Refusal := event ppsPulseEnd s

end Sys2Proof.Machine
end

