-- ==== Sys2Proof/Machine/CmdTraffic.lean ====
section
/-! DEFINITION. Meanings of commands: Gate lists, policers, the traffic manager's own events (ch 10). -/

namespace Sys2Proof.Machine

/-- GATE_ARM (R232): TMG_GATE_CTRL.ARM makes the administrative list pending and starts the gate-term computation. -/
def execGateArm (r : Req) (s : State) : Host.Outcome State Fault Refusal := regDev r R.TMG_GATE_CTRL .tport gateArm s

/-- GATE_CANCEL (R232): TMG_GATE_CTRL.CANCEL clears PENDING before the change time. -/
def execGateCancel (r : Req) (s : State) : Host.Outcome State Fault Refusal :=
  regDev r R.TMG_GATE_CTRL .tport gateCancel s

/-- GATE_COMPUTE_DONE (R232): The gate terms are computed and the change time is fixed. -/
def execGateComputeDone (p : Fin 512) (s : State) : Host.Outcome State Fault Refusal := event (gateComputeDone p.val) s

/-- GATE_LIST_CHANGE (R232): At the change time the administrative list becomes operating. -/
def execGateListChange (p : Fin 512) (s : State) : Host.Outcome State Fault Refusal := event (gateListChange p.val) s

/-- GATE_ENTRY_ADVANCE (R231): A gate entry's interval ends and the next gate states take effect. -/
def execGateEntryAdvance (p : Fin 512) (s : State) : Host.Outcome State Fault Refusal :=
  event (gateEntryAdvance p.val) s

/-- POL_ASSIGN (R230): The ASSIGN operation sets a policer's profile and fills its buckets. -/
def execPolAssign (r : Req) (s : State) : Host.Outcome State Fault Refusal := regOp r R.TMG_POL_CTRL .req polAssign s

/-- POL_READ (R230): The READ operation returns a policer's profile and tokens. -/
def execPolRead (r : Req) (s : State) : Host.Outcome State Fault Refusal := regDev r R.TMG_POL_CTRL .req polRead s

/-- POLICER_REFRESH (R230): The refresh scanner updates each policer within 8.192 ms. -/
def execPolicerRefresh (n : BitVec 20) (s : State) : Host.Outcome State Fault Refusal :=
  event (policerRefresh n.toNat) s

/-- GUAR_LOWER_EFFECT (R238): After the earlier packets have drained, a lowered guaranteed rate reaches the scheduler. -/
def execGuarLowerEffect (q : Fin 65536) (s : State) : Host.Outcome State Fault Refusal :=
  event (guarLowerEffect q.val) s

/-- FALL_VOID_CLEAR (R240): FALL_VOID clears once the port's largest DELAY_BOUND has elapsed since the fall. -/
def execFallVoidClear (p : Fin 512) (s : State) : Host.Outcome State Fault Refusal := event (fallVoidClear p.val) s

/-- PERIODIC_SAMPLE (R242): Each sample period writes PERIODIC records for the sampled leaves. -/
def execPeriodicSample (s : State) : Host.Outcome State Fault Refusal := event periodicSample s

end Sys2Proof.Machine
end

