-- ==== Sys2Proof/Machine/Dispatch.lean ====
section
/-! DEFINITION. The effect of each command on everything but the queue, one arm per row of the table. -/

namespace Sys2Proof.Machine

def exec (i : Instr) (s : State) : Host.Outcome State Fault Refusal :=
  match i with
  | .registerWrite r off val => Sys2Proof.Machine.execRegisterWrite r off val s
  | .rcRegisterRead r off => Sys2Proof.Machine.execRcRegisterRead r off s
  | .pairLoRead r off => Sys2Proof.Machine.execPairLoRead r off s
  | .powerOn => Sys2Proof.Machine.execPowerOn s
  | .powerLoss => Sys2Proof.Machine.execPowerLoss s
  | .resetNAssert ns => Sys2Proof.Machine.execResetNAssert ns s
  | .resetNRelease devid bootsel clksel => Sys2Proof.Machine.execResetNRelease devid bootsel clksel s
  | .fuseRead lotLo lotHi die s0 s1 s2 s3 key ok => Sys2Proof.Machine.execFuseRead lotLo lotHi die s0 s1 s2 s3 key ok s
  | .pllLock => Sys2Proof.Machine.execPllLock s
  | .pllLockTimeout => Sys2Proof.Machine.execPllLockTimeout s
  | .dramTrainingDone us0 us1 us2 us3 => Sys2Proof.Machine.execDramTrainingDone us0 us1 us2 us3 s
  | .trainingAttemptFail stack => Sys2Proof.Machine.execTrainingAttemptFail stack s
  | .perstNAssert => Sys2Proof.Machine.execPerstNAssert s
  | .perstNRelease => Sys2Proof.Machine.execPerstNRelease s
  | .pcieConfigReady => Sys2Proof.Machine.execPcieConfigReady s
  | .hostSoftReset r key => Sys2Proof.Machine.execHostSoftReset r key s
  | .sliceReset slice => Sys2Proof.Machine.execSliceReset slice s
  | .pipelineStall slice egress => Sys2Proof.Machine.execPipelineStall slice egress s
  | .recoveryLogicResetDone slice => Sys2Proof.Machine.execRecoveryLogicResetDone slice s
  | .recoveryReapplyStart => Sys2Proof.Machine.execRecoveryReapplyStart s
  | .recoveryApplyEnd => Sys2Proof.Machine.execRecoveryApplyEnd s
  | .clusterHoldSet k => Sys2Proof.Machine.execClusterHoldSet k s
  | .clusterRelease k => Sys2Proof.Machine.execClusterRelease k s
  | .structRelease slice => Sys2Proof.Machine.execStructRelease slice s
  | .serviceRequest slice => Sys2Proof.Machine.execServiceRequest slice s
  | .testRequest slice => Sys2Proof.Machine.execTestRequest slice s
  | .autoServiceEntry slice => Sys2Proof.Machine.execAutoServiceEntry slice s
  | .loadFlash serve peer => Sys2Proof.Machine.execLoadFlash serve peer s
  | .loadPcie serve peer => Sys2Proof.Machine.execLoadPcie serve peer s
  | .loadHalter serve peer => Sys2Proof.Machine.execLoadHalter serve peer s
  | .loadLive serve peer => Sys2Proof.Machine.execLoadLive serve peer s
  | .headerFetchDone data ok => Sys2Proof.Machine.execHeaderFetchDone data ok s
  | .manifestFetchDone data ok => Sys2Proof.Machine.execManifestFetchDone data ok s
  | .signatureCheckDone => Sys2Proof.Machine.execSignatureCheckDone s
  | .bodyStaged data ok => Sys2Proof.Machine.execBodyStaged data ok s
  | .fetchTimeout => Sys2Proof.Machine.execFetchTimeout s
  | .halterLoadRetry => Sys2Proof.Machine.execHalterLoadRetry s
  | .applyPassEnd => Sys2Proof.Machine.execApplyPassEnd s
  | .liveUnitPrecheck => Sys2Proof.Machine.execLiveUnitPrecheck s
  | .liveEpochWaitExpiry => Sys2Proof.Machine.execLiveEpochWaitExpiry s
  | .liveUnitApplyEnd => Sys2Proof.Machine.execLiveUnitApplyEnd s
  | .frameReceive p bytes => Sys2Proof.Machine.execFrameReceive p bytes s
  | .portDown p fec cut => Sys2Proof.Machine.execPortDown p fec cut s
  | .portUp p => Sys2Proof.Machine.execPortUp p s
  | .carrierDown c aligned oh cut => Sys2Proof.Machine.execCarrierDown c aligned oh cut s
  | .carrierUp c => Sys2Proof.Machine.execCarrierUp c s
  | .calEntryWrite r entry => Sys2Proof.Machine.execCalEntryWrite r entry s
  | .calEntryRead r => Sys2Proof.Machine.execCalEntryRead r s
  | .calSwitchArm r => Sys2Proof.Machine.execCalSwitchArm r s
  | .calSwitchCancel r => Sys2Proof.Machine.execCalSwitchCancel r s
  | .calSwitch c => Sys2Proof.Machine.execCalSwitch c s
  | .calSwitchAbort c => Sys2Proof.Machine.execCalSwitchAbort c s
  | .caReceived c on => Sys2Proof.Machine.execCaReceived c on s
  | .mfNextRead r => Sys2Proof.Machine.execMfNextRead r s
  | .rxCalendarChange c ccc nums => Sys2Proof.Machine.execRxCalendarChange c ccc nums s
  | .holdAssert n => Sys2Proof.Machine.execHoldAssert n s
  | .holdRelease n => Sys2Proof.Machine.execHoldRelease n s
  | .holdResume c => Sys2Proof.Machine.execHoldResume c s
  | .holdStuck n => Sys2Proof.Machine.execHoldStuck n s
  | .holdChatter n => Sys2Proof.Machine.execHoldChatter n s
  | .holdMaskWrite r mask => Sys2Proof.Machine.execHoldMaskWrite r mask s
  | .ingressPacketStart slice => Sys2Proof.Machine.execIngressPacketStart slice s
  | .missLaneResolve slice n => Sys2Proof.Machine.execMissLaneResolve slice n s
  | .leafLaneDone slice n ok => Sys2Proof.Machine.execLeafLaneDone slice n ok s
  | .rowWriteEnd slice => Sys2Proof.Machine.execRowWriteEnd slice s
  | .storeFetchDone q ok => Sys2Proof.Machine.execStoreFetchDone q ok s
  | .egressFrameStart slice => Sys2Proof.Machine.execEgressFrameStart slice s
  | .frameReadEnd p parity => Sys2Proof.Machine.execFrameReadEnd p parity s
  | .replicate slice => Sys2Proof.Machine.execReplicate slice s
  | .residueRetry slice => Sys2Proof.Machine.execResidueRetry slice s
  | .residueExpiry slice => Sys2Proof.Machine.execResidueExpiry slice s
  | .stagedBankWrite r word val => Sys2Proof.Machine.execStagedBankWrite r word val s
  | .clsSeal r => Sys2Proof.Machine.execClsSeal r s
  | .clsUnseal r => Sys2Proof.Machine.execClsUnseal r s
  | .clsSwapArm r => Sys2Proof.Machine.execClsSwapArm r s
  | .clsSwapCancel r => Sys2Proof.Machine.execClsSwapCancel r s
  | .clsSwap slice => Sys2Proof.Machine.execClsSwap slice s
  | .epochDrained slice => Sys2Proof.Machine.execEpochDrained slice s
  | .clsRelease r => Sys2Proof.Machine.execClsRelease r s
  | .clsCounterClear r => Sys2Proof.Machine.execClsCounterClear r s
  | .clsUpdateGo r => Sys2Proof.Machine.execClsUpdateGo r s
  | .clsGroupCommit slice => Sys2Proof.Machine.execClsGroupCommit slice s
  | .clsCounterRead r n => Sys2Proof.Machine.execClsCounterRead r n s
  | .cacheScanVisit => Sys2Proof.Machine.execCacheScanVisit s
  | .dramScanVisit => Sys2Proof.Machine.execDramScanVisit s
  | .flwOpLookup r => Sys2Proof.Machine.execFlwOpLookup r s
  | .flwOpInsert r => Sys2Proof.Machine.execFlwOpInsert r s
  | .flwOpUpdate r => Sys2Proof.Machine.execFlwOpUpdate r s
  | .flwOpDelete r => Sys2Proof.Machine.execFlwOpDelete r s
  | .flwOpReadSlot r => Sys2Proof.Machine.execFlwOpReadSlot r s
  | .learnWindowClose slice n => Sys2Proof.Machine.execLearnWindowClose slice n s
  | .learnHoldoffEnd slice n => Sys2Proof.Machine.execLearnHoldoffEnd slice n s
  | .l2OpInsert r => Sys2Proof.Machine.execL2OpInsert r s
  | .l2OpDelete r => Sys2Proof.Machine.execL2OpDelete r s
  | .l2OpLookup r => Sys2Proof.Machine.execL2OpLookup r s
  | .l2OpFlush r => Sys2Proof.Machine.execL2OpFlush r s
  | .l2FlushDone slice => Sys2Proof.Machine.execL2FlushDone slice s
  | .l2ScanVisit slice => Sys2Proof.Machine.execL2ScanVisit slice s
  | .lpmOpAdd r => Sys2Proof.Machine.execLpmOpAdd r s
  | .lpmOpDelete r => Sys2Proof.Machine.execLpmOpDelete r s
  | .lpmOpLookup r => Sys2Proof.Machine.execLpmOpLookup r s
  | .lpmOpMatch r => Sys2Proof.Machine.execLpmOpMatch r s
  | .lpmCommit => Sys2Proof.Machine.execLpmCommit s
  | .mplsOpWrite r => Sys2Proof.Machine.execMplsOpWrite r s
  | .mplsOpClear r => Sys2Proof.Machine.execMplsOpClear r s
  | .mplsOpRead r => Sys2Proof.Machine.execMplsOpRead r s
  | .tableEntryWrite r word val => Sys2Proof.Machine.execTableEntryWrite r word val s
  | .statCounterRead r n => Sys2Proof.Machine.execStatCounterRead r n s
  | .gateArm r => Sys2Proof.Machine.execGateArm r s
  | .gateCancel r => Sys2Proof.Machine.execGateCancel r s
  | .gateComputeDone p => Sys2Proof.Machine.execGateComputeDone p s
  | .gateListChange p => Sys2Proof.Machine.execGateListChange p s
  | .gateEntryAdvance p => Sys2Proof.Machine.execGateEntryAdvance p s
  | .polAssign r => Sys2Proof.Machine.execPolAssign r s
  | .polRead r => Sys2Proof.Machine.execPolRead r s
  | .policerRefresh n => Sys2Proof.Machine.execPolicerRefresh n s
  | .guarLowerEffect q => Sys2Proof.Machine.execGuarLowerEffect q s
  | .fallVoidClear p => Sys2Proof.Machine.execFallVoidClear p s
  | .periodicSample => Sys2Proof.Machine.execPeriodicSample s
  | .memberFrameReceive p => Sys2Proof.Machine.execMemberFrameReceive p s
  | .syncWaitEnd t dm => Sys2Proof.Machine.execSyncWaitEnd t dm s
  | .gapTimerExpiry t dm => Sys2Proof.Machine.execGapTimerExpiry t dm s
  | .spillReadback t dm ok => Sys2Proof.Machine.execSpillReadback t dm ok s
  | .idleProbe k => Sys2Proof.Machine.execIdleProbe k s
  | .forcedProbe k => Sys2Proof.Machine.execForcedProbe k s
  | .drainProbe k => Sys2Proof.Machine.execDrainProbe k s
  | .memberDrain r => Sys2Proof.Machine.execMemberDrain r s
  | .memberRestore r => Sys2Proof.Machine.execMemberRestore r s
  | .teamTxReset r => Sys2Proof.Machine.execTeamTxReset r s
  | .teamResync r => Sys2Proof.Machine.execTeamResync r s
  | .memberSilent k => Sys2Proof.Machine.execMemberSilent k s
  | .rcArm r => Sys2Proof.Machine.execRcArm r s
  | .rcCancel r => Sys2Proof.Machine.execRcCancel r s
  | .rampStart c q => Sys2Proof.Machine.execRampStart c q s
  | .rateChange c => Sys2Proof.Machine.execRateChange c s
  | .rcTrigStart c => Sys2Proof.Machine.execRcTrigStart c s
  | .rcTrigEnd c => Sys2Proof.Machine.execRcTrigEnd c s
  | .rxCheckLate c => Sys2Proof.Machine.execRxCheckLate c s
  | .ntuCorrection r lo => Sys2Proof.Machine.execNtuCorrection r lo s
  | .ntuForceStep r => Sys2Proof.Machine.execNtuForceStep r s
  | .ntuSet r => Sys2Proof.Machine.execNtuSet r s
  | .ntuNowRead r => Sys2Proof.Machine.execNtuNowRead r s
  | .trigArm r => Sys2Proof.Machine.execTrigArm r s
  | .trigCancel r => Sys2Proof.Machine.execTrigCancel r s
  | .trigPulseStart n => Sys2Proof.Machine.execTrigPulseStart n s
  | .trigPulseEnd n => Sys2Proof.Machine.execTrigPulseEnd n s
  | .captureEdge input rising offset => Sys2Proof.Machine.execCaptureEdge input rising offset s
  | .captureRead r => Sys2Proof.Machine.execCaptureRead r s
  | .ppsPulseStart => Sys2Proof.Machine.execPpsPulseStart s
  | .ppsPulseEnd => Sys2Proof.Machine.execPpsPulseEnd s
  | .engineEnable r cfg => Sys2Proof.Machine.execEngineEnable r cfg s
  | .engineDisable r => Sys2Proof.Machine.execEngineDisable r s
  | .dramRereadDone burst ok inst => Sys2Proof.Machine.execDramRereadDone burst ok inst s
  | .dramRefresh stack channel => Sys2Proof.Machine.execDramRefresh stack channel s
  | .patrolScrubRead fails => Sys2Proof.Machine.execPatrolScrubRead fails s
  | .sramScrubRead cls inst addr detail fails => Sys2Proof.Machine.execSramScrubRead cls inst addr detail fails s
  | .errorBooking unit => Sys2Proof.Machine.execErrorBooking unit s
  | .errQueuePop r => Sys2Proof.Machine.execErrQueuePop r s
  | .dramWindowCommit r burst val => Sys2Proof.Machine.execDramWindowCommit r burst val s
  | .add t rd rs1 rs2 => Sys2Proof.Machine.execAdd t rd rs1 rs2 s
  | .sub t rd rs1 rs2 => Sys2Proof.Machine.execSub t rd rs1 rs2 s
  | .and t rd rs1 rs2 => Sys2Proof.Machine.execAnd t rd rs1 rs2 s
  | .or t rd rs1 rs2 => Sys2Proof.Machine.execOr t rd rs1 rs2 s
  | .xor t rd rs1 rs2 => Sys2Proof.Machine.execXor t rd rs1 rs2 s
  | .sll t rd rs1 rs2 => Sys2Proof.Machine.execSll t rd rs1 rs2 s
  | .srl t rd rs1 rs2 => Sys2Proof.Machine.execSrl t rd rs1 rs2 s
  | .sra t rd rs1 rs2 => Sys2Proof.Machine.execSra t rd rs1 rs2 s
  | .slt t rd rs1 rs2 => Sys2Proof.Machine.execSlt t rd rs1 rs2 s
  | .sltu t rd rs1 rs2 => Sys2Proof.Machine.execSltu t rd rs1 rs2 s
  | .mul t rd rs1 rs2 => Sys2Proof.Machine.execMul t rd rs1 rs2 s
  | .mulhu t rd rs1 rs2 => Sys2Proof.Machine.execMulhu t rd rs1 rs2 s
  | .clz t rd rs1 => Sys2Proof.Machine.execClz t rd rs1 s
  | .slli t rd rs1 sh => Sys2Proof.Machine.execSlli t rd rs1 sh s
  | .srli t rd rs1 sh => Sys2Proof.Machine.execSrli t rd rs1 sh s
  | .srai t rd rs1 sh => Sys2Proof.Machine.execSrai t rd rs1 sh s
  | .addi t rd rs1 imm => Sys2Proof.Machine.execAddi t rd rs1 imm s
  | .andi t rd rs1 imm => Sys2Proof.Machine.execAndi t rd rs1 imm s
  | .ori t rd rs1 imm => Sys2Proof.Machine.execOri t rd rs1 imm s
  | .xori t rd rs1 imm => Sys2Proof.Machine.execXori t rd rs1 imm s
  | .slti t rd rs1 imm => Sys2Proof.Machine.execSlti t rd rs1 imm s
  | .sltiu t rd rs1 imm => Sys2Proof.Machine.execSltiu t rd rs1 imm s
  | .lui t rd imm => Sys2Proof.Machine.execLui t rd imm s
  | .lb t rd rs1 imm => Sys2Proof.Machine.execLb t rd rs1 imm s
  | .lbu t rd rs1 imm => Sys2Proof.Machine.execLbu t rd rs1 imm s
  | .lh t rd rs1 imm => Sys2Proof.Machine.execLh t rd rs1 imm s
  | .lhu t rd rs1 imm => Sys2Proof.Machine.execLhu t rd rs1 imm s
  | .lw t rd rs1 imm => Sys2Proof.Machine.execLw t rd rs1 imm s
  | .sb t rs2 rs1 imm => Sys2Proof.Machine.execSb t rs2 rs1 imm s
  | .sh t rs2 rs1 imm => Sys2Proof.Machine.execSh t rs2 rs1 imm s
  | .sw t rs2 rs1 imm => Sys2Proof.Machine.execSw t rs2 rs1 imm s
  | .aadd t rd rs1 rs2 => Sys2Proof.Machine.execAadd t rd rs1 rs2 s
  | .aswap t rd rs1 rs2 => Sys2Proof.Machine.execAswap t rd rs1 rs2 s
  | .fence t => Sys2Proof.Machine.execFence t s
  | .isync t => Sys2Proof.Machine.execIsync t s
  | .beq t rs1 rs2 off => Sys2Proof.Machine.execBeq t rs1 rs2 off s
  | .bne t rs1 rs2 off => Sys2Proof.Machine.execBne t rs1 rs2 off s
  | .blt t rs1 rs2 off => Sys2Proof.Machine.execBlt t rs1 rs2 off s
  | .bge t rs1 rs2 off => Sys2Proof.Machine.execBge t rs1 rs2 off s
  | .bltu t rs1 rs2 off => Sys2Proof.Machine.execBltu t rs1 rs2 off s
  | .bgeu t rs1 rs2 off => Sys2Proof.Machine.execBgeu t rs1 rs2 off s
  | .jal t rd off => Sys2Proof.Machine.execJal t rd off s
  | .jalr t rd rs1 imm => Sys2Proof.Machine.execJalr t rd rs1 imm s
  | .chwr t rs2 word => Sys2Proof.Machine.execChwr t rs2 word s
  | .chstg t rs1 imm => Sys2Proof.Machine.execChstg t rs1 imm s
  | .chcommit t rd rs1 => Sys2Proof.Machine.execChcommit t rd rs1 s
  | .chrecv t rd rs1 rs2 => Sys2Proof.Machine.execChrecv t rd rs1 rs2 s
  | .chcount t rd rs1 => Sys2Proof.Machine.execChcount t rd rs1 s
  | .gettask t rd => Sys2Proof.Machine.execGettask t rd s
  | .donetask t rs1 rs2 void => Sys2Proof.Machine.execDonetask t rs1 rs2 void s
  | .bufget t rd rs1 => Sys2Proof.Machine.execBufget t rd rs1 s
  | .bufput t rd rs1 => Sys2Proof.Machine.execBufput t rd rs1 s
  | .wait t rs1 rs2 => Sys2Proof.Machine.execWait t rs1 rs2 s
  | .mfsr t rd sr => Sys2Proof.Machine.execMfsr t rd sr s
  | .mtsr t rs1 sr => Sys2Proof.Machine.execMtsr t rs1 sr s
  | .rft t => Sys2Proof.Machine.execRft t s
  | .brk t => Sys2Proof.Machine.execBrk t s
  | .dramLoadComplete t => Sys2Proof.Machine.execDramLoadComplete t s
  | .regwinAccessDone t => Sys2Proof.Machine.execRegwinAccessDone t s
  | .icacheFillDone t => Sys2Proof.Machine.execIcacheFillDone t s
  | .storeFailFault t n => Sys2Proof.Machine.execStoreFailFault t n s
  | .waitEnd t => Sys2Proof.Machine.execWaitEnd t s
  | .channelMessageVisible ch => Sys2Proof.Machine.execChannelMessageVisible ch s
  | .channelFlush r => Sys2Proof.Machine.execChannelFlush r s
  | .threadStart r => Sys2Proof.Machine.execThreadStart r s
  | .injectionDescriptor slice => Sys2Proof.Machine.execInjectionDescriptor slice s
  | .clusterStall k => Sys2Proof.Machine.execClusterStall k s
  | .debugHalt r => Sys2Proof.Machine.execDebugHalt r s
  | .debugResume r => Sys2Proof.Machine.execDebugResume r s
  | .debugStep r => Sys2Proof.Machine.execDebugStep r s
  | .debugChdiscard r => Sys2Proof.Machine.execDebugChdiscard r s
  | .breakpointHit t => Sys2Proof.Machine.execBreakpointHit t s
  | .taskPost => Sys2Proof.Machine.execTaskPost s
  | .stbPost r delay => Sys2Proof.Machine.execStbPost r delay s
  | .stbCancel r => Sys2Proof.Machine.execStbCancel r s
  | .stbVoid r => Sys2Proof.Machine.execStbVoid r s
  | .delayTick => Sys2Proof.Machine.execDelayTick s
  | .taskHandoff k => Sys2Proof.Machine.execTaskHandoff k s
  | .orderedRelease g => Sys2Proof.Machine.execOrderedRelease g s
  | .groupStuck g => Sys2Proof.Machine.execGroupStuck g s
  | .bpmGet r => Sys2Proof.Machine.execBpmGet r s
  | .bpmPut r => Sys2Proof.Machine.execBpmPut r s
  | .bpmXfer r => Sys2Proof.Machine.execBpmXfer r s
  | .pmuFreeze r freeze => Sys2Proof.Machine.execPmuFreeze r freeze s
  | .pmuClear r => Sys2Proof.Machine.execPmuClear r s
  | .samplerRecord k => Sys2Proof.Machine.execSamplerRecord k s
  | .hostRegAccess bar off write val oneDw => Sys2Proof.Machine.execHostRegAccess bar off write val oneDw s
  | .forwardTimeout tag => Sys2Proof.Machine.execForwardTimeout tag s
  | .remoteRead r dev => Sys2Proof.Machine.execRemoteRead r dev s
  | .remoteWrite r dev => Sys2Proof.Machine.execRemoteWrite r dev s
  | .discoverRound => Sys2Proof.Machine.execDiscoverRound s
  | .discoverTimeout => Sys2Proof.Machine.execDiscoverTimeout s
  | .discover m => Sys2Proof.Machine.execDiscover m s
  | .regWr m => Sys2Proof.Machine.execRegWr m s
  | .regRd m => Sys2Proof.Machine.execRegRd m s
  | .regCpl m => Sys2Proof.Machine.execRegCpl m s
  | .memWr m => Sys2Proof.Machine.execMemWr m s
  | .memRd m data ok => Sys2Proof.Machine.execMemRd m data ok s
  | .memCpl m => Sys2Proof.Machine.execMemCpl m s
  | .imgReq m => Sys2Proof.Machine.execImgReq m s
  | .imgData m => Sys2Proof.Machine.execImgData m s
  | .intr m => Sys2Proof.Machine.execIntr m s
  | .link m => Sys2Proof.Machine.execLink m s
  | .hopDown h1 far => Sys2Proof.Machine.execHopDown h1 far s
  | .hopUp h1 far => Sys2Proof.Machine.execHopUp h1 far s
  | .routeHoldEnd dst => Sys2Proof.Machine.execRouteHoldEnd dst s
  | .queueDoorbell r index => Sys2Proof.Machine.execQueueDoorbell r index s
  | .dmaInject q data ok => Sys2Proof.Machine.execDmaInject q data ok s
  | .dmaToChan q data ok => Sys2Proof.Machine.execDmaToChan q data ok s
  | .dmaFromChan q ok => Sys2Proof.Machine.execDmaFromChan q ok s
  | .ringEntryWrite ring => Sys2Proof.Machine.execRingEntryWrite ring s
  | .ringHeadWrite r index => Sys2Proof.Machine.execRingHeadWrite r index s
  | .eventRingWrite cls => Sys2Proof.Machine.execEventRingWrite cls s
  | .softwareEvent r cls code => Sys2Proof.Machine.execSoftwareEvent r cls code s
  | .tempSensorUpdate slices drams => Sys2Proof.Machine.execTempSensorUpdate slices drams s
  | .thermalShutdown => Sys2Proof.Machine.execThermalShutdown s
  | .i2cCommandWrite cmd => Sys2Proof.Machine.execI2cCommandWrite cmd s
  | .i2cRead => Sys2Proof.Machine.execI2cRead s
  | .jtagInstruction op => Sys2Proof.Machine.execJtagInstruction op s
  | .pcsLockGained lock n => Sys2Proof.Machine.execPcsLockGained lock n s
  | .pcieConfigRequest write reg val => Sys2Proof.Machine.execPcieConfigRequest write reg val s
  | .msixTableAccess write off val => Sys2Proof.Machine.execMsixTableAccess write off val s
  | .halterBadFrame => Sys2Proof.Machine.execHalterBadFrame s
  | .postedStoreDone t n => Sys2Proof.Machine.execPostedStoreDone t n s

end Sys2Proof.Machine
end

