-- ==== Sys2Proof/Machine/Step.lean ====
section
/-! DEFINITION. One step: the command at the front of the queue, or a cycle of the clock while none waits. -/

namespace Sys2Proof.Machine

/-- One step. The command at the front leaves the queue and takes effect on the rest of the state; on an empty queue one
CLK_CORE cycle passes (DESIGN CHOICE, log 39). (DESIGN CHOICE, log 56.) (DESIGN CHOICE, log 115.) -/
def step (s : State) : Host.Outcome State Fault Refusal :=
  match s.pending with
  | [] => runDev Dev.tick s
  | c :: rest => exec c { s with pending := rest }

/-- The state with the command that a table word spells put at the front of the queue; unchanged where it spells none. -/
def State.withFetchWord (s : State) (nbits w : Nat) : State :=
  match decodeTableWord nbits w with
  | some c => { s with pending := c :: s.pending }
  | none => s

end Sys2Proof.Machine
end

