-- ==== Sys2Proof/WellFormed.lean ====
section
/-! DEFINITION. Checks on the operands of a command that its types do not make: offsets within their window, lengths of data,
fields of ring messages. -/

namespace Sys2Proof

/-- Fields of a ring message within their widths (Table 19-2). -/
def HMsg.ok (m : HMsg) : Bool :=
  decide (m.dst < 64) && decide (m.src < 64) && decide (m.tag < 65536) && decide (m.addr < 2 ^ 64) &&
  decide (m.payload.length ≤ 1024) && decide (m.want ≤ 1024)

/-- A message with a payload of n bytes. -/
def HMsg.okLen (m : HMsg) (n : Nat) : Bool := m.ok && m.payload.length == n

/-- Sizes of the spaces that the BARs give access to (Table 19-1). -/
def barSize (bar : Nat) : Nat := if bar = 0 then 0x100000000 else if bar = 1 then 0x4000000 else 0x10000

/-- Checks on a command's operands; a command without numbers or lists has none. -/
def Instr.wf (i : Instr) : Bool :=
  match i with
  | .registerWrite _ off _ => decide (off < 0x4000000)
  | .rcRegisterRead _ off => decide (off < 0x4000000)
  | .pairLoRead _ off => decide (off < 0x4000000)
  | .hostRegAccess bar off _ _ _ => decide (off < barSize bar.val)
  | .forwardTimeout tag => decide (tag < 65536)
  | .pcieConfigRequest _ reg _ => decide (reg < 1024)
  | .msixTableAccess _ off _ => decide (off < 0x10000) && off % 4 == 0
  | .fuseRead _ _ _ _ _ _ _ key _ => key.length == 12
  | .tempSensorUpdate sl st => sl.length == 16 && st.length == 4
  | .dramRereadDone burst _ inst => burst % 64 == 0 && decide (burst < 0x1000000000) && decide (inst < 512)
  | .sramScrubRead cls _ _ detail _ => decide (0x10 ≤ cls) && decide (cls ≤ 0x20) && decide (detail.length ≤ 8)
  | .captureEdge _ _ offset => decide (offset < 65536)
  | .frameReceive _ bytes => decide (4 ≤ bytes.length)
  | .discover m => m.ok
  | .regWr m => m.okLen 4
  | .regRd m => m.okLen 0
  | .regCpl m => m.okLen 4
  | .memWr m => m.ok
  | .memRd m data _ => m.ok && decide (data.length ≤ 1024)
  | .memCpl m => m.ok
  | .imgReq m => m.ok
  | .imgData m => m.ok
  | .intr m => m.ok
  | .link m => m.ok
  | _ => true

end Sys2Proof
end

