-- ==== Sys2Proof/Safety.lean ====
section
/-! DEFINITION. What a safe run is: steps that answer next states, from states whose memories are in canonical form and whose
waiting commands are well formed. -/

namespace Sys2Proof.Machine

/-- Whether an outcome is a next state. -/
def isNext (o : Host.Outcome State Fault Refusal) : Bool :=
  match o with
  | .next _ => true
  | .fault _ => false
  | .refused _ => false

/-- Every memory is in its canonical form. -/
def State.memOk (s : State) : Prop := s.mem.wf = true

/-- Every waiting command is well formed. -/
def State.queueOk (s : State) : Prop := s.pending.all Instr.wf = true

/-- A run of n steps that neither faults nor is refused. -/
def State.runs : Nat → State → State → Prop
  | 0, s, t => s = t
  | n + 1, s, t => ∃ m, step s = .next m ∧ State.runs n m t

/-! What statements speak of -/

/-- Bytes stored at an address of a memory: they read as stored, every other byte of every memory reads as before. -/
def State.storedAt (s u : State) (sp : Space) (a : Nat) (bs : List Byte) : Prop :=
  (∀ k, k < bs.length → Sparse.get 0 (u.mem.bytes sp) (a + k) = bs.getD k 0) ∧
  (∀ sp' x, ¬ (sp' = sp ∧ a ≤ x ∧ x < a + bs.length) → Sparse.get 0 (u.mem.bytes sp') x = Sparse.get 0 (s.mem.bytes sp') x)


/-- A thread whose next slot executes the instruction given to it: RUN and waiting for nothing, no pending STORE_FAIL, no
breakpoint at its PC, an aligned PC in cluster memory with good parity or in a cached line of the FW window (R337, R341,
R346, R353, R364). -/
abbrev Dev.issues (d : Dev) (t : Nat) : Prop :=
  d.tstate t = 1 ∧ (d.thr t).hold = .none ∧ (d.thr t).storeFail = none ∧ d.atBreak t = false ∧ (d.thr t).pc % 4 = 0 ∧
  (((d.thr t).pc < 0x100000 ∧ d.wordBad 0x1D (clusterAddr (t / 32) (d.thr t).pc / 8) = false) ∨
   (0x80000000 ≤ (d.thr t).pc ∧ (d.mapAddr (d.thr t).pc).isSome ∧ (d.cacheLine t ((d.thr t).pc / 64 * 64)).isSome))

/-- The state in the cycle of a thread's next issue slot (R337). -/
def State.atSlot (s : State) (t : Nat) : State := { s with dev := s.dev.toSlot t }

/-- A thread that is neither asked to halt nor stepping. -/
abbrev Dev.goesOn (d : Dev) (t : Nat) : Prop := (d.thr t).haltReq = false ∧ (d.thr t).stepping = false

/-- What an instruction of thread t leaves from its slot on: every part of the device but its registers, the monitor and the
threads with the mark of the slot issued last; of the registers all but THREAD_PC, THREAD_STATUS, DBG_STATUS and DBG_PC of t, and IN_TRAP of t; every other
thread, the channels, the instruction caches. -/
def Dev.threadFrame (d e : Dev) (t : Nat) : Prop :=
  { e with regs := d.regs, pmu := d.pmu, drv := d.drv } = d ∧
  { e.drv with threads := d.drv.threads, stallSince := d.drv.stallSince, slotAt := d.drv.slotAt } = d.drv ∧
  (∀ n, n ≠ t → e.thr n = d.thr n) ∧
  (∀ off i, i < 2 ^ 20 → ¬ (i = t ∧ off ∈ [R.THREAD_PC, R.THREAD_STATUS, R.DBG_STATUS, R.DBG_PC]) → e.rget off i = d.rget off i) ∧
  e.fget F.THREAD_STATUS_IN_TRAP t = d.fget F.THREAD_STATUS_IN_TRAP t

/-- Thread t has executed an instruction: rd holds v, unless rd is g0, every other general register stands; the thread goes on
at `next`; the queue stands. -/
def State.retired (s u : State) (t rd : Nat) (v : Word) (next : Nat) : Prop :=
  u.pending = s.pending ∧ s.dev.threadFrame u.dev t ∧
  (∀ r, u.dev.gr t r = if r = rd ∧ rd ≠ 0 then v else s.dev.gr t r) ∧ (u.dev.thr t).pc = next ∧
  (s.dev.goesOn t → u.dev.tstate t = 1 ∧ (u.dev.thr t).hold = .none)

/-- Thread t waits: STATE st, for h; its general registers, its PC, memories and the queue stand. -/
def State.waits (s u : State) (t st : Nat) (h : Hold) : Prop :=
  u.pending = s.pending ∧ u.mem = s.mem ∧ s.dev.threadFrame u.dev t ∧ (∀ r, u.dev.gr t r = s.dev.gr t r) ∧
  (u.dev.thr t).pc = (s.dev.thr t).pc ∧ u.dev.tstate t = st ∧ (u.dev.thr t).hold = h

/-- The registers that a fault of thread t changes (R352). -/
def faultRegs (t : Nat) : List (Nat × Nat) :=
  [(R.THREAD_PC, t), (R.THREAD_STATUS, t), (R.DBG_STATUS, t), (R.DBG_PC, t), (R.THREAD_FAULT_PC, t), (R.THREAD_FAULT_CODE, t),
   (R.THREAD_FAULT_ADDR, t), (R.THREAD_FAULT_CNT, t), (R.DRV_CL_FAULT_CNT, t / 32)]

/-- A thread that can take a fault in its handler: outside a trap, HANDLER not 0 (R352, R354). -/
abbrev Dev.handles (d : Dev) (t : Nat) : Prop :=
  d.fget F.THREAD_STATUS_IN_TRAP t = 0 ∧ d.fget F.THREAD_HANDLER_PC t ≠ 0

/-- Thread t has faulted precisely (R352): the fault registers name the instruction, the code and the address, the thread goes
on at HANDLER in its trap; general registers, memories, every other thread, the channels and the queue stand, and every
register that a fault does not change. -/
def State.faulted (s u : State) (t code addr : Nat) : Prop :=
  u.pending = s.pending ∧ u.mem = s.mem ∧ (∀ r, u.dev.gr t r = s.dev.gr t r) ∧
  u.dev.fget F.THREAD_FAULT_PC_PC t = (s.dev.thr t).pc % 2 ^ 32 ∧ u.dev.fget F.THREAD_FAULT_CODE_CODE t = code ∧
  u.dev.fget F.THREAD_FAULT_ADDR_ADDR t = addr % 2 ^ 32 ∧ u.dev.fget F.THREAD_STATUS_IN_TRAP t = 1 ∧
  (u.dev.thr t).pc = s.dev.fget F.THREAD_HANDLER_PC t ∧ (u.dev.thr t).hold = .none ∧
  (∀ n, n ≠ t → u.dev.thr n = s.dev.thr n) ∧ u.dev.drv.chans = s.dev.drv.chans ∧ u.dev.stb = s.dev.stb ∧ u.dev.bufs = s.dev.bufs ∧
  (∀ off i, i < 2 ^ 20 → (off, i) ∉ faultRegs t → u.dev.rget off i = s.dev.rget off i)

/-- A command of the machine answers a next state that passes a test; the commands that wait are as before. -/
def Gives (c : Instr) (s : State) (p : State → Prop) : Prop := ∃ u, exec c s = .next u ∧ u.pending = s.pending ∧ p u

/-- An operation that requester r starts by a register write reaches element i (R14, R41): no write of the loader's comes before it (R60),
the block is open, the selects choose an element that exists. -/
abbrev State.reaches (s : State) (r : Req) (off : Nat) (k : Kind) (i : Nat) : Prop :=
  s.dev.noPass = true ∧ s.dev.reachable off = true ∧ s.dev.instOf (reqIdx r) off k = i ∧ badSelect s.dev k i = none

/-- The same of a read. -/
abbrev State.reads (s : State) (r : Req) (off : Nat) (k : Kind) (i : Nat) : Prop :=
  s.dev.noPass = true ∧ s.dev.readable off = true ∧ s.dev.instOf (reqIdx r) off k = i ∧ badSelect s.dev k i = none

/-- Every register reads as before but those of a list of (offset, element). -/
def Dev.regsBut (d e : Dev) (l : List (Nat × Nat)) : Prop :=
  ∀ off i, i < 2 ^ 20 → (off, i) ∉ l → e.rget off i = d.rget off i

/-- Of the device, registers of a list of (offset, element) alone may differ. -/
def Dev.onlyRegs (d e : Dev) (l : List (Nat × Nat)) : Prop := { e with regs := d.regs } = d ∧ d.regsBut e l

/-- The state of a pin reset (Table 03-5, R75): every register reads its reset value but the temperatures and GLB_RESET_CAUSE,
which gains one bit and keeps the others; the device's memories list nothing, the host's own memory stays. -/
def State.pinReset (s u : State) (cause : Nat) : Prop :=
  u.mem.host = s.mem.host ∧ (∀ sp, sp ≠ Space.host → u.mem.bytes sp = []) ∧
  u.dev.rget R.GLB_RESET_CAUSE = s.dev.rget R.GLB_RESET_CAUSE ||| BitVec.ofNat 32 (2 ^ cause) ∧
  (∀ n, n < 4 → u.dev.rget (R.GLB_TEMP_SLICE + 4 * n) = s.dev.rget (R.GLB_TEMP_SLICE + 4 * n)) ∧
  (∀ off i, i < 2 ^ 20 → off ≠ R.GLB_RESET_CAUSE → off ≠ R.GLB_TEMP_MAX → off ≠ R.GLB_TEMP_STATUS →
    off ≠ R.SDC_STACK_STATUS → (∀ n, n < 4 → off ≠ R.GLB_TEMP_SLICE + 4 * n) → u.dev.rget off i = resetWord off) ∧
  u.dev.fget F.GLB_TEMP_STATUS_WARN = 0 ∧ u.dev.ports = [] ∧ u.dev.slices = [] ∧ u.dev.drv = {} ∧ u.dev.stb = {} ∧ u.dev.bufs = [] ∧ u.dev.ntu = {} ∧ u.dev.ld = {}

/-- A counter below its field's maximum. -/
abbrev Dev.canCount (d : Dev) (f : Fld) (i : Nat) : Prop := d.fget f i + 1 < 2 ^ f.w

/-- A counter has gone up by one; of the device nothing else differs. -/
def Dev.counted (d e : Dev) (f : Fld) (i : Nat) : Prop := e.fget f i = d.fget f i + 1 ∧ d.onlyRegs e [(f.off, i)]

/-- Every byte of every memory reads as before but those of one memory from `lo` up to `hi`. -/
def State.memBut (s u : State) (sp : Space) (lo hi : Nat) : Prop :=
  ∀ sp' x, ¬ (sp' = sp ∧ lo ≤ x ∧ x < hi) → Sparse.get 0 (u.mem.bytes sp') x = Sparse.get 0 (s.mem.bytes sp') x

/-- A leaf queue has gained one packet at its tail (R234): these bytes for this port, written through this row, admitted now. -/
def Dev.gains (d e : Dev) (q : Nat) (data : List Byte) (port row : Nat) : Prop :=
  ∃ x, (e.lq q).pkts = (d.lq q).pkts ++ [x] ∧ x.data = data ∧ x.port = port ∧ x.queue = q ∧ x.row = row ∧ x.adm = e.cycle

end Sys2Proof.Machine
end

