-- ==== Sys2Proof/Certificates/Slice0/Obligations.lean ====
section
/-! DEFINITION. The statements about the model that the provers settle. Each names the rules of spec/ that it rests on. -/

open Sys2Proof Sys2Proof.Machine

/-- A step runs the command at the front of the queue on the rest (95_what_each_step_holds.md, R8). Beside the rules,
clauses rest on the model's choices of log 115. -/
def Obligations.a_step_runs_the_front_command : Prop :=
  ∀ (s : State) (c : Instr) (rest : List Instr), step { s with pending := c :: rest } = exec c { s with pending := rest }

/-- With no command waiting one CLK_CORE cycle passes (model's choice, log 39) (R28, R286). -/
def Obligations.an_idle_step_is_one_cycle : Prop :=
  ∀ (s : State), s.pending = [] → ∃ u, step s = .next u ∧ u.pending = [] ∧ u.mem = s.mem ∧
    u.dev.cycle = s.dev.cycle + 1 ∧
    u.dev.ntu.total = s.dev.ntu.total + (if s.dev.ntu.run then s.dev.incr else 0) ∧
    u.dev.regs = s.dev.regs ∧ u.dev.drv = s.dev.drv ∧ u.dev.stb = s.dev.stb ∧ u.dev.bufs = s.dev.bufs ∧
    u.dev.tm = s.dev.tm ∧ u.dev.ports = s.dev.ports ∧ u.dev.slices = s.dev.slices ∧ u.dev.cars = s.dev.cars ∧
    u.dev.team = s.dev.team ∧ u.dev.life = s.dev.life ∧ u.dev.ld = s.dev.ld

/-- The reset state is canonical, waits for no command, and holds the register maps' reset values (R1, R81, R65,
R173). Beside the rules, clauses rest on the model's choices of log 1, log 5 and log 6. -/
def Obligations.reset_meets_the_invariants : Prop :=
  State.reset.memOk ∧ State.reset.queueOk ∧ State.reset.pending = [] ∧ State.reset.mem = {} ∧
  (∀ off i, State.reset.dev.rget off i = resetWord off) ∧
  State.reset.dev.rget R.GLB_ID = 0xB05116 ∧ State.reset.dev.fget F.FLW_IDLE_T_MS = 0x7530 ∧
  State.reset.dev.fget F.GLB_CLUSTER_HOLD_HOLD = 0xFF ∧ State.reset.dev.fget F.HLD_STATUS_SECTION = 0xFFFF

/-- Every step keeps every memory in canonical form (R15, R26, R125, R341, R402). Beside the rules, clauses rest on
the model's choices of log 5. -/
def Obligations.every_step_keeps_memory_canonical : Prop :=
  ∀ (s t : State), s.memOk → step s = .next t → t.memOk

/-- No command is refused, and a command's effect leaves the waiting commands alone (R6, R16, R435). Beside the rules,
clauses rest on the model's choices of log 106. -/
def Obligations.commands_leave_the_queue_and_are_never_refused : Prop :=
  ∀ (c : Instr) (s : State),
    (∀ u, exec c s = .next u → u.pending = s.pending) ∧ (∀ r, exec c s ≠ .refused r) ∧
    (∀ n, exec c s = .fault (.undescribed n) → ∃ op, c = .jtagInstruction op)

/-- A register write changes its fields by their access codes and nothing else (R8, R12, R13, R14, R9, R41). -/
def Obligations.register_writes_follow_access_codes : Prop :=
  ∀ (s : State) (r : Req) (off : Nat) (v : Word) (row : RegRow), s.dev.noPass = true → s.dev.reachable off = true →
    let e := s.dev.beginAll
    (findReg off = some row → off % 4 = 0 → blockIndex off ∈ [1, 3, 10] → off ≠ R.HLD_CTRL → off ≠ R.HDM_EVT_RATE →
      isHi off = false → isLo off = false → s.dev.misuse (reqIdx r) off (some v) = none →
      let i := e.instOf (reqIdx r) off row.kind
      Gives (.registerWrite r off v) s fun u => u.mem = s.mem ∧ e.onlyRegs u.dev [(off, i)] ∧
        ∀ f ∈ row.fields,
          let old := bits (e.rget off i).toNat f.lo f.w
          let new := bits v.toNat f.lo f.w
          bits (u.dev.rget off i).toNat f.lo f.w = match f.acc with
            | .rw => new
            | .rws => if e.rwsOpen off i then new else old
            | .w1c => old &&& (2 ^ f.w - 1 - new)
            | _ => old) ∧
    (off % 4 ≠ 0 → s.dev.fget F.HDM_BAD_ACCESS_COUNT + 1 < 2 ^ F.HDM_BAD_ACCESS_COUNT.w →
      Gives (.registerWrite r off v) s fun u => u.mem = s.mem ∧ s.dev.onlyRegs u.dev [(R.HDM_BAD_ACCESS, 0)] ∧
        u.dev.fget F.HDM_BAD_ACCESS_COUNT = s.dev.fget F.HDM_BAD_ACCESS_COUNT + 1) ∧
    (∀ off', off' % 4 = 0 → s.dev.reachable off' = false → exec (.registerWrite r off' v) s = .next s)

/-- A register read answers the word, clears its rc fields and holds the other half of a pair (R8, R10, R14, R41).
Beside the rules, clauses rest on the model's choices of log 4. -/
def Obligations.register_reads_answer_and_clear_rc : Prop :=
  ∀ (s : State) (r : Req) (off : Nat) (row : RegRow), off % 4 = 0 → s.dev.noPass = true → s.dev.readable off = true →
    findReg off = some row →
    let q := reqIdx r
    let b := (s.blk.atTables off).on Dev.beginAll
    let e := b.dev
    let i := e.instOf q off row.kind
    badSelect s.dev row.kind (s.dev.instOf q off row.kind) = none →
    (blockIndex off ∈ [1, 3] → e.heldOf q off = none →
      (Gives (.rcRegisterRead r off) s fun u => u.mem = s.mem ∧ u.dev.cycle = e.cycle ∧ e.regsBut u.dev [(off, i)] ∧
        Sparse.get 0 u.dev.host.rdata q = e.rget off i ∧
        ∀ f ∈ row.fields, bits (u.dev.rget off i).toNat f.lo f.w =
          if f.acc = .rc then 0 else bits (e.rget off i).toNat f.lo f.w) ∧
      (isLo off = true → Gives (.pairLoRead r off) s fun u => u.mem = s.mem ∧ u.dev.regs = e.regs ∧
        Sparse.get 0 u.dev.host.rdata q = e.rget off i ∧ u.dev.heldOf q (off + 4) = some (e.rget (off + 4) i))) ∧
    (∀ w, isHi off = true → e.heldOf q off = some w →
      Gives (.rcRegisterRead r off) s fun u => u.mem = b.mem ∧ u.dev.regs = e.regs ∧
        Sparse.get 0 u.dev.host.rdata q = w ∧ u.dev.heldOf q off = none) ∧
    (∀ off', off' % 4 = 0 → s.dev.readable off' = false → Gives (.rcRegisterRead r off') s fun u =>
      u.mem = s.mem ∧ u.dev.regs = s.dev.regs ∧ Sparse.get 0 u.dev.host.rdata q = 0)

/-- A _HI write is staged and the _LO write commits both halves; indices are single writes (R10, R413, R416). -/
def Obligations.pairs_commit_both_halves : Prop :=
  ∀ (s : State) (r : Req) (v w : Word) (e : Nat),
    let q := reqIdx r
    let d := s.dev.beginAll
    (∀ a k, (a, k) ∈ [(R.HLD_SRC_ADDR_LO, Kind.dev), (R.HDM_RING_BASE_LO, Kind.ring), (R.HDM_RING_WB_LO, Kind.ring)] →
      s.reaches r a k e → d.instOf q a k = e →
      (Gives (.registerWrite r (a + 4) v) s fun u => u.mem = s.mem ∧ u.dev.regs = d.regs ∧ u.dev.stagedOf q (a + 4) = some v) ∧
      (d.stagedOf q (a + 4) = some w → Gives (.registerWrite r a v) s fun u => u.mem = s.mem ∧ u.dev.rget a e = v ∧
        u.dev.rget (a + 4) e = w ∧ u.dev.stagedOf q (a + 4) = none ∧ d.regsBut u.dev [(a, e), (a + 4, e)]) ∧
      (d.stagedOf q (a + 4) = none → Gives (.registerWrite r a v) s fun u => u.mem = s.mem ∧ u.dev.rget a e = v ∧
        d.onlyRegs u.dev [(a, e)])) ∧
    (∀ n : BitVec 8, s.reaches r R.HDM_Q_TAIL .dmaq e → d.instOf q R.HDM_Q_TAIL .dmaq = e → n.toNat < 2 ^ s.dev.fget F.HDM_Q_CFG_SIZE e →
      Gives (.queueDoorbell r n) s fun u => u.mem = s.mem ∧ u.dev.fget F.HDM_Q_TAIL_INDEX e = n.toNat ∧
        d.onlyRegs u.dev [(R.HDM_Q_TAIL, e)]) ∧
    (∀ n : BitVec 20, s.reaches r R.HDM_RING_HEAD .ring e → d.instOf q R.HDM_RING_HEAD .ring = e →
      Gives (.ringHeadWrite r n) s fun u => u.mem = s.mem ∧ u.dev.fget F.HDM_RING_HEAD_INDEX e = n.toNat ∧
        d.onlyRegs u.dev [(R.HDM_RING_HEAD, e)])

/-- What power, RESET_N, PERST_N, host soft reset and thermal shutdown clear and keep (R72, R75, R428, R429, R439).
Beside the rules, clauses rest on the model's choices of log 1, log 63, log 64, log 65 and log 67. -/
def Obligations.power_and_resets : Prop :=
  ∀ (s : State),
    (∀ c on, (c, on) ∈ [(Instr.powerOn, true), (Instr.powerLoss, false)] → Gives c s fun u => u.dev.life.power = on ∧
      u.dev.running = false ∧ (∀ off i, u.dev.rget off i = resetWord off) ∧ u.mem.host = s.mem.host ∧
      (∀ sp, sp ≠ Space.host → u.mem.bytes sp = []) ∧ u.dev.cycle = s.dev.cycle) ∧
    (∀ ns, s.dev.running = true →
      (10000 ≤ ns → Gives (.resetNAssert ns) s fun u => s.pinReset u 1 ∧ u.dev.life.low = true ∧ u.dev.cycle = s.dev.cycle) ∧
      (ns < 2000 → exec (.resetNAssert ns) s = .next s)) ∧
    (s.dev.life.power = true → s.dev.life.thermal = false → Gives .thermalShutdown s fun u => s.pinReset u 3 ∧
      u.dev.life.thermal = true ∧ u.dev.thermtripLow = true) ∧
    (∀ devid bootsel clksel, s.dev.life.power = true → s.dev.life.low = true → s.dev.life.thermal = false →
      Gives (.resetNRelease devid bootsel clksel) s fun u => u.mem = s.mem ∧ u.dev.running = true ∧ u.dev.devid = devid.toNat ∧
        u.dev.fget F.HLD_BOOT_SRC_BOOTSEL = bootsel.toNat ∧ u.dev.life.clkSel = clksel ∧ u.dev.life.riseAt = u.dev.cycle ∧
        u.dev.devSt = stBoot ∧ ∀ k, k < 16 → u.dev.sliceSt k = stBoot) ∧
    (s.dev.running = true → s.dev.isRoot = true → Gives .perstNAssert s fun u => u.dev.life.perstLow = true ∧
      u.dev.host.pcieReady = false ∧ u.dev.host.cfg = [] ∧ u.dev.host.msix = [] ∧ u.mem.bar2 = [] ∧
      (∀ sp, sp ≠ Space.bar2 → u.mem.bytes sp = s.mem.bytes sp) ∧
      (∀ off e, off ∈ [R.HDM_Q_CFG, R.HDM_Q_TAIL, R.HDM_Q_HEAD, R.HDM_RING_CFG, R.HDM_RING_TAIL, R.HDM_RING_HEAD] → e < 64 →
        u.dev.rget off e = resetWord off) ∧
      u.dev.host.evtQ = s.dev.host.evtQ ∧ u.dev.ports = s.dev.ports ∧ u.dev.slices = s.dev.slices ∧ u.dev.tm = s.dev.tm ∧
      u.dev.drv = s.dev.drv ∧ u.dev.ntu = s.dev.ntu) ∧
    (s.dev.life.perstLow = true → Gives .perstNRelease s fun u => u.mem = s.mem ∧ u.dev.regs = s.dev.regs ∧
      u.dev.life.perstLow = false ∧ u.dev.life.perstAt = s.dev.cycle) ∧
    (∀ r key, s.dev.noPass = true → s.dev.reachable R.GLB_SOFT_RESET = true →
      (key ≠ 0x00015116 ∨ s.dev.devSt < stHarness → exec (.hostSoftReset r key) s = .next s) ∧
      (stHarness ≤ s.dev.devSt → Gives (.hostSoftReset r 0x00015116) s fun u => u.dev.devSt = stHarness ∧ u.dev.ntu = s.dev.ntu ∧
        u.dev.rget R.ERR_ALARM = s.dev.rget R.ERR_ALARM ∧ u.dev.fget F.GLB_RESET_CAUSE_SOFT = 1 ∧
        u.dev.halter.order = s.dev.halter.order ∧ u.dev.halter.down = s.dev.halter.down ∧
        u.dev.host.evtQ = s.dev.host.evtQ ∧ u.dev.host.msix = s.dev.host.msix ∧ u.dev.devid = s.dev.devid ∧
        u.dev.ports = [] ∧ u.dev.slices = [] ∧ u.dev.drv = {} ∧ u.dev.stb = {} ∧ u.mem.host = s.mem.host ∧
        (∀ sp, sp ≠ Space.host → sp ≠ Space.dram → u.mem.bytes sp = []) ∧
        (∀ a, Sparse.get 0 u.mem.dram a = if 0x30000000 ≤ a ∧ a < 0x50000000 then Sparse.get 0 s.mem.dram a else 0) ∧
        (∀ off row i, findReg off = some row → i < 2 ^ 20 → blockIndex off ∉ [0, 1, 2, 3, 12, 18, 19] →
          u.dev.rget off i = resetWord off)))

/-- BOOT, TRAIN and HARNESS follow fuses, PLLs and DRAM training; third failures hold (R55, R66, R72, R74, R80, R287).
Beside the rules, clauses rest on the model's choices of log 41 and log 66. -/
def Obligations.start_up_sequence : Prop :=
  ∀ (s : State), s.dev.running = true →
    (s.dev.devSt = stBoot →
      (∀ lo hi die s0 s1 s2 s3 key, s.dev.life.fused = false → s.dev.fon F.GLB_BOOT_STATUS_FUSE_FAIL = false →
        (Gives (.fuseRead lo hi die s0 s1 s2 s3 key true) s fun u => u.mem = s.mem ∧ u.dev.life.fused = true ∧
          s.dev.life.riseAt + 150000 ≤ u.dev.cycle ∧ u.dev.rget R.GLB_FUSE_LOT_LO = lo ∧
          u.dev.fget F.GLB_FUSE_LOT_HI_LOT = hi.toNat ∧ u.dev.rget R.GLB_FUSE_STACK = s0 ∧ u.dev.rget (R.GLB_FUSE_STACK + 12) = s3 ∧
          (∀ k, k < 12 → u.dev.rget (R.HLD_KEY_HASH + 4 * k) = key.getD k 0) ∧
          u.dev.devSt = (if s.dev.life.locked then stTrain else stBoot)) ∧
        (Gives (.fuseRead lo hi die s0 s1 s2 s3 key false) s fun u => u.mem = s.mem ∧ u.dev.life.fused = false ∧
          u.dev.fget F.GLB_BOOT_STATUS_FUSE_FAIL = 1 ∧ bit (u.dev.rget R.ERR_ALARM).toNat 1 = true ∧ u.dev.devSt = stBoot)) ∧
      (s.dev.life.locked = false → s.dev.fon F.GLB_BOOT_STATUS_PLL_FAIL = false →
        (Gives .pllLock s fun u => u.mem = s.mem ∧ u.dev.life.locked = true ∧ u.dev.ntu.run = true ∧
          u.dev.ntu.total = s.dev.ntu.total ∧ u.dev.devSt = (if s.dev.life.fused then stTrain else stBoot) ∧
          (s.dev.life.fused = true → ∀ k, k < 16 → u.dev.sliceSt k = stTrain)) ∧
        (Gives .pllLockTimeout s fun u => u.mem = s.mem ∧ u.dev.life.pllTries = s.dev.life.pllTries + 1 ∧
          u.dev.life.locked = false ∧ u.dev.devSt = stBoot ∧ s.dev.life.riseAt + (s.dev.life.pllTries + 1) * 3000000 ≤ u.dev.cycle ∧
          u.dev.fget F.GLB_BOOT_STATUS_PLL_FAIL = (if s.dev.life.pllTries = 2 then 1 else 0)))) ∧
    (s.dev.devSt = stTrain → s.dev.fon F.GLB_BOOT_STATUS_TRAIN_FAIL = false →
      (∀ a b c d, Gives (.dramTrainingDone a b c d) s fun u => u.mem = s.mem ∧ u.dev.devSt = stHarness ∧
        (∀ k, k < 4 → u.dev.fget F.SDC_STACK_STATUS_TRAINED k = 1 ∧
          u.dev.fget F.SDC_STACK_TRAIN_US k = ([a, b, c, d].getD k 0).toNat) ∧
        (let sel := s.dev.fget F.HLD_BOOT_SRC_BOOTSEL
         (sel = 1 → u.dev.ld = s.dev.ld) ∧
         (sel ≠ 1 → u.dev.fget F.HLD_STATUS_BUSY = 1 ∧ u.dev.fget F.HLD_STATUS_PHASE = 1 ∧ u.dev.ld.step = 1 ∧
          u.dev.ld.src = (if sel = 2 then 4 else 1)))) ∧
      (∀ k : Fin 4, let n := Sparse.get 0 s.dev.life.trips k + 1
        Gives (.trainingAttemptFail k) s fun u => u.mem = s.mem ∧ u.dev.devSt = stTrain ∧ Sparse.get 0 u.dev.life.trips k = n ∧
          (n < 3 → u.dev.fget F.GLB_BOOT_STATUS_TRAIN_FAIL = 0) ∧
          (3 ≤ n → u.dev.fget F.GLB_BOOT_STATUS_TRAIN_FAIL = 1 ∧ u.dev.fget F.GLB_BOOT_STATUS_STACK_FAIL = 2 ^ k.val ∧
            bit (u.dev.rget R.ERR_ALARM).toNat 1 = true))) ∧
    (s.dev.life.perstLow = false → s.dev.host.pcieReady = false → Gives .pcieConfigReady s fun u => u.mem = s.mem ∧
      u.dev.regs = s.dev.regs ∧ u.dev.host.pcieReady = true ∧ max s.dev.life.riseAt s.dev.life.perstAt + 60000000 ≤ u.dev.cycle)

/-- Temperature readings, the I2C sideband, JTAG, configuration requests and the MSI-X table (R72, R319, R401, R421,
R434, R435, R437, R438). Beside the rules, clauses rest on the model's choices of log 3, log 4, log 10 and log 41. -/
def Obligations.temperatures_and_side_ports : Prop :=
  ∀ (s : State),
    (s.dev.life.power = true → ∀ sl st : List Byte, sl.length = 16 → st.length = 4 →
      let c := maxByte sl
      Gives (.tempSensorUpdate sl st) s fun u => u.mem = s.mem ∧ s.dev.life.tempAt + 300000 ≤ u.dev.cycle ∧
        (∀ n, n < 4 → u.dev.rget (R.GLB_TEMP_SLICE + 4 * n) = BitVec.ofNat 32 (leNat ((sl.drop (4 * n)).take 4))) ∧
        (∀ k, k < 4 → u.dev.fget F.SDC_STACK_STATUS_TEMP k = (st.getD k 0).toNat) ∧
        u.dev.fget F.GLB_TEMP_MAX_DIE_C = c ∧ u.dev.fget F.GLB_TEMP_MAX_STACK_C = maxByte st ∧
        u.dev.fget F.GLB_TEMP_MAX_PEAK_C = max c (s.dev.fget F.GLB_TEMP_MAX_PEAK_C) ∧
        u.dev.fget F.GLB_TEMP_STATUS_STACK_HOT = b2n (st.any (fun x => decide (85 < x.toNat))) ∧
        (∀ k, k < 4 → u.dev.fget F.SDC_STACK_STATUS_HOT k =
          b2n (s.dev.fon F.SDC_CFG_TEMP_REFRESH && decide (85 < (st.getD k 0).toNat))) ∧
        (s.dev.running = true → s.dev.fon F.GLB_TEMP_STATUS_WARN = true →
          u.dev.fget F.GLB_TEMP_STATUS_WARN = (if c < s.dev.fget F.GLB_TEMP_WARN_CLEAR_C then 0 else 1)) ∧
        (s.dev.running = true → s.dev.fon F.GLB_TEMP_STATUS_WARN = false →
          u.dev.fget F.GLB_TEMP_STATUS_WARN = (if s.dev.fget F.GLB_TEMP_WARN_SET_C ≤ c then 1 else 0))) ∧
    (s.dev.life.power = true →
      (∀ cmd : Byte, Gives (.i2cCommandWrite cmd) s fun u => u.mem = s.mem ∧ u.dev.regs = s.dev.regs ∧ u.dev.life.i2c = cmd.toNat) ∧
      (Gives .i2cRead s fun u => u.mem = s.mem ∧ u.dev.regs = s.dev.regs ∧ u.dev.life = s.dev.life ∧
        (s.dev.life.low = false → s.dev.life.fused = true → s.dev.life.powerAt + 3000000 ≤ s.dev.cycle →
          Sparse.get 0 u.dev.host.rdata i2cIdx = match s.dev.life.i2c with
            | 0 => s.dev.rget R.GLB_ID
            | 1 => s.dev.rget R.GLB_STATE
            | 2 => s.dev.rget R.GLB_TEMP_MAX
            | 3 => s.dev.rget R.ERR_ALARM
            | 4 => s.dev.rget R.GLB_RESET_CAUSE
            | 5 => s.dev.rget R.GLB_TEMP_STATUS
            | 6 => s.dev.rget R.GLB_FUSE_DIE
            | 7 => s.dev.rget R.GLB_STRAPS
            | _ => 0))) ∧
    (∀ op, op ∈ [JtagOp.bypass, .sample] → exec (.jtagInstruction op) s = .next { s with dev.life.jtag := op }) ∧
    (Gives (.jtagInstruction .idcode) s fun u => u.mem = s.mem ∧ u.dev.regs = s.dev.regs ∧ u.dev.life.jtag = .idcode ∧
      Sparse.get 0 u.dev.host.rdata jtagIdx = 0x251164B3) ∧
    (∀ code, exec (.jtagInstruction (.other code)) s =
      if (List.range 16).all (fun k => s.dev.sliceSt k == stOff) then .fault (.undescribed 435) else .fault (.unpredictable 435)) ∧
    (s.dev.running = true → ∀ wr reg v,
      (s.dev.life.perstLow = true → exec (.pcieConfigRequest wr reg v) s = .next s) ∧
      (s.dev.life.perstLow = false → s.dev.host.pcieReady = false →
        exec (.pcieConfigRequest wr reg v) s = .next { s with dev.host.retry := true }) ∧
      (s.dev.life.perstLow = false → s.dev.host.pcieReady = true →
        (Gives (.pcieConfigRequest true reg v) s fun u => u.mem = s.mem ∧ u.dev.regs = s.dev.regs ∧
          Sparse.get 0 u.dev.host.cfg reg = v &&& BitVec.ofNat 32 (cfgMask reg)) ∧
        (Gives (.pcieConfigRequest false reg v) s fun u => u.mem = s.mem ∧ u.dev.regs = s.dev.regs ∧
          Sparse.get 0 u.dev.host.rdata 0 = s.dev.cfgRead reg) ∧
        (s.dev.isRoot = true → ∀ i, i < 512 →
          (Gives (.msixTableAccess true (16 * i + 12) v) s fun u => u.mem = s.mem ∧ u.dev.regs = s.dev.regs ∧
            (at0 u.dev.host.msix i).unmasked = !bit v.toNat 0) ∧
          (Gives (.msixTableAccess false (16 * i + 12) v) s fun u => u.mem = s.mem ∧ u.dev.regs = s.dev.regs ∧
            Sparse.get 0 u.dev.host.rdata 0 = if (at0 s.dev.host.msix i).unmasked then 0 else 1))))

/-- Service and test requests move one slice; cluster holds stop and releases start threads (R66, R68, R69, R76). -/
def Obligations.service_states_of_slices : Prop :=
  ∀ (s : State) (k : Fin 16), s.dev.running = true →
    (s.dev.life.wide = false →
      (s.dev.devSt = stStructure → ∃ j ∈ s.dev.enabledSlices, j ≠ k.val ∧ s.dev.kindOf j = 1) →
      let st := s.dev.sliceSt k
      let moved (u : State) (v : Nat) : Prop := u.mem = s.mem ∧ u.dev.sliceSt k = v ∧
        (∀ j, j < 16 → j ≠ k.val → u.dev.sliceSt j = s.dev.sliceSt j) ∧
        s.dev.regsBut u.dev [(R.GLB_STATE, 0), (R.GLB_SLICE_STATE_LO, 0), (R.GLB_SLICE_STATE_HI, 0), (R.GLB_BOOT_TIME, 0)]
      (st = stStartup ∨ st = stTest → Gives (.serviceRequest k) s fun u => moved u stService) ∧
      (st ≠ stStartup → st ≠ stTest → exec (.serviceRequest k) s = .next s) ∧
      (st = stService → Gives (.testRequest k) s fun u => moved u stTest) ∧
      (st ≠ stService → exec (.testRequest k) s = .next s) ∧
      (st = stStartup → s.dev.fon F.GLB_CTRL_AUTO_SERVICE = true → Gives (.autoServiceEntry k) s fun u => moved u stService) ∧
      (st ≠ stStartup ∨ s.dev.fon F.GLB_CTRL_AUTO_SERVICE = false → exec (.autoServiceEntry k) s = .next s)) ∧
    (∀ c : Fin 8,
      (s.dev.clusterHeld c = true → exec (.clusterHoldSet c) s = .next s) ∧
      (s.dev.clusterHeld c = false →
        (Gives (.clusterHoldSet c) s fun u => u.mem = s.mem ∧ u.dev.clusterHeld c = true ∧
          ∀ t ∈ clusterThreads c, u.dev.tstate t = 0 ∧ (u.dev.thr t).hold = .none) ∧
        exec (.clusterRelease c) s = .next s) ∧
      (s.dev.clusterHeld c = true → bit s.dev.ld.fw c = true → Gives (.clusterRelease c) s fun u => u.mem = s.mem ∧
        u.dev.clusterHeld c = false ∧ ∀ t ∈ clusterThreads c, s.dev.fon F.THREAD_CFG_ROLE t = true →
          u.dev.tstate t = 1 ∧ (u.dev.thr t).pc = s.dev.fget F.THREAD_ENTRY_PC t) ∧
      (s.dev.clusterHeld c = true → bit s.dev.ld.fw c = false → exec (.clusterRelease c) s = .fault (.unpredictable 76)))

/-- A recovery enters RECOVERY with its cause, waits for the loader and leaves by STRUCTURE (R68, R77, R78, R79, R59).
Beside the rules, clauses rest on the model's choices of log 50 and log 119. -/
def Obligations.slice_recovery : Prop :=
  ∀ (s : State) (k : Fin 16), s.dev.running = true → s.dev.life.wide = false →
    let cause (u : State) : Nat := u.dev.fget (nibble R.GLB_SLICE_CAUSE_LO R.GLB_SLICE_CAUSE_HI k) 0
    (s.dev.devSt ≠ stStructure → s.dev.sliceSt k ≠ stOff →
      (Gives (.sliceReset k) s fun u => u.mem = s.mem ∧ u.dev.sliceSt k = stRecovery ∧
        cause u = (if s.dev.kindOf k = 2 then 4 else 1))) ∧
    (s.dev.sliceSt k ≠ stOff →
      (∀ egress, s.dev.hasWork k egress = true → Gives (.pipelineStall k egress) s fun u => u.mem = s.mem ∧
        u.dev.sliceSt k = stRecovery ∧ cause u = 3 ∧
        ((if egress then (s.dev.sl k).lastTx else (s.dev.sl k).last).getD 0) + 3000000 ≤ u.dev.cycle)) ∧
    (s.dev.sliceSt k = stOff → exec (.sliceReset k) s = .next s) ∧
    (s.dev.sliceSt k = stRecovery → s.dev.life.stopped.contains k.val = false → s.dev.life.ready.contains k.val = false →
      Gives (.recoveryLogicResetDone k) s fun u => u.dev.life.ready = s.dev.life.ready ++ [k.val] ∧ u.mem.host = s.mem.host ∧
        u.mem.dram = s.mem.dram ∧ u.mem.cluster = s.mem.cluster ∧ u.dev.fwd.l2 = s.dev.fwd.l2.filter (fun e => e.1 / 65536 != k.val)) ∧
    (minOf s.dev.life.ready = some k.val → s.dev.ld.engine = none → s.dev.ld.unit = none → s.dev.ld.step ≠ 5 →
      Gives .recoveryReapplyStart s fun u => u.mem = s.mem ∧ u.dev.sliceSt k = stStructure ∧ u.dev.ld.engine = some k.val ∧
        u.dev.ld.engineAt = s.dev.cycle ∧ u.dev.life.ready = s.dev.life.ready.filter (fun t => t != k.val)) ∧
    (s.dev.ld.engine = some k.val →
      let ws := s.blk.sliceWork k
      let p := (s.blk.on (fun d => d.toCycle (d.ld.engineAt + passCycles ws))).runPass ⟨false, s.dev.ld.done, passBytes ws, true⟩ ws
      p.bad = none →
      (p.fail = none → p.b.dev.fon F.GLB_CTRL_STRUCT_HOLD = true → Gives .recoveryApplyEnd s fun u => u.mem = p.b.mem ∧
        u.dev.sliceSt k = stStructure ∧ u.dev.kindOf k = 4 ∧ u.dev.ld.engine = none) ∧
      (∀ sec, p.fail = some sec → Gives .recoveryApplyEnd s fun u => u.mem = p.b.mem ∧ u.dev.sliceSt k = stRecovery ∧
        cause u = 5 ∧ u.dev.ld.engine = none ∧ u.dev.life.stopped.contains k.val = true ∧
        u.dev.fget F.HLD_STATUS_ERR = errApply ∧ u.dev.fget F.HLD_STATUS_SECTION = sec % 2 ^ 16)) ∧
    (s.dev.kindOf k = 1 ∨ s.dev.kindOf k = 4 → Gives (.structRelease k) s fun u => u.mem = s.mem ∧ u.dev.sliceSt k = stStartup) ∧
    (s.dev.kindOf k ≠ 1 → s.dev.kindOf k ≠ 4 → exec (.structRelease k) s = .next s)

/-- The host reaches its own device's registers and descriptors, and others over the ring (R402, R403, R404, R412).
Beside the rules, clauses rest on the model's choices of log 4 and log 47. -/
def Obligations.host_accesses : Prop :=
  ∀ (s : State) (off : Nat) (v : Word), s.dev.running = true →
    (s.dev.isRoot = true → s.dev.host.pcieReady = true →
      (off < 0x4000000 → exec (.hostRegAccess 0 off true v true) s = exec (.registerWrite .host off v) s ∧
        exec (.hostRegAccess 0 off false v true) s = exec (.rcRegisterRead .host off) s) ∧
      (off < 0x80000 → off % 4 = 0 →
        (Gives (.hostRegAccess 1 off true v true) s fun u => u.dev = s.dev ∧ s.storedAt u .bar2 off (toLe 4 v.toNat)) ∧
        (Gives (.hostRegAccess 1 off false v true) s fun u => u.mem = s.mem ∧ u.dev.regs = s.dev.regs ∧
          Sparse.get 0 u.dev.host.rdata 0 = BitVec.ofNat 32 (leNat (s.mem.read .bar2 off 4)))) ∧
      (let dev := off / 0x4000000 % 64
       dev ≠ 0 →
        (s.dev.present dev = false → s.dev.fget F.HTR_NOPEER_CNT_COUNT + 1 < 2 ^ F.HTR_NOPEER_CNT_COUNT.w → ∀ wr,
          Gives (.hostRegAccess 0 off wr v true) s fun u => u.mem = s.mem ∧ u.dev.halter = s.dev.halter ∧
            u.dev.fget F.HTR_NOPEER_CNT_COUNT = s.dev.fget F.HTR_NOPEER_CNT_COUNT + 1 ∧
            s.dev.regsBut u.dev [(R.HTR_NOPEER_CNT, 0)] ∧ (wr = false → Sparse.get 0 u.dev.host.rdata 0 = 0)) ∧
        (s.dev.present dev = true → Gives (.hostRegAccess 0 off false v true) s fun u => u.mem = s.mem ∧
          u.dev.regs = s.dev.regs ∧
          u.dev.halter.reqs = s.dev.halter.reqs ++ [RingReq.mk s.dev.halter.nextTag dev s.dev.cycle none])) ∧
      (s.dev.fget F.HDM_BAD_ACCESS_COUNT + 1 < 2 ^ F.HDM_BAD_ACCESS_COUNT.w → ∀ wr,
        Gives (.hostRegAccess 0 off wr v false) s fun u => u.mem = s.mem ∧
          u.dev.fget F.HDM_BAD_ACCESS_COUNT = s.dev.fget F.HDM_BAD_ACCESS_COUNT + 1 ∧
          s.dev.regsBut u.dev [(R.HDM_BAD_ACCESS, 0)] ∧ (wr = false → Sparse.get 0 u.dev.host.rdata 0 = 0))) ∧
    (s.dev.isRoot = false → ∀ bar wr one, exec (.hostRegAccess bar off wr v one) s = .next s)

/-- A message for this device is performed; one for another goes out of the other port, in its class's order (R404,
R405, R408, R410, R411, R421, R422). Beside the rules, clauses rest on the model's choices of log 48. -/
def Obligations.ring_messages_are_performed_or_passed_on : Prop :=
  ∀ (s : State) (m : HMsg), s.dev.running = true →
    (m.dst ≠ s.dev.devid → ∀ c typ, (c, typ) ∈ ([(.regWr m, 2), (.regRd m, 3), (.regCpl m, 4), (.memWr m, 5), (.memRd m [] true, 6),
        (.memCpl m, 7), (.imgReq m, 8), (.imgData m, 9), (.intr m, 10)] : List (Instr × Nat)) →
      Gives c s fun u => u.mem = s.mem ∧ u.dev.regs = s.dev.regs ∧ u.dev.cycle = s.dev.cycle ∧
        u.dev.halter.out = (if s.dev.portHop (!m.fromH1) then queueMsg s.dev.halter.out s.dev.cycle (!m.fromH1) { m with typ := typ }
          else s.dev.halter.out)) ∧
    (∀ out c down,
      let waits (o : OutMsg) : Bool := o.down == down && decide (c < o.start)
      let w := (out.filter waits).map (fun o => o.msg)
      let order := if m.typ < 5 ∨ 9 < m.typ then w.filter msgFirst ++ m :: w.filter (fun x => !msgFirst x) else w ++ [m]
      ∃ line, queueMsg out c down m = out.filter (fun o => !waits o) ++ line ∧ line.map (fun o => o.msg) = order ∧
        (∀ o ∈ line, o.down = down ∧ c ≤ o.start) ∧
        line.Pairwise (fun o p => o.start + msgCycles o.msg ≤ p.start)) ∧
    (m.dst = s.dev.devid →
      (s.dev.noPass = true → m.addr < bar2Mark → exec (.regWr m) s =
        exec (.registerWrite (msgReq m) m.addr (BitVec.ofNat 32 (leNat (m.payload.take 4)))) s) ∧
      (bar2Mark ≤ m.addr → m.addr % 4 = 0 → m.addr < bar2Mark + 0x80000 →
        (Gives (.regWr m) s fun u => u.dev = s.dev ∧
          s.storedAt u .bar2 (m.addr - bar2Mark) (toLe 4 (leNat (m.payload.take 4)))) ∧
        (Gives (.regRd m) s fun u => u.mem = s.mem ∧
          u.dev = s.dev.send (s.dev.mkMsg 4 m.src m.req m.tag 0 m.addr (s.mem.read .bar2 (m.addr - bar2Mark) 4)))) ∧
      (∀ req q, s.dev.halter.reqs.find? (fun x => x.tag == m.tag && x.target == m.src) = some req → req.remote = some q →
        Gives (.regCpl m) s fun u => u.mem = s.mem ∧ u.dev.halter.reqs = s.dev.halter.reqs.erase req ∧
          u.dev.fget F.HTR_RMT_DATA_DATA q = leNat (m.payload.take 4) % 2 ^ 32 ∧ u.dev.fget F.HTR_RMT_STATUS_BUSY q = 0 ∧
          u.dev.fget F.HTR_RMT_STATUS_DONE q = 1 ∧ u.dev.fget F.HTR_RMT_STATUS_ERR q = (if m.status = 0 then 0 else 1) ∧
          s.dev.regsBut u.dev [(R.HTR_RMT_DATA, q), (R.HTR_RMT_STATUS, q)]) ∧
      (s.dev.isRoot = true → s.dev.busOk = true →
        (Gives (.memWr m) s fun u => u.dev = s.dev ∧ s.storedAt u .host m.addr m.payload) ∧
        (∀ data, exec (.memRd m data true) s = .next { s with dev := s.dev.send (s.dev.mkMsg 7 m.src m.req m.tag 0 m.addr
          ((data ++ List.replicate m.want 0).take m.want)) }) ∧
        (∀ data, exec (.memRd m data false) s = .next { s with dev := s.dev.send (s.dev.mkMsg 7 m.src m.req m.tag 2 m.addr []) })) ∧
      (Gives (.memCpl m) s fun u => u.mem = s.mem ∧ u.dev.regs = s.dev.regs ∧
        u.dev.halter.out = s.dev.halter.out ∧ u.dev.halter.reads = s.dev.halter.reads.map (fun x =>
          if x.tag = m.tag ∧ x.got = none then { x with got := some (m.status, m.payload) } else x)) ∧
      (s.dev.isRoot = true → exec (.intr m) s = .next { s with dev := s.dev.msixFire (m.addr % 512) }))

/-- A remote read waits for its completion or its time limit, a remote write is posted (R404, R405, R410). Beside the
rules, clauses rest on the model's choices of log 9. -/
def Obligations.remote_operations : Prop :=
  ∀ (s : State) (r : Req) (dev : Fin 64) (q : Nat),
    (q = reqIdx r → s.dev.noPass = true → s.dev.reachable R.HTR_RMT_CTRL = true →
      (s.dev.fon F.HTR_RMT_STATUS_BUSY q = true → s.dev.fget F.HTR_RMT_REFUSED_COUNT q + 1 < 2 ^ F.HTR_RMT_REFUSED_COUNT.w →
        ∀ c, c ∈ [Instr.remoteRead r dev, Instr.remoteWrite r dev] → Gives c s fun u => u.mem = s.mem ∧
          u.dev.fget F.HTR_RMT_REFUSED_COUNT q = s.dev.fget F.HTR_RMT_REFUSED_COUNT q + 1 ∧
          s.dev.onlyRegs u.dev [(R.HTR_RMT_REFUSED, q)]) ∧
      (s.dev.fon F.HTR_RMT_STATUS_BUSY q = false → (s.dev.isRoot = true → dev.val = s.dev.devid ∨ s.dev.present dev = true) →
        (Gives (.remoteRead r dev) s fun u => u.mem = s.mem ∧ u.dev.fget F.HTR_RMT_STATUS_BUSY q = 1 ∧
          u.dev.halter.reqs = s.dev.halter.reqs ++ [RingReq.mk s.dev.halter.nextTag dev s.dev.cycle (some q)] ∧
          s.dev.regsBut u.dev [(R.HTR_RMT_CTRL, q), (R.HTR_RMT_STATUS, q)]) ∧
        (Gives (.remoteWrite r dev) s fun u => u.mem = s.mem ∧ u.dev.fget F.HTR_RMT_STATUS_BUSY q = 0 ∧
          u.dev.fget F.HTR_RMT_STATUS_DONE q = 1 ∧ u.dev.fget F.HTR_RMT_STATUS_ERR q = 0 ∧
          u.dev.halter.reqs = s.dev.halter.reqs ∧
          s.dev.regsBut u.dev [(R.HTR_RMT_CTRL, q), (R.HTR_RMT_STATUS, q), (R.HTR_RMT_DATA, q)]))) ∧
    (∀ tag req, s.dev.running = true → s.dev.halter.reqs.find? (fun x => x.tag == tag) = some req →
      s.dev.fget F.HTR_TIMEOUT_CNT_COUNT + 1 < 2 ^ F.HTR_TIMEOUT_CNT_COUNT.w →
      Gives (.forwardTimeout tag) s fun u => u.mem = s.mem ∧ req.since + 240000 ≤ u.dev.cycle ∧ s.dev.cycle ≤ u.dev.cycle ∧
        u.dev.halter.reqs = s.dev.halter.reqs.erase req ∧
        u.dev.fget F.HTR_TIMEOUT_CNT_COUNT = s.dev.fget F.HTR_TIMEOUT_CNT_COUNT + 1 ∧
        (req.remote = none → Sparse.get 0 u.dev.host.rdata 0 = 0) ∧
        (req.remote = some q → u.dev.fget F.HTR_RMT_STATUS_DONE q = 1 ∧ u.dev.fget F.HTR_RMT_STATUS_ERR q = 2 ∧
          u.dev.fget F.HTR_RMT_DATA_DATA q = 0)) ∧
    (s.dev.running = true → s.dev.fget F.HTR_RX_BAD_COUNT + 1 < 2 ^ F.HTR_RX_BAD_COUNT.w → Gives .halterBadFrame s fun u =>
      u.mem = s.mem ∧ s.dev.onlyRegs u.dev [(R.HTR_RX_BAD, 0)] ∧
        u.dev.fget F.HTR_RX_BAD_COUNT = s.dev.fget F.HTR_RX_BAD_COUNT + 1)

/-- Discovery rounds, hops and link messages keep the ring's map (R407, R408, R409). Beside the rules, clauses rest on
the model's choices of log 9 and log 48. -/
def Obligations.ring_discovery_and_hops : Prop :=
  ∀ (s : State) (m : HMsg) (h1 : Bool) (far : Fin 64), s.dev.running = true →
    let sends (u : State) (down : Bool) (p : HMsg → Prop) : Prop := ∃ o ∈ u.dev.halter.out, o.down = down ∧ p o.msg
    (s.dev.isRoot = true →
      (s.dev.fget F.GLB_STATE_DEV = 0 → exec .discoverRound s = .next s) ∧
      (s.dev.fget F.GLB_STATE_DEV ≠ 0 → Gives .discoverRound s fun u => u.mem = s.mem ∧ s.dev.cycle ≤ u.dev.cycle ∧
        u.dev.halter.roundAt = some u.dev.cycle ∧ u.dev.halter.seen = [0] ∧ u.dev.halter.returned = false ∧
        (s.dev.portHop true = true → sends u true fun x => x.typ = 1 ∧ x.payload = [0])) ∧
      (∀ c, s.dev.halter.roundAt = some c → s.dev.halter.returned = false → s.dev.halter.timedOut = false →
        Gives .discoverTimeout s fun u => u.mem = s.mem ∧ u.dev.fget F.HTR_STATUS_RING_CLOSED = 0 ∧ c + 300000 ≤ u.dev.cycle ∧
        (s.dev.portHop false = true → sends u false fun x => x.typ = 1 ∧ x.tag = 1 ∧ x.payload = [0])) ∧
      (m.tag = 0 → m.fromH1 = false → Gives (.discover m) s fun u => u.mem = s.mem ∧ u.dev.halter.returned = true ∧
        u.dev.halter.down = [] ∧ u.dev.halter.order = m.payload.map (fun b => b.toNat % 64) ∧
        u.dev.fget F.HTR_STATUS_RING_CLOSED = 1)) ∧
    (s.dev.isRoot = false →
      let known := (m.payload.map (fun b => b.toNat % 64)).contains s.dev.devid
      let more : HMsg := { m with payload := m.payload ++ [BitVec.ofNat 8 s.dev.devid] }
      (known = true → s.dev.portHop (!m.fromH1) = true → Gives (.discover m) s fun u => u.mem = s.mem ∧ u.dev.regs = s.dev.regs ∧
        sends u (!m.fromH1) (fun x => x = m)) ∧
      (known = false → s.dev.portHop (!m.fromH1) = true → Gives (.discover m) s fun u => u.mem = s.mem ∧
        sends u (!m.fromH1) (fun x => x = more)) ∧
      (known = false → s.dev.portHop (!m.fromH1) = false → s.dev.portHop m.fromH1 = true → Gives (.discover m) s fun u =>
        u.mem = s.mem ∧ sends u m.fromH1 (fun x => x = more))) ∧
    (let bitOf : Fld := if h1 then F.HTR_STATUS_H1_UP else F.HTR_STATUS_H0_UP
     let cntOf : Fld := if h1 then F.HTR_H1_DOWN_CNT_COUNT else F.HTR_H0_DOWN_CNT_COUNT
     let hop : Nat × Nat := if h1 then (s.dev.devid, far.val) else (far.val, s.dev.devid)
     (s.dev.fon bitOf = true → s.dev.fget cntOf + 1 < 2 ^ cntOf.w → Gives (.hopDown h1 far) s fun u => u.mem = s.mem ∧
        u.dev.fget bitOf = 0 ∧ u.dev.fget cntOf = s.dev.fget cntOf + 1 ∧ hop ∈ u.dev.halter.down ∧
        (s.dev.portHop (!h1) = true → sends u (!h1) fun x => x.typ = 11)) ∧
     (s.dev.fon bitOf = false →
        (s.dev.fon (if h1 then F.HTR_CFG_H1_EN else F.HTR_CFG_H0_EN) = false → exec (.hopUp h1 far) s = .next s) ∧
        (s.dev.fon (if h1 then F.HTR_CFG_H1_EN else F.HTR_CFG_H0_EN) = true → Gives (.hopUp h1 far) s fun u => u.mem = s.mem ∧
          u.dev.fget bitOf = 1 ∧ hop ∉ u.dev.halter.down ∧
          (s.dev.portHop (!h1) = true → sends u (!h1) fun x => x.typ = 11)))) ∧
    (Gives (.link m) s fun u => u.mem = s.mem ∧ u.dev.regs = s.dev.regs ∧
      ((m.addr / 2 ^ 56 % 64, m.addr / 2 ^ 48 % 64) ∈ u.dev.halter.down ↔ m.addr / 2 ^ 40 % 256 ≠ 1)) ∧
    (∀ dst : Fin 64, (∃ p ∈ s.dev.halter.holds, p.1 = dst.val) → Gives (.routeHoldEnd dst) s fun u => u.mem = s.mem ∧
      u.dev.regs = s.dev.regs ∧ (∀ p ∈ u.dev.halter.holds, p.1 ≠ dst.val) ∧ (∀ o ∈ u.dev.halter.held, o.msg.dst ≠ dst.val))

/-- A load starts from its source with BUSY set, or is refused and counted (R55, R56, R57, R58, R61, R62). Beside the
rules, clauses rest on the model's choices of log 41, log 97 and log 134. -/
def Obligations.load_starts : Prop :=
  ∀ (s : State) (serve : Bool) (peer : Fin 64), s.dev.running = true →
    let loads : List (Instr × Nat × Bool) := [(.loadFlash serve peer, 1, false), (.loadPcie serve peer, 3, false),
      (.loadHalter serve peer, 4, false), (.loadLive serve peer, 3, true)]
    (∀ x ∈ loads, s.dev.fon F.HLD_STATUS_BUSY = true → s.dev.strapWait = false →
      s.dev.fget F.HLD_REFUSED_CNT_COUNT + 1 < 2 ^ F.HLD_REFUSED_CNT_COUNT.w →
      Gives x.1 s fun u => u.mem = s.mem ∧ u.dev.ld = s.dev.ld ∧
        u.dev.fget F.HLD_REFUSED_CNT_COUNT = s.dev.fget F.HLD_REFUSED_CNT_COUNT + 1) ∧
    (∀ x ∈ loads, s.dev.fon F.HLD_STATUS_BUSY = false → stHarness ≤ s.dev.devSt → s.dev.applyStuck = false →
      128 ≤ s.dev.fget F.HLD_SRC_LEN_LEN →
      Gives x.1 s fun u => u.mem = s.mem ∧ u.dev.ld.step = 1 ∧ u.dev.ld.src = x.2.1 ∧ u.dev.ld.live = x.2.2 ∧
        u.dev.ld.peer = peer ∧ u.dev.ld.got = [] ∧ u.dev.fget F.HLD_STATUS_BUSY = 1 ∧ u.dev.fget F.HLD_STATUS_PHASE = 1 ∧
        u.dev.fget F.HLD_CTRL_PEER = peer ∧ u.dev.fget F.HLD_CTRL_SERVE_EN = (if serve then 1 else 0) ∧
        u.dev.fget F.HLD_BOOT_SRC_SLOT = (if x.2.2 then s.dev.fget F.HLD_BOOT_SRC_SLOT else min x.2.1 3) ∧
        (x.2.2 = true → ∀ off ∈ [R.HLD_LIVE_DONE, R.HLD_LIVE_REFUSED, R.HLD_LIVE_ERR_LO, R.HLD_LIVE_ERR_HI, R.HLD_LIVE_KERR],
          u.dev.rget off = 0)) ∧
    (s.dev.ld.src = 2 ∨ s.dev.ld.src = 3 → s.dev.ld.step ∈ [1, 2, 4] →
      Gives .fetchTimeout s fun u => u.mem = s.mem ∧ u.dev.ld.step = 0 ∧
        s.dev.ld.since + (if s.dev.ld.src = 3 then 30000000 else 3000000) ≤ u.dev.cycle ∧
        u.dev.fget F.HLD_STATUS_BUSY = 0 ∧ u.dev.fget F.HLD_STATUS_FAIL = 1 ∧ u.dev.fget F.HLD_STATUS_ERR = errFetch) ∧
    (s.dev.ld.src = 4 → s.dev.strapWait = true → Gives .halterLoadRetry s fun u => u.mem = s.mem ∧
      s.dev.ld.since + 3000000 ≤ u.dev.cycle ∧ u.dev.ld = { s.dev.ld with since := u.dev.cycle, peer := s.dev.upstream.getD s.dev.ld.peer } ∧
      (s.dev.upstream = none → u.dev.regs = s.dev.regs) ∧ ∀ n, s.dev.upstream = some n → u.dev.fget F.HLD_CTRL_PEER = n % 64) ∧
    (∀ m : HMsg, m.dst = s.dev.devid →
      (s.dev.ld.src = 4 → (∀ e ∈ s.dev.ld.got, e.1 ≠ m.addr) → Gives (.imgData m) s fun u => u.mem = s.mem ∧
        u.dev.regs = s.dev.regs ∧ u.dev.ld = { s.dev.ld with got := s.dev.ld.got ++ [(m.addr, m.payload)] }) ∧
      (s.dev.ld.src ≠ 4 → exec (.imgData m) s = .next s) ∧
      (s.dev.ld.retained = false ∨ s.dev.fon F.HLD_CTRL_SERVE_EN = false → exec (.imgReq m) s = .next s) ∧
      (s.dev.ld.retained = true → s.dev.fon F.HLD_CTRL_SERVE_EN = true →
        let total := leNat (s.mem.read .dram 0x30000010 4)
        exec (.imgReq m) s = .next { s with dev := s.dev.send (s.dev.mkMsg 9 m.src m.req m.tag 0 m.addr
          (s.mem.read .dram (0x30000000 + m.addr) (min 1024 (total - m.addr)))) }))

/-- Each phase of a load moves on or ends the load with its code (R52, R53, R54, R59, R63, R64, R68). Beside the
rules, clauses rest on the model's choices of log 45, log 50, log 51 and log 52. -/
def Obligations.image_verification_and_apply : Prop :=
  ∀ (s : State), s.dev.running = true →
    let l := s.dev.ld
    let ends (u : State) (code sec : Nat) : Prop := u.dev.ld.step = 0 ∧ u.dev.fget F.HLD_STATUS_BUSY = 0 ∧
      u.dev.fget F.HLD_STATUS_FAIL = 1 ∧ u.dev.fget F.HLD_STATUS_ERR = code % 256 ∧ u.dev.fget F.HLD_STATUS_SECTION = sec % 2 ^ 16
    (∀ data h ok, l.step = 1 → s.dev.fetched 0 128 data = some h →
      let e := hdrCheck h (s.dev.fget F.GLB_ID_REV) s.dev.devid l.live s.dev.sourceLimit
      (ok = true → e = 0 → Gives (.headerFetchDone data ok) s fun u => u.mem = s.mem ∧ u.dev.regs = s.dev.regs ∧ u.dev.ld.step = 2 ∧
        u.dev.ld.man = h) ∧
      (l.src ≠ 1 → ok = true → e ≠ 0 → Gives (.headerFetchDone data ok) s fun u => u.mem = s.mem ∧ ends u e noSection) ∧
      (l.src ≠ 1 → ok = false → Gives (.headerFetchDone data ok) s fun u => u.mem = s.mem ∧ ends u errFetch noSection)) ∧
    (∀ data r, l.step = 2 → s.dev.fetched 128 (sigOffset (hdrCount l.man) + 128) data = some r →
      sigFormCheck (LoadSt.sig { l with man := l.man ++ r }) s.dev.keyHash = 0 →
      Gives (.manifestFetchDone data true) s fun u => u.mem = s.mem ∧ u.dev.ld.step = 3 ∧ u.dev.ld.man = l.man ++ r ∧
        u.dev.fget F.HLD_STATUS_PHASE = 2) ∧
    (l.step = 3 →
      let n := sigOffset (hdrCount l.man)
      (l.src ≠ 1 → sigOk (l.man.take n) l.sig = false → Gives .signatureCheckDone s fun u => u.mem = s.mem ∧ ends u errSig noSection) ∧
      (sigOk (l.man.take n) l.sig = true → (tableCheck l.man l.live).1 = 0 → Gives .signatureCheckDone s fun u =>
        s.storedAt u .dram (stageBase l.live) l.man ∧ u.dev.ld.step = 4 ∧ u.dev.ld.next = 0 ∧ u.dev.fget F.HLD_STATUS_PHASE = 3)) ∧
    (∀ data body e, l.step = 4 → l.src ≠ 1 → l.entry = some e → s.dev.fetched e.off e.len data = some body → sha384 body ≠ e.digest →
      Gives (.bodyStaged data true) s fun u => ends u errDigest e.idx) ∧
    (∀ data body e, l.step = 4 → l.entry = some e → s.dev.fetched e.off e.len data = some body → sha384 body = e.digest →
      (e.applies = true → recordsOk e body = true) →
      (l.next + 1 < hdrCount l.man → Gives (.bodyStaged data true) s fun u =>
        s.storedAt u .dram (stageBase l.live + e.off) body ∧ u.dev.ld = { l with next := l.next + 1, since := s.dev.cycle }) ∧
      (hdrCount l.man ≤ l.next + 1 → l.live = true → Gives (.bodyStaged data true) s fun u =>
        s.storedAt u .dram (stageBase true + e.off) body ∧ u.dev.ld.step = 6 ∧ u.dev.ld.units = liveUnits (entries l.man) ∧
        u.dev.fget F.HLD_STATUS_PHASE = 4) ∧
      (hdrCount l.man ≤ l.next + 1 → l.live = false →
        let mask := Block.imageMask ⟨s.dev, s.mem.write .dram (stageBase false + e.off) body⟩ (entries l.man)
        coverageMissing (entries l.man) mask = false → Gives (.bodyStaged data true) s fun u =>
          u.dev.ld.step = 5 ∧ u.dev.ld.mask = mask ∧ u.dev.ld.retained = true ∧ u.dev.fget F.HLD_STATUS_PHASE = 4)) ∧
    (l.step = 5 →
      let ws := bootWork (applyOrder (entries l.man))
      let p := (s.blk.on (fun d => d.toCycle (l.since + passCycles ws))).runPass ⟨false, l.done, passBytes ws, true⟩ ws
      p.bad = none →
      (∀ sec, p.fail = some sec → Gives .applyPassEnd s fun u => u.mem = p.b.mem ∧ ends u errApply sec) ∧
      (p.fail = none → p.b.dev.fon F.GLB_CTRL_STRUCT_HOLD = true → Gives .applyPassEnd s fun u => u.mem = p.b.mem ∧ u.dev.ld.step = 0 ∧
        u.dev.fget F.HLD_STATUS_BUSY = 0 ∧ u.dev.fget F.HLD_STATUS_DONE = 1 ∧ u.dev.fget F.HLD_SLICE_EN_EN = p.b.dev.ld.mask % 2 ^ 16 ∧
        u.dev.life.wide = false ∧ ∀ k, k < 16 → bit p.b.dev.ld.mask k = true → u.dev.sliceSt k = stStructure ∧ u.dev.kindOf k = 1)) ∧
    (l.step = 6 → l.unit = none → l.engine = none → s.dev.life.ready = [] → ∀ k rest, l.units = k :: rest → k < 24 →
      let code := s.dev.unitCode (s.blk.newCarve k) s.blk.queued k
      (code = 0 → Gives .liveUnitPrecheck s fun u => u.mem = s.mem ∧ u.dev.ld.unit = some k ∧ u.dev.ld.units = rest) ∧
      (code = 2 → Gives .liveUnitPrecheck s fun u => u.mem = s.mem ∧ u.dev.regs = s.dev.regs ∧
        u.dev.ld.waitAt = some (l.waitAt.getD s.dev.cycle)) ∧
      (code ≠ 0 → code ≠ 2 → rest ≠ [] → Gives .liveUnitPrecheck s fun u => u.mem = s.mem ∧ u.dev.ld.units = rest ∧
        u.dev.fget ⟨R.HLD_LIVE_REFUSED, k, 1⟩ = 1)) ∧
    (∀ t k rest, l.step = 6 → l.unit = none → l.waitAt = some t → l.units = k :: rest → k < 16 → rest ≠ [] → s.dev.epochBusy k = true →
      Gives .liveEpochWaitExpiry s fun u => u.mem = s.mem ∧ u.dev.ld.units = rest ∧
        t + 3000 * s.dev.fget F.HLD_LIVE_WAIT_WAIT_US ≤ u.dev.cycle ∧ u.dev.fget ⟨R.HLD_LIVE_REFUSED, k, 1⟩ = 1 ∧
        u.dev.fget (nibble R.HLD_LIVE_ERR_LO R.HLD_LIVE_ERR_HI k) 0 = 2) ∧
    (∀ k, l.unit = some k → k < 24 →
      let ws := s.dev.unitWork k
      let p := (s.blk.on (fun d => d.toCycle (l.unitAt + passCycles ws))).runPass ⟨true, l.done, passBytes ws, true⟩ ws
      p.bad = none → p.fail = none → Gives .liveUnitApplyEnd s fun u => u.mem = p.b.mem ∧ u.dev.ld.unit = none ∧
        u.dev.fget ⟨R.HLD_LIVE_DONE, k, 1⟩ = 1)

/-- Lock, its loss and the up-hold move ports and carriers; members follow their ports (R89, R97, R252, R257). Beside
the rules, clauses rest on the model's choices of log 8 and log 41. -/
def Obligations.ports_and_carriers_rise_and_fall : Prop :=
  ∀ (s : State) (p : Fin 512) (c : Fin 64), s.dev.running = true →
    let all := 2 ^ s.dev.fget F.CAR_CFG_PHY_COUNT c
    ((s.dev.pt p).lockAt = none → Gives (.pcsLockGained .port p) s fun u => u.mem = s.mem ∧
      u.dev.fget F.PRT_STATUS_FEC_LOCK p = 1 ∧ (u.dev.pt p).lockAt = some s.dev.cycle ∧ s.dev.regsBut u.dev [(R.PRT_STATUS, p)]) ∧
    (∀ phys oh, ∀ n : Fin 512, n.val % 64 = c.val → (s.dev.car c).lockAt = none →
      let al := (s.dev.fget F.CAR_STATUS_PHY_ALIGNED c ||| phys.toNat) % all
      let locked := oh || s.dev.fon F.CAR_STATUS_OH_LOCK c
      Gives (.pcsLockGained (.carrier phys oh) n) s fun u => u.mem = s.mem ∧ u.dev.fget F.CAR_STATUS_PHY_ALIGNED c = al ∧
        u.dev.fon F.CAR_STATUS_OH_LOCK c = locked ∧ s.dev.regsBut u.dev [(R.CAR_STATUS, c)] ∧
        (u.dev.car c).lockAt = (if locked = true ∧ al = all - 1 then some s.dev.cycle else none)) ∧
    (s.dev.isEth p = false → ∀ fec cut, exec (.portDown p fec cut) s = .next s) ∧
    (s.dev.isEth p = true → s.dev.teamOf p = none → (∀ k, s.dev.memberOf p = some k → s.dev.teamPort (k / 16) ≠ p) →
      (∀ fec cut, s.dev.link p = true → Gives (.portDown p fec cut) s fun u => u.mem = s.mem ∧ u.dev.link p = false ∧
        u.dev.cycle = s.dev.cycle ∧ (fec = false → u.dev.fget F.PRT_STATUS_FEC_LOCK p = 0 ∧ (u.dev.pt p).lockAt = none) ∧
        (∀ k, s.dev.memberOf p = some k → u.dev.fget F.TEM_MBR_STATUS_RX_STATE k = 4)) ∧
      (∀ l, s.dev.link p = false → (s.dev.pt p).lockAt = some l → s.dev.fon F.PRT_MAC_CFG_ENABLE p = true →
        s.dev.forwards (p / 32) = true → Gives (.portUp p) s fun u => u.mem = s.mem ∧ u.dev.link p = true ∧
          max l (s.dev.pt p).enAt + 3000000 * s.dev.fget F.PRT_LINK_UP_HOLD_MS p ≤ u.dev.cycle)) ∧
    (∀ aligned oh cut, let al := aligned.toNat % all
      Gives (.carrierDown c aligned oh cut) s fun u => u.mem = s.mem ∧
        u.dev.fget F.CAR_STATUS_PHY_ALIGNED c = al ∧ u.dev.fget F.CAR_STATUS_OH_LOCK c = (if oh then 1 else 0) ∧
        (if oh = true ∧ al = all - 1 then
          (u.dev.car c).lockAt = some s.dev.cycle ∧ u.dev.fget F.CAR_STATUS_UP c = s.dev.fget F.CAR_STATUS_UP c
        else (u.dev.car c).lockAt = none ∧ u.dev.fget F.CAR_STATUS_UP c = 0)) ∧
    (∀ l, (s.dev.car c).lockAt = some l → s.dev.fon F.CAR_STATUS_UP c = false → s.dev.fon F.CAR_CFG_ENABLE c = true →
      s.dev.forwards (s.dev.fget F.CAR_CFG_SLICE c) = true → Gives (.carrierUp c) s fun u => u.mem = s.mem ∧
        u.dev.fget F.CAR_STATUS_UP c = 1 ∧ max l (s.dev.car c).enAt + 3000000 * s.dev.fget F.CAR_LINK_UP_HOLD_MS c ≤ u.dev.cycle)

/-- Calendar entries, and the arming, the boundary and the abandoning of a switch (R93, R94, R95, R96, R448). Beside
the rules, clauses rest on the model's choices of log 4 and log 41. -/
def Obligations.calendars_are_loaded_and_switched : Prop :=
  ∀ (s : State) (r : Req) (c : Fin 64),
    let q := reqIdx r
    let armed := s.dev.fon F.CAR_CAL_STATUS_ARMED c
    let slot := s.dev.fget F.CAR_CAL_IDX_SLOT c
    let place := s.dev.calPlace c
    let refused := s.dev.fget F.CAR_CAL_REFUSED_COUNT c
    (∀ v : BitVec 6, s.reaches r R.CAR_CAL_ENTRY .carrier c →
      (r = .loader ∨ s.dev.fon F.CAR_CAL_IDX_RX c = false ∧ s.dev.fget F.CAR_CAL_IDX_BANK c ≠ s.dev.active c ∧ armed = false →
        slot < s.dev.calLen c → Gives (.calEntryWrite r v) s fun u => u.mem = s.mem ∧ u.dev.fget F.CAR_CAL_ENTRY_ENTRY place = v.toNat ∧
          u.dev.fget F.CAR_CAL_IDX_SLOT c = (slot + 1) % 512 ∧
          s.dev.onlyRegs u.dev [(R.CAR_CAL_ENTRY, place), (R.CAR_CAL_IDX, c)]) ∧
      (r ≠ .loader → s.dev.fon F.CAR_CAL_IDX_RX c = false → s.dev.fget F.CAR_CAL_IDX_BANK c = s.dev.active c ∨ armed = true →
        refused + 1 < 2 ^ F.CAR_CAL_REFUSED_COUNT.w → Gives (.calEntryWrite r v) s fun u => u.mem = s.mem ∧
          u.dev.fget F.CAR_CAL_REFUSED_COUNT c = refused + 1 ∧ u.dev.fget F.CAR_CAL_IDX_SLOT c = (slot + 1) % 512 ∧
          s.dev.onlyRegs u.dev [(R.CAR_CAL_REFUSED, c), (R.CAR_CAL_IDX, c)])) ∧
    (s.reads r R.CAR_CAL_ENTRY .carrier c → Gives (.calEntryRead r) s fun u => u.mem = s.mem ∧ Sparse.get 0 u.dev.host.rdata q = s.dev.rget R.CAR_CAL_ENTRY place ∧
        u.dev.fget F.CAR_CAL_IDX_SLOT c = (slot + 1) % 512 ∧ s.dev.regsBut u.dev [(R.CAR_CAL_IDX, c)]) ∧
    (s.reaches r R.CAR_CAL_CTRL .carrier c →
      (armed = false → Gives (.calSwitchArm r) s fun u => u.mem = s.mem ∧ u.dev.fget F.CAR_CAL_STATUS_ARMED c = 1 ∧
        u.dev.fget F.CAR_CAL_STATUS_CR_SENT c = 1 ∧ (u.dev.car c).sw.isSome = true ∧ s.dev.regsBut u.dev [(R.CAR_CAL_STATUS, c)]) ∧
      (armed = true → refused + 1 < 2 ^ F.CAR_CAL_REFUSED_COUNT.w → Gives (.calSwitchArm r) s fun u => u.mem = s.mem ∧
        u.dev.fget F.CAR_CAL_REFUSED_COUNT c = refused + 1 ∧ s.dev.onlyRegs u.dev [(R.CAR_CAL_REFUSED, c)]) ∧
      ((s.dev.car c).rc = none → s.dev.swCycle c = some s.dev.cycle → exec (.calSwitchCancel r) s = .next s) ∧
      ((s.dev.car c).rc = none → s.dev.swCycle c ≠ some s.dev.cycle → (s.dev.car c).sw.isSome = true → Gives (.calSwitchCancel r) s fun u => u.mem = s.mem ∧
        u.dev.fget F.CAR_CAL_STATUS_ARMED c = 0 ∧ (u.dev.car c).sw = none ∧ s.dev.regsBut u.dev [(R.CAR_CAL_STATUS, c)])) ∧
    (s.reads r R.CAR_MF_NEXT_NS .carrier c → ∀ t, s.dev.mfNext c = some t → Gives (.mfNextRead r) s fun u => u.mem = s.mem ∧
      u.dev.regs = s.dev.regs ∧ Sparse.get 0 u.dev.host.rdata q = BitVec.ofNat 32 (t / ntuNs % 10 ^ 9) ∧
      u.dev.heldOf q R.CAR_MF_NEXT_SEC_LO = some (BitVec.ofNat 32 (t / ntuNs / 10 ^ 9)) ∧
      u.dev.heldOf q R.CAR_MF_NEXT_SEC_HI = some (BitVec.ofNat 32 (t / ntuNs / 10 ^ 9 / 2 ^ 32))) ∧
    (s.dev.running = true →
      (∀ sw, (s.dev.car c).sw = some sw → sw.hs = none → (s.dev.car c).rc = none → (s.dev.car c).boot.isSome = true →
        s.dev.fon F.CAR_STATUS_UP c = true → Gives (.calSwitch c) s fun u => u.mem = s.mem ∧ u.dev.active c = 1 - s.dev.active c ∧
          (u.dev.car c).sw = none ∧ u.dev.fget F.CAR_CAL_STATUS_ARMED c = 0 ∧
          s.dev.mfCycle c (s.dev.swBoundary c sw) ≤ u.dev.cycle) ∧
      (∀ sw h, (s.dev.car c).sw = some sw → sw.hs = some h → s.dev.fon F.CAR_CAL_STATUS_CA_RCVD c = false →
        (s.dev.car c).boot.isSome = true → s.dev.fon F.CAR_STATUS_UP c = true → Gives (.calSwitchAbort c) s fun u => u.mem = s.mem ∧
          u.dev.active c = s.dev.active c ∧ (u.dev.car c).sw = none ∧ u.dev.fget F.CAR_CAL_STATUS_ABORTED c = 1 ∧
          s.dev.mfCycle c (s.dev.swFirst c sw + h) ≤ u.dev.cycle) ∧
      (∀ on, Gives (.caReceived c on) s fun u => u.mem = s.mem ∧ u.dev.fget F.CAR_CAL_STATUS_CA_RCVD c = (if on then 1 else 0) ∧
        s.dev.onlyRegs u.dev [(R.CAR_CAL_STATUS, c)]) ∧
      (∀ ccc nums, let z := s.dev.fset F.CAR_CAL_STATUS_RX_CCC c (if ccc then 1 else 0)
        let got := nums.map (fun n => n.toNat)
        Gives (.rxCalendarChange c ccc nums) s fun u => u.mem = s.mem ∧ u.dev.fget F.CAR_CAL_STATUS_RX_CCC c = (if ccc then 1 else 0) ∧
        (∀ k, k < min nums.length (z.calLen c) → got.getD k 0 ≠ z.rxCal c k →
          u.dev.fget F.CAR_CAL_STATUS_CAL_MISMATCH c = 1) ∧ (u.dev.car c).bad = z.rxBad c got ∧
        (∀ old t, (s.dev.car c).rx = some (old, t) → old ≠ ccc → u.dev.fget F.CAR_RC_STATUS_RX_DONE c = 1 ∧ (u.dev.car c).rx = none)))

/-- A HOLD input stops its followers, lets them go, and reports when it is stuck or chatters (R98, R99, R100, R101).
Beside the rules, clauses rest on the model's choices of log 83 and log 128. -/
def Obligations.hold_inputs_stop_and_release : Prop :=
  ∀ (s : State) (n : Fin 32), s.dev.running = true →
    let pin (d : Dev) : Bool := bit (d.rget R.CAR_HOLD_PIN).toNat n
    let masked := bit (s.dev.rget R.CAR_HOLD_MASK).toNat n
    (pin s.dev = false → Gives (.holdAssert n) s fun u => u.mem = s.mem ∧ pin u.dev = true ∧
      u.dev.cycle = s.dev.cycle + s.dev.cycle % 2 ∧ (at0 u.dev.holdIns n).on = true ∧
      (masked = false → ∀ k ∈ s.dev.followers n, u.dev.heldKey k = true)) ∧
    (pin s.dev = true → Gives (.holdRelease n) s fun u => u.mem = s.mem ∧ pin u.dev = false ∧
      u.dev.cycle = s.dev.cycle + s.dev.cycle % 2 ∧ (at0 u.dev.holdIns n).on = false ∧
      (masked = false → ∀ k ∈ s.dev.followers n, k < 512 ∨ s.dev.fget F.CAR_HOLD_CFG_RESUME_NS (k - 512) = 0 →
        u.dev.heldKey k = false)) ∧
    (∀ (c : Fin 64) t, (s.dev.car c).hold.resume = some t → Gives (.holdResume c) s fun u => u.mem = s.mem ∧
      u.dev.heldKey (512 + c.val) = false ∧ t ≤ u.dev.cycle) ∧
    (let h := at0 s.dev.holdIns n
     (h.on = true → h.stuck = false → Gives (.holdStuck n) s fun u => u.mem = s.mem ∧
        bit (u.dev.rget R.CAR_HOLD_STUCK).toNat n = true ∧ (at0 u.dev.holdIns n).stuck = true ∧
        bit (u.dev.rget R.ERR_ALARM).toNat 3 = true ∧
        h.since + 3000000 * s.dev.fget F.CAR_HOLD_LIMITS_STUCK_MS ≤ u.dev.cycle) ∧
     (h.chat = false → s.dev.fget F.CAR_HOLD_LIMITS_CHATTER_MAX < h.n → Gives (.holdChatter n) s fun u => u.mem = s.mem ∧
        bit (u.dev.rget R.CAR_HOLD_CHATTER).toNat n = true ∧ (at0 u.dev.holdIns n).chat = true ∧
        bit (u.dev.rget R.ERR_ALARM).toNat 4 = true)) ∧
    (∀ r mask, s.reaches r R.CAR_HOLD_MASK .dev 0 → Gives (.holdMaskWrite r mask) s fun u => u.mem = s.mem ∧
      u.dev.rget R.CAR_HOLD_MASK = mask ∧ u.dev.rget R.CAR_HOLD_PIN = s.dev.rget R.CAR_HOLD_PIN ∧
      (pin s.dev = true → masked = false → bit mask.toNat n = true → ∀ k ∈ s.dev.followers n, k < 512 → u.dev.heldKey k = false))

/-- A rate change is armed, ramped, takes effect or is cancelled, and its pulse and check follow (R271, R272, R275,
R277, R278, R280, R281, R282). Beside the rules, clauses rest on the model's choices of log 8, log 74 and log 123. -/
def Obligations.coordinated_rate_changes : Prop :=
  ∀ (s : State) (r : Req) (c : Fin 64),
    let refused := s.dev.fget F.CAR_CAL_REFUSED_COUNT c
    (s.reaches r R.CAR_RC_CTRL .carrier c →
      (s.dev.rcRefusal c ≠ 0 → refused + 1 < 2 ^ F.CAR_CAL_REFUSED_COUNT.w → Gives (.rcArm r) s fun u => u.mem = s.mem ∧
        u.dev.fget F.CAR_RC_STATUS_ERR c = s.dev.rcRefusal c ∧ u.dev.fget F.CAR_CAL_REFUSED_COUNT c = refused + 1 ∧
        s.dev.onlyRegs u.dev [(R.CAR_RC_STATUS, c), (R.CAR_CAL_REFUSED, c)]) ∧
      (s.dev.rcRefusal c = 0 → (s.dev.car c).boot.isSome = true → Gives (.rcArm r) s fun u => u.mem = s.mem ∧
        u.dev.fget F.CAR_RC_STATUS_ERR c = 0 ∧ u.dev.fget F.CAR_RC_STATUS_ARMED c = 1 ∧ (u.dev.car c).rc.isSome = true ∧
        u.dev.fget F.CAR_CAL_STATUS_ARMED c = (if s.dev.fon F.CAR_RC_CTRL_CAL_SW c then 1 else s.dev.fget F.CAR_CAL_STATUS_ARMED c) ∧
        (s.dev.fon F.CAR_RC_CTRL_IMMEDIATE c = true → (u.dev.car c).plan = some (s.dev.mfAfter c s.dev.cycle))) ∧
      (∀ rc, (s.dev.car c).rc = some rc → s.dev.rcCycle c rc = some s.dev.cycle → exec (.rcCancel r) s = .next s) ∧
      (∀ rc, (s.dev.car c).rc = some rc → s.dev.rcCycle c rc ≠ some s.dev.cycle → Gives (.rcCancel r) s fun u => u.mem = s.mem ∧ (u.dev.car c).rc = none ∧
        u.dev.fget F.CAR_RC_STATUS_ARMED c = 0 ∧ u.dev.fget F.CAR_RC_STATUS_CANCELLED c = 1)) ∧
    (s.dev.running = true →
      (∀ rc, (s.dev.car c).rc = some rc →
        (rc.calSw = false → Gives (.rateChange c) s fun u => u.mem = s.mem ∧ s.dev.rcPlan c rc ≤ u.dev.cycle ∧
          (u.dev.car c).rc = none ∧ u.dev.fget F.CAR_RC_STATUS_ARMED c = 0 ∧ u.dev.fget F.CAR_RC_STATUS_DONE c = 1) ∧
        (rc.calSw = true → s.dev.fon F.CAR_STATUS_UP c = false → Gives (.rateChange c) s fun u => u.mem = s.mem ∧
          s.dev.rcPlan c rc ≤ u.dev.cycle ∧ (u.dev.car c).rc = some rc ∧ u.dev.fget F.CAR_RC_STATUS_DEFERRED c = 1 ∧
          s.dev.regsBut u.dev [(R.CAR_RC_STATUS, c)]) ∧
        (∀ (q : Fin 65536) y, rc.ports.find? (fun y => (s.dev.leaves y.1).contains q.val) = some y →
          Gives (.rampStart c q) s fun u => u.mem = s.mem ∧ s.dev.rcPlan c rc - s.dev.rampLead c q ≤ u.dev.cycle ∧
            (u.dev.car c).rc = some rc)) ∧
      (∀ t, (s.dev.car c).trig = some t → s.dev.fget F.CAR_RC_CFG_TRIG_SEL c < 16 → Gives (.rcTrigStart c) s fun u => u.mem = s.mem ∧
        u.dev.regs = s.dev.regs ∧ t ≤ u.dev.cycle ∧ (u.dev.car c).trig = none ∧ (u.dev.car c).pulse =
          some (s.dev.fget F.CAR_RC_CFG_TRIG_SEL c, u.dev.cycle + 3 * s.dev.fget F.CAR_RC_CFG_TRIG_WIDTH_NS c)) ∧
      (∀ o e, (s.dev.car c).pulse = some (o, e) → Gives (.rcTrigEnd c) s fun u => u.mem = s.mem ∧ u.dev.regs = s.dev.regs ∧
        e ≤ u.dev.cycle ∧ (u.dev.car c).pulse = none) ∧
      (∀ old t, (s.dev.car c).rx = some (old, some t) → Gives (.rxCheckLate c) s fun u => u.mem = s.mem ∧ t ≤ u.dev.cycle ∧
        (u.dev.car c).rx = none ∧ u.dev.fget F.CAR_RC_STATUS_RX_LATE c = 1))

/-- A received frame is dropped with its one count, or joins the receive buffer (R22, R86, R87, R88, R96, R197, R305).
Beside the rules, clauses rest on the model's choices of log 89 and log 93. -/
def Obligations.frames_received : Prop :=
  ∀ (s : State) (p : Fin 512) (bytes : List Byte), s.dev.running = true →
    let n := bytes.length
    let sl := p.val / 32
    let body := bytes.take (n - 4)
    let good := crc32 body = leNat (bytes.drop (n - 4))
    let most := s.dev.maxFrameAt p (s.dev.firstByte p n)
    let stat (d : Dev) (c : Nat) : Nat := Sparse.get 0 d.tm.stats (p.val * 40 + c)
    let stats (u : State) : Prop := u.mem = s.mem ∧
      (∀ k, ¬ (p.val * 40 ≤ k ∧ k < p.val * 40 + 20) → Sparse.get 0 u.dev.tm.stats k = Sparse.get 0 s.dev.tm.stats k) ∧
      (s.dev.forwards sl = true → stat u.dev 1 = (stat s.dev 1 + n) % 2 ^ 64 ∧ stat u.dev 2 = (stat s.dev 2 + 1) % 2 ^ 64)
    let drops (f : Fld) : Prop := s.dev.canCount f p → Gives (.frameReceive p bytes) s fun u => stats u ∧
      s.dev.counted { u.dev with tm.stats := s.dev.tm.stats } f p
    let fits := s.dev.rxHeld sl (fun q => q == p.val) + n ≤ s.dev.fget F.PRT_RX_CAP_KIB p * 1024 ∧
      s.dev.rxHeld sl (fun _ => true) + n ≤ 114688
    (s.dev.link p = false ∨ s.dev.slotsLost p = true → exec (.frameReceive p bytes) s = .next s) ∧
    (s.dev.link p = true → s.dev.slotsLost p = false →
      (s.dev.forwards sl = false → drops F.PRT_RX_RECOVERY_DROP_COUNT) ∧
      (s.dev.forwards sl = true →
        (n < 64 → drops F.PRT_RX_RUNT_COUNT) ∧
        (64 ≤ n → most < n → drops F.PRT_RX_OVERSIZE_COUNT) ∧
        (64 ≤ n → n ≤ most → ¬ good → drops F.CKU_RX_FCS_ERR_COUNT) ∧
        (64 ≤ n → n ≤ most → good → f16 body 12 = 0x8808 → drops F.PRT_RX_MACCTRL_COUNT) ∧
        (64 ≤ n → n ≤ most → good → f16 body 12 ≠ 0x8808 →
          (fits → Gives (.frameReceive p bytes) s fun u => stats u ∧ u.dev.regs = s.dev.regs ∧
            (∃ k, (u.dev.sl sl).rx = (s.dev.sl sl).rx ++ [k] ∧ k.data = body ∧ k.port = p.val ∧ k.slice = sl ∧ k.kind = 0 ∧ k.pass = 1) ∧
            (∀ m, m ≠ sl → u.dev.sl m = s.dev.sl m)) ∧
          (¬ fits → s.dev.canCount F.PRT_RX_OVERRUN_COUNT p → Gives (.frameReceive p bytes) s fun u => stats u ∧
            u.dev.slices = s.dev.slices ∧ u.dev.fget F.PRT_RX_OVERRUN_COUNT p = s.dev.fget F.PRT_RX_OVERRUN_COUNT p + 1))))

/-- A start takes a waiting packet; lanes that resolve leave and their packets go on to a queue (R20, R34, R113, R117,
R154, R156, R165, R178, R192, R360). Beside the rules, clauses rest on the model's choices of log 19 and log 112. -/
def Obligations.packets_through_the_ingress_pipeline : Prop :=
  ∀ (s : State) (slice : Fin 16), s.dev.running = true →
    let x := s.dev.sl slice
    let idle := x.recirc = [] ∧ at0 s.dev.drvInj slice = [] ∧ x.last = none ∧ x.rel = []
    (∀ j : Inject, idle → s.dev.lineReady slice = [] → at0 s.dev.hostInj slice = [j] → j.kind = 2 →
      let q := s.dev.leafOf j.port j.cls j.group
      s.dev.admitTest j.port q slice j.data.length false = 0 → Gives (.ingressPacketStart slice) s fun u => u.mem = s.mem ∧
        u.dev.cycle = s.dev.cycle ∧ at0 u.dev.hostInj slice = [] ∧ (u.dev.sl slice).last = some s.dev.cycle ∧
        s.dev.gains u.dev q j.data j.port slice) ∧
    (∀ k : Pkt, idle → at0 s.dev.hostInj slice = [] → x.rx = [k] → k.port / 32 = slice.val → s.dev.memberOf k.port = none →
      k.kind = 0 → k.pass = 1 → k.epoch = none → k.frees = [] →
      let r := parse (s.dev.pcfg slice 1 false) k.data
      r.result ≠ 0 → r.reason ≤ 16 → s.dev.fget F.GLB_STATE_DEV = stService →
      s.dev.fget (if r.result = 1 then F.SLC_FAIL_ACT_MAL_ACT else F.SLC_FAIL_ACT_PL_ACT) slice = 0 →
      s.dev.canCount F.SLC_FAIL_DROP_COUNT slice → Gives (.ingressPacketStart slice) s fun u => u.mem = s.mem ∧
        (u.dev.sl slice).rx = [] ∧ u.dev.tm = s.dev.tm ∧ u.dev.stb = s.dev.stb ∧
        u.dev.fget F.SLC_FAIL_DROP_COUNT slice = s.dev.fget F.SLC_FAIL_DROP_COUNT slice + 1) ∧
    let lanes (l : List Lane) : List Lane := l.map (fun y => { y with got := 0 })
    (∀ (n : Nat) (l : Lane) (i r : Nat), x.flow[n]? = some l → l.needs.length ≤ l.got → s.dev.flow.ops = [] → s.dev.integ.badWords = [] →
      let key := s.dev.fkey l.key l.prof
      let home := s.dev.homeSlot key
      s.dev.cached home = some (i, r) → rcMatch r key = true →
      (∀ k, l.pkts = [] → l.ghost = some k → Gives (.missLaneResolve slice n) s fun u => u.mem = s.mem ∧
        lanes (u.dev.sl slice).flow = lanes (x.flow.eraseIdx n) ∧ u.dev.cached home = some (i, r)) ∧
      (∀ k, l.pkts = [k] → k.slice = slice.val → k.pass ≠ 1 → k.l2only = false → k.epoch = none → k.frees = [] →
        s.dev.rmacHit (daOf k.data) = false →
        let vlan := s.blk.outerVlan k
        s.dev.l2At slice (daOf k.data) vlan = none → s.blk.vlanFlood vlan = false → s.dev.canCount F.FWD_L2_DA_MISS_COUNT slice →
        Gives (.missLaneResolve slice n) s fun u => u.mem = s.mem ∧ lanes (u.dev.sl slice).flow = lanes (x.flow.eraseIdx n) ∧
          u.dev.fget F.FWD_L2_DA_MISS_COUNT slice = s.dev.fget F.FWD_L2_DA_MISS_COUNT slice + 1 ∧
          ∃ r', u.dev.cached home = some (i, r') ∧ rcState r' = 1 ∧ bits r' 192 48 = (bits r 192 48 + 1) % 2 ^ 48)) ∧
    (∀ (n : Nat) (l : LeafLane) (w : LeafWait) (p : Fin 512), x.leaf[n]? = some l → l.pkts = [w] →
      w.lpm = none → w.label = none → w.popped = false → w.dest = mkDest 0 p → w.pkt.nat = none → w.pkt.pol = none →
      w.pkt.l2only = false → w.pkt.mirEn = false → bit (s.blk.portCfg w.pkt.port 3) 0 = false →
      let c := s.blk.leafClass w.pkt none
      let q := s.dev.leafOf p c.1 c.2
      s.dev.admitTest p q w.pkt.slice w.pkt.data.length false = 0 → Gives (.leafLaneDone slice n true) s fun u => u.mem = s.mem ∧
        (u.dev.sl slice).leaf = x.leaf.eraseIdx n ∧ s.dev.gains u.dev q w.pkt.data p w.pkt.slice)

/-- A row write ends, a store head is fetched, a port takes its queue head, a frame is wholly read (R19, R202, R203,
R208, R213, R241, R306). Beside the rules, clauses rest on the model's choices of log 8, log 87, log 111 and log 156.
-/
def Obligations.writes_fetches_and_frames_of_the_fabric : Prop :=
  ∀ (s : State), s.dev.running = true →
    (∀ (slice : Fin 16) (e : Nat), e ∈ s.dev.rowEnds slice → (∀ y ∈ s.dev.rowEnds slice, e ≤ y) →
      Gives (.rowWriteEnd slice) s fun u => u.mem = s.mem ∧ u.dev.regs = s.dev.regs ∧ (e + 399) / 400 ≤ u.dev.cycle ∧
        ∀ q, (u.dev.lq q).pkts = (s.dev.lq q).pkts.map (fun x =>
          if x.row = slice.val ∧ x.wrEnd = e ∧ x.mc = none then { x with written := true } else x)) ∧
    (∀ (q : Fin 65536) (x : QPkt), (s.dev.lq q).pkts.find? (fun y => y.dram) = some x → x.fetched = false → x.written = true →
      (Gives (.storeFetchDone q true) s fun u => u.mem = s.mem ∧ u.dev.regs = s.dev.regs ∧
        (u.dev.lq q).pkts = (s.dev.lq q).pkts.map (fun y => if y.id = x.id then { y with fetched := true, fetchAt := s.dev.cycle } else y)) ∧
      (Gives (.storeFetchDone q false) s fun u => u.mem = s.mem ∧
        (u.dev.lq q).pkts = (s.dev.lq q).pkts.filter (fun y => y.id != x.id))) ∧
    (∀ (slice : Fin 16) (p q : Nat) (x : QPkt) (e : Dev),
      let z : Dev := match (s.dev.sl slice).lastTx with | some c => s.dev.toCycle (c + 1) | none => s.dev
      let d : Dev := z.updSl slice (fun y => { y with lastTx := some z.cycle })
      p ∈ z.busyPorts slice → z.canStart p = true → (∀ o ∈ z.busyPorts slice, z.canStart o = true → o = p) → z.teamOf p = none →
      tmSelect p d = (some (q, x), e) → x.port = p → x.queue = q → z.macStart p ≤ x.adm + x.bound →
      s.dev.fon F.NTU_PORT_CFG_ONE_STEP_EN p = false → s.dev.fon F.NTU_PORT_CFG_TC_EN p = false →
      Gives (.egressFrameStart slice) s fun u => u.mem = s.mem ∧ u.dev.cycle = z.cycle ∧ (u.dev.sl slice).lastTx = some z.cycle ∧
        (u.dev.lq q).pkts = (s.dev.lq q).pkts.filter (fun y => y.id != x.id) ∧
        (∃ t ∈ (u.dev.pt p).tx, t.pkt.data = x.data ∧ t.pkt.id = x.id ∧ t.start = z.macStart p ∧ t.isRead = false ∧ t.begun = false) ∧
        ((s.dev.pt p).tx = [] → ∃ t, (((u.dev.toCycle (z.macStart p + 1)).begins p).pt p).tx = [t] ∧ t.begun = true ∧
          t.bytes = x.data ++ toLe 4 (crc32 x.data))) ∧
    (∀ (p : Fin 512) (t : Tx), (s.dev.pt p).tx.find? (fun y => !y.isRead && !y.probe && !s.dev.keptTx p y) = some t →
      let same (u : State) : Prop := u.mem = s.mem ∧ t.stop - 84 ≤ u.dev.cycle ∧ ∀ q, (u.dev.lq q).pkts = (s.dev.lq q).pkts
      let marks (l : List Tx) : List (Nat × Nat × Bool) := l.map (fun y => (y.pkt.id, y.start, y.isRead))
      (Gives (.frameReadEnd p false) s fun u => same u ∧ marks (u.dev.pt p).tx = marks ((s.dev.pt p).tx.map (fun y =>
        if y.start = t.start ∧ y.probe = false then { y with isRead := true } else y))) ∧
      (Gives (.frameReadEnd p true) s fun u => same u ∧ ∀ y ∈ (u.dev.pt p).tx, y.probe = true ∨ y.start ≠ t.start))

/-- The replicator asks one port a cycle; residue is retried every 256 cycles and expires (R216, R217, R218, R234).
Beside the rules, clauses rest on the model's choices of log 8 and log 29. -/
def Obligations.multicast_copies_and_residue : Prop :=
  ∀ (s : State) (slice : Fin 16), s.dev.running = true → let x := s.dev.sl slice
    (∀ (m : McPkt) (p : Nat) (r : List Nat), s.dev.mcNext slice = some m → m.todo = p :: r →
      let q := s.dev.leafOf p m.cls m.group
      let d := s.dev.elapse 1
      ((m.taken = true ∨ (s.dev.residues slice).length < 1024) → Gives (.replicate slice) s fun u => u.mem = s.mem ∧
        u.dev.cycle = s.dev.cycle + 1 ∧ (∀ y ∈ u.dev.tm.mcs, y.id = m.id → y.col = slice.val → y.todo = r ∧ y.taken = true) ∧
        (s.dev.mcBlocked m p = false → d.admitTest p q m.row m.src.data.length true = 0 →
          s.dev.gains u.dev q m.src.data p m.row)) ∧
      (m.taken = false → 1024 ≤ (s.dev.residues slice).length →
        exec (.replicate slice) s = .next { s with dev := d } ∧
        (∀ c, x.resFull = some c → c ≤ s.dev.cycle →
          let n := d.cycle - c
          s.dev.fget F.XPF_RES_STALL_COUNT slice + n < 2 ^ F.XPF_RES_STALL_COUNT.w →
          (d.settleStall slice).fget F.XPF_RES_STALL_COUNT slice = s.dev.fget F.XPF_RES_STALL_COUNT slice + n))) ∧
    (s.dev.residues slice = [] → exec (.residueRetry slice) s = .next s) ∧
    (s.dev.residues slice ≠ [] → let c := max x.retryAt s.dev.cycle
      Gives (.residueRetry slice) s fun u => u.mem = s.mem ∧ c ≤ u.dev.cycle ∧ (u.dev.sl slice).retryAt = c + 256 ∧
      ∀ (m : McPkt) (p : Nat), s.dev.tm.mcs = [m] → m.col = slice.val → m.residue = [p] →
        let q := s.dev.leafOf p m.cls m.group
        (s.dev.toCycle c).admitTest p q m.row m.src.data.length true = 0 → u.dev.cycle = c + 1 ∧
          s.dev.gains { u.dev with cycle := c } q m.src.data p m.row ∧ ∀ y ∈ u.dev.tm.mcs, y.residue = []) ∧
    (∀ (m : McPkt) (p : Fin 512), s.dev.tm.mcs = [m] → m.col = slice.val → m.todo ++ m.residue = [p.val] → m.src.frees = [] →
      let wait := cyclesOfNs (s.dev.fget F.XPF_MC_CFG_RESIDUE_WAIT_US slice * 1000)
      let f := F.XPF_MC_RES_DROP_COUNT.nth (p.val % 32)
      wait ≠ 0 → m.residue = [] ∨ max s.dev.cycle (m.acc + wait) < x.retryAt → s.dev.canCount f (p.val / 32) → Gives (.residueExpiry slice) s fun u => u.mem = s.mem ∧
        u.dev.tm.leaves = s.dev.tm.leaves ∧ m.acc + wait ≤ u.dev.cycle ∧
        u.dev.fget f (p.val / 32) = s.dev.fget f (p.val / 32) + 1 ∧ ∀ y ∈ u.dev.tm.mcs, y.todo = [] ∧ y.residue = [])

/-- The staged bank is loaded, sealed, unsealed; a swap is armed, cancelled, made; the old bank drains (R130, R132,
R133, R134, R136). -/
def Obligations.classifier_banks_and_swaps : Prop :=
  ∀ (s : State) (r : Req) (i : Nat), i < 16 →
    let d := s.dev
    let k := d.stagedBank i
    let a := d.activeBank i
    let armed := d.fon F.CLS_SWAP_STATUS_ARMED i
    let st := d.bankSt i k
    let draining := d.fget F.CLS_EPOCH_DRAINING i
    let refuses (c : Instr) : Prop := d.canCount F.CLS_REFUSED_COUNT i → Gives c s fun u =>
      u.mem = s.mem ∧ d.counted u.dev F.CLS_REFUSED_COUNT i
    let becomes (c : Instr) (b v : Nat) : Prop := Gives c s fun u => u.mem = s.mem ∧ u.dev.bankSt i b = v ∧
      d.onlyRegs u.dev [(R.CLS_STATE, i)]
    (∀ (word : BitVec 18) (val : Word), d.noPass = true → d.reachable (0x3000000 + 4 * word.toNat) = true →
      d.sliceSel (reqIdx r) R.SLICE_SEL_SLC = i →
      (st = bkSealed ∨ st = bkActive ∨ st = bkDraining → refuses (.stagedBankWrite r word val)) ∧
      (st = bkEmpty ∨ st = bkLoading ∨ st = bkIdle → 4 * word.toNat + 4 ≤ d.bankSize i k →
        Gives (.stagedBankWrite r word val) s fun u => u.dev.bankSt i k = bkLoading ∧
          (∀ n, n < 4 → Sparse.get 0 u.mem.cls (d.bankAt i k + 4 * word.toNat + n) = (toLe 4 val.toNat).getD n 0) ∧
          ∀ x, x < d.bankAt i k + 4 * word.toNat ∨ d.bankAt i k + 4 * word.toNat + 4 ≤ x →
            Sparse.get 0 u.mem.cls x = Sparse.get 0 s.mem.cls x)) ∧
    (s.reaches r R.CLS_STAGE_CTRL .slice i →
      (st = bkEmpty ∨ st = bkLoading ∨ st = bkIdle → becomes (.clsSeal r) k bkSealed) ∧
      (st = bkSealed ∨ st = bkActive ∨ st = bkDraining → refuses (.clsSeal r)) ∧
      (st = bkSealed → armed = false → becomes (.clsUnseal r) k bkLoading) ∧
      (st ≠ bkSealed ∨ armed = true → refuses (.clsUnseal r))) ∧
    (s.reaches r R.CLS_SWAP_CTRL .slice i →
      (st = bkSealed → d.bankSt i a = bkActive → armed = false → Gives (.clsSwapArm r) s fun u => u.mem = s.mem ∧
        u.dev.fget F.CLS_SWAP_STATUS_ARMED i = 1 ∧ (u.dev.sl i).swapAt.isSome = true ∧ d.regsBut u.dev [(R.CLS_SWAP_STATUS, i)] ∧
        (d.fon F.CLS_SWAP_CTRL_IMMEDIATE i = true → (u.dev.sl i).swapAt = some (d.cycle + 1))) ∧
      (st ≠ bkSealed ∨ d.bankSt i a ≠ bkActive ∨ armed = true → refuses (.clsSwapArm r)) ∧
      (∀ t, (d.sl i).swapAt = some t → t ≤ d.cycle → exec (.clsSwapCancel r) s = .next s) ∧
      ((∀ t, (d.sl i).swapAt = some t → d.cycle < t) → Gives (.clsSwapCancel r) s fun u => u.mem = s.mem ∧ u.dev.fget F.CLS_SWAP_STATUS_ARMED i = 0 ∧
        (u.dev.sl i).swapAt = none ∧ d.regsBut u.dev [(R.CLS_SWAP_STATUS, i)])) ∧
    (∀ c : Fin 16, c.val = i → d.running = true →
      (∀ t, (d.sl i).swapAt = some t → Gives (.clsSwap c) s fun u => u.mem = s.mem ∧ t ≤ u.dev.cycle ∧
        u.dev.activeBank i = 1 - a ∧ u.dev.bankSt i a = bkDraining ∧ u.dev.bankSt i (1 - a) = bkActive ∧
        u.dev.fget F.CLS_EPOCH_DRAINING i = d.fget F.CLS_EPOCH_ACTIVE i ∧ u.dev.fget F.CLS_SWAP_STATUS_ARMED i = 0 ∧
        u.dev.fget F.CLS_EPOCH_ACTIVE i =
          (if d.fget F.CLS_EPOCH_ACTIVE i = 65535 then 2 else d.fget F.CLS_EPOCH_ACTIVE i + 1)) ∧
      (draining ≠ 0 → d.inflight i draining = 0 → d.bankSt i (1 - a) = bkDraining → Gives (.epochDrained c) s fun u =>
        u.mem = s.mem ∧ u.dev.bankSt i (1 - a) = bkIdle ∧ u.dev.fget F.CLS_EPOCH_DRAINING i = 0 ∧
        d.onlyRegs u.dev [(R.CLS_STATE, i), (R.CLS_EPOCH, i)]) ∧
      (d.inflight i draining ≠ 0 → exec (.epochDrained c) s = .next s)) ∧
    (s.reaches r R.CLS_CTRL .slice i → draining ≠ 0 → d.bankSt i (1 - a) = bkDraining → Gives (.clsRelease r) s fun u =>
      u.mem = s.mem ∧ u.dev.fget F.CLS_EPOCH_REL_RELEASED i = draining ∧ u.dev.bankSt i (1 - a) = bkIdle ∧
      u.dev.fget F.CLS_EPOCH_DRAINING i = 0)

/-- Update groups queue and commit to the active bank; counters are cleared and read whole (R137, R138, R139, R141,
R142). -/
def Obligations.classifier_updates_and_counters : Prop :=
  ∀ (s : State) (r : Req) (i : Nat), i < 16 →
    let d := s.dev
    let q := reqIdx r
    let word := d.fget F.CLS_UPD_ADDR_WORD q
    let n := d.fget F.CLS_UPD_ADDR_WORDS q
    let fits := (word + n) * 8 ≤ d.bankSize i (d.activeBank i)
    let full := d.fon F.CLS_UPD_STATUS_BUSY q = true ∨ 8 ≤ (d.sl i).upd.length
    (s.reaches r R.CLS_UPD_CTRL .slice i →
      (¬ full → fits → Gives (.clsUpdateGo r) s fun u => u.mem = s.mem ∧ u.dev.fget F.CLS_UPD_STATUS_BUSY q = 1 ∧
        u.dev.fget F.CLS_UPD_STATUS_ERR q = 0 ∧ d.regsBut u.dev [(R.CLS_UPD_STATUS, q)] ∧
        ∃ g, (u.dev.sl i).upd = (d.sl i).upd ++ [g] ∧ g.who = q ∧ g.word = word ∧ g.data.length = 8 * n) ∧
      (full ∨ ¬ fits → d.canCount F.CLS_REFUSED_COUNT i → Gives (.clsUpdateGo r) s fun u => u.mem = s.mem ∧
        u.dev.fget F.CLS_REFUSED_COUNT i = d.fget F.CLS_REFUSED_COUNT i + 1 ∧
        d.onlyRegs u.dev [(R.CLS_REFUSED, i), (R.CLS_UPD_STATUS, q)] ∧
        (full → u.dev.fget F.CLS_UPD_STATUS_ERR q = 2) ∧ (¬ full → u.dev.fget F.CLS_UPD_STATUS_ERR q = 3))) ∧
    (∀ (c : Fin 16) g rest, c.val = i → d.running = true → (d.sl i).upd = g :: rest → g.who < 324 →
      (∀ w, w < g.data.length / 8 → s.mem.scrubFind 0x15 (d.clsWord i (d.activeBank i) g.word + w) = none) → Gives (.clsGroupCommit c) s fun u => (u.dev.sl i).upd = rest ∧
        s.storedAt u .cls (d.bankAt i (d.activeBank i) + g.word * 8) g.data ∧
        u.dev.fget F.CLS_UPD_STATUS_BUSY g.who = 0 ∧ u.dev.fget F.CLS_UPD_STATUS_DONE g.who = 1 ∧
        u.dev.fget F.CLS_COMMIT_SEQ g.who = d.fget F.CLS_PKT_SEQ_SEQ i) ∧
    (s.reaches r R.CLS_CTRL .slice i → Gives (.clsCounterClear r) s fun u => u.dev = d ∧
      (∀ m b, m < 4096 → b < 16 → Sparse.get 0 u.mem.cls (cntAt i m + b) = 0) ∧
      s.memBut u .cls (cntAt i 0) (cntAt i 4096)) ∧
    (∀ m : Fin 4096, let off := 0x3200000 + 16 * m.val
      d.noPass = true → d.readable off = true → d.sliceSel q R.SLICE_SEL_SLC = i → d.heldOf q off = none →
      d.wordBad 0x20 (clsCounterWord i (2 * m.val)) = false → d.wordBad 0x20 (clsCounterWord i (2 * m.val + 1)) = false → Gives (.clsCounterRead r m) s fun u => u.mem = s.mem ∧ u.dev.regs = d.regs ∧
        Sparse.get 0 u.dev.host.rdata q = BitVec.ofNat 32 (s.mem.num .cls (cntAt i m) 4) ∧
        ∀ w, 1 ≤ w → w ≤ 3 → u.dev.heldOf q (off + 4 * w) = some (BitVec.ofNat 32 (s.mem.num .cls (cntAt i m + 4 * w) 4)))

/-- Software operations find, insert, change and free flow records; the scanners age them (R157, R161, R171, R172).
Beside the rules, clauses rest on the model's choices of log 19. -/
def Obligations.flow_table_operations_and_aging : Prop :=
  ∀ (s : State) (r : Req),
    let d := s.dev
    let q := reqIdx r
    let key := d.opFKey q
    let home := d.homeSlot key
    let ctl := d.rget R.FLW_OP_CTRL q
    let ends (u : State) (err : Nat) : Prop := u.mem = s.mem ∧ u.dev.flow.ops = [] ∧ u.dev.fget F.FLW_OP_STATUS_DONE q = 1 ∧
      u.dev.fget F.FLW_OP_STATUS_BUSY q = 0 ∧ u.dev.fget F.FLW_OP_STATUS_ERR q = err
    let answers (u : State) (slot x : Nat) : Prop := u.dev.fget F.FLW_OP_RSLOT_SLOT q = slot % 2 ^ 26 ∧
      ∀ n, n < 16 → u.dev.rget (R.FLW_OP_DATA + 4 * n) q = BitVec.ofNat 32 (bits x (32 * n) 32)
    let busy := d.fon F.FLW_OP_STATUS_BUSY q
    let paid : Prop := (acctUnit : Int) ≤ d.flow.devRd.now (1024 * acctUnit) (d.fget F.FLW_DEV_BUDGET_RATE) d.cycle
    let ready : Prop := d.locked (d.buckets key).1 = false ∧ d.locked (d.buckets key).2 = false ∧ paid
    (s.reaches r R.FLW_OP_CTRL .req q → d.flow.ops = [] → d.integ.badWords = [] →
      (∀ m l, m < 16 → l ∈ (d.sl m).flow → l.needs.length ≤ l.got) →
      (busy = true → d.canCount F.FLW_OP_REFUSED_COUNT q →
        ∀ c ∈ [Instr.flwOpLookup r, Instr.flwOpInsert r, Instr.flwOpUpdate r, Instr.flwOpDelete r, Instr.flwOpReadSlot r],
          Gives c s fun u => u.mem = s.mem ∧ d.counted u.dev F.FLW_OP_REFUSED_COUNT q) ∧
      (busy = false → ¬ ready → ∀ c ∈ [Instr.flwOpLookup r, Instr.flwOpInsert r, Instr.flwOpUpdate r, Instr.flwOpDelete r],
        Gives c s fun u => u.mem = s.mem ∧ u.dev.fget F.FLW_OP_STATUS_BUSY q = 1 ∧ u.dev.flow.cache = d.flow.cache ∧
          ∃ o, u.dev.flow.ops = [o] ∧ o.who = q ∧ o.needs = lockOrder (d.buckets key)) ∧
      (busy = false → ready →
        (∀ i x, d.cached home = some (i, x) → rcMatch x key = true →
          (Gives (.flwOpLookup r) s fun u => ends u 0 ∧ answers u home x ∧ u.dev.cached home = some (i, x)) ∧
          (Gives (.flwOpInsert r) s fun u => ends u 2 ∧ answers u home x ∧ u.dev.cached home = some (i, x)) ∧
          (opCheck ctl x = true →
            (Gives (.flwOpUpdate r) s fun u => ends u 0 ∧ u.dev.fget F.FLW_OP_RSLOT_SLOT q = home % 2 ^ 26 ∧
              ∃ y, u.dev.cached home = some (i, y) ∧ rcVer y = (rcVer x + 1) % 16) ∧
            (Gives (.flwOpDelete r) s fun u => ends u 0 ∧ u.dev.fget F.FLW_OP_RSLOT_SLOT q = home % 2 ^ 26 ∧
              ∃ y, u.dev.cached home = some (i, y) ∧ rcState y = 0)) ∧
          (opCheck ctl x = false →
            (Gives (.flwOpUpdate r) s fun u => ends u 3 ∧ u.dev.cached home = some (i, x)) ∧
            (Gives (.flwOpDelete r) s fun u => ends u 3 ∧ u.dev.cached home = some (i, x)))) ∧
        (∀ i x, d.cached home = some (i, x) → rcMatch x key = false → rcHop x = 0 →
          (Gives (.flwOpLookup r) s fun u => ends u 1 ∧ u.dev.flow.cache = d.flow.cache) ∧
          (Gives (.flwOpUpdate r) s fun u => ends u 1 ∧ u.dev.flow.cache = d.flow.cache) ∧
          (Gives (.flwOpDelete r) s fun u => ends u 1 ∧ u.dev.flow.cache = d.flow.cache) ∧
          (rcState x = 0 → Gives (.flwOpInsert r) s fun u => ends u 0 ∧
            u.dev.fget F.FLW_OP_RSLOT_SLOT q = home % 2 ^ 26 ∧
            ∃ y, u.dev.cached home = some (i, y) ∧ rcState y = 1 ∧ rcVer y = (rcVer (d.opData q) + 1) % 16))) ∧
      (let slot := d.fget F.FLW_OP_SLOT_SLOT q
       busy = false → d.locked (slot / 8) = false → paid → ∀ i x, d.cached slot = some (i, x) →
        Gives (.flwOpReadSlot r) s fun u => ends u 0 ∧ answers u slot x ∧ u.dev.flow.cache = d.flow.cache)) ∧
    (d.running = true → d.fon F.FLW_CFG_SCAN_EN = true → d.integ.badWords = [] →
      (let c := d.flow.scanC
       (∀ j l, j < 8 → at0 d.flow.cache (c * 8 + j) = some l → d.locked (l.slot / 8) = false) → Gives .cacheScanVisit s fun u => u.mem = s.mem ∧ u.dev.flow.scanC = (c + 1) % 131072 ∧
        ∀ j l, j < 8 → at0 d.flow.cache (c * 8 + j) = some l →
          (rcState l.recd ≠ 1 ∨ rcStatic l.recd = true → at0 u.dev.flow.cache (c * 8 + j) = some l) ∧
          (rcState l.recd = 1 → rcStatic l.recd = false → bit l.recd 98 = true →
            at0 u.dev.flow.cache (c * 8 + j) = some ⟨l.slot, setBits (setBits l.recd 98 1 0) 124 1 1⟩)) ∧
      (let n := d.flow.scanD
       d.fon F.FLW_SCAN_RATE_RATE = true → d.locked (n / 8) = false →
        (d.uncached n = false ∨ (d.badIn (d.slotAddr n) 64 = [] ∧ rcState (s.mem.num .dram (d.slotAddr n) 64) ≠ 1)) →
        Gives .dramScanVisit s fun u => u.mem = s.mem ∧ u.dev.regs = d.regs ∧ u.dev.flow.cache = d.flow.cache ∧
          u.dev.flow.scanD = (n + 1) % (d.flowBuckets * 8)))

/-- L2 operations write, find, clear and flush entries; the scanner ages them; learn windows close (R179, R180, R182,
R183, R184). Beside the rules, clauses rest on the model's choices of log 8, log 19, log 22, log 23 and log 129. -/
def Obligations.l2_tables_and_learning : Prop :=
  ∀ (s : State) (r : Req) (slice : Fin 16),
    let d := s.dev
    let q := reqIdx r
    let i := slice.val
    let k := d.l2Key q
    let busy := d.fon F.FWD_L2_OP_STATUS_BUSY q
    let ends (u : State) (err re : Nat) : Prop := u.dev.fget F.FWD_L2_OP_STATUS_BUSY q = 0 ∧
      u.dev.fget F.FWD_L2_OP_STATUS_DONE q = 1 ∧ u.dev.fget F.FWD_L2_OP_STATUS_ERR q = err ∧
      u.dev.fget F.FWD_L2_OP_STATUS_REPLACED q = re ∧ u.dev.fget F.FWD_L2_OP_STATUS_EVICTED q = 0
    (s.reaches r R.FWD_L2_OP_CTRL .slice i →
      (busy = true → d.canCount F.FWD_OP_REFUSED_COUNT q →
        ∀ c ∈ [Instr.l2OpInsert r, Instr.l2OpDelete r, Instr.l2OpLookup r, Instr.l2OpFlush r],
          Gives c s fun u => u.mem = s.mem ∧ d.counted u.dev F.FWD_OP_REFUSED_COUNT q) ∧
      (busy = false →
        (∀ j e, d.l2At i k.1 k.2 = some (j, e) →
          (Gives (.l2OpInsert r) s fun u => ends u 0 1 ∧ u.dev.l2 i j =
            some { e with dest := d.fget F.FWD_L2_OP_DEST_DEST q, isStatic := d.fon F.FWD_L2_OP_CTRL_STATIC q }) ∧
          (Gives (.l2OpDelete r) s fun u => ends u 0 0 ∧ u.dev.l2 i j = none) ∧
          (d.integ.badWords = [] → Gives (.l2OpLookup r) s fun u => ends u 0 0 ∧ u.mem = s.mem ∧ u.dev.fwd = d.fwd ∧
            u.dev.fget F.FWD_L2_OP_RESULT_DEST q = e.dest % 2 ^ 32)) ∧
        (d.l2At i k.1 k.2 = none →
          (∀ j, (d.l2Places k.1 k.2).find? (fun n => (d.l2 i n).isNone) = some j → Gives (.l2OpInsert r) s fun u =>
            ends u 0 0 ∧ ∃ e, u.dev.l2 i j = some e ∧ e.mac = k.1 ∧ e.vlan = k.2 ∧
              e.dest = d.fget F.FWD_L2_OP_DEST_DEST q ∧ e.isStatic = d.fon F.FWD_L2_OP_CTRL_STATIC q ∧ e.hit = false) ∧
          (Gives (.l2OpDelete r) s fun u => ends u 1 0 ∧ u.mem = s.mem ∧ u.dev.fwd = d.fwd) ∧
          (Gives (.l2OpLookup r) s fun u => ends u 1 0 ∧ u.mem = s.mem ∧ u.dev.fwd = d.fwd)) ∧
        (Gives (.l2OpFlush r) s fun u => u.mem = s.mem ∧ u.dev.fget F.FWD_L2_OP_STATUS_BUSY q = 1 ∧ u.dev.fwd = d.fwd ∧
          ∃ f, (u.dev.sl i).flush = (d.sl i).flush ++ [f] ∧ f.who = q ∧ f.since = d.cycle ∧
            (f.dest = none ↔ d.fon F.FWD_L2_OP_CTRL_FLUSH_DEST q = false)))) ∧
    (d.running = true →
      (∀ f rest, (d.sl i).flush = f :: rest → f.who = q → Gives (.l2FlushDone slice) s fun u => u.mem = s.mem ∧ ends u 0 0 ∧
        f.since + d.l2Buckets ≤ u.dev.cycle ∧ (u.dev.sl i).flush = rest ∧
        let named (e : L2E) : Prop := e.isStatic = false ∧ f.dest.all (fun t => e.dest == t) = true ∧
          f.vlan.all (fun v => e.vlan == v) = true
        (∀ j e, j < 65536 → u.dev.l2 i j = some e → ¬ named e) ∧
        (∀ m j e, j < 65536 → d.l2 m j = some e → (m ≠ i ∨ ¬ named e) → u.dev.l2 m j = some e)) ∧
      (∀ e, d.fon F.FWD_CFG_L2_SCAN_EN = true → d.integ.badWords = [] → d.l2 i (d.sl i).scanL2 = some e →
        (e.isStatic = true → Gives (.l2ScanVisit slice) s fun u => u.mem = s.mem ∧ u.dev.fwd = d.fwd ∧
          (u.dev.sl i).scanL2 = ((d.sl i).scanL2 + 1) % (d.l2Buckets * 8)) ∧
        (e.isStatic = false → e.hit = true → Gives (.l2ScanVisit slice) s fun u => u.mem = s.mem ∧
          u.dev.l2 i (d.sl i).scanL2 = some { e with hit := false } ∧ u.dev.regs = d.regs)) ∧
      (∀ (n : Nat) (x : LearnPlace), (d.sl i).learn[n]? = some x →
        (x.hold = none → Gives (.learnWindowClose slice n) s fun u => u.mem = s.mem ∧ x.since + 6000 ≤ u.dev.cycle ∧
          (u.dev.sl i).learn[n]? = some { x with hold := some u.dev.cycle } ∧
          (d.fon F.FWD_LEARN_CFG_DEST = false → ∃ p, u.dev.stb.posts = d.stb.posts ++ [p] ∧ p.kind = 5 ∧
            p.body.take 8 = toBe 6 x.mac ++ toLe 2 x.vlan)) ∧
        (∀ h, x.hold = some h → Gives (.learnHoldoffEnd slice n) s fun u => u.mem = s.mem ∧
          (u.dev.sl i).learn = (d.sl i).learn.eraseIdx n ∧
          h + cyclesOfNs (d.fget F.FWD_LEARN_CFG_HOLDOFF_US * 1000) ≤ u.dev.cycle)))

/-- LPM changes wait for their commit, matches are the longest; labels and table entries are written and read (R189,
R190, R191, R192, R197, R198). Beside the rules, clauses rest on the model's choices of log 19, log 22, log 25, log
59, log 149 and log 156. -/
def Obligations.prefixes_labels_and_table_windows : Prop :=
  ∀ (s : State) (r : Req),
    let d := s.dev
    let q := reqIdx r
    let busy := d.fon F.FWD_LPM_OP_STATUS_BUSY q
    let x := d.lpmPrefix q
    let ends (u : State) (err : Nat) : Prop := u.mem = s.mem ∧ u.dev.fget F.FWD_LPM_OP_STATUS_BUSY q = 0 ∧
      u.dev.fget F.FWD_LPM_OP_STATUS_DONE q = 1 ∧ u.dev.fget F.FWD_LPM_OP_STATUS_ERR q = err
    let answers (u : State) (o : Option Prefix) : Prop := u.dev.fwd.lpm = d.fwd.lpm ∧
      match o with
      | some y => ends u 0 ∧ u.dev.fget F.FWD_LPM_OP_RESULT_DEST q = y.dest % 2 ^ 32 ∧ u.dev.fget F.FWD_LPM_OP_RLEN_LEN q = y.len % 256
      | none => ends u 1
    let sound : Prop := d.fwd.lpmAsks = [] ∧ d.fwd.leafAt = [] ∧ d.fwd.topAt = []
    (s.reaches r R.FWD_LPM_OP_CTRL .req q → sound →
      (busy = true → d.canCount F.FWD_OP_REFUSED_COUNT q →
        ∀ c ∈ [Instr.lpmOpAdd r, Instr.lpmOpDelete r, Instr.lpmOpLookup r, Instr.lpmOpMatch r],
          Gives c s fun u => u.mem = s.mem ∧ d.counted u.dev F.FWD_OP_REFUSED_COUNT q) ∧
      (busy = false →
        (x.lenOk = true →
          (∀ c ∈ [(Instr.lpmOpAdd r, true), (Instr.lpmOpDelete r, false)], Gives c.1 s fun u => u.mem = s.mem ∧
            u.dev.fwd.lpm = d.fwd.lpm ∧ u.dev.fwd.lpmOps = d.fwd.lpmOps ++ [(q, c.2, x)] ∧
            u.dev.fget F.FWD_LPM_OP_STATUS_BUSY q = 1 ∧ d.regsBut u.dev [(R.FWD_LPM_OP_STATUS, q)]) ∧
          (d.lpmReady 1 = true → Gives (.lpmOpLookup r) s fun u => answers u (d.fwd.lpm.find? (fun y => y.same x)))) ∧
        (x.lenOk = false → ∀ c ∈ [Instr.lpmOpAdd r, Instr.lpmOpDelete r, Instr.lpmOpLookup r],
          Gives c s fun u => ends u 3 ∧ u.dev.fwd.lpm = d.fwd.lpm) ∧
        (d.lpmReady 1 = true → Gives (.lpmOpMatch r) s fun u => answers u (longest d.fwd.lpm x.vrf x.v6 x.addr)) ∧
        (d.lpmReady (d.lpmReads x.vrf x.v6 x.addr).1 = false → Gives (.lpmOpMatch r) s fun u => u.mem = s.mem ∧
          u.dev.fwd.lpm = d.fwd.lpm ∧ u.dev.fget F.FWD_LPM_OP_STATUS_BUSY q = 1 ∧ u.dev.fwd.lpmAsks.map (fun y => y.1) = [q]))) ∧
    (∀ add y rest, d.running = true → sound → d.lpmReady 1 = true → d.fwd.lpmOps = (q, add, y) :: rest →
      let has := d.fwd.lpm.any (fun z => z.same y)
      let added (u : State) : Prop := ends u 0 ∧ u.dev.fwd.lpmOps = rest ∧
        ∀ z, z ∈ u.dev.fwd.lpm ↔ z = y ∨ (z ∈ d.fwd.lpm ∧ z.same y = false)
      (add = true → (has = true ∨ (d.lpmFull y = false ∧ (y.inLeaves = false ∨ d.fwd.lpm.any (fun z => z.inLeaves) = false))) →
        Gives .lpmCommit s added) ∧
      (add = true → has = false → d.lpmFull y = false → y.inLeaves = true → d.fwd.lpm.any (fun z => z.inLeaves) = true →
        Gives .lpmCommit s fun u => added u ∨ (ends u 2 ∧ u.dev.fwd.lpmOps = rest ∧ u.dev.fwd.lpm = d.fwd.lpm)) ∧
      (add = true → has = false → d.lpmFull y = true → Gives .lpmCommit s fun u => ends u 2 ∧ u.dev.fwd.lpm = d.fwd.lpm) ∧
      (add = false → has = true → Gives .lpmCommit s fun u => ends u 0 ∧ u.dev.fwd.lpmOps = rest ∧
        ∀ z, z ∈ u.dev.fwd.lpm ↔ z ∈ d.fwd.lpm ∧ z.same y = false) ∧
      (add = false → has = false → Gives .lpmCommit s fun u => ends u 1 ∧ u.dev.fwd.lpm = d.fwd.lpm)) ∧
    (s.reaches r R.FWD_MPLS_OP_CTRL .req q →
      let l := d.fget F.FWD_MPLS_OP_LABEL_LABEL q
      let word (n : Nat) : Nat := d.fget (F.FWD_MPLS_OP_DATA_DATA.nth n) q
      (d.labelAddr l + 64 ≤ scrubBase ∨ scrubBase + 0x200000 ≤ d.labelAddr l → Gives (.mplsOpWrite r) s fun u =>
        l ∈ u.dev.fwd.labels ∧ u.dev.fget F.FWD_MPLS_OP_STATUS_DONE q = 1 ∧ u.dev.fget F.FWD_MPLS_OP_STATUS_NOT_FOUND q = 0 ∧
        ∀ n b, n < 4 → b < 4 → Sparse.get 0 u.mem.dram (d.labelAddr l + 4 * n + b) = (toLe 4 (word n)).getD b 0) ∧
      (Gives (.mplsOpClear r) s fun u => u.dev.fwd.labels = d.fwd.labels.erase l ∧ u.dev.fget F.FWD_MPLS_OP_STATUS_DONE q = 1) ∧
      (d.wordBad 0x19 (l / 64) = false → d.badIn (d.labelAddr l) 64 = [] → l ∈ d.fwd.labels → Gives (.mplsOpRead r) s fun u => u.mem = s.mem ∧ u.dev.fget F.FWD_MPLS_OP_STATUS_NOT_FOUND q = 0 ∧
        ∀ n, n < 4 → u.dev.fget (F.FWD_MPLS_OP_DATA_DATA.nth n) q = s.mem.num .dram (d.labelAddr l + 4 * n) 4) ∧
      (d.wordBad 0x19 (l / 64) = false → l ∉ d.fwd.labels → Gives (.mplsOpRead r) s fun u => u.mem = s.mem ∧ u.dev.fget F.FWD_MPLS_OP_STATUS_NOT_FOUND q = 1 ∧
        u.dev.fget F.FWD_MPLS_OP_STATUS_DONE q = 1 ∧ d.onlyRegs u.dev [(R.FWD_MPLS_OP_STATUS, q)])) ∧
    (∀ (w : BitVec 19) (v : Word), let o := 0x3400000 + 4 * w.toNat
      d.noPass = true → d.reachable o = true → ∀ e n, tabEntry o = some (e, n) →
      (o + 4 < e + n → Gives (.tableEntryWrite r w v) s fun u => u.mem = s.mem ∧ u.dev.regs = d.regs ∧
        Sparse.get none u.dev.words (regKey o q) = some v) ∧
      (o + 4 = e + n → (∀ i, i < n / 4 - 1 → ∃ y, Sparse.get none d.words (regKey (e + 4 * i) q) = some y) →
        Gives (.tableEntryWrite r w v) s fun u =>
          (∀ i b, i < n / 4 → b < 4 → Sparse.get 0 u.mem.tabs (e + 4 * i + b) = (toLe 4
            ((if i + 1 = n / 4 then v else (Sparse.get none d.words (regKey (e + 4 * i) q)).getD 0)).toNat).getD b 0) ∧
          ∀ a, (a < e ∨ e + n ≤ a) → Sparse.get 0 u.mem.tabs a = Sparse.get 0 s.mem.tabs a)) ∧
    (∀ n : Fin 32768, let o := 0x3600000 + 8 * n.val
      let z := d.beginAll
      d.noPass = true → d.readable o = true → z.heldOf q o = none → z.wordBad 0x20 n = false →
        Gives (.statCounterRead r n) s fun u => u.mem = s.mem ∧ u.dev.regs = z.regs ∧
          Sparse.get 0 u.dev.host.rdata q = BitVec.ofNat 32 (Sparse.get 0 z.tm.stats n) ∧
          u.dev.heldOf q (o + 4) = some (BitVec.ofNat 32 (Sparse.get 0 z.tm.stats n / 2 ^ 32)))

/-- Gate lists are armed, computed and changed; policers assigned and refilled; samples taken (R230, R231, R232, R236,
R238, R240, R242). Beside the rules, clauses rest on the model's choices of log 8, log 78, log 86, log 88 and log 108.
-/
def Obligations.gates_policers_and_samples : Prop :=
  ∀ (s : State) (r : Req),
    let d := s.dev
    let q := reqIdx r
    (∀ p : Fin 512, s.reaches r R.TMG_GATE_CTRL .tport p →
      let pending := d.fon F.TMG_GATE_STATUS_PENDING p
      let refused (c : Instr) : Prop := d.canCount F.TMG_GATE_REFUSED_COUNT p → Gives c s fun u =>
        u.mem = s.mem ∧ d.counted u.dev F.TMG_GATE_REFUSED_COUNT p
      (pending = true → refused (.gateArm r)) ∧ (pending = false → refused (.gateCancel r)) ∧
      (pending = false → d.applying (p.val / 32) = true → Gives (.gateArm r) s fun u => u.mem = s.mem ∧ u.dev.regs = d.regs ∧
        (u.dev.pt p).gateArmed = true) ∧
      (pending = false → d.applying (p.val / 32) = false → Gives (.gateArm r) s fun u => u.mem = s.mem ∧
        u.dev.fget F.TMG_GATE_STATUS_PENDING p = 1 ∧ ∃ c, (u.dev.pt p).gate = some ⟨c, none⟩ ∧ d.cycle ≤ c ∧ c ≤ d.cycle + 150000) ∧
      (pending = true → ∀ c t, (d.pt p).gate = some ⟨c, t⟩ →
        let own := ∃ x, t = some x ∧ d.actAt (x * ntuNs) = d.cycle
        (own → refused (.gateCancel r)) ∧
        (¬ own → Gives (.gateCancel r) s fun u => u.mem = s.mem ∧ (u.dev.pt p).gate = none ∧
          u.dev.fget F.TMG_GATE_STATUS_PENDING p = 0))) ∧
    (d.running = true → ∀ p : Fin 512,
      (∀ c, (d.pt p).gate = some ⟨c, none⟩ → Gives (.gateComputeDone p) s fun u => u.mem = s.mem ∧ c ≤ u.dev.cycle ∧
        ∃ t, (u.dev.pt p).gate = some ⟨c, some t⟩ ∧
          (u.dev.ntu.total < d.gateBase p * ntuNs → t = d.gateBase p) ∧
          (d.gateBase p * ntuNs ≤ u.dev.ntu.total → u.dev.fget F.TMG_GATE_STATUS_LATE_START p = 1 ∧
            u.dev.ntu.total < t * ntuNs ∧ ∃ n, t = d.gateBase p + n * max 1 (d.gateCycle p 1))) ∧
      (∀ c t, (d.pt p).gate = some ⟨c, some t⟩ → d.gateLen p 1 ≤ 1024 → Gives (.gateListChange p) s fun u => u.mem = s.mem ∧
        d.actAt (t * ntuNs) ≤ u.dev.cycle ∧ (u.dev.pt p).gate = none ∧ u.dev.fget F.TMG_GATE_STATUS_PENDING p = 0 ∧ u.dev.fget F.TMG_GATE_STATUS_OPER_VALID p = 1 ∧
        u.dev.gateLen p 0 = d.gateLen p 1 ∧ u.dev.gateCycle p 0 = d.gateCycle p 1 ∧
        u.dev.fget F.TMG_GATE_CHANGE_NS_NS p = t % 10 ^ 9 ∧
        ∀ n, n < d.gateLen p 1 → u.dev.rget (gateOff p 0 n) = d.rget (gateOff p 1 n)) ∧
      (d.fon F.TMG_GATE_STATUS_OPER_VALID p = false → exec (.gateEntryAdvance p) s = .next s) ∧
      (∀ x, d.fon F.TMG_GATE_STATUS_OPER_VALID p = true → d.ntu.run = true → d.incr ≠ 0 →
        (d.gateSpans p 0).find? (fun y => decide (d.gatePhase p d.ntu.total < y.2.2 * ntuNs)) = some x →
        Gives (.gateEntryAdvance p) s fun u => u.mem = s.mem ∧ u.dev.regs = d.regs ∧
          d.ntu.total + (x.2.2 * ntuNs - d.gatePhase p d.ntu.total) ≤ u.dev.ntu.total) ∧
      (∀ t, (d.pt p).fall = some t → d.link p = true → Gives (.fallVoidClear p) s fun u => u.mem = s.mem ∧ t ≤ u.dev.cycle ∧
        (u.dev.pt p).fall = none ∧ u.dev.fget F.TMG_CFG_STATUS_FALL_VOID p = 0) ∧
      (d.link p = false → exec (.fallVoidClear p) s = .next s)) ∧
    (s.reaches r R.TMG_POL_CTRL .req q →
      let n := d.fget F.TMG_POL_IDX_POLICER q
      let k := d.fget F.TMG_POL_CTRL_PROFILE q
      (Gives (.polAssign r) s fun u => u.dev.fget F.TMG_POL_STATUS_DONE q = 1 ∧ bits (u.dev.polSt n) 0 10 = k ∧
        bits (u.dev.polSt n) 10 12 = d.fget F.TMG_POLP_BURST_CBS k ∧ bits (u.dev.polSt n) 22 12 = d.fget F.TMG_POLP_BURST_EBS k ∧
        ∀ m, m ≠ n → u.dev.polSt m = d.polSt m) ∧
      (Gives (.polRead r) s fun u => u.mem = s.mem ∧ u.dev.tm = d.tm ∧ u.dev.fget F.TMG_POL_STATUS_DONE q = 1) ∧
      (d.wordBad 0x1A n = false → Gives (.polRead r) s fun u =>
        u.dev.fget F.TMG_POL_STATUS_PROFILE q = bits (d.polSt n) 0 10 ∧ u.dev.fget F.TMG_POL_TOKENS_TC q = bits (d.polSt n) 10 12 ∧
        u.dev.fget F.TMG_POL_TOKENS_TE q = bits (d.polSt n) 22 12)) ∧
    (d.running = true →
      (∀ n : BitVec 20, let v := d.polSt n.toNat
        let k := bits v 0 10
        let cbs := d.fget F.TMG_POLP_BURST_CBS k
        let add := d.fget F.TMG_POLP_CIR_MBPS k * ((d.polNow + 16384 - bits v 34 14) % 16384) / (512 * 2 ^ d.fget F.TMG_POLP_CFG_UNIT k)
        (d.wordBad 0x1A n.toNat = true → Gives (.policerRefresh n) s fun u => u.mem = s.mem ∧ u.dev.tm = d.tm) ∧
        (d.wordBad 0x1A n.toNat = false → Gives (.policerRefresh n) s fun u => u.mem = s.mem ∧ u.dev.regs = d.regs ∧ bits (u.dev.polSt n.toNat) 0 10 = k ∧
          min cbs (bits v 10 12 + add) ≤ bits (u.dev.polSt n.toNat) 10 12 ∧
          bits (u.dev.polSt n.toNat) 10 12 ≤ min cbs (bits v 10 12 + add + 1) ∧
          ∀ m, m ≠ n.toNat → u.dev.polSt m = d.polSt m)) ∧
      (∀ l : Fin 65536, Gives (.guarLowerEffect l) s fun u => u.mem = s.mem ∧ (u.dev.lq l).pkts = (d.lq l).pkts ∧
        (u.dev.lq l).low = (d.lq l).low.filter (fun y => (d.lq l).pkts.any (fun x => decide (x.id < y.2)))) ∧
      (d.fon F.TMG_CFG_SAMPLE_EN = false → exec .periodicSample s = .next s) ∧
      (let ends := d.tm.sampleAt + d.fget F.TMG_SAMPLE_PERIOD_US * 3000
       let z := (d.toCycle ends).beginAll
       d.fon F.TMG_CFG_SAMPLE_EN = true → Gives .periodicSample s fun u => u.mem = s.mem ∧
        u.dev.cycle = z.cycle ∧ u.dev.tm.sampleAt = z.cycle ∧
        (∀ l, l < 65536 → (u.dev.lq l).pkts = (z.lq l).pkts ∧
          (z.fon F.TMG_Q_CFG_SAMPLE l = true → (u.dev.lq l).sojMax = 0 ∧ (u.dev.lq l).refused = 0)) ∧
        (∀ l v, l < 65536 → z.regs.filter (fun x => x.1 / 2 ^ 20 == R.TMG_Q_CFG && bit x.2.toNat 3) = [(regKey R.TMG_Q_CFG l, v)] →
          z.tm.sampAcct.level = none → (z.stream 7).length < 1048576 →
          ∃ e, u.dev.stream 7 = z.stream 7 ++ [e] ∧ e.take 3 = toLe 2 l ++ toLe 1 1)))

/-- Members drain, return and send probes; frames pass the checks and the resequencer in order (R252, R255, R257,
R258, R260, R261, R262, R263, R264, R265, R266, R267). Beside the rules, clauses rest on the model's choices of log 8,
log 72, log 73 and log 152. -/
def Obligations.carrier_teams : Prop :=
  ∀ (s : State) (r : Req),
    let d := s.dev
    (d.running = true →
      (∀ (p : Fin 512) (k : Nat) (f : Pkt), d.memberOf p = some k → (d.sl (p.val / 32)).rx.find? (fun x => x.port == p.val) = some f →
        let b := f.data
        let drops (c : Fld) : Prop := d.canCount c k → Gives (.memberFrameReceive p) s fun u => u.mem = s.mem ∧
          (u.dev.sl (p.val / 32)).rx = (d.sl (p.val / 32)).rx.erase f ∧ u.dev.team = d.team ∧
          u.dev.fget c k = d.fget c k + 1 ∧ d.regsBut u.dev [(c.off, k)]
        let shim := f16 b 12 = d.fget F.TEM_ETYPE_ETYPE
        let crc := crc16 ((b.drop 14).take 12) = f16 b 26
        let ver := fb b 14 / 16 = 1
        let wired := fb b 15 % 32 = k / 16 ∧ fb b 16 % 16 = k % 16
        (¬ shim → drops F.TEM_MBR_RX_NOSHIM_COUNT) ∧ (shim → ¬ crc → drops F.TEM_MBR_RX_CRC_COUNT) ∧
        (shim → crc → ¬ ver → drops F.TEM_MBR_RX_BADVER_COUNT) ∧
        (shim → crc → ver → ¬ wired → drops F.TEM_MBR_RX_MISWIRE_COUNT) ∧
        (let t := k / 16
         let dm := f16 b 18 % 4096
         let x := d.dom (domKey t dm)
         let dv := d.deliv t dm
         shim → crc → ver → wired → (d.mbr k).rxAlive = none → bit (fb b 14) 0 = false → bit (fb b 14) 2 = false →
         (∀ m ∈ d.members t, d.fget F.TEM_MBR_STATUS_RX_STATE m ≠ 1) → (∀ y ∈ d.team.dom, y.2.held = []) →
         x.synced = true → f32 b 20 = x.expect → d.forwards dv = true → Gives (.memberFrameReceive p) s fun u => u.mem = s.mem ∧
          (u.dev.mbr k).rxAlive = some (fb b 17) ∧ (u.dev.dom (domKey t dm)).expect = (x.expect + 1) % 2 ^ 32 ∧
          ∃ y, (u.dev.sl dv).rel = (d.sl dv).rel ++ [y] ∧ y.data = b.take 12 ++ b.drop 28 ∧ y.kind = 1 ∧ y.team = t ∧ y.slice = dv)) ∧
      (∀ (t : Fin 32) (dm : Fin 4096) (h : HFrame),
        let x := d.dom (domKey t dm)
        let dv := d.deliv t dm
        let gone (u : State) : Prop := u.mem = s.mem ∧ (u.dev.dom (domKey t dm)).held = [] ∧
          (u.dev.dom (domKey t dm)).expect = (h.seq + 1) % 2 ^ 32 ∧
          (d.forwards dv = true → (u.dev.sl dv).rel = (d.sl dv).rel ++ [{ h.pkt with slice := dv }])
        let kept (u : State) : Prop := u.mem = s.mem ∧ (u.dev.dom (domKey t dm)).held = [h] ∧ (u.dev.dom (domKey t dm)).expect = h.seq
        let freed (u : State) : Prop := (h.inPkt = false → gone u) ∧ (h.inPkt = true → kept u)
        let charged (u : State) : Prop := u.dev.team.spill = d.team.spill.take storeCap d.spillGbps d.cycle (24 * h.pkt.data.length)
        x.held = [h] →
        (∀ c, x.sync = some c → Gives (.syncWaitEnd t dm) s fun u => freed u ∧ c ≤ u.dev.cycle ∧
          (u.dev.dom (domKey t dm)).synced = true ∧ (u.dev.dom (domKey t dm)).sync = none) ∧
        (let lost := ser32 h.seq x.expect
         x.synced = true → x.holes = [] → h.seq < 2 ^ 32 → h.seq ≠ x.expect → d.fget F.TEM_LOST_COUNT t + lost < 2 ^ 32 →
          Gives (.gapTimerExpiry t dm) s fun u => freed u ∧ h.came + d.gapWait t - d.gapF t ≤ u.dev.cycle ∧
            u.dev.fget F.TEM_LOST_COUNT t = d.fget F.TEM_LOST_COUNT t + lost) ∧
        (h.inPkt = true →
          (x.synced = false → Gives (.spillReadback t dm true) s fun u => u.mem = s.mem ∧ u.dev.regs = d.regs ∧ charged u ∧
            (u.dev.dom (domKey t dm)).held = [{ h with fetched := true }]) ∧
          (x.synced = true → h.seq = x.expect → Gives (.spillReadback t dm true) s fun u => gone u ∧ charged u) ∧
          (d.canCount F.TEM_SPILL_DROP_COUNT t → Gives (.spillReadback t dm false) s fun u => u.mem = s.mem ∧ charged u ∧
            (u.dev.dom (domKey t dm)).held = [] ∧ (u.dev.dom (domKey t dm)).holes = x.holes ++ [h.seq] ∧
            u.dev.fget F.TEM_SPILL_DROP_COUNT t = d.fget F.TEM_SPILL_DROP_COUNT t + 1))) ∧
      (∀ k : Fin 512, let m := d.mbr k
        let probed (u : State) (drain : Bool) : Prop := u.mem = s.mem ∧ (u.dev.mbr k).probes = (m.probes + 1) % 2 ^ 32 ∧
          (u.dev.mbr k).alive = (m.alive + 1) % 256 ∧
          ∃ y ∈ (u.dev.pt (d.mbrPort k)).tx, y.probe = true ∧ y.mbr = some k.val ∧ y.seq = m.probes ∧ y.alive = m.alive ∧
            y.drain = drain ∧ y.start = u.dev.cycle ∧ (d.pt (d.mbrPort k)).freeAt ≤ y.start
        (d.mbrFree k = true → d.mbrTx k = 1 ∨ d.mbrTx k = 2 →
          (Gives (.idleProbe k) s fun u => probed u false ∧
            d.lastStart k false + cyclesOfNs (d.fget F.TEM_PROBE_CFG_IDLE_US (k.val / 16) * 1000) ≤ u.dev.cycle) ∧
          (Gives (.forcedProbe k) s fun u => probed u false ∧
            d.lastStart k true + cyclesOfNs (d.fget F.TEM_PROBE_CFG_MAX_US (k.val / 16) * 1000) ≤ u.dev.cycle)) ∧
        (d.mbrFree k = true → d.mbrTx k = 2 → Gives (.drainProbe k) s fun u => probed u true ∧ u.dev.mbrTx k = 0) ∧
        (d.mbrFree k = false → exec (.idleProbe k) s = .next s ∧ exec (.forcedProbe k) s = .next s ∧ exec (.drainProbe k) s = .next s) ∧
        (d.fget F.TEM_MBR_STATUS_RX_STATE k = 1 → Gives (.memberSilent k) s fun u => u.mem = s.mem ∧
          m.lastRx + cyclesOfNs (d.fget F.TEM_SILENT_US (k.val / 16) * 1000) ≤ u.dev.cycle ∧
          u.dev.fget F.TEM_MBR_STATUS_RX_STATE k = 2) ∧
        (d.fget F.TEM_MBR_STATUS_RX_STATE k ≠ 1 → exec (.memberSilent k) s = .next s))) ∧
    (∀ k, k < 512 → s.reaches r R.TEM_MBR_CTRL .member k →
      (d.mbrTx k = 1 → Gives (.memberDrain r) s fun u => u.mem = s.mem ∧ u.dev.mbrTx k = 2) ∧
      (d.mbrTx k ≠ 1 → exec (.memberDrain r) s = .next s) ∧
      (d.mbrTx k = 0 → d.link (d.mbrPort k) = true → Gives (.memberRestore r) s fun u => u.mem = s.mem ∧ u.dev.mbrTx k = 1 ∧
        (u.dev.mbr k).lastProbe = d.cycle)) ∧
    (∀ t, t < 32 → s.reaches r R.TEM_TEAM_CTRL .team t →
      (Gives (.teamTxReset r) s fun u => u.mem = s.mem ∧
        u.dev.fget F.TEM_TEAM_STATUS_TX_EPOCH t = (d.fget F.TEM_TEAM_STATUS_TX_EPOCH t + 1) % 65536 ∧
        (∀ dm, dm < 4096 → (u.dev.dom (domKey t dm)).next = 0) ∧
        ∀ k ∈ d.members t, d.mbrTx k = 1 → ∃ y ∈ (u.dev.pt (d.mbrPort k)).tx, y.probe = true ∧ y.mbr = some k) ∧
      (Gives (.teamResync r) s fun u => u.mem = s.mem ∧ ∀ n dm, dm < 4096 →
        let y := u.dev.dom (domKey n dm)
        (n = t → y.synced = false ∧ y.sync = none ∧ y.held = [] ∧ y.holes = []) ∧
        (n ≠ t → y = d.dom (domKey n dm))))

/-- A descriptor injects, feeds or drains a channel and completes; entries and events reach their rings (R380, R412,
R413, R414, R415, R416, R417, R418, R420). Beside the rules, clauses rest on the model's choices of log 16, log 41,
log 156, log 165, log 167 and log 168. -/
def Obligations.dma_queues_rings_and_events : Prop :=
  ∀ (s : State),
    let d := s.dev
    (d.running = true → d.isRoot = true →
      (∀ (q : Fin 64) (data : List Byte), d.engineOf 1 q = none →
        let h := d.fget F.HDM_Q_HEAD_INDEX q
        let cpl := d.fget F.HDM_Q_CPL_LO_ADDR q + d.fget F.HDM_Q_CPL_HI_ADDR q * 2 ^ 32 + h * 16
        let done (u : State) (len : Nat) : Prop := u.dev.fget F.HDM_Q_HEAD_INDEX q = (h + 1) % d.dmaSize q % 2 ^ F.HDM_Q_HEAD_INDEX.w ∧
          (∀ n, n < 4 → Sparse.get 0 u.mem.host (cpl + n) = (toLe 2 h ++ toLe 2 len).getD n 0) ∧
          (d.canCount F.HDM_Q_DONE_CNT_COUNT q → u.dev.fget F.HDM_Q_DONE_CNT_COUNT q = d.fget F.HDM_Q_DONE_CNT_COUNT q + 1)
        let got (n : Nat) : Nat := ((d.bufServe (poolFor n)).bufGet n (dmaOwner q)).1
        let takes (g len : Nat) : Prop := g ≠ 0 ∧ d.bufWaits g = false ∧ ∀ p, d.mapAddr g = some (.dram, p) → d.badIn p len = []
        let waits (c : Instr) : Prop := Gives c s fun u => u.mem = s.mem ∧ u.dev.fget F.HDM_Q_STATUS_WAITING q = 1 ∧
          d.onlyRegs u.dev [(R.HDM_Q_STATUS, q)]
        (∀ x, s.blk.dmaDesc q 1 = some x →
          let len := dnum x 8 2 % 16384
          let room := dnum x 10 2 % 16384
          let port := dnum x 12 2 % 512
          let kind := dnum x 14 1 % 4
          let g := got (roomFor room len)
          kind = 1 ∨ kind = 2 → 60 ≤ len → d.sliceOn (sliceOf port) = true →
          (len ≤ 8192 → (at0 d.hostInj (sliceOf port)).length < 16 → takes g len → Gives (.dmaInject q data true) s fun u => done u len ∧
            ∃ j, at0 u.dev.hostInj (sliceOf port) = at0 d.hostInj (sliceOf port) ++ [j] ∧ j.data = fitData data len ∧
              j.port = port ∧ j.kind = kind ∧ j.frees = [g]) ∧
          (len ≤ 12284 → 16 ≤ (at0 d.hostInj (sliceOf port)).length → waits (.dmaInject q data true))) ∧
        (∀ x, s.blk.dmaDesc q 2 = some x →
          let c := d.fget F.HDM_Q_CFG_CHAN q
          let len := min (dnum x 8 2 % 16384) 8192
          let g := got (roomFor (dnum x 10 2 % 16384) len)
          (c < 240 → d.chanOn c = true → d.chanRoom c = true → takes g len → Gives (.dmaToChan q data true) s fun u => done u len ∧
            ∃ msg, (u.dev.chan c).com = (d.chan c).com ++ [msg] ∧ msg.take 6 = toLe 4 g ++ toLe 2 len) ∧
          (d.chanOn c = false ∨ d.chanRoom c = false → waits (.dmaToChan q data true))) ∧
        (∀ x, s.blk.dmaDesc q 3 = some x →
          let c := d.fget F.HDM_Q_CFG_CHAN q
          let place := d.ringPlace c (d.chan c).head
          let msg := s.mem.read .cluster place 64
          let buf := dnum msg 0 4
          let len := dnum msg 4 2 % 16384
          let dst := dnum x 0 8
          ∀ sp a, c < 240 → (d.chan c).vis ≠ 0 → (∀ i, i < 8 → d.wordBad 0x1D (place / 8 + i) = false) → len ≤ dnum x 10 2 % 16384 →
            d.mapAddr buf = some (sp, a) → d.bufWaits buf = false → (sp = .dram → d.badIn a len = []) →
            (sp ≠ .dram → ∀ i, i < (a % 8 + len + 7) / 8 → d.wordBad 0x1E (a / 8 + i) = false) →
            dst + len ≤ cpl ∨ cpl + 16 ≤ dst → Gives (.dmaFromChan q true) s fun u => done u len ∧
              (u.dev.chan c).vis = (d.chan c).vis - 1 ∧ (u.dev.chan c).head = ((d.chan c).head + 1) % 4096 ∧
              ∀ n, n < len → Sparse.get 0 u.mem.host (dst + n) = (s.mem.read sp a len).getD n 0)) ∧
      (∀ n : Fin 8, let wrote (d : Dev) (u : State) (e : List Byte) : Prop :=
          let t := d.fget F.HDM_RING_TAIL_INDEX n
          let at' := d.fget F.HDM_RING_BASE_LO_ADDR n + d.fget F.HDM_RING_BASE_HI_ADDR n * 2 ^ 32 + t * ringEntryBytes n
          let wb := d.fget F.HDM_RING_WB_LO_ADDR n + d.fget F.HDM_RING_WB_HI_ADDR n * 2 ^ 32
          let new := (t + 1) % d.ringSize n
          u.dev.fget F.HDM_RING_TAIL_INDEX n = new % 2 ^ F.HDM_RING_TAIL_INDEX.w ∧
          (∀ i, i < 4 → Sparse.get 0 u.mem.host (wb + i) = (toLe 4 new).getD i 0) ∧
          (wb + 4 ≤ at' ∨ at' + e.length ≤ wb → ∀ i, i < e.length → Sparse.get 0 u.mem.host (at' + i) = e.getD i 0)
        let z := d.beginAll
        (∀ e l, 4 ≤ n.val → z.stream n = e :: l → z.ringFull n = false → z.isRoot = true →
          (6 ≤ n.val → z.badIn (z.ringPlaceOf n e.length) e.length = []) → Gives (.ringEntryWrite n) s fun u =>
          wrote z u e ∧ u.dev.stream n = l) ∧
        (4 ≤ n.val → z.ringFull n = true → exec (.ringEntryWrite n) s = .next { s with dev := z }) ∧
        (∀ (c : Fin 4) e, c.val = n.val → d.host.evtQ.find? (fun y => y.cls == c.val) = some e →
          (d.ringFull n = false → Gives (.eventRingWrite c) s fun u => wrote d u (d.evtBytes e) ∧ u.dev.host.evtQ = d.host.evtQ.erase e) ∧
          (d.ringFull n = true → exec (.eventRingWrite c) s = .next s)))) ∧
    (∀ (r : Req) (c : Fin 4) (code : BitVec 16), s.reaches r R.ERR_SW_EVENT .req (reqIdx r) → d.host.evtQ.length < 256 →
      (at0 d.host.limiter c).level = none → d.fget F.HDM_EVT_RATE_BURST c ≠ 0 → Gives (.softwareEvent r c code) s fun u =>
        u.mem = s.mem ∧ (c.val = 0 → bit (u.dev.rget R.ERR_ALARM).toNat 12 = true) ∧
        ∃ e, u.dev.host.evtQ = d.host.evtQ ++ [e] ∧ e.cls = c.val ∧ e.off = code.toNat ∧ e.inst = ownerOf r ∧
          e.seq = d.fget F.HDM_EVT_SEQ_SEQ c)

/-- FORCE_STEP applies the pending correction, SET loads the NTU, and both count (R290). -/
def Obligations.forced_steps_of_network_time : Prop :=
  ∀ (s : State) (r : Req), s.reaches r R.NTU_CTRL .dev 0 → s.dev.adjTaken = false →
    let count := s.dev.fget F.NTU_STEP_CNT_COUNT
    let ignored := s.dev.fget F.NTU_ADJ_IGNORED_COUNT
    (s.dev.fget F.NTU_STATUS_PENDING = 1 → 0 ≤ (s.dev.ntu.total : Int) + s.dev.ntuAdj * 2 ^ 24 → count + 1 < 2 ^ F.NTU_STEP_CNT_COUNT.w →
      Gives (.ntuForceStep r) s fun u => u.mem = s.mem ∧ u.dev.cycle = s.dev.cycle ∧
        (u.dev.ntu.total : Int) = s.dev.ntu.total + s.dev.ntuAdj * 2 ^ 24 ∧
        u.dev.fget F.NTU_STATUS_PENDING = 0 ∧ u.dev.fget F.NTU_STEP_CNT_COUNT = count + 1) ∧
    (s.dev.fget F.NTU_STATUS_PENDING = 0 → ignored + 1 < 2 ^ F.NTU_ADJ_IGNORED_COUNT.w →
      Gives (.ntuForceStep r) s fun u => u.mem = s.mem ∧ u.dev.ntu = s.dev.ntu ∧
        u.dev.fget F.NTU_ADJ_IGNORED_COUNT = ignored + 1 ∧ u.dev.regsBut s.dev [(R.NTU_ADJ_IGNORED, 0)]) ∧
    (count + 1 < 2 ^ F.NTU_STEP_CNT_COUNT.w → Gives (.ntuSet r) s fun u => u.mem = s.mem ∧ u.dev.cycle = s.dev.cycle ∧
      u.dev.ntu.total = ((s.dev.fget F.NTU_SET_SEC_LO_SEC + s.dev.fget F.NTU_SET_SEC_HI_SEC * 2 ^ 32) * 10 ^ 9 +
        s.dev.fget F.NTU_SET_NS_NS) * 2 ^ 40 ∧ u.dev.ntuFrac = 0 ∧
      u.dev.fget F.NTU_STATUS_PENDING = 0 ∧ u.dev.fget F.NTU_STATUS_TIME_SET = 1 ∧
      u.dev.fget F.NTU_STEP_CNT_COUNT = count + 1)

/-- A read of NTU_NOW_NS captures seconds and fraction of the same cycle for its requester (R288). -/
def Obligations.a_read_of_network_time_is_one_instant : Prop :=
  ∀ (s : State) (r : Req), s.reads r R.NTU_NOW_NS .dev 0 →
    let q := reqIdx r
    Gives (.ntuNowRead r) s fun u => u.mem = s.mem ∧ u.dev.regs = s.dev.regs ∧
      Sparse.get 0 u.dev.host.rdata q = BitVec.ofNat 32 s.dev.ntuNsec ∧
      ∀ (n : NtuSt) (c : Nat), let b : Block := { u.blk with dev.ntu := n, dev.cycle := c }
        (b.regRead q R.NTU_NOW_SEC_LO).1 = BitVec.ofNat 32 s.dev.ntuSec ∧
        (b.regRead q R.NTU_NOW_SEC_HI).1 = BitVec.ofNat 32 (s.dev.ntuSec / 2 ^ 32 % 65536) ∧
        (b.regRead q R.NTU_NOW_FRAC).1 = BitVec.ofNat 32 s.dev.ntuFrac

/-- A correction within JUMP_LIMIT steps the NTU; a larger one waits as PENDING (R10, R289, R291). -/
def Obligations.corrections_of_network_time : Prop :=
  ∀ (s : State) (r : Req) (lo hi : Word),
    let z := s.dev.beginAll
    (s.dev.reachable R.NTU_ADJ_LO = true → s.dev.noPass = true → z.stagedOf (reqIdx r) R.NTU_ADJ_HI = some hi →
      let adj := signed64 (lo.toNat + hi.toNat * 2 ^ 32)
      let small := adj.natAbs ≤ z.fget F.NTU_JUMP_LIMIT_NS * 65536
      (z.adjTaken = false → small → Gives (.ntuCorrection r lo) s fun u => u.mem = s.mem ∧
        (0 ≤ (z.ntu.total : Int) + adj * 2 ^ 24 → (u.dev.ntu.total : Int) = z.ntu.total + adj * 2 ^ 24) ∧
        u.dev.adjTaken = true ∧ u.dev.fget F.NTU_STATUS_PENDING = 0 ∧ u.dev.fget F.NTU_STATUS_STEPPED = 1) ∧
      (z.adjTaken = false → ¬ small → Gives (.ntuCorrection r lo) s fun u => u.mem = s.mem ∧
        u.dev.ntu = { z.ntu with adjAt := some z.cycle } ∧ u.dev.fget F.NTU_STATUS_PENDING = 1 ∧
        u.dev.fget F.NTU_STATUS_JUMP_REFUSED = 1) ∧
      (z.adjTaken = true → z.canCount F.NTU_ADJ_IGNORED_COUNT 0 → Gives (.ntuCorrection r lo) s fun u => u.mem = s.mem ∧
        z.counted u.dev F.NTU_ADJ_IGNORED_COUNT 0)) ∧
    (s.reaches r R.NTU_CTRL .dev 0 → s.dev.adjTaken = true → s.dev.canCount F.NTU_ADJ_IGNORED_COUNT 0 →
      ∀ c ∈ [Instr.ntuForceStep r, .ntuSet r], Gives c s fun u => u.mem = s.mem ∧ s.dev.counted u.dev F.NTU_ADJ_IGNORED_COUNT 0)

/-- Arming, cancelling and the pulses of a trigger train (R299, R300). Beside the rules, clauses rest on the model's
choices of log 8 and log 118. -/
def Obligations.trigger_trains : Prop :=
  ∀ (s : State) (r : Req) (n : Nat), n < 16 →
    let d := s.dev
    let x := d.train n
    let width := d.fget F.NTU_TRIG_WIDTH_NS n
    let period := d.fget F.NTU_TRIG_PERIOD_NS n * ntuNs
    (s.reaches r R.NTU_TRIG_CTRL .trig n →
      (let start := instant (d.fget F.NTU_TRIG_START_SEC_LO_SEC n + d.fget F.NTU_TRIG_START_SEC_HI_SEC n * 2 ^ 32)
        (d.fget F.NTU_TRIG_START_NS_NS n)
       Gives (.trigArm r) s fun u => u.mem = s.mem ∧ u.dev.fget F.NTU_TRIG_STATUS_ARMED n = 1 ∧
        let y := u.dev.train n
        y.made = 0 ∧ y.skipped = false ∧
        (d.ntu.total < start → y.next = start ∧ y.soon = none ∧ u.dev.fget F.NTU_TRIG_NEXT_NS_NS n = start / ntuNs % 10 ^ 9) ∧
        (start ≤ d.ntu.total → u.dev.fget F.NTU_TRIG_STATUS_LATE n = 1 ∧
          (period = 0 → y.soon = some (d.cycle + 1)) ∧
          (period ≠ 0 → y.soon = none ∧ d.ntu.total < y.next ∧ y.next ≤ d.ntu.total + period ∧ ∃ k, y.next = start + k * period))) ∧
      (Gives (.trigCancel r) s fun u => u.mem = s.mem ∧ u.dev.ntu = d.ntu ∧ u.dev.fget F.NTU_TRIG_STATUS_ARMED n = 0 ∧
        d.regsBut u.dev [(R.NTU_TRIG_STATUS, n)])) ∧
    (∀ k : Fin 16, k.val = n → d.running = true →
      (d.fget F.NTU_TRIG_STATUS_ARMED n = 1 → x.level = false → Gives (.trigPulseStart k) s fun u => u.mem = s.mem ∧
        x.soon.getD (d.actAt x.next) ≤ u.dev.cycle ∧ u.dev.trigOn n = true ∧
        let y := u.dev.train n
        y.level = true ∧ y.made = x.made + 1 ∧ y.fromCycle = u.dev.cycle ∧ y.stepped = false ∧
        y.pulseTo = (if x.soon.isSome then u.dev.ntu.total else x.next) + width * ntuNs ∧
        (x.skipped = false → y.next = x.next + period) ∧
        (x.skipped = true → u.dev.fget F.NTU_TRIG_STATUS_SKIPPED n = 1)) ∧
      (x.level = true → Gives (.trigPulseEnd k) s fun u => u.mem = s.mem ∧ (u.dev.train n).level = false ∧
        d.pulseEnd x.pulseTo x.fromCycle (cyclesOfNs width) x.stepped ≤ u.dev.cycle ∧
        ((∀ e ∈ d.cars, ∀ c, e.2.pulse ≠ some (n, c)) → u.dev.trigOn n = false) ∧
        (d.fget F.NTU_TRIG_STATUS_ARMED n = 1 →
          period = 0 ∨ (d.fget F.NTU_TRIG_COUNT_COUNT n ≠ 0 ∧ d.fget F.NTU_TRIG_COUNT_COUNT n ≤ x.made) →
          u.dev.fget F.NTU_TRIG_STATUS_ARMED n = 0 ∧ u.dev.fget F.NTU_TRIG_STATUS_DONE n = 1)))

/-- A selected edge is stamped into its FIFO, a read takes the oldest, 1PPS_OUT pulses (R301, R302, R303). Beside the
rules, clauses rest on the model's choices of log 4, log 8, log 118, log 120 and log 155. -/
def Obligations.captures_and_1pps : Prop :=
  ∀ (s : State) (n : Fin 9) (rising : Bool) (offset : Nat) (r : Req), s.dev.running = true →
    let d := s.dev
    let x := at0 d.ntu.caps n
    let edge := Instr.captureEdge n rising offset
    let chosen := bit (d.fget F.NTU_CAP_CFG_EDGE n) (if rising then 0 else 1)
    let near := ∃ c, x.last = some c ∧ d.cycle < c + 24
    let stamp := d.ntu.total / 2 ^ 24 + offset
    (chosen = false → exec edge s = .next s) ∧
    (chosen = true →
      (near → d.canCount F.NTU_CAP_OVERRUN_COUNT n → Gives edge s fun u => u.mem = s.mem ∧ d.counted u.dev F.NTU_CAP_OVERRUN_COUNT n) ∧
      (¬ near → 16 ≤ x.fifo.length → d.canCount F.NTU_CAP_LOST_COUNT n → Gives edge s fun u => u.mem = s.mem ∧
        (at0 u.dev.ntu.caps n).fifo = x.fifo ∧ (at0 u.dev.ntu.caps n).last = some d.cycle ∧
        u.dev.fget F.NTU_CAP_LOST_COUNT n = d.fget F.NTU_CAP_LOST_COUNT n + 1 ∧ d.regsBut u.dev [(R.NTU_CAP_LOST, n)]) ∧
      (¬ near → x.fifo.length < 16 →
        (d.fon F.NTU_CAP_CFG_EVT_EN n = false ∨ d.fon F.NTU_TS_CFG_DEST = false) → Gives edge s fun u => u.mem = s.mem ∧
          u.dev.regs = d.regs ∧ (at0 u.dev.ntu.caps n).fifo = x.fifo ++ [⟨stamp, rising⟩] ∧ (at0 u.dev.ntu.caps n).last = some d.cycle ∧
          (d.fon F.NTU_CAP_CFG_EVT_EN n = false → u.dev.stb = d.stb) ∧
          (d.fon F.NTU_CAP_CFG_EVT_EN n = true → ∃ y, u.dev.stb.posts = d.stb.posts ++ [y] ∧ y.kind = 7 ∧
            y.body = tsRecord n ((x.count + 1) % 65536) 2 rising stamp))) ∧
    (s.reads r R.NTU_CAP_NS .cap n.val →
      (∀ c rest, x.fifo = c :: rest → Gives (.captureRead r) s fun u => u.mem = s.mem ∧ u.dev.regs = d.regs ∧
        (at0 u.dev.ntu.caps n).fifo = rest ∧
        Sparse.get 0 u.dev.host.rdata (reqIdx r) = BitVec.ofNat 32 (c.stamp / 65536 % 10 ^ 9 + 2 ^ 31) ∧
        let sec := c.stamp / 65536 / 10 ^ 9
        let next (off : Nat) := (u.blk.regRead (reqIdx r) off).1
        next R.NTU_CAP_SEC_LO = BitVec.ofNat 32 sec ∧ next R.NTU_CAP_SEC_HI = BitVec.ofNat 32 (sec / 2 ^ 32 % 65536) ∧
        next R.NTU_CAP_FRAC = BitVec.ofNat 32 (c.stamp % 65536 + if c.rising then 65536 else 0)) ∧
      (x.fifo = [] → Gives (.captureRead r) s fun u => u.mem = s.mem ∧ u.dev.ntu = d.ntu ∧ u.dev.regs = d.regs ∧
        Sparse.get 0 u.dev.host.rdata (reqIdx r) = 0)) ∧
    (let start := instant d.ppsNext (d.fget F.NTU_PPS_OFFSET_NS)
     let width := d.fget F.NTU_PPS_CFG_WIDTH_US
     (d.fon F.NTU_PPS_CFG_OUT_EN = true → d.ntu.ppsLevel = false → Gives .ppsPulseStart s fun u => u.mem = s.mem ∧ u.dev.regs = d.regs ∧
       d.ntu.ppsDue.getD (d.actAt start) ≤ u.dev.cycle ∧ u.dev.ntu.ppsLevel = true ∧ u.dev.ntu.ppsDue = none ∧
       u.dev.ntu.ppsSecs = (d.ntu.emit d.ppsNext).ppsSecs ∧ u.dev.ntu.ppsFrom = u.dev.cycle ∧
       u.dev.ntu.ppsEnd = (if d.ntu.ppsDue.isSome then u.dev.ntu.total else start) + width * 1000 * ntuNs) ∧
     (d.fon F.NTU_PPS_CFG_OUT_EN = false → exec .ppsPulseStart s = .next s) ∧
     (d.ntu.ppsLevel = true → Gives .ppsPulseEnd s fun u => u.mem = s.mem ∧ u.dev.regs = d.regs ∧ u.dev.ntu.ppsLevel = false ∧
       d.pulseEnd d.ntu.ppsEnd d.ntu.ppsFrom (width * 3000) d.ntu.ppsStepped ≤ u.dev.cycle) ∧
     (d.ntu.ppsLevel = false → exec .ppsPulseEnd s = .next s))

/-- An engine starts on a free source, refuses changes while it runs, and abandons its block when stopped (R310,
R314). -/
def Obligations.check_engines_start_and_stop : Prop :=
  ∀ (s : State) (r : Req) (cfg : Word) (e : Nat), e < 4 → s.reaches r R.CKU_ENG_CFG .eng e →
    (s.dev.fon F.CKU_ENG_CFG_ENABLE e = false → s.dev.engineOf (bits (cfg ||| 1#32).toNat 6 1) (bits (cfg ||| 1#32).toNat 8 8) = none →
      Gives (.engineEnable r cfg) s fun u => u.mem = s.mem ∧
        u.dev.rget R.CKU_ENG_CFG e = (cfg ||| 1#32) &&& 0x1FFFFFF#32 ∧ u.dev.fget F.CKU_ENG_STATUS_ACTIVE e = 1 ∧
        (at0 u.dev.cku e).pos = 0 ∧ (at0 u.dev.cku e).data = [] ∧
        (at0 u.dev.cku e).pass = (if bit cfg.toNat 6 then 0 else s.dev.chanWaiting (bits cfg.toNat 8 8)) ∧ s.dev.regsBut u.dev [(R.CKU_ENG_CFG, e), (R.CKU_ENG_STATUS, e)]) ∧
    (s.dev.fon F.CKU_ENG_CFG_ENABLE e = true → s.dev.fget F.CKU_REFUSED_COUNT + 1 < 2 ^ F.CKU_REFUSED_COUNT.w →
      Gives (.engineEnable r cfg) s fun u => u.mem = s.mem ∧ u.dev.cku = s.dev.cku ∧
        u.dev.fget F.CKU_REFUSED_COUNT = s.dev.fget F.CKU_REFUSED_COUNT + 1 ∧ s.dev.regsBut u.dev [(R.CKU_REFUSED, 0)]) ∧
    (Gives (.engineDisable r) s fun u => u.mem = s.mem ∧ u.dev.fget F.CKU_ENG_CFG_ENABLE e = 0 ∧
      u.dev.fget F.CKU_ENG_STATUS_ACTIVE e = 0 ∧ (at0 u.dev.cku e).pos = 0 ∧
      ((at0 s.dev.cku e).pos ≠ 0 → u.dev.fget F.CKU_ENG_STATUS_ABANDONED e = 1 ∧ (at0 u.dev.cku e).data = []))

/-- Re-reads, patrol and SRAM scrubbing count and mark what fails, take the outcome of its class and leave what passes
(R319, R321, R322, R323, R325, R326). Beside the rules, clauses rest on the model's choices of log 2, log 41, log 42,
log 58 and log 131. -/
def Obligations.failing_memory_is_marked_and_counted : Prop :=
  ∀ (s : State), s.dev.running = true →
    let d := s.dev
    let slotBurst (a : Nat) : Prop := d.dramClass a = 0x03 ∧ d.uncached ((burstOf a - d.flowBase) / 64) = true
    let failed (u : State) (a : Nat) : Prop := u.mem = s.mem ∧ u.dev.burstBad a = true ∧
      (∀ x, burstOf x ≠ burstOf a → u.dev.burstBad x = d.burstBad x) ∧ u.dev.fget F.SDC_FAIL_CNT_COUNT = d.fget F.SDC_FAIL_CNT_COUNT + 1
    (∀ burst inst, d.canCount F.SDC_FIXED_CNT_COUNT 0 →
      Gives (.dramRereadDone burst true inst) s fun u => u.mem = s.mem ∧ u.dev.integ = d.integ ∧
        u.dev.fget F.SDC_FIXED_CNT_COUNT = d.fget F.SDC_FIXED_CNT_COUNT + 1) ∧
    (∀ burst inst, burst < 2 ^ 36 → ¬ slotBurst burst → d.canCount F.SDC_FAIL_CNT_COUNT 0 →
      Gives (.dramRereadDone burst false inst) s fun u => failed u burst) ∧
    (∀ st ch, exec (.dramRefresh st ch) s = .next s) ∧
    (∀ fails, d.fon F.SDC_CFG_SCRUB_EN = false → exec (.patrolScrubRead fails) s = .next s) ∧
    (let n := d.fget F.SDC_SCRUB_POS_BURST
     let moved (u : State) : Prop :=
      (n + 1 < 2 ^ 30 → u.dev.fget F.SDC_SCRUB_POS_BURST = n + 1) ∧
      (n + 1 = 2 ^ 30 → u.dev.fget F.SDC_SCRUB_POS_BURST = 0 ∧
        (d.canCount F.SDC_SCRUB_PASSES_COUNT 0 → u.dev.fget F.SDC_SCRUB_PASSES_COUNT = d.fget F.SDC_SCRUB_PASSES_COUNT + 1))
     d.fon F.SDC_CFG_SCRUB_EN = true →
      (d.burstBad (n * 64) = false → Gives (.patrolScrubRead false) s fun u => u.mem = s.mem ∧ u.dev.integ = d.integ ∧ moved u) ∧
      (∀ fails, fails = true ∨ d.burstBad (n * 64) = true → ¬ slotBurst (n * 64) → d.canCount F.SDC_FAIL_CNT_COUNT 0 →
        Gives (.patrolScrubRead fails) s fun u => failed u (n * 64) ∧ moved u)) ∧
    (∀ cls inst addr detail,
      let reads (fails : Bool) := Instr.sramScrubRead cls inst addr detail fails
      let cache := cls = 0x11 ∨ cls = 0x12
      let on := if cache then d.fon F.FLW_CFG_SCAN_EN = true else d.fon F.ERR_SCRUB_CTRL_EN = true
      let parity (u : State) : Prop := u.mem = s.mem ∧ u.dev.fget F.ERR_PAR_CNT_COUNT = d.fget F.ERR_PAR_CNT_COUNT + 1
      (¬ on → ∀ fails, exec (reads fails) s = .next s) ∧
      (d.wordBad (if cache then 0x11 else cls) addr = false → exec (reads false) s = .next s) ∧
      (on → d.canCount F.ERR_PAR_CNT_COUNT 0 →
        (cls ∈ [0x15, 0x16, 0x17, 0x18, 0x19, 0x1A] → Gives (reads true) s fun u => parity u ∧ u.dev.wordBad cls addr = true) ∧
        (cls = 0x14 → Gives (reads true) s fun u => parity u ∧ u.dev.wordBad cls addr = false ∧
          (u.dev.dom addr).synced = false ∧ (u.dev.dom addr).sync = none ∧ (u.dev.dom addr).held = []) ∧
        (cls = 0x20 → addr < 0x8000 → Gives (reads true) s fun u => parity u ∧ u.dev.wordBad cls addr = false ∧
          Sparse.get 0 u.dev.tm.stats addr = 0) ∧
        (cls = 0x1F → Gives (reads true) s fun u => parity u ∧ (u.dev.buf (addr / 2 ^ 20 % 8) (addr % 2 ^ 20)).quar = true) ∧
        (∀ l, cache → at0 d.flow.cache (addr / 8) = some l → bit l.recd 124 = false →
          Gives (reads true) s fun u => parity u ∧ u.dev.wordBad 0x11 addr = false ∧ at0 u.dev.flow.cache (addr / 8) = none)) ∧
      (on → cls = 0x1B → d.life.wide = false → d.sliceSt (inst % 16) ≠ stOff →
        Gives (reads true) s fun u => u.mem = s.mem ∧ u.dev.wordBad cls addr = false ∧ u.dev.sliceSt (inst % 16) = stRecovery))

/-- Booking queues, lists or merges a failure, a pop drops the head, a window commit writes its burst (R322, R328,
R329, R330, R333). -/
def Obligations.error_records_and_the_dram_window : Prop :=
  ∀ (s : State),
    (∀ (u : Fin 33) f rest, s.dev.running = true → (s.dev.eunit u).pend = f :: rest →
      let unit := s.dev.eunit u
      let book (p : State → Prop) : Prop := Gives (.errorBooking u) s fun v => (v.dev.eunit u).pend = rest ∧ p v
      (classOutcome f.cls ≠ 3 → classOutcome f.cls ≠ 10 ∨ f.taken = true →
        (unit.queue.length < 8 → book fun v => v.mem = s.mem ∧ (v.dev.eunit u).queue = unit.queue ++ [errRecord f u 0 false]) ∧
        (8 ≤ unit.queue.length → s.dev.canCount F.ERR_Q_LOST_COUNT u → book fun v => v.mem = s.mem ∧
          (v.dev.eunit u).queue = unit.queue ∧ v.dev.fget F.ERR_Q_STATUS_MULTI u = 1 ∧
          v.dev.fget F.ERR_Q_LOST_COUNT u = s.dev.fget F.ERR_Q_LOST_COUNT u + 1)) ∧
      (classOutcome f.cls = 3 →
        (∀ i, s.mem.scrubFind f.cls f.addr = some i → s.dev.burstBad (scrubBase + 32 * i) = false →
          s.dev.canCount F.ERR_Q_MERGED_COUNT u → book fun v => (v.dev.eunit u).queue = unit.queue ∧
            s.storedAt v .dram (scrubBase + 32 * i + 6) (toLe 2 (min 65535 (s.mem.num .dram (scrubBase + 32 * i + 6) 2 + 1))) ∧
            v.dev.fget F.ERR_Q_MERGED_COUNT u = s.dev.fget F.ERR_Q_MERGED_COUNT u + 1) ∧
        (s.mem.scrubFind f.cls f.addr = none → s.mem.scrubUsed.length < 65536 → s.dev.integ.crcDiff = [] → unit.queue.length < 8 →
          s.dev.canCount F.SDC_SCRUB_LIST_FILL_COUNT 0 → book fun v =>
            (v.dev.eunit u).queue = unit.queue ++ [errRecord f u 0 true] ∧
            (∃ i, s.storedAt v .dram (scrubBase + 32 * i) (errRecord f u 0 true)) ∧
            v.dev.fget F.SDC_SCRUB_LIST_FILL_COUNT = s.dev.fget F.SDC_SCRUB_LIST_FILL_COUNT + 1))) ∧
    (∀ r i, s.reaches r R.ERR_Q_CTRL .unit i → Gives (.errQueuePop r) s fun v => v.mem = s.mem ∧ v.dev.regs = s.dev.regs ∧
      (v.dev.eunit i).queue = (s.dev.eunit i).queue.drop 1 ∧ (v.dev.eunit i).pend = (s.dev.eunit i).pend) ∧
    (∀ r (burst : Fin 65536) (val : Word),
      let off := 0x3C00000 + 64 * burst.val
      let a := s.dev.dramWinAddr (reqIdx r) off
      let word (k : Nat) : Option Word := if k = 15 then some val else Sparse.get none s.dev.words (dramWordKey (reqIdx r) (a + 4 * k))
      let whole := ∀ k, k < 15 → (word k).isSome = true
      let commits (p : State → Prop) : Prop := Gives (.dramWindowCommit r burst val) s p
      s.dev.reachable (off + 60) = true → s.dev.noPass = true → s.dev.misuse (reqIdx r) (off + 60) (some val) = none →
      (a + 64 ≤ scrubBase ∨ scrubBase + 0x200000 ≤ a) →
      (s.dev.burstBad a = false ∨ whole → commits fun v => v.dev.burstBad a = false ∧
        (∀ k j, k < 16 → j < 4 → Sparse.get 0 v.mem.dram (a + 4 * k + j) = match word k with
          | some w => (toLe 4 w.toNat).getD j 0
          | none => Sparse.get 0 s.mem.dram (a + 4 * k + j)) ∧
        (∀ x, (x < a ∨ a + 64 ≤ x) → (x < scrubBase ∨ scrubBase + 0x200000 ≤ x) → Sparse.get 0 v.mem.dram x = Sparse.get 0 s.mem.dram x)) ∧
      (s.dev.burstBad a = true → ¬ whole → s.dev.dramClass a ≠ 0x03 → commits fun v => v.mem = s.mem ∧ v.dev.burstBad a = true ∧
        v.dev.fget F.SDC_WIN_STATUS_WR_ABORT (reqIdx r) = 1))

/-- The register operations of Drover put their result in rd and go on at the next word (R339, R347, R348). Beside the
rules, clauses rest on the model's choices of log 49. -/
def Obligations.register_operations_write_rd : Prop :=
  ∀ (s : State) (t : Fin 256) (rd rs1 rs2 : Fin 32), s.dev.issues t →
    let a := s.dev.gr t rs1
    let b := s.dev.gr t rs2
    let n := b.toNat % 32
    ∀ c v, (c, v) ∈ ([
      (.add t rd rs1 rs2, a + b),
      (.sub t rd rs1 rs2, a - b),
      (.and t rd rs1 rs2, a &&& b),
      (.or t rd rs1 rs2, a ||| b),
      (.xor t rd rs1 rs2, a ^^^ b),
      (.sll t rd rs1 rs2, a <<< n),
      (.srl t rd rs1 rs2, a >>> n),
      (.sra t rd rs1 rs2, BitVec.ofInt 32 (a.toInt / 2 ^ n)),
      (.slt t rd rs1 rs2, if a.toInt < b.toInt then 1 else 0),
      (.sltu t rd rs1 rs2, if a.toNat < b.toNat then 1 else 0),
      (.mul t rd rs1 rs2, BitVec.ofNat 32 (a.toNat * b.toNat)),
      (.mulhu t rd rs1 rs2, BitVec.ofNat 32 (a.toNat * b.toNat / 2 ^ 32))] : List (Instr × Word)) →
    ∃ u, exec c s = .next u ∧ u.mem = s.mem ∧ (s.atSlot t).retired u t rd v (((s.dev.thr t).pc + 4) % 2 ^ 32)

/-- The immediate operations, the shifts by a count, LUI and CLZ put their result in rd (R339, R347, R348). Beside the
rules, clauses rest on the model's choices of log 49. -/
def Obligations.immediate_operations_write_rd : Prop :=
  ∀ (s : State) (t : Fin 256) (rd rs1 sh : Fin 32) (imm : BitVec 16), s.dev.issues t →
    let a := s.dev.gr t rs1
    let next := ((s.dev.thr t).pc + 4) % 2 ^ 32
    (∀ c v, (c, v) ∈ ([
      (.addi t rd rs1 imm, BitVec.ofInt 32 (a.toInt + imm.toInt)),
      (.andi t rd rs1 imm, BitVec.ofNat 32 (a.toNat &&& imm.toNat)),
      (.ori t rd rs1 imm, BitVec.ofNat 32 (a.toNat ||| imm.toNat)),
      (.xori t rd rs1 imm, BitVec.ofNat 32 (a.toNat ^^^ imm.toNat)),
      (.slti t rd rs1 imm, if a.toInt < imm.toInt then 1 else 0),
      (.sltiu t rd rs1 imm, if a.toNat < (imm.signExtend 32).toNat then 1 else 0),
      (.slli t rd rs1 sh, a <<< sh.val),
      (.srli t rd rs1 sh, a >>> sh.val),
      (.srai t rd rs1 sh, BitVec.ofInt 32 (a.toInt / 2 ^ sh.val)),
      (.lui t rd imm, BitVec.ofNat 32 (imm.toNat * 65536))] : List (Instr × Word)) →
      ∃ u, exec c s = .next u ∧ u.mem = s.mem ∧ (s.atSlot t).retired u t rd v next) ∧
    (∀ n, n ≤ 32 → a.toNat < 2 ^ (32 - n) → (n < 32 → 2 ^ (31 - n) ≤ a.toNat) →
      ∃ u, exec (.clz t rd rs1) s = .next u ∧ u.mem = s.mem ∧ (s.atSlot t).retired u t rd (BitVec.ofNat 32 n) next)

/-- Branches go to PC + 4 + 4 x offset where they hold; JAL and JALR save PC + 4 in rd (R339, R347, R348). Beside the
rules, clauses rest on the model's choices of log 49. -/
def Obligations.branches_and_jumps_set_the_pc : Prop :=
  ∀ (s : State) (t : Fin 256) (rd rs1 rs2 : Fin 32) (off imm : BitVec 16) (far : BitVec 21), s.dev.issues t →
    let a := s.dev.gr t rs1
    let b := s.dev.gr t rs2
    let pc := BitVec.ofNat 32 (s.dev.thr t).pc
    (∀ c taken, (c, taken) ∈ ([
      (.beq t rs1 rs2 off, decide (a = b)),
      (.bne t rs1 rs2 off, decide (a ≠ b)),
      (.blt t rs1 rs2 off, decide (a.toInt < b.toInt)),
      (.bge t rs1 rs2 off, decide (b.toInt ≤ a.toInt)),
      (.bltu t rs1 rs2 off, decide (a.toNat < b.toNat)),
      (.bgeu t rs1 rs2 off, decide (b.toNat ≤ a.toNat))] : List (Instr × Bool)) →
      ∃ u, exec c s = .next u ∧ u.mem = s.mem ∧
        (s.atSlot t).retired u t 0 0 (if taken then pc + 4 + 4 * off.signExtend 32 else pc + 4).toNat) ∧
    (∃ u, exec (.jal t rd far) s = .next u ∧ u.mem = s.mem ∧
      (s.atSlot t).retired u t rd (pc + 4) (pc + 4 + 4 * far.signExtend 32).toNat) ∧
    (∃ u, exec (.jalr t rd rs1 imm) s = .next u ∧ u.mem = s.mem ∧
      (s.atSlot t).retired u t rd (pc + 4) ((a + imm.signExtend 32).toNat / 4 * 4))

/-- Loads from cluster memory put the extended value in rd (R341, R348, R15). Beside the rules, clauses rest on the
model's choices of log 49. -/
def Obligations.cluster_loads_read_stored_bytes : Prop :=
  ∀ (s : State) (t : Fin 256) (rd rs1 : Fin 32) (imm : BitVec 16), s.dev.issues t →
    let a := (s.dev.gr t rs1 + imm.signExtend 32).toNat
    let p := clusterAddr (t / 32) a
    let v := s.mem.num .cluster p
    a < 0x100000 → s.dev.wordBad 0x1D (p / 8) = false →
    ∀ c size w, (c, size, w) ∈ ([
      (.lb t rd rs1 imm, 1, (BitVec.ofNat 8 (v 1)).signExtend 32),
      (.lbu t rd rs1 imm, 1, BitVec.ofNat 32 (v 1)),
      (.lh t rd rs1 imm, 2, (BitVec.ofNat 16 (v 2)).signExtend 32),
      (.lhu t rd rs1 imm, 2, BitVec.ofNat 32 (v 2)),
      (.lw t rd rs1 imm, 4, BitVec.ofNat 32 (v 4))] : List (Instr × Nat × Word)) → a % size = 0 →
      ∃ u, exec c s = .next u ∧ u.mem = s.mem ∧ (s.atSlot t).retired u t rd w (((s.dev.thr t).pc + 4) % 2 ^ 32)

/-- Stores and atomics on cluster memory change the bytes at their address and no other (R341, R345, R348, R15).
Beside the rules, clauses rest on the model's choices of log 49. -/
def Obligations.cluster_stores_change_their_bytes : Prop :=
  ∀ (s : State) (t : Fin 256) (rd rs1 rs2 : Fin 32) (imm : BitVec 16), s.dev.issues t →
    let next := ((s.dev.thr t).pc + 4) % 2 ^ 32
    let b := s.dev.gr t rs2
    (let a := (s.dev.gr t rs1 + imm.signExtend 32).toNat
     a < 0x100000 →
      ∀ c size, (c, size) ∈ ([(.sb t rs2 rs1 imm, 1), (.sh t rs2 rs1 imm, 2), (.sw t rs2 rs1 imm, 4)] : List (Instr × Nat)) →
      a % size = 0 →
      ∃ u, exec c s = .next u ∧ s.storedAt u .cluster (clusterAddr (t / 32) a) (toLe size b.toNat) ∧ (s.atSlot t).retired u t 0 0 next) ∧
    (let a := (s.dev.gr t rs1).toNat
     let p := clusterAddr (t / 32) a
     let w := BitVec.ofNat 32 (s.mem.num .cluster p 4)
     a < 0x100000 → a % 4 = 0 → s.dev.wordBad 0x1D (p / 8) = false →
      (∃ u, exec (.aadd t rd rs1 rs2) s = .next u ∧ s.storedAt u .cluster p (toLe 4 (w + b).toNat) ∧ (s.atSlot t).retired u t rd w next) ∧
      (∃ u, exec (.aswap t rd rs1 rs2) s = .next u ∧ s.storedAt u .cluster p (toLe 4 b.toNat) ∧ (s.atSlot t).retired u t rd w next))

/-- An instruction that faults has no effect but the fault: recorded, and the handler entered (R341, R342, R345, R349,
R352, R355, R357, R364, R376). Beside the rules, clauses rest on the model's choices of log 13 and log 49. -/
def Obligations.faulting_instructions_enter_the_handler : Prop :=
  ∀ (s : State) (t : Fin 256) (rd rs1 rs2 : Fin 32) (imm : BitVec 16) (void : Bool), s.dev.issues t → s.dev.handles t →
    let a := (s.dev.gr t rs1 + imm.signExtend 32).toNat
    let b := (s.dev.gr t rs1).toNat
    let user := s.dev.userMode t = true
    ∀ c code addr h, (c, code, addr, h) ∈ ([
      (.lh t rd rs1 imm, 0x02, a, a % 2 ≠ 0),
      (.lhu t rd rs1 imm, 0x02, a, a % 2 ≠ 0),
      (.lw t rd rs1 imm, 0x02, a, a % 4 ≠ 0),
      (.sh t rs2 rs1 imm, 0x02, a, a % 2 ≠ 0),
      (.sw t rs2 rs1 imm, 0x02, a, a % 4 ≠ 0),
      (.lb t rd rs1 imm, 0x03, a, 0x100000 ≤ a ∧ a < 0x10000000),
      (.sb t rs2 rs1 imm, 0x03, a, 0x100000 ≤ a ∧ a < 0x10000000),
      (.lw t rd rs1 imm, 0x04, a, a % 4 = 0 ∧ inRegWin a = true ∧ user),
      (.sw t rs2 rs1 imm, 0x04, a, a % 4 = 0 ∧ inRegWin a = true ∧ user),
      (.aadd t rd rs1 rs2, 0x02, b, b % 4 ≠ 0),
      (.aswap t rd rs1 rs2, 0x02, b, b % 4 ≠ 0),
      (.aadd t rd rs1 rs2, 0x05, b, b % 4 = 0 ∧ 0x100000 ≤ b),
      (.aswap t rd rs1 rs2, 0x05, b, b % 4 = 0 ∧ 0x100000 ≤ b),
      (.isync t, 0x04, 0, user),
      (.gettask t rd, 0x04, 0, user),
      (.donetask t rs1 rs2 void, 0x04, 0, user),
      (.donetask t rs1 rs2 void, 0x09, 0, ¬ user ∧ (s.dev.thr t).task ≠ some b),
      (.rft t, 0x01, 0, True),
      (.brk t, 0x0B, 0, s.dev.fon F.DBG_CTRL_BRK_EN t = false),
      (.chcommit t rd rs1, 0x08, 0, s.dev.chanOn (b % 256) = false)] : List (Instr × Nat × Nat × Prop)) →
    h → Gives c s fun u => (s.atSlot t).faulted u t code addr

/-- A fault in a trap, or without a handler, is a double fault: the thread halts as DFAULT (R352, R354). Beside the
rules, clauses rest on the model's choices of log 49. -/
def Obligations.a_fault_in_a_trap_halts_the_thread : Prop :=
  ∀ (s : State) (t : Fin 256) (rd rs1 : Fin 32) (imm : BitVec 16), s.dev.issues t → ¬ s.dev.handles t →
    let a := (s.dev.gr t rs1 + imm.signExtend 32).toNat
    a % 4 ≠ 0 → Gives (.lw t rd rs1 imm) s fun u => u.mem = s.mem ∧ u.dev.tstate t = 5 ∧
      u.dev.fget F.DBG_STATUS_HALTED t = 1 ∧ u.dev.fget F.DBG_STATUS_CAUSE t = 5 ∧
      u.dev.fget F.THREAD_FAULT_PC_PC t = (s.dev.thr t).pc % 2 ^ 32 ∧ u.dev.fget F.THREAD_FAULT_CODE_CODE t = 2 ∧
      u.dev.fget F.THREAD_FAULT_ADDR_ADDR t = a ∧ ∀ r, u.dev.gr t r = s.dev.gr t r

/-- MFSR, MTSR, FENCE, ISYNC, WAIT, RFT and BRK do what the rules say (R344, R346, R349, R350, R355, R364). Beside the
rules, clauses rest on the model's choices of log 14 and log 49. -/
def Obligations.control_register_instructions : Prop :=
  ∀ (s : State) (t : Fin 256) (rd rs1 rs2 : Fin 32), s.dev.issues t →
    let next := ((s.dev.thr t).pc + 4) % 2 ^ 32
    let v := (s.dev.gr t rs1).toNat
    let z := s.atSlot t
    (∀ (sr : Fin 32) (x : Nat), (sr, x) ∈ ([(0, t.val), (1, s.dev.fget F.THREAD_TCMP_NS_NS t), (2, s.dev.fget F.THREAD_TCMP_SEC_SEC t),
        (3, s.dev.fget F.THREAD_HANDLER_PC t), (4, s.dev.fget F.THREAD_FAULT_PC_PC t), (5, s.dev.fget F.THREAD_FAULT_CODE_CODE t),
        (6, s.dev.fget F.THREAD_FAULT_ADDR_ADDR t), (7, s.dev.fget F.THREAD_WMASK_MASK t), (8, z.dev.ntuNsec),
        (9, (s.dev.thr t).ntuSec), (10, z.dev.cycle)] : List (Fin 32 × Nat)) →
      Gives (.mfsr t rd sr) s fun u => u.mem = s.mem ∧ z.retired u t rd (BitVec.ofNat 32 x) next ∧
        (sr = 8 → (u.dev.thr t).ntuSec = z.dev.ntuSec % 2 ^ 32)) ∧
    (∀ (sr : Fin 32) (f : Fld), (sr, f) ∈ ([(1, F.THREAD_TCMP_NS_NS), (2, F.THREAD_TCMP_SEC_SEC), (7, F.THREAD_WMASK_MASK),
        (3, F.THREAD_HANDLER_PC), (4, F.THREAD_FAULT_PC_PC)] : List (Fin 32 × Fld)) →
      (sr = 3 ∨ sr = 4 → s.dev.userMode t = false) →
      Gives (.mtsr t rs1 sr) s fun u => u.mem = s.mem ∧ ({ z with dev := z.dev.fset f t v } : State).retired u t 0 0 next) ∧
    ((s.dev.thr t).posted = [] → Gives (.fence t) s fun u => u.mem = s.mem ∧ z.retired u t 0 0 next) ∧
    ((s.dev.thr t).posted ≠ [] → Gives (.fence t) s fun u => z.waits u t 1 .fence) ∧
    (s.dev.userMode t = false → Gives (.isync t) s fun u => u.mem = s.mem ∧
      ({ z with dev.drv.icache := upd0 z.dev.drv.icache (t / 8) (fun _ => []) } : State).retired u t 0 0 next) ∧
    (s.dev.fget F.THREAD_STATUS_IN_TRAP t = 1 → Gives (.rft t) s fun u => u.mem = s.mem ∧
      ({ z with dev := z.dev.fset F.THREAD_STATUS_IN_TRAP t 0 } : State).retired u t 0 0 (s.dev.fget F.THREAD_FAULT_PC_PC t)) ∧
    (s.dev.fon F.DBG_CTRL_BRK_EN t = true → Gives (.brk t) s fun u => z.waits u t 4 .none ∧
      u.dev.fget F.DBG_STATUS_HALTED t = 1 ∧ u.dev.fget F.DBG_STATUS_CAUSE t = 4 ∧
      u.dev.fget F.DBG_PC_PC t = (s.dev.thr t).pc % 2 ^ 32) ∧
    (s.dev.fon F.THREAD_CFG_WAIT_MODE t = true →
      Gives (.wait t rs1 rs2) s fun u => z.waits u t 2 (.wait v (s.dev.gr t rs2)))

/-- CHWR and CHSTG fill the staging slot, CHCOMMIT appends it or answers 0, CHRECV takes the head message, CHCOUNT
counts (R356, R357, R358, R348). Beside the rules, clauses rest on the model's choices of log 15 and log 49. -/
def Obligations.channel_instructions : Prop :=
  ∀ (s : State) (t : Fin 256) (rd rs1 rs2 : Fin 32) (w : Fin 16) (imm : BitVec 16), s.dev.issues t →
    let next := ((s.dev.thr t).pc + 4) % 2 ^ 32
    let c := (s.dev.gr t rs1).toNat % 256
    let x := s.dev.chan c
    let z := s.atSlot t
    (Gives (.chwr t rs2 w) s fun u => u.mem = s.mem ∧
      ({ z with dev := z.dev.updThr t (fun y => { y with stage := Sparse.set 0 y.stage w.val (s.dev.gr t rs2) }) } : State).retired u t 0 0 next) ∧
    (let a := (s.dev.gr t rs1 + imm.signExtend 32).toNat
     a % 64 = 0 → a < 0x100000 → (∀ k, k < 8 → s.dev.wordBad 0x1D (clusterAddr (t / 32) a / 8 + k) = false) →
      Gives (.chstg t rs1 imm) s fun u => u.mem = s.mem ∧ (u.dev.thr t).pc = next ∧
      (∀ r, u.dev.gr t r = s.dev.gr t r) ∧ ∀ k, k < 16 →
        Sparse.get 0 (u.dev.thr t).stage k = BitVec.ofNat 32 (s.mem.num .cluster (clusterAddr (t / 32) a + 4 * k) 4)) ∧
    (c < 240 → s.dev.fon F.DRV_CHAN_CFG_ENABLE c = true → (s.dev.thr t).posted = [] →
      (x.vis + x.com.length < s.dev.chanDepth c → Gives (.chcommit t rd rs1) s fun u => u.mem = s.mem ∧
        (u.dev.chan c).com = x.com ++ [s.dev.stageBytes t] ∧ (u.dev.chan c).vis = x.vis ∧ (u.dev.thr t).stage = [] ∧
        (rd ≠ 0 → u.dev.gr t rd = 1) ∧ (u.dev.thr t).pc = next) ∧
      (s.dev.chanDepth c ≤ x.vis + x.com.length → Gives (.chcommit t rd rs1) s fun u => u.mem = s.mem ∧
        u.dev.drv.chans = s.dev.drv.chans ∧ (rd ≠ 0 → u.dev.gr t rd = 0) ∧ (u.dev.thr t).stage = (s.dev.thr t).stage ∧
        (u.dev.thr t).pc = next)) ∧
    (let a := (s.dev.gr t rs2).toNat
     c < 240 → s.dev.chanMine t c = true → a % 64 = 0 → a < 0x100000 →
      (0 < x.vis → (∀ k, k < 8 → s.dev.wordBad 0x1D (s.dev.ringPlace c x.head / 8 + k) = false) → Gives (.chrecv t rd rs1 rs2) s fun u =>
        s.storedAt u .cluster (clusterAddr (t / 32) a) (s.mem.read .cluster (s.dev.ringPlace c x.head) 64) ∧
        (u.dev.chan c).vis = x.vis - 1 ∧ (u.dev.chan c).head = (x.head + 1) % 4096 ∧ (rd ≠ 0 → u.dev.gr t rd = 1)) ∧
      (x.vis = 0 → Gives (.chrecv t rd rs1 rs2) s fun u => u.mem = s.mem ∧ z.retired u t rd 0 next)) ∧
    (240 ≤ c ∨ s.dev.chanMine t c = true → Gives (.chcount t rd rs1) s fun u => u.mem = s.mem ∧
      z.retired u t rd (BitVec.ofNat 32 (s.dev.chanVisible c)) next)

/-- A committed message becomes visible in its ring place; a flush discards visible messages; injection and stalls
(R310, R357, R358, R360, R362). Beside the rules, clauses rest on the model's choices of log 8. -/
def Obligations.channel_messages_become_visible : Prop :=
  ∀ (s : State), s.dev.running = true →
    (∀ (ch : Fin 256) msg com, ch.val < 240 → (s.dev.chan ch).com = msg :: com → s.dev.engineOf 0 ch = none →
      let x := s.dev.chan ch
      Gives (.channelMessageVisible ch) s fun u =>
        s.storedAt u .cluster (s.dev.ringPlace ch (x.head + x.vis)) msg ∧ (u.dev.chan ch).vis = x.vis + 1 ∧
        (u.dev.chan ch).com = com ∧ (u.dev.chan ch).head = x.head ∧ u.dev.regs = s.dev.regs) ∧
    (∀ r i, s.reaches r R.DRV_CHAN_FLUSH .chan i → i < 240 → Gives (.channelFlush r) s fun u => u.mem = s.mem ∧
      (u.dev.chan i).vis = 0 ∧ (u.dev.chan i).com = (s.dev.chan i).com ∧ u.dev.regs = s.dev.regs ∧
      ∀ j, j ≠ i → u.dev.chan j = s.dev.chan j) ∧
    (∀ (sl : Fin 16) e rest, at0 s.dev.drv.injQ sl = e :: rest → e.visible = true → s.dev.stb.unordered = [] →
      dnum e.desc 8 1 = 0x13 → s.dev.fget (F.DRV_INJ_DROP_COUNT.nth sl) 0 + 1 < 2 ^ 32 →
      Gives (.injectionDescriptor sl) s fun u => u.mem = s.mem ∧ at0 u.dev.drv.injQ sl = rest ∧
        u.dev.fget (F.DRV_INJ_DROP_COUNT.nth sl) 0 = s.dev.fget (F.DRV_INJ_DROP_COUNT.nth sl) 0 + 1 ∧ u.dev.bufs = s.dev.bufs ∧
        u.dev.drvInj = s.dev.drvInj) ∧
    (∀ (sl : Fin 16) e rest sp p, at0 s.dev.drv.injQ sl = e :: rest → e.visible = true → s.dev.stb.unordered = [] →
      let len := dnum e.desc 4 2 % 16384
      let port := dnum e.desc 6 2 % 512
      let kind := dnum e.desc 8 1 % 4
      kind < 3 → 60 ≤ len → len ≤ 8192 → e.task = true ∨ sliceOf port = sl → s.dev.mapAddr (dnum e.desc 0 4) = some (sp, p) →
      (sp = .dram → s.dev.bufReady = true ∧ s.dev.badIn p len = []) →
      (sp ≠ .dram → ∀ k, k < (p % 8 + len + 7) / 8 → s.dev.wordBad 0x1E (p / 8 + k) = false) →
      Gives (.injectionDescriptor sl) s fun u => u.mem = s.mem ∧ at0 u.dev.drv.injQ sl = rest ∧ u.dev.bufs = s.dev.bufs ∧
        ∃ j, at0 u.dev.drvInj sl = at0 s.dev.drvInj sl ++ [j] ∧ j.data = s.mem.read sp p len ∧ j.port = port ∧ j.kind = kind ∧
          j.tag = dnum e.desc 10 2 ∧ ∀ n, n ≠ sl.val → at0 u.dev.drvInj n = at0 s.dev.drvInj n) ∧
    (∀ (k : Fin 8) c, Sparse.get none s.dev.drv.stallSince k = some c → s.dev.fget F.DRV_CL_STALL_LIMIT_CYCLES k ≠ 0 →
      Gives (.clusterStall k) s fun u => u.mem = s.mem ∧ u.dev.fget F.DRV_CL_STATUS_STALL_ALL k = 1)

/-- GETTASK waits, TASK_HANDOFF hands a task, DONETASK completes it, BUFGET and BUFPUT take and free buffers (R372,
R373, R376, R383, R385). Beside the rules, clauses rest on the model's choices of log 49. -/
def Obligations.tasks_and_buffers_of_threads : Prop :=
  ∀ (s : State) (t : Fin 256) (rd rs1 rs2 : Fin 32) (void : Bool),
    (s.dev.issues t → 
      let next := ((s.dev.thr t).pc + 4) % 2 ^ 32
      let a := (s.dev.gr t rs1).toNat
      (s.dev.userMode t = false → (s.dev.thr t).task = none →
        Gives (.gettask t rd) s fun u => (s.atSlot t).waits u t 3 (.task rd (s.atSlot t).dev.cycle)) ∧
      (s.dev.userMode t = false → (s.dev.thr t).task = some a → (s.dev.thr t).posted = [] → (s.dev.task (a % 4096)).ordered = true →
        Gives (.donetask t rs1 rs2 void) s fun u => u.mem = s.mem ∧ (u.dev.thr t).task = none ∧ (u.dev.thr t).pc = next ∧
          (u.dev.task (a % 4096)).st = .doneWait ∧
          ∃ w, at0 u.dev.stb.waiters (s.dev.task (a % 4096)).group = at0 s.dev.stb.waiters (s.dev.task (a % 4096)).group ++ [w] ∧
            w.ticket = (s.dev.task (a % 4096)).ticket ∧ w.task = some (a % 4096) ∧ (void = true → w.out = .void)) ∧
      (∀ i, poolFor a < 8 → s.dev.fon F.BPM_POOL_CFG_SPILL_UP (poolFor a) = false →
        (s.dev.lowestFree (poolFor a) = some i → s.dev.wordBad 0x1F (bufKey (poolFor a) i) = false →
          Gives (.bufget t rd rs1) s fun u => u.mem = s.mem ∧
            (rd ≠ 0 → u.dev.gr t rd = BitVec.ofNat 32 (s.dev.bufAddr (poolFor a) i)) ∧ (u.dev.thr t).pc = next ∧
            u.dev.buf (poolFor a) i = { owner := t, held := true, quar := false } ∧
            ∀ p j, bufKey p j ≠ bufKey (poolFor a) i → u.dev.buf p j = s.dev.buf p j) ∧
        (s.dev.lowestFree (poolFor a) = none → Gives (.bufget t rd rs1) s fun u => u.mem = s.mem ∧ u.dev.bufs = s.dev.bufs ∧
            (rd ≠ 0 → u.dev.gr t rd = 0) ∧ (u.dev.thr t).pc = next)) ∧
      (∀ p i, s.dev.bufAt a = some (p, i) → (s.dev.buf p i).quar = false → s.dev.wordBad 0x1F (bufKey p i) = false →
        ((s.dev.buf p i).owner = t → (s.dev.buf p i).held = true → Gives (.bufput t rd rs1) s fun u => u.mem = s.mem ∧
          (rd ≠ 0 → u.dev.gr t rd = 0) ∧ (u.dev.buf p i).held = false ∧ (u.dev.thr t).pc = next) ∧
        ((s.dev.buf p i).owner ≠ t → Gives (.bufput t rd rs1) s fun u => u.mem = s.mem ∧
          (rd ≠ 0 → u.dev.gr t rd = 1) ∧ u.dev.bufs = s.dev.bufs ∧ (u.dev.thr t).pc = next))) ∧
    (∀ (k : Fin 8) i x n r, s.dev.running = true →
      let d := s.dev.ticked
      d.bestTask k = some (i, x) → d.bestThread k = some (n, r) → d.bufReady = true → d.badIn (d.taskAddr i) 64 = [] →
      Gives (.taskHandoff k) s fun u =>
        s.storedAt u .cluster (clusterAddr (n / 32) (d.taskSlot n)) (s.mem.read .dram (d.taskAddr i) 64) ∧
        (u.dev.thr n).task = some (handleOf i (d.task i).gen) ∧ (u.dev.task i).st = .handed ∧
        (r ≠ 0 → u.dev.gr n r = BitVec.ofNat 32 (handleOf i x.gen)))

/-- Waiting loads, window accesses, fills, posted stores and waits end as their rules say (R338, R342, R344, R346,
R350, R353). Beside the rules, clauses rest on the model's choices of log 8 and log 41. -/
def Obligations.waiting_accesses_of_threads_end : Prop :=
  ∀ (s : State) (t : Fin 256),
    (∀ rd a size sg sp p, (s.dev.thr t).hold = .load rd a size sg → s.dev.mapAddr a = some (sp, p) → s.dev.badIn p size = [] →
      Gives (.dramLoadComplete t) s fun u => u.mem = s.mem ∧ (u.dev.thr t).hold = .none ∧
        (u.dev.thr t).pc = ((s.dev.thr t).pc + 4) % 2 ^ 32 ∧
        ((s.dev.thr t).posted = [] → rd ≠ 0 → u.dev.gr t rd = extendLoad size sg (s.mem.read .dram p size))) ∧
    (∀ rd off, (s.dev.thr t).hold = .regLoad rd off → s.dev.noPass = true → s.dev.misuse (reqIdx (.thread t)) off none = none →
      Gives (.regwinAccessDone t) s fun u => (u.dev.thr t).hold = .none ∧
        (rd ≠ 0 → u.dev.gr t rd = (s.blk.regRead (reqIdx (.thread t)) off).1)) ∧
    (∀ line p, (s.dev.thr t).hold = .fill line → s.dev.mapAddr line = some (.dram, p) → s.dev.badIn p 64 = [] →
      (s.dev.thr t).stepping = false → (at0 s.dev.drv.icache (t / 8)).length < 512 → s.dev.cacheLine t line = none →
      Gives (.icacheFillDone t) s fun u => u.mem = s.mem ∧ u.dev.cacheLine t line = some (s.mem.read .dram p 64) ∧
        (u.dev.thr t).hold = .none ∧ (u.dev.thr t).pc = (s.dev.thr t).pc) ∧
    (∀ x sp p, (s.dev.thr t).posted = [x] → s.dev.mapAddr x.addr = some (sp, p) → s.dev.burstBad p = false →
      Gives (.postedStoreDone t 0) s fun u => s.storedAt u .dram p x.data ∧ (u.dev.thr t).posted = []) ∧
    (∀ x, (s.dev.thr t).posted = [x] → (s.dev.thr t).hold = .none → Gives (.storeFailFault t 0) s fun u => u.mem = s.mem ∧
      (u.dev.thr t).posted = []) ∧
    (∀ a v, (s.dev.thr t).hold = .wait a v → s.dev.tstate t = 2 → s.dev.fon F.THREAD_CFG_WAKE_EN t = false → s.dev.noPass = true →
      s.dev.fon F.THREAD_CFG_WAIT_MODE t = false → a < 0x100000 → s.dev.wordBad 0x1D (clusterAddr (t / 32) a / 8) = false →
      let w := BitVec.ofNat 32 (s.mem.num .cluster (clusterAddr (t / 32) a) 4) &&& s.dev.rget R.THREAD_WMASK t
      (w = v → Gives (.waitEnd t) s fun u => u.mem = s.mem ∧ (s.atSlot t).retired u t 0 0 (((s.dev.thr t).pc + 4) % 2 ^ 32)) ∧
      (w ≠ v → exec (.waitEnd t) s = .next (s.atSlot t)))

/-- START, HALT, RESUME, STEP, CHDISCARD and breakpoints act on the selected thread (R340, R363, R364, R365). Beside
the rules, clauses rest on the model's choices of log 49. -/
def Obligations.debugger_commands : Prop :=
  ∀ (s : State) (r : Req) (t : Nat), t < 256 →
    (s.reaches r R.THREAD_CTRL .thread t →
      (s.dev.tstate t = 0 → s.dev.clusterHeld (t / 32) = false → Gives (.threadStart r) s fun u => u.mem = s.mem ∧
        u.dev.tstate t = 1 ∧ (u.dev.thr t).pc = s.dev.fget F.THREAD_ENTRY_PC t ∧ (∀ g, u.dev.gr t g = 0) ∧
        (u.dev.thr t).stage = [] ∧ u.dev.fget F.THREAD_STATUS_IN_TRAP t = 0) ∧
      (s.dev.tstate t ≠ 0 → exec (.threadStart r) s = .next s)) ∧
    (s.reaches r R.DBG_CTRL .thread t →
      (s.dev.tstate t = 1 → (s.dev.thr t).hold = .none → Gives (.debugHalt r) s fun u => s.waits u t 4 .none ∧
        u.dev.fget F.DBG_STATUS_HALTED t = 1 ∧ u.dev.fget F.DBG_STATUS_CAUSE t = 1 ∧
        u.dev.fget F.DBG_PC_PC t = (s.dev.thr t).pc % 2 ^ 32) ∧
      (s.dev.tstate t = 4 → (s.dev.thr t).hold = .none → Gives (.debugResume r) s fun u => u.mem = s.mem ∧ u.dev.tstate t = 1 ∧
        u.dev.fget F.DBG_STATUS_HALTED t = 0 ∧ (u.dev.thr t).pc = s.dev.fget F.DBG_PC_PC t ∧
        ∀ g, u.dev.gr t g = s.dev.gr t g) ∧
      (s.dev.isHalted t = false → exec (.debugStep r) s = .next s) ∧
      (s.dev.isHalted t = true → s.dev.fget F.DBG_PC_PC t % 4 = 0 → s.dev.fget F.DBG_PC_PC t < 0x100000 →
        (let p := clusterAddr (t / 32) (s.dev.fget F.DBG_PC_PC t)
         s.dev.wordBad 0x1D (p / 8) = false → BitVec.ofNat 32 (s.mem.num .cluster p 4) = (0 : Word) →
        (s.dev.thr t).storeFail = none →
        Gives (.debugStep r) s fun u => u.mem = s.mem ∧ u.dev.tstate t = 4 ∧ u.dev.fget F.DBG_STATUS_CAUSE t = 2 ∧
          u.dev.fget F.DBG_PC_PC t = s.dev.fget F.DBG_PC_PC t + 4 ∧ ∀ g, u.dev.gr t g = s.dev.gr t g)) ∧
      (s.dev.isHalted t = true → Gives (.debugChdiscard r) s fun u => u.mem = s.mem ∧ (u.dev.thr t).stage = [] ∧
        u.dev.regs = s.dev.regs ∧ u.dev.drv.chans = s.dev.drv.chans) ∧
      (s.dev.isHalted t = false → s.dev.fget F.DRV_REFUSED_COUNT 0 + 1 < 2 ^ F.DRV_REFUSED_COUNT.w →
        Gives (.debugChdiscard r) s fun u => u.mem = s.mem ∧ u.dev.drv = s.dev.drv ∧
          u.dev.fget F.DRV_REFUSED_COUNT 0 = s.dev.fget F.DRV_REFUSED_COUNT 0 + 1)) ∧
    (∀ n : Fin 256, s.dev.running = true → s.dev.tstate n = 1 → (s.dev.thr n).hold = .none → s.dev.atBreak n = true →
      Gives (.breakpointHit n) s fun u => s.waits u n 4 .none ∧ u.dev.fget F.DBG_STATUS_CAUSE n = 3 ∧
        u.dev.fget F.DBG_PC_PC n = (s.dev.thr n).pc % 2 ^ 32)

/-- POST creates a task, CANCEL frees one that waits, VOID ends a handed one (R371, R373, R374, R378). Beside the
rules, clauses rest on the model's choices of log 19. -/
def Obligations.software_task_operations : Prop :=
  ∀ (s : State) (r : Req) (delay : BitVec 24), s.reaches r R.STB_POST_CTRL .req (reqIdx r) →
    let q := reqIdx r
    let d := s.dev.toBuf.ticked
    let e := s.dev.ticked
    let used := d.taskCount (fun t => t.kind == 0)
    let h := s.dev.fget F.STB_POST_ARG_HANDLE q
    let ends (u : State) (n : Nat) : Prop := u.dev.fget F.STB_POST_STATUS_DONE q = 1 ∧ u.dev.fget F.STB_POST_STATUS_ERR q = n
    (∀ i, used < s.dev.fget F.STB_ROUTE_QUOTA_COUNT 0 → d.freeTask.1 = some i → i < 4096 →
      Gives (.stbPost r delay) s fun u => ends u 0 ∧
        u.dev.fget F.STB_POST_STATUS_HANDLE q = handleOf i (d.task i).gen % 2 ^ F.STB_POST_STATUS_HANDLE.w ∧
        (u.dev.task i).st = (if delay = 0 then .ready else .delayed) ∧ (u.dev.task i).gen = (d.task i).gen ∧
        ∃ bs, bs.length = 64 ∧ s.storedAt u .dram (d.taskAddr i) bs) ∧
    (s.dev.fget F.STB_ROUTE_QUOTA_COUNT 0 ≤ used →
      Gives (.stbPost r delay) s fun u => u.mem = s.mem ∧ ends u 2 ∧ u.dev.stb = d.stb) ∧
    (∀ i, e.byHandle h = some i → (e.task i).st = .ready ∨ (e.task i).st = .delayed →
      Gives (.stbCancel r) s fun u => u.mem = s.mem ∧ ends u 0 ∧ (u.dev.task i).st = .free ∧
        ((e.task i).ordered = true → ∃ w, at0 u.dev.stb.waiters (e.task i).group =
          at0 e.stb.waiters (e.task i).group ++ [w] ∧ w.ticket = (e.task i).ticket ∧ w.out = .void)) ∧
    (e.byHandle h = none →
      (Gives (.stbCancel r) s fun u => u.mem = s.mem ∧ ends u 3 ∧ u.dev.stb = e.stb) ∧
      (Gives (.stbVoid r) s fun u => u.mem = s.mem ∧ ends u 3 ∧ u.dev.stb = e.stb)) ∧
    (∀ i, e.byHandle h = some i →
      ((e.task i).st = .handed → Gives (.stbVoid r) s fun u => u.mem = s.mem ∧ ends u 0 ∧
        (u.dev.thr (e.task i).thread).task = none ∧ (u.dev.task i).st ≠ .handed) ∧
      ((e.task i).st ≠ .handed → Gives (.stbVoid r) s fun u => u.mem = s.mem ∧ ends u 4 ∧ u.dev.stb = e.stb))

/-- Hardware posts, delay ticks, ordered releases and stuck groups (R369, R370, R375, R377, R378, R379). Beside the
rules, clauses rest on the model's choices of log 8 and log 117. -/
def Obligations.stable_events : Prop :=
  ∀ (s : State), s.dev.running = true →
    (∀ p rest, let d := s.dev.beginAll.ticked
      d.stb.posts = p :: rest → p.want = 0 →
      let used := d.taskCount (fun t => t.kind == p.kind)
      (∀ i, used < d.fget F.STB_ROUTE_QUOTA_COUNT p.kind → d.freeTask.1 = some i → d.bufReady = true →
        Gives .taskPost s fun u => u.dev.stb.posts = rest ∧ (u.dev.task i).st = .ready ∧ (u.dev.task i).kind = p.kind ∧
          (u.dev.task i).prio = d.fget F.STB_ROUTE_PRIO p.kind ∧ (u.dev.task i).gen = (d.task i).gen) ∧
      (∀ i, used < d.fget F.STB_ROUTE_QUOTA_COUNT p.kind → d.freeTask.1 = some i → d.bufReady = false →
        exec .taskPost s = .next { s with dev := d }) ∧
      (d.fget F.STB_ROUTE_QUOTA_COUNT p.kind ≤ used → p.failCnt = none → p.kind < 2 ^ 20 →
        d.fget F.STB_KIND_DROP_COUNT p.kind + 1 < 2 ^ 32 →
        Gives .taskPost s fun u => u.mem = s.mem ∧ u.dev.stb.posts = rest ∧ u.dev.stb.tasks = d.stb.tasks ∧
          u.dev.fget F.STB_KIND_DROP_COUNT p.kind = d.fget F.STB_KIND_DROP_COUNT p.kind + 1)) ∧
    (s.dev.life.begun = true → s.dev.tickCycles ≠ 0 →
      let n := s.dev.ticksNow + 1
      Gives .delayTick s fun u => u.mem = s.mem ∧ u.dev.stb.ticks = n ∧ u.dev.cycle = s.dev.stb.tickBase + n * s.dev.tickCycles ∧
      (∀ e ∈ s.dev.stb.tasks, e.2.st = .delayed → e.2.due ≤ n → (u.dev.task e.1).st = .ready) ∧
      ∀ i, (∀ e ∈ s.dev.stb.tasks, e.1 = i → ¬ (e.2.st = .delayed ∧ e.2.due ≤ n)) → u.dev.task i = s.dev.task i) ∧
    (∀ (g : Fin 256) w, let p := s.dev.fget F.STB_GROUP_REL_TICKET g
      (at0 s.dev.stb.waiters g).find? (fun w => w.ticket == p) = some w → w.out = .void →
      Gives (.orderedRelease g) s fun u => u.mem = s.mem ∧ at0 u.dev.stb.waiters g = (at0 s.dev.stb.waiters g).erase w ∧
        u.dev.fget F.STB_GROUP_REL_TICKET g = (p + 1) % 2 ^ F.STB_GROUP_REL_TICKET.w) ∧
    (∀ (g : Fin 256) w ws, let p := s.dev.fget F.STB_GROUP_REL_TICKET g
      at0 s.dev.stb.waiters g = w :: ws → (w :: ws).any (fun x => x.ticket == p) = false → s.dev.fget F.STB_STUCK_US_US ≠ 0 →
      s.dev.stb.stuckTold.contains g.val = false →
      Gives (.groupStuck g) s fun u => u.mem = s.mem ∧ u.dev.fget F.STB_GROUP_STATUS_STUCK g = 1 ∧ u.dev.stb.waiters = s.dev.stb.waiters ∧
        u.dev.stb.tasks = s.dev.stb.tasks)

/-- BPM GET hands out the lowest free buffer, PUT frees only for its owner, XFER changes the owner (R383, R385, R386).
Beside the rules, clauses rest on the model's choices of log 19. -/
def Obligations.buffer_pool_operations : Prop :=
  ∀ (s : State) (r : Req), s.reaches r R.BPM_OP_CTRL .req (reqIdx r) →
    let q := reqIdx r
    let size := s.dev.fget F.BPM_OP_SIZE_BYTES q
    let a := s.dev.fget F.BPM_OP_ADDR_ADDR q
    let p := poolFor size
    let ends (u : State) (e : Nat) : Prop := u.mem = s.mem ∧ u.dev.fget F.BPM_OP_STATUS_DONE q = 1 ∧ u.dev.fget F.BPM_OP_STATUS_ERR q = e
    (∀ i, p < 8 → s.dev.fon F.BPM_POOL_CFG_SPILL_UP p = false → s.dev.lowestFree p = some i → s.dev.wordBad 0x1F (bufKey p i) = false → 0 < s.dev.bufAddr p i →
      s.dev.bufAddr p i < 2 ^ 32 →
      Gives (.bpmGet r) s fun u => ends u 0 ∧ u.dev.fget F.BPM_OP_ADDR_ADDR q = s.dev.bufAddr p i ∧
        u.dev.buf p i = { owner := ownerOf r, held := true, quar := false } ∧
        ∀ n j, bufKey n j ≠ bufKey p i → u.dev.buf n j = s.dev.buf n j) ∧
    (p < 8 → s.dev.fon F.BPM_POOL_CFG_SPILL_UP p = false → s.dev.lowestFree p = none →
      Gives (.bpmGet r) s fun u => ends u 1 ∧ u.dev.fget F.BPM_OP_ADDR_ADDR q = 0 ∧ u.dev.bufs = s.dev.bufs) ∧
    (∀ n i, s.dev.bufAt a = some (n, i) → (s.dev.buf n i).quar = false → s.dev.wordBad 0x1F (bufKey n i) = false →
      ((s.dev.buf n i).owner = ownerOf r → (s.dev.buf n i).held = true →
        (Gives (.bpmPut r) s fun u => ends u 0 ∧ u.dev.buf n i = { s.dev.buf n i with held := false }) ∧
        (Gives (.bpmXfer r) s fun u => ends u 0 ∧
          u.dev.buf n i = { s.dev.buf n i with owner := s.dev.fget F.BPM_OP_OWNER_OWNER q })) ∧
      ((s.dev.buf n i).owner ≠ ownerOf r →
        (Gives (.bpmPut r) s fun u => ends u 2 ∧ u.dev.bufs = s.dev.bufs) ∧
        (Gives (.bpmXfer r) s fun u => ends u 2 ∧ u.dev.bufs = s.dev.bufs)))

/-- FREEZE sets its bit, CLEAR zeroes every counter, a sample record takes the next place of its buffer (R394, R397,
R398). -/
def Obligations.performance_monitor_commands : Prop :=
  ∀ (s : State) (r : Req),
    (s.reaches r R.PMU_CTRL .dev 0 →
      (∀ v, Gives (.pmuFreeze r v) s fun u => u.mem = s.mem ∧ u.dev.fon F.PMU_CTRL_FREEZE = v) ∧
      (Gives (.pmuClear r) s fun u => u.mem = s.mem ∧
        s.dev.regsBut u.dev ((List.range 8).map (fun k => (R.PMU_SMP_LOST, k))) ∧ (∀ k, u.dev.pmuGet k = 0) ∧
        (∀ k, k < 8 → u.dev.fget F.PMU_SMP_LOST_COUNT k = 0) ∧
        ∀ e ∈ u.dev.pmu.smp, e.2.left = some (s.dev.fget F.PMU_SMP_N_N e.1))) ∧
    (∀ (k : Fin 8) rec1 due, s.dev.running = true → (at0 s.dev.pmu.smp k).due = rec1 :: due → (at0 s.dev.pmu.smp k).fill < 1024 →
      let wr := s.dev.fget F.PMU_SMP_WR_INDEX k
      Gives (.samplerRecord k) s fun u => u.mem = s.mem ∧ (at0 u.dev.pmu.smp k).due = due ∧
        Sparse.get [] (at0 u.dev.pmu.smp k).buf wr = rec1 ∧ (at0 u.dev.pmu.smp k).fill = (at0 s.dev.pmu.smp k).fill + 1 ∧
        u.dev.fget F.PMU_SMP_WR_INDEX k = (wr + 1) % 1024)
end

