-- ==== Sys2Proof/Laws/Sparse.lean ====
section
/-! SUPPORT. Laws of the sparse maps: reading after a write, the canonical form, bytes and their numbers. -/

namespace Sys2Proof.Machine

section
variable {α : Type}

theorem Sparse.get_put_same (d : α) (m : List (Nat × α)) (i : Nat) (v : α) :
    Sparse.get d (Sparse.put i v m) i = v := by
  induction m with
  | nil => simp [Sparse.put, Sparse.get]
  | cons e m ih =>
    obtain ⟨k, w⟩ := e
    simp only [Sparse.put]
    split
    · simp [Sparse.get]
    · split
      · simp [Sparse.get]
      · rename_i h; simp [Sparse.get, h, ih]

theorem Sparse.get_put_other (d : α) (m : List (Nat × α)) {i j : Nat} (v : α) (h : j ≠ i) :
    Sparse.get d (Sparse.put i v m) j = Sparse.get d m j := by
  induction m with
  | nil => simp [Sparse.put, Sparse.get, h]
  | cons e m ih =>
    obtain ⟨k, w⟩ := e
    simp only [Sparse.put]
    split
    · simp [Sparse.get, h]
    · split
      · rename_i hk; subst hk; simp [Sparse.get, h]
      · simp [Sparse.get, ih]

theorem Sparse.get_drop_same (d : α) (m : List (Nat × α)) (i : Nat) : Sparse.get d (Sparse.drop i m) i = d := by
  induction m with
  | nil => rfl
  | cons e m ih =>
    obtain ⟨k, w⟩ := e
    simp only [Sparse.drop]
    split
    · exact ih
    · rename_i h; simp [Sparse.get, h, ih]

theorem Sparse.get_drop_other (d : α) (m : List (Nat × α)) {i j : Nat} (h : j ≠ i) :
    Sparse.get d (Sparse.drop i m) j = Sparse.get d m j := by
  induction m with
  | nil => rfl
  | cons e m ih =>
    obtain ⟨k, w⟩ := e
    simp only [Sparse.drop]
    split
    · rename_i hk; subst hk; simp [Sparse.get, h, ih]
    · simp [Sparse.get, ih]

variable [DecidableEq α]

/-- Reading after a write: the value at the key written, every other key as before. -/
theorem Sparse.get_set (d : α) (m : List (Nat × α)) (i j : Nat) (v : α) :
    Sparse.get d (Sparse.set d m i v) j = if j = i then v else Sparse.get d m j := by
  unfold Sparse.set
  split
  · rename_i hv; subst hv
    split
    · rename_i h; subst h; exact Sparse.get_drop_same _ _ _
    · rename_i h; exact Sparse.get_drop_other _ _ h
  · split
    · rename_i h; subst h; exact Sparse.get_put_same _ _ _ _
    · rename_i h; exact Sparse.get_put_other _ _ _ h

@[simp] theorem Sparse.get_set_same (d : α) (m : List (Nat × α)) (i : Nat) (v : α) :
    Sparse.get d (Sparse.set d m i v) i = v := by simp [Sparse.get_set]

theorem Sparse.get_set_other (d : α) (m : List (Nat × α)) {i j : Nat} (v : α) (h : j ≠ i) :
    Sparse.get d (Sparse.set d m i v) j = Sparse.get d m j := by simp [Sparse.get_set, h]

/-- A write with one default leaves what another default reads at every other key. -/
theorem Sparse.get_set_default (d e : α) (m : List (Nat × α)) {i j : Nat} (v : α) (h : j ≠ i) :
    Sparse.get e (Sparse.set d m i v) j = Sparse.get e m j := by
  unfold Sparse.set
  split
  · exact Sparse.get_drop_other _ _ h
  · exact Sparse.get_put_other _ _ _ h

theorem Sparse.get_upd (d : α) (m : List (Nat × α)) (i j : Nat) (f : α → α) :
    Sparse.get d (Sparse.upd d m i f) j = if j = i then f (Sparse.get d m i) else Sparse.get d m j := by
  unfold Sparse.upd; exact Sparse.get_set _ _ _ _ _

@[simp] theorem Sparse.get_upd_same (d : α) (m : List (Nat × α)) (i : Nat) (f : α → α) :
    Sparse.get d (Sparse.upd d m i f) i = f (Sparse.get d m i) := by simp [Sparse.get_upd]

theorem Sparse.get_upd_other (d : α) (m : List (Nat × α)) {i j : Nat} (f : α → α) (h : j ≠ i) :
    Sparse.get d (Sparse.upd d m i f) j = Sparse.get d m j := by simp [Sparse.get_upd, h]

/-! The canonical form -/

/-- The canonical form of a longer map, read off its head. -/
theorem Sparse.wf_cons (d : α) (k : Nat) (v : α) (m : List (Nat × α)) :
    Sparse.wf d ((k, v) :: m) = true ↔ v ≠ d ∧ (∀ e ∈ m, k < e.1) ∧ Sparse.wf d m = true := by
  induction m generalizing k v with
  | nil => simp [Sparse.wf]
  | cons e m ih =>
    obtain ⟨k', v'⟩ := e
    simp only [Sparse.wf, Bool.and_eq_true, decide_eq_true_eq, List.mem_cons, forall_eq_or_imp]
    constructor
    · rintro ⟨⟨h1, h2⟩, h3⟩
      exact ⟨h1, ⟨h2, fun e he => Nat.lt_trans h2 (((ih k' v').mp h3).2.1 e he)⟩, h3⟩
    · rintro ⟨h1, ⟨h2, -⟩, h3⟩
      exact ⟨⟨h1, h2⟩, h3⟩

omit [DecidableEq α] in
theorem Sparse.mem_put {i : Nat} {v : α} {m : List (Nat × α)} {e : Nat × α} (h : e ∈ Sparse.put i v m) :
    e = (i, v) ∨ e ∈ m := by
  induction m with
  | nil => simpa [Sparse.put] using h
  | cons f m ih =>
    obtain ⟨k, w⟩ := f
    simp only [Sparse.put] at h
    split at h
    · simpa using h
    · split at h
      · simp only [List.mem_cons] at h ⊢; tauto
      · simp only [List.mem_cons] at h ⊢
        rcases h with h | h
        · tauto
        · rcases ih h with h | h <;> tauto

omit [DecidableEq α] in
theorem Sparse.mem_drop {i : Nat} {m : List (Nat × α)} {e : Nat × α} (h : e ∈ Sparse.drop i m) : e ∈ m := by
  induction m with
  | nil => simp [Sparse.drop] at h
  | cons f m ih =>
    obtain ⟨k, w⟩ := f
    simp only [Sparse.drop] at h
    split at h
    · exact List.mem_cons_of_mem _ (ih h)
    · simp only [List.mem_cons] at h ⊢
      rcases h with h | h
      · exact .inl h
      · exact .inr (ih h)

theorem Sparse.wf_put (d : α) {m : List (Nat × α)} (i : Nat) {v : α} (hv : v ≠ d) (h : Sparse.wf d m = true) :
    Sparse.wf d (Sparse.put i v m) = true := by
  induction m with
  | nil => simp [Sparse.put, Sparse.wf, hv]
  | cons e m ih =>
    obtain ⟨k, w⟩ := e
    have h' := (Sparse.wf_cons d k w m).mp h
    simp only [Sparse.put]
    split
    · rename_i hik
      refine (Sparse.wf_cons ..).mpr ⟨hv, ?_, h⟩
      intro e he
      rcases List.mem_cons.mp he with rfl | he
      · exact hik
      · exact Nat.lt_trans hik (h'.2.1 e he)
    · split
      · rename_i hik; subst hik
        exact (Sparse.wf_cons ..).mpr ⟨hv, h'.2.1, h'.2.2⟩
      · refine (Sparse.wf_cons ..).mpr ⟨h'.1, ?_, ih h'.2.2⟩
        intro e he
        rcases Sparse.mem_put he with rfl | he
        · show k < i; omega
        · exact h'.2.1 e he

theorem Sparse.wf_drop (d : α) {m : List (Nat × α)} (i : Nat) (h : Sparse.wf d m = true) :
    Sparse.wf d (Sparse.drop i m) = true := by
  induction m with
  | nil => rfl
  | cons e m ih =>
    obtain ⟨k, w⟩ := e
    have h' := (Sparse.wf_cons d k w m).mp h
    simp only [Sparse.drop]
    split
    · exact ih h'.2.2
    · exact (Sparse.wf_cons ..).mpr ⟨h'.1, fun e he => h'.2.1 e (Sparse.mem_drop he), ih h'.2.2⟩

/-- A write keeps the canonical form. -/
theorem Sparse.wf_set (d : α) {m : List (Nat × α)} (i : Nat) (v : α) (h : Sparse.wf d m = true) :
    Sparse.wf d (Sparse.set d m i v) = true := by
  unfold Sparse.set
  split
  · exact Sparse.wf_drop d i h
  · rename_i hv; exact Sparse.wf_put d i hv h

theorem Sparse.wf_upd (d : α) {m : List (Nat × α)} (i : Nat) (f : α → α) (h : Sparse.wf d m = true) :
    Sparse.wf d (Sparse.upd d m i f) = true := Sparse.wf_set d i _ h

theorem Sparse.wf_filter (d : α) {m : List (Nat × α)} (p : Nat × α → Bool) (h : Sparse.wf d m = true) :
    Sparse.wf d (m.filter p) = true := by
  induction m with
  | nil => rfl
  | cons e m ih =>
    obtain ⟨k, w⟩ := e
    have h' := (Sparse.wf_cons d k w m).mp h
    simp only [List.filter]
    split
    · exact (Sparse.wf_cons ..).mpr
        ⟨h'.1, fun e he => h'.2.1 e (List.mem_filter.mp he).1, ih h'.2.2⟩
    · exact ih h'.2.2

omit [DecidableEq α] in
theorem Sparse.get_of_lt (d : α) {m : List (Nat × α)} {i : Nat} (h : ∀ e ∈ m, i < e.1) : Sparse.get d m i = d := by
  induction m with
  | nil => rfl
  | cons e m ih =>
    obtain ⟨k, w⟩ := e
    have hk : i < k := h (k, w) (by simp)
    simp only [Sparse.get]
    rw [if_neg (by omega)]
    exact ih fun e he => h e (List.mem_cons_of_mem _ he)

/-- Two maps in canonical form that read the same at every key are the same list. -/
theorem Sparse.wf_ext (d : α) {m n : List (Nat × α)} (hm : Sparse.wf d m = true) (hn : Sparse.wf d n = true)
    (h : ∀ i, Sparse.get d m i = Sparse.get d n i) : m = n := by
  induction m generalizing n with
  | nil =>
    cases n with
    | nil => rfl
    | cons e n =>
      obtain ⟨k, w⟩ := e
      have := h k; simp only [Sparse.get, if_true] at this
      exact absurd this.symm ((Sparse.wf_cons d k w n).mp hn).1
  | cons e m ih =>
    obtain ⟨k, w⟩ := e
    have hm' := (Sparse.wf_cons d k w m).mp hm
    cases n with
    | nil =>
      have := h k; simp only [Sparse.get, if_true] at this
      exact absurd this hm'.1
    | cons f n =>
      obtain ⟨k', w'⟩ := f
      have hn' := (Sparse.wf_cons d k' w' n).mp hn
      have key : k = k' := by
        rcases Nat.lt_trichotomy k k' with hlt | heq | hlt
        · have := h k
          rw [Sparse.get_of_lt d (m := (k', w') :: n) (i := k) (by
            intro e he
            rcases List.mem_cons.mp he with rfl | he
            · exact hlt
            · exact Nat.lt_trans hlt (hn'.2.1 e he))] at this
          simp only [Sparse.get, if_true] at this
          exact absurd this hm'.1
        · exact heq
        · have := h k'
          rw [Sparse.get_of_lt d (m := (k, w) :: m) (i := k') (by
            intro e he
            rcases List.mem_cons.mp he with rfl | he
            · exact hlt
            · exact Nat.lt_trans hlt (hm'.2.1 e he))] at this
          simp only [Sparse.get, if_true] at this
          exact absurd this.symm hn'.1
      subst key
      have hw : w = w' := by simpa [Sparse.get] using h k
      subst hw
      congr 1
      refine ih hm'.2.2 hn'.2.2 fun i => ?_
      by_cases hi : i = k
      · subst hi
        rw [Sparse.get_of_lt d hm'.2.1, Sparse.get_of_lt d hn'.2.1]
      · simpa [Sparse.get, hi] using h i

end

/-! Bytes -/

@[simp] theorem Bytes.read_length (m : List (Nat × Byte)) (a n : Nat) : (Bytes.read m a n).length = n := by
  induction n generalizing a with
  | zero => rfl
  | succ n ih => simp [Bytes.read, ih]

/-- A write of bytes changes the bytes written and no other. -/
theorem Bytes.get_write (m : List (Nat × Byte)) (a : Nat) (bs : List Byte) (x : Nat) :
    Sparse.get 0 (Bytes.write m a bs) x =
      if a ≤ x ∧ x < a + bs.length then bs.getD (x - a) 0 else Sparse.get 0 m x := by
  induction bs generalizing m a with
  | nil => simp [Bytes.write]
  | cons b bs ih =>
    rw [Bytes.write, ih]
    by_cases hx : x = a
    · subst hx; simp
    · by_cases h : a + 1 ≤ x ∧ x < a + 1 + bs.length
      · have e : x - a = (x - (a + 1)) + 1 := by omega
        rw [if_pos h, if_pos (by simp only [List.length_cons]; omega), e]
        simp
      · rw [if_neg h, if_neg (by simp only [List.length_cons]; omega), Sparse.get_set_other _ _ _ hx]

/-- Bytes outside those written read as before. -/
theorem Bytes.get_write_other (m : List (Nat × Byte)) {a x : Nat} {bs : List Byte} (h : x < a ∨ a + bs.length ≤ x) :
    Sparse.get 0 (Bytes.write m a bs) x = Sparse.get 0 m x := by
  rw [Bytes.get_write, if_neg]; omega

theorem Bytes.wf_write {m : List (Nat × Byte)} (a : Nat) (bs : List Byte) (h : Sparse.wf 0 m = true) :
    Sparse.wf 0 (Bytes.write m a bs) = true := by
  induction bs generalizing m a with
  | nil => exact h
  | cons b bs ih => exact ih _ (Sparse.wf_set 0 a b h)

/-- Bytes read after they were written. -/
theorem Bytes.read_write (m : List (Nat × Byte)) (a : Nat) (bs : List Byte) :
    Bytes.read (Bytes.write m a bs) a bs.length = bs := by
  suffices h : ∀ (m' : List (Nat × Byte)) (c : Nat) (l : List Byte),
      (∀ i, i < l.length → Sparse.get 0 m' (c + i) = l.getD i 0) → Bytes.read m' c l.length = l by
    apply h
    intro i hi
    rw [Bytes.get_write, if_pos (by omega)]
    simp
  intro m' c l
  induction l generalizing c with
  | nil => intro _; rfl
  | cons b l ih =>
    intro h
    have h0 := h 0 (by simp)
    simp only [List.length_cons, Bytes.read]
    rw [ih (c + 1) fun i hi => by
      have := h (i + 1) (by simp only [List.length_cons]; omega)
      rw [show c + 1 + i = c + (i + 1) from by omega, this]; simp]
    simpa using h0

@[simp] theorem toLe_length (n v : Nat) : (toLe n v).length = n := by simp [toLe]

@[simp] theorem toBe_length (n v : Nat) : (toBe n v).length = n := by simp [toBe]

theorem leNat_lt (bs : List Byte) : leNat bs < 256 ^ bs.length := by
  induction bs with
  | nil => simp [leNat]
  | cons b bs ih =>
    have := b.isLt
    simp only [leNat, List.length_cons, Nat.pow_succ]
    omega

/-- The number that n bytes of a number hold. -/
theorem leNat_toLe (n v : Nat) : leNat (toLe n v) = v % 256 ^ n := by
  induction n generalizing v with
  | zero => simp [toLe, leNat, Nat.mod_one]
  | succ n ih =>
    have e : toLe (n + 1) v = BitVec.ofNat 8 v :: toLe n (v / 256) := by
      simp only [toLe, List.range_succ_eq_map, List.map_cons, List.map_map, Nat.pow_zero, Nat.div_one]
      congr 1
      apply List.map_congr_left
      intro i _
      simp [Nat.pow_succ, Nat.div_div_eq_div_mul, Nat.mul_comm]
    have h1 : v % 256 ^ (n + 1) = v % 256 + 256 * (v / 256 % 256 ^ n) := by
      rw [Nat.pow_succ, Nat.mul_comm]; exact Nat.mod_mul
    rw [e, leNat, ih, h1]; simp

/-! Fields of a number -/

theorem bits_lt (v lo w : Nat) : bits v lo w < 2 ^ w := Nat.mod_lt _ (Nat.two_pow_pos w)

/-- The parts of a number around a field. -/
theorem bits_split (v lo w : Nat) : v = v % 2 ^ lo + bits v lo w * 2 ^ lo + v / 2 ^ (lo + w) * 2 ^ (lo + w) := by
  unfold bits
  have h1 := Nat.div_add_mod v (2 ^ lo)
  have h2 := Nat.div_add_mod (v / 2 ^ lo) (2 ^ w)
  have h3 : v / 2 ^ lo / 2 ^ w = v / 2 ^ (lo + w) := by rw [Nat.div_div_eq_div_mul, Nat.pow_add]
  rw [h3] at h2
  have h4 : v / 2 ^ lo * 2 ^ lo = v / 2 ^ lo % 2 ^ w * 2 ^ lo + v / 2 ^ (lo + w) * 2 ^ (lo + w) := by
    conv => lhs; rw [← h2]
    rw [Nat.add_mul, Nat.pow_add]; ring
  nlinarith [h1, h4, Nat.mul_comm (2 ^ lo) (v / 2 ^ lo)]

theorem setBits_eq (v lo w x : Nat) :
    setBits v lo w x = v % 2 ^ lo + x % 2 ^ w * 2 ^ lo + v / 2 ^ (lo + w) * 2 ^ (lo + w) := by
  unfold setBits
  have := bits_split v lo w
  omega

/-- A field reads as it was written. -/
@[simp] theorem bits_setBits (v lo w x : Nat) : bits (setBits v lo w x) lo w = x % 2 ^ w := by
  rw [setBits_eq]
  unfold bits
  have e : v % 2 ^ lo + x % 2 ^ w * 2 ^ lo + v / 2 ^ (lo + w) * 2 ^ (lo + w) =
      v % 2 ^ lo + 2 ^ lo * (x % 2 ^ w + 2 ^ w * (v / 2 ^ (lo + w))) := by rw [Nat.pow_add]; ring
  rw [e, Nat.add_mul_div_left _ _ (Nat.two_pow_pos lo), Nat.div_eq_of_lt (Nat.mod_lt _ (Nat.two_pow_pos lo)), Nat.zero_add,
    Nat.add_mul_mod_self_left, Nat.mod_mod]

/-- A write of a field leaves a field below it. -/
theorem bits_setBits_low (v lo w x lo' w' : Nat) (h : lo' + w' ≤ lo) : bits (setBits v lo w x) lo' w' = bits v lo' w' := by
  rw [setBits_eq]
  have e1 : bits v lo' w' = bits (v % 2 ^ lo) lo' w' := by
    unfold bits
    have : v = v % 2 ^ lo + 2 ^ lo * (v / 2 ^ lo) := (Nat.mod_add_div v _).symm
    obtain ⟨c, rfl⟩ := Nat.exists_eq_add_of_le h
    conv => lhs; rw [this]
    rw [Nat.pow_add 2 (lo' + w') c, Nat.pow_add 2 lo' w']
    rw [show ∀ a b : Nat, a + 2 ^ lo' * 2 ^ w' * 2 ^ c * b = a + 2 ^ lo' * (2 ^ w' * (2 ^ c * b)) from fun a b => by ring,
      Nat.add_mul_div_left _ _ (Nat.two_pow_pos lo'), Nat.add_mul_mod_self_left]
  rw [e1]
  unfold bits
  obtain ⟨c, rfl⟩ := Nat.exists_eq_add_of_le h
  rw [show v % 2 ^ (lo' + w' + c) + x % 2 ^ w * 2 ^ (lo' + w' + c) +
      v / 2 ^ (lo' + w' + c + w) * 2 ^ (lo' + w' + c + w) = v % 2 ^ (lo' + w' + c) +
      2 ^ lo' * (2 ^ w' * (2 ^ c * (x % 2 ^ w + v / 2 ^ (lo' + w' + c + w) * 2 ^ w))) from by
    simp only [Nat.pow_add]; ring,
    Nat.add_mul_div_left _ _ (Nat.two_pow_pos lo'), Nat.add_mul_mod_self_left]

/-- A write of a field leaves a field above it. -/
theorem bits_setBits_high (v lo w x lo' w' : Nat) (h : lo + w ≤ lo') : bits (setBits v lo w x) lo' w' = bits v lo' w' := by
  rw [setBits_eq]
  unfold bits
  obtain ⟨c, rfl⟩ := Nat.exists_eq_add_of_le h
  have hlt : v % 2 ^ lo + x % 2 ^ w * 2 ^ lo < 2 ^ (lo + w) := by
    have h1 := Nat.mod_lt v (Nat.two_pow_pos lo)
    have h2 : x % 2 ^ w + 1 ≤ 2 ^ w := Nat.mod_lt x (Nat.two_pow_pos w)
    rw [Nat.pow_add]
    nlinarith [Nat.two_pow_pos lo]
  rw [Nat.pow_add 2 (lo + w) c, ← Nat.div_div_eq_div_mul, ← Nat.div_div_eq_div_mul,
    Nat.add_mul_div_right _ _ (Nat.two_pow_pos _), Nat.div_eq_of_lt hlt, Nat.zero_add]

theorem setBits_lt {v lo w x n : Nat} (hv : v < 2 ^ n) (h : lo + w ≤ n) : setBits v lo w x < 2 ^ n := by
  rw [setBits_eq]
  obtain ⟨c, rfl⟩ := Nat.exists_eq_add_of_le h
  have h1 := Nat.mod_lt v (Nat.two_pow_pos lo)
  have h2 : x % 2 ^ w + 1 ≤ 2 ^ w := Nat.mod_lt x (Nat.two_pow_pos w)
  have h3 : v / 2 ^ (lo + w) + 1 ≤ 2 ^ c := by
    apply Nat.div_lt_of_lt_mul; rw [← Nat.pow_add]; exact hv
  have h4 : v % 2 ^ lo + x % 2 ^ w * 2 ^ lo < 2 ^ (lo + w) := by
    rw [Nat.pow_add]; nlinarith [Nat.two_pow_pos lo]
  rw [Nat.pow_add 2 (lo + w) c]
  nlinarith [Nat.two_pow_pos (lo + w)]

end Sys2Proof.Machine
end

