-- ==== Sys2Proof/Laws/State.lean ====
section
/-! SUPPORT. What the named updates of the state leave and set, field by field: each true by rfl. -/

namespace Sys2Proof.Machine

/-! The state and its block -/

@[simp] theorem State.withBlk_dev (s : State) (b : Block) :
    (s.withBlk b).dev = b.dev := rfl

@[simp] theorem State.withBlk_mem (s : State) (b : Block) :
    (s.withBlk b).mem = b.mem := rfl

@[simp] theorem State.withBlk_pending (s : State) (b : Block) :
    (s.withBlk b).pending = s.pending := rfl

@[simp] theorem State.blk_dev (s : State) :
    s.blk.dev = s.dev := rfl

@[simp] theorem State.blk_mem (s : State) :
    s.blk.mem = s.mem := rfl

@[simp] theorem State.withBlk_blk (s : State) :
    s.withBlk s.blk = s := rfl

@[simp] theorem State.blk_withBlk (s : State) (b : Block) :
    (s.withBlk b).blk = b := rfl

@[simp] theorem Block.on_dev (b : Block) (f : Dev → Dev) :
    (b.on f).dev = f b.dev := rfl

@[simp] theorem Block.on_mem (b : Block) (f : Dev → Dev) :
    (b.on f).mem = b.mem := rfl

@[simp] theorem Block.store_dev (b : Block) (sp : Space) (a : Nat) (bs : List Byte) :
    (b.store sp a bs).dev = b.dev := rfl

@[simp] theorem Block.store_mem (b : Block) (sp : Space) (a : Nat) (bs : List Byte) :
    (b.store sp a bs).mem = b.mem.write sp a bs := rfl

/-! Registers -/

@[simp] theorem Dev.rset_hold (d : Dev) (off i : Nat) (v : Word) :
    (d.rset off i v).hold = d.hold := rfl

@[simp] theorem Dev.rset_staged (d : Dev) (off i : Nat) (v : Word) :
    (d.rset off i v).staged = d.staged := rfl

@[simp] theorem Dev.rset_words (d : Dev) (off i : Nat) (v : Word) :
    (d.rset off i v).words = d.words := rfl

@[simp] theorem Dev.rset_cycle (d : Dev) (off i : Nat) (v : Word) :
    (d.rset off i v).cycle = d.cycle := rfl

@[simp] theorem Dev.rset_free (d : Dev) (off i : Nat) (v : Word) :
    (d.rset off i v).free = d.free := rfl

@[simp] theorem Dev.rset_ntu (d : Dev) (off i : Nat) (v : Word) :
    (d.rset off i v).ntu = d.ntu := rfl

@[simp] theorem Dev.rset_cku (d : Dev) (off i : Nat) (v : Word) :
    (d.rset off i v).cku = d.cku := rfl

@[simp] theorem Dev.rset_integ (d : Dev) (off i : Nat) (v : Word) :
    (d.rset off i v).integ = d.integ := rfl

@[simp] theorem Dev.rset_drv (d : Dev) (off i : Nat) (v : Word) :
    (d.rset off i v).drv = d.drv := rfl

@[simp] theorem Dev.rset_stb (d : Dev) (off i : Nat) (v : Word) :
    (d.rset off i v).stb = d.stb := rfl

@[simp] theorem Dev.rset_bufs (d : Dev) (off i : Nat) (v : Word) :
    (d.rset off i v).bufs = d.bufs := rfl

@[simp] theorem Dev.rset_minSeen (d : Dev) (off i : Nat) (v : Word) :
    (d.rset off i v).minSeen = d.minSeen := rfl

@[simp] theorem Dev.rset_poolAt (d : Dev) (off i : Nat) (v : Word) :
    (d.rset off i v).poolAt = d.poolAt := rfl

@[simp] theorem Dev.rset_pmu (d : Dev) (off i : Nat) (v : Word) :
    (d.rset off i v).pmu = d.pmu := rfl

@[simp] theorem Dev.rset_host (d : Dev) (off i : Nat) (v : Word) :
    (d.rset off i v).host = d.host := rfl

@[simp] theorem Dev.rset_halter (d : Dev) (off i : Nat) (v : Word) :
    (d.rset off i v).halter = d.halter := rfl

@[simp] theorem Dev.rset_epochs (d : Dev) (off i : Nat) (v : Word) :
    (d.rset off i v).epochs = d.epochs := rfl

@[simp] theorem Dev.rset_drvInj (d : Dev) (off i : Nat) (v : Word) :
    (d.rset off i v).drvInj = d.drvInj := rfl

@[simp] theorem Dev.rset_hostInj (d : Dev) (off i : Nat) (v : Word) :
    (d.rset off i v).hostInj = d.hostInj := rfl

@[simp] theorem Dev.rset_slices (d : Dev) (off i : Nat) (v : Word) :
    (d.rset off i v).slices = d.slices := rfl

@[simp] theorem Dev.rset_ports (d : Dev) (off i : Nat) (v : Word) :
    (d.rset off i v).ports = d.ports := rfl

@[simp] theorem Dev.rset_cars (d : Dev) (off i : Nat) (v : Word) :
    (d.rset off i v).cars = d.cars := rfl

@[simp] theorem Dev.rset_holdIns (d : Dev) (off i : Nat) (v : Word) :
    (d.rset off i v).holdIns = d.holdIns := rfl

@[simp] theorem Dev.rset_flow (d : Dev) (off i : Nat) (v : Word) :
    (d.rset off i v).flow = d.flow := rfl

@[simp] theorem Dev.rset_fwd (d : Dev) (off i : Nat) (v : Word) :
    (d.rset off i v).fwd = d.fwd := rfl

@[simp] theorem Dev.rset_tm (d : Dev) (off i : Nat) (v : Word) :
    (d.rset off i v).tm = d.tm := rfl

@[simp] theorem Dev.rset_team (d : Dev) (off i : Nat) (v : Word) :
    (d.rset off i v).team = d.team := rfl

@[simp] theorem Dev.rset_life (d : Dev) (off i : Nat) (v : Word) :
    (d.rset off i v).life = d.life := rfl

@[simp] theorem Dev.rset_ld (d : Dev) (off i : Nat) (v : Word) :
    (d.rset off i v).ld = d.ld := rfl

@[simp] theorem Dev.rset_regs (d : Dev) (off i : Nat) (v : Word) :
    (d.rset off i v).regs = Sparse.set (resetWord off) d.regs (regKey off i) v := rfl

@[simp] theorem Dev.fset_hold (d : Dev) (f : Fld) (i v : Nat) :
    (d.fset f i v).hold = d.hold := rfl

@[simp] theorem Dev.fset_staged (d : Dev) (f : Fld) (i v : Nat) :
    (d.fset f i v).staged = d.staged := rfl

@[simp] theorem Dev.fset_words (d : Dev) (f : Fld) (i v : Nat) :
    (d.fset f i v).words = d.words := rfl

@[simp] theorem Dev.fset_cycle (d : Dev) (f : Fld) (i v : Nat) :
    (d.fset f i v).cycle = d.cycle := rfl

@[simp] theorem Dev.fset_free (d : Dev) (f : Fld) (i v : Nat) :
    (d.fset f i v).free = d.free := rfl

@[simp] theorem Dev.fset_ntu (d : Dev) (f : Fld) (i v : Nat) :
    (d.fset f i v).ntu = d.ntu := rfl

@[simp] theorem Dev.fset_cku (d : Dev) (f : Fld) (i v : Nat) :
    (d.fset f i v).cku = d.cku := rfl

@[simp] theorem Dev.fset_integ (d : Dev) (f : Fld) (i v : Nat) :
    (d.fset f i v).integ = d.integ := rfl

@[simp] theorem Dev.fset_drv (d : Dev) (f : Fld) (i v : Nat) :
    (d.fset f i v).drv = d.drv := rfl

@[simp] theorem Dev.fset_stb (d : Dev) (f : Fld) (i v : Nat) :
    (d.fset f i v).stb = d.stb := rfl

@[simp] theorem Dev.fset_bufs (d : Dev) (f : Fld) (i v : Nat) :
    (d.fset f i v).bufs = d.bufs := rfl

@[simp] theorem Dev.fset_minSeen (d : Dev) (f : Fld) (i v : Nat) :
    (d.fset f i v).minSeen = d.minSeen := rfl

@[simp] theorem Dev.fset_poolAt (d : Dev) (f : Fld) (i v : Nat) :
    (d.fset f i v).poolAt = d.poolAt := rfl

@[simp] theorem Dev.fset_pmu (d : Dev) (f : Fld) (i v : Nat) :
    (d.fset f i v).pmu = d.pmu := rfl

@[simp] theorem Dev.fset_host (d : Dev) (f : Fld) (i v : Nat) :
    (d.fset f i v).host = d.host := rfl

@[simp] theorem Dev.fset_halter (d : Dev) (f : Fld) (i v : Nat) :
    (d.fset f i v).halter = d.halter := rfl

@[simp] theorem Dev.fset_epochs (d : Dev) (f : Fld) (i v : Nat) :
    (d.fset f i v).epochs = d.epochs := rfl

@[simp] theorem Dev.fset_drvInj (d : Dev) (f : Fld) (i v : Nat) :
    (d.fset f i v).drvInj = d.drvInj := rfl

@[simp] theorem Dev.fset_hostInj (d : Dev) (f : Fld) (i v : Nat) :
    (d.fset f i v).hostInj = d.hostInj := rfl

@[simp] theorem Dev.fset_slices (d : Dev) (f : Fld) (i v : Nat) :
    (d.fset f i v).slices = d.slices := rfl

@[simp] theorem Dev.fset_ports (d : Dev) (f : Fld) (i v : Nat) :
    (d.fset f i v).ports = d.ports := rfl

@[simp] theorem Dev.fset_cars (d : Dev) (f : Fld) (i v : Nat) :
    (d.fset f i v).cars = d.cars := rfl

@[simp] theorem Dev.fset_holdIns (d : Dev) (f : Fld) (i v : Nat) :
    (d.fset f i v).holdIns = d.holdIns := rfl

@[simp] theorem Dev.fset_flow (d : Dev) (f : Fld) (i v : Nat) :
    (d.fset f i v).flow = d.flow := rfl

@[simp] theorem Dev.fset_fwd (d : Dev) (f : Fld) (i v : Nat) :
    (d.fset f i v).fwd = d.fwd := rfl

@[simp] theorem Dev.fset_tm (d : Dev) (f : Fld) (i v : Nat) :
    (d.fset f i v).tm = d.tm := rfl

@[simp] theorem Dev.fset_team (d : Dev) (f : Fld) (i v : Nat) :
    (d.fset f i v).team = d.team := rfl

@[simp] theorem Dev.fset_life (d : Dev) (f : Fld) (i v : Nat) :
    (d.fset f i v).life = d.life := rfl

@[simp] theorem Dev.fset_ld (d : Dev) (f : Fld) (i v : Nat) :
    (d.fset f i v).ld = d.ld := rfl

@[simp] theorem Dev.fresh_fst (d : Dev) (w : Nat) :
    (d.fresh w).1 = Config.freeNat d.free % 2 ^ w := rfl

@[simp] theorem Dev.fresh_regs (d : Dev) (w : Nat) :
    (d.fresh w).2.regs = d.regs := rfl

@[simp] theorem Dev.fresh_hold (d : Dev) (w : Nat) :
    (d.fresh w).2.hold = d.hold := rfl

@[simp] theorem Dev.fresh_staged (d : Dev) (w : Nat) :
    (d.fresh w).2.staged = d.staged := rfl

@[simp] theorem Dev.fresh_words (d : Dev) (w : Nat) :
    (d.fresh w).2.words = d.words := rfl

@[simp] theorem Dev.fresh_cycle (d : Dev) (w : Nat) :
    (d.fresh w).2.cycle = d.cycle := rfl

@[simp] theorem Dev.fresh_ntu (d : Dev) (w : Nat) :
    (d.fresh w).2.ntu = d.ntu := rfl

@[simp] theorem Dev.fresh_cku (d : Dev) (w : Nat) :
    (d.fresh w).2.cku = d.cku := rfl

@[simp] theorem Dev.fresh_integ (d : Dev) (w : Nat) :
    (d.fresh w).2.integ = d.integ := rfl

@[simp] theorem Dev.fresh_drv (d : Dev) (w : Nat) :
    (d.fresh w).2.drv = d.drv := rfl

@[simp] theorem Dev.fresh_stb (d : Dev) (w : Nat) :
    (d.fresh w).2.stb = d.stb := rfl

@[simp] theorem Dev.fresh_bufs (d : Dev) (w : Nat) :
    (d.fresh w).2.bufs = d.bufs := rfl

@[simp] theorem Dev.fresh_minSeen (d : Dev) (w : Nat) :
    (d.fresh w).2.minSeen = d.minSeen := rfl

@[simp] theorem Dev.fresh_poolAt (d : Dev) (w : Nat) :
    (d.fresh w).2.poolAt = d.poolAt := rfl

@[simp] theorem Dev.fresh_pmu (d : Dev) (w : Nat) :
    (d.fresh w).2.pmu = d.pmu := rfl

@[simp] theorem Dev.fresh_host (d : Dev) (w : Nat) :
    (d.fresh w).2.host = d.host := rfl

@[simp] theorem Dev.fresh_halter (d : Dev) (w : Nat) :
    (d.fresh w).2.halter = d.halter := rfl

@[simp] theorem Dev.fresh_epochs (d : Dev) (w : Nat) :
    (d.fresh w).2.epochs = d.epochs := rfl

@[simp] theorem Dev.fresh_drvInj (d : Dev) (w : Nat) :
    (d.fresh w).2.drvInj = d.drvInj := rfl

@[simp] theorem Dev.fresh_hostInj (d : Dev) (w : Nat) :
    (d.fresh w).2.hostInj = d.hostInj := rfl

@[simp] theorem Dev.fresh_slices (d : Dev) (w : Nat) :
    (d.fresh w).2.slices = d.slices := rfl

@[simp] theorem Dev.fresh_ports (d : Dev) (w : Nat) :
    (d.fresh w).2.ports = d.ports := rfl

@[simp] theorem Dev.fresh_cars (d : Dev) (w : Nat) :
    (d.fresh w).2.cars = d.cars := rfl

@[simp] theorem Dev.fresh_holdIns (d : Dev) (w : Nat) :
    (d.fresh w).2.holdIns = d.holdIns := rfl

@[simp] theorem Dev.fresh_flow (d : Dev) (w : Nat) :
    (d.fresh w).2.flow = d.flow := rfl

@[simp] theorem Dev.fresh_fwd (d : Dev) (w : Nat) :
    (d.fresh w).2.fwd = d.fwd := rfl

@[simp] theorem Dev.fresh_tm (d : Dev) (w : Nat) :
    (d.fresh w).2.tm = d.tm := rfl

@[simp] theorem Dev.fresh_team (d : Dev) (w : Nat) :
    (d.fresh w).2.team = d.team := rfl

@[simp] theorem Dev.fresh_life (d : Dev) (w : Nat) :
    (d.fresh w).2.life = d.life := rfl

@[simp] theorem Dev.fresh_ld (d : Dev) (w : Nat) :
    (d.fresh w).2.ld = d.ld := rfl

@[simp] theorem Dev.fresh_free (d : Dev) (w : Nat) :
    (d.fresh w).2.free = d.free + 1 := rfl

/-! Threads, slices, ports, carriers, queues, copies -/

@[simp] theorem Dev.updThr_regs (d : Dev) (n : Nat) (f : Thread → Thread) :
    (d.updThr n f).regs = d.regs := rfl

@[simp] theorem Dev.updThr_hold (d : Dev) (n : Nat) (f : Thread → Thread) :
    (d.updThr n f).hold = d.hold := rfl

@[simp] theorem Dev.updThr_staged (d : Dev) (n : Nat) (f : Thread → Thread) :
    (d.updThr n f).staged = d.staged := rfl

@[simp] theorem Dev.updThr_words (d : Dev) (n : Nat) (f : Thread → Thread) :
    (d.updThr n f).words = d.words := rfl

@[simp] theorem Dev.updThr_cycle (d : Dev) (n : Nat) (f : Thread → Thread) :
    (d.updThr n f).cycle = d.cycle := rfl

@[simp] theorem Dev.updThr_free (d : Dev) (n : Nat) (f : Thread → Thread) :
    (d.updThr n f).free = d.free := rfl

@[simp] theorem Dev.updThr_ntu (d : Dev) (n : Nat) (f : Thread → Thread) :
    (d.updThr n f).ntu = d.ntu := rfl

@[simp] theorem Dev.updThr_cku (d : Dev) (n : Nat) (f : Thread → Thread) :
    (d.updThr n f).cku = d.cku := rfl

@[simp] theorem Dev.updThr_integ (d : Dev) (n : Nat) (f : Thread → Thread) :
    (d.updThr n f).integ = d.integ := rfl

@[simp] theorem Dev.updThr_stb (d : Dev) (n : Nat) (f : Thread → Thread) :
    (d.updThr n f).stb = d.stb := rfl

@[simp] theorem Dev.updThr_bufs (d : Dev) (n : Nat) (f : Thread → Thread) :
    (d.updThr n f).bufs = d.bufs := rfl

@[simp] theorem Dev.updThr_minSeen (d : Dev) (n : Nat) (f : Thread → Thread) :
    (d.updThr n f).minSeen = d.minSeen := rfl

@[simp] theorem Dev.updThr_poolAt (d : Dev) (n : Nat) (f : Thread → Thread) :
    (d.updThr n f).poolAt = d.poolAt := rfl

@[simp] theorem Dev.updThr_pmu (d : Dev) (n : Nat) (f : Thread → Thread) :
    (d.updThr n f).pmu = d.pmu := rfl

@[simp] theorem Dev.updThr_host (d : Dev) (n : Nat) (f : Thread → Thread) :
    (d.updThr n f).host = d.host := rfl

@[simp] theorem Dev.updThr_halter (d : Dev) (n : Nat) (f : Thread → Thread) :
    (d.updThr n f).halter = d.halter := rfl

@[simp] theorem Dev.updThr_epochs (d : Dev) (n : Nat) (f : Thread → Thread) :
    (d.updThr n f).epochs = d.epochs := rfl

@[simp] theorem Dev.updThr_drvInj (d : Dev) (n : Nat) (f : Thread → Thread) :
    (d.updThr n f).drvInj = d.drvInj := rfl

@[simp] theorem Dev.updThr_hostInj (d : Dev) (n : Nat) (f : Thread → Thread) :
    (d.updThr n f).hostInj = d.hostInj := rfl

@[simp] theorem Dev.updThr_slices (d : Dev) (n : Nat) (f : Thread → Thread) :
    (d.updThr n f).slices = d.slices := rfl

@[simp] theorem Dev.updThr_ports (d : Dev) (n : Nat) (f : Thread → Thread) :
    (d.updThr n f).ports = d.ports := rfl

@[simp] theorem Dev.updThr_cars (d : Dev) (n : Nat) (f : Thread → Thread) :
    (d.updThr n f).cars = d.cars := rfl

@[simp] theorem Dev.updThr_holdIns (d : Dev) (n : Nat) (f : Thread → Thread) :
    (d.updThr n f).holdIns = d.holdIns := rfl

@[simp] theorem Dev.updThr_flow (d : Dev) (n : Nat) (f : Thread → Thread) :
    (d.updThr n f).flow = d.flow := rfl

@[simp] theorem Dev.updThr_fwd (d : Dev) (n : Nat) (f : Thread → Thread) :
    (d.updThr n f).fwd = d.fwd := rfl

@[simp] theorem Dev.updThr_tm (d : Dev) (n : Nat) (f : Thread → Thread) :
    (d.updThr n f).tm = d.tm := rfl

@[simp] theorem Dev.updThr_team (d : Dev) (n : Nat) (f : Thread → Thread) :
    (d.updThr n f).team = d.team := rfl

@[simp] theorem Dev.updThr_life (d : Dev) (n : Nat) (f : Thread → Thread) :
    (d.updThr n f).life = d.life := rfl

@[simp] theorem Dev.updThr_ld (d : Dev) (n : Nat) (f : Thread → Thread) :
    (d.updThr n f).ld = d.ld := rfl

@[simp] theorem Dev.updThr_threads (d : Dev) (n : Nat) (f : Thread → Thread) :
    (d.updThr n f).drv.threads = upd0 d.drv.threads n f := rfl

@[simp] theorem Dev.updThr_chans (d : Dev) (n : Nat) (f : Thread → Thread) :
    (d.updThr n f).drv.chans = d.drv.chans := rfl

@[simp] theorem Dev.updThr_icache (d : Dev) (n : Nat) (f : Thread → Thread) :
    (d.updThr n f).drv.icache = d.drv.icache := rfl

@[simp] theorem Dev.updThr_accts (d : Dev) (n : Nat) (f : Thread → Thread) :
    (d.updThr n f).drv.accts = d.drv.accts := rfl

@[simp] theorem Dev.updThr_stallSince (d : Dev) (n : Nat) (f : Thread → Thread) :
    (d.updThr n f).drv.stallSince = d.drv.stallSince := rfl

@[simp] theorem Dev.updThr_injQ (d : Dev) (n : Nat) (f : Thread → Thread) :
    (d.updThr n f).drv.injQ = d.drv.injQ := rfl

@[simp] theorem Dev.updThr_slotAt (d : Dev) (n : Nat) (f : Thread → Thread) :
    (d.updThr n f).drv.slotAt = d.drv.slotAt := rfl

@[simp] theorem Dev.updSl_regs (d : Dev) (n : Nat) (f : SliceSt → SliceSt) :
    (d.updSl n f).regs = d.regs := rfl

@[simp] theorem Dev.updSl_hold (d : Dev) (n : Nat) (f : SliceSt → SliceSt) :
    (d.updSl n f).hold = d.hold := rfl

@[simp] theorem Dev.updSl_staged (d : Dev) (n : Nat) (f : SliceSt → SliceSt) :
    (d.updSl n f).staged = d.staged := rfl

@[simp] theorem Dev.updSl_words (d : Dev) (n : Nat) (f : SliceSt → SliceSt) :
    (d.updSl n f).words = d.words := rfl

@[simp] theorem Dev.updSl_cycle (d : Dev) (n : Nat) (f : SliceSt → SliceSt) :
    (d.updSl n f).cycle = d.cycle := rfl

@[simp] theorem Dev.updSl_free (d : Dev) (n : Nat) (f : SliceSt → SliceSt) :
    (d.updSl n f).free = d.free := rfl

@[simp] theorem Dev.updSl_ntu (d : Dev) (n : Nat) (f : SliceSt → SliceSt) :
    (d.updSl n f).ntu = d.ntu := rfl

@[simp] theorem Dev.updSl_cku (d : Dev) (n : Nat) (f : SliceSt → SliceSt) :
    (d.updSl n f).cku = d.cku := rfl

@[simp] theorem Dev.updSl_integ (d : Dev) (n : Nat) (f : SliceSt → SliceSt) :
    (d.updSl n f).integ = d.integ := rfl

@[simp] theorem Dev.updSl_drv (d : Dev) (n : Nat) (f : SliceSt → SliceSt) :
    (d.updSl n f).drv = d.drv := rfl

@[simp] theorem Dev.updSl_stb (d : Dev) (n : Nat) (f : SliceSt → SliceSt) :
    (d.updSl n f).stb = d.stb := rfl

@[simp] theorem Dev.updSl_bufs (d : Dev) (n : Nat) (f : SliceSt → SliceSt) :
    (d.updSl n f).bufs = d.bufs := rfl

@[simp] theorem Dev.updSl_minSeen (d : Dev) (n : Nat) (f : SliceSt → SliceSt) :
    (d.updSl n f).minSeen = d.minSeen := rfl

@[simp] theorem Dev.updSl_poolAt (d : Dev) (n : Nat) (f : SliceSt → SliceSt) :
    (d.updSl n f).poolAt = d.poolAt := rfl

@[simp] theorem Dev.updSl_pmu (d : Dev) (n : Nat) (f : SliceSt → SliceSt) :
    (d.updSl n f).pmu = d.pmu := rfl

@[simp] theorem Dev.updSl_host (d : Dev) (n : Nat) (f : SliceSt → SliceSt) :
    (d.updSl n f).host = d.host := rfl

@[simp] theorem Dev.updSl_halter (d : Dev) (n : Nat) (f : SliceSt → SliceSt) :
    (d.updSl n f).halter = d.halter := rfl

@[simp] theorem Dev.updSl_epochs (d : Dev) (n : Nat) (f : SliceSt → SliceSt) :
    (d.updSl n f).epochs = d.epochs := rfl

@[simp] theorem Dev.updSl_drvInj (d : Dev) (n : Nat) (f : SliceSt → SliceSt) :
    (d.updSl n f).drvInj = d.drvInj := rfl

@[simp] theorem Dev.updSl_hostInj (d : Dev) (n : Nat) (f : SliceSt → SliceSt) :
    (d.updSl n f).hostInj = d.hostInj := rfl

@[simp] theorem Dev.updSl_ports (d : Dev) (n : Nat) (f : SliceSt → SliceSt) :
    (d.updSl n f).ports = d.ports := rfl

@[simp] theorem Dev.updSl_cars (d : Dev) (n : Nat) (f : SliceSt → SliceSt) :
    (d.updSl n f).cars = d.cars := rfl

@[simp] theorem Dev.updSl_holdIns (d : Dev) (n : Nat) (f : SliceSt → SliceSt) :
    (d.updSl n f).holdIns = d.holdIns := rfl

@[simp] theorem Dev.updSl_flow (d : Dev) (n : Nat) (f : SliceSt → SliceSt) :
    (d.updSl n f).flow = d.flow := rfl

@[simp] theorem Dev.updSl_fwd (d : Dev) (n : Nat) (f : SliceSt → SliceSt) :
    (d.updSl n f).fwd = d.fwd := rfl

@[simp] theorem Dev.updSl_tm (d : Dev) (n : Nat) (f : SliceSt → SliceSt) :
    (d.updSl n f).tm = d.tm := rfl

@[simp] theorem Dev.updSl_team (d : Dev) (n : Nat) (f : SliceSt → SliceSt) :
    (d.updSl n f).team = d.team := rfl

@[simp] theorem Dev.updSl_life (d : Dev) (n : Nat) (f : SliceSt → SliceSt) :
    (d.updSl n f).life = d.life := rfl

@[simp] theorem Dev.updSl_ld (d : Dev) (n : Nat) (f : SliceSt → SliceSt) :
    (d.updSl n f).ld = d.ld := rfl

@[simp] theorem Dev.updSl_slices (d : Dev) (n : Nat) (f : SliceSt → SliceSt) :
    (d.updSl n f).slices = upd0 d.slices n f := rfl

@[simp] theorem Dev.updPt_regs (d : Dev) (n : Nat) (f : PortSt → PortSt) :
    (d.updPt n f).regs = d.regs := rfl

@[simp] theorem Dev.updPt_hold (d : Dev) (n : Nat) (f : PortSt → PortSt) :
    (d.updPt n f).hold = d.hold := rfl

@[simp] theorem Dev.updPt_staged (d : Dev) (n : Nat) (f : PortSt → PortSt) :
    (d.updPt n f).staged = d.staged := rfl

@[simp] theorem Dev.updPt_words (d : Dev) (n : Nat) (f : PortSt → PortSt) :
    (d.updPt n f).words = d.words := rfl

@[simp] theorem Dev.updPt_cycle (d : Dev) (n : Nat) (f : PortSt → PortSt) :
    (d.updPt n f).cycle = d.cycle := rfl

@[simp] theorem Dev.updPt_free (d : Dev) (n : Nat) (f : PortSt → PortSt) :
    (d.updPt n f).free = d.free := rfl

@[simp] theorem Dev.updPt_ntu (d : Dev) (n : Nat) (f : PortSt → PortSt) :
    (d.updPt n f).ntu = d.ntu := rfl

@[simp] theorem Dev.updPt_cku (d : Dev) (n : Nat) (f : PortSt → PortSt) :
    (d.updPt n f).cku = d.cku := rfl

@[simp] theorem Dev.updPt_integ (d : Dev) (n : Nat) (f : PortSt → PortSt) :
    (d.updPt n f).integ = d.integ := rfl

@[simp] theorem Dev.updPt_drv (d : Dev) (n : Nat) (f : PortSt → PortSt) :
    (d.updPt n f).drv = d.drv := rfl

@[simp] theorem Dev.updPt_stb (d : Dev) (n : Nat) (f : PortSt → PortSt) :
    (d.updPt n f).stb = d.stb := rfl

@[simp] theorem Dev.updPt_bufs (d : Dev) (n : Nat) (f : PortSt → PortSt) :
    (d.updPt n f).bufs = d.bufs := rfl

@[simp] theorem Dev.updPt_minSeen (d : Dev) (n : Nat) (f : PortSt → PortSt) :
    (d.updPt n f).minSeen = d.minSeen := rfl

@[simp] theorem Dev.updPt_poolAt (d : Dev) (n : Nat) (f : PortSt → PortSt) :
    (d.updPt n f).poolAt = d.poolAt := rfl

@[simp] theorem Dev.updPt_pmu (d : Dev) (n : Nat) (f : PortSt → PortSt) :
    (d.updPt n f).pmu = d.pmu := rfl

@[simp] theorem Dev.updPt_host (d : Dev) (n : Nat) (f : PortSt → PortSt) :
    (d.updPt n f).host = d.host := rfl

@[simp] theorem Dev.updPt_halter (d : Dev) (n : Nat) (f : PortSt → PortSt) :
    (d.updPt n f).halter = d.halter := rfl

@[simp] theorem Dev.updPt_epochs (d : Dev) (n : Nat) (f : PortSt → PortSt) :
    (d.updPt n f).epochs = d.epochs := rfl

@[simp] theorem Dev.updPt_drvInj (d : Dev) (n : Nat) (f : PortSt → PortSt) :
    (d.updPt n f).drvInj = d.drvInj := rfl

@[simp] theorem Dev.updPt_hostInj (d : Dev) (n : Nat) (f : PortSt → PortSt) :
    (d.updPt n f).hostInj = d.hostInj := rfl

@[simp] theorem Dev.updPt_slices (d : Dev) (n : Nat) (f : PortSt → PortSt) :
    (d.updPt n f).slices = d.slices := rfl

@[simp] theorem Dev.updPt_cars (d : Dev) (n : Nat) (f : PortSt → PortSt) :
    (d.updPt n f).cars = d.cars := rfl

@[simp] theorem Dev.updPt_holdIns (d : Dev) (n : Nat) (f : PortSt → PortSt) :
    (d.updPt n f).holdIns = d.holdIns := rfl

@[simp] theorem Dev.updPt_flow (d : Dev) (n : Nat) (f : PortSt → PortSt) :
    (d.updPt n f).flow = d.flow := rfl

@[simp] theorem Dev.updPt_fwd (d : Dev) (n : Nat) (f : PortSt → PortSt) :
    (d.updPt n f).fwd = d.fwd := rfl

@[simp] theorem Dev.updPt_tm (d : Dev) (n : Nat) (f : PortSt → PortSt) :
    (d.updPt n f).tm = d.tm := rfl

@[simp] theorem Dev.updPt_team (d : Dev) (n : Nat) (f : PortSt → PortSt) :
    (d.updPt n f).team = d.team := rfl

@[simp] theorem Dev.updPt_life (d : Dev) (n : Nat) (f : PortSt → PortSt) :
    (d.updPt n f).life = d.life := rfl

@[simp] theorem Dev.updPt_ld (d : Dev) (n : Nat) (f : PortSt → PortSt) :
    (d.updPt n f).ld = d.ld := rfl

@[simp] theorem Dev.updPt_ports (d : Dev) (n : Nat) (f : PortSt → PortSt) :
    (d.updPt n f).ports = upd0 d.ports n f := rfl

@[simp] theorem Dev.updCar_regs (d : Dev) (n : Nat) (f : CarSt → CarSt) :
    (d.updCar n f).regs = d.regs := rfl

@[simp] theorem Dev.updCar_hold (d : Dev) (n : Nat) (f : CarSt → CarSt) :
    (d.updCar n f).hold = d.hold := rfl

@[simp] theorem Dev.updCar_staged (d : Dev) (n : Nat) (f : CarSt → CarSt) :
    (d.updCar n f).staged = d.staged := rfl

@[simp] theorem Dev.updCar_words (d : Dev) (n : Nat) (f : CarSt → CarSt) :
    (d.updCar n f).words = d.words := rfl

@[simp] theorem Dev.updCar_cycle (d : Dev) (n : Nat) (f : CarSt → CarSt) :
    (d.updCar n f).cycle = d.cycle := rfl

@[simp] theorem Dev.updCar_free (d : Dev) (n : Nat) (f : CarSt → CarSt) :
    (d.updCar n f).free = d.free := rfl

@[simp] theorem Dev.updCar_ntu (d : Dev) (n : Nat) (f : CarSt → CarSt) :
    (d.updCar n f).ntu = d.ntu := rfl

@[simp] theorem Dev.updCar_cku (d : Dev) (n : Nat) (f : CarSt → CarSt) :
    (d.updCar n f).cku = d.cku := rfl

@[simp] theorem Dev.updCar_integ (d : Dev) (n : Nat) (f : CarSt → CarSt) :
    (d.updCar n f).integ = d.integ := rfl

@[simp] theorem Dev.updCar_drv (d : Dev) (n : Nat) (f : CarSt → CarSt) :
    (d.updCar n f).drv = d.drv := rfl

@[simp] theorem Dev.updCar_stb (d : Dev) (n : Nat) (f : CarSt → CarSt) :
    (d.updCar n f).stb = d.stb := rfl

@[simp] theorem Dev.updCar_bufs (d : Dev) (n : Nat) (f : CarSt → CarSt) :
    (d.updCar n f).bufs = d.bufs := rfl

@[simp] theorem Dev.updCar_minSeen (d : Dev) (n : Nat) (f : CarSt → CarSt) :
    (d.updCar n f).minSeen = d.minSeen := rfl

@[simp] theorem Dev.updCar_poolAt (d : Dev) (n : Nat) (f : CarSt → CarSt) :
    (d.updCar n f).poolAt = d.poolAt := rfl

@[simp] theorem Dev.updCar_pmu (d : Dev) (n : Nat) (f : CarSt → CarSt) :
    (d.updCar n f).pmu = d.pmu := rfl

@[simp] theorem Dev.updCar_host (d : Dev) (n : Nat) (f : CarSt → CarSt) :
    (d.updCar n f).host = d.host := rfl

@[simp] theorem Dev.updCar_halter (d : Dev) (n : Nat) (f : CarSt → CarSt) :
    (d.updCar n f).halter = d.halter := rfl

@[simp] theorem Dev.updCar_epochs (d : Dev) (n : Nat) (f : CarSt → CarSt) :
    (d.updCar n f).epochs = d.epochs := rfl

@[simp] theorem Dev.updCar_drvInj (d : Dev) (n : Nat) (f : CarSt → CarSt) :
    (d.updCar n f).drvInj = d.drvInj := rfl

@[simp] theorem Dev.updCar_hostInj (d : Dev) (n : Nat) (f : CarSt → CarSt) :
    (d.updCar n f).hostInj = d.hostInj := rfl

@[simp] theorem Dev.updCar_slices (d : Dev) (n : Nat) (f : CarSt → CarSt) :
    (d.updCar n f).slices = d.slices := rfl

@[simp] theorem Dev.updCar_ports (d : Dev) (n : Nat) (f : CarSt → CarSt) :
    (d.updCar n f).ports = d.ports := rfl

@[simp] theorem Dev.updCar_holdIns (d : Dev) (n : Nat) (f : CarSt → CarSt) :
    (d.updCar n f).holdIns = d.holdIns := rfl

@[simp] theorem Dev.updCar_flow (d : Dev) (n : Nat) (f : CarSt → CarSt) :
    (d.updCar n f).flow = d.flow := rfl

@[simp] theorem Dev.updCar_fwd (d : Dev) (n : Nat) (f : CarSt → CarSt) :
    (d.updCar n f).fwd = d.fwd := rfl

@[simp] theorem Dev.updCar_tm (d : Dev) (n : Nat) (f : CarSt → CarSt) :
    (d.updCar n f).tm = d.tm := rfl

@[simp] theorem Dev.updCar_team (d : Dev) (n : Nat) (f : CarSt → CarSt) :
    (d.updCar n f).team = d.team := rfl

@[simp] theorem Dev.updCar_life (d : Dev) (n : Nat) (f : CarSt → CarSt) :
    (d.updCar n f).life = d.life := rfl

@[simp] theorem Dev.updCar_ld (d : Dev) (n : Nat) (f : CarSt → CarSt) :
    (d.updCar n f).ld = d.ld := rfl

@[simp] theorem Dev.updCar_cars (d : Dev) (n : Nat) (f : CarSt → CarSt) :
    (d.updCar n f).cars = upd0 d.cars n f := rfl

@[simp] theorem Dev.setStaged_regs (d : Dev) (q off : Nat) (v : Option Word) :
    (d.setStaged q off v).regs = d.regs := rfl

@[simp] theorem Dev.setStaged_hold (d : Dev) (q off : Nat) (v : Option Word) :
    (d.setStaged q off v).hold = d.hold := rfl

@[simp] theorem Dev.setStaged_words (d : Dev) (q off : Nat) (v : Option Word) :
    (d.setStaged q off v).words = d.words := rfl

@[simp] theorem Dev.setStaged_cycle (d : Dev) (q off : Nat) (v : Option Word) :
    (d.setStaged q off v).cycle = d.cycle := rfl

@[simp] theorem Dev.setStaged_free (d : Dev) (q off : Nat) (v : Option Word) :
    (d.setStaged q off v).free = d.free := rfl

@[simp] theorem Dev.setStaged_ntu (d : Dev) (q off : Nat) (v : Option Word) :
    (d.setStaged q off v).ntu = d.ntu := rfl

@[simp] theorem Dev.setStaged_cku (d : Dev) (q off : Nat) (v : Option Word) :
    (d.setStaged q off v).cku = d.cku := rfl

@[simp] theorem Dev.setStaged_integ (d : Dev) (q off : Nat) (v : Option Word) :
    (d.setStaged q off v).integ = d.integ := rfl

@[simp] theorem Dev.setStaged_drv (d : Dev) (q off : Nat) (v : Option Word) :
    (d.setStaged q off v).drv = d.drv := rfl

@[simp] theorem Dev.setStaged_stb (d : Dev) (q off : Nat) (v : Option Word) :
    (d.setStaged q off v).stb = d.stb := rfl

@[simp] theorem Dev.setStaged_bufs (d : Dev) (q off : Nat) (v : Option Word) :
    (d.setStaged q off v).bufs = d.bufs := rfl

@[simp] theorem Dev.setStaged_minSeen (d : Dev) (q off : Nat) (v : Option Word) :
    (d.setStaged q off v).minSeen = d.minSeen := rfl

@[simp] theorem Dev.setStaged_poolAt (d : Dev) (q off : Nat) (v : Option Word) :
    (d.setStaged q off v).poolAt = d.poolAt := rfl

@[simp] theorem Dev.setStaged_pmu (d : Dev) (q off : Nat) (v : Option Word) :
    (d.setStaged q off v).pmu = d.pmu := rfl

@[simp] theorem Dev.setStaged_host (d : Dev) (q off : Nat) (v : Option Word) :
    (d.setStaged q off v).host = d.host := rfl

@[simp] theorem Dev.setStaged_halter (d : Dev) (q off : Nat) (v : Option Word) :
    (d.setStaged q off v).halter = d.halter := rfl

@[simp] theorem Dev.setStaged_epochs (d : Dev) (q off : Nat) (v : Option Word) :
    (d.setStaged q off v).epochs = d.epochs := rfl

@[simp] theorem Dev.setStaged_drvInj (d : Dev) (q off : Nat) (v : Option Word) :
    (d.setStaged q off v).drvInj = d.drvInj := rfl

@[simp] theorem Dev.setStaged_hostInj (d : Dev) (q off : Nat) (v : Option Word) :
    (d.setStaged q off v).hostInj = d.hostInj := rfl

@[simp] theorem Dev.setStaged_slices (d : Dev) (q off : Nat) (v : Option Word) :
    (d.setStaged q off v).slices = d.slices := rfl

@[simp] theorem Dev.setStaged_ports (d : Dev) (q off : Nat) (v : Option Word) :
    (d.setStaged q off v).ports = d.ports := rfl

@[simp] theorem Dev.setStaged_cars (d : Dev) (q off : Nat) (v : Option Word) :
    (d.setStaged q off v).cars = d.cars := rfl

@[simp] theorem Dev.setStaged_holdIns (d : Dev) (q off : Nat) (v : Option Word) :
    (d.setStaged q off v).holdIns = d.holdIns := rfl

@[simp] theorem Dev.setStaged_flow (d : Dev) (q off : Nat) (v : Option Word) :
    (d.setStaged q off v).flow = d.flow := rfl

@[simp] theorem Dev.setStaged_fwd (d : Dev) (q off : Nat) (v : Option Word) :
    (d.setStaged q off v).fwd = d.fwd := rfl

@[simp] theorem Dev.setStaged_tm (d : Dev) (q off : Nat) (v : Option Word) :
    (d.setStaged q off v).tm = d.tm := rfl

@[simp] theorem Dev.setStaged_team (d : Dev) (q off : Nat) (v : Option Word) :
    (d.setStaged q off v).team = d.team := rfl

@[simp] theorem Dev.setStaged_life (d : Dev) (q off : Nat) (v : Option Word) :
    (d.setStaged q off v).life = d.life := rfl

@[simp] theorem Dev.setStaged_ld (d : Dev) (q off : Nat) (v : Option Word) :
    (d.setStaged q off v).ld = d.ld := rfl

@[simp] theorem Dev.setHeldOf_regs (d : Dev) (q off : Nat) (v : Option Word) :
    (d.setHeldOf q off v).regs = d.regs := rfl

@[simp] theorem Dev.setHeldOf_staged (d : Dev) (q off : Nat) (v : Option Word) :
    (d.setHeldOf q off v).staged = d.staged := rfl

@[simp] theorem Dev.setHeldOf_words (d : Dev) (q off : Nat) (v : Option Word) :
    (d.setHeldOf q off v).words = d.words := rfl

@[simp] theorem Dev.setHeldOf_cycle (d : Dev) (q off : Nat) (v : Option Word) :
    (d.setHeldOf q off v).cycle = d.cycle := rfl

@[simp] theorem Dev.setHeldOf_free (d : Dev) (q off : Nat) (v : Option Word) :
    (d.setHeldOf q off v).free = d.free := rfl

@[simp] theorem Dev.setHeldOf_ntu (d : Dev) (q off : Nat) (v : Option Word) :
    (d.setHeldOf q off v).ntu = d.ntu := rfl

@[simp] theorem Dev.setHeldOf_cku (d : Dev) (q off : Nat) (v : Option Word) :
    (d.setHeldOf q off v).cku = d.cku := rfl

@[simp] theorem Dev.setHeldOf_integ (d : Dev) (q off : Nat) (v : Option Word) :
    (d.setHeldOf q off v).integ = d.integ := rfl

@[simp] theorem Dev.setHeldOf_drv (d : Dev) (q off : Nat) (v : Option Word) :
    (d.setHeldOf q off v).drv = d.drv := rfl

@[simp] theorem Dev.setHeldOf_stb (d : Dev) (q off : Nat) (v : Option Word) :
    (d.setHeldOf q off v).stb = d.stb := rfl

@[simp] theorem Dev.setHeldOf_bufs (d : Dev) (q off : Nat) (v : Option Word) :
    (d.setHeldOf q off v).bufs = d.bufs := rfl

@[simp] theorem Dev.setHeldOf_minSeen (d : Dev) (q off : Nat) (v : Option Word) :
    (d.setHeldOf q off v).minSeen = d.minSeen := rfl

@[simp] theorem Dev.setHeldOf_poolAt (d : Dev) (q off : Nat) (v : Option Word) :
    (d.setHeldOf q off v).poolAt = d.poolAt := rfl

@[simp] theorem Dev.setHeldOf_pmu (d : Dev) (q off : Nat) (v : Option Word) :
    (d.setHeldOf q off v).pmu = d.pmu := rfl

@[simp] theorem Dev.setHeldOf_host (d : Dev) (q off : Nat) (v : Option Word) :
    (d.setHeldOf q off v).host = d.host := rfl

@[simp] theorem Dev.setHeldOf_halter (d : Dev) (q off : Nat) (v : Option Word) :
    (d.setHeldOf q off v).halter = d.halter := rfl

@[simp] theorem Dev.setHeldOf_epochs (d : Dev) (q off : Nat) (v : Option Word) :
    (d.setHeldOf q off v).epochs = d.epochs := rfl

@[simp] theorem Dev.setHeldOf_drvInj (d : Dev) (q off : Nat) (v : Option Word) :
    (d.setHeldOf q off v).drvInj = d.drvInj := rfl

@[simp] theorem Dev.setHeldOf_hostInj (d : Dev) (q off : Nat) (v : Option Word) :
    (d.setHeldOf q off v).hostInj = d.hostInj := rfl

@[simp] theorem Dev.setHeldOf_slices (d : Dev) (q off : Nat) (v : Option Word) :
    (d.setHeldOf q off v).slices = d.slices := rfl

@[simp] theorem Dev.setHeldOf_ports (d : Dev) (q off : Nat) (v : Option Word) :
    (d.setHeldOf q off v).ports = d.ports := rfl

@[simp] theorem Dev.setHeldOf_cars (d : Dev) (q off : Nat) (v : Option Word) :
    (d.setHeldOf q off v).cars = d.cars := rfl

@[simp] theorem Dev.setHeldOf_holdIns (d : Dev) (q off : Nat) (v : Option Word) :
    (d.setHeldOf q off v).holdIns = d.holdIns := rfl

@[simp] theorem Dev.setHeldOf_flow (d : Dev) (q off : Nat) (v : Option Word) :
    (d.setHeldOf q off v).flow = d.flow := rfl

@[simp] theorem Dev.setHeldOf_fwd (d : Dev) (q off : Nat) (v : Option Word) :
    (d.setHeldOf q off v).fwd = d.fwd := rfl

@[simp] theorem Dev.setHeldOf_tm (d : Dev) (q off : Nat) (v : Option Word) :
    (d.setHeldOf q off v).tm = d.tm := rfl

@[simp] theorem Dev.setHeldOf_team (d : Dev) (q off : Nat) (v : Option Word) :
    (d.setHeldOf q off v).team = d.team := rfl

@[simp] theorem Dev.setHeldOf_life (d : Dev) (q off : Nat) (v : Option Word) :
    (d.setHeldOf q off v).life = d.life := rfl

@[simp] theorem Dev.setHeldOf_ld (d : Dev) (q off : Nat) (v : Option Word) :
    (d.setHeldOf q off v).ld = d.ld := rfl

@[simp] theorem Dev.answer_regs (d : Dev) (q : Nat) (v : Word) :
    (d.answer q v).regs = d.regs := rfl

@[simp] theorem Dev.answer_hold (d : Dev) (q : Nat) (v : Word) :
    (d.answer q v).hold = d.hold := rfl

@[simp] theorem Dev.answer_staged (d : Dev) (q : Nat) (v : Word) :
    (d.answer q v).staged = d.staged := rfl

@[simp] theorem Dev.answer_words (d : Dev) (q : Nat) (v : Word) :
    (d.answer q v).words = d.words := rfl

@[simp] theorem Dev.answer_cycle (d : Dev) (q : Nat) (v : Word) :
    (d.answer q v).cycle = d.cycle := rfl

@[simp] theorem Dev.answer_free (d : Dev) (q : Nat) (v : Word) :
    (d.answer q v).free = d.free := rfl

@[simp] theorem Dev.answer_ntu (d : Dev) (q : Nat) (v : Word) :
    (d.answer q v).ntu = d.ntu := rfl

@[simp] theorem Dev.answer_cku (d : Dev) (q : Nat) (v : Word) :
    (d.answer q v).cku = d.cku := rfl

@[simp] theorem Dev.answer_integ (d : Dev) (q : Nat) (v : Word) :
    (d.answer q v).integ = d.integ := rfl

@[simp] theorem Dev.answer_drv (d : Dev) (q : Nat) (v : Word) :
    (d.answer q v).drv = d.drv := rfl

@[simp] theorem Dev.answer_stb (d : Dev) (q : Nat) (v : Word) :
    (d.answer q v).stb = d.stb := rfl

@[simp] theorem Dev.answer_bufs (d : Dev) (q : Nat) (v : Word) :
    (d.answer q v).bufs = d.bufs := rfl

@[simp] theorem Dev.answer_minSeen (d : Dev) (q : Nat) (v : Word) :
    (d.answer q v).minSeen = d.minSeen := rfl

@[simp] theorem Dev.answer_poolAt (d : Dev) (q : Nat) (v : Word) :
    (d.answer q v).poolAt = d.poolAt := rfl

@[simp] theorem Dev.answer_pmu (d : Dev) (q : Nat) (v : Word) :
    (d.answer q v).pmu = d.pmu := rfl

@[simp] theorem Dev.answer_halter (d : Dev) (q : Nat) (v : Word) :
    (d.answer q v).halter = d.halter := rfl

@[simp] theorem Dev.answer_epochs (d : Dev) (q : Nat) (v : Word) :
    (d.answer q v).epochs = d.epochs := rfl

@[simp] theorem Dev.answer_drvInj (d : Dev) (q : Nat) (v : Word) :
    (d.answer q v).drvInj = d.drvInj := rfl

@[simp] theorem Dev.answer_hostInj (d : Dev) (q : Nat) (v : Word) :
    (d.answer q v).hostInj = d.hostInj := rfl

@[simp] theorem Dev.answer_slices (d : Dev) (q : Nat) (v : Word) :
    (d.answer q v).slices = d.slices := rfl

@[simp] theorem Dev.answer_ports (d : Dev) (q : Nat) (v : Word) :
    (d.answer q v).ports = d.ports := rfl

@[simp] theorem Dev.answer_cars (d : Dev) (q : Nat) (v : Word) :
    (d.answer q v).cars = d.cars := rfl

@[simp] theorem Dev.answer_holdIns (d : Dev) (q : Nat) (v : Word) :
    (d.answer q v).holdIns = d.holdIns := rfl

@[simp] theorem Dev.answer_flow (d : Dev) (q : Nat) (v : Word) :
    (d.answer q v).flow = d.flow := rfl

@[simp] theorem Dev.answer_fwd (d : Dev) (q : Nat) (v : Word) :
    (d.answer q v).fwd = d.fwd := rfl

@[simp] theorem Dev.answer_tm (d : Dev) (q : Nat) (v : Word) :
    (d.answer q v).tm = d.tm := rfl

@[simp] theorem Dev.answer_team (d : Dev) (q : Nat) (v : Word) :
    (d.answer q v).team = d.team := rfl

@[simp] theorem Dev.answer_life (d : Dev) (q : Nat) (v : Word) :
    (d.answer q v).life = d.life := rfl

@[simp] theorem Dev.answer_ld (d : Dev) (q : Nat) (v : Word) :
    (d.answer q v).ld = d.ld := rfl

@[simp] theorem Dev.updChan_regs (d : Dev) (c : Nat) (f : Chan → Chan) :
    (d.updChan c f).regs = d.regs := rfl

@[simp] theorem Dev.updChan_hold (d : Dev) (c : Nat) (f : Chan → Chan) :
    (d.updChan c f).hold = d.hold := rfl

@[simp] theorem Dev.updChan_staged (d : Dev) (c : Nat) (f : Chan → Chan) :
    (d.updChan c f).staged = d.staged := rfl

@[simp] theorem Dev.updChan_words (d : Dev) (c : Nat) (f : Chan → Chan) :
    (d.updChan c f).words = d.words := rfl

@[simp] theorem Dev.updChan_cycle (d : Dev) (c : Nat) (f : Chan → Chan) :
    (d.updChan c f).cycle = d.cycle := rfl

@[simp] theorem Dev.updChan_free (d : Dev) (c : Nat) (f : Chan → Chan) :
    (d.updChan c f).free = d.free := rfl

@[simp] theorem Dev.updChan_ntu (d : Dev) (c : Nat) (f : Chan → Chan) :
    (d.updChan c f).ntu = d.ntu := rfl

@[simp] theorem Dev.updChan_cku (d : Dev) (c : Nat) (f : Chan → Chan) :
    (d.updChan c f).cku = d.cku := rfl

@[simp] theorem Dev.updChan_integ (d : Dev) (c : Nat) (f : Chan → Chan) :
    (d.updChan c f).integ = d.integ := rfl

@[simp] theorem Dev.updChan_stb (d : Dev) (c : Nat) (f : Chan → Chan) :
    (d.updChan c f).stb = d.stb := rfl

@[simp] theorem Dev.updChan_bufs (d : Dev) (c : Nat) (f : Chan → Chan) :
    (d.updChan c f).bufs = d.bufs := rfl

@[simp] theorem Dev.updChan_minSeen (d : Dev) (c : Nat) (f : Chan → Chan) :
    (d.updChan c f).minSeen = d.minSeen := rfl

@[simp] theorem Dev.updChan_poolAt (d : Dev) (c : Nat) (f : Chan → Chan) :
    (d.updChan c f).poolAt = d.poolAt := rfl

@[simp] theorem Dev.updChan_pmu (d : Dev) (c : Nat) (f : Chan → Chan) :
    (d.updChan c f).pmu = d.pmu := rfl

@[simp] theorem Dev.updChan_host (d : Dev) (c : Nat) (f : Chan → Chan) :
    (d.updChan c f).host = d.host := rfl

@[simp] theorem Dev.updChan_halter (d : Dev) (c : Nat) (f : Chan → Chan) :
    (d.updChan c f).halter = d.halter := rfl

@[simp] theorem Dev.updChan_epochs (d : Dev) (c : Nat) (f : Chan → Chan) :
    (d.updChan c f).epochs = d.epochs := rfl

@[simp] theorem Dev.updChan_drvInj (d : Dev) (c : Nat) (f : Chan → Chan) :
    (d.updChan c f).drvInj = d.drvInj := rfl

@[simp] theorem Dev.updChan_hostInj (d : Dev) (c : Nat) (f : Chan → Chan) :
    (d.updChan c f).hostInj = d.hostInj := rfl

@[simp] theorem Dev.updChan_slices (d : Dev) (c : Nat) (f : Chan → Chan) :
    (d.updChan c f).slices = d.slices := rfl

@[simp] theorem Dev.updChan_ports (d : Dev) (c : Nat) (f : Chan → Chan) :
    (d.updChan c f).ports = d.ports := rfl

@[simp] theorem Dev.updChan_cars (d : Dev) (c : Nat) (f : Chan → Chan) :
    (d.updChan c f).cars = d.cars := rfl

@[simp] theorem Dev.updChan_holdIns (d : Dev) (c : Nat) (f : Chan → Chan) :
    (d.updChan c f).holdIns = d.holdIns := rfl

@[simp] theorem Dev.updChan_flow (d : Dev) (c : Nat) (f : Chan → Chan) :
    (d.updChan c f).flow = d.flow := rfl

@[simp] theorem Dev.updChan_fwd (d : Dev) (c : Nat) (f : Chan → Chan) :
    (d.updChan c f).fwd = d.fwd := rfl

@[simp] theorem Dev.updChan_tm (d : Dev) (c : Nat) (f : Chan → Chan) :
    (d.updChan c f).tm = d.tm := rfl

@[simp] theorem Dev.updChan_team (d : Dev) (c : Nat) (f : Chan → Chan) :
    (d.updChan c f).team = d.team := rfl

@[simp] theorem Dev.updChan_life (d : Dev) (c : Nat) (f : Chan → Chan) :
    (d.updChan c f).life = d.life := rfl

@[simp] theorem Dev.updChan_ld (d : Dev) (c : Nat) (f : Chan → Chan) :
    (d.updChan c f).ld = d.ld := rfl

@[simp] theorem Dev.sendVia_regs (d : Dev) (h : Bool) (m : HMsg) :
    (d.sendVia h m).regs = d.regs := rfl

@[simp] theorem Dev.sendVia_hold (d : Dev) (h : Bool) (m : HMsg) :
    (d.sendVia h m).hold = d.hold := rfl

@[simp] theorem Dev.sendVia_staged (d : Dev) (h : Bool) (m : HMsg) :
    (d.sendVia h m).staged = d.staged := rfl

@[simp] theorem Dev.sendVia_words (d : Dev) (h : Bool) (m : HMsg) :
    (d.sendVia h m).words = d.words := rfl

@[simp] theorem Dev.sendVia_cycle (d : Dev) (h : Bool) (m : HMsg) :
    (d.sendVia h m).cycle = d.cycle := rfl

@[simp] theorem Dev.sendVia_free (d : Dev) (h : Bool) (m : HMsg) :
    (d.sendVia h m).free = d.free := rfl

@[simp] theorem Dev.sendVia_ntu (d : Dev) (h : Bool) (m : HMsg) :
    (d.sendVia h m).ntu = d.ntu := rfl

@[simp] theorem Dev.sendVia_cku (d : Dev) (h : Bool) (m : HMsg) :
    (d.sendVia h m).cku = d.cku := rfl

@[simp] theorem Dev.sendVia_integ (d : Dev) (h : Bool) (m : HMsg) :
    (d.sendVia h m).integ = d.integ := rfl

@[simp] theorem Dev.sendVia_drv (d : Dev) (h : Bool) (m : HMsg) :
    (d.sendVia h m).drv = d.drv := rfl

@[simp] theorem Dev.sendVia_stb (d : Dev) (h : Bool) (m : HMsg) :
    (d.sendVia h m).stb = d.stb := rfl

@[simp] theorem Dev.sendVia_bufs (d : Dev) (h : Bool) (m : HMsg) :
    (d.sendVia h m).bufs = d.bufs := rfl

@[simp] theorem Dev.sendVia_minSeen (d : Dev) (h : Bool) (m : HMsg) :
    (d.sendVia h m).minSeen = d.minSeen := rfl

@[simp] theorem Dev.sendVia_poolAt (d : Dev) (h : Bool) (m : HMsg) :
    (d.sendVia h m).poolAt = d.poolAt := rfl

@[simp] theorem Dev.sendVia_pmu (d : Dev) (h : Bool) (m : HMsg) :
    (d.sendVia h m).pmu = d.pmu := rfl

@[simp] theorem Dev.sendVia_host (d : Dev) (h : Bool) (m : HMsg) :
    (d.sendVia h m).host = d.host := rfl

@[simp] theorem Dev.sendVia_epochs (d : Dev) (h : Bool) (m : HMsg) :
    (d.sendVia h m).epochs = d.epochs := rfl

@[simp] theorem Dev.sendVia_drvInj (d : Dev) (h : Bool) (m : HMsg) :
    (d.sendVia h m).drvInj = d.drvInj := rfl

@[simp] theorem Dev.sendVia_hostInj (d : Dev) (h : Bool) (m : HMsg) :
    (d.sendVia h m).hostInj = d.hostInj := rfl

@[simp] theorem Dev.sendVia_slices (d : Dev) (h : Bool) (m : HMsg) :
    (d.sendVia h m).slices = d.slices := rfl

@[simp] theorem Dev.sendVia_ports (d : Dev) (h : Bool) (m : HMsg) :
    (d.sendVia h m).ports = d.ports := rfl

@[simp] theorem Dev.sendVia_cars (d : Dev) (h : Bool) (m : HMsg) :
    (d.sendVia h m).cars = d.cars := rfl

@[simp] theorem Dev.sendVia_holdIns (d : Dev) (h : Bool) (m : HMsg) :
    (d.sendVia h m).holdIns = d.holdIns := rfl

@[simp] theorem Dev.sendVia_flow (d : Dev) (h : Bool) (m : HMsg) :
    (d.sendVia h m).flow = d.flow := rfl

@[simp] theorem Dev.sendVia_fwd (d : Dev) (h : Bool) (m : HMsg) :
    (d.sendVia h m).fwd = d.fwd := rfl

@[simp] theorem Dev.sendVia_tm (d : Dev) (h : Bool) (m : HMsg) :
    (d.sendVia h m).tm = d.tm := rfl

@[simp] theorem Dev.sendVia_team (d : Dev) (h : Bool) (m : HMsg) :
    (d.sendVia h m).team = d.team := rfl

@[simp] theorem Dev.sendVia_life (d : Dev) (h : Bool) (m : HMsg) :
    (d.sendVia h m).life = d.life := rfl

@[simp] theorem Dev.sendVia_ld (d : Dev) (h : Bool) (m : HMsg) :
    (d.sendVia h m).ld = d.ld := rfl

@[simp] theorem Dev.elapse_regs (d : Dev) (n : Nat) :
    (d.elapse n).regs = d.regs := rfl

@[simp] theorem Dev.elapse_hold (d : Dev) (n : Nat) :
    (d.elapse n).hold = d.hold := rfl

@[simp] theorem Dev.elapse_staged (d : Dev) (n : Nat) :
    (d.elapse n).staged = d.staged := rfl

@[simp] theorem Dev.elapse_words (d : Dev) (n : Nat) :
    (d.elapse n).words = d.words := rfl

@[simp] theorem Dev.elapse_free (d : Dev) (n : Nat) :
    (d.elapse n).free = d.free := rfl

@[simp] theorem Dev.elapse_cku (d : Dev) (n : Nat) :
    (d.elapse n).cku = d.cku := rfl

@[simp] theorem Dev.elapse_integ (d : Dev) (n : Nat) :
    (d.elapse n).integ = d.integ := rfl

@[simp] theorem Dev.elapse_drv (d : Dev) (n : Nat) :
    (d.elapse n).drv = d.drv := rfl

@[simp] theorem Dev.elapse_stb (d : Dev) (n : Nat) :
    (d.elapse n).stb = d.stb := rfl

@[simp] theorem Dev.elapse_bufs (d : Dev) (n : Nat) :
    (d.elapse n).bufs = d.bufs := rfl

@[simp] theorem Dev.elapse_minSeen (d : Dev) (n : Nat) :
    (d.elapse n).minSeen = d.minSeen := rfl

@[simp] theorem Dev.elapse_poolAt (d : Dev) (n : Nat) :
    (d.elapse n).poolAt = d.poolAt := rfl

@[simp] theorem Dev.elapse_pmu (d : Dev) (n : Nat) :
    (d.elapse n).pmu = d.pmu := rfl

@[simp] theorem Dev.elapse_host (d : Dev) (n : Nat) :
    (d.elapse n).host = d.host := rfl

@[simp] theorem Dev.elapse_halter (d : Dev) (n : Nat) :
    (d.elapse n).halter = d.halter := rfl

@[simp] theorem Dev.elapse_epochs (d : Dev) (n : Nat) :
    (d.elapse n).epochs = d.epochs := rfl

@[simp] theorem Dev.elapse_drvInj (d : Dev) (n : Nat) :
    (d.elapse n).drvInj = d.drvInj := rfl

@[simp] theorem Dev.elapse_hostInj (d : Dev) (n : Nat) :
    (d.elapse n).hostInj = d.hostInj := rfl

@[simp] theorem Dev.elapse_slices (d : Dev) (n : Nat) :
    (d.elapse n).slices = d.slices := rfl

@[simp] theorem Dev.elapse_ports (d : Dev) (n : Nat) :
    (d.elapse n).ports = d.ports := rfl

@[simp] theorem Dev.elapse_cars (d : Dev) (n : Nat) :
    (d.elapse n).cars = d.cars := rfl

@[simp] theorem Dev.elapse_holdIns (d : Dev) (n : Nat) :
    (d.elapse n).holdIns = d.holdIns := rfl

@[simp] theorem Dev.elapse_flow (d : Dev) (n : Nat) :
    (d.elapse n).flow = d.flow := rfl

@[simp] theorem Dev.elapse_fwd (d : Dev) (n : Nat) :
    (d.elapse n).fwd = d.fwd := rfl

@[simp] theorem Dev.elapse_tm (d : Dev) (n : Nat) :
    (d.elapse n).tm = d.tm := rfl

@[simp] theorem Dev.elapse_team (d : Dev) (n : Nat) :
    (d.elapse n).team = d.team := rfl

@[simp] theorem Dev.elapse_life (d : Dev) (n : Nat) :
    (d.elapse n).life = d.life := rfl

@[simp] theorem Dev.elapse_ld (d : Dev) (n : Nat) :
    (d.elapse n).ld = d.ld := rfl

@[simp] theorem Dev.toCycle_regs (d : Dev) (c : Nat) :
    (d.toCycle c).regs = d.regs := rfl

@[simp] theorem Dev.toCycle_hold (d : Dev) (c : Nat) :
    (d.toCycle c).hold = d.hold := rfl

@[simp] theorem Dev.toCycle_staged (d : Dev) (c : Nat) :
    (d.toCycle c).staged = d.staged := rfl

@[simp] theorem Dev.toCycle_words (d : Dev) (c : Nat) :
    (d.toCycle c).words = d.words := rfl

@[simp] theorem Dev.toCycle_free (d : Dev) (c : Nat) :
    (d.toCycle c).free = d.free := rfl

@[simp] theorem Dev.toCycle_cku (d : Dev) (c : Nat) :
    (d.toCycle c).cku = d.cku := rfl

@[simp] theorem Dev.toCycle_integ (d : Dev) (c : Nat) :
    (d.toCycle c).integ = d.integ := rfl

@[simp] theorem Dev.toCycle_drv (d : Dev) (c : Nat) :
    (d.toCycle c).drv = d.drv := rfl

@[simp] theorem Dev.toCycle_stb (d : Dev) (c : Nat) :
    (d.toCycle c).stb = d.stb := rfl

@[simp] theorem Dev.toCycle_bufs (d : Dev) (c : Nat) :
    (d.toCycle c).bufs = d.bufs := rfl

@[simp] theorem Dev.toCycle_minSeen (d : Dev) (c : Nat) :
    (d.toCycle c).minSeen = d.minSeen := rfl

@[simp] theorem Dev.toCycle_poolAt (d : Dev) (c : Nat) :
    (d.toCycle c).poolAt = d.poolAt := rfl

@[simp] theorem Dev.toCycle_pmu (d : Dev) (c : Nat) :
    (d.toCycle c).pmu = d.pmu := rfl

@[simp] theorem Dev.toCycle_host (d : Dev) (c : Nat) :
    (d.toCycle c).host = d.host := rfl

@[simp] theorem Dev.toCycle_halter (d : Dev) (c : Nat) :
    (d.toCycle c).halter = d.halter := rfl

@[simp] theorem Dev.toCycle_epochs (d : Dev) (c : Nat) :
    (d.toCycle c).epochs = d.epochs := rfl

@[simp] theorem Dev.toCycle_drvInj (d : Dev) (c : Nat) :
    (d.toCycle c).drvInj = d.drvInj := rfl

@[simp] theorem Dev.toCycle_hostInj (d : Dev) (c : Nat) :
    (d.toCycle c).hostInj = d.hostInj := rfl

@[simp] theorem Dev.toCycle_slices (d : Dev) (c : Nat) :
    (d.toCycle c).slices = d.slices := rfl

@[simp] theorem Dev.toCycle_ports (d : Dev) (c : Nat) :
    (d.toCycle c).ports = d.ports := rfl

@[simp] theorem Dev.toCycle_cars (d : Dev) (c : Nat) :
    (d.toCycle c).cars = d.cars := rfl

@[simp] theorem Dev.toCycle_holdIns (d : Dev) (c : Nat) :
    (d.toCycle c).holdIns = d.holdIns := rfl

@[simp] theorem Dev.toCycle_flow (d : Dev) (c : Nat) :
    (d.toCycle c).flow = d.flow := rfl

@[simp] theorem Dev.toCycle_fwd (d : Dev) (c : Nat) :
    (d.toCycle c).fwd = d.fwd := rfl

@[simp] theorem Dev.toCycle_tm (d : Dev) (c : Nat) :
    (d.toCycle c).tm = d.tm := rfl

@[simp] theorem Dev.toCycle_team (d : Dev) (c : Nat) :
    (d.toCycle c).team = d.team := rfl

@[simp] theorem Dev.toCycle_life (d : Dev) (c : Nat) :
    (d.toCycle c).life = d.life := rfl

@[simp] theorem Dev.toCycle_ld (d : Dev) (c : Nat) :
    (d.toCycle c).ld = d.ld := rfl

@[simp] theorem Dev.updSlot_regs (d : Dev) (n : Nat) (f : SlotSt → SlotSt) :
    (d.updSlot n f).regs = d.regs := rfl

@[simp] theorem Dev.updSlot_hold (d : Dev) (n : Nat) (f : SlotSt → SlotSt) :
    (d.updSlot n f).hold = d.hold := rfl

@[simp] theorem Dev.updSlot_staged (d : Dev) (n : Nat) (f : SlotSt → SlotSt) :
    (d.updSlot n f).staged = d.staged := rfl

@[simp] theorem Dev.updSlot_words (d : Dev) (n : Nat) (f : SlotSt → SlotSt) :
    (d.updSlot n f).words = d.words := rfl

@[simp] theorem Dev.updSlot_cycle (d : Dev) (n : Nat) (f : SlotSt → SlotSt) :
    (d.updSlot n f).cycle = d.cycle := rfl

@[simp] theorem Dev.updSlot_free (d : Dev) (n : Nat) (f : SlotSt → SlotSt) :
    (d.updSlot n f).free = d.free := rfl

@[simp] theorem Dev.updSlot_ntu (d : Dev) (n : Nat) (f : SlotSt → SlotSt) :
    (d.updSlot n f).ntu = d.ntu := rfl

@[simp] theorem Dev.updSlot_cku (d : Dev) (n : Nat) (f : SlotSt → SlotSt) :
    (d.updSlot n f).cku = d.cku := rfl

@[simp] theorem Dev.updSlot_integ (d : Dev) (n : Nat) (f : SlotSt → SlotSt) :
    (d.updSlot n f).integ = d.integ := rfl

@[simp] theorem Dev.updSlot_drv (d : Dev) (n : Nat) (f : SlotSt → SlotSt) :
    (d.updSlot n f).drv = d.drv := rfl

@[simp] theorem Dev.updSlot_stb (d : Dev) (n : Nat) (f : SlotSt → SlotSt) :
    (d.updSlot n f).stb = d.stb := rfl

@[simp] theorem Dev.updSlot_bufs (d : Dev) (n : Nat) (f : SlotSt → SlotSt) :
    (d.updSlot n f).bufs = d.bufs := rfl

@[simp] theorem Dev.updSlot_minSeen (d : Dev) (n : Nat) (f : SlotSt → SlotSt) :
    (d.updSlot n f).minSeen = d.minSeen := rfl

@[simp] theorem Dev.updSlot_poolAt (d : Dev) (n : Nat) (f : SlotSt → SlotSt) :
    (d.updSlot n f).poolAt = d.poolAt := rfl

@[simp] theorem Dev.updSlot_host (d : Dev) (n : Nat) (f : SlotSt → SlotSt) :
    (d.updSlot n f).host = d.host := rfl

@[simp] theorem Dev.updSlot_halter (d : Dev) (n : Nat) (f : SlotSt → SlotSt) :
    (d.updSlot n f).halter = d.halter := rfl

@[simp] theorem Dev.updSlot_epochs (d : Dev) (n : Nat) (f : SlotSt → SlotSt) :
    (d.updSlot n f).epochs = d.epochs := rfl

@[simp] theorem Dev.updSlot_drvInj (d : Dev) (n : Nat) (f : SlotSt → SlotSt) :
    (d.updSlot n f).drvInj = d.drvInj := rfl

@[simp] theorem Dev.updSlot_hostInj (d : Dev) (n : Nat) (f : SlotSt → SlotSt) :
    (d.updSlot n f).hostInj = d.hostInj := rfl

@[simp] theorem Dev.updSlot_slices (d : Dev) (n : Nat) (f : SlotSt → SlotSt) :
    (d.updSlot n f).slices = d.slices := rfl

@[simp] theorem Dev.updSlot_ports (d : Dev) (n : Nat) (f : SlotSt → SlotSt) :
    (d.updSlot n f).ports = d.ports := rfl

@[simp] theorem Dev.updSlot_cars (d : Dev) (n : Nat) (f : SlotSt → SlotSt) :
    (d.updSlot n f).cars = d.cars := rfl

@[simp] theorem Dev.updSlot_holdIns (d : Dev) (n : Nat) (f : SlotSt → SlotSt) :
    (d.updSlot n f).holdIns = d.holdIns := rfl

@[simp] theorem Dev.updSlot_flow (d : Dev) (n : Nat) (f : SlotSt → SlotSt) :
    (d.updSlot n f).flow = d.flow := rfl

@[simp] theorem Dev.updSlot_fwd (d : Dev) (n : Nat) (f : SlotSt → SlotSt) :
    (d.updSlot n f).fwd = d.fwd := rfl

@[simp] theorem Dev.updSlot_tm (d : Dev) (n : Nat) (f : SlotSt → SlotSt) :
    (d.updSlot n f).tm = d.tm := rfl

@[simp] theorem Dev.updSlot_team (d : Dev) (n : Nat) (f : SlotSt → SlotSt) :
    (d.updSlot n f).team = d.team := rfl

@[simp] theorem Dev.updSlot_life (d : Dev) (n : Nat) (f : SlotSt → SlotSt) :
    (d.updSlot n f).life = d.life := rfl

@[simp] theorem Dev.updSlot_ld (d : Dev) (n : Nat) (f : SlotSt → SlotSt) :
    (d.updSlot n f).ld = d.ld := rfl

@[simp] theorem Dev.elapse_cycle (d : Dev) (n : Nat) :
    (d.elapse n).cycle = d.cycle + n := rfl

@[simp] theorem Dev.updSlot_slots (d : Dev) (n : Nat) (f : SlotSt → SlotSt) :
    (d.updSlot n f).pmu.slots = upd0 d.pmu.slots n f := rfl

@[simp] theorem Dev.answer_rdata (d : Dev) (q : Nat) (v : Word) :
    (d.answer q v).host.rdata = Sparse.set 0 d.host.rdata q v := rfl

end Sys2Proof.Machine
end

