-- ==== Sys2Proof/Laws/Regs.lean ====
section
/-! SUPPORT. Laws of the register file: a register and a field read as written, every other register as before. -/

namespace Sys2Proof.Machine

/-- The key of a register names its offset and its element. -/
theorem regKey_inj {off off' i i' : Nat} (hi : i < 2 ^ 20) (hi' : i' < 2 ^ 20) (h : regKey off i = regKey off' i') :
    off = off' ∧ i = i' := by
  unfold regKey at h; omega

theorem regKey_ne {off off' i i' : Nat} (hi : i < 2 ^ 20) (hi' : i' < 2 ^ 20) (h : off' ≠ off ∨ i' ≠ i) :
    regKey off' i' ≠ regKey off i := fun e => by
  have := regKey_inj hi' hi e; tauto

/-- A register reads as written. -/
@[simp] theorem Dev.rget_rset (d : Dev) (off i : Nat) (v : Word) : (d.rset off i v).rget off i = v := by
  simp [Dev.rget]

/-- Every other register reads as before. -/
theorem Dev.rget_rset_ne (d : Dev) {off off' i i' : Nat} (v : Word) (h : regKey off' i' ≠ regKey off i) :
    (d.rset off i v).rget off' i' = d.rget off' i' := by
  simp only [Dev.rget, Dev.rset_regs]
  exact Sparse.get_set_default _ _ _ _ h

theorem Dev.rget_rset_other (d : Dev) {off off' i i' : Nat} (v : Word) (hi : i < 2 ^ 20) (hi' : i' < 2 ^ 20)
    (h : off' ≠ off ∨ i' ≠ i) : (d.rset off i v).rget off' i' = d.rget off' i' :=
  Dev.rget_rset_ne d v (regKey_ne hi hi' h)

/-- The word after a field was set. -/
@[simp] theorem Dev.rget_fset (d : Dev) (f : Fld) (i v : Nat) :
    (d.fset f i v).rget f.off i = BitVec.ofNat 32 (setBits (d.rget f.off i).toNat f.lo f.w v) := by
  simp [Dev.fset]

theorem Dev.rget_fset_ne (d : Dev) (f : Fld) {i v off' i' : Nat} (h : regKey off' i' ≠ regKey f.off i) :
    (d.fset f i v).rget off' i' = d.rget off' i' := Dev.rget_rset_ne d _ h

theorem Dev.rget_fset_other (d : Dev) (f : Fld) {i v off' i' : Nat} (hi : i < 2 ^ 20) (hi' : i' < 2 ^ 20)
    (h : off' ≠ f.off ∨ i' ≠ i) : (d.fset f i v).rget off' i' = d.rget off' i' :=
  Dev.rget_fset_ne d f (regKey_ne hi hi' h)

theorem setBits_word (w : Word) (lo n v : Nat) (h : lo + n ≤ 32) :
    (BitVec.ofNat 32 (setBits w.toNat lo n v)).toNat = setBits w.toNat lo n v := by
  rw [BitVec.toNat_ofNat]; exact Nat.mod_eq_of_lt (setBits_lt w.isLt h)

/-- A field reads as set. -/
theorem Dev.fget_fset (d : Dev) (f : Fld) (i v : Nat) (h : f.lo + f.w ≤ 32) :
    (d.fset f i v).fget f i = v % 2 ^ f.w := by
  simp [Dev.fget, setBits_word _ _ _ _ h]

/-- Another field of the same register reads as before. -/
theorem Dev.fget_fset_beside (d : Dev) (f g : Fld) (i v : Nat) (ho : g.off = f.off) (hf : f.lo + f.w ≤ 32)
    (h : g.lo + g.w ≤ f.lo ∨ f.lo + f.w ≤ g.lo) : (d.fset f i v).fget g i = d.fget g i := by
  simp only [Dev.fget, ho, Dev.rget_fset, setBits_word _ _ _ _ hf]
  rcases h with h | h
  · exact bits_setBits_low _ _ _ _ _ _ h
  · exact bits_setBits_high _ _ _ _ _ _ h

/-- A field of another register reads as before. -/
theorem Dev.fget_fset_ne (d : Dev) (f g : Fld) {i v i' : Nat} (h : regKey g.off i' ≠ regKey f.off i) :
    (d.fset f i v).fget g i' = d.fget g i' := by
  simp [Dev.fget, Dev.rget_fset_ne d f h]

theorem Dev.fget_rset_ne (d : Dev) (g : Fld) {off i i' : Nat} (v : Word) (h : regKey g.off i' ≠ regKey off i) :
    (d.rset off i v).fget g i' = d.fget g i' := by
  simp [Dev.fget, Dev.rget_rset_ne d v h]

/-- Fields follow their register. -/
theorem Dev.fget_of_rget {d e : Dev} {f : Fld} {i : Nat} (h : e.rget f.off i = d.rget f.off i) : e.fget f i = d.fget f i := by
  simp [Dev.fget, h]

theorem Dev.fget_lt (d : Dev) (f : Fld) (i : Nat) : d.fget f i < 2 ^ f.w := bits_lt _ _ _

/-- A device with the same register file reads the same registers. -/
theorem Dev.rget_congr {d e : Dev} (h : d.regs = e.regs) (off i : Nat) : d.rget off i = e.rget off i := by
  simp [Dev.rget, h]

theorem Dev.fget_congr {d e : Dev} (h : d.regs = e.regs) (f : Fld) (i : Nat) : d.fget f i = e.fget f i := by
  simp [Dev.fget, Dev.rget_congr h]

theorem Dev.fon_congr {d e : Dev} (h : d.regs = e.regs) (f : Fld) (i : Nat) : d.fon f i = e.fon f i := by
  simp [Dev.fon, Dev.fget_congr h]

/-- A count below the maximum of its field (R8). -/
theorem Dev.cnt_below (d : Dev) (f : Fld) (i n : Nat) (h : d.fget f i + n < 2 ^ f.w) :
    d.cnt f i n = d.fset f i (d.fget f i + n) := by simp [Dev.cnt, h]

/-- A count changes its own register alone, and takes at most one free value. -/
theorem Dev.cnt_cases (d : Dev) (f : Fld) (i n : Nat) :
    (∃ v, d.cnt f i n = d.fset f i v) ∨ (∃ v, d.cnt f i n = (d.fresh f.w).2.fset f i v) := by
  unfold Dev.cnt
  split
  · exact .inl ⟨_, rfl⟩
  · exact .inr ⟨_, rfl⟩

theorem Dev.rget_cnt_ne (d : Dev) (f : Fld) {i n off' i' : Nat} (h : regKey off' i' ≠ regKey f.off i) :
    (d.cnt f i n).rget off' i' = d.rget off' i' := by
  rcases Dev.cnt_cases d f i n with ⟨v, e⟩ | ⟨v, e⟩ <;> rw [e, Dev.rget_fset_ne _ _ h]
  exact Dev.rget_congr (by simp) _ _

end Sys2Proof.Machine
end

