-- ==== Sys2Proof/Laws/Drover.lean ====
section
/-! SUPPORT. Laws of Drover threads: what placing slots, retiring and issuing leave alone and set. -/

namespace Sys2Proof.Machine

/-- A property that every change of a list keeps holds after all of them. -/
theorem forAll_keeps {α β : Type} (P : β → Prop) (l : List α) (f : β → α → β) (b : β) (h : P b)
    (hf : ∀ b a, P b → P (f b a)) : P (forAll l f b) := by
  induction l generalizing b with
  | nil => exact h
  | cons a l ih => exact ih (f b a) (hf b a h)

/-! The monitor (R391 to R397): its counts alone change -/

/-- Two devices that differ in the monitor's counts at most. -/
def Dev.PmuOnly (d e : Dev) : Prop := { e with pmu := d.pmu } = d

theorem Dev.PmuOnly.refl (d : Dev) : d.PmuOnly d := rfl

theorem Dev.PmuOnly.trans {d e f : Dev} (h : d.PmuOnly e) (g : e.PmuOnly f) : d.PmuOnly f := by
  have e1 : ({ f with pmu := d.pmu } : Dev) = { ({ f with pmu := e.pmu } : Dev) with pmu := d.pmu } := rfl
  unfold Dev.PmuOnly at *
  rw [e1, g, h]

theorem Dev.PmuOnly.regs {d e : Dev} (h : d.PmuOnly e) : e.regs = d.regs :=
  by unfold Dev.PmuOnly at h; have h1 := congrArg Dev.regs h; exact h1
theorem Dev.PmuOnly.drv {d e : Dev} (h : d.PmuOnly e) : e.drv = d.drv :=
  by unfold Dev.PmuOnly at h; have h1 := congrArg Dev.drv h; exact h1
theorem Dev.PmuOnly.cycle {d e : Dev} (h : d.PmuOnly e) : e.cycle = d.cycle :=
  by unfold Dev.PmuOnly at h; have h1 := congrArg Dev.cycle h; exact h1

theorem Dev.pmuAdd_only (d : Dev) (k n : Nat) : d.PmuOnly (d.pmuAdd k n) := by
  unfold Dev.pmuAdd
  split <;> rfl

theorem Dev.PmuOnly.ite {d e f : Dev} {c : Prop} [Decidable c] (he : d.PmuOnly e) (hf : d.PmuOnly f) :
    d.PmuOnly (if c then e else f) := by split <;> assumption

theorem Dev.PmuOnly.set {d e : Dev} (h : d.PmuOnly e) (p : PmuSt) : d.PmuOnly { e with pmu := p } := h

theorem Dev.updSlot_only (d : Dev) (t : Nat) (f : SlotSt → SlotSt) : d.PmuOnly (d.updSlot t f) := rfl

theorem Dev.thrEvent_only (d : Dev) (t ev n : Nat) (recd : Nat → List Byte) : d.PmuOnly (d.thrEvent t ev n recd) := by
  unfold Dev.thrEvent
  refine Dev.PmuOnly.ite rfl ?_
  dsimp only
  have h := forAll_keeps (fun e => d.PmuOnly e) (List.range 8) (fun d i =>
      if d.fget F.PMU_CCNT_CFG_EVENT (t / 8 * 8 + i) == ev && d.fon F.PMU_CCNT_CFG_EN (t / 8 * 8 + i) &&
        bit (d.fget F.PMU_CCNT_CFG_TMASK (t / 8 * 8 + i)) (t % 8)
      then d.pmuAdd (pmuCore (t / 8) i) n else d) d rfl
    (fun b a hb => Dev.PmuOnly.ite (hb.trans (Dev.pmuAdd_only _ _ _)) hb)
  exact Dev.PmuOnly.ite (h.set _) h

theorem Dev.countSlot_only (d : Dev) (t : Nat) : d.PmuOnly (d.countSlot t) :=
  (Dev.pmuAdd_only d _ _).trans (Dev.updSlot_only _ _ _)

theorem Dev.closeSlot_only (d : Dev) (t j : Nat) : d.PmuOnly (d.closeSlot t j) :=
  Dev.PmuOnly.ite rfl (Dev.PmuOnly.ite (Dev.updSlot_only _ _ _) (Dev.pmuAdd_only _ _ _))

theorem Dev.placeSlot_only (d : Dev) (t : Nat) (wasted : Bool) (fault : Nat) (evs : List Nat) :
    d.PmuOnly (d.placeSlot t wasted fault evs) := by
  unfold Dev.placeSlot
  dsimp only
  have h0 := (Dev.closeSlot_only d t (if wasted then 2 else 1)).trans (Dev.updSlot_only _ t (fun x => { x with filled := none }))
  refine Dev.PmuOnly.ite h0 (forAll_keeps (fun e => d.PmuOnly e) evs _ _ ?_ (fun b a hb => hb.trans (Dev.thrEvent_only _ _ _ _ _)))
  split
  · exact ((h0.trans (Dev.thrEvent_only _ _ _ _ _)).trans (Dev.thrEvent_only _ _ _ _ _)).trans (Dev.thrEvent_only _ _ _ _ _)
  · exact (h0.trans (Dev.thrEvent_only _ _ _ _ _)).trans (Dev.thrEvent_only _ _ _ _ _)

theorem Dev.passSlots_only (d : Dev) (t j ev a b : Nat) : d.PmuOnly (d.passSlots t j ev a b) := by
  unfold Dev.passSlots
  dsimp only
  split
  · exact ((Dev.pmuAdd_only d _ _).trans (Dev.pmuAdd_only _ _ _)).trans (Dev.thrEvent_only _ _ _ _ _)
  · exact (((Dev.pmuAdd_only d _ _).trans (Dev.pmuAdd_only _ _ _)).trans (Dev.thrEvent_only _ _ _ _ _)).trans
      (Dev.thrEvent_only _ _ _ _ _)

theorem Dev.passed_only (d : Dev) (t : Nat) : d.PmuOnly (d.passed t) := by
  unfold Dev.passed
  dsimp only
  split
  · rfl
  · split
    · exact (Dev.passSlots_only d _ _ _ _ _).trans (Dev.passSlots_only _ _ _ _ _ _)
    · exact Dev.passSlots_only d _ _ _ _ _

/-! Threads -/

theorem Dev.thr_updThr (d : Dev) (n t : Nat) (f : Thread → Thread) :
    (d.updThr n f).thr t = if t = n then f (d.thr n) else d.thr t := by
  simp only [Dev.thr, at0, Dev.updThr_threads, upd0, Sparse.get_upd]

@[simp] theorem Dev.thr_updThr_same (d : Dev) (n : Nat) (f : Thread → Thread) : (d.updThr n f).thr n = f (d.thr n) := by
  simp [Dev.thr_updThr]

theorem Dev.gr_updThr_keep (d : Dev) (n t r : Nat) (f : Thread → Thread) (h : ∀ x, (f x).g = x.g) :
    (d.updThr n f).gr t r = d.gr t r := by
  simp only [Dev.gr, Dev.thr_updThr]
  split
  · rfl
  · split
    · rename_i e; subst e; rw [h]
    · rfl

theorem Dev.thr_congr {d e : Dev} (h : d.drv.threads = e.drv.threads) (t : Nat) : d.thr t = e.thr t := by
  simp [Dev.thr, h]

theorem Dev.gr_congr {d e : Dev} (h : d.drv.threads = e.drv.threads) (t r : Nat) : d.gr t r = e.gr t r := by
  simp [Dev.gr, Dev.thr_congr h]

/-- A general register reads as written; g0 reads 0 (R339). -/
theorem Dev.gr_setGr (d : Dev) (t r : Nat) (v : Word) (t' r' : Nat) :
    (d.setGr t r v).gr t' r' = if t' = t ∧ r' = r ∧ r ≠ 0 then v else d.gr t' r' := by
  unfold Dev.setGr
  by_cases hr : r = 0
  · simp [hr]
  · rw [if_neg hr]
    simp only [Dev.gr, Dev.thr_updThr]
    by_cases h1 : r' = 0
    · subst h1
      have : ¬ (t' = t ∧ 0 = r ∧ r ≠ 0) := fun h => hr h.2.1.symm
      simp [this]
    · by_cases h2 : t' = t
      · subst h2
        simp only [if_neg h1, if_true, Sparse.get_set, true_and]
        by_cases h3 : r' = r
        · simp [h3, hr]
        · simp [h3]
      · simp [h1, h2]

/-! What a thread's own state keeps when the monitor places its slots -/

/-- Two devices that differ in what a thread t holds beside its general registers and PC, and in the monitor. -/
theorem Dev.settle_regs (d : Dev) (t : Nat) : (d.settle t).regs = d.regs := by
  exact (Dev.passed_only d t).regs

theorem Dev.settle_thr (d : Dev) (t n : Nat) :
    (d.settle t).thr n = if n = t then { d.thr t with slotsAt := max (d.thr t).slotsAt d.cycle } else d.thr n := by
  have : ∀ k, (d.passed t).thr k = d.thr k := fun k => Dev.thr_congr (by rw [(Dev.passed_only d t).drv]) k
  unfold Dev.settle
  rw [Dev.thr_updThr]
  simp [this]

theorem Dev.stallWatch_regs (d : Dev) (t : Nat) : (d.stallWatch t).regs = d.regs := by
  unfold Dev.stallWatch; dsimp only; split
  · split <;> rfl
  · rfl

theorem Dev.stallWatch_thr (d : Dev) (t n : Nat) : (d.stallWatch t).thr n = d.thr n := by
  unfold Dev.stallWatch; dsimp only; split
  · split <;> rfl
  · rfl

/-- The register file after a thread's STATE changes. -/
theorem Dev.enter_regs (d : Dev) (t st : Nat) (h : Hold) :
    (d.enter t st h).regs = (d.fset F.THREAD_STATUS_STATE t st).regs := by
  unfold Dev.enter
  dsimp only
  rw [Dev.stallWatch_regs, Dev.updThr_regs]
  simp only [Dev.fset, Dev.rset_regs, Dev.settle_regs]
  rw [Dev.rget_congr (Dev.settle_regs d t)]

theorem Dev.enter_thr (d : Dev) (t st : Nat) (h : Hold) (n : Nat) :
    (d.enter t st h).thr n = if n = t then { d.thr t with slotsAt := max (d.thr t).slotsAt d.cycle, hold := h } else d.thr n := by
  unfold Dev.enter
  dsimp only
  rw [Dev.stallWatch_thr, Dev.thr_updThr]
  have : ∀ k, ((d.settle t).fset F.THREAD_STATUS_STATE t st).thr k = (d.settle t).thr k := fun k => Dev.thr_congr (by simp) k
  simp only [this, Dev.settle_thr, if_true]
  split <;> simp_all

/-! Frames of a thread's own changes -/

@[simp] theorem Dev.fset_thr (d : Dev) (f : Fld) (i v n : Nat) : (d.fset f i v).thr n = d.thr n := rfl
@[simp] theorem Dev.fset_gr (d : Dev) (f : Fld) (i v n r : Nat) : (d.fset f i v).gr n r = d.gr n r := rfl

theorem Dev.threadFrame.refl (d : Dev) (t : Nat) : d.threadFrame d t := ⟨rfl, rfl, fun _ _ => rfl, fun _ _ _ _ => rfl, rfl⟩

theorem Dev.threadFrame.trans {d e f : Dev} {t : Nat} (h : d.threadFrame e t) (g : e.threadFrame f t) : d.threadFrame f t := by
  obtain ⟨h1, h2, h3, h4, h5⟩ := h
  obtain ⟨g1, g2, g3, g4, g5⟩ := g
  refine ⟨?_, ?_, fun n hn => (g3 n hn).trans (h3 n hn), fun off i hi hx => (g4 off i hi hx).trans (h4 off i hi hx), g5.trans h5⟩
  · have k : ({ f with regs := d.regs, pmu := d.pmu, drv := d.drv } : Dev) =
        { ({ f with regs := e.regs, pmu := e.pmu, drv := e.drv } : Dev) with regs := d.regs, pmu := d.pmu, drv := d.drv } := rfl
    rw [k, g1, h1]
  · have k : ({ f.drv with threads := d.drv.threads, stallSince := d.drv.stallSince, slotAt := d.drv.slotAt } : DrvSt) =
        { ({ f.drv with threads := e.drv.threads, stallSince := e.drv.stallSince, slotAt := e.drv.slotAt } : DrvSt) with
          threads := d.drv.threads, stallSince := d.drv.stallSince, slotAt := d.drv.slotAt } := rfl
    rw [k, g2, h2]

/-- A change of thread t's own record. -/
theorem Dev.updThr_frame (d : Dev) (t : Nat) (f : Thread → Thread) : d.threadFrame (d.updThr t f) t :=
  ⟨rfl, rfl, fun n hn => by rw [Dev.thr_updThr, if_neg hn], fun _ _ _ _ => rfl, rfl⟩

theorem Dev.PmuOnly.frame {d e : Dev} (h : d.PmuOnly e) (t : Nat) : d.threadFrame e t := by
  unfold Dev.PmuOnly at h
  refine ⟨?_, ?_, fun n _ => ?_, fun _ _ _ _ => ?_, ?_⟩
  · have k : ({ e with regs := d.regs, pmu := d.pmu, drv := d.drv } : Dev) =
        { ({ e with pmu := d.pmu } : Dev) with regs := d.regs, drv := d.drv } := rfl
    rw [k, h]
  · have := Dev.PmuOnly.drv h; rw [this]
  · exact Dev.thr_congr (by rw [Dev.PmuOnly.drv h]) n
  · exact Dev.rget_congr (Dev.PmuOnly.regs h) _ _
  · exact Dev.fget_congr (Dev.PmuOnly.regs h) _ _

/-- A field of one of the four registers of thread t, other than IN_TRAP. -/
theorem Dev.fset_frame (d : Dev) (f : Fld) (t v : Nat) (ht : t < 2 ^ 20)
    (hf : f.off ∈ [R.THREAD_PC, R.THREAD_STATUS, R.DBG_STATUS, R.DBG_PC])
    (hs : (d.fset f t v).fget F.THREAD_STATUS_IN_TRAP t = d.fget F.THREAD_STATUS_IN_TRAP t) : d.threadFrame (d.fset f t v) t := by
  refine ⟨rfl, rfl, fun _ _ => rfl, fun off i hi hx => ?_, hs⟩
  refine Dev.rget_fset_other d f ht hi ?_
  by_contra hc
  push Not at hc
  exact hx ⟨hc.2, hc.1 ▸ hf⟩

theorem Dev.stallWatch_frame (d : Dev) (t : Nat) : d.threadFrame (d.stallWatch t) t := by
  refine ⟨?_, ?_, fun n _ => Dev.stallWatch_thr d t n, fun off i _ _ => Dev.rget_congr (Dev.stallWatch_regs d t) off i,
    Dev.fget_congr (Dev.stallWatch_regs d t) _ _⟩
  all_goals
    unfold Dev.stallWatch; dsimp only; split
    · split <;> rfl
    · rfl

theorem Dev.settle_frame (d : Dev) (t : Nat) : d.threadFrame (d.settle t) t :=
  ((Dev.passed_only d t).frame t).trans (Dev.updThr_frame _ _ _)

/-- STATE of a thread is set; IN_TRAP stands. -/
theorem Dev.state_frame (d : Dev) (t st : Nat) (ht : t < 2 ^ 20) : d.threadFrame (d.fset F.THREAD_STATUS_STATE t st) t :=
  Dev.fset_frame d _ t st ht (by decide) (Dev.fget_fset_beside d _ _ t st rfl (by decide) (by decide))

/-- A field of another register than THREAD_STATUS. -/
theorem Dev.pc_frame (d : Dev) (f : Fld) (t v : Nat) (ht : t < 2 ^ 20) (hf : f.off ∈ [R.THREAD_PC, R.DBG_STATUS, R.DBG_PC]) :
    d.threadFrame (d.fset f t v) t := by
  refine Dev.fset_frame d f t v ht ?_ (Dev.fget_fset_ne d f _ (regKey_ne ht ht (.inl ?_)))
  · simp only [List.mem_cons] at hf ⊢; tauto
  · intro h
    rw [← h] at hf
    revert hf; decide

theorem Dev.enter_frame (d : Dev) (t st : Nat) (h : Hold) (ht : t < 2 ^ 20) : d.threadFrame (d.enter t st h) t :=
  (((Dev.settle_frame d t).trans (Dev.state_frame _ t st ht)).trans (Dev.updThr_frame _ t _)).trans (Dev.stallWatch_frame _ t)

theorem Dev.halt_frame (d : Dev) (t cause : Nat) (ht : t < 2 ^ 20) : d.threadFrame (d.halt t cause) t :=
  ((((Dev.enter_frame d t 4 _ ht).trans (Dev.pc_frame _ F.DBG_STATUS_HALTED t 1 ht (by decide))).trans
    (Dev.pc_frame _ F.DBG_STATUS_CAUSE t cause ht (by decide))).trans (Dev.pc_frame _ F.DBG_PC_PC t _ ht (by decide))).trans
    (Dev.updThr_frame _ t _)

theorem Dev.afterSlot_frame (d : Dev) (t : Nat) (ht : t < 2 ^ 20) : d.threadFrame (d.afterSlot t) t := by
  unfold Dev.afterSlot
  split
  · exact Dev.halt_frame d t 1 ht
  · split
    · exact Dev.halt_frame d t 2 ht
    · exact Dev.threadFrame.refl d t

/-- What an instruction that retires leaves alone. -/
theorem Dev.retireAt_frame (d : Dev) (t next : Nat) (evs : List Nat) (ht : t < 2 ^ 20) :
    d.threadFrame (d.retireAt t next evs) t :=
  (((((Dev.settle_frame d t).trans ((Dev.placeSlot_only _ t false 0 evs).frame t)).trans
    (Dev.pc_frame _ F.THREAD_PC_PC t _ ht (by decide))).trans (Dev.updThr_frame _ t _)).trans
    (Dev.enter_frame _ t 1 .none ht)).trans (Dev.afterSlot_frame _ t ht)

theorem Dev.setGr_frame (d : Dev) (t r : Nat) (v : Word) : d.threadFrame (d.setGr t r v) t := by
  unfold Dev.setGr
  split
  · exact Dev.threadFrame.refl d t
  · exact Dev.updThr_frame d t _

theorem Dev.result_frame (d : Dev) (t rd : Nat) (v : Word) (evs : List Nat) (ht : t < 2 ^ 20) :
    d.threadFrame (d.result t rd v evs) t :=
  (Dev.setGr_frame d t rd v).trans (Dev.retireAt_frame _ t _ evs ht)

/-! General registers and PC of a thread that retires -/

theorem Dev.halt_thr (d : Dev) (t cause n : Nat) :
    (d.halt t cause).thr n =
      if n = t then { d.thr t with slotsAt := max (d.thr t).slotsAt d.cycle, haltReq := false, stepping := false } else d.thr n := by
  unfold Dev.halt
  dsimp only
  rw [Dev.thr_updThr]
  simp only [Dev.fset_thr, Dev.enter_thr]
  split <;> simp_all

theorem Dev.placeSlot_thr (d : Dev) (t : Nat) (w : Bool) (c : Nat) (evs : List Nat) (n : Nat) :
    (d.placeSlot t w c evs).thr n = d.thr n := Dev.thr_congr (by rw [(Dev.placeSlot_only d t w c evs).drv]) n

/-- The thread after it has retired: its PC, and nothing else that an instruction reads but what a halt clears. -/
theorem Dev.retireAt_thr (d : Dev) (t next : Nat) (evs : List Nat) :
    ∃ a h s, (d.retireAt t next evs).thr t =
      { d.thr t with pc := next % 2 ^ 32, slotsAt := a, hold := .none, haltReq := h, stepping := s } := by
  unfold Dev.retireAt Dev.afterSlot
  dsimp only
  split
  · simp only [Dev.halt_thr, Dev.enter_thr, Dev.thr_updThr, Dev.fset_thr, Dev.placeSlot_thr, Dev.settle_thr, if_true]
    exact ⟨_, _, _, rfl⟩
  · split
    · simp only [Dev.halt_thr, Dev.enter_thr, Dev.thr_updThr, Dev.fset_thr, Dev.placeSlot_thr, Dev.settle_thr, if_true]
      exact ⟨_, _, _, rfl⟩
    · simp only [Dev.enter_thr, Dev.thr_updThr, Dev.fset_thr, Dev.placeSlot_thr, Dev.settle_thr, if_true]
      exact ⟨_, _, _, rfl⟩

theorem Dev.retireAt_gr (d : Dev) (t next : Nat) (evs : List Nat) (r : Nat) : (d.retireAt t next evs).gr t r = d.gr t r := by
  obtain ⟨a, h, s, e⟩ := Dev.retireAt_thr d t next evs
  simp only [Dev.gr, e]

theorem Dev.retireAt_pc (d : Dev) (t next : Nat) (evs : List Nat) : ((d.retireAt t next evs).thr t).pc = next % 2 ^ 32 := by
  obtain ⟨a, h, s, e⟩ := Dev.retireAt_thr d t next evs
  simp only [e]

theorem Dev.retireAt_hold (d : Dev) (t next : Nat) (evs : List Nat) : ((d.retireAt t next evs).thr t).hold = .none := by
  obtain ⟨a, h, s, e⟩ := Dev.retireAt_thr d t next evs
  simp only [e]

/-- A thread that is neither asked to halt nor stepping runs on. -/
theorem Dev.retireAt_state (d : Dev) (t next : Nat) (evs : List Nat) (h : d.goesOn t) : (d.retireAt t next evs).tstate t = 1 := by
  unfold Dev.retireAt Dev.afterSlot
  dsimp only
  obtain ⟨h1, h2⟩ := h
  simp only [Dev.enter_thr, Dev.thr_updThr, Dev.fset_thr, Dev.placeSlot_thr, Dev.settle_thr, if_true, h1, h2]
  rw [if_neg (by decide), if_neg (by decide)]
  unfold Dev.tstate
  rw [Dev.fget_congr (Dev.enter_regs _ _ _ _)]
  exact Dev.fget_fset _ F.THREAD_STATUS_STATE _ _ (by decide)

theorem Dev.setGr_pc (d : Dev) (t r : Nat) (v : Word) : ((d.setGr t r v).thr t).pc = (d.thr t).pc := by
  unfold Dev.setGr; split
  · rfl
  · simp

theorem Dev.setGr_goesOn (d : Dev) (t r : Nat) (v : Word) (h : d.goesOn t) : (d.setGr t r v).goesOn t := by
  unfold Dev.setGr Dev.goesOn at *; split
  · exact h
  · simpa using h

/-! Issue (R337, R341, R346) -/

@[simp] theorem Dev.toSlot_regs (d : Dev) (t : Nat) : (d.toSlot t).regs = d.regs := rfl
@[simp] theorem Dev.toSlot_drv (d : Dev) (t : Nat) : (d.toSlot t).drv = d.drv := rfl
@[simp] theorem Dev.toSlot_thr (d : Dev) (t n : Nat) : (d.toSlot t).thr n = d.thr n := rfl
@[simp] theorem Dev.toSlot_gr (d : Dev) (t n r : Nat) : (d.toSlot t).gr n r = d.gr n r := rfl
@[simp] theorem Dev.toSlot_fget (d : Dev) (t : Nat) (f : Fld) (i : Nat) : (d.toSlot t).fget f i = d.fget f i := rfl
@[simp] theorem Dev.toSlot_rget (d : Dev) (t off i : Nat) : (d.toSlot t).rget off i = d.rget off i := rfl

/-- What an instruction finds once its slot is noted: the machine as it was, but for the marks of the slot. -/
structure Dev.Noted (d e : Dev) (t : Nat) : Prop where
  frame : d.threadFrame e t
  gr : ∀ r, e.gr t r = d.gr t r
  pc : (e.thr t).pc = (d.thr t).pc
  haltReq : (e.thr t).haltReq = (d.thr t).haltReq
  stepping : (e.thr t).stepping = (d.thr t).stepping
  regs : e.regs = d.regs

/-- An instruction that takes its slot. -/
theorem Dev.takeSlot_noted (d : Dev) (t : Nat) : d.Noted (d.takeSlot t) t := by
  have hr : ∀ e : Dev, (e.countSlot t).drv = e.drv := fun e => (Dev.countSlot_only e t).drv
  have ht : ∀ n, (d.takeSlot t).thr n = (d.updThr t (fun x => { x with issuedAt := d.cycle, slotsAt := d.cycle + 1 })).thr n :=
    fun n => Dev.thr_congr (by unfold Dev.takeSlot; rw [hr]) n
  refine ⟨?_, fun r => ?_, ?_, ?_, ?_, ?_⟩
  · unfold Dev.takeSlot
    refine Dev.threadFrame.trans (e := { d.updThr t (fun x => { x with issuedAt := d.cycle, slotsAt := d.cycle + 1 }) with
      drv.slotAt := d.cycle * 256 + t + 1 }) ?_ ((Dev.countSlot_only _ t).frame t)
    exact ⟨rfl, rfl, (Dev.updThr_frame d t (fun x => { x with issuedAt := d.cycle, slotsAt := d.cycle + 1 })).2.2.1,
      fun _ _ _ _ => rfl, rfl⟩
  · simp only [Dev.gr, ht, Dev.thr_updThr_same]
  · simp only [ht, Dev.thr_updThr_same]
  · simp only [ht, Dev.thr_updThr_same]
  · simp only [ht, Dev.thr_updThr_same]
  · unfold Dev.takeSlot; rw [(Dev.countSlot_only _ t).regs]; rfl

/-- A thread whose slot executes its instruction: the instruction's own effect, in its slot's cycle, once the slot is noted. -/
theorem issue_eq (t : Nat) (f : Block → Block) (b : Block) (h : b.dev.issues t) :
    issue t f b = f (b.on (fun d => (d.toSlot t).takeSlot t)) := by
  obtain ⟨h1, h2, h3, h4, h5, h6⟩ := h
  have hc : b.dev.canIssue t = true := by simp [Dev.canIssue, h1, h2]
  unfold issue issueAs
  simp only [hc, h3, h4, h5, Bool.not_true, Bool.and_false, Bool.false_eq_true, if_false, ne_eq, not_true_eq_false]
  rcases h6 with ⟨h6, h7⟩ | ⟨h6, h7, h8⟩
  · have hm : b.dev.fetchMapped (b.dev.thr t).pc = true := by simp [Dev.fetchMapped, h6]
    simp only [hm, h6, Bool.not_true, Bool.false_eq_true, if_false, if_true]
    rw [show b.dev.wordBad 29 (clusterAddr (t / 32) (b.dev.thr t).pc / 8) = false from h7]
    simp
    rfl
  · have hm : b.dev.fetchMapped (b.dev.thr t).pc = true := by simp [Dev.fetchMapped, h6, h7]
    have hn : ¬ (b.dev.thr t).pc < 0x100000 := by omega
    simp only [hm, hn, h8, Bool.not_true, Bool.false_eq_true, if_false, if_true]
    rfl

/-- An instruction that retires at an address, after its slot was noted. -/
theorem State.retired_at {s : State} {e : Dev} {t : Nat} (h : s.dev.Noted e t) (ht : t < 256) (rd : Nat) (v : Word) (evs : List Nat)
    (m : Mem) (next : Nat) :
    s.retired (s.withBlk ⟨(e.setGr t rd v).retireAt t next evs, m⟩) t rd v (next % 2 ^ 32) := by
  have ht' : t < 2 ^ 20 := by omega
  refine ⟨rfl, h.frame.trans ((Dev.setGr_frame _ t rd v).trans (Dev.retireAt_frame _ t next evs ht')), ?_, ?_, ?_⟩
  · intro r
    simp only [State.withBlk_dev, Dev.retireAt_gr, Dev.gr_setGr, true_and, h.gr]
  · simp only [State.withBlk_dev, Dev.retireAt_pc]
  · intro hg
    have hg' : e.goesOn t := by
      unfold Dev.goesOn at *; rw [h.haltReq, h.stepping]; exact hg
    exact ⟨Dev.retireAt_state _ _ _ _ (Dev.setGr_goesOn _ _ _ _ hg'), Dev.retireAt_hold _ _ _ _⟩

/-- An instruction that retires with a result, after its slot was noted. -/
theorem State.retired_result {s : State} {e : Dev} {t : Nat} (h : s.dev.Noted e t) (ht : t < 256) (rd : Nat) (v : Word)
    (evs : List Nat) (m : Mem) :
    s.retired (s.withBlk ⟨e.result t rd v evs, m⟩) t rd v (((s.dev.thr t).pc + 4) % 2 ^ 32) := by
  have k := State.retired_at h ht rd v evs m ((s.dev.thr t).pc + 4)
  rw [show e.result t rd v evs = (e.setGr t rd v).retireAt t ((s.dev.thr t).pc + 4) evs by
    unfold Dev.result Dev.retire; rw [Dev.setGr_pc, h.pc]]
  exact k

@[simp] theorem Dev.setGr_zero (d : Dev) (t : Nat) (v : Word) : d.setGr t 0 v = d := rfl

end Sys2Proof.Machine
end

