-- ==== Sys2Proof/Laws/Faults.lean ====
section
/-! SUPPORT. Laws of thread faults (R352, R354): what a fault records, where the thread goes on, what stands. -/

namespace Sys2Proof.Machine

/-- What a fault of thread t leaves alone: every part of the device but its registers, the monitor, the threads and the count
of free values; of the registers all but those of `faultRegs`; every other thread and the general registers of t. -/
structure Dev.FaultFrame (d e : Dev) (t : Nat) : Prop where
  rest : { e with regs := d.regs, pmu := d.pmu, drv := d.drv, free := d.free } = d
  drv : { e.drv with threads := d.drv.threads, stallSince := d.drv.stallSince, slotAt := d.drv.slotAt } = d.drv
  thr : ∀ n, n ≠ t → e.thr n = d.thr n
  gr : ∀ r, e.gr t r = d.gr t r
  regs : ∀ off i, i < 2 ^ 20 → (off, i) ∉ faultRegs t → e.rget off i = d.rget off i

theorem Dev.FaultFrame.refl (d : Dev) (t : Nat) : d.FaultFrame d t :=
  ⟨rfl, rfl, fun _ _ => rfl, fun _ => rfl, fun _ _ _ _ => rfl⟩

theorem Dev.FaultFrame.trans {d e f : Dev} {t : Nat} (h : d.FaultFrame e t) (g : e.FaultFrame f t) : d.FaultFrame f t := by
  refine ⟨?_, ?_, fun n hn => (g.thr n hn).trans (h.thr n hn), fun r => (g.gr r).trans (h.gr r),
    fun off i hi hx => (g.regs off i hi hx).trans (h.regs off i hi hx)⟩
  · have k : ({ f with regs := d.regs, pmu := d.pmu, drv := d.drv, free := d.free } : Dev) =
        { ({ f with regs := e.regs, pmu := e.pmu, drv := e.drv, free := e.free } : Dev) with
          regs := d.regs, pmu := d.pmu, drv := d.drv, free := d.free } := rfl
    rw [k, g.rest, h.rest]
  · have k : ({ f.drv with threads := d.drv.threads, stallSince := d.drv.stallSince, slotAt := d.drv.slotAt } : DrvSt) =
        { ({ f.drv with threads := e.drv.threads, stallSince := e.drv.stallSince, slotAt := e.drv.slotAt } : DrvSt) with
          threads := d.drv.threads, stallSince := d.drv.stallSince, slotAt := d.drv.slotAt } := rfl
    rw [k, g.drv, h.drv]

theorem mem_faultRegs (t : Nat) {off : Nat} (h : off ∈ [R.THREAD_PC, R.THREAD_STATUS, R.DBG_STATUS, R.DBG_PC, R.THREAD_FAULT_PC,
    R.THREAD_FAULT_CODE, R.THREAD_FAULT_ADDR, R.THREAD_FAULT_CNT]) : (off, t) ∈ faultRegs t := by
  simp only [List.mem_cons, List.not_mem_nil, or_false] at h
  unfold faultRegs
  rcases h with h | h | h | h | h | h | h | h <;> subst h <;> simp

/-- What an instruction's end leaves alone, a fault leaves alone too. -/
theorem Dev.threadFrame.fault {d e : Dev} {t : Nat} (h : d.threadFrame e t) (hg : ∀ r, e.gr t r = d.gr t r) : d.FaultFrame e t := by
  obtain ⟨h1, h2, h3, h4, -⟩ := h
  refine ⟨?_, h2, h3, hg, fun off i hi hx => h4 off i hi fun hc => hx ?_⟩
  · have k : ({ e with regs := d.regs, pmu := d.pmu, drv := d.drv, free := d.free } : Dev) =
        { ({ e with regs := d.regs, pmu := d.pmu, drv := d.drv } : Dev) with free := d.free } := rfl
    rw [k, h1]
  · obtain ⟨rfl, ho⟩ := hc
    apply mem_faultRegs
    simp only [List.mem_cons, List.not_mem_nil, or_false] at ho ⊢
    tauto

theorem Dev.fset_faultFrame (d : Dev) (f : Fld) (t i v : Nat) (hi : i < 2 ^ 20) (hf : (f.off, i) ∈ faultRegs t) :
    d.FaultFrame (d.fset f i v) t :=
  ⟨rfl, rfl, fun _ _ => rfl, fun _ => rfl, fun off j hj hx => Dev.rget_fset_other d f hi hj (by
    by_contra hc
    push Not at hc
    exact hx (hc.1 ▸ hc.2 ▸ hf))⟩

theorem Dev.cnt_faultFrame (d : Dev) (f : Fld) (t i n : Nat) (hi : i < 2 ^ 20) (hf : (f.off, i) ∈ faultRegs t) :
    d.FaultFrame (d.cnt f i n) t := by
  rcases Dev.cnt_cases d f i n with ⟨v, e⟩ | ⟨v, e⟩
  · rw [e]; exact Dev.fset_faultFrame d f t i v hi hf
  · rw [e]
    exact (⟨rfl, rfl, fun _ _ => rfl, fun _ => rfl, fun _ _ _ _ => rfl⟩ : d.FaultFrame (d.fresh f.w).2 t).trans
      (Dev.fset_faultFrame _ f t i v hi hf)

@[simp] theorem Dev.cnt_thr (d : Dev) (f : Fld) (i n t : Nat) : (d.cnt f i n).thr t = d.thr t := by
  rcases Dev.cnt_cases d f i n with ⟨v, e⟩ | ⟨v, e⟩ <;> rw [e] <;> rfl

theorem Dev.updThr_faultFrame (d : Dev) (t : Nat) (f : Thread → Thread) (h : ∀ x, (f x).g = x.g) : d.FaultFrame (d.updThr t f) t :=
  (Dev.updThr_frame d t f).fault fun r => Dev.gr_updThr_keep d t t r f h

theorem Dev.enter_gr (d : Dev) (t st : Nat) (h : Hold) (n r : Nat) : (d.enter t st h).gr n r = d.gr n r := by
  simp only [Dev.gr, Dev.enter_thr]
  split
  · rfl
  · split
    · rename_i e; subst e; rfl
    · rfl

theorem Dev.halt_gr (d : Dev) (t c n r : Nat) : (d.halt t c).gr n r = d.gr n r := by
  simp only [Dev.gr, Dev.halt_thr]
  split
  · rfl
  · split
    · rename_i e; subst e; rfl
    · rfl

theorem Dev.afterSlot_gr (d : Dev) (t n r : Nat) : (d.afterSlot t).gr n r = d.gr n r := by
  unfold Dev.afterSlot
  split
  · exact Dev.halt_gr _ _ _ _ _
  · split
    · exact Dev.halt_gr _ _ _ _ _
    · rfl

theorem Dev.settle_gr (d : Dev) (t n r : Nat) : (d.settle t).gr n r = d.gr n r := by
  simp only [Dev.gr, Dev.settle_thr]
  split
  · rfl
  · split
    · rename_i e; subst e; rfl
    · rfl

theorem Dev.placeSlot_gr (d : Dev) (t : Nat) (w : Bool) (c : Nat) (evs : List Nat) (n r : Nat) :
    (d.placeSlot t w c evs).gr n r = d.gr n r := by simp only [Dev.gr, Dev.placeSlot_thr]

/-- The device once a fault is recorded (R352), before the thread goes on or halts. -/
def Dev.faultNoted (d : Dev) (t code addr : Nat) (imprecise : Bool) : Dev :=
  let d := (d.settle t).placeSlot t true code [0x17]
  let d := d.fset F.THREAD_PC_PC t (d.thr t).pc
  let d := d.fset F.THREAD_FAULT_PC_PC t (d.thr t).pc
  let d := d.fset F.THREAD_FAULT_CODE_CODE t (code + 256 * b2n imprecise)
  let d := d.fset F.THREAD_FAULT_ADDR_ADDR t addr
  (d.cnt F.THREAD_FAULT_CNT_COUNT t).cnt F.DRV_CL_FAULT_CNT_COUNT (t / 32)

theorem Dev.faultNoted_frame (d : Dev) (t code addr : Nat) (im : Bool) (ht : t < 2 ^ 20) :
    d.FaultFrame (d.faultNoted t code addr im) t := by
  have hm : ∀ off, off ∈ [R.THREAD_PC, R.THREAD_STATUS, R.DBG_STATUS, R.DBG_PC, R.THREAD_FAULT_PC,
    R.THREAD_FAULT_CODE, R.THREAD_FAULT_ADDR, R.THREAD_FAULT_CNT] → (off, t) ∈ faultRegs t := fun off h => mem_faultRegs t h
  have h0 : d.FaultFrame ((d.settle t).placeSlot t true code [0x17]) t :=
    ((Dev.settle_frame d t).fault fun r => Dev.settle_gr d t t r).trans
      (((Dev.placeSlot_only _ t true code [0x17]).frame t).fault fun r => Dev.placeSlot_gr _ _ _ _ _ t r)
  unfold Dev.faultNoted
  dsimp only
  refine ((((((h0.trans (Dev.fset_faultFrame _ F.THREAD_PC_PC t t _ ht (hm _ (by decide)))).trans
    (Dev.fset_faultFrame _ F.THREAD_FAULT_PC_PC t t _ ht (hm _ (by decide)))).trans
    (Dev.fset_faultFrame _ F.THREAD_FAULT_CODE_CODE t t _ ht (hm _ (by decide)))).trans
    (Dev.fset_faultFrame _ F.THREAD_FAULT_ADDR_ADDR t t _ ht (hm _ (by decide)))).trans
    (Dev.cnt_faultFrame _ F.THREAD_FAULT_CNT_COUNT t t _ ht (hm _ (by decide)))).trans
    (Dev.cnt_faultFrame _ F.DRV_CL_FAULT_CNT_COUNT t (t / 32) _ (by omega) (by simp [faultRegs])))

theorem Dev.faultNoted_thr (d : Dev) (t code addr : Nat) (im : Bool) :
    (d.faultNoted t code addr im).thr t = { d.thr t with slotsAt := max (d.thr t).slotsAt d.cycle } := by
  unfold Dev.faultNoted
  simp only [Dev.cnt_thr, Dev.fset_thr, Dev.placeSlot_thr, Dev.settle_thr, if_true]

/-- The fault registers after a fault (R352, R353). -/
theorem Dev.faultNoted_regs (d : Dev) (t code addr : Nat) (im : Bool) (ht : t < 2 ^ 20) :
    (d.faultNoted t code addr im).fget F.THREAD_FAULT_PC_PC t = (d.thr t).pc % 2 ^ 32 ∧
    (d.faultNoted t code addr im).fget F.THREAD_FAULT_CODE_CODE t = (code + 256 * b2n im) % 2 ^ F.THREAD_FAULT_CODE_CODE.w ∧
    (d.faultNoted t code addr im).fget F.THREAD_FAULT_ADDR_ADDR t = addr % 2 ^ 32 := by
  have hc : ∀ (e : Dev) (f g : Fld) (i : Nat), i < 2 ^ 20 → f.off ≠ g.off → (e.cnt f i).fget g t = e.fget g t := by
    intro e f g i hi hne
    simp only [Dev.fget, Dev.rget_cnt_ne e f (regKey_ne hi ht (.inl (Ne.symm hne)))]
  have hs : ∀ (e : Dev) (f g : Fld) (v : Nat), f.off ≠ g.off → (e.fset f t v).fget g t = e.fget g t := by
    intro e f g v hne
    exact Dev.fget_fset_ne e f g (regKey_ne ht ht (.inl (Ne.symm hne)))
  unfold Dev.faultNoted
  dsimp only
  refine ⟨?_, ?_, ?_⟩
  · rw [hc _ _ _ _ (by omega) (by decide), hc _ _ _ _ ht (by decide), hs _ _ _ _ (by decide), hs _ _ _ _ (by decide),
      Dev.fget_fset _ _ _ _ (by decide)]
    simp only [Dev.fset_thr, Dev.placeSlot_thr, Dev.settle_thr, if_true]
  · rw [hc _ _ _ _ (by omega) (by decide), hc _ _ _ _ ht (by decide), hs _ _ _ _ (by decide), Dev.fget_fset _ _ _ _ (by decide)]
  · rw [hc _ _ _ _ (by omega) (by decide), hc _ _ _ _ ht (by decide), Dev.fget_fset _ _ _ _ (by decide)]

/-- A precise fault of a thread outside a trap with a handler (R352). -/
theorem Dev.tfault_handled (d : Dev) (t code addr : Nat) (im : Bool) (h : d.handles t) :
    d.tfault t code addr im =
      (let d := (d.faultNoted t code addr im).fset F.THREAD_STATUS_IN_TRAP t 1
       let d := d.updThr t (fun x => { x with pc := d.fget F.THREAD_HANDLER_PC t })
       (d.enter t 1 .none).afterSlot t) := by
  have h1 : (d.fon F.THREAD_STATUS_IN_TRAP t || !d.fon F.THREAD_HANDLER_PC t) = false := by
    simp [Dev.fon, h.1, h.2]
  unfold Dev.tfault Dev.faultNoted
  simp only [h1]
  rfl

/-- The whole of a precise fault, after the slot was noted. -/
theorem State.faulted_tfault {s : State} {x : Dev} {t : Nat} (hx : s.dev.Noted x t) (ht : t < 256) (code addr : Nat)
    (hh : s.dev.handles t) (hc : code < 2 ^ F.THREAD_FAULT_CODE_CODE.w) :
    s.faulted (s.withBlk ⟨x.tfault t code addr, s.mem⟩) t code addr := by
  have ht' : t < 2 ^ 20 := by omega
  have hu : x.handles t := by
    unfold Dev.handles at *; simp only [Dev.fget_congr hx.regs]; exact hh
  have k0 : s.dev.FaultFrame x t := hx.frame.fault hx.gr
  rw [Dev.tfault_handled _ _ _ _ _ hu]
  have k1 := k0.trans (Dev.faultNoted_frame x t code addr false ht')
  have e1 := Dev.faultNoted_regs x t code addr false ht'
  have e2 := Dev.faultNoted_thr x t code addr false
  generalize hd : x.faultNoted t code addr false = d at *
  have k2 : s.dev.FaultFrame (d.fset F.THREAD_STATUS_IN_TRAP t 1) t :=
    k1.trans (Dev.fset_faultFrame d F.THREAD_STATUS_IN_TRAP t t 1 ht' (mem_faultRegs t (by decide)))
  have hs : ∀ g : Fld, g.off ≠ R.THREAD_STATUS → (d.fset F.THREAD_STATUS_IN_TRAP t 1).fget g t = d.fget g t := fun g hne =>
    Dev.fget_fset_ne d _ g (regKey_ne ht' ht' (.inl hne))
  have htr : (d.fset F.THREAD_STATUS_IN_TRAP t 1).fget F.THREAD_STATUS_IN_TRAP t = 1 := Dev.fget_fset _ _ _ _ (by decide)
  have hth : (d.fset F.THREAD_STATUS_IN_TRAP t 1).thr t = d.thr t := rfl
  have hhd : (d.fset F.THREAD_STATUS_IN_TRAP t 1).fget F.THREAD_HANDLER_PC t = s.dev.fget F.THREAD_HANDLER_PC t := by
    simp only [Dev.fget]
    rw [k2.regs _ _ ht' (by simp [faultRegs])]
  dsimp only
  generalize d.fset F.THREAD_STATUS_IN_TRAP t 1 = e at *
  have g3 : e.threadFrame (((e.updThr t (fun x => { x with pc := e.fget F.THREAD_HANDLER_PC t })).enter t 1 .none).afterSlot t) t :=
    ((Dev.updThr_frame e t _).trans (Dev.enter_frame _ t 1 .none ht')).trans (Dev.afterSlot_frame _ t ht')
  have k3 : s.dev.FaultFrame (((e.updThr t (fun x => { x with pc := e.fget F.THREAD_HANDLER_PC t })).enter t 1 .none).afterSlot t) t :=
    k2.trans (g3.fault fun r => by
      rw [Dev.afterSlot_gr, Dev.enter_gr]; exact Dev.gr_updThr_keep _ _ _ _ _ fun _ => rfl)
  have hreg : ∀ g : Fld, g.off ∉ [R.THREAD_PC, R.THREAD_STATUS, R.DBG_STATUS, R.DBG_PC] →
      (((e.updThr t (fun x => { x with pc := e.fget F.THREAD_HANDLER_PC t })).enter t 1 .none).afterSlot t).fget g t = e.fget g t :=
    fun g hg => Dev.fget_of_rget (g3.2.2.2.1 _ _ ht' fun hc => hg hc.2)
  have hthr : ∃ a h b, (((e.updThr t (fun x => { x with pc := e.fget F.THREAD_HANDLER_PC t })).enter t 1 .none).afterSlot t).thr t =
      { e.thr t with pc := e.fget F.THREAD_HANDLER_PC t, slotsAt := a, hold := .none, haltReq := h, stepping := b } := by
    unfold Dev.afterSlot
    split
    · simp only [Dev.halt_thr, Dev.enter_thr, Dev.thr_updThr, if_true]; exact ⟨_, _, _, rfl⟩
    · split
      · simp only [Dev.halt_thr, Dev.enter_thr, Dev.thr_updThr, if_true]; exact ⟨_, _, _, rfl⟩
      · simp only [Dev.enter_thr, Dev.thr_updThr, if_true]; exact ⟨_, _, _, rfl⟩
  obtain ⟨a, h, b, hthr⟩ := hthr
  refine ⟨rfl, rfl, k3.gr, ?_, ?_, ?_, ?_, ?_, ?_, k3.thr, ?_, ?_, ?_, k3.regs⟩
  · simp only [State.withBlk_dev]
    rw [hreg _ (by decide), hs _ (by decide), e1.1, hx.pc]
  · simp only [State.withBlk_dev]
    rw [hreg _ (by decide), hs _ (by decide), e1.2.1]
    simpa [b2n] using Nat.mod_eq_of_lt hc
  · simp only [State.withBlk_dev]
    rw [hreg _ (by decide), hs _ (by decide), e1.2.2]
  · simp only [State.withBlk_dev]
    rw [g3.2.2.2.2, htr]
  · simp only [State.withBlk_dev]
    rw [hthr]; exact hhd
  · simp only [State.withBlk_dev]
    rw [hthr]
  · have := congrArg DrvSt.chans k3.drv; exact this
  · have := congrArg Dev.stb k3.rest; exact this
  · have := congrArg Dev.bufs k3.rest; exact this

/-! What an instruction given to a thread that issues leaves -/

/-- The device as an instruction finds it, once its slot is noted. -/
abbrev Dev.noted (d : Dev) (t : Nat) : Dev := (d.toSlot t).takeSlot t

theorem State.noted (s : State) (t : Nat) : (s.atSlot t).dev.Noted (s.dev.noted t) t := Dev.takeSlot_noted _ _

/-- A command of a thread that issues runs the instruction on the block in its slot, with the slot noted. -/
theorem run_issue (s : State) (t : Nat) (f : Block → Block) (hi : s.dev.issues t) :
    runBlk (issue t f) s = .next (s.withBlk (f ⟨s.dev.noted t, s.mem⟩)) := by
  unfold runBlk; rw [issue_eq _ _ _ hi]; rfl

theorem noted_gr (s : State) (t r : Nat) : (s.dev.noted t).gr t r = s.dev.gr t r := (s.noted t).gr r

theorem noted_pc (s : State) (t : Nat) : ((s.dev.noted t).thr t).pc = (s.dev.thr t).pc := (s.noted t).pc

/-- An instruction that writes one general register and moves on. -/
theorem issued_retires (s : State) (t : Fin 256) (rd : Nat) (v : Word) (evs : List Nat) (m : Mem) :
    (s.atSlot t).retired (s.withBlk ⟨(s.dev.noted t).result t rd v evs, m⟩) t rd v (((s.dev.thr t).pc + 4) % 2 ^ 32) :=
  State.retired_result (s.noted t) t.isLt rd v evs m

/-- An instruction that faults while the thread can handle it. -/
theorem issued_faults (s : State) (t : Fin 256) (code addr : Nat) (hh : s.dev.handles t) (hc : code < 256) :
    (s.atSlot t).faulted (s.withBlk ⟨(s.dev.noted t).tfault t code addr, s.mem⟩) t code addr :=
  State.faulted_tfault (s.noted t) t.isLt code addr hh (lt_of_lt_of_le hc (by decide))

end Sys2Proof.Machine
end

