-- ==== Sys2Proof/Laws/Gates.lean ====
section
/-! SUPPORT. The gates that commands go through: what each answers, and that none touches the queue. -/

namespace Sys2Proof.Machine

/-! What each gate answers -/

theorem event_running {s : State} (f : Dev → Dev) (h : s.dev.running = true) : event f s = .next { s with dev := f s.dev } := by
  unfold event; rw [if_pos h]; rfl

theorem event_stopped {s : State} (f : Dev → Dev) (h : s.dev.running = false) : event f s = .next s := by
  unfold event; rw [if_neg (by simp [h])]

theorem eventBlk_running {s : State} (f : Block → Block) (h : s.dev.running = true) :
    eventBlk f s = .next (s.withBlk (f s.blk)) := by unfold eventBlk; rw [if_pos h]; rfl

theorem eventBlk_stopped {s : State} (f : Block → Block) (h : s.dev.running = false) : eventBlk f s = .next s := by
  unfold eventBlk; rw [if_neg (by simp [h])]

/-- Where no apply pass is under way, an access meets no write of the loader's (R60). -/
theorem passNow_none {s : State} (h : s.dev.noPass = true) : s.blk.passNow = none := by
  simp only [Dev.noPass, Bool.and_eq_true, bne_iff_ne, Option.isNone_iff_eq_none] at h
  obtain ⟨⟨h1, h2⟩, h3⟩ := h
  simp [Block.passNow, h1, h2, h3]

theorem caught_free {s : State} (f : State → Host.Outcome State Fault Refusal) (h : s.dev.noPass = true) : caught f s = f s := by
  unfold caught; rw [passNow_none h]

/-- An access of a requester that reaches an element runs its operation there. -/
theorem regOp_reaches {s : State} {r : Req} {off i : Nat} {k : Kind} (f : Nat → Block → Block) (h : s.reaches r off k i) :
    regOp r off k f s = .next (s.withBlk (f i s.blk)) := by
  obtain ⟨h0, h1, h2, h3⟩ := h
  unfold regOp
  rw [caught_free _ h0]
  simp only [h1, h2, h3, elemOp, Bool.not_true, Bool.false_eq_true, if_false]
  rfl

theorem regOp_closed {s : State} {r : Req} {off : Nat} (k : Kind) (f : Nat → Block → Block) (h0 : s.dev.noPass = true)
    (h : s.dev.reachable off = false) : regOp r off k f s = .next s := by
  unfold regOp; rw [caught_free _ h0]; simp only [h, Bool.not_false, if_true]

theorem regOp_bad {s : State} {r : Req} {off n : Nat} {k : Kind} (f : Nat → Block → Block) (h0 : s.dev.noPass = true)
    (h : s.dev.reachable off = true) (hb : badSelect s.dev k (s.dev.instOf (reqIdx r) off k) = some n) :
    regOp r off k f s = .fault (.unpredictable n) := by
  unfold regOp; rw [caught_free _ h0]; simp only [h, hb, elemOp, Bool.not_true, Bool.false_eq_true, if_false]

theorem regDev_reaches {s : State} {r : Req} {off i : Nat} {k : Kind} (f : Nat → Dev → Dev) (h : s.reaches r off k i) :
    regDev r off k f s = .next { s with dev := f i s.dev } := regOp_reaches _ h

theorem reachable_readable {d : Dev} {off : Nat} (h : d.reachable off = true) : d.readable off = true := by
  simp only [Dev.reachable, Bool.and_eq_true] at h; exact h.1

/-- An element that a requester's read reaches answers it. -/
theorem regAsk_reads {s : State} {r : Req} {off i : Nat} {k : Kind} (f : Nat → Dev → Word × Dev) (h : s.reads r off k i) :
    regAsk r off k f s = .next { s with dev := (f i s.dev).2.answer (reqIdx r) (f i s.dev).1 } := by
  obtain ⟨h0, h1, h2, h3⟩ := h
  unfold regAsk
  rw [caught_free _ h0]
  simp only [h1, h2, h3, elemOp, Bool.not_true, Bool.false_eq_true, if_false]
  rfl

/-- A read of a closed block answers 0 (R41). -/
theorem regAsk_closed {s : State} {r : Req} {off : Nat} (k : Kind) (f : Nat → Dev → Word × Dev) (h : s.dev.readable off = false) :
    regAsk r off k f s = .next { s with dev := s.dev.answer (reqIdx r) 0 } := by
  unfold regAsk; simp only [h, Bool.not_false, if_true]; rfl

theorem writeCmd_ok {s : State} {r : Req} {off : Nat} {v : Word} (h0 : s.dev.noPass = true)
    (h : s.dev.misuse (reqIdx r) off (some v) = none) :
    writeCmd r off v s = .next (s.withBlk (s.blk.regWrite r off v)) := by
  unfold writeCmd; rw [caught_free _ h0]; simp only [h]; rfl

theorem readCmd_ok {s : State} {r : Req} {off : Nat} (h0 : s.dev.noPass = true) (h : s.dev.misuse (reqIdx r) off none = none) :
    readCmd r off s = .next (s.withBlk ((s.blk.regRead (reqIdx r) off).2.on
      (fun d => d.answer (reqIdx r) (s.blk.regRead (reqIdx r) off).1))) := by
  unfold readCmd readTo; rw [caught_free _ h0]; simp only [h]; rfl

theorem taken_here {s : State} {typ : Nat} {m : HMsg} (f : State → Host.Outcome State Fault Refusal) (h : s.dev.running = true)
    (hd : m.dst = s.dev.devid) : taken typ m f s = f s := by
  unfold taken; simp only [h, hd, Bool.not_true, Bool.false_eq_true, if_false, if_true]

theorem taken_passed {s : State} {typ : Nat} {m : HMsg} (f : State → Host.Outcome State Fault Refusal) (h : s.dev.running = true)
    (hd : m.dst ≠ s.dev.devid) :
    taken typ m f s = .next { s with dev := s.dev.sendVia (!m.fromH1) { m with typ := typ } } := by
  unfold taken; simp only [h, hd, Bool.not_true, Bool.false_eq_true, if_false]; rfl

/-! The queue and refusals -/

/-- An outcome that leaves the queue and refuses nothing. -/
def Keeps (s : State) (o : Host.Outcome State Fault Refusal) : Prop :=
  (∀ u, o = .next u → u.pending = s.pending) ∧ ∀ r, o ≠ .refused r

theorem keeps_next {s u : State} (h : u.pending = s.pending) : Keeps s (.next u) :=
  ⟨fun _ e => (by cases e; exact h), fun _ e => (by cases e)⟩

theorem keeps_fault (s : State) (f : Fault) : Keeps s (.fault f) := ⟨fun _ e => (by cases e), fun _ e => (by cases e)⟩

theorem keeps_runDev (f : Dev → Dev) (s : State) : Keeps s (runDev f s) := keeps_next rfl

theorem keeps_runBlk (f : Block → Block) (s : State) : Keeps s (runBlk f s) := keeps_next rfl

theorem keeps_event (f : Dev → Dev) (s : State) : Keeps s (event f s) := by
  unfold event; split
  · exact keeps_runDev f s
  · exact keeps_next rfl

theorem keeps_eventBlk (f : Block → Block) (s : State) : Keeps s (eventBlk f s) := by
  unfold eventBlk; split
  · exact keeps_runBlk f s
  · exact keeps_next rfl

/-- The loader's earlier writes leave the queue too. -/
theorem keeps_caught {f : State → Host.Outcome State Fault Refusal} {s : State} (h : ∀ u, u.pending = s.pending → Keeps s (f u)) :
    Keeps s (caught f s) := by
  unfold caught
  split
  · exact h s rfl
  · dsimp only
    split
    · exact h s rfl
    · split
      · exact keeps_fault s _
      · exact h _ rfl

theorem keeps_trans {s u : State} {o : Host.Outcome State Fault Refusal} (h : Keeps u o) (e : u.pending = s.pending) : Keeps s o :=
  ⟨fun v hv => (h.1 v hv).trans e, h.2⟩

theorem keeps_elemOp (r : Req) (off : Nat) (k : Kind) (f : Nat → Block → Block) (s : State) : Keeps s (elemOp r off k f s) := by
  unfold elemOp; split
  · exact keeps_fault s _
  · exact keeps_runBlk _ s

theorem keeps_regOp (r : Req) (off : Nat) (k : Kind) (f : Nat → Block → Block) (s : State) : Keeps s (regOp r off k f s) :=
  keeps_caught fun u e => by
    split
    · exact keeps_next e
    · exact keeps_trans (keeps_elemOp r off k f u) e

theorem keeps_regDev (r : Req) (off : Nat) (k : Kind) (f : Nat → Dev → Dev) (s : State) : Keeps s (regDev r off k f s) :=
  keeps_regOp r off k _ s

theorem keeps_regAsk (r : Req) (off : Nat) (k : Kind) (f : Nat → Dev → Word × Dev) (s : State) : Keeps s (regAsk r off k f s) := by
  unfold regAsk; split
  · exact keeps_runDev _ s
  · exact keeps_caught fun u e => keeps_trans (keeps_elemOp r off k _ u) e

theorem keeps_writeCmd (r : Req) (off : Nat) (v : Word) (s : State) : Keeps s (writeCmd r off v s) :=
  keeps_caught fun u e => by
    split
    · exact keeps_fault s _
    · exact keeps_trans (keeps_runBlk _ u) e

theorem keeps_readTo (r : Req) (off : Nat) (f : Word → Dev → Dev) (s : State) : Keeps s (readTo r off f s) :=
  keeps_caught fun u e => by
    split
    · exact keeps_fault s _
    · exact keeps_trans (keeps_runBlk _ u) e

theorem keeps_readCmd (r : Req) (off : Nat) (s : State) : Keeps s (readCmd r off s) := keeps_readTo r off _ s

theorem keeps_taken {typ : Nat} {m : HMsg} {f : State → Host.Outcome State Fault Refusal} {s : State} (h : Keeps s (f s)) :
    Keeps s (taken typ m f s) := by
  unfold taken; split
  · exact keeps_next rfl
  · split
    · exact h
    · exact keeps_runDev _ s

theorem keeps_passEnd (live : Bool) (since : Nat) (ws : List (Target × Entry)) (f : Option Nat → Dev → Dev) (s : State) :
    Keeps s (passEnd live since ws f s) := by
  unfold passEnd; dsimp only; split
  · exact keeps_fault s _
  · exact keeps_next rfl

end Sys2Proof.Machine
end

