-- ==== Sys2Proof/Laws/Mem.lean ====
section
/-! SUPPORT. The memories: what each of their operations does to each byte, and that each keeps the canonical form. -/

namespace Sys2Proof.Machine

/-! Bytes -/

theorem Mem.bytes_setBytes (m : Mem) (sp sp' : Space) (c : List Host.Cell) :
    (m.setBytes sp c).bytes sp' = if sp' = sp then c else m.bytes sp' := by cases sp <;> cases sp' <;> rfl

@[simp] theorem Mem.bytes_setBytes_same (m : Mem) (sp : Space) (c : List Host.Cell) : (m.setBytes sp c).bytes sp = c := by
  rw [Mem.bytes_setBytes, if_pos rfl]

theorem Mem.bytes_setBytes_other (m : Mem) {sp sp' : Space} (c : List Host.Cell) (h : sp' ≠ sp) :
    (m.setBytes sp c).bytes sp' = m.bytes sp' := by rw [Mem.bytes_setBytes, if_neg h]

/-- What a byte reads as after a write. -/
theorem Mem.get_write (m : Mem) (sp sp' : Space) (a x : Nat) (bs : List Byte) :
    Sparse.get 0 ((m.write sp a bs).bytes sp') x =
      if sp' = sp ∧ a ≤ x ∧ x < a + bs.length then bs.getD (x - a) 0 else Sparse.get 0 (m.bytes sp') x := by
  unfold Mem.write
  rw [Mem.bytes_setBytes]
  by_cases h : sp' = sp
  · subst h; rw [if_pos rfl, Bytes.get_write]; simp only [true_and]
  · rw [if_neg h, if_neg (fun g => h g.1)]

/-- A read of what was written gives it. -/
@[simp] theorem Mem.read_write (m : Mem) (sp : Space) (a : Nat) (bs : List Byte) : (m.write sp a bs).read sp a bs.length = bs := by
  unfold Mem.read Mem.write
  rw [Mem.bytes_setBytes_same, Bytes.read_write]

@[simp] theorem Mem.read_length (m : Mem) (sp : Space) (a n : Nat) : (m.read sp a n).length = n := Bytes.read_length _ _ _

@[simp] theorem Mem.bytes_clear_same (m : Mem) (sp : Space) : (m.clear sp).bytes sp = [] := Mem.bytes_setBytes_same _ _ _

theorem Mem.bytes_clear_other (m : Mem) {sp sp' : Space} (h : sp' ≠ sp) : (m.clear sp).bytes sp' = m.bytes sp' :=
  Mem.bytes_setBytes_other _ _ h

/-! Canonical form -/

theorem Mem.wf_iff (m : Mem) : m.wf = true ↔ ∀ sp, Sparse.wf 0 (m.bytes sp) = true := by
  constructor
  · intro h sp
    simp only [Mem.wf, Bool.and_eq_true] at h
    obtain ⟨⟨⟨⟨⟨⟨h1, h2⟩, h3⟩, h4⟩, h5⟩, h6⟩, h7⟩ := h
    cases sp <;> assumption
  · intro h
    simp only [Mem.wf, Bool.and_eq_true]
    exact ⟨⟨⟨⟨⟨⟨h .dram, h .cls⟩, h .cluster⟩, h .sram⟩, h .tabs⟩, h .host⟩, h .bar2⟩

theorem Mem.wf_setBytes {m : Mem} (sp : Space) {c : List Host.Cell} (hm : m.wf = true) (hc : Sparse.wf 0 c = true) :
    (m.setBytes sp c).wf = true := by
  rw [Mem.wf_iff] at hm ⊢
  intro sp'
  rw [Mem.bytes_setBytes]
  split
  · exact hc
  · exact hm sp'

theorem Mem.wf_write {m : Mem} (sp : Space) (a : Nat) (bs : List Byte) (h : m.wf = true) : (m.write sp a bs).wf = true :=
  Mem.wf_setBytes sp h (Bytes.wf_write a bs ((Mem.wf_iff m).1 h sp))

theorem Mem.wf_clear {m : Mem} (sp : Space) (h : m.wf = true) : (m.clear sp).wf = true := Mem.wf_setBytes sp h rfl

theorem Mem.wf_keep {m : Mem} (sp : Space) (p : Nat → Bool) (h : m.wf = true) : (m.keep sp p).wf = true :=
  Mem.wf_setBytes sp h (Sparse.wf_filter 0 _ ((Mem.wf_iff m).1 h sp))

theorem Block.wf_store {b : Block} (sp : Space) (a : Nat) (bs : List Byte) (h : b.mem.wf = true) : (b.store sp a bs).mem.wf = true :=
  Mem.wf_write sp a bs h

/-- The memories after reset are in canonical form. -/
theorem reset_memOk : State.reset.memOk := by unfold State.memOk; decide

/-- Canonical memories that read the same are the same. -/
theorem Mem.bytes_ext {m n : Mem} {sp : Space} (hm : m.wf = true) (hn : n.wf = true)
    (h : ∀ x, Sparse.get 0 (m.bytes sp) x = Sparse.get 0 (n.bytes sp) x) : m.bytes sp = n.bytes sp :=
  Sparse.wf_ext 0 ((Mem.wf_iff m).1 hm sp) ((Mem.wf_iff n).1 hn sp) h

/-! The words of statements -/

/-- A block whose memory is the old one with bytes written: they are stored, every other byte stands. -/
theorem State.storedAt_write (s : State) (b : Block) (sp : Space) (a : Nat) (bs : List Byte) (h : b.mem = s.mem.write sp a bs) :
    s.storedAt (s.withBlk b) sp a bs := by
  constructor
  · intro k hk
    show Sparse.get 0 (b.mem.bytes sp) (a + k) = _
    rw [h, Mem.get_write, if_pos ⟨rfl, by omega, by omega⟩, Nat.add_sub_cancel_left]
  · intro sp' x hx
    show Sparse.get 0 (b.mem.bytes sp') x = _
    rw [h, Mem.get_write, if_neg hx]

/-- A write within a range leaves every byte outside it. -/
theorem State.memBut_write (s : State) (b : Block) (sp : Space) (a lo hi : Nat) (bs : List Byte) (h : b.mem = s.mem.write sp a bs)
    (hl : lo ≤ a) (hh : a + bs.length ≤ hi) : s.memBut (s.withBlk b) sp lo hi := by
  intro sp' x hx
  show Sparse.get 0 (b.mem.bytes sp') x = _
  rw [h, Mem.get_write, if_neg (fun g => hx ⟨g.1, by omega, by omega⟩)]

end Sys2Proof.Machine
end

