-- ==== Sys2Proof/Tests/Slice0.lean ====
section
/-! SUPPORT. Tests: operands refused and accepted, known answers from the spec, and for every statement a state and operands
that meet its hypotheses. -/

set_option Elab.async false

namespace Sys2Proof.Tests

open Sys2Proof.Machine

/-! The tests' states. A test that no source of the spec gives a number for uses the reset state and a few set fields; its
expected values follow from the cited rule by hand. -/

/-- A part of the device changed. -/
def on (f : Dev → Dev) (s : State) : State := { s with dev := f s.dev }

/-- A device that runs, its slices in BOOT and every block open. -/
def run : State :=
  { dev := { life := { low := false, perstLow := false, wide := false, isOpen := true }, host := { pcieReady := true } } }

def fld (f : Fld) (i v : Nat) : State → State := on (fun d => d.fset f i v)
def reg (off i : Nat) (v : Word) : State → State := on (fun d => d.rset off i v)
def life (f : LifeSt → LifeSt) : State → State := on (fun d => { d with life := f d.life })
def ld (f : LoadSt → LoadSt) : State → State := on (fun d => { d with ld := f d.ld })
def halter (f : HalterSt → HalterSt) : State → State := on (fun d => { d with halter := f d.halter })
def host (f : HostSt → HostSt) : State → State := on (fun d => { d with host := f d.host })

/-- The device in a state of Table 03-1. -/
def inState (v : Nat) : State := fld F.GLB_STATE_DEV 0 v run

/-- Every slice in SERVICE. -/
def serve : State := reg R.GLB_SLICE_STATE_LO 0 0x55555555 (reg R.GLB_SLICE_STATE_HI 0 0x55555555 (inState 5))

/-- One slice in a state. -/
def slice (k v : Nat) : State → State := on (fun d => d.setSliceSt k v)

/-- Bytes placed in a memory. -/
def put (sp : Space) (a : Nat) (bs : List Byte) (s : State) : State := s.withBlk (s.blk.store sp a bs)

/-- A ring message from device 2 to device 0. -/
def msg (typ : Nat) : HMsg := ⟨typ, false, 0, 2, 0, 7, 0, 0, [], 0⟩

/-- The state after a command; a command that stops leaves the state. -/
def after (c : Instr) (s : State) : State :=
  match exec c s with
  | .next u => u
  | .fault _ => s
  | .refused _ => s

/-- The fault that a command stops with. -/
def faultOf (c : Instr) (s : State) : Option Fault :=
  match exec c s with
  | .next _ => none
  | .fault f => some f
  | .refused _ => none

/-- A port in use by a slice that serves, up, with leaf queues from `base` on. -/
def port (p base : Nat) (s : State) : State :=
  fld F.TMG_PORT_QCFG_QBASE p base (fld F.PRT_STATUS_LINK p 1 (fld F.PRT_MODE_KIND p 1 s))

/-- A packet waits in a leaf queue. -/
def queued (q : Nat) (x : QPkt) : State → State := on (fun d => d.updLq q (fun l => { l with pkts := l.pkts ++ [x] }))

/-! Well-formedness: one ill-formed term for each check -/

theorem test_wf_refuses_windows :
    [Instr.registerWrite .host 0x4000000 0, .rcRegisterRead .host 0x4000000, .pairLoRead (.thread 255) 0x4000000,
     .hostRegAccess 0 0x100000000 true 0 true, .hostRegAccess 1 0x4000000 true 0 true, .hostRegAccess 2 0x10000 false 0 true,
     .pcieConfigRequest true 1024 0, .msixTableAccess true 0x10000 0, .msixTableAccess true 2 0].any Instr.wf = false := by decide

theorem test_wf_refuses_numbers :
    [Instr.forwardTimeout 65536, .dramRereadDone 32 true 0, .dramRereadDone 0x1000000000 true 0, .dramRereadDone 0 true 512,
     .captureEdge 0 true 65536, .sramScrubRead 0x0F 0 0 [] true, .sramScrubRead 0x21 0 0 [] true,
     .sramScrubRead 0x10 0 0 (List.replicate 9 0) true].any Instr.wf = false := by decide

theorem test_wf_refuses_lengths :
    [Instr.fuseRead 0 0 0 0 0 0 0 [0] true, .tempSensorUpdate [1] [1, 1, 1, 1], .tempSensorUpdate (List.replicate 16 1) [1],
     .frameReceive 0 [1, 2, 3]].any Instr.wf = false := by decide

theorem test_wf_refuses_messages :
    [Instr.discover { msg 1 with dst := 64 }, .link { msg 11 with src := 64 }, .intr { msg 10 with tag := 65536 },
     .imgReq { msg 8 with addr := 2 ^ 64 }, .memWr { msg 5 with payload := List.replicate 1025 0 }, .regWr (msg 2),
     .regRd { msg 3 with payload := [1] }, .regCpl { msg 4 with payload := [1] }, .memCpl { msg 7 with dst := 64 },
     .imgData { msg 9 with dst := 64 }, .memRd { msg 6 with dst := 64 } [] true, .memRd { msg 6 with want := 1025 } [] true,
     .memRd (msg 6) (List.replicate 1025 0) true].any Instr.wf = false := by decide +kernel

theorem test_wf_accepts :
    [Instr.registerWrite .host 0x3FFFFFC 0, .hostRegAccess 1 0x3FFFFFF true 0 true, .forwardTimeout 65535, .captureEdge 0 true 65535,
     .frameReceive 0 [1, 2, 3, 4], .regWr { msg 2 with payload := [1, 2, 3, 4] }, .memRd (msg 6) [] true, .powerOn,
     .dramRereadDone 0xFFFFFFFC0 true 511, .msixTableAccess false 0xFFFC 0].all Instr.wf = true := by decide

/-! The machine: steps, reset, registers -/

theorem test_an_idle_step_is_one_cycle_met : State.reset.pending = [] := rfl

theorem test_every_step_keeps_memory_canonical_met :
    (put .host 0 [1, 0, 2] run).mem.wf = true ∧ isNext (step (put .host 0 [1, 0, 2] run)) = true := by decide

theorem test_commands_leave_the_queue_met :
    isNext (exec .halterBadFrame State.reset) = true ∧
    faultOf (.jtagInstruction (.other 0)) (reg R.GLB_SLICE_STATE_LO 0 0xFFFFFFFF (reg R.GLB_SLICE_STATE_HI 0 0xFFFFFFFF run)) =
      some (.undescribed 435) := by decide

theorem test_register_writes_follow_access_codes_met :
    run.dev.noPass = true ∧ run.dev.beginAll = run.dev ∧ run.dev.reachable R.HLD_LIVE_WAIT = true ∧ (findReg R.HLD_LIVE_WAIT).isSome = true ∧ R.HLD_LIVE_WAIT % 4 = 0 ∧
    blockIndex R.HLD_LIVE_WAIT ∈ [1, 3, 10] ∧ R.HLD_LIVE_WAIT ≠ R.HLD_CTRL ∧ R.HLD_LIVE_WAIT ≠ R.HDM_EVT_RATE ∧
    isHi R.HLD_LIVE_WAIT = false ∧ isLo R.HLD_LIVE_WAIT = false ∧
    run.dev.misuse (reqIdx .host) R.HLD_LIVE_WAIT (some 0xFFFFFFFF) = none := by decide

theorem test_register_writes_unaligned_met :
    run.dev.reachable 1 = true ∧ 1 % 4 ≠ 0 ∧ run.dev.fget F.HDM_BAD_ACCESS_COUNT + 1 < 2 ^ F.HDM_BAD_ACCESS_COUNT.w ∧
    State.reset.dev.reachable R.NTU_CTRL = false := by decide

theorem test_register_reads_met :
    run.dev.readable R.HDM_BAD_ACCESS = true ∧ (findReg R.HDM_BAD_ACCESS).isSome = true ∧ badSelect run.dev .dev 0 = none ∧
    blockIndex R.HDM_BAD_ACCESS ∈ [1, 3] ∧ ((run.blk.atTables R.HDM_BAD_ACCESS).on Dev.beginAll).dev.heldOf 0 R.HDM_BAD_ACCESS = none ∧
    State.reset.dev.readable R.NTU_CTRL = false ∧ run.dev.readable R.HLD_SRC_ADDR_LO = true ∧ blockIndex R.HLD_SRC_ADDR_LO ∈ [1, 3] ∧ isLo R.HLD_SRC_ADDR_LO = true := by
  decide

/-- A read of a _LO holds the other half, so a read of the _HI finds a word held (R10). -/
theorem test_register_reads_held_met :
    isHi (R.HLD_SRC_ADDR_LO + 4) = true ∧
    (after (.pairLoRead .host R.HLD_SRC_ADDR_LO) (reg (R.HLD_SRC_ADDR_LO + 4) 0 9 run)).dev.heldOf 0 (R.HLD_SRC_ADDR_LO + 4) =
      some 9 := by decide

theorem test_pairs_commit_met :
    run.reaches .host R.HLD_SRC_ADDR_LO .dev 0 ∧ run.reaches .host R.HDM_RING_BASE_LO .ring 0 ∧
    run.reaches .host R.HDM_RING_WB_LO .ring 0 ∧ run.reaches .host R.HDM_Q_TAIL .dmaq 0 ∧
    run.reaches .host R.HDM_RING_HEAD .ring 0 ∧ run.dev.stagedOf 0 (R.HLD_SRC_ADDR_LO + 4) = none ∧
    (after (.registerWrite .host (R.HLD_SRC_ADDR_LO + 4) 5) run).dev.stagedOf 0 (R.HLD_SRC_ADDR_LO + 4) = some 5 ∧
    (0 : BitVec 8).toNat < 2 ^ run.dev.fget F.HDM_Q_CFG_SIZE 0 ∧ run.dev.beginAll = run.dev := by decide

/-- R10: the write of _LO commits the word staged for _HI. -/
theorem test_pair_commits :
    (after (.registerWrite .host R.HLD_SRC_ADDR_LO 3) (after (.registerWrite .host (R.HLD_SRC_ADDR_LO + 4) 5) run)).dev.rget
      (R.HLD_SRC_ADDR_LO + 4) = 5 := by decide

/-! Power, resets, start-up, service states, recovery -/

theorem test_power_and_resets_met :
    run.dev.running = true ∧ 10000 ≤ 10000 ∧ 1999 < 2000 ∧ run.dev.life.power = true ∧ run.dev.life.thermal = false ∧
    State.reset.dev.life.power = true ∧ State.reset.dev.life.low = true ∧ State.reset.dev.life.thermal = false ∧
    run.dev.isRoot = true ∧ State.reset.dev.life.perstLow = true ∧ run.dev.noPass = true ∧ (inState 2).dev.noPass = true ∧ run.dev.reachable R.GLB_SOFT_RESET = true ∧
    run.dev.devSt < stHarness ∧ stHarness ≤ (inState 2).dev.devSt ∧ (inState 2).dev.reachable R.GLB_SOFT_RESET = true := by
  decide

theorem test_start_up_sequence_met :
    run.dev.running = true ∧ run.dev.devSt = stBoot ∧ run.dev.life.fused = false ∧
    run.dev.fon F.GLB_BOOT_STATUS_FUSE_FAIL = false ∧ run.dev.life.locked = false ∧
    run.dev.fon F.GLB_BOOT_STATUS_PLL_FAIL = false ∧
    (life (fun l => { l with fused := true, pllTries := 2 }) run).dev.life.fused = true ∧
    (inState 1).dev.devSt = stTrain ∧ (inState 1).dev.fon F.GLB_BOOT_STATUS_TRAIN_FAIL = false ∧
    (inState 1).dev.fget F.HLD_BOOT_SRC_BOOTSEL ≠ 1 ∧
    (fld F.HLD_BOOT_SRC_BOOTSEL 0 1 (inState 1)).dev.fget F.HLD_BOOT_SRC_BOOTSEL = 1 ∧
    3 ≤ Sparse.get 0 (life (fun l => { l with trips := [(3, 2)] }) (inState 1)).dev.life.trips 3 + 1 ∧
    run.dev.life.perstLow = false ∧ (host (fun h => { h with pcieReady := false }) run).dev.host.pcieReady = false := by decide

/-- R74: the second of three failed attempts trains on, the third holds. -/
theorem test_third_training_failure :
    (after (.trainingAttemptFail 3) (life (fun l => { l with trips := [(3, 2)] }) (inState 1))).dev.fget
      F.GLB_BOOT_STATUS_STACK_FAIL = 8 := by decide

theorem test_temperatures_and_side_ports_met :
    run.dev.life.power = true ∧ (List.replicate 16 (0x7F : Byte)).length = 16 ∧ [(1 : Byte), 2, 3, 4].length = 4 ∧
    (fld F.GLB_TEMP_STATUS_WARN 0 1 run).dev.fon F.GLB_TEMP_STATUS_WARN = true ∧
    run.dev.fon F.GLB_TEMP_STATUS_WARN = false ∧
    (life (fun l => { l with fused := true }) (on (fun d => { d with cycle := 3000000 }) run)).dev.life.fused = true ∧
    run.dev.life.powerAt + 3000000 ≤ (on (fun d => { d with cycle := 3000000 }) run).dev.cycle ∧ run.dev.running = true ∧
    run.dev.host.pcieReady = true ∧ State.reset.dev.host.pcieReady = false ∧ run.dev.isRoot = true ∧ 511 < 512 := by decide

/-- DEV reads STRUCTURE for slice 2's boot load while slice 15 starts up. -/
def otherHeld : State :=
  fld F.GLB_STATE_DEV 0 stStructure (life (fun l => { l with kind := [(2, 1)] }) (slice 2 stStructure (slice 15 stStartup serve)))

theorem test_service_states_of_slices_met :
    otherHeld.dev.devSt = stStructure ∧ (2 ∈ otherHeld.dev.enabledSlices ∧ otherHeld.dev.kindOf 2 = 1) ∧
    otherHeld.dev.sliceSt 15 = stStartup ∧
    run.dev.running = true ∧ run.dev.life.wide = false ∧ (slice 15 stStartup run).dev.sliceSt 15 = stStartup ∧
    (slice 0 stTest run).dev.sliceSt 0 = stTest ∧ serve.dev.sliceSt 15 = stService ∧
    (slice 15 stStartup (fld F.GLB_CTRL_AUTO_SERVICE 0 1 run)).dev.sliceSt 15 = stStartup ∧
    (slice 15 stStartup (fld F.GLB_CTRL_AUTO_SERVICE 0 1 run)).dev.fon F.GLB_CTRL_AUTO_SERVICE = true ∧
    run.dev.fon F.GLB_CTRL_AUTO_SERVICE = false ∧ run.dev.sliceSt 3 ≠ stService ∧ run.dev.clusterHeld 7 = true ∧
    (fld F.GLB_CLUSTER_HOLD_HOLD 0 0x7F run).dev.clusterHeld 7 = false ∧
    bit (ld (fun l => { l with fw := 0x80 }) run).dev.ld.fw 7 = true ∧ bit run.dev.ld.fw 7 = false := by decide

theorem test_slice_recovery_met :
    serve.dev.devSt ≠ stStructure ∧ serve.dev.sliceSt 15 ≠ stOff ∧
    (on (fun d => { d with hostInj := [(15, [default])] }) serve).dev.hasWork 15 false = true ∧
    (slice 15 stOff serve).dev.sliceSt 15 = stOff ∧ (slice 15 stRecovery serve).dev.sliceSt 15 = stRecovery ∧
    serve.dev.life.stopped.contains 15 = false ∧ serve.dev.life.ready.contains 15 = false ∧
    minOf (life (fun l => { l with ready := [15, 4] }) serve).dev.life.ready = some 4 ∧ serve.dev.ld.engine = none ∧
    serve.dev.ld.unit = none ∧ serve.dev.ld.step ≠ 5 ∧
    (life (fun l => { l with kind := [(3, 4)] }) serve).dev.kindOf 3 = 4 ∧ serve.dev.kindOf 3 ≠ 1 ∧ serve.dev.kindOf 3 ≠ 4 := by
  decide

theorem test_slice_recovery_egress_met : (queued 0 {} (port 480 0 serve)).dev.hasWork 15 true = true := by decide

/-! Host accesses and the ring -/

theorem test_host_accesses_met :
    run.dev.running = true ∧ run.dev.isRoot = true ∧ run.dev.host.pcieReady = true ∧ 0x3FFFFFC < 0x4000000 ∧
    0x7FFFC < 0x80000 ∧ 0x7FFFC % 4 = 0 ∧ 0xFC000000 / 0x4000000 % 64 = 63 ∧ run.dev.present 63 = false ∧
    run.dev.fget F.HTR_NOPEER_CNT_COUNT + 1 < 2 ^ F.HTR_NOPEER_CNT_COUNT.w ∧
    (fld F.HTR_PRESENT_HI_DEVID 0 0x80000000 run).dev.present 63 = true ∧
    run.dev.fget F.HDM_BAD_ACCESS_COUNT + 1 < 2 ^ F.HDM_BAD_ACCESS_COUNT.w ∧
    (fld F.GLB_STRAPS_DEVID 0 5 run).dev.isRoot = false := by decide

/-- The BAR2 of device 0 up to its last word. -/
theorem test_ring_messages_met :
    run.dev.running = true ∧ { msg 2 with dst := 1 }.dst ≠ run.dev.devid ∧ (msg 2).dst = run.dev.devid ∧ (msg 2).addr < bar2Mark ∧
    bar2Mark ≤ bar2Mark + 0x7FFFC ∧ (bar2Mark + 0x7FFFC) % 4 = 0 ∧ bar2Mark + 0x7FFFC < bar2Mark + 0x80000 ∧
    (halter (fun h => { h with reqs := [⟨7, 2, 0, some 0⟩] }) run).dev.halter.reqs.find?
      (fun x => x.tag == (msg 4).tag && x.target == (msg 4).src) = some ⟨7, 2, 0, some 0⟩ ∧
    run.dev.isRoot = true ∧ (host (fun h => { h with cfg := [(1, 4)] }) run).dev.busOk = true ∧ run.dev.noPass = true ∧
    (fld F.HTR_STATUS_H1_UP 0 1 run).dev.portHop (!(msg 2).fromH1) = true ∧ run.dev.portHop (!(msg 2).fromH1) = false := by decide

theorem test_remote_operations_met :
    run.dev.noPass = true ∧ run.dev.reachable R.HTR_RMT_CTRL = true ∧ (fld F.HTR_RMT_STATUS_BUSY 64 1 run).dev.fon F.HTR_RMT_STATUS_BUSY 64 = true ∧
    reqIdx (.peer 63) = 64 ∧ run.dev.fget F.HTR_RMT_REFUSED_COUNT 64 + 1 < 2 ^ F.HTR_RMT_REFUSED_COUNT.w ∧
    run.dev.fon F.HTR_RMT_STATUS_BUSY 64 = false ∧ (run.dev.isRoot = true → 0 = run.dev.devid ∨ run.dev.present 0 = true) ∧
    (halter (fun h => { h with reqs := [⟨65535, 2, 0, none⟩] }) run).dev.halter.reqs.find? (fun x => x.tag == 65535) =
      some ⟨65535, 2, 0, none⟩ ∧
    run.dev.fget F.HTR_TIMEOUT_CNT_COUNT + 1 < 2 ^ F.HTR_TIMEOUT_CNT_COUNT.w ∧
    run.dev.fget F.HTR_RX_BAD_COUNT + 1 < 2 ^ F.HTR_RX_BAD_COUNT.w := by decide

theorem test_ring_discovery_met :
    run.dev.isRoot = true ∧ (halter (fun h => { h with roundAt := some 0 }) run).dev.halter.roundAt = some 0 ∧
    run.dev.halter.returned = false ∧ run.dev.halter.timedOut = false ∧ { msg 1 with tag := 0 }.tag = 0 ∧ (msg 1).fromH1 = false ∧
    (fld F.GLB_STRAPS_DEVID 0 5 run).dev.isRoot = false ∧ (fld F.GLB_STRAPS_DEVID 0 5 run).dev.running = true ∧
    (inState 1).dev.fget F.GLB_STATE_DEV ≠ 0 ∧ run.dev.fget F.GLB_STATE_DEV = 0 ∧
    (([5] : List Byte).map (fun b => b.toNat % 64)).contains (fld F.GLB_STRAPS_DEVID 0 5 run).dev.devid = true ∧
    (((msg 1).payload).map (fun b => b.toNat % 64)).contains (fld F.GLB_STRAPS_DEVID 0 5 run).dev.devid = false ∧
    (fld F.HTR_STATUS_H0_UP 0 1 run).dev.portHop false = true ∧ run.dev.portHop true = false ∧
    run.dev.fon F.HTR_CFG_H0_EN = true ∧ (fld F.HTR_CFG_H1_EN 0 0 run).dev.fon F.HTR_CFG_H1_EN = false ∧
    (fld F.HTR_STATUS_H1_UP 0 1 run).dev.fon F.HTR_STATUS_H1_UP = true ∧ run.dev.fon F.HTR_STATUS_H0_UP = false ∧
    run.dev.fget F.HTR_H1_DOWN_CNT_COUNT + 1 < 2 ^ F.HTR_H1_DOWN_CNT_COUNT.w ∧
    (∃ p ∈ (halter (fun h => { h with holds := [(63, 0)] }) run).dev.halter.holds, p.1 = (63 : Fin 64).val) := by decide

/-! The harness loader. The image below is a live image with one PARSER section of the class of Table 02-6 that a unit may take
(CLASSIFIER rows, 0x31) for slice 3, whose body is one END record (Table 02-5). Its key, signature and digest are computed by a
separate program. -/

/-- The header (Table 02-2) of a live image of one section and 456 bytes. -/
def header : List Byte :=
  toLe 4 0x49485A47 ++ toLe 2 1 ++ toLe 2 128 ++ toLe 2 0x5116 ++ [0, 2, 0, 0] ++ toLe 2 1 ++ toLe 4 456 ++ toLe 4 1 ++ toLe 8 0 ++
    toLe 4 192 ++ List.replicate 92 0

def body : List Byte := [0, 0, 0, 0xF0, 0, 0, 0, 0]

/-- Its section table (Table 02-3), with a digest. -/
def table (digest : Nat) : List Byte := toLe 2 0x31 ++ toLe 2 1 ++ toLe 2 0 ++ toLe 2 8 ++ toLe 4 448 ++ toLe 4 8 ++ toBe 48 digest

def bodyDigest : Nat := 0x3b376255d43bdee709aaec78f3c7781f810addaf04f75d808ebd28cf5f2beb425da1edb6a4f2eedf27047dc870e2aa6f

/-- Its signature block (Table 02-4). -/
def sigBlock : List Byte :=
  toLe 2 1 ++ toLe 2 1 ++ toLe 4 0 ++
    toBe 48 0x7ae9e1db1160794c70c1ef071be5191f6c66240f4608fbe8a44ecd36c3ed5db97500f2e4d84e3fb45850fd6f4303302b ++
    toBe 48 0xd8ac21444cd80d241538d8034b399a0dee3636eb5cb00b9499d061a571db0f14bb47ed79453948ed63f3a6ccbbf6e74f ++
    toBe 48 0x8568a35a879b0d506132993c6d911d3136a731409ab8c5d26fd7a01e81425281453a6c6adf4cd2f38c77a5042815ea48 ++
    toBe 48 0xcff4d3335bb60b5b2964861c84282ff89cf68fe36df46e8af10cb79b961b9c4cf32c59d1cbc41d7eb8d0ebac4903b2de ++
    List.replicate 56 0

/-- The words of the key-hash fuses. -/
def keyWords : List Word :=
  [0x4938b309, 0xefca0e50, 0xcab9f949, 0xab849d04, 0x5c5a676a, 0xc0163690, 0xab822a7a, 0x4e19d906, 0x50792c29, 0x353c5bf4,
   0x461f3314, 0x95630270]

def manifest : List Byte := header ++ table bodyDigest ++ sigBlock

/-- A live load from the host at a step. -/
def loading (step : Nat) (man : List Byte) : State :=
  ld (fun l => { l with step := step, src := 3, live := true, len := 456, man := man })
    (on (fun d => forAll (List.range 12) (fun d k => d.rset (R.HLD_KEY_HASH + 4 * k) 0 (keyWords.getD k 0)) d) serve)

/-- RFC 6979 A.2.6, P-384, SHA-384, message "sample". -/
theorem test_p384_verifies :
    ecdsaOk 0xEC3A4E415B4E19A4568618029F427FA5DA9A8BC4AE92E02E06AAE5286B300C64DEF8F0EA9055866064A254515480BC13
      0x8015D9B72D7D57244EA8EF9AC0C621896708A59367F9DFB9F54CA84B3F1C9DB1288B231C3AE0D4FE7344FD2533264720
      0x94EDBB92A5ECB8AAD4736E56C691916B3F88140666CE9FA73D64C4EA95AD133C81A648152E44ACF96E36DD1E80FABE46
      0x99EF4AEB15F178CEA1FE40DB2603138F130E740A19624526203B6351D0A3A94FA329C145786E679E7B82C71A38628AC8
      0x9a9083505bc92276aec4be312696ef7bf3bf603f4bbd381196a029f340585312313bca4a9b5b890efee42c77b1ee25fe = true := by
  decide +kernel

/-- SHA-384 of "sample" (RFC 6979 A.2.6). -/
theorem test_sha384 :
    beNat (sha384 [0x73, 0x61, 0x6D, 0x70, 0x6C, 0x65]) =
      0x9a9083505bc92276aec4be312696ef7bf3bf603f4bbd381196a029f340585312313bca4a9b5b890efee42c77b1ee25fe := by decide +kernel

theorem test_load_starts_met :
    (fld F.HLD_STATUS_BUSY 0 1 serve).dev.fon F.HLD_STATUS_BUSY = true ∧ serve.dev.strapWait = false ∧
    serve.dev.fget F.HLD_REFUSED_CNT_COUNT + 1 < 2 ^ F.HLD_REFUSED_CNT_COUNT.w ∧ serve.dev.fon F.HLD_STATUS_BUSY = false ∧
    serve.dev.applyStuck = false ∧ stHarness ≤ serve.dev.devSt ∧ 128 ≤ (fld F.HLD_SRC_LEN_LEN 0 128 serve).dev.fget F.HLD_SRC_LEN_LEN ∧
    (loading 4 []).dev.ld.src = 3 ∧ (loading 4 []).dev.ld.step ∈ [1, 2, 4] ∧
    (ld (fun l => { l with src := 4, step := 1, byStrap := true }) serve).dev.strapWait = true ∧ serve.dev.upstream = none ∧
    (halter (fun h => { h with order := [7, 0] }) serve).dev.upstream = some 7 ∧
    (msg 9).dst = serve.dev.devid ∧ (msg 9).src ≠ 64 ∧ serve.dev.ld.src ≠ 4 ∧ serve.dev.ld.retained = false ∧
    (ld (fun l => { l with retained := true }) (fld F.HLD_CTRL_SERVE_EN 0 1 serve)).dev.fon F.HLD_CTRL_SERVE_EN = true := by decide

theorem test_header_fetch_met :
    (loading 1 []).dev.running = true ∧ (loading 1 []).dev.fetched 0 128 header = some header ∧
    hdrCheck header (loading 1 []).dev.devid 0 true (loading 1 []).dev.sourceLimit = 0 ∧ (loading 1 []).dev.ld.src ≠ 1 ∧
    hdrCheck (List.replicate 128 0) ((loading 1 []).dev.fget F.GLB_ID_REV) 0 true 456 = errMagic := by decide +kernel

theorem test_manifest_fetch_met :
    (loading 2 header).dev.fetched 128 320 (table bodyDigest ++ sigBlock) = some (table bodyDigest ++ sigBlock) ∧
    sigOffset (hdrCount header) + 128 = 320 ∧
    sigFormCheck (LoadSt.sig { (loading 2 header).dev.ld with man := manifest }) (loading 2 header).dev.keyHash = 0 := by
  decide +kernel

theorem test_signature_met :
    sigOk (manifest.take 192) (loading 3 manifest).dev.ld.sig = true ∧ (tableCheck manifest true).1 = 0 := by decide +kernel

theorem test_signature_fails_met :
    sigOk ((loading 3 (header ++ table 0 ++ sigBlock)).dev.ld.man.take 192) (loading 3 (header ++ table 0 ++ sigBlock)).dev.ld.sig =
      false ∧ (loading 3 []).dev.ld.src ≠ 1 := by decide +kernel

theorem test_body_digest_met :
    (loading 4 manifest).dev.fetched 448 8 (0 :: body) = some ((0 :: body).take 8) ∧
    (loading 4 manifest).dev.fetched 448 8 body = some body ∧
    (loading 4 manifest).dev.ld.entry.map (fun e => (e.off, e.len, e.digest, e.applies)) = some (448, 8, toBe 48 bodyDigest, true) ∧
    (loading 4 manifest).dev.ld.entry.any (fun e => recordsOk e body) = true ∧
    sha384 ((0 :: body).take 8) ≠ toBe 48 bodyDigest ∧ sha384 body = toBe 48 bodyDigest := by decide +kernel

/-- The body is the first of two, the last of a live image, the last of a boot image. -/
theorem test_body_staged_met :
    let two := header.take 14 ++ toLe 2 2 ++ header.drop 16 ++ table bodyDigest ++ table bodyDigest ++ sigBlock
    (loading 4 two).dev.ld.entry.map (fun e => (e.off, e.len, e.digest)) = some (448, 8, toBe 48 bodyDigest) ∧
    (loading 4 two).dev.ld.next + 1 < hdrCount two ∧ hdrCount manifest ≤ (loading 4 manifest).dev.ld.next + 1 ∧
    (loading 4 manifest).dev.ld.live = true ∧
    (let s := ld (fun l => { l with live := false }) (loading 4 manifest)
     s.dev.ld.live = false ∧ s.dev.fetched 448 8 body = some body ∧
     coverageMissing (entries manifest) (Block.imageMask ⟨s.dev, s.mem.write .dram (stageBase false + 448) body⟩ (entries manifest)) =
      false) := by decide +kernel

/-- The image stands in the staging area of a boot load, with its apply pass under way. -/
def applying (digest : Nat) : State :=
  put .dram 0x300001C0 body (put .dram 0x30000000 (header ++ table digest) (loading 5 (header ++ table digest ++ sigBlock)))

/-- A whole pass over bodies. -/
def passed (live : Bool) (since : Nat) (ws : List (Target × Entry)) (s : State) : Pass :=
  (s.blk.on (fun d => d.toCycle (since + passCycles ws))).runPass ⟨live, s.dev.ld.done, passBytes ws, true⟩ ws

theorem test_apply_pass_met :
    let s := fld F.GLB_CTRL_STRUCT_HOLD 0 1 (applying bodyDigest)
    let p := passed false s.dev.ld.since (bootWork (applyOrder (entries s.dev.ld.man))) s
    s.dev.ld.step = 5 ∧ p.bad = none ∧ p.fail = none ∧ p.b.dev.fon F.GLB_CTRL_STRUCT_HOLD = true := by decide +kernel

theorem test_apply_pass_fails_met :
    let s := applying 0
    let p := passed false s.dev.ld.since (bootWork (applyOrder (entries s.dev.ld.man))) s
    p.bad = none ∧ p.fail = some 0 := by decide +kernel

/-- The same image retained, slice 3 taking its own sections again. -/
theorem test_recovery_apply_met :
    let s := ld (fun l => { l with engine := some 3 }) (applying 0)
    let p := passed false s.dev.ld.engineAt (s.blk.sliceWork 3) s
    s.dev.ld.engine = some 3 ∧ (s.blk.sliceWork 3).length = 1 ∧ p.fail = some 0 ∧ p.bad = none := by decide +kernel

theorem test_recovery_apply_completes_met :
    let s := ld (fun l => { l with engine := some 3 }) (fld F.GLB_CTRL_STRUCT_HOLD 0 1 (applying bodyDigest))
    let p := passed false s.dev.ld.engineAt (s.blk.sliceWork 3) s
    p.fail = none ∧ p.bad = none ∧ p.b.dev.fon F.GLB_CTRL_STRUCT_HOLD = true := by decide +kernel

/-- The units of a live load are taken one by one. -/
def units (us : List Nat) (s : State) : State := ld (fun l => { l with units := us }) s

theorem test_live_units_met :
    (loading 6 manifest).dev.unitCode ((units [3] (loading 6 manifest)).blk.newCarve 3) [] 3 = 0 ∧
    (slice 3 stTest (loading 6 manifest)).dev.unitCode ((units [3] (loading 6 manifest)).blk.newCarve 3) [] 3 = 6 ∧
    (units [3, 4] (loading 6 manifest)).dev.ld.units = 3 :: [4] ∧ (loading 6 manifest).dev.ld.unit = none ∧
    (loading 6 manifest).dev.ld.engine = none ∧ (loading 6 manifest).dev.life.ready = [] := by decide +kernel

theorem test_live_epoch_met :
    let s := fld F.CLS_EPOCH_DRAINING 3 2 (on (fun d => { d with epochs := [(3 * 65536 + 2, 1)] }) (units [3, 4] (loading 6 manifest)))
    s.dev.epochBusy 3 = true ∧ s.dev.unitCode (s.blk.newCarve 3) s.blk.queued 3 = 2 := by decide +kernel

theorem test_live_apply_met :
    let s := ld (fun l => { l with unit := some 3 }) (put .dram 0x500001C0 body (loading 6 manifest))
    let p := passed true s.dev.ld.unitAt (s.dev.unitWork 3) s
    s.dev.ld.unit = some 3 ∧ (s.dev.unitWork 3).length = 1 ∧ p.bad = none ∧ p.fail = none := by decide +kernel

/-! Ports, carriers, HOLD inputs -/

def car (c : Nat) (f : CarSt → CarSt) : State → State := on (fun d => { d with cars := upd0 d.cars c f })
def pt (p : Nat) (f : PortSt → PortSt) : State → State := on (fun d => d.updPt p f)

/-- Carrier 63, of slice 15, with one 100G PHY, selected by the host. -/
def carrier : State := fld F.CAR_SEL_CARRIER 0 63 <| fld F.CAR_CFG_ENABLE 63 1 (fld F.CAR_CFG_SLICE 63 15 (fld F.CAR_CFG_PHY_COUNT 63 1 serve))

theorem test_ports_and_carriers_met :
    (serve.dev.pt 511).lockAt = none ∧ (serve.dev.car 63).lockAt = none ∧ (511 : Fin 512).val % 64 = 63 ∧ serve.dev.isEth 511 = false ∧
    (port 511 0 serve).dev.isEth 511 = true ∧ (port 511 0 serve).dev.memberOf 511 = none ∧ (port 511 0 serve).dev.teamOf 511 = none ∧ (port 511 0 serve).dev.link 511 = true ∧
    (fld F.PRT_MAC_CFG_ENABLE 511 1 (fld F.PRT_MODE_KIND 511 1 (pt 511 (fun x => { x with lockAt := some 3 }) serve))).dev.link 511 =
      false ∧
    (pt 511 (fun x => { x with lockAt := some 3 }) serve).dev.fon F.PRT_MAC_CFG_ENABLE 511 = false ∧
    (fld F.PRT_MAC_CFG_ENABLE 511 1 serve).dev.fon F.PRT_MAC_CFG_ENABLE 511 = true ∧ serve.dev.forwards 15 = true ∧
    (car 63 (fun x => { x with lockAt := some 3 }) carrier).dev.fon F.CAR_STATUS_UP 63 = false ∧
    (car 63 (fun x => { x with lockAt := some 3 }) carrier).dev.fon F.CAR_CFG_ENABLE 63 = true ∧
    (car 63 (fun x => { x with lockAt := some 3 }) carrier).dev.forwards (carrier.dev.fget F.CAR_CFG_SLICE 63) = true := by
  decide +kernel

theorem test_calendars_met :
    carrier.reaches .host R.CAR_CAL_ENTRY .carrier 63 ∧ carrier.reaches .host R.CAR_CAL_CTRL .carrier 63 ∧
    carrier.reads .host R.CAR_MF_NEXT_NS .carrier 63 ∧ carrier.reads .host R.CAR_CAL_ENTRY .carrier 63 ∧ carrier.dev.fon F.CAR_CAL_IDX_RX 63 = false ∧
    (fld F.CAR_CAL_IDX_BANK 63 1 carrier).dev.fget F.CAR_CAL_IDX_BANK 63 ≠ carrier.dev.active 63 ∧
    carrier.dev.fon F.CAR_CAL_STATUS_ARMED 63 = false ∧ (fld F.CAR_CAL_IDX_SLOT 63 19 carrier).dev.fget F.CAR_CAL_IDX_SLOT 63 < carrier.dev.calLen 63 ∧
    carrier.dev.fget F.CAR_CAL_IDX_BANK 63 = carrier.dev.active 63 ∧
    (fld F.CAR_CAL_STATUS_ARMED 63 1 carrier).dev.fon F.CAR_CAL_STATUS_ARMED 63 = true ∧
    carrier.dev.fget F.CAR_CAL_REFUSED_COUNT 63 + 1 < 2 ^ F.CAR_CAL_REFUSED_COUNT.w ∧ (carrier.dev.car 63).rc = none ∧
    ((car 63 (fun x => { x with sw := some ⟨0, none, none⟩ }) carrier).dev.car 63).sw.isSome = true ∧
    ((car 63 (fun x => { x with boot := some 0 }) carrier).dev.mfNext 63).isSome = true ∧
    (fld F.CAR_STATUS_UP 63 1 carrier).dev.fon F.CAR_STATUS_UP 63 = true ∧ carrier.dev.fon F.CAR_CAL_STATUS_CA_RCVD 63 = false := by
  decide +kernel

/-- A switch in its boundary's cycle, and before it. -/
theorem test_switch_cancel_met :
    let s := fld F.CAR_STATUS_UP 63 1 (car 63 (fun x => { x with boot := some 0, sw := some ⟨1, none, none⟩ }) carrier)
    let now := on (fun d => { d with cycle := d.mfCycle 63 1 }) s
    (now.dev.car 63).rc = none ∧ now.dev.swCycle 63 = some now.dev.cycle ∧ s.dev.swCycle 63 ≠ some s.dev.cycle := by decide +kernel

/-- A switch, a change of its receive calendar and a handshake that wait at carrier 63. -/
theorem test_calendar_switch_met :
    let x := ((fld F.CAR_STATUS_UP 63 1 (car 63 (fun x => { x with
      boot := some 0, sw := some ⟨0, none, some 4⟩, rx := some (false, some 9) }) carrier)).dev.car 63)
    x.boot.isSome = true ∧ x.sw = some ⟨0, none, some 4⟩ ∧ x.rx = some (false, some 9) ∧ x.rc = none ∧ false ≠ true ∧ 1 < min [(5 : BitVec 6), 9].length (carrier.dev.calLen 63) ∧
    ([(5 : BitVec 6), 9].map (fun n => n.toNat)).getD 1 0 ≠ (fld F.CAR_CAL_STATUS_RX_CCC 63 1 carrier).dev.rxCal 63 1 := by
  decide +kernel

theorem test_hold_inputs_met :
    bit (serve.dev.rget R.CAR_HOLD_PIN).toNat 31 = false ∧ bit (serve.dev.rget R.CAR_HOLD_MASK).toNat 31 = false ∧
    511 ∈ (fld F.PRT_MAC_CFG_HOLD_SEL 511 31 (port 511 0 serve)).dev.followers 31 ∧
    bit ((reg R.CAR_HOLD_PIN 0 0x80000000 serve).dev.rget R.CAR_HOLD_PIN).toNat 31 = true ∧
    serve.dev.fget F.CAR_HOLD_CFG_RESUME_NS 63 = 0 ∧
    ((car 63 (fun x => { x with hold := { resume := some 7 } }) serve).dev.car 63).hold.resume = some 7 ∧
    (at0 (on (fun d => { d with holdIns := [(31, { on := true, n := 256 })] }) serve).dev.holdIns 31).on = true ∧
    serve.dev.fget F.CAR_HOLD_LIMITS_CHATTER_MAX < 256 ∧ serve.reaches .host R.CAR_HOLD_MASK .dev 0 ∧
    bit (0x80000000 : Word).toNat 31 = true := by decide +kernel

/-- A change of carrier 63 that waits with a calendar switch or without one. -/
def change (calSw : Bool) : RcSt := ⟨0, 0, calSw, 0, [(480, (1, 1))], none, []⟩

/-- The cancel of a change in its plan's cycle, and before it. -/
theorem test_rate_cancel_met :
    let s := car 63 (fun x => { x with rc := some { change false with mf := 1 }, boot := some 0 }) carrier
    let now := on (fun d => { d with cycle := d.mfCycle 63 1 }) s
    now.dev.rcCycle 63 { change false with mf := 1 } = some now.dev.cycle ∧
    s.dev.rcCycle 63 { change false with mf := 1 } ≠ some s.dev.cycle := by decide +kernel

theorem test_rate_changes_met :
    carrier.reaches .host R.CAR_RC_CTRL .carrier 63 ∧ (fld F.CAR_CFG_ENABLE 63 0 carrier).dev.rcRefusal 63 ≠ 0 ∧
    carrier.dev.fget F.CAR_CAL_REFUSED_COUNT 63 + 1 < 2 ^ F.CAR_CAL_REFUSED_COUNT.w ∧
    (fld F.CAR_RC_CTRL_CAL_SW 63 1 (car 63 (fun x => { x with boot := some 0 }) carrier)).dev.rcRefusal 63 = 0 ∧
    ((car 63 (fun x => { x with boot := some 0 }) carrier).dev.car 63).boot.isSome = true ∧
    (fld F.CAR_RC_CTRL_IMMEDIATE 63 1 carrier).dev.fon F.CAR_RC_CTRL_IMMEDIATE 63 = true ∧
    ((car 63 (fun x => { x with rc := some (change false) }) carrier).dev.car 63).rc = some (change false) ∧
    carrier.dev.fon F.CAR_STATUS_UP 63 = false ∧
    (change true).ports.find? (fun y => ((port 480 8 carrier).dev.leaves y.1).contains 15) = some (480, (1, 1)) ∧
    (fld F.CAR_RC_CFG_TRIG_SEL 63 15 (car 63 (fun x => { x with trig := some 5 }) carrier)).dev.fget F.CAR_RC_CFG_TRIG_SEL 63 < 16 ∧
    ((fld F.CAR_RC_CFG_TRIG_SEL 63 15 (car 63 (fun x => { x with trig := some 5 }) carrier)).dev.car 63).trig = some 5 ∧
    ((car 63 (fun x => { x with pulse := some (0, 5) }) carrier).dev.car 63).pulse = some (0, 5) := by decide +kernel

/-! Frames, pipelines, fabric -/

/-- A minimum frame of zeros but its EtherType, with a FCS. -/
def frame (ty fcs : Nat) : List Byte := List.replicate 12 0 ++ toBe 2 ty ++ List.replicate 46 0 ++ toLe 4 fcs

/-- Port 511 up at 100 Gb/s, its leaf 8 on with a guarantee of 10 Gb/s and a bound of 1 ms. -/
def lane : State :=
  fld F.PRT_STATUS_PAYLOAD_RATE 511 20 <| fld F.TMG_Q_CFG_ENABLE 8 1 <| fld F.TMG_Q_GUAR_RATE 8 10000 <|
    fld F.TMG_Q_BOUND_NS 8 1000000 <| fld F.PRT_RX_CAP_KIB 511 64 <| fld F.PRT_MAC_CFG_MAX_FRAME 511 9216 (port 511 8 serve)

theorem test_frames_received_met :
    serve.dev.link 0 = false ∧ lane.dev.link 511 = true ∧ lane.dev.slotsLost 511 = false ∧
    (fld F.PRT_MODE_KIND 511 2 (car 0 (fun x => { x with bad := [511] }) lane)).dev.slotsLost 511 = true ∧ lane.dev.forwards 15 = true ∧ (slice 15 stBoot lane).dev.forwards 15 = false ∧
    (frame 0 0x04128908).length = 64 ∧ lane.dev.maxFrameAt 511 (lane.dev.firstByte 511 64) = 9216 ∧
    crc32 ((frame 0x0800 0x32ece9a9).take 60) = leNat ((frame 0x0800 0x32ece9a9).drop 60) ∧
    f16 ((frame 0x0800 0x32ece9a9).take 60) 12 ≠ 0x8808 ∧
    crc32 ((frame 0x8808 0x16c2b891).take 60) = leNat ((frame 0x8808 0x16c2b891).drop 60) ∧
    f16 ((frame 0x8808 0x16c2b891).take 60) 12 = 0x8808 ∧
    crc32 ((frame 0x0800 0).take 60) ≠ leNat ((frame 0x0800 0).drop 60) := by decide +kernel

theorem test_frames_received_bounds_met :
    lane.dev.rxHeld 15 (fun q => q == 511) + 64 ≤ lane.dev.fget F.PRT_RX_CAP_KIB 511 * 1024 ∧
    lane.dev.rxHeld 15 (fun _ => true) + 64 ≤ 114688 ∧
    ¬ (lane.dev.rxHeld 15 (fun q => q == 511) + 64 ≤ (fld F.PRT_RX_CAP_KIB 511 0 lane).dev.fget F.PRT_RX_CAP_KIB 511 * 1024) ∧
    [F.PRT_RX_RECOVERY_DROP_COUNT, F.PRT_RX_RUNT_COUNT, F.PRT_RX_OVERSIZE_COUNT, F.CKU_RX_FCS_ERR_COUNT, F.PRT_RX_MACCTRL_COUNT,
      F.PRT_RX_OVERRUN_COUNT].all (fun f => decide (lane.dev.canCount f 511)) = true := by decide +kernel

/-- A record in the home slot of a key, in the row cache. -/
def cacheKey (key : List Byte) (s : State) : State :=
  let k := s.dev.fkey key 0
  let slot := s.dev.homeSlot k
  on (fun d => { d with flow.cache := [(cacheBucket slot * 8, some ⟨slot, k.h1 + k.h2 * 2 ^ 32 + k.h3 * 2 ^ 64 + 2 ^ 96⟩)] }) s

def inSlice (k : Nat) (f : SliceSt → SliceSt) : State → State := on (fun d => d.updSl k f)

theorem test_ingress_reinject_met :
    let j : Inject := ⟨List.replicate 60 0, 511, 2, false, false, 0, 0, 0, 0, 0, none, [], false⟩
    let s := on (fun d => { d with hostInj := [(15, [j])] }) lane
    at0 s.dev.hostInj 15 = [j] ∧ s.dev.lineReady 15 = [] ∧ (s.dev.sl 15).recirc = [] ∧ at0 s.dev.drvInj 15 = [] ∧
    (s.dev.sl 15).last = none ∧ (s.dev.sl 15).rel = [] ∧ s.dev.leafOf 511 0 0 = 8 ∧ s.dev.admitTest 511 8 15 60 false = 0 := by
  decide +kernel

theorem test_ingress_parse_fails_met :
    let k : Pkt := { data := List.replicate 10 0, port := 511, slice := 15 }
    let s := inSlice 15 (fun x => { x with rx := [k] }) (fld F.SLC_FAIL_ACT_MAL_ACT 15 0 lane)
    (s.dev.sl 15).rx = [k] ∧ (s.dev.sl 15).recirc = [] ∧ (s.dev.sl 15).last = none ∧ at0 s.dev.hostInj 15 = [] ∧
    s.dev.memberOf 511 = none ∧ (parse (s.dev.pcfg 15 1 false) k.data).result = 1 ∧ (parse (s.dev.pcfg 15 1 false) k.data).reason ≤ 16 ∧
    s.dev.fget F.GLB_STATE_DEV = stService ∧ s.dev.fget F.SLC_FAIL_ACT_MAL_ACT 15 = 0 ∧ s.dev.canCount F.SLC_FAIL_DROP_COUNT 15 := by
  decide +kernel

theorem test_miss_lane_met :
    let k : Pkt := { data := List.replicate 60 0, port := 511, slice := 15, pass := 2 }
    let s := cacheKey [1] (inSlice 15 (fun x => { x with flow := [{ key := [1], prof := 0, pkts := [k] }, { key := [1], prof := 0, pkts := [], ghost := some k, needs := [7], got := 1 }] }) lane)
    let key := s.dev.fkey [1] 0
    ((s.dev.cached (s.dev.homeSlot key)).map (fun x => rcMatch x.2 key)) = some true ∧
    (s.dev.sl 15).flow[1]? = some { key := [1], prof := 0, pkts := [], ghost := some k, needs := [7], got := 1 } ∧
    (s.dev.sl 15).flow[0]? = some { key := [1], prof := 0, pkts := [k] } ∧ k.pass ≠ 1 ∧ s.dev.flow.ops = [] ∧
    s.dev.integ.badWords = [] ∧ s.dev.rmacHit (daOf k.data) = false ∧ s.dev.l2At 15 (daOf k.data) (s.blk.outerVlan k) = none ∧
    s.blk.vlanFlood (s.blk.outerVlan k) = false ∧ s.dev.canCount F.FWD_L2_DA_MISS_COUNT 15 := by decide +kernel

theorem test_leaf_lane_met :
    let k : Pkt := { data := List.replicate 60 0, port := 0, slice := 15 }
    let s := inSlice 15 (fun x => { x with leaf := [⟨[1], 0, [⟨k, none, none, mkDest 0 511, false⟩]⟩] }) lane
    (s.dev.sl 15).leaf[0]? = some ⟨[1], 0, [⟨k, none, none, mkDest 0 511, false⟩]⟩ ∧ k.mirEn = false ∧
    bit (s.blk.portCfg 0 3) 0 = false ∧ s.blk.leafClass k none = (0, 0) ∧ s.dev.admitTest 511 8 15 60 false = 0 := by decide +kernel

/-- A packet waits at leaf 8 of port 511 from row 15. -/
def waiting : QPkt := { id := 1, data := List.replicate 60 0, row := 15, queue := 8, port := 511, bound := 1000, wrEnd := 399 }

theorem test_fabric_writes_met :
    let s := queued 8 { waiting with id := 2, dram := true, written := true } (queued 8 waiting lane)
    399 ∈ s.dev.rowEnds 15 ∧ (∀ y ∈ s.dev.rowEnds 15, 399 ≤ y) ∧
    ((s.dev.lq 8).pkts.find? (fun y => y.dram)).map (fun y => (y.fetched, y.written)) = some (false, true) := by decide +kernel

theorem test_fabric_frame_start_met :
    let x := { waiting with written := true }
    let s := queued 8 x lane
    let z := s.dev
    let d : Dev := z.updSl 15 (fun y => { y with lastTx := some z.cycle })
    (s.dev.sl 15).lastTx = none ∧ z.busyPorts 15 = [511] ∧ z.canStart 511 = true ∧ z.teamOf 511 = none ∧
    (tmSelect 511 d).1 = some (8, x) ∧ z.macStart 511 ≤ x.adm + x.bound ∧ s.dev.fon F.NTU_PORT_CFG_ONE_STEP_EN 511 = false ∧
    s.dev.fon F.NTU_PORT_CFG_TC_EN 511 = false ∧ (s.dev.pt 511).tx = [] := by decide +kernel

theorem test_fabric_read_end_met :
    let t : Tx := { pkt := waiting, bytes := List.replicate 64 0, start := 84, stop := 126 }
    let s := on (fun d => d.updPt 511 (fun x => { x with tx := [t] })) lane
    (s.dev.pt 511).tx.find? (fun y => !y.isRead && !y.probe && !s.dev.keptTx 511 y) = some t := by decide +kernel

/-- A multicast packet of row 0 in column 15 with one port to do or as residue. -/
def copy (todo residue : List Nat) : McPkt :=
  { id := 1, row := 0, col := 15, src := { data := List.replicate 60 0 }, todo := todo, residue := residue, written := true }

def copies (l : List McPkt) : State := on (fun d => { d with tm.mcs := l }) lane

theorem test_multicast_met :
    (copies [copy [511] []]).dev.mcNext 15 = some (copy [511] []) ∧ ((copies [copy [511] []]).dev.residues 15).length < 1024 ∧
    (copies [copy [511] []]).dev.mcBlocked (copy [511] []) 511 = false ∧
    ((copies [copy [511] []]).dev.elapse 1).admitTest 511 8 0 60 true = 0 ∧
    (copies [copy [511] []]).dev.residues 15 = [] ∧ (copies [copy [] [511]]).dev.residues 15 ≠ [] ∧
    max lane.dev.cycle ((copy [] [511]).acc + 3000) < ((inSlice 15 (fun x => { x with retryAt := 3001 }) lane).dev.sl 15).retryAt ∧
    ((copies [copy [] [511]]).dev.toCycle 0).admitTest 511 8 0 60 true = 0 ∧
    cyclesOfNs ((fld F.XPF_MC_CFG_RESIDUE_WAIT_US 15 1 lane).dev.fget F.XPF_MC_CFG_RESIDUE_WAIT_US 15 * 1000) ≠ 0 ∧
    lane.dev.canCount (F.XPF_MC_RES_DROP_COUNT.nth 31) 15 := by decide +kernel

theorem test_multicast_full_met :
    1024 ≤ ((copies (List.replicate 1024 (copy [] [511]) ++ [copy [511] []])).dev.residues 15).length ∧ (copy [511] []).taken = false ∧
    ((inSlice 15 (fun x => { x with resFull := some 0 }) lane).dev.sl 15).resFull = some 0 ∧
    lane.dev.fget F.XPF_RES_STALL_COUNT 15 + 1 < 2 ^ F.XPF_RES_STALL_COUNT.w := by decide +kernel

/-! Classifier and tables -/

/-- Slice 15 selected by the host, its bank 0 in one state and bank 1 in another. -/
def banks (b0 b1 : Nat) : State :=
  fld (bankFld 0) 15 b0 <| fld (bankFld 1) 15 b1 <| fld F.SLICE_SEL_SLC_SLICE 0 15 serve

theorem test_classifier_banks_met :
    (banks bkActive bkEmpty).dev.noPass = true ∧ (banks bkActive bkEmpty).dev.reachable (0x3000000 + 4 * 262143) = true ∧
    (banks bkActive bkEmpty).dev.sliceSel 0 R.SLICE_SEL_SLC = 15 ∧ (banks bkActive bkEmpty).dev.stagedBank 15 = 1 ∧
    (banks bkActive bkEmpty).dev.bankSt 15 1 = bkEmpty ∧ (banks bkActive bkSealed).dev.bankSt 15 1 = bkSealed ∧
    4 * 0 + 4 ≤ (fld F.CLS_BANK_SIZE_SHARE0 15 8 (banks bkActive bkEmpty)).dev.bankSize 15 1 ∧
    (banks bkActive bkEmpty).dev.canCount F.CLS_REFUSED_COUNT 15 ∧ (banks bkActive bkEmpty).reaches .host R.CLS_STAGE_CTRL .slice 15 ∧
    (banks bkActive bkEmpty).reaches .host R.CLS_SWAP_CTRL .slice 15 ∧ (banks bkActive bkEmpty).reaches .host R.CLS_CTRL .slice 15 ∧
    (banks bkActive bkSealed).dev.fon F.CLS_SWAP_STATUS_ARMED 15 = false ∧
    (banks bkActive bkSealed).dev.bankSt 15 ((banks bkActive bkSealed).dev.activeBank 15) = bkActive ∧
    (fld F.CLS_SWAP_CTRL_IMMEDIATE 15 1 (banks bkActive bkSealed)).dev.fon F.CLS_SWAP_CTRL_IMMEDIATE 15 = true ∧
    (fld F.CLS_SWAP_STATUS_ARMED 15 1 (banks bkActive bkSealed)).dev.fon F.CLS_SWAP_STATUS_ARMED 15 = true := by decide +kernel

theorem test_classifier_swap_met :
    let s := fld F.CLS_EPOCH_DRAINING 15 65535 (inSlice 15 (fun x => { x with swapAt := some 9 }) (banks bkActive bkDraining))
    (s.dev.sl 15).swapAt = some 9 ∧ s.dev.fget F.CLS_EPOCH_DRAINING 15 ≠ 0 ∧ s.dev.inflight 15 65535 = 0 ∧
    s.dev.bankSt 15 (1 - s.dev.activeBank 15) = bkDraining ∧
    (on (fun d => { d with epochs := [(15 * 65536 + 65535, 1)] }) s).dev.inflight 15 65535 ≠ 0 ∧
    s.dev.cycle < 9 ∧ 9 ≤ (on (fun d => { d with cycle := 9 }) s).dev.cycle := by decide +kernel

theorem test_classifier_updates_met :
    let s := fld F.CLS_UPD_ADDR_WORD 0 0 <| fld F.CLS_UPD_ADDR_WORDS 0 4 <| fld F.CLS_BANK_SIZE_SHARE0 15 8 (banks bkActive bkEmpty)
    let g : UpdGroup := ⟨323, 0, [1, 2, 3, 4, 5, 6, 7, 8]⟩
    s.reaches .host R.CLS_UPD_CTRL .slice 15 ∧ s.dev.fon F.CLS_UPD_STATUS_BUSY 0 = false ∧ (s.dev.sl 15).upd.length < 8 ∧
    (s.dev.fget F.CLS_UPD_ADDR_WORD 0 + s.dev.fget F.CLS_UPD_ADDR_WORDS 0) * 8 ≤ s.dev.bankSize 15 (s.dev.activeBank 15) ∧
    (fld F.CLS_UPD_STATUS_BUSY 0 1 s).dev.fon F.CLS_UPD_STATUS_BUSY 0 = true ∧
    ¬ ((131071 + 4) * 8 ≤ (fld F.CLS_UPD_ADDR_WORD 0 131071 s).dev.bankSize 15 (s.dev.activeBank 15)) ∧
    ((inSlice 15 (fun x => { x with upd := [g] }) s).dev.sl 15).upd = [g] ∧ g.who < 324 ∧
    s.mem.scrubFind 0x15 (s.dev.clsWord 15 (s.dev.activeBank 15) 0) = none ∧ s.dev.noPass = true ∧
    s.dev.wordBad 0x20 (clsCounterWord 15 8191) = false ∧ s.dev.readable (0x3200000 + 16 * 4095) = true ∧ s.dev.heldOf 0 (0x3200000 + 16 * 4095) = none := by decide +kernel

/-- The requester's flow key is in the row cache; its home slot holds a record of another key or none. -/
def flowHit : State :=
  let s := serve
  let k := s.dev.opFKey 0
  let slot := s.dev.homeSlot k
  on (fun d => { d with flow.cache := [(cacheBucket slot * 8, some ⟨slot, k.h1 + k.h2 * 2 ^ 32 + k.h3 * 2 ^ 64 + 2 ^ 96⟩)] }) s

def flowMiss : State :=
  let slot := serve.dev.homeSlot (serve.dev.opFKey 0)
  on (fun d => { d with flow.cache := [(cacheBucket slot * 8, some ⟨slot, 0⟩)] }) serve

/-- Whether the requester's flow operation would go ahead. -/
def flowReady (d : Dev) : Bool :=
  let b := d.buckets (d.opFKey 0)
  !d.locked b.1 && !d.locked b.2 && decide ((acctUnit : Int) ≤ d.flow.devRd.now (1024 * acctUnit) (d.fget F.FLW_DEV_BUDGET_RATE) d.cycle)

theorem test_flow_operations_met :
    let key := flowHit.dev.opFKey 0
    let ctl := flowHit.dev.rget R.FLW_OP_CTRL 0
    let checks := fld F.FLW_OP_CTRL_CHECK 0 1 (fld F.FLW_OP_CTRL_EXP_VERSION 0 15 flowHit)
    flowHit.reaches .host R.FLW_OP_CTRL .req 0 ∧ flowHit.dev.flow.ops = [] ∧ flowHit.dev.integ.badWords = [] ∧
    (∀ m, m < 16 → (flowHit.dev.sl m).flow = []) ∧
    (flowHit.dev.cached (flowHit.dev.homeSlot key)).map (fun x => (rcMatch x.2 key, opCheck ctl x.2)) = some (true, true) ∧
    (flowHit.dev.cached (flowHit.dev.homeSlot key)).map (fun x => opCheck (checks.dev.rget R.FLW_OP_CTRL 0) x.2) = some false ∧
    (flowMiss.dev.cached (flowMiss.dev.homeSlot key)).map (fun x => (rcMatch x.2 key, rcHop x.2, rcState x.2)) = some (false, 0, 0) := by
  decide +kernel

theorem test_flow_operations_wait_met :
    flowHit.dev.fon F.FLW_OP_STATUS_BUSY 0 = false ∧ (fld F.FLW_OP_STATUS_BUSY 0 1 flowHit).dev.fon F.FLW_OP_STATUS_BUSY 0 = true ∧
    flowHit.dev.canCount F.FLW_OP_REFUSED_COUNT 0 ∧ flowReady flowHit.dev = true ∧ flowReady flowMiss.dev = true ∧
    flowReady (on (fun d => { d with flow.devRd := ⟨some 0, 0⟩ }) flowHit).dev = false ∧
    (let s := fld F.FLW_OP_SLOT_SLOT 0 (flowHit.dev.homeSlot (flowHit.dev.opFKey 0)) flowHit
     (s.dev.cached (s.dev.fget F.FLW_OP_SLOT_SLOT 0)).isSome = true ∧ s.dev.locked (s.dev.fget F.FLW_OP_SLOT_SLOT 0 / 8) = false) := by
  decide +kernel

theorem test_flow_scans_met :
    let s := fld F.FLW_SCAN_RATE_RATE 0 1 (fld F.FLW_CFG_SCAN_EN 0 1 flowHit)
    s.dev.fon F.FLW_CFG_SCAN_EN = true ∧ s.dev.fon F.FLW_SCAN_RATE_RATE = true ∧ s.dev.uncached s.dev.flow.scanD = true ∧
    s.dev.badIn (s.dev.slotAddr s.dev.flow.scanD) 64 = [] ∧ s.dev.locked (s.dev.flow.scanD / 8) = false ∧ s.dev.locked 0 = false ∧
    s.dev.integ.badWords = [] ∧
    rcState (s.mem.num .dram (s.dev.slotAddr s.dev.flow.scanD) 64) ≠ 1 ∧
    rcStatic (2 ^ 96) = false ∧ rcState (2 ^ 96) = 1 ∧ bit (2 ^ 96 + 2 ^ 98) 98 = true ∧
    at0 (on (fun d => { d with flow.cache := [(7, some ⟨0, 2 ^ 96 + 2 ^ 98⟩)] }) s).dev.flow.cache (0 * 8 + 7) = some ⟨0, 2 ^ 96 + 2 ^ 98⟩ := by
  decide +kernel

/-- An entry of the requester's key in the L2 table of slice 15, with its place. -/
def l2Hit : State :=
  let s := fld F.SLICE_SEL_FWD_SLICE 0 15 serve
  let j := (s.dev.l2Places 0 0).headD 0
  on (fun d => { d with fwd.l2 := [(15 * 65536 + j, some ⟨0, 0, false, true, 5, 0⟩)] }) s

theorem test_l2_operations_met :
    let s := fld F.SLICE_SEL_FWD_SLICE 0 15 serve
    s.reaches .host R.FWD_L2_OP_CTRL .slice 15 ∧ (fld F.FWD_L2_OP_STATUS_BUSY 0 1 s).dev.fon F.FWD_L2_OP_STATUS_BUSY 0 = true ∧
    s.dev.canCount F.FWD_OP_REFUSED_COUNT 0 ∧ s.dev.fon F.FWD_L2_OP_STATUS_BUSY 0 = false ∧ s.dev.l2Key 0 = (0, 0) ∧
    (l2Hit.dev.l2At 15 0 0).isSome = true ∧ l2Hit.dev.integ.badWords = [] ∧ s.dev.l2At 15 0 0 = none ∧
    ((s.dev.l2Places 0 0).find? (fun n => (s.dev.l2 15 n).isNone)).isSome = true := by decide +kernel

theorem test_l2_flush_scan_learn_met :
    let f : Flush := ⟨323, 0, none, none⟩
    let x : LearnPlace := ⟨1, 1, 5, 0, false, 0, 0, 0, 0, 0, none⟩
    let e : L2E := ⟨0, 0, true, true, 5, 0⟩
    let s := fld F.FWD_CFG_L2_SCAN_EN 0 1 (inSlice 15 (fun y => { y with flush := [f], learn := [x, { x with hold := some 6000 }] })
      (on (fun d => { d with fwd.l2 := [(15 * 65536, some e), (14 * 65536, some { e with isStatic := false })] }) serve))
    (s.dev.sl 15).flush = [f] ∧ reqIdx .host = 0 ∧ (s.dev.sl 15).learn[0]? = some x ∧
    (s.dev.sl 15).learn[1]? = some { x with hold := some 6000 } ∧ s.dev.fon F.FWD_CFG_L2_SCAN_EN = true ∧
    s.dev.l2 15 (s.dev.sl 15).scanL2 = some e ∧ s.dev.l2 14 (s.dev.sl 14).scanL2 = some { e with isStatic := false } ∧
    s.dev.fon F.FWD_LEARN_CFG_DEST = false := by decide +kernel

/-- An IPv4 prefix of VRF 0. -/
def prefix8 : Prefix := ⟨0, false, 0x0A000000, 8, 7⟩

theorem test_prefix_operations_met :
    let s := on (fun d => { d with fwd.lpm := [prefix8] }) serve
    s.reaches .host R.FWD_LPM_OP_CTRL .req 0 ∧ (fld F.FWD_LPM_OP_STATUS_BUSY 0 1 s).dev.fon F.FWD_LPM_OP_STATUS_BUSY 0 = true ∧
    s.dev.canCount F.FWD_OP_REFUSED_COUNT 0 ∧ s.dev.fon F.FWD_LPM_OP_STATUS_BUSY 0 = false ∧
    s.dev.fwd.lpmAsks = [] ∧ s.dev.fwd.leafAt = [] ∧ s.dev.fwd.topAt = [] ∧ s.dev.lpmReady 1 = true ∧
    (let z := on (fun d => { d with fwd.lpm := [{ prefix8 with addr := 0 }], fwd.leafDev := ⟨some 0, 0⟩ }) s
     let x := z.dev.lpmPrefix 0
     z.dev.lpmReady (z.dev.lpmReads x.vrf x.v6 x.addr).1 = false) ∧
    ((fld F.FWD_LPM_OP_CFG_LEN 0 32 s).dev.lpmPrefix 0).lenOk = true ∧
    ((fld F.FWD_LPM_OP_CFG_LEN 0 33 s).dev.lpmPrefix 0).lenOk = false ∧
    (longest s.dev.fwd.lpm 0 false 0x0AFFFFFF).isSome = true ∧ longest s.dev.fwd.lpm 0 false 0x0B000000 = none := by decide +kernel

theorem test_prefix_commits_met :
    let y : Prefix := { prefix8 with len := 32 }
    let s := on (fun d => { d with fwd.lpm := [prefix8], fwd.lpmOps := [(0, true, y)] }) serve
    s.dev.fwd.lpmOps = [(reqIdx .host, true, y)] ∧ s.dev.fwd.lpm.any (fun z => z.same prefix8) = true ∧
    s.dev.fwd.lpm.any (fun z => z.same y) = false ∧ s.dev.lpmFull prefix8 = false ∧ s.dev.fwd.leafAt = [] ∧ s.dev.lpmReady 1 = true ∧
    (prefix8.inLeaves = true ∧ [{ prefix8 with vrf := 1 }].any (fun z => z.inLeaves) = true) ∧ { prefix8 with len := 16 }.inLeaves = false ∧
    (fld F.FWD_SRAM_SPLIT_LPM_TOP_MIB 0 0 s).dev.lpmFull y = true ∧ s.dev.running = true := by decide +kernel

theorem test_labels_and_windows_met :
    let s := on (fun d => { d with fwd.labels := [1048575] }) (fld F.FWD_MPLS_OP_LABEL_LABEL 0 1048575 serve)
    s.reaches .host R.FWD_MPLS_OP_CTRL .req 0 ∧ s.dev.fget F.FWD_MPLS_OP_LABEL_LABEL 0 ∈ s.dev.fwd.labels ∧
    serve.dev.fget F.FWD_MPLS_OP_LABEL_LABEL 0 ∉ serve.dev.fwd.labels ∧
    (s.dev.labelAddr 1048575 + 64 ≤ scrubBase ∨ scrubBase + 0x200000 ≤ s.dev.labelAddr 1048575) ∧
    s.dev.noPass = true ∧ s.dev.wordBad 0x19 (1048575 / 64) = false ∧ s.dev.badIn (s.dev.labelAddr 1048575) 64 = [] ∧
    s.dev.reachable (0x3400000 + 4 * 0) = true ∧ tabEntry (0x3400000 + 4 * 0) = some (0x3400000, 32) ∧
    tabEntry (0x3400000 + 4 * 462911) = some (0x35C40F0, 16) ∧ 0x3400000 + 4 * 462911 + 4 = 0x35C40F0 + 16 ∧
    (on (fun d => forAll (List.range 3) (fun d i => { d with words := Sparse.set none d.words (regKey (0x35C40F0 + 4 * i) 0) (some 0) }) d)
      serve).dev.words.length = 3 ∧
    s.dev.readable (0x3600000 + 8 * 32767) = true ∧ s.dev.beginAll.heldOf 0 (0x3600000 + 8 * 32767) = none ∧
    s.dev.beginAll.wordBad 0x20 32767 = false := by decide +kernel

/-! Gates, policers, samples, teams, host queues -/

/-- The host selects port 511 in the traffic manager. -/
def gated : State := fld F.TMG_PORT_IDX_PORT 0 511 lane

theorem test_gates_arm_met :
    gated.reaches .host R.TMG_GATE_CTRL .tport 511 ∧ gated.dev.fon F.TMG_GATE_STATUS_PENDING 511 = false ∧
    (fld F.TMG_GATE_STATUS_PENDING 511 1 gated).dev.fon F.TMG_GATE_STATUS_PENDING 511 = true ∧
    gated.dev.canCount F.TMG_GATE_REFUSED_COUNT 511 ∧ (slice 15 stStructure gated).dev.applying 15 = true ∧
    gated.dev.applying 15 = false ∧
    ((pt 511 (fun x => { x with gate := some ⟨9, none⟩ }) gated).dev.pt 511).gate = some ⟨9, none⟩ ∧
    (let s := on (fun d => { d with ntu := { total := 7 * 2 ^ 40, run := true } }) gated
     s.dev.actAt (7 * ntuNs) = s.dev.cycle ∧ s.dev.actAt (8 * ntuNs) ≠ s.dev.cycle) := by decide +kernel

/-- A list of two entries, 600 ns and 400 ns, in a cycle of 1,000 ns. -/
theorem test_gates_run_met :
    let s := on (fun d => { d with ntu := { total := 600 * 2 ^ 40, run := true } }) <| reg (gateOff 511 0 0) 0 0x258FF <|
      reg (gateOff 511 0 1) 0 0x19001 <| fld F.TMG_GATE_OPER_LEN_LEN 511 2 <| fld F.TMG_GATE_OPER_CYCLE_NS 511 1000 <|
      fld F.TMG_GATE_STATUS_OPER_VALID 511 1 gated
    (s.dev.gateSpans 511 0).find? (fun y => decide (s.dev.gatePhase 511 s.dev.ntu.total < y.2.2 * ntuNs)) = some (1, 600, 1000) ∧
    s.dev.incr ≠ 0 ∧ s.dev.ntu.run = true ∧ s.dev.fon F.TMG_GATE_STATUS_OPER_VALID 511 = true ∧
    gated.dev.fon F.TMG_GATE_STATUS_OPER_VALID 511 = false ∧
    (fld F.TMG_GATE_ADMIN_LEN_LEN 511 1024 gated).dev.gateLen 511 1 = 1024 ∧
    ((pt 511 (fun x => { x with gate := some ⟨9, some 7⟩, fall := some 5 }) gated).dev.pt 511).gate = some ⟨9, some 7⟩ ∧
    gated.dev.link 511 = true ∧ serve.dev.link 511 = false ∧ gated.dev.gateBase 511 * ntuNs ≤ gated.dev.ntu.total ∧
    gated.dev.ntu.total < (fld F.TMG_GATE_ADMIN_BASE_NS_NS 511 1 gated).dev.gateBase 511 * ntuNs := by decide +kernel

/-- The device at the end of its sample period. -/
def sampled (s : State) : Dev := (s.dev.toCycle (s.dev.tm.sampleAt + s.dev.fget F.TMG_SAMPLE_PERIOD_US * 3000)).beginAll

theorem test_policers_and_samples_met :
    serve.reaches .host R.TMG_POL_CTRL .req 0 ∧ (fld F.TMG_CFG_SAMPLE_EN 0 1 serve).dev.fon F.TMG_CFG_SAMPLE_EN = true ∧
    serve.dev.fon F.TMG_CFG_SAMPLE_EN = false ∧ serve.dev.wordBad 0x1A 0 = false ∧
    (on (fun d => d.markWord 0x1A 1048575) serve).dev.wordBad 0x1A 1048575 = true ∧
    (sampled (fld F.TMG_Q_CFG_SAMPLE 65535 1 serve)).regs.filter (fun x => x.1 / 2 ^ 20 == R.TMG_Q_CFG && bit x.2.toNat 3) =
      [(regKey R.TMG_Q_CFG 65535, 8)] ∧
    (sampled serve).tm.sampAcct.level = none ∧ ((sampled serve).stream 7).length < 1048576 := by decide +kernel

/-- Team 31 of one member, port 511, both directions; its frames are delivered by slice 15. -/
def team : State :=
  fld F.TEM_TEAM_CFG_ENABLE 31 1 <| fld F.TEM_TEAM_CFG_COUNT 31 1 <| fld F.TEM_TEAM_CFG_TEAM_PORT 31 0 <|
    fld F.TEM_MBR_CFG_PORT 496 511 <| fld F.TEM_MBR_STATUS_TX_STATE 496 1 <| fld F.TEAM_SEL_TEAM 0 31 lane

/-- A frame of member 0 of team 31: version, alive count, domain, sequence number, CRC (Table 11-1). -/
def shim (ver tm seq : Nat) (good : Bool) : List Byte :=
  let s := [BitVec.ofNat 8 (16 * ver), BitVec.ofNat 8 tm, 0, 9] ++ toBe 2 4095 ++ toBe 4 seq ++ [0, 0]
  List.replicate 12 0 ++ toBe 2 (team.dev.fget F.TEM_ETYPE_ETYPE) ++ s ++ toBe 2 (if good then crc16 s else crc16 s + 1) ++
    List.replicate 50 0

def arrives (b : List Byte) : State := inSlice 15 (fun x => { x with rx := [{ data := b, port := 511, slice := 15 }] }) team

theorem test_team_frames_met :
    let b := shim 1 31 7 true
    let s := on (fun d => { d with team.dom := [(domKey 31 4095, { expect := 7, synced := true })] }) (arrives b)
    s.dev.memberOf 511 = some 496 ∧ ((s.dev.sl 15).rx.find? (fun x => x.port == 511)).isSome = true ∧
    f16 b 12 = s.dev.fget F.TEM_ETYPE_ETYPE ∧ crc16 ((b.drop 14).take 12) = f16 b 26 ∧ fb b 14 / 16 = 1 ∧ fb b 15 % 32 = 496 / 16 ∧
    fb b 16 % 16 = 496 % 16 ∧ f16 b 18 % 4096 = 4095 ∧ (s.dev.mbr 496).rxAlive = none ∧ bit (fb b 14) 0 = false ∧
    bit (fb b 14) 2 = false ∧ (∀ m ∈ s.dev.members 31, s.dev.fget F.TEM_MBR_STATUS_RX_STATE m ≠ 1) ∧
    (∀ y ∈ s.dev.team.dom, y.2.held = []) ∧ f32 b 20 = 7 ∧ s.dev.forwards (s.dev.deliv 31 4095) = true := by decide +kernel

theorem test_team_frames_refused_met :
    f16 (List.replicate 64 0) 12 ≠ team.dev.fget F.TEM_ETYPE_ETYPE ∧
    crc16 (((shim 1 31 7 false).drop 14).take 12) ≠ f16 (shim 1 31 7 false) 26 ∧ fb (shim 2 31 7 true) 14 / 16 ≠ 1 ∧
    fb (shim 1 30 7 true) 15 % 32 ≠ 31 ∧
    [F.TEM_MBR_RX_NOSHIM_COUNT, F.TEM_MBR_RX_CRC_COUNT, F.TEM_MBR_RX_BADVER_COUNT, F.TEM_MBR_RX_MISWIRE_COUNT].all
      (fun f => decide (team.dev.canCount f 496)) = true := by decide +kernel

theorem test_resequencer_met :
    let h : HFrame := { seq := 2 ^ 32 - 1, spill := true }
    let s := on (fun d => { d with team.dom := [(domKey 31 4095, { expect := 0, synced := true, sync := some 9, held := [h] })] }) team
    (s.dev.dom (domKey 31 4095)).held = [h] ∧ (s.dev.dom (domKey 31 4095)).sync = some 9 ∧
    (s.dev.dom (domKey 31 4095)).synced = true ∧ (s.dev.dom (domKey 31 4095)).holes = [] ∧ h.seq < 2 ^ 32 ∧
    h.seq ≠ (s.dev.dom (domKey 31 4095)).expect ∧ s.dev.fget F.TEM_LOST_COUNT 31 + ser32 h.seq 0 < 2 ^ 32 ∧ h.inPkt = true ∧
    { h with fetched := true }.inPkt = false ∧ ser32 h.seq 0 = 2 ^ 32 - 1 ∧
    s.dev.canCount F.TEM_SPILL_DROP_COUNT 31 ∧ (s.dev.dom (domKey 30 4095)).synced = false := by decide +kernel

theorem test_members_met :
    team.dev.mbrFree 496 = true ∧ team.dev.mbrTx 496 = 1 ∧ (fld F.TEM_MBR_STATUS_TX_STATE 496 2 team).dev.mbrTx 496 = 2 ∧
    serve.dev.mbrFree 0 = false ∧ (fld F.TEM_MBR_STATUS_RX_STATE 496 1 team).dev.fget F.TEM_MBR_STATUS_RX_STATE 496 = 1 ∧
    team.reaches .host R.TEM_MBR_CTRL .member 496 ∧ (fld F.TEM_MBR_STATUS_TX_STATE 496 0 team).dev.mbrTx 496 = 0 ∧
    team.dev.link (team.dev.mbrPort 496) = true ∧ team.reaches .host R.TEM_TEAM_CTRL .team 31 := by decide +kernel

/-- DMA queue 63 of a kind with one descriptor in BAR2: length 60, port 511, kind 1. -/
def dma (kind : Nat) : State :=
  fld F.HLD_SLICE_EN_EN 0 0xFFFF <| fld F.BPM_POOL_SHARE_UNITS 0 16 <| fld F.HDM_Q_CFG_ENABLE 63 1 <| fld F.HDM_Q_CFG_KIND 63 kind <|
    fld F.HDM_Q_TAIL_INDEX 63 1 <|
    put .bar2 (63 * 0x2000) (toLe 8 0x10000 ++ toLe 2 60 ++ toLe 2 64 ++ toLe 2 511 ++ [1]) serve

/-- Whether queue 63 gets a buffer for n bytes that its bursts and the account let it fill at once. -/
def buffered (d : Dev) (n : Nat) : Option Bool :=
  let g := ((d.bufServe (poolFor (roomFor 64 n))).bufGet (roomFor 64 n) (dmaOwner 63)).1
  if g = 0 then none
  else some (!d.bufWaits g && (match d.mapAddr g with | some (.dram, p) => (d.badIn p n).isEmpty | _ => true))

theorem test_dma_inject_met :
    ((dma 1).blk.dmaDesc 63 1).map (fun x => (dnum x 8 2 % 16384, dnum x 10 2 % 16384, dnum x 12 2 % 512, dnum x 14 1 % 4)) =
      some (60, 64, 511, 1) ∧ (dma 1).dev.engineOf 1 63 = none ∧ (dma 1).dev.sliceOn (sliceOf 511) = true ∧
    (at0 (dma 1).dev.hostInj 15).length < 16 ∧ buffered (dma 1).dev 60 = some true ∧
    16 ≤ (at0 (on (fun d => { d with hostInj := [(15, List.replicate 16 default)] }) (dma 1)).dev.hostInj 15).length ∧
    (dma 1).dev.isRoot = true ∧ (dma 1).dev.canCount F.HDM_Q_DONE_CNT_COUNT 63 := by decide +kernel

theorem test_dma_channels_met :
    let s := fld F.HDM_Q_CFG_CHAN 63 239 <| fld F.DRV_CHAN_CFG_ENABLE 239 1 <| fld F.HDM_Q_CPL_HI_ADDR 63 1 (dma 2)
    let msg := toLe 4 0x20000000 ++ toLe 2 64
    let t := fld F.HDM_Q_CFG_KIND 63 3 <| put .cluster (s.dev.ringPlace 239 0) msg <|
      on (fun d => { d with drv.chans := [(239, { vis := 1 })] }) s
    (s.blk.dmaDesc 63 2).isSome = true ∧ s.dev.chanOn 239 = true ∧ s.dev.chanRoom 239 = true ∧
    buffered s.dev 60 = some true ∧ (dma 2).dev.chanOn 239 = false ∧ (t.blk.dmaDesc 63 3).isSome = true ∧
    (t.dev.chan 239).vis ≠ 0 ∧ dnum (t.mem.read .cluster (t.dev.ringPlace 239 0) 64) 4 2 % 16384 = 64 ∧
    t.dev.mapAddr 0x20000000 = some (.sram, 0) ∧ t.dev.bufWaits 0x20000000 = false ∧ t.dev.wordBad 0x1E 0 = false ∧
    t.dev.wordBad 0x1D (t.dev.ringPlace 239 0 / 8) = false ∧ t.dev.wordBad 0x1E 7 = false ∧
    0x10000 + 64 ≤ 0x100000000 := by decide +kernel

theorem test_rings_and_events_met :
    let e : Evt := ⟨3, 0, 0, 0, 0, 0, 0, 0, []⟩
    let s := host (fun h => { h with streams := [(7, [[1, 2]])], evtQ := [e] }) <| fld F.HDM_RING_CFG_ENABLE 7 1 <|
      fld F.HDM_RING_CFG_SIZE 7 8 <| fld F.HDM_RING_CFG_ENABLE 3 1 <| fld F.HDM_RING_CFG_SIZE 3 8 serve
    s.dev.beginAll.stream 7 = [[1, 2]] ∧ s.dev.beginAll.ringFull 7 = false ∧ s.dev.beginAll.badIn (s.dev.beginAll.ringPlaceOf 7 2) 2 = [] ∧
    s.dev.beginAll.isRoot = true ∧ s.dev.ringFull 7 = false ∧ s.dev.ringFull 6 = true ∧ s.dev.ringFull 3 = false ∧
    s.dev.host.evtQ.find? (fun y => y.cls == 3) = some e ∧ s.dev.ringFull 2 = true ∧ s.reaches .host R.ERR_SW_EVENT .req 0 ∧
    s.dev.host.evtQ.length < 256 ∧ (at0 s.dev.host.limiter 3).level = none ∧ s.dev.fget F.HDM_EVT_RATE_BURST 3 ≠ 0 := by decide +kernel

/-! Network time, check engines, integrity -/

/-- The device past BOOT, its NTU open (R304). -/
def timed : State := inState 2

theorem test_forced_steps_met :
    timed.reaches .host R.NTU_CTRL .dev 0 ∧ (fld F.NTU_STATUS_PENDING 0 1 timed).dev.fget F.NTU_STATUS_PENDING = 1 ∧
    timed.dev.adjTaken = false ∧ 0 ≤ (timed.dev.ntu.total : Int) + timed.dev.ntuAdj * 2 ^ 24 ∧
    timed.dev.fget F.NTU_STEP_CNT_COUNT + 1 < 2 ^ F.NTU_STEP_CNT_COUNT.w ∧ timed.dev.fget F.NTU_STATUS_PENDING = 0 ∧
    timed.dev.fget F.NTU_ADJ_IGNORED_COUNT + 1 < 2 ^ F.NTU_ADJ_IGNORED_COUNT.w := by decide

theorem test_read_of_time_met : timed.reads .host R.NTU_NOW_NS .dev 0 := by decide

/-- R289, R290: a correction of 1 ns is 0x10000, and -1 ns subtracts. -/
theorem test_correction_of_minus_one :
    (after (.ntuCorrection .host 0xFFFF0000) (after (.registerWrite .host R.NTU_ADJ_HI 0xFFFFFFFF)
      (on (fun d => { d with ntu.total := 5 * 2 ^ 40 }) timed))).dev.ntu.total = 4 * 2 ^ 40 := by decide

theorem test_corrections_met :
    let s := after (.registerWrite .host R.NTU_ADJ_HI 0xFFFFFFFF) (fld F.NTU_JUMP_LIMIT_NS 0 1 timed)
    let taken := on (fun d => { d with ntu.adjAt := some 0 }) s
    s.dev.reachable R.NTU_ADJ_LO = true ∧ s.dev.noPass = true ∧ s.dev.beginAll.stagedOf 0 R.NTU_ADJ_HI = some 0xFFFFFFFF ∧
    (signed64 (0xFFFF0000 + 0xFFFFFFFF * 2 ^ 32)).natAbs ≤ s.dev.beginAll.fget F.NTU_JUMP_LIMIT_NS * 65536 ∧
    s.dev.beginAll.fget F.NTU_JUMP_LIMIT_NS * 65536 < (signed64 (0xFFFEFFFF + 0xFFFFFFFF * 2 ^ 32)).natAbs ∧
    s.dev.beginAll.adjTaken = false ∧ taken.dev.beginAll.adjTaken = true ∧ taken.dev.adjTaken = true ∧
    taken.dev.beginAll.canCount F.NTU_ADJ_IGNORED_COUNT 0 := by decide

theorem test_trigger_trains_met :
    (fld F.NTU_TRIG_IDX_OUTPUT 0 15 timed).reaches .host R.NTU_TRIG_CTRL .trig 15 ∧
    timed.dev.ntu.total < instant ((fld F.NTU_TRIG_START_NS_NS 15 1 timed).dev.fget F.NTU_TRIG_START_SEC_LO_SEC 15)
      ((fld F.NTU_TRIG_START_NS_NS 15 1 timed).dev.fget F.NTU_TRIG_START_NS_NS 15) ∧
    instant (timed.dev.fget F.NTU_TRIG_START_SEC_LO_SEC 15) (timed.dev.fget F.NTU_TRIG_START_NS_NS 15) ≤ timed.dev.ntu.total ∧
    (fld F.NTU_TRIG_STATUS_ARMED 15 1 timed).dev.fget F.NTU_TRIG_STATUS_ARMED 15 = 1 ∧ (timed.dev.train 15).level = false ∧
    ((on (fun d => { d with ntu.trains := [(15, { level := true, made := 1 })] }) timed).dev.train 15).level = true ∧
    (∀ e ∈ timed.dev.cars, ∀ c, e.2.pulse ≠ some (15, c)) ∧
    timed.dev.fget F.NTU_TRIG_PERIOD_NS 15 * ntuNs = 0 ∧ (fld F.NTU_TRIG_PERIOD_NS 15 1 timed).dev.fget F.NTU_TRIG_PERIOD_NS 15 * ntuNs ≠ 0 ∧
    (fld F.NTU_TRIG_COUNT_COUNT 15 1 timed).dev.fget F.NTU_TRIG_COUNT_COUNT 15 ≤ 1 := by
  refine ⟨by decide, by decide, by decide, by decide, by decide, by decide, ?_, by decide, by decide, by decide⟩
  intro e he; cases he

/-- A trigger start that a step passes begins in the cycle after it, as the worked example of ch 13 has it. -/
theorem test_trigger_start_passed :
    let armed := fld F.NTU_TRIG_STATUS_ARMED 7 1 (fld F.NTU_TRIG_WIDTH_NS 7 100 (on (fun d => { d with ntu := { d.ntu with
      total := 700008000 * 2 ^ 40, run := true, trains := [(7, { next := 700010000 * 2 ^ 40 })] } }) timed))
    let stepped := after (.ntuForceStep .host) (fld F.NTU_STATUS_PENDING 0 1 (fld F.NTU_ADJ_LO_ADJ 0 (6000 * 65536) armed))
    let started := after (.trigPulseStart 7) stepped
    started.dev.cycle = 1 ∧ started.dev.fget F.NTU_TRIG_STATUS_SKIPPED 7 = 1 ∧ started.dev.fget F.NTU_TRIG_STATUS_LATE 7 = 0 ∧
    started.dev.trigOn 7 = true ∧ (started.dev.train 7).pulseTo = started.dev.ntu.total + 100 * 2 ^ 40 := by decide

/-- Input 8 with edges of both kinds selected and some captures. -/
def capturing (n cycle : Nat) : State :=
  fld F.NTU_CAP_CFG_EDGE 8 3 (on (fun d => { d with cycle := cycle, ntu.caps := [(8, { fifo := List.replicate n ⟨5, true⟩, last := some 0 })] }) timed)

theorem test_captures_met :
    bit ((capturing 0 0).dev.fget F.NTU_CAP_CFG_EDGE 8) 1 = true ∧ bit (timed.dev.fget F.NTU_CAP_CFG_EDGE 8) 0 = false ∧
    (at0 (capturing 0 23).dev.ntu.caps 8).last = some 0 ∧ (capturing 0 23).dev.cycle < 0 + 24 ∧ (at0 timed.dev.ntu.caps 8).last = none ∧
    (capturing 0 23).dev.canCount F.NTU_CAP_OVERRUN_COUNT 8 ∧ ¬ (capturing 16 24).dev.cycle < 0 + 24 ∧
    16 ≤ (at0 (capturing 16 24).dev.ntu.caps 8).fifo.length ∧ (capturing 16 24).dev.canCount F.NTU_CAP_LOST_COUNT 8 ∧
    (at0 (capturing 15 24).dev.ntu.caps 8).fifo.length < 16 ∧ (capturing 15 24).dev.fon F.NTU_CAP_CFG_EVT_EN 8 = false ∧
    (fld F.NTU_CAP_CFG_EVT_EN 8 1 (capturing 15 24)).dev.fon F.NTU_CAP_CFG_EVT_EN 8 = true ∧ timed.dev.fon F.NTU_TS_CFG_DEST = false ∧
    timed.dev.running = true := by decide

theorem test_capture_read_met :
    (fld F.NTU_CAP_IDX_INPUT 0 8 (capturing 1 0)).reads .host R.NTU_CAP_NS .cap 8 ∧
    (at0 (capturing 1 0).dev.ntu.caps 8).fifo = ⟨5, true⟩ :: [] ∧ (at0 (capturing 0 0).dev.ntu.caps 8).fifo = [] := by decide

theorem test_pps_met :
    (fld F.NTU_PPS_CFG_OUT_EN 0 1 timed).dev.fon F.NTU_PPS_CFG_OUT_EN = true ∧ timed.dev.fon F.NTU_PPS_CFG_OUT_EN = false ∧
    timed.dev.ntu.ppsLevel = false ∧ (on (fun d => { d with ntu.ppsLevel := true }) timed).dev.ntu.ppsLevel = true := by decide

/-- R303: a backward step does not repeat a pulse already emitted: the next one is that of second 3. -/
theorem test_pps_not_repeated :
    let s := on (fun d => { d with ntu := { d.ntu with total := 2 * 10 ^ 9 * 2 ^ 40 - 5, ppsSecs := [(1, 2)] } }) timed
    s.dev.ppsNext = 3 := by decide

/-- "123456789", for the check values of Table 14-1. -/
def digits : List Byte := [0x31, 0x32, 0x33, 0x34, 0x35, 0x36, 0x37, 0x38, 0x39]

theorem test_crc_check_values :
    algCrc 0 digits = 0xE3069283 ∧ algCrc 1 digits = 0x29B1 ∧ algCrc 2 digits = 0x6C40DF5F0B497347 ∧ crc32 digits = 0xCBF43926 := by
  decide +kernel

theorem test_check_engines_met :
    (fld F.CKU_ENG_IDX_ENGINE 0 3 run).reaches .host R.CKU_ENG_CFG .eng 3 ∧ run.dev.fon F.CKU_ENG_CFG_ENABLE 3 = false ∧
    run.dev.engineOf (bits ((0 : Word) ||| 1#32).toNat 6 1) (bits ((0 : Word) ||| 1#32).toNat 8 8) = none ∧
    (fld F.CKU_ENG_CFG_ENABLE 3 1 run).dev.fon F.CKU_ENG_CFG_ENABLE 3 = true ∧
    run.dev.fget F.CKU_REFUSED_COUNT + 1 < 2 ^ F.CKU_REFUSED_COUNT.w ∧
    (at0 (on (fun d => { d with cku := [(3, { pos := 8 })] }) run).dev.cku 3).pos ≠ 0 := by decide

theorem test_failing_memory_met :
    run.dev.canCount F.SDC_FIXED_CNT_COUNT 0 ∧ run.dev.canCount F.SDC_FAIL_CNT_COUNT 0 ∧ 0xFFFFFFFC0 < 2 ^ 36 ∧
    run.dev.dramClass 0x30000000 ≠ 0x03 ∧ (fld F.SDC_CFG_SCRUB_EN 0 1 run).dev.fon F.SDC_CFG_SCRUB_EN = true ∧
    (fld F.ERR_SCRUB_CTRL_EN 0 0 run).dev.fon F.ERR_SCRUB_CTRL_EN = false ∧ (fld F.SDC_CFG_SCRUB_EN 0 0 run).dev.fon F.SDC_CFG_SCRUB_EN = false ∧
    (fld F.SDC_SCRUB_POS_BURST 0 (2 ^ 30 - 2) run).dev.fget F.SDC_SCRUB_POS_BURST + 1 < 2 ^ 30 ∧
    (fld F.SDC_SCRUB_POS_BURST 0 (2 ^ 30 - 1) run).dev.fget F.SDC_SCRUB_POS_BURST + 1 = 2 ^ 30 ∧ run.dev.canCount F.SDC_SCRUB_PASSES_COUNT 0 ∧
    run.dev.burstBad (run.dev.fget F.SDC_SCRUB_POS_BURST * 64) = false ∧
    (on (fun d => { d with integ.crcDiff := [(0, 1)] }) run).dev.burstBad 0 = true ∧ run.dev.dramClass 0 ≠ 0x03 := by decide

theorem test_failing_words_met :
    let l : CacheLine := ⟨0, 2 ^ 96⟩
    run.dev.wordBad 0x15 0 = false ∧ (fld F.ERR_SCRUB_CTRL_EN 0 1 run).dev.fon F.ERR_SCRUB_CTRL_EN = true ∧
    (fld F.FLW_CFG_SCAN_EN 0 1 run).dev.fon F.FLW_CFG_SCAN_EN = true ∧ run.dev.fget F.ERR_PAR_CNT_COUNT + 1 < 2 ^ F.ERR_PAR_CNT_COUNT.w ∧
    at0 (on (fun d => { d with flow.cache := [(131071 * 8 + 7, some l)] }) run).dev.flow.cache ((131071 * 8 + 7) * 8 / 8) = some l ∧
    bit l.recd 124 = false ∧ serve.dev.life.wide = false ∧ serve.dev.sliceSt (255 % 16) ≠ stOff := by decide

theorem test_error_records_met :
    let f : MemFail := { kind := 0, cls := 0x1D, inst := 0, addr := 0, sec := 0, ns := 0, detail := [] }
    let e : ErrUnit := { pend := [f], queue := List.replicate 7 [] }
    let s := on (fun d => { d with integ.units := [(32, e)] }) run
    (s.dev.eunit 32).pend = [f] ∧ (s.dev.eunit 32).queue.length < 8 ∧ classOutcome 0x1D ≠ 3 ∧
    classOutcome 0x1D ≠ 10 ∧ classOutcome 0x1B = 10 ∧ { f with cls := 0x1B, taken := true }.taken = true ∧ classOutcome 0x15 = 3 ∧
    8 ≤ (List.replicate 8 ([] : List Byte)).length ∧ s.dev.canCount F.ERR_Q_LOST_COUNT 32 ∧ s.dev.canCount F.ERR_Q_MERGED_COUNT 32 ∧
    s.dev.canCount F.SDC_SCRUB_LIST_FILL_COUNT 0 ∧ s.dev.integ.crcDiff = [] ∧ s.mem.scrubFind 0x15 7 = none ∧
    s.mem.scrubUsed.length < 65536 ∧
    (put .dram (scrubBase + 32 * 65535) (errRecord { f with kind := 2, cls := 0x15, addr := 7 } 4 0 true) s).mem.scrubFind 0x15 7 = some 65535 ∧
    s.dev.burstBad (scrubBase + 32 * 65535) = false ∧
    (fld F.ERR_UNIT_IDX_UNIT 0 32 run).reaches .host R.ERR_Q_CTRL .unit 32 := by decide

/-- The last burst of the DRAM window. -/
theorem test_dram_window_met :
    let off := 0x3C00000 + 64 * 65535
    run.dev.reachable (off + 60) = true ∧ run.dev.noPass = true ∧ run.dev.misuse 0 (off + 60) (some 1) = none ∧
    (run.dev.dramWinAddr 0 off + 64 ≤ scrubBase ∨ scrubBase + 0x200000 ≤ run.dev.dramWinAddr 0 off) ∧
    (after (.registerWrite .host off 9) run).dev.words = [(dramWordKey 0 (run.dev.dramWinAddr 0 off), some 9)] ∧
    run.dev.burstBad (run.dev.dramWinAddr 0 off) = false ∧ run.dev.dramClass (run.dev.dramWinAddr 0 off) ≠ 0x03 ∧
    (on (fun d => { d with integ.crcDiff := [(d.dramWinAddr 0 off, 1)] }) run).dev.burstBad (run.dev.dramWinAddr 0 off) = true := by decide

/-! Drover threads, channels, STABLE, BPM, monitor -/

def thr (t : Nat) (f : Thread → Thread) : State → State := on (fun d => d.updThr t f)

/-- Thread 255 runs at the last word of cluster memory. -/
def going : State := thr 255 (fun x => { x with pc := 0xFFFFC }) (fld F.THREAD_STATUS_STATE 255 1 run)

/-- A thread's general register. -/
def gr (r : Nat) (v : Word) : State → State := on (fun d => d.setGr 255 r v)

theorem test_issues_met :
    going.dev.issues 255 ∧ going.dev.goesOn 255 ∧
    (thr 255 (fun x => { x with pc := 0x80000000 }) (on (fun d => { d with drv.icache := [(31, [(0x80000000, [])])] }) going)).dev.issues 255 := by
  decide +kernel

/-- Table 16-4 (R348): SRA of -7 by 33, so by 1, is -4; MULHU gives the upper word; CLZ of 0 is 32; SLTIU compares with the extended immediate. -/
theorem test_register_operations :
    (after (.sra 255 1 2 3) (gr 2 0xFFFFFFF9 (gr 3 33 going))).dev.gr 255 1 = 0xFFFFFFFC ∧
    (after (.mulhu 255 1 2 2) (gr 2 0xFFFFFFFF going)).dev.gr 255 1 = 0xFFFFFFFE ∧
    (after (.clz 255 1 0) going).dev.gr 255 1 = 32 ∧ (after (.add 255 0 2 2) (gr 2 1 going)).dev.gr 255 0 = 0 ∧
    (after (.sltiu 255 1 2 0xFFFF) (gr 2 0xFFFFFFFE going)).dev.gr 255 1 = 1 := by decide +kernel

theorem test_immediate_operations_met :
    going.dev.issues 255 ∧ (0xFFFFFFFF : Word).toNat < 2 ^ (32 - 0) ∧ 2 ^ (31 - 0) ≤ (0xFFFFFFFF : Word).toNat ∧
    (0 : Word).toNat < 2 ^ (32 - 32) := by decide +kernel

/-- R347, Table 16-4: a branch back by one word; JALR reads its base before it writes the link. -/
theorem test_jumps :
    ((after (.beq 255 0 0 0xFFFF) going).dev.thr 255).pc = 0xFFFFC ∧
    ((after (.jalr 255 5 5 7) (gr 5 0x103 going)).dev.thr 255).pc = 0x108 ∧
    (after (.jalr 255 5 5 7) (gr 5 0x103 going)).dev.gr 255 5 = 0x100000 := by decide +kernel

theorem test_cluster_accesses_met :
    ((gr 1 0x100000 going).dev.gr 255 1 + (0xFFFC : BitVec 16).signExtend 32).toNat = 0xFFFFC ∧
    going.dev.wordBad 0x1D (clusterAddr 7 0xFFFFC / 8) = false ∧ 0xFFFFC % 4 = 0 ∧
    ((gr 1 0xFFFFC going).dev.gr 255 1).toNat < 0x100000 := by decide +kernel

/-- R15: bytes lie least significant first; LB extends the sign. -/
theorem test_store_then_load :
    (after (.lb 255 3 1 1) (thr 255 (fun x => { x with pc := 0 }) (after (.sw 255 2 1 0) (gr 1 0x100 (gr 2 0x1234F678 going))))).dev.gr 255 3 =
      0xFFFFFFF6 := by decide +kernel

/-- A thread with a handler, in supervisor or in user mode. -/
def handled (user : Nat) : State := fld F.THREAD_HANDLER_PC 255 0x400 (fld F.THREAD_CFG_USER 255 user going)

theorem test_faults_met :
    (handled 0).dev.issues 255 ∧ (handled 0).dev.handles 255 ∧ (handled 1).dev.issues 255 ∧ (handled 1).dev.handles 255 ∧
    (handled 1).dev.userMode 255 = true ∧ (handled 0).dev.userMode 255 = false ∧
    ((gr 1 0xFFFFF (handled 0)).dev.gr 255 1 + (2 : BitVec 16).signExtend 32).toNat % 4 ≠ 0 ∧
    ((gr 1 0x100000 (handled 0)).dev.gr 255 1).toNat % 4 = 0 ∧ inRegWin 0x10000000 = true ∧
    ((handled 0).dev.thr 255).task ≠ some 0 ∧ (handled 0).dev.fon F.DBG_CTRL_BRK_EN 255 = false ∧ (handled 0).dev.chanOn 239 = false ∧
    ¬ going.dev.handles 255 := by decide +kernel

theorem test_control_registers_met :
    (handled 0).dev.userMode 255 = false ∧ ((handled 0).dev.thr 255).posted = [] ∧
    ((thr 255 (fun x => { x with posted := [⟨0x20000000, [1], 0⟩] }) (handled 0)).dev.thr 255).posted ≠ [] ∧
    (fld F.THREAD_STATUS_IN_TRAP 255 1 (handled 0)).dev.fget F.THREAD_STATUS_IN_TRAP 255 = 1 ∧
    (fld F.DBG_CTRL_BRK_EN 255 1 (handled 0)).dev.fon F.DBG_CTRL_BRK_EN 255 = true ∧
    (fld F.THREAD_CFG_WAIT_MODE 255 1 (handled 0)).dev.fon F.THREAD_CFG_WAIT_MODE 255 = true := by decide +kernel

/-- Channel 239 on, of cluster 7, named by register 1; it holds one message. -/
def chan239 (vis : Nat) : State :=
  on (fun d => { d with drv.chans := [(239, { vis := vis })] }) <| fld F.DRV_CHAN_CFG_ENABLE 239 1 <| fld F.DRV_CHAN_CFG_HOME 239 7 <|
    gr 1 239 going

theorem test_channel_instructions_met :
    ((chan239 1).dev.gr 255 1).toNat % 256 = 239 ∧ (chan239 1).dev.fon F.DRV_CHAN_CFG_ENABLE 239 = true ∧
    (chan239 1).dev.chanMine 255 239 = true ∧ 1 + 0 < (fld F.DRV_CHAN_CFG_DEPTH 239 4 (chan239 1)).dev.chanDepth 239 ∧
    (chan239 1).dev.chanDepth 239 ≤ ((chan239 4096).dev.chan 239).vis + ((chan239 4096).dev.chan 239).com.length ∧
    0 < ((chan239 1).dev.chan 239).vis ∧ ((gr 2 0xFFFC0 (chan239 1)).dev.gr 255 2).toNat % 64 = 0 ∧
    ((gr 2 0xFFFC0 (chan239 1)).dev.gr 255 2).toNat < 0x100000 ∧ ((chan239 1).dev.thr 255).posted = [] ∧
    ((0xFFFC0 : Word) + (0 : BitVec 16).signExtend 32).toNat % 64 = 0 := by decide +kernel

theorem test_channel_events_met :
    let s := on (fun d => { d with drv.chans := [(239, { com := [[1]] })] }) (chan239 0)
    let e : InjEntry := ⟨List.replicate 8 0 ++ [0x13], true, false, none, false⟩
    let t := on (fun d => { d with drv.injQ := [(15, [e])] }) run
    (s.dev.chan 239).com = [[1]] ∧ s.dev.engineOf 0 239 = none ∧
    (fld F.DRV_CHAN_IDX_CHANNEL 0 239 run).reaches .host R.DRV_CHAN_FLUSH .chan 239 ∧ at0 t.dev.drv.injQ 15 = [e] ∧
    t.dev.stb.unordered = [] ∧ dnum e.desc 8 1 = 0x13 ∧ t.dev.fget (F.DRV_INJ_DROP_COUNT.nth 15) 0 + 1 < 2 ^ 32 ∧
    Sparse.get none (on (fun d => { d with drv.stallSince := [(7, some 3)] }) run).dev.drv.stallSince 7 = some 3 ∧
    (fld F.DRV_CL_STALL_LIMIT_CYCLES 7 1 run).dev.fget F.DRV_CL_STALL_LIMIT_CYCLES 7 ≠ 0 := by decide +kernel

/-- The descriptor of an 8,192-byte packet of kind EGRESS at the start of buffer SRAM, for port 511, and of a 60-byte one in the FW window. -/
theorem test_injection_descriptors_met :
    let e : InjEntry := ⟨toLe 4 0x20000000 ++ toLe 2 8192 ++ toLe 2 511 ++ [2], true, false, none, false⟩
    let f : InjEntry := ⟨toLe 4 0x80000000 ++ toLe 2 60 ++ toLe 2 0 ++ [0], true, true, none, false⟩
    let s := on (fun d => { d with drv.injQ := [(15, [e])] }) run
    let w := fld F.SDC_CARVE_FW 0 1 run
    at0 s.dev.drv.injQ 15 = [e] ∧ dnum e.desc 8 1 % 4 < 3 ∧ 60 ≤ dnum e.desc 4 2 % 16384 ∧ dnum e.desc 4 2 % 16384 ≤ 8192 ∧
    sliceOf (dnum e.desc 6 2 % 512) = 15 ∧ s.dev.mapAddr (dnum e.desc 0 4) = some (.sram, 0) ∧ s.dev.integ.badWords = [] ∧
    60 ≤ dnum f.desc 4 2 % 16384 ∧ f.task = true ∧ w.dev.mapAddr (dnum f.desc 0 4) = some (.dram, fwBase + fwWindow) ∧
    w.dev.bufReady = true ∧ w.dev.badIn (fwBase + fwWindow) 60 = [] ∧ w.dev.stb.unordered = [] := by decide +kernel

/-- Task 4095 in a state, in group 3, named by register 1 of thread 255. -/
def tasked (st : TaskState) : State :=
  on (fun d => { d with stb.tasks := [(4095, { st := st, clusters := 0x80, ordered := true, group := 3, thread := 255 })] }) (gr 1 4095 going)

/-- One unit of SRAM for pool 0: 1,024 buffers of 64 bytes. -/
def pool : State := fld F.BPM_POOL_SHARE_UNITS 0 1 going

theorem test_task_instructions_met :
    let s := thr 255 (fun x => { x with task := some 4095 }) (tasked .handed)
    s.dev.issues 255 ∧ s.dev.userMode 255 = false ∧ (s.dev.thr 255).task = some (s.dev.gr 255 1).toNat ∧ (s.dev.thr 255).posted = [] ∧
    (s.dev.task (4095 % 4096)).ordered = true ∧ (going.dev.thr 255).task = none ∧
    (thr 255 (fun x => { x with hold := .task 5 0 }) (fld F.THREAD_STATUS_STATE 255 3 (tasked .ready))).dev.bestThread 7 = some (255, 5) ∧
    ((tasked .ready).dev.bestTask 7).isSome = true := by decide +kernel

theorem test_hand_off_met :
    let d := (thr 255 (fun x => { x with hold := .task 5 0 }) (fld F.THREAD_STATUS_STATE 255 3 (tasked .ready))).dev.ticked
    (d.bestTask 7).map (fun x => x.1) = some 4095 ∧ d.bestThread 7 = some (255, 5) ∧ d.bufReady = true ∧ d.badIn (d.taskAddr 4095) 64 = [] ∧
    going.dev.userMode 255 = false := by decide +kernel

theorem test_buffer_instructions_met :
    poolFor 64 = 0 ∧ pool.dev.fon F.BPM_POOL_CFG_SPILL_UP 0 = false ∧ pool.dev.lowestFree 0 = some 0 ∧ (fld F.BPM_POOL_SHARE_UNITS 0 0 going).dev.lowestFree 0 = none ∧
    pool.dev.bufAt 0x2000FFC0 = some (0, 1023) ∧ (pool.dev.buf 0 1023).quar = false ∧ (pool.dev.buf 0 1023).owner ≠ 255 ∧
    ((on (fun d => { d with bufs := [(bufKey 0 1023, ⟨255, true, false, false⟩)] }) pool).dev.buf 0 1023).owner = 255 ∧
    ((on (fun d => { d with bufs := [(bufKey 0 1023, ⟨255, true, false, false⟩)] }) pool).dev.buf 0 1023).held = true := by decide +kernel

theorem test_waiting_accesses_met :
    let s := thr 255 (fun x => { x with hold := .wait 0xFFFFC 5, posted := [⟨0x207FFFFF, [1], 0⟩] }) (fld F.THREAD_STATUS_STATE 255 2 run)
    ((thr 255 (fun x => { x with hold := .load 3 0x20000000 4 true }) run).dev.thr 255).hold = .load 3 0x20000000 4 true ∧
    run.dev.mapAddr 0x20000000 = some (.sram, 0) ∧ run.dev.mapAddr 0x207FFFFF = some (.sram, 0x7FFFFF) ∧ run.dev.badIn 0 4 = [] ∧
    run.dev.noPass = true ∧ (thr 255 (fun x => { x with hold := .regLoad 3 0 }) run).dev.noPass = true ∧ s.dev.noPass = true ∧
    run.dev.burstBad 0x7FFFFF = false ∧ (s.dev.thr 255).posted = [⟨0x207FFFFF, [1], 0⟩] ∧ (s.dev.thr 255).hold = .wait 0xFFFFC 5 ∧
    s.dev.tstate 255 = 2 ∧ s.dev.fon F.THREAD_CFG_WAKE_EN 255 = false ∧ s.dev.fon F.THREAD_CFG_WAIT_MODE 255 = false ∧
    s.dev.wordBad 0x1D (clusterAddr 7 0xFFFFC / 8) = false ∧
    BitVec.ofNat 32 ((put .cluster (clusterAddr 7 0xFFFFC) [5] s).mem.num .cluster (clusterAddr 7 0xFFFFC) 4) &&&
      (reg R.THREAD_WMASK 255 0xFF s).dev.rget R.THREAD_WMASK 255 = 5 ∧
    run.dev.misuse (reqIdx (.thread 255)) R.HLD_LIVE_WAIT none = none := by decide +kernel

theorem test_fill_met :
    (fld F.SDC_CARVE_FW 0 1 run).dev.mapAddr 0x80000000 = some (.dram, fwBase + fwWindow) ∧
    run.dev.badIn (fwBase + fwWindow) 64 = [] ∧ (run.dev.thr 255).stepping = false ∧
    (at0 run.dev.drv.icache 31).length < 512 ∧ run.dev.cacheLine 255 0x80000000 = none := by decide +kernel

/-- Thread 255 selected by the host and halted at its PC. -/
def halted : State :=
  fld F.DBG_PC_PC 255 0xFFFFC <| fld F.THREAD_STATUS_STATE 255 4 <| fld F.THREAD_SEL_DRV_THREAD 0 255 run

theorem test_debugger_met :
    halted.reaches .host R.THREAD_CTRL .thread 255 ∧ halted.reaches .host R.DBG_CTRL .thread 255 ∧
    (fld F.GLB_CLUSTER_HOLD_HOLD 0 0x7F run).dev.clusterHeld (255 / 32) = false ∧ run.dev.tstate 255 = 0 ∧ halted.dev.tstate 255 = 4 ∧
    (halted.dev.thr 255).hold = .none ∧ halted.dev.isHalted 255 = true ∧ run.dev.isHalted 255 = false ∧
    halted.dev.fget F.DBG_PC_PC 255 % 4 = 0 ∧ halted.dev.fget F.DBG_PC_PC 255 < 0x100000 ∧
    halted.dev.wordBad 0x1D (clusterAddr 7 0xFFFFC / 8) = false ∧
    BitVec.ofNat 32 (halted.mem.num .cluster (clusterAddr 7 0xFFFFC) 4) = (0 : Word) ∧ (halted.dev.thr 255).storeFail = none ∧
    run.dev.fget F.DRV_REFUSED_COUNT 0 + 1 < 2 ^ F.DRV_REFUSED_COUNT.w ∧ going.dev.tstate 255 = 1 ∧
    (fld F.DBG_BP_EN 255 1 (fld F.DBG_BP_ADDR 255 0x3FFFF going)).dev.atBreak 255 = true := by decide +kernel

theorem test_software_tasks_met :
    run.reaches .host R.STB_POST_CTRL .req 0 ∧ run.dev.taskCount (fun t => t.kind == 0) = 0 ∧
    0 < (fld F.STB_ROUTE_QUOTA_COUNT 0 1 run).dev.fget F.STB_ROUTE_QUOTA_COUNT 0 ∧
    (fld F.STB_ROUTE_QUOTA_COUNT 0 0 run).dev.fget F.STB_ROUTE_QUOTA_COUNT 0 ≤ 0 ∧
    (tasked .ready).dev.byHandle 4095 = some 4095 ∧ ((tasked .delayed).dev.task 4095).st = .delayed ∧
    (fld F.STB_POST_ARG_HANDLE 0 4095 run).dev.fget F.STB_POST_ARG_HANDLE 0 = 4095 ∧ run.dev.byHandle 4095 = none ∧
    ((tasked .handed).dev.task 4095).st = .handed ∧ ((tasked .ready).dev.task 4095).ordered = true := by decide +kernel

/-- A descriptor is free whatever the free values are. -/
theorem test_free_task_met : ∃ i, run.dev.freeTask.1 = some i ∧ i < 4096 := by
  have hl : (List.range 4096).filter (fun i => (run.dev.task i).st == .free) = List.range 4096 :=
    List.filter_eq_self.2 (fun i _ => rfl)
  refine ⟨(run.dev.fresh 32).1 % 4096, ?_, Nat.mod_lt _ (by decide)⟩
  have hc : run.dev.taskCount (fun _ => true) = 0 := rfl
  simp only [Dev.freeTask, hc, hl]
  exact List.getElem?_range (Nat.mod_lt _ (by decide))

theorem test_stable_events_met :
    let p : Post := ⟨5, 0, 0, [], false, 0, 0, 0, 0, 0, [], 0, none, none, false⟩
    let w : Waiter := ⟨0, .void, none, none, 0, false⟩
    let s := fld F.STB_STUCK_US_US 0 1 (on (fun d => { d with stb.posts := [p], stb.waiters := [(255, [w]), (254, [{ w with ticket := 1 }])] }) run)
    let low := on (fun d => { d with stb.acct := ⟨some 191, 0⟩ }) s
    s.dev.beginAll.ticked.stb.posts = [p] ∧ p.want = 0 ∧ s.dev.beginAll.ticked.bufReady = true ∧ low.dev.beginAll.ticked.bufReady = false ∧
    p.failCnt = none ∧ low.dev.running = true ∧ (life (fun l => { l with begun := true }) (fld F.STB_CFG_TICK_NS 0 1 run)).dev.tickCycles ≠ 0 ∧ 0 < (fld F.STB_ROUTE_QUOTA_COUNT 5 1 s).dev.fget F.STB_ROUTE_QUOTA_COUNT 5 ∧
    (fld F.STB_ROUTE_QUOTA_COUNT 5 0 s).dev.fget F.STB_ROUTE_QUOTA_COUNT 5 ≤ s.dev.taskCount (fun t => t.kind == 5) ∧
    s.dev.fget F.STB_KIND_DROP_COUNT 5 + 1 < 2 ^ 32 ∧
    (at0 s.dev.stb.waiters 255).find? (fun w => w.ticket == s.dev.fget F.STB_GROUP_REL_TICKET 255) = some w ∧
    (at0 s.dev.stb.waiters 254).any (fun x => x.ticket == s.dev.fget F.STB_GROUP_REL_TICKET 254) = false ∧
    at0 s.dev.stb.waiters 254 ≠ [] ∧ s.dev.fget F.STB_STUCK_US_US ≠ 0 ∧ s.dev.stb.stuckTold.contains 254 = false := by decide +kernel

theorem test_buffer_operations_met :
    pool.reaches .host R.BPM_OP_CTRL .req 0 ∧ poolFor ((fld F.BPM_OP_SIZE_BYTES 0 64 pool).dev.fget F.BPM_OP_SIZE_BYTES 0) = 0 ∧
    pool.dev.lowestFree 0 = some 0 ∧ pool.dev.wordBad 0x1F (bufKey 0 0) = false ∧ 0 < pool.dev.bufAddr 0 0 ∧ pool.dev.bufAddr 0 0 < 2 ^ 32 ∧ (fld F.BPM_POOL_SHARE_UNITS 0 0 run).dev.lowestFree 0 = none ∧
    pool.dev.bufAt 0x20000000 = some (0, 0) ∧ (pool.dev.buf 0 0).quar = false ∧ (pool.dev.buf 0 0).owner ≠ ownerOf .host ∧
    ((on (fun d => { d with bufs := [(bufKey 0 0, ⟨320, true, false, false⟩)] }) pool).dev.buf 0 0) = ⟨ownerOf .host, true, false, false⟩ := by
  decide +kernel

theorem test_performance_monitor_met :
    run.reaches .host R.PMU_CTRL .dev 0 ∧
    (at0 (on (fun d => { d with pmu.smp := [(7, { due := [[1]], fill := 1023 })] }) run).dev.pmu.smp 7).due = [[1]] ∧ 1023 < 1024 := by
  decide +kernel

end Sys2Proof.Tests
end

