-- ==== Sys2Proof/Proofs/Reset.lean ====
section
open Sys2Proof Sys2Proof.Machine
namespace Sys2Proof.Machine

/-- After reset no register is stored, so each reads as its map says. -/
theorem rget_reset (off i : Nat) : State.reset.dev.rget off i = resetWord off := rfl

/-- No command waits after reset. -/
theorem reset_queueOk : State.reset.queueOk := rfl

/-- Settles O1: `step` takes the front command off the queue and executes it. -/
theorem aStepRunsTheFrontCommand : Obligations.a_step_runs_the_front_command := by
  unfold Obligations.a_step_runs_the_front_command
  intro s c rest
  rfl

/-- Settles O3: the device starts with no stored register, so the reset words are those of the register maps. -/
theorem resetMeetsTheInvariants : Obligations.reset_meets_the_invariants := by
  unfold Obligations.reset_meets_the_invariants
  refine ⟨reset_memOk, reset_queueOk, rfl, rfl, rget_reset, ?_, ?_, ?_, ?_⟩ <;> decide

end Sys2Proof.Machine
end

