-- ==== Sys2Proof/Proofs/Canonical.lean ====
section
open Sys2Proof Sys2Proof.Machine
namespace Sys2Proof.Machine

/-! What every proof that a change keeps the memories canonical uses (R15, R26, R125): such a change is a chain of writes of bytes, and
of choices and repetitions of other such changes. -/

@[simp] theorem Mem.write_wf {m : Mem} (sp : Space) (a : Nat) (bs : List Byte) (h : m.wf = true) : (m.write sp a bs).wf = true :=
  Mem.wf_write sp a bs h

@[simp] theorem Mem.clear_wf {m : Mem} (sp : Space) (h : m.wf = true) : (m.clear sp).wf = true := Mem.wf_clear sp h

@[simp] theorem Mem.keep_wf {m : Mem} (sp : Space) (p : Nat → Bool) (h : m.wf = true) : (m.keep sp p).wf = true :=
  Mem.wf_keep sp p h

/-- A change of the block that keeps every memory in canonical form. -/
def KeepsMem (f : Block → Block) : Prop := ∀ b, b.mem.wf = true → (f b).mem.wf = true

/-- A change made for each element of a list keeps the memories canonical if each change does. -/
theorem foldl_wf {α : Type} {f : Block → α → Block} (hf : ∀ b a, b.mem.wf = true → (f b a).mem.wf = true) (l : List α)
    {b : Block} (h : b.mem.wf = true) : (l.foldl f b).mem.wf = true := by
  induction l generalizing b with
  | nil => exact h
  | cons a l ih => exact ih (hf b a h)

theorem forAll_wf {α : Type} {f : Block → α → Block} (hf : ∀ b a, b.mem.wf = true → (f b a).mem.wf = true) (l : List α)
    {b : Block} (h : b.mem.wf = true) : (forAll l f b).mem.wf = true := foldl_wf hf l h

theorem forAll_mem {α : Type} {f : Block → α → Block} (hf : ∀ b a, (f b a).mem = b.mem) (l : List α) (b : Block) :
    (forAll l f b).mem = b.mem := by
  unfold forAll
  induction l generalizing b with
  | nil => rfl
  | cons a l ih => exact (ih (f b a)).trans (hf b a)

/-- The block of an answer that is known. -/
theorem wf_of_eq {α : Type} {x : α × Block} {a : α} {b : Block} (e : x = (a, b)) (h : x.2.mem.wf = true) : b.mem.wf = true := by
  subst e; exact h

/-- A block chosen by a condition keeps canonical memories if both choices do. -/
theorem ite_wf {c : Prop} [Decidable c] {x y : Block} (hx : x.mem.wf = true) (hy : y.mem.wf = true) :
    (if c then x else y).mem.wf = true := by
  split
  · exact hx
  · exact hy

/-- A change of the device leaves canonical memories canonical. -/
theorem on_wf {b : Block} (f : Dev → Dev) (h : b.mem.wf = true) : (b.on f).mem.wf = true := h

/-- An answer with a block, chosen by a condition, keeps canonical memories if both choices do. -/
theorem pair_ite_wf {α : Type} {c : Prop} [Decidable c] {x y : α × Block} (hx : x.2.mem.wf = true) (hy : y.2.mem.wf = true) :
    (if c then x else y).2.mem.wf = true := by
  split
  · exact hx
  · exact hy

/-- A block with another device has the memories it had. -/
theorem withDev_wf {b : Block} (d : Dev) (h : b.mem.wf = true) : ({ b with dev := d } : Block).mem.wf = true := h

end Sys2Proof.Machine
end

