-- ==== Sys2Proof/Proofs/CanonicalStores.lean ====
section
open Sys2Proof Sys2Proof.Machine
namespace Sys2Proof.Machine

/-! What keeps the memories canonical: host memory, DRAM, buffers and scrub records.
A change that leaves them alone has an equation (`_mem`), any other keeps them canonical (`_wf`). -/

@[simp] theorem Block.hostWrite_wf {b : Block} (addr : Nat) (bs : List Byte) (h : b.mem.wf = true) :
    (Block.hostWrite b addr bs).mem.wf = true := by
  unfold Block.hostWrite
  split <;> simp [h]

@[simp] theorem Block.ringWrite_wf {b : Block} (r : Nat) (e : List Byte) (h : b.mem.wf = true) :
    (Block.ringWrite b r e).mem.wf = true := by
  unfold Block.ringWrite
  simp [h]

@[simp] theorem eventRingWrite_wf {b : Block} (cls : Nat) (h : b.mem.wf = true) : (eventRingWrite cls b).mem.wf = true := by
  unfold eventRingWrite
  (repeat' split) <;> simp [h]

@[simp] theorem ringEntryWrite_wf {b : Block} (r : Nat) (h : b.mem.wf = true) : (ringEntryWrite r b).mem.wf = true := by
  unfold ringEntryWrite
  (repeat' split) <;> simp [h]

@[simp] theorem Block.dramRead_mem (b : Block) (a n inst : Nat) : (Block.dramRead b a n inst).2.mem = b.mem := by
  unfold Block.dramRead
  dsimp only
  (repeat' split) <;> simp

@[simp] theorem Block.dramWhole_wf {b : Block} (a : Nat) (bs : List Byte) (h : b.mem.wf = true) :
    (Block.dramWhole b a bs).mem.wf = true := by
  unfold Block.dramWhole
  simp [h]

@[simp] theorem Block.dramMerge_wf {b : Block} (a : Nat) (bs : List Byte) (inst : Nat) (h : b.mem.wf = true) :
    (Block.dramMerge b a bs inst).2.mem.wf = true := by
  unfold Block.dramMerge
  split <;> simp [h]

@[simp] theorem Block.dramBytes_wf (n a : Nat) (bs : List Byte) (inst : Nat) {b : Block} (h : b.mem.wf = true) :
    (Block.dramBytes n a bs inst b).2.mem.wf = true := by
  induction n generalizing a bs b with
  | zero => exact h
  | succ n ih =>
    unfold Block.dramBytes
    split
    · exact h
    · refine ih _ _ ?_
      split <;> simp [h]

@[simp] theorem Block.sramWrite_wf {b : Block} (sp : Space) (cls a : Nat) (bs : List Byte) (h : b.mem.wf = true) :
    (Block.sramWrite b sp cls a bs).mem.wf = true := by
  unfold Block.sramWrite
  simp [h]

@[simp] theorem Block.bufRead_mem (b : Block) (a n inst : Nat) : (Block.bufRead b a n inst).2.mem = b.mem := by
  unfold Block.bufRead
  split <;> simp

@[simp] theorem Block.bufWrite_wf {b : Block} (a : Nat) (bs : List Byte) (inst : Nat) (h : b.mem.wf = true) :
    (b.bufWrite a bs inst).2.mem.wf = true := by
  unfold Block.bufWrite
  split
  · exact Block.dramBytes_wf _ _ _ _ h
  · exact Block.sramWrite_wf _ _ _ _ h
  · exact h

@[simp] theorem Block.scrubLost_wf {b : Block} (i : Nat) (h : b.mem.wf = true) : (b.scrubLost i).mem.wf = true :=
  forAll_wf (fun _ _ hb => Block.wf_store _ _ _ hb) _ h

@[simp] theorem Block.scrubLook_wf {b : Block} (cls addr : Nat) (h : b.mem.wf = true) :
    (b.scrubLook cls addr).2.mem.wf = true := by
  unfold Block.scrubLook
  (repeat' split) <;> simp [h]

@[simp] theorem Block.scrubFree_wf {b : Block} (cls addr : Nat) (h : b.mem.wf = true) : (b.scrubFree cls addr).mem.wf = true := by
  unfold Block.scrubFree
  dsimp only
  split <;> simp [h]

@[simp] theorem Block.scrubFrees_wf {b : Block} (cls w n : Nat) (h : b.mem.wf = true) : (b.scrubFrees cls w n).mem.wf = true :=
  forAll_wf (fun _ _ hb => Block.scrubFree_wf _ _ hb) _ h

@[simp] theorem Block.scrubAdd_wf {b : Block} (recd : List Byte) (h : b.mem.wf = true) :
    (Block.scrubAdd b recd).mem.wf = true := by
  unfold Block.scrubAdd
  dsimp only
  (repeat' split) <;> simp [h]

@[simp] theorem errBook_wf (u : Nat) {b : Block} (h : b.mem.wf = true) : (errBook u b).1.mem.wf = true := by
  unfold errBook
  dsimp only
  (repeat' split) <;> simp [h]

end Sys2Proof.Machine
end

