-- ==== Sys2Proof/Proofs/CanonicalTasks.lean ====
section
open Sys2Proof Sys2Proof.Machine
namespace Sys2Proof.Machine

/-! What keeps the memories canonical: tasks and their messages.
A change that leaves them alone has an equation (`_mem`), any other keeps them canonical (`_wf`). -/

@[simp] theorem Block.placeTask_wf {b : Block} (i : Nat) (t : Task) (delay : Nat) (desc : List Byte) (h : b.mem.wf = true) :
    (Block.placeTask b i t delay desc).mem.wf = true := by
  unfold Block.placeTask
  simp [h]

@[simp] theorem taskPost_wf {s : Block} (h : s.mem.wf = true) : (taskPost s).mem.wf = true := by
  unfold taskPost
  dsimp only
  (repeat' split) <;> simp_all

@[simp] theorem stbPost_wf {b : Block} (r : Req) (delay : Nat) (h : b.mem.wf = true) :
    (stbPost r delay b).mem.wf = true := by
  unfold stbPost
  dsimp only
  (repeat' split) <;> simp [h]

@[simp] theorem Block.handTask_wf {b : Block} (t i : Nat) (desc : List Byte) (h : b.mem.wf = true) :
    (Block.handTask b t i desc).mem.wf = true := by
  unfold Block.handTask
  simp [h]

/-- A completion's output goes to registers and queues alone. -/
theorem Block.deliver_mem {b c : Block} {w : Waiter} (h : b.deliver w = some c) : c.mem = b.mem := by
  unfold Block.deliver at h
  dsimp only at h
  repeat' split at h
  all_goals simp at h
  all_goals (subst h; simp)

@[simp] theorem orderedRelease_mem (g : Nat) (b : Block) : (orderedRelease g b).mem = b.mem := by
  unfold orderedRelease
  dsimp only
  split
  · rfl
  · split
    · rfl
    · next h => simpa using Block.deliver_mem h

@[simp] theorem Block.completeTask_mem (b : Block) (t i : Nat) (out : TaskOut) : (b.completeTask t i out).mem = b.mem := by
  unfold Block.completeTask
  dsimp only
  split
  · rfl
  · split
    · next h => simpa using Block.deliver_mem h
    · rfl

@[simp] theorem Block.retryUnordered_mem (b : Block) : b.retryUnordered.mem = b.mem := by
  unfold Block.retryUnordered
  refine forAll_mem (fun b w => ?_) _ b
  split
  · next h => simpa using Block.deliver_mem h
  · rfl

end Sys2Proof.Machine
end

