-- ==== Sys2Proof/Proofs/CanonicalClassifier.lean ====
section
open Sys2Proof Sys2Proof.Machine
namespace Sys2Proof.Machine

/-! What keeps the memories canonical: classifier banks.
A change that leaves them alone has an equation (`_mem`), any other keeps them canonical (`_wf`). -/

@[simp] theorem Block.classify_wf {b : Block} (p : Pkt) (bank : Nat) (h : b.mem.wf = true) :
    (Block.classify b p bank).2.mem.wf = true := by
  unfold Block.classify
  dsimp only
  (repeat' split) <;> simp [h]

@[simp] theorem Block.stageWrite_wf {b : Block} (s o : Nat) (bs : List Byte) (h : b.mem.wf = true) :
    (Block.stageWrite b s o bs).mem.wf = true := by
  unfold Block.stageWrite
  dsimp only
  (repeat' split) <;> simp [h]

@[simp] theorem clsSwap_mem (b : Block) (s : Nat) : (clsSwap s b).mem = b.mem := by
  unfold clsSwap
  split <;> simp

@[simp] theorem clsCounterClear_wf {b : Block} (s : Nat) (h : b.mem.wf = true) : (clsCounterClear s b).mem.wf = true := by
  unfold clsCounterClear
  simp [h]

@[simp] theorem clsGroupCommit_wf {b : Block} (s : Nat) (h : b.mem.wf = true) : (clsGroupCommit s b).mem.wf = true := by
  unfold clsGroupCommit
  split <;> simp [h]

@[simp] theorem Block.clsWindowRead_mem (b : Block) (s o : Nat) : (Block.clsWindowRead b s o).2.mem = b.mem := by
  unfold Block.clsWindowRead
  dsimp only
  (repeat' split) <;> simp

@[simp] theorem Block.clsCounterZero_wf {b : Block} (s i : Nat) (h : b.mem.wf = true) :
    (Block.clsCounterZero b s i).mem.wf = true := by
  unfold Block.clsCounterZero
  dsimp only
  split <;> simp [h]

@[simp] theorem clsCounterRead_wf {b : Block} (q s o : Nat) (h : b.mem.wf = true) :
    (clsCounterRead q s o b).2.mem.wf = true := by
  unfold clsCounterRead
  simp [h]

@[simp] theorem Block.bankInit_wf {b : Block} (s k : Nat) (h : b.mem.wf = true) : (Block.bankInit b s k).mem.wf = true := by
  unfold Block.bankInit
  simp [h]

@[simp] theorem Block.bankResized_wf {b : Block} (s : Nat) (h : b.mem.wf = true) : (b.bankResized s).mem.wf = true :=
  forAll_wf (fun _ _ hb => Block.bankInit_wf _ _ hb) _ h

end Sys2Proof.Machine
end

