-- ==== Sys2Proof/Proofs/CanonicalFlow.lean ====
section
open Sys2Proof Sys2Proof.Machine
namespace Sys2Proof.Machine

/-! What keeps the memories canonical: the flow table.
A change that leaves them alone has an equation (`_mem`), any other keeps them canonical (`_wf`). -/

@[simp] theorem Block.slotPut_wf {b : Block} (slot r : Nat) (h : b.mem.wf = true) :
    (Block.slotPut b slot r).mem.wf = true := by
  unfold Block.slotPut
  split <;> simp [h]

@[simp] theorem Block.hopPut_wf {b : Block} (k : FKey) (slot : Nat) (v : Bool) (h : b.mem.wf = true) :
    (Block.hopPut b k slot v).mem.wf = true := by
  unfold Block.hopPut
  simp [h]

@[simp] theorem Block.slotFails_mem (b : Block) (slot : Nat) : (Block.slotFails b slot).2.mem = b.mem := by
  unfold Block.slotFails
  split <;> simp

@[simp] theorem Block.slotsLost_wf (n : Nat) {b : Block} (slot : Nat) (h : b.mem.wf = true) :
    (Block.slotsLost n b slot).mem.wf = true := by
  induction n generalizing b slot with
  | zero => exact h
  | succ n ih =>
    unfold Block.slotsLost
    dsimp only
    split
    · refine Block.hopPut_wf _ _ _ ?_
      split
      · exact ih _ (by simp [h])
      · simp [h]
    · simp [h]

@[simp] theorem Block.slotLost_wf {b : Block} (slot : Nat) (h : b.mem.wf = true) :
    (Block.slotLost b slot).mem.wf = true := by
  unfold Block.slotLost
  simp [h]

@[simp] theorem Block.lineFails_wf {b : Block} (w : Nat) (h : b.mem.wf = true) : (Block.lineFails b w).mem.wf = true := by
  unfold Block.lineFails
  dsimp only
  (repeat' split) <;> simp [h]

@[simp] theorem Block.cacheRead_wf {b : Block} (c1 c2 : Nat) (h : b.mem.wf = true) : (b.cacheRead c1 c2).mem.wf = true :=
  forAll_wf (fun _ _ hb => Block.lineFails_wf _ hb) _ h

@[simp] theorem Block.slotGet_wf {b : Block} (slot : Nat) (h : b.mem.wf = true) :
    (Block.slotGet b slot).2.mem.wf = true := by
  unfold Block.slotGet
  dsimp only
  (repeat' split) <;> simp [h]

@[simp] theorem Block.hopSet_wf {b : Block} (k : FKey) (slot : Nat) (v : Bool) (h : b.mem.wf = true) :
    (Block.hopSet b k slot v).mem.wf = true := by
  unfold Block.hopSet
  simp [h]

@[simp] theorem Block.fill_wf {b : Block} (slot r : Nat) (who : Option Nat) (h : b.mem.wf = true) :
    (Block.fill b slot r who).mem.wf = true := by
  unfold Block.fill
  dsimp only
  (repeat' split) <;> simp [h]

@[simp] theorem Block.flowUpdate_mem (b : Block) (slot : Nat) (p : Pkt) : (Block.flowUpdate b slot p).2.mem = b.mem := by
  unfold Block.flowUpdate
  (repeat' split) <;> simp

@[simp] theorem Block.slotsGet_wf {b : Block} (l : List Nat) (h : b.mem.wf = true) : (b.slotsGet l).2.mem.wf = true := by
  unfold Block.slotsGet
  exact List.foldlRecOn (motive := fun x : List (Nat × Nat) × Block => x.2.mem.wf = true) l _ h fun a ha s _ => Block.slotGet_wf s ha

@[simp] theorem Block.clearOld_wf {b : Block} (slot r : Nat) (who : Option Nat) (h : b.mem.wf = true) :
    (Block.clearOld b slot r who).mem.wf = true := by
  unfold Block.clearOld
  simp [h]

@[simp] theorem Block.insertRound_wf {b : Block} (ps l : List Nat) (got : List (Nat × Nat)) (who : Option Nat) (h : b.mem.wf = true) :
    (Block.insertRound b ps l got who).2.mem.wf = true := by
  unfold Block.insertRound
  split <;> simp [h]

@[simp] theorem Block.flowInsert_wf {b : Block} (k : FKey) (key : List Byte) (recd : Nat) (seen : List (Nat × Nat)) (who : Option Nat)
    (h : b.mem.wf = true) : (b.flowInsert k key recd seen who).2.mem.wf = true := by
  unfold Block.flowInsert
  extract_lets rate ps unread r1 r2 got b₂ recOf cand v pick
  split
  · exact h
  have h₂ : b₂.mem.wf = true := by simp [b₂, r2, r1, h]
  have hpick : pick.2.mem.wf = true := by
    simp only [pick]
    (repeat' split) <;> simp [h₂]
  clear_value pick
  obtain ⟨_ | s, b₃⟩ := pick
  · exact hpick
  · dsimp -zeta only
    extract_lets old b₄ b₅ hop home w b₆ hop' b₇ b₈
    have h₄ : b₄.mem.wf = true := by
      simp only [b₄]
      split <;> exact hpick
    have h₅ : b₅.mem.wf = true := by
      simp only [b₅]
      split <;> simp [h₄]
    have h₆ : b₆.mem.wf = true := by
      simp only [b₆]
      split <;> simp [h₅]
    exact Block.fill_wf _ _ _ h₆

@[simp] theorem Block.flowMiss_wf {b : Block} (s : Nat) (k : FKey) (p : Pkt) (h : b.mem.wf = true) :
    (b.flowMiss s k p).2.mem.wf = true := by
  unfold Block.flowMiss
  dsimp only
  split
  · exact Block.fill_wf _ _ _ (Block.slotGet_wf _ h)
  · split
    · exact Block.fill_wf _ _ _ (Block.slotsGet_wf _ (Block.slotGet_wf _ h))
    · exact Block.flowInsert_wf _ _ _ _ _ (Block.slotsGet_wf _ (Block.slotGet_wf _ h))

@[simp] theorem Block.opFind_wf {b : Block} (k : FKey) (h : b.mem.wf = true) : (Block.opFind b k).2.2.mem.wf = true := by
  unfold Block.opFind
  dsimp only
  split <;> simp [h]

@[simp] theorem Block.opLookup_wf {b : Block} (o : FlowOp) (h : b.mem.wf = true) : (Block.opLookup b o).mem.wf = true := by
  unfold Block.opLookup
  dsimp only
  split <;> simp [h]

@[simp] theorem Block.opInsert_wf {b : Block} (o : FlowOp) (h : b.mem.wf = true) : (b.opInsert o).mem.wf = true := by
  unfold Block.opInsert
  extract_lets q k x w r r₂
  have hx : x.2.2.mem.wf = true := Block.opFind_wf _ h
  split
  · exact hx
  · split
    · next e => simpa using wf_of_eq e (Block.flowInsert_wf _ _ _ _ _ hx)
    · next e => simpa using wf_of_eq e (Block.flowInsert_wf _ _ _ _ _ hx)

@[simp] theorem Block.opUpdate_wf {b : Block} (o : FlowOp) (h : b.mem.wf = true) : (Block.opUpdate b o).mem.wf = true := by
  unfold Block.opUpdate
  dsimp only
  (repeat' split) <;> simp [h]

@[simp] theorem Block.opDelete_wf {b : Block} (o : FlowOp) (h : b.mem.wf = true) : (b.opDelete o).mem.wf = true := by
  unfold Block.opDelete
  extract_lets q k x
  have hx : x.2.2.mem.wf = true := Block.opFind_wf _ h
  split
  · exact hx
  · split
    · exact hx
    · exact Block.slotPut_wf _ _ (Block.hopPut_wf _ _ _ hx)

@[simp] theorem Block.opReadSlot_wf {b : Block} (o : FlowOp) (h : b.mem.wf = true) :
    (Block.opReadSlot b o).mem.wf = true := by
  unfold Block.opReadSlot
  simp [h]

@[simp] theorem Block.opRun_wf {b : Block} (o : FlowOp) (h : b.mem.wf = true) : (Block.opRun b o).mem.wf = true := by
  unfold Block.opRun
  split <;> simp [h]

@[simp] theorem Block.opsRun_wf (n : Nat) {b : Block} (h : b.mem.wf = true) : (Block.opsRun n b).mem.wf = true := by
  induction n generalizing b with
  | zero => exact h
  | succ n ih =>
    unfold Block.opsRun
    split
    · exact h
    · exact ih (Block.opRun_wf _ h)

@[simp] theorem Block.flowOps_wf {b : Block} (h : b.mem.wf = true) : (Block.flowOps b).mem.wf = true := by
  unfold Block.flowOps
  simp [h]

@[simp] theorem Block.opGo_wf {b : Block} (q op : Nat) (h : b.mem.wf = true) : (Block.opGo b q op).mem.wf = true := by
  unfold Block.opGo
  dsimp only
  split <;> simp [h]

@[simp] theorem flwOpLookup_wf {b : Block} (q : Nat) (h : b.mem.wf = true) : (flwOpLookup q b).mem.wf = true := by
  unfold flwOpLookup
  simp [h]

@[simp] theorem flwOpInsert_wf {b : Block} (q : Nat) (h : b.mem.wf = true) : (flwOpInsert q b).mem.wf = true := by
  unfold flwOpInsert
  simp [h]

@[simp] theorem flwOpUpdate_wf {b : Block} (q : Nat) (h : b.mem.wf = true) : (flwOpUpdate q b).mem.wf = true := by
  unfold flwOpUpdate
  simp [h]

@[simp] theorem flwOpDelete_wf {b : Block} (q : Nat) (h : b.mem.wf = true) : (flwOpDelete q b).mem.wf = true := by
  unfold flwOpDelete
  simp [h]

@[simp] theorem flwOpReadSlot_wf {b : Block} (q : Nat) (h : b.mem.wf = true) : (flwOpReadSlot q b).mem.wf = true := by
  unfold flwOpReadSlot
  simp [h]

@[simp] theorem Block.flowLookup_wf {b : Block} (p : Pkt) (h : b.mem.wf = true) :
    (Block.flowLookup b p).2.mem.wf = true := by
  unfold Block.flowLookup
  dsimp only
  (repeat' split) <;> simp [h]

@[simp] theorem Block.laneResolve_wf {b : Block} (s i : Nat) (h : b.mem.wf = true) : (b.laneResolve s i).2.mem.wf = true := by
  unfold Block.laneResolve
  extract_lets b₂
  have h₂ : b₂.mem.wf = true := Block.flowOps_wf h
  split
  · exact h₂
  · split
    · exact h₂
    · refine Block.flowOps_wf ?_
      split
      · split
        · exact Block.flowMiss_wf _ _ _ h₂
        · exact h₂
      · refine List.foldlRecOn (motive := fun x : List FlowEnd × Block => x.2.mem.wf = true) _ _ ?_ fun a ha q _ => ?_
        · exact Block.flowMiss_wf _ _ _ h₂
        · split
          · simpa using ha
          · exact ha

@[simp] theorem cacheScanVisit_wf {b : Block} (h : b.mem.wf = true) : (cacheScanVisit b).mem.wf = true := by
  unfold cacheScanVisit
  dsimp only
  split <;> simp [h]

@[simp] theorem dramScanVisit_wf {b : Block} (h : b.mem.wf = true) : (dramScanVisit b).mem.wf = true := by
  unfold dramScanVisit
  dsimp only
  (repeat' split) <;> simp [h]

end Sys2Proof.Machine
end

