-- ==== Sys2Proof/Proofs/CanonicalForward.lean ====
section
open Sys2Proof Sys2Proof.Machine
namespace Sys2Proof.Machine

/-! What keeps the memories canonical: forwarding tables.
A change that leaves them alone has an equation (`_mem`), any other keeps them canonical (`_wf`). -/

@[simp] theorem Block.tabBad_mem (b : Block) (s off n : Nat) : (b.tabBad s off n).2.mem = b.mem := by
  unfold Block.tabBad
  exact List.foldlRecOn (motive := fun x : Bool × Block => x.2.mem = b.mem) _ _ rfl fun _ ha _ _ => ha

@[simp] theorem Block.sourceCheck_mem (b : Block) (p : Pkt) (vlan : Nat) : (Block.sourceCheck b p vlan).mem = b.mem := by
  unfold Block.sourceCheck
  split <;> simp

/-- An operation that is done unless its requester's BUSY is 1 keeps what it keeps when done. -/
theorem Block.opIfFree_wf {b : Block} (q : Nat) (busy : Fld) {f : Block → Block} (hf : ∀ b, b.mem.wf = true → (f b).mem.wf = true)
    (h : b.mem.wf = true) : (b.opIfFree q busy f).mem.wf = true := by
  unfold Block.opIfFree
  split
  · exact h
  · exact hf b h

@[simp] theorem Block.putL2_wf {b : Block} (s i : Nat) (e : Option L2E) (h : b.mem.wf = true) :
    (Block.putL2 b s i e).mem.wf = true := by
  unfold Block.putL2
  simp [h]

@[simp] theorem l2OpInsert_wf {b : Block} (q s : Nat) (h : b.mem.wf = true) : (l2OpInsert q s b).mem.wf = true := by
  refine Block.opIfFree_wf q _ (fun b hb => ?_) h
  dsimp only
  (repeat' split) <;> simp [hb]

@[simp] theorem l2OpDelete_wf {b : Block} (q s : Nat) (h : b.mem.wf = true) : (l2OpDelete q s b).mem.wf = true := by
  refine Block.opIfFree_wf q _ (fun b hb => ?_) h
  dsimp only
  split <;> simp [hb]

@[simp] theorem l2OpLookup_wf {b : Block} (q s : Nat) (h : b.mem.wf = true) : (l2OpLookup q s b).mem.wf = true := by
  refine Block.opIfFree_wf q _ (fun b hb => ?_) h
  dsimp only
  split <;> exact hb

@[simp] theorem l2OpFlush_wf {b : Block} (q s : Nat) (h : b.mem.wf = true) : (l2OpFlush q s b).mem.wf = true :=
  Block.opIfFree_wf q _ (fun _ hb => hb) h

@[simp] theorem Block.lpmOp_wf {b : Block} (q : Nat) (f : Dev → Dev) (h : b.mem.wf = true) : (b.lpmOp q f).mem.wf = true :=
  Block.opIfFree_wf q _ (fun _ hb => hb) h

@[simp] theorem lpmOpAdd_wf {b : Block} (q : Nat) (h : b.mem.wf = true) : (lpmOpAdd q b).mem.wf = true := by
  unfold lpmOpAdd
  simp [h]

@[simp] theorem lpmOpDelete_wf {b : Block} (q : Nat) (h : b.mem.wf = true) : (lpmOpDelete q b).mem.wf = true := by
  unfold lpmOpDelete
  simp [h]

@[simp] theorem lpmOpLookup_wf {b : Block} (q : Nat) (h : b.mem.wf = true) : (lpmOpLookup q b).mem.wf = true := by
  unfold lpmOpLookup
  simp [h]

@[simp] theorem lpmOpMatch_wf {b : Block} (q : Nat) (h : b.mem.wf = true) : (lpmOpMatch q b).mem.wf = true := by
  unfold lpmOpMatch
  simp [h]

@[simp] theorem Block.leafRepair_wf {b : Block} (k : LeafKey) (h : b.mem.wf = true) :
    (Block.leafRepair b k).mem.wf = true := by
  unfold Block.leafRepair
  dsimp only
  (repeat' split) <;> simp [h]

@[simp] theorem lpmCommit_wf {b : Block} (h : b.mem.wf = true) : (lpmCommit b).mem.wf = true := by
  unfold lpmCommit
  dsimp only
  (repeat' split) <;> simp [h]

@[simp] theorem mplsOpWrite_wf {b : Block} (q : Nat) (h : b.mem.wf = true) : (mplsOpWrite q b).mem.wf = true := by
  unfold mplsOpWrite
  extract_lets l bs b₂ b₃
  have h₂ : b₂.mem.wf = true := by simp [b₂, h]
  simp [b₃, h₂]

@[simp] theorem mplsOpClear_wf {b : Block} (q : Nat) (h : b.mem.wf = true) : (mplsOpClear q b).mem.wf = true := by
  unfold mplsOpClear
  simp [h]

@[simp] theorem mplsOpRead_mem (b : Block) (q : Nat) : (mplsOpRead q b).mem = b.mem := by
  unfold mplsOpRead
  dsimp only
  (repeat' split) <;> simp

@[simp] theorem Block.l2Dest_mem (b : Block) (s da vlan : Nat) : (Block.l2Dest b s da vlan).2.mem = b.mem := by
  unfold Block.l2Dest
  dsimp only
  (repeat' split) <;> simp

@[simp] theorem Block.mplsDest_mem (b : Block) (p : Pkt) (vlan : Nat) : (Block.mplsDest b p vlan).2.mem = b.mem := by
  unfold Block.mplsDest
  dsimp only
  (repeat' split) <;> simp

@[simp] theorem Block.fwdSelect_mem (b : Block) (p : Pkt) : (Block.fwdSelect b p).2.mem = b.mem := by
  unfold Block.fwdSelect
  dsimp only
  (repeat' split) <;> simp

@[simp] theorem Block.freeRoute_mem (b : Block) : (Block.freeRoute b).2.mem = b.mem := by
  unfold Block.freeRoute
  simp

@[simp] theorem Block.resolve_mem (b : Block) (p : Pkt) (fuel : Nat) (nh : Option Nat) (t : Nat) :
    (b.resolve p fuel nh t).2.2.mem = b.mem := by
  induction fuel generalizing b nh t with
  | zero => rfl
  | succ n ih =>
    unfold Block.resolve
    extract_lets i k dead hop grp e m y z r use hash c r'
    have hdead (b : Block) : (dead b).2.2.mem = b.mem := rfl
    have hhop : hop.2.mem = b.mem := Block.tabBad_mem _ _ _ _
    have hgrp : grp.2.mem = b.mem := Block.tabBad_mem _ _ _ _
    have hz : z.2.mem = b.mem := by
      simp only [z, y]
      split <;> simp [hgrp]
    clear_value dead hop z
    split
    · rfl
    · split
      · split <;> simp [hdead, ih, hhop]
      · split
        · (repeat' split) <;> simp [hdead, ih, hz, r]
        · (repeat' split) <;> simp [hdead, r']

@[simp] theorem Block.popLabel_mem (b : Block) (p : Pkt) : (Block.popLabel b p).2.mem = b.mem := by
  unfold Block.popLabel
  dsimp only
  (repeat' split) <;> simp

@[simp] theorem Block.nhRewrite_mem (b : Block) (n : Nat) (p : Pkt) (labels : Bool) :
    (Block.nhRewrite b n p labels).2.mem = b.mem := by
  unfold Block.nhRewrite
  dsimp only
  (repeat' split) <;> simp

@[simp] theorem tableEntryWrite_wf {b : Block} (q o : Nat) (v : Word) (h : b.mem.wf = true) :
    (tableEntryWrite q o v b).mem.wf = true := by
  unfold tableEntryWrite
  (repeat' split) <;> simp [h]

end Sys2Proof.Machine
end

