-- ==== Sys2Proof/Proofs/CanonicalCores.lean ====
section
open Sys2Proof Sys2Proof.Machine
namespace Sys2Proof.Machine

/-! What keeps the memories canonical: Drover instructions and their memory accesses.
A change that leaves them alone has an equation (`_mem`), any other keeps them canonical (`_wf`). -/

theorem issueAs_wf {f : Block → Block} (hf : KeepsMem f) (t : Nat) (step : Bool) : KeepsMem (issueAs t step f) := by
  unfold KeepsMem at *
  intro b h
  unfold issueAs
  dsimp only
  (repeat' split) <;> simp [h, hf]

theorem issue_wf {f : Block → Block} (hf : KeepsMem f) (t : Nat) : KeepsMem (issue t f) := issueAs_wf hf t false

@[simp] theorem icacheFillDone_mem (b : Block) (t : Nat) : (icacheFillDone t b).mem = b.mem := by
  unfold icacheFillDone
  dsimp only
  (repeat' split) <;> simp

@[simp] theorem opRR_mem (b : Block) (f : Word → Word → Word) (t rd rs1 rs2 : Nat) :
    (opRR f t rd rs1 rs2 b).mem = b.mem := by
  unfold opRR
  simp

@[simp] theorem opRI_mem (b : Block) (f : Word → Word) (t rd rs1 : Nat) : (opRI f t rd rs1 b).mem = b.mem := by
  unfold opRI
  simp

@[simp] theorem opBranch_mem (b : Block) (c : Word → Word → Bool) (t rs1 rs2 : Nat) (off : BitVec 16) :
    (opBranch c t rs1 rs2 off b).mem = b.mem := by
  unfold opBranch
  simp

@[simp] theorem opJal_mem (b : Block) (t rd : Nat) (off : BitVec 21) : (opJal t rd off b).mem = b.mem := by
  unfold opJal
  simp

@[simp] theorem opJalr_mem (b : Block) (t rd rs1 : Nat) (imm : BitVec 16) : (opJalr t rd rs1 imm b).mem = b.mem := by
  unfold opJalr
  simp

@[simp] theorem opLoad_mem (b : Block) (size : Nat) (signed : Bool) (t rd rs1 : Nat) (imm : BitVec 16) :
    (opLoad size signed t rd rs1 imm b).mem = b.mem := by
  unfold opLoad
  dsimp only
  (repeat' split) <;> simp

@[simp] theorem dramLoadComplete_mem (b : Block) (t : Nat) : (dramLoadComplete t b).mem = b.mem := by
  unfold dramLoadComplete
  dsimp only
  (repeat' split) <;> simp

@[simp] theorem opStore_wf {b : Block} (size t rs2 rs1 : Nat) (imm : BitVec 16) (h : b.mem.wf = true) :
    (opStore size t rs2 rs1 imm b).mem.wf = true := by
  unfold opStore
  dsimp only
  (repeat' split) <;> simp [h]

@[simp] theorem opAtomic_wf {b : Block} (f : Word → Word → Word) (t rd rs1 rs2 : Nat) (h : b.mem.wf = true) :
    (opAtomic f t rd rs1 rs2 b).mem.wf = true := by
  unfold opAtomic
  dsimp only
  (repeat' split) <;> simp [h]

@[simp] theorem channelVisible_wf {b : Block} (c : Nat) (h : b.mem.wf = true) : (channelVisible c b).mem.wf = true := by
  unfold channelVisible
  dsimp only
  (repeat' split) <;> simp [h]

@[simp] theorem opChwr_mem (b : Block) (t rs2 word : Nat) : (opChwr t rs2 word b).mem = b.mem := by
  unfold opChwr
  simp

@[simp] theorem opChstg_mem (b : Block) (t rs1 : Nat) (imm : BitVec 16) : (opChstg t rs1 imm b).mem = b.mem := by
  unfold opChstg
  dsimp only
  (repeat' split) <;> simp

@[simp] theorem opChcommit_mem (b : Block) (t rd rs1 : Nat) : (opChcommit t rd rs1 b).mem = b.mem := by
  unfold opChcommit
  dsimp only
  (repeat' split) <;> simp

@[simp] theorem opChrecv_wf {b : Block} (t rd rs1 rs2 : Nat) (h : b.mem.wf = true) :
    (opChrecv t rd rs1 rs2 b).mem.wf = true := by
  unfold opChrecv
  dsimp only
  (repeat' split) <;> simp [h]

@[simp] theorem opChcount_mem (b : Block) (t rd rs1 : Nat) : (opChcount t rd rs1 b).mem = b.mem := by
  unfold opChcount
  simp

@[simp] theorem opFence_mem (b : Block) (t : Nat) : (opFence t b).mem = b.mem := by
  unfold opFence
  simp

@[simp] theorem opIsync_mem (b : Block) (t : Nat) : (opIsync t b).mem = b.mem := by
  unfold opIsync
  simp

@[simp] theorem opGettask_mem (b : Block) (t rd : Nat) : (opGettask t rd b).mem = b.mem := by
  unfold opGettask
  simp

@[simp] theorem doneNow_mem (b : Block) (t : Nat) (h out : Nat) (void : Bool) : (doneNow t h out void b).mem = b.mem := by
  unfold doneNow
  (repeat' split) <;> simp

@[simp] theorem opDonetask_mem (b : Block) (t rs1 rs2 : Nat) (void : Bool) : (opDonetask t rs1 rs2 void b).mem = b.mem := by
  unfold opDonetask
  dsimp only
  (repeat' split) <;> simp

@[simp] theorem opBufget_mem (b : Block) (t rd rs1 : Nat) : (opBufget t rd rs1 b).mem = b.mem := by
  unfold opBufget
  simp

@[simp] theorem opBufput_mem (b : Block) (t rd rs1 : Nat) : (opBufput t rd rs1 b).mem = b.mem := by
  unfold opBufput
  simp

@[simp] theorem fenceEnd_mem (b : Block) (t : Nat) : (fenceEnd t b).mem = b.mem := by
  unfold fenceEnd
  (repeat' split) <;> simp

@[simp] theorem storeFailFault_mem (b : Block) (t i : Nat) : (storeFailFault t i b).mem = b.mem := by
  unfold storeFailFault
  dsimp only
  (repeat' split) <;> simp

@[simp] theorem postedStoreDone_wf {b : Block} (t i : Nat) (h : b.mem.wf = true) :
    (postedStoreDone t i b).mem.wf = true := by
  unfold postedStoreDone
  dsimp only
  (repeat' split) <;> simp [h]

@[simp] theorem opMfsr_mem (b : Block) (t rd sr : Nat) : (opMfsr t rd sr b).mem = b.mem := by
  unfold opMfsr
  simp

@[simp] theorem opMtsr_mem (b : Block) (t rs1 sr : Nat) : (opMtsr t rs1 sr b).mem = b.mem := by
  unfold opMtsr
  simp

@[simp] theorem opWait_mem (b : Block) (t rs1 rs2 : Nat) : (opWait t rs1 rs2 b).mem = b.mem := by
  unfold opWait
  simp

theorem waitEnd_wf {win : Nat → Nat → Block → Word × Block} (hw : ∀ t off b, b.mem.wf = true → (win t off b).2.mem.wf = true)
    (t : Nat) : KeepsMem (waitEnd win t) := by
  intro b h
  unfold waitEnd
  split
  · split
    · exact h
    · extract_lets b₂ p r
      have h₂ : b₂.mem.wf = true := h
      clear_value b₂
      have hr : r.2.mem.wf = true := hw _ _ _ h₂
      clear_value r
      by_cases hc : b₂.dev.channelWake t = true
      · simp only [if_pos hc]; exact h₂
      · simp only [if_neg hc]
        split
        · exact h₂
        · split
          · split
            · exact h₂
            · split <;> exact h₂
          · split
            · split <;> exact hr
            · split
              · exact h₂
              · split
                · simpa using h₂
                · split <;> simpa using h₂
  · exact h

@[simp] theorem opRft_mem (b : Block) (t : Nat) : (opRft t b).mem = b.mem := by
  unfold opRft
  simp

@[simp] theorem opBrk_mem (b : Block) (t : Nat) : (opBrk t b).mem = b.mem := by
  unfold opBrk
  simp

@[simp] theorem taskHandoff_wf {b : Block} (k : Nat) (h : b.mem.wf = true) : (taskHandoff k b).mem.wf = true := by
  unfold taskHandoff
  dsimp only
  (repeat' split) <;> simp [h]

@[simp] theorem Block.police_mem (b : Block) (s n l cls : Nat) : (Block.police b s n l cls).2.mem = b.mem := by
  unfold Block.police
  dsimp only
  (repeat' split) <;> simp

@[simp] theorem polAssign_wf {b : Block} (q : Nat) (h : b.mem.wf = true) : (polAssign q b).mem.wf = true := by
  unfold polAssign
  simp [h]

@[simp] theorem Block.mirrorTakes_mem (b : Block) (slice n : Nat) (egress : Bool) :
    (Block.mirrorTakes b slice n egress).2.mem = b.mem := by
  unfold Block.mirrorTakes
  dsimp only
  (repeat' split) <;> simp

@[simp] theorem Block.mirrorAdmit_mem (b : Block) (row n kind : Nat) (data : List Byte) :
    (Block.mirrorAdmit b row n kind data).mem = b.mem := by
  unfold Block.mirrorAdmit
  simp

@[simp] theorem Block.mirrorEgress_mem (b : Block) (x : QPkt) (data : List Byte) :
    (Block.mirrorEgress b x data).mem = b.mem := by
  unfold Block.mirrorEgress
  dsimp only
  (repeat' split) <;> simp

@[simp] theorem Block.takeFrame_mem (b : Block) (x : QPkt) (start : Nat) (mbr : Option Nat) :
    (Block.takeFrame b x start mbr).mem = b.mem := by
  unfold Block.takeFrame
  simp

@[simp] theorem egressFrameStart_mem (b : Block) (s : Nat) : (egressFrameStart s b).mem = b.mem := by
  unfold egressFrameStart
  dsimp only
  (repeat' split) <;> simp

theorem rRow_wf {t op rd rs1 rs2 func : Nat} {f : Block → Block} (e : rRow t op rd rs1 rs2 func = some f) : KeepsMem f := by
  intro b h
  unfold rRow at e
  dsimp only at e
  (repeat' split at e) <;> cases e <;> simp [h]

theorem iRow_wf {t op a b : Nat} {imm : BitVec 16} {w : Nat} {f : Block → Block} (e : iRow t op a b imm w = some f) : KeepsMem f := by
  intro b h
  unfold iRow at e
  (repeat' split at e) <;> cases e <;> simp [h]

theorem wordOp_wf {t : Nat} {word : Word} {f : Block → Block} (e : wordOp t word = some f) : KeepsMem f := by
  unfold wordOp at e
  dsimp only at e
  split at e
  · intro b h
    (repeat' split at e) <;> cases e <;> simp [h]
  · split at e
    · cases e; intro b h; simp [h]
    · cases e; intro b h; simp [h]
    · cases e; intro b h; simp [h]
    · cases e; intro b h; simp [h]
    · rcases Option.or_eq_some_iff.1 e with e | ⟨-, e⟩
      · exact iRow_wf e
      · exact rRow_wf e

@[simp] theorem runWord_wf (t : Nat) : KeepsMem (runWord t) := by
  intro b h
  unfold runWord
  split
  · exact h
  · split
    · next e => exact wordOp_wf e _ h
    · exact h

@[simp] theorem stepIssue_wf {b : Block} (t : Nat) (h : b.mem.wf = true) : (stepIssue t b).mem.wf = true :=
  issueAs_wf (runWord_wf t) t true b h

@[simp] theorem debugStep_wf {b : Block} (t : Nat) (h : b.mem.wf = true) : (debugStep t b).mem.wf = true := by
  unfold debugStep
  split <;> simp [h]

@[simp] theorem fillDoneStep_wf {b : Block} (t : Nat) (h : b.mem.wf = true) : (fillDoneStep t b).mem.wf = true := by
  unfold fillDoneStep
  dsimp only
  split <;> simp [h]

end Sys2Proof.Machine
end

