-- ==== Sys2Proof/Proofs/CanonicalHost.lean ====
section
open Sys2Proof Sys2Proof.Machine
namespace Sys2Proof.Machine

/-! What keeps the memories canonical: host memory messages and DMA.
A change that leaves them alone has an equation (`_mem`), any other keeps them canonical (`_wf`). -/

@[simp] theorem memWr_wf {b : Block} (m : HMsg) (h : b.mem.wf = true) : (memWr m b).mem.wf = true := by
  unfold memWr
  split <;> simp [h]

@[simp] theorem Block.dmaComplete_wf {b : Block} (q len status : Nat) (crcErr int : Bool) (h : b.mem.wf = true) :
    (Block.dmaComplete b q len status crcErr int).mem.wf = true := by
  unfold Block.dmaComplete
  simp [h]

@[simp] theorem dmaInject_wf {b : Block} (q : Nat) (data : List Byte) (ok : Bool) (h : b.mem.wf = true) :
    (dmaInject q data ok b).mem.wf = true := by
  unfold dmaInject
  split
  · exact h
  extract_lets len room port kind int
  split
  · simp [h]
  split
  · exact h
  split
  · exact h
  extract_lets g g2 frees b₂ c w w2 b₃ j
  have h₃ : b₃.mem.wf = true := by
    have hw : w.2.mem.wf = true := by simp [w, b₂, h]
    simp only [b₃, w2]
    split <;> simp [hw]
  clear_value b₃
  (repeat' split) <;> simp [h, h₃, b₂]

@[simp] theorem dmaToChan_wf {b : Block} (q : Nat) (data : List Byte) (ok : Bool) (h : b.mem.wf = true) :
    (dmaToChan q data ok b).mem.wf = true := by
  unfold dmaToChan
  dsimp only
  (repeat' split) <;> simp [h]

@[simp] theorem dmaFromChan_wf {b : Block} (q : Nat) (ok : Bool) (h : b.mem.wf = true) :
    (dmaFromChan q ok b).mem.wf = true := by
  unfold dmaFromChan
  dsimp only
  (repeat' split) <;> simp [h]

@[simp] theorem ringEntryMove_wf {b : Block} (r : Nat) (h : b.mem.wf = true) : (ringEntryMove r b).mem.wf = true := by
  unfold ringEntryMove
  dsimp only
  (repeat' split) <;> simp [h]

@[simp] theorem injectionDescriptor_mem (b : Block) (s : Nat) : (injectionDescriptor s b).mem = b.mem := by
  unfold injectionDescriptor
  dsimp only
  (repeat' split) <;> simp

end Sys2Proof.Machine
end

