-- ==== Sys2Proof/Proofs/CanonicalPackets.lean ====
section
open Sys2Proof Sys2Proof.Machine
namespace Sys2Proof.Machine

/-! What keeps the memories canonical: packets on their way.
A change that leaves them alone has an equation (`_mem`), any other keeps them canonical (`_wf`). -/

@[simp] theorem Block.leave_mem (b : Block) (p : Pkt) : (Block.leave b p).mem = b.mem := by
  unfold Block.leave
  simp

@[simp] theorem Block.punt_mem (b : Block) (p : Pkt) (kind code info : Nat) :
    (Block.punt b p kind code info).mem = b.mem := by
  unfold Block.punt
  simp

@[simp] theorem Block.admitTo_mem (b : Block) (k : Pkt) (data : List Byte) (p cls grp hashed : Nat) :
    (Block.admitTo b k data p cls grp hashed).mem = b.mem := by
  unfold Block.admitTo
  dsimp only
  (repeat' split) <;> simp

@[simp] theorem Block.sendTo_mem (b : Block) (k : Pkt) (data : List Byte) (r : Route) (cls grp : Nat) :
    (Block.sendTo b k data r cls grp).mem = b.mem := by
  unfold Block.sendTo
  dsimp only
  (repeat' split) <;> simp

@[simp] theorem Block.mirrorIngress_mem (b : Block) (k : Pkt) : (Block.mirrorIngress b k).mem = b.mem := by
  unfold Block.mirrorIngress
  dsimp only
  (repeat' split) <;> simp

@[simp] theorem Block.chooseLabel_mem (b : Block) (k : Pkt) (l : Nat) : (Block.chooseLabel b k l).2.mem = b.mem := by
  unfold Block.chooseLabel
  dsimp only
  (repeat' split) <;> simp

@[simp] theorem Block.choose_mem (b : Block) (w : LeafWait) : (Block.choose b w).2.mem = b.mem := by
  unfold Block.choose
  (repeat' split) <;> simp

@[simp] theorem Block.rewrite_mem (b : Block) (k : Pkt) : (Block.rewrite b k).2.mem = b.mem := by
  unfold Block.rewrite
  dsimp only
  (repeat' split) <;> simp

@[simp] theorem Block.rewriteAll_mem (b : Block) (k : Pkt) (op new : Nat) (nh : Option Nat) :
    (Block.rewriteAll b k op new nh).2.mem = b.mem := by
  unfold Block.rewriteAll
  (repeat' split) <;> simp

@[simp] theorem Block.onward_mem (b : Block) (k : Pkt) (t op new : Nat) (lbl : Option Nat) :
    (Block.onward b k t op new lbl).mem = b.mem := by
  unfold Block.onward
  dsimp only
  (repeat' split) <;> simp

@[simp] theorem Block.finish_mem (b : Block) (w : LeafWait) : (Block.finish b w).mem = b.mem := by
  unfold Block.finish
  dsimp only
  (repeat' split) <;> simp

@[simp] theorem Block.leafOverflow_mem (b : Block) (w : LeafWait) : (Block.leafOverflow b w).mem = b.mem := by
  unfold Block.leafOverflow
  dsimp only
  (repeat' split) <;> simp

@[simp] theorem Block.enterLeaf_mem (b : Block) (w : LeafWait) (reads : Nat) : (Block.enterLeaf b w reads).mem = b.mem := by
  unfold Block.enterLeaf
  dsimp only
  (repeat' split) <;> simp

@[simp] theorem Block.forward_mem (b : Block) (k : Pkt) : (Block.forward b k).mem = b.mem := by
  unfold Block.forward
  dsimp only
  (repeat' split) <;> simp

@[simp] theorem Block.leafDone_mem (b : Block) (s : Nat) (w : LeafWait) (now : Bool) :
    (Block.leafDone b s w now).mem = b.mem := by
  unfold Block.leafDone
  dsimp only
  (repeat' split) <;> simp

@[simp] theorem leafLaneDone_mem (s i : Nat) (ok : Bool) (b : Block) : (leafLaneDone s i ok b).mem = b.mem := by
  unfold leafLaneDone
  split
  · rfl
  · dsimp only
    split
    · rfl
    · rw [forAll_mem fun b w => Block.leafDone_mem b s w false]
      exact Block.leafDone_mem _ _ _ _

@[simp] theorem Block.afterFlow_mem (b : Block) (e : FlowEnd) : (Block.afterFlow b e).mem = b.mem := by
  unfold Block.afterFlow
  split <;> simp

@[simp] theorem missLaneResolve_wf {b : Block} (s i : Nat) (h : b.mem.wf = true) : (missLaneResolve s i b).mem.wf = true := by
  unfold missLaneResolve
  dsimp only
  rw [forAll_mem Block.afterFlow_mem]
  exact Block.laneResolve_wf _ _ h

@[simp] theorem Block.walkBad_mem (b : Block) (s bank : Nat) (k : Pkt) : (Block.walkBad b s bank k).2.mem = b.mem := by
  unfold Block.walkBad
  simp

@[simp] theorem Block.flowStage_wf {b : Block} (k : Pkt) (h : b.mem.wf = true) : (Block.flowStage b k).mem.wf = true := by
  unfold Block.flowStage
  split <;> simp [h]

@[simp] theorem Block.classStage_wf {b : Block} (k : Pkt) (bank : Nat) (h : b.mem.wf = true) :
    (Block.classStage b k bank).mem.wf = true := by
  unfold Block.classStage
  dsimp only
  (repeat' split) <;> simp [h]

@[simp] theorem Block.parseFail_mem (b : Block) (k : Pkt) : (Block.parseFail b k).mem = b.mem := by
  unfold Block.parseFail
  dsimp only
  (repeat' split) <;> simp

@[simp] theorem Block.ingress_wf {b : Block} (k : Pkt) (h : b.mem.wf = true) : (Block.ingress b k).mem.wf = true := by
  unfold Block.ingress
  dsimp only
  (repeat' split) <;> simp [h]

@[simp] theorem ingressPacketStart_wf {b : Block} (s : Nat) (h : b.mem.wf = true) :
    (ingressPacketStart s b).mem.wf = true := by
  unfold ingressPacketStart
  dsimp only
  split <;> simp [h]

@[simp] theorem Block.resetSlice_wf {b : Block} (s : Nat) (h : b.mem.wf = true) : (Block.resetSlice b s).mem.wf = true := by
  unfold Block.resetSlice
  simp [h]

end Sys2Proof.Machine
end

