-- ==== Sys2Proof/Proofs/CanonicalResets.lean ====
section
open Sys2Proof Sys2Proof.Machine
namespace Sys2Proof.Machine

/-! What keeps the memories canonical: images, power, resets and scrubbers.
A change that leaves them alone has an equation (`_mem`), any other keeps them canonical (`_wf`). -/

@[simp] theorem recoveryLogicResetDone_wf {b : Block} (s : Nat) (h : b.mem.wf = true) :
    (recoveryLogicResetDone s b).mem.wf = true := by
  unfold recoveryLogicResetDone
  dsimp only
  split <;> simp [h]

@[simp] theorem signatureCheckDone_wf {b : Block} (h : b.mem.wf = true) : (signatureCheckDone b).mem.wf = true := by
  unfold signatureCheckDone
  dsimp only
  (repeat' split) <;> simp [h]

@[simp] theorem Block.bootApplyStart_wf {b : Block} (mask fw : Nat) (h : b.mem.wf = true) :
    (b.bootApplyStart mask fw).mem.wf = true := by
  unfold Block.bootApplyStart
  extract_lets d d₁ b₂
  have h₂ : b₂.mem.wf = true := forAll_wf (fun _ _ hb => Block.resetSlice_wf _ hb) _ h
  exact forAll_wf (fun _ _ hb => Block.bankInit_wf _ _ (Block.bankInit_wf _ _ hb)) _ h₂

@[simp] theorem Block.verified_wf {b : Block} (h : b.mem.wf = true) : b.verified.mem.wf = true := by
  unfold Block.verified
  dsimp only
  (repeat' split) <;> simp [h]

@[simp] theorem bodyStaged_wf {b : Block} (data : List Byte) (ok : Bool) (h : b.mem.wf = true) :
    (bodyStaged data ok b).mem.wf = true := by
  unfold bodyStaged
  extract_lets l
  split
  · exact h
  split
  · exact h
  split
  · exact h
  split
  · exact h
  extract_lets b₂ b₃
  have h₂ : b₂.mem.wf = true := Block.dramWhole_wf _ _ h
  have h₃ : b₃.mem.wf = true := h₂
  clear_value b₂ b₃
  (repeat' split) <;> simp [h₂, h₃]

@[simp] theorem imgReq_mem (b : Block) (m : HMsg) : (imgReq m b).mem = b.mem := by
  unfold imgReq
  dsimp only
  (repeat' split) <;> simp

@[simp] theorem Mem.wf_devClear {m : Mem} (h : m.wf = true) : m.devClear.wf = true :=
  Mem.wf_clear _ (Mem.wf_clear _ (Mem.wf_clear _ (Mem.wf_clear _ (Mem.wf_clear _ (Mem.wf_clear _ h)))))

@[simp] theorem powerOn_wf {b : Block} (h : b.mem.wf = true) : (powerOn b).mem.wf = true := Mem.wf_devClear h

@[simp] theorem powerLoss_wf {b : Block} (h : b.mem.wf = true) : (powerLoss b).mem.wf = true := Mem.wf_devClear h

@[simp] theorem Block.pinReset_wf {b : Block} (h : b.mem.wf = true) : b.pinReset.mem.wf = true := Mem.wf_devClear h

@[simp] theorem resetNAssert_wf {b : Block} (ns : Nat) (h : b.mem.wf = true) : (resetNAssert ns b).mem.wf = true := by
  unfold resetNAssert
  dsimp only
  (repeat' split) <;> simp [h]

@[simp] theorem perstAssert_wf {b : Block} (h : b.mem.wf = true) : (perstAssert b).mem.wf = true := by
  unfold perstAssert
  dsimp only
  split <;> simp [h]

@[simp] theorem hostSoftReset_wf {b : Block} (key : Nat) (h : b.mem.wf = true) : (hostSoftReset key b).mem.wf = true := by
  unfold hostSoftReset
  dsimp only
  split
  · exact h
  · exact Mem.wf_clear _ (Mem.wf_clear _ (Mem.wf_clear _ (Mem.wf_clear _ (Mem.wf_clear _ (Mem.wf_keep _ _ h)))))

@[simp] theorem thermalShutdown_wf {b : Block} (h : b.mem.wf = true) : (thermalShutdown b).mem.wf = true := by
  unfold thermalShutdown
  dsimp only
  split
  · exact h
  · exact Mem.wf_devClear h

@[simp] theorem Block.flowBurst_wf {b : Block} (a : Nat) (h : b.mem.wf = true) : (Block.flowBurst b a).mem.wf = true := by
  unfold Block.flowBurst
  dsimp only
  split <;> simp [h]

@[simp] theorem dramRereadDone_wf {b : Block} (burst : Nat) (ok : Bool) (inst : Nat) (h : b.mem.wf = true) :
    (dramRereadDone burst ok inst b).mem.wf = true := by
  unfold dramRereadDone
  split <;> simp [h]

@[simp] theorem patrolScrubRead_wf {b : Block} (fails : Bool) (h : b.mem.wf = true) :
    (patrolScrubRead fails b).mem.wf = true := by
  unfold patrolScrubRead
  dsimp only
  (repeat' split) <;> simp [h]

@[simp] theorem Block.countZero_wf {b : Block} (inst addr : Nat) (h : b.mem.wf = true) :
    (b.countZero inst addr).mem.wf = true := by
  unfold Block.countZero
  extract_lets b₁ i
  have h₁ : b₁.mem.wf = true := h
  clear_value b₁
  (repeat' with_reducible apply ite_wf) <;> simp [h₁]

@[simp] theorem Block.scrubOutcome_wf {b : Block} (cls inst addr : Nat) (detail : List Byte) (h : b.mem.wf = true) :
    (b.scrubOutcome cls inst addr detail).mem.wf = true := by
  unfold Block.scrubOutcome
  (repeat' with_reducible apply ite_wf) <;> simp [h]

@[simp] theorem sramScrubRead_wf {b : Block} (cls inst addr : Nat) (detail : List Byte) (fails : Bool) (h : b.mem.wf = true) :
    (sramScrubRead cls inst addr detail fails b).mem.wf = true := by
  unfold sramScrubRead
  (repeat' split) <;> simp [h]

end Sys2Proof.Machine
end

