-- ==== Sys2Proof/Proofs/CanonicalAccess.lean ====
section
open Sys2Proof Sys2Proof.Machine
namespace Sys2Proof.Machine

/-! What keeps the memories canonical: register accesses, windows and apply passes.
A change that leaves them alone has an equation (`_mem`), any other keeps them canonical (`_wf`). -/

@[simp] theorem Block.hookTables_wf {b : Block} (q off i : Nat) (v : Word) (h : b.mem.wf = true) :
    (Block.hookTables b q off i v).mem.wf = true := by
  unfold Block.hookTables
  dsimp only
  (repeat' split) <;> simp [h]

@[simp] theorem Block.hookTime_wf {b : Block} (old : Dev) (q off i : Nat) (v : Word) (h : b.mem.wf = true) :
    (b.hookTime old q off i v).mem.wf = true := by
  unfold Block.hookTime
  dsimp only
  (repeat' with_reducible apply ite_wf) <;> simp only [h, on_wf, polAssign_wf]

@[simp] theorem Block.hookCores_wf {b : Block} (r : Req) (off i : Nat) (v : Word) (h : b.mem.wf = true) :
    (b.hookCores r off i v).mem.wf = true := by
  unfold Block.hookCores
  extract_lets go b₁ b₂ b₃
  have h₁ : b₁.mem.wf = true := ite_wf (on_wf _ h) h
  have h₂ : b₂.mem.wf = true := ite_wf (on_wf _ h₁) h₁
  have h₃ : b₃.mem.wf = true := ite_wf (debugStep_wf i h₂) h₂
  clear_value b₃
  (repeat' with_reducible apply ite_wf) <;> try simp only [h, h₃, on_wf]
  split <;> simp only [h, on_wf, stbPost_wf]

@[simp] theorem Block.hook_wf {b : Block} (r : Req) (old : Dev) (off i : Nat) (v : Word) (h : b.mem.wf = true) :
    (b.hook r old off i v).mem.wf = true := by
  unfold Block.hook
  dsimp only
  split
  · exact ite_wf (hostSoftReset_wf _ h) (on_wf _ h)
  all_goals simp only [h, on_wf, Block.hookTables_wf, Block.hookTime_wf, Block.hookCores_wf]

@[simp] theorem dramWinRead_wf {b : Block} (q off : Nat) (h : b.mem.wf = true) : (dramWinRead q off b).2.mem.wf = true := by
  by_cases hc : b.dev.burstBad (b.dev.dramWinAddr q off) = true
  · simp only [dramWinRead, if_pos hc]
    exact on_wf _ (Block.flowBurst_wf _ (on_wf _ h))
  · simp only [dramWinRead, if_neg hc]
    exact h

@[simp] theorem dramWinCommit_wf {b : Block} (q a : Nat) (v : Word) (h : b.mem.wf = true) :
    (dramWinCommit q a v b).mem.wf = true := by
  unfold dramWinCommit
  dsimp only
  (repeat' split) <;> simp [h]

@[simp] theorem dramWinWrite_wf {b : Block} (q off : Nat) (v : Word) (h : b.mem.wf = true) :
    (dramWinWrite q off v b).mem.wf = true := by
  unfold dramWinWrite
  exact ite_wf (dramWinCommit_wf _ _ _ h) (on_wf _ h)

@[simp] theorem Block.halfWritten_wf {b : Block} (w : Nat) (hi : Bool) (h : b.mem.wf = true) :
    (Block.halfWritten b w hi).mem.wf = true := by
  unfold Block.halfWritten
  (repeat' split) <;> simp [h]

@[simp] theorem stagedBankWrite_wf {b : Block} (s o : Nat) (v : Word) (h : b.mem.wf = true) :
    (stagedBankWrite s o v b).mem.wf = true := by
  unfold stagedBankWrite
  dsimp only
  split <;> simp [h]

@[simp] theorem Block.winWrite_wf {b : Block} (q off : Nat) (v : Word) (h : b.mem.wf = true) :
    (b.winWrite q off v).mem.wf = true := by
  unfold Block.winWrite
  exact ite_wf (stagedBankWrite_wf _ _ _ h) (ite_wf h (ite_wf (tableEntryWrite_wf _ _ _ h) (ite_wf h (ite_wf (on_wf _ h)
    (ite_wf (dramWinWrite_wf _ _ _ h) h)))))

/-- A held copy is answered without a look at the memories. -/
theorem Block.orHeld_wf {b : Block} (q off : Nat) {f : Block → Word × Block} (h : b.mem.wf = true)
    (hf : (f b).2.mem.wf = true) : (b.orHeld q off f).2.mem.wf = true := by
  unfold Block.orHeld
  split
  · exact on_wf _ h
  · exact hf

/-- A word of the tables, read with its parity, leaves canonical memories canonical. -/
theorem tabRead_wf {b : Block} (off : Nat) (h : b.mem.wf = true) :
    (if (b.tabBad 0xFFFF off 4).1 = true then
        (BitVec.ofNat 32 ((b.tabBad 0xFFFF off 4).2.dev.fresh 32).1, (b.tabBad 0xFFFF off 4).2.on (fun d => (d.fresh 32).2))
      else (BitVec.ofNat 32 (b.mem.num .tabs off 4), (b.tabBad 0xFFFF off 4).2) : Word × Block).2.mem.wf = true :=
  have ht : (b.tabBad 0xFFFF off 4).2.mem.wf = true := by simpa using h
  pair_ite_wf (on_wf _ ht) ht

@[simp] theorem Block.winRead_wf {b : Block} (q off : Nat) (h : b.mem.wf = true) : (b.winRead q off).2.mem.wf = true := by
  unfold Block.winRead
  have hw : (b.clsWindowRead (b.dev.sliceSel q R.SLICE_SEL_SLC) (off - 0x3000000)).2.mem.wf = true := by simpa using h
  refine pair_ite_wf hw (pair_ite_wf ?_ (pair_ite_wf h (pair_ite_wf h (pair_ite_wf h (pair_ite_wf
    (pair_ite_wf (tabRead_wf off h) h) (pair_ite_wf ?_ (pair_ite_wf h (pair_ite_wf h (pair_ite_wf
    (dramWinRead_wf q off h) h)))))))))
  · exact Block.orHeld_wf q off h (pair_ite_wf (clsCounterRead_wf _ _ _ h) h)
  · exact Block.orHeld_wf q off (on_wf _ h) (pair_ite_wf (on_wf _ (on_wf _ h)) (on_wf _ h))

@[simp] theorem Block.atTables_wf {b : Block} (off : Nat) (h : b.mem.wf = true) : (Block.atTables b off).mem.wf = true := by
  unfold Block.atTables
  (repeat' split) <;> simp [h]

@[simp] theorem Block.regRead_wf {b : Block} (q off : Nat) (h : b.mem.wf = true) : (b.regRead q off).2.mem.wf = true := by
  unfold Block.regRead
  refine pair_ite_wf (on_wf _ h) (pair_ite_wf h (pair_ite_wf (Block.winRead_wf q off h) ?_))
  split
  · exact h
  · exact withDev_wf _ (on_wf _ (Block.atTables_wf off h))

@[simp] theorem Block.regWrite_wf {b : Block} (r : Req) (off : Nat) (v : Word) (h : b.mem.wf = true) :
    (b.regWrite r off v).mem.wf = true := by
  unfold Block.regWrite
  refine ite_wf (on_wf _ h) (ite_wf h (ite_wf (Block.winWrite_wf _ _ _ h) ?_))
  split
  · exact h
  · extract_lets b₁ d i v₁
    have h₁ : b₁.mem.wf = true := on_wf _ (Block.atTables_wf off h)
    clear_value b₁
    split
    · exact on_wf _ h₁
    · exact h₁
    · split
      · exact withDev_wf _ h₁
      · exact ite_wf (withDev_wf _ h₁) (Block.hook_wf _ _ _ _ _ (withDev_wf _ h₁))

@[simp] theorem Block.bulkBytes_wf {b : Block} (off : Nat) (data : List Byte) (h : b.mem.wf = true) :
    (b.bulkBytes off data).mem.wf = true := by
  unfold Block.bulkBytes
  exact forAll_wf (fun _ _ hb => Block.winWrite_wf _ _ _ hb) _ h

@[simp] theorem Block.applyRec_wf {b : Block} (r : Rec) (h : b.mem.wf = true) : (b.applyRec r).mem.wf = true := by
  unfold Block.applyRec
  split <;> simp [h]

@[simp] theorem Pass.record_wf {p : Pass} (e : Entry) (r : Rec) (h : p.b.mem.wf = true) : (p.record e r).b.mem.wf = true := by
  unfold Pass.record
  (repeat' split) <;> simp [h]

@[simp] theorem Pass.bodyEnd_mem (p : Pass) (sp : Span) (e : Entry) : (Pass.bodyEnd sp e p).b.mem = p.b.mem := by
  unfold Pass.bodyEnd
  dsimp only
  (repeat' split) <;> simp

/-- Records applied in a row leave canonical memories canonical. -/
theorem Pass.records_wf {p : Pass} (e : Entry) (rs : List Rec) (h : p.b.mem.wf = true) :
    (rs.foldl (Pass.record e) p).b.mem.wf = true :=
  List.foldlRecOn (motive := fun p : Pass => p.b.mem.wf = true) rs _ h fun _ hp r _ => Pass.record_wf e r hp

@[simp] theorem Pass.section_wf {p : Pass} (sp : Span) (w : Target × Entry) (h : p.b.mem.wf = true) :
    (p.section sp w).b.mem.wf = true := by
  unfold Pass.section
  split
  · exact h
  · extract_lets e base p₁ stop recs p₂ p₃
    have h₁ : p₁.b.mem.wf = true := h
    clear_value p₁
    have h₂ : p₂.b.mem.wf = true := by
      simp only [p₂]
      split
      · exact on_wf _ h₁
      · exact h₁
    clear_value p₂
    have h₃ : p₃.b.mem.wf = true := Pass.records_wf e _ h₂
    clear_value p₃
    split
    · exact h₁
    · split
      · simp [h₃]
      · exact h₃

@[simp] theorem Block.runPass_wf {b : Block} (sp : Span) (ws : List (Target × Entry)) (h : b.mem.wf = true) :
    (b.runPass sp ws).b.mem.wf = true := by
  unfold Block.runPass
  exact List.foldlRecOn (motive := fun p : Pass => p.b.mem.wf = true) ws _ h fun _ hp w _ => Pass.section_wf sp w hp

@[simp] theorem liveUnitPrecheck_mem (b : Block) : (liveUnitPrecheck b).mem = b.mem := by
  unfold liveUnitPrecheck
  dsimp only
  (repeat' split) <;> simp

@[simp] theorem bar2Read_mem (b : Block) (o : Nat) : (bar2Read o b).2.mem = b.mem := by
  unfold bar2Read
  (repeat' split) <;> simp

@[simp] theorem bar2Write_wf {b : Block} (o : Nat) (v : Word) (h : b.mem.wf = true) : (bar2Write o v b).mem.wf = true := by
  unfold bar2Write
  (repeat' split) <;> simp [h]

@[simp] theorem spinRead_wf {b : Block} (t off : Nat) (h : b.mem.wf = true) : (spinRead t off b).2.mem.wf = true :=
  Block.regRead_wf _ _ h

@[simp] theorem errorBooking_wf {b : Block} (u : Nat) (h : b.mem.wf = true) : (errorBooking u b).mem.wf = true := by
  unfold errorBooking
  split <;> simp [h]

end Sys2Proof.Machine
end

