-- ==== Sys2Proof/Proofs/SoundCommands.lean ====
section
open Sys2Proof Sys2Proof.Machine
namespace Sys2Proof.Machine

/-! What a command can do (R6, R16): it answers a next state that waits for the same commands and keeps the memories canonical, or a
fault of a rule that calls the case unpredictable. Each gate that commands go through has a lemma; `sound_exec` names the gate of
each command. -/

/-- The outcomes of a command on a state: no refusal, no fault but of an unpredictable case; a next state has the queue and keeps
the memories canonical. -/
inductive Sound (s : State) : Host.Outcome State Fault Refusal → Prop
  | next {u : State} (queue : u.pending = s.pending) (mem : s.memOk → u.memOk) : Sound s (.next u)
  | unpredictable (rule : Nat) : Sound s (.fault (.unpredictable rule))

/-- What a command may do after the loader's earlier writes, it may do before them. -/
theorem Sound.after {s u : State} {o : Host.Outcome State Fault Refusal} (h : Sound u o) (queue : u.pending = s.pending)
    (mem : s.memOk → u.memOk) : Sound s o := by
  cases h with
  | next hq hm => exact .next (hq.trans queue) (hm ∘ mem)
  | unpredictable n => exact .unpredictable n

/-- A sound outcome that is a next state keeps the memories canonical. -/
theorem Sound.memOk {s t : State} {o : Host.Outcome State Fault Refusal} (h : Sound s o) (ho : o = .next t) : s.memOk → t.memOk := by
  subst ho
  cases h with
  | next _ mem => exact mem

theorem sound_self (s : State) : Sound s (.next s) := .next rfl id

/-! Changes -/

theorem sound_runDev (f : Dev → Dev) (s : State) : Sound s (runDev f s) := .next rfl id

theorem sound_runBlk {f : Block → Block} (hf : KeepsMem f) (s : State) : Sound s (runBlk f s) := .next rfl (hf s.blk)

theorem sound_event (f : Dev → Dev) (s : State) : Sound s (event f s) := by
  unfold event
  split
  · exact sound_runDev f s
  · exact sound_self s

theorem sound_eventBlk {f : Block → Block} (hf : KeepsMem f) (s : State) : Sound s (eventBlk f s) := by
  unfold eventBlk
  split
  · exact sound_runBlk hf s
  · exact sound_self s

theorem sound_issue (t : Nat) {f : Block → Block} (hf : KeepsMem f) (s : State) : Sound s (runBlk (issue t f) s) :=
  sound_runBlk (issue_wf hf t) s

/-! Accesses of requesters -/

/-- The loader's writes before an access keep what the access keeps. -/
theorem sound_caught {f : State → Host.Outcome State Fault Refusal} (hf : ∀ u, Sound u (f u)) (s : State) : Sound s (caught f s) := by
  unfold caught
  split
  · exact hf s
  · next live since ws _ =>
    extract_lets upto p
    have hp : s.memOk → p.b.mem.wf = true := fun h => Block.runPass_wf _ ws h
    clear_value p
    split
    · exact hf s
    · split
      · exact .unpredictable _
      · exact (hf _).after rfl hp

theorem sound_elemOp (r : Req) (off : Nat) (k : Kind) {f : Nat → Block → Block} (hf : ∀ i, KeepsMem (f i)) (s : State) :
    Sound s (elemOp r off k f s) := by
  unfold elemOp
  split
  · exact .unpredictable _
  · exact sound_runBlk (hf _) s

theorem sound_regOp (r : Req) (off : Nat) (k : Kind) {f : Nat → Block → Block} (hf : ∀ i, KeepsMem (f i)) (s : State) :
    Sound s (regOp r off k f s) := by
  refine sound_caught (fun u => ?_) s
  split
  · exact sound_self u
  · exact sound_elemOp r off k hf u

theorem sound_regDev (r : Req) (off : Nat) (k : Kind) (f : Nat → Dev → Dev) (s : State) : Sound s (regDev r off k f s) :=
  sound_regOp r off k (fun i _ h => on_wf (f i) h) s

theorem sound_regAsk (r : Req) (off : Nat) (k : Kind) (f : Nat → Dev → Word × Dev) (s : State) : Sound s (regAsk r off k f s) := by
  unfold regAsk
  split
  · exact sound_runDev _ s
  · exact sound_caught (sound_elemOp r off k fun i _ h => on_wf _ h) s

theorem sound_writeCmd (r : Req) (off : Nat) (v : Word) (s : State) : Sound s (writeCmd r off v s) := by
  refine sound_caught (fun u => ?_) s
  split
  · exact .unpredictable _
  · exact sound_runBlk (fun _ h => Block.regWrite_wf r off v h) u

theorem sound_readTo (r : Req) (off : Nat) (done : Word → Dev → Dev) (s : State) : Sound s (readTo r off done s) := by
  refine sound_caught (fun u => ?_) s
  split
  · exact .unpredictable _
  · exact sound_runBlk (fun _ h => on_wf _ (Block.regRead_wf _ off h)) u

theorem sound_readCmd (r : Req) (off : Nat) (s : State) : Sound s (readCmd r off s) := sound_readTo r off _ s

/-! The host, the ring and threads -/

theorem bar2Read_wf {b : Block} (o : Nat) (h : b.mem.wf = true) : (bar2Read o b).2.mem.wf = true := by
  rw [bar2Read_mem]
  exact h

theorem sound_bar2Write (o : Nat) (v : Word) (s : State) : Sound s (runBlk (bar2Write o v) s) :=
  sound_runBlk (fun _ h => bar2Write_wf o v h) s

theorem sound_localWrite (r : Req) (a : Nat) (v : Word) (s : State) : Sound s (localWrite r a v s) := by
  unfold localWrite
  split
  · exact sound_bar2Write _ v s
  · exact sound_writeCmd r a v s

theorem sound_bar2Read (o : Nat) (done : Word → Dev → Dev) (s : State) :
    Sound s (runBlk (fun b => (bar2Read o b).2.on (done (bar2Read o b).1)) s) :=
  sound_runBlk (fun _ h => on_wf _ (bar2Read_wf o h)) s

theorem sound_localRead (r : Req) (a : Nat) (done : Word → Dev → Dev) (s : State) : Sound s (localRead r a done s) := by
  unfold localRead
  split
  · exact sound_bar2Read _ done s
  · exact sound_readTo r a done s

theorem sound_hostRegAccess (bar off : Nat) (write : Bool) (v : Word) (oneDw : Bool) (s : State) :
    Sound s (hostRegAccess bar off write v oneDw s) := by
  unfold hostRegAccess
  extract_lets d size dev a
  clear_value d size dev a
  split
  · exact sound_self s
  split
  · exact sound_runDev _ s
  split
  · exact sound_runDev _ s
  split
  · exact sound_runDev _ s
  split
  · exact sound_localWrite _ _ v s
  · exact sound_localRead _ _ _ s

theorem sound_taken {typ : Nat} {m : HMsg} {f : State → Host.Outcome State Fault Refusal} {s : State} (hf : Sound s (f s)) :
    Sound s (taken typ m f s) := by
  unfold taken
  split
  · exact sound_self s
  · split
    · exact hf
    · exact sound_runDev _ s

theorem sound_regwinDone (n : Fin 256) (s : State) : Sound s (regwinDone n s) := by
  unfold regwinDone
  split
  · exact sound_readTo _ _ _ s
  · refine sound_caught (fun u => ?_) s
    split
    · exact .unpredictable _
    · exact sound_runBlk (fun _ h => on_wf _ (Block.regWrite_wf _ _ _ h)) u
  · exact sound_self s

theorem sound_waitEnd (t : Nat) (s : State) : Sound s (caught (runBlk (waitEnd spinRead t)) s) :=
  sound_caught (sound_runBlk (waitEnd_wf (fun t off _ h => spinRead_wf t off h) t)) s

theorem sound_clusterReleaseCmd (k : Nat) (s : State) : Sound s (clusterReleaseCmd k s) := by
  unfold clusterReleaseCmd
  split
  · exact .unpredictable 76
  · exact sound_event _ s

/-! Ends of apply passes -/

theorem sound_passEnd (live : Bool) (since : Nat) (ws : List (Target × Entry)) (f : Option Nat → Dev → Dev) (s : State) :
    Sound s (passEnd live since ws f s) := by
  unfold passEnd
  extract_lets b p
  have hp : s.memOk → p.b.mem.wf = true := fun h => Block.runPass_wf _ ws (on_wf _ h)
  clear_value p
  split
  · exact .unpredictable _
  · exact .next rfl hp

theorem sound_applyPassEnd (s : State) : Sound s (applyPassEnd s) := by
  unfold applyPassEnd
  split
  · exact sound_self s
  · exact sound_passEnd _ _ _ _ s

theorem sound_recoveryApplyEnd (s : State) : Sound s (recoveryApplyEnd s) := by
  unfold recoveryApplyEnd
  split
  · exact sound_self s
  · exact sound_passEnd _ _ _ _ s

theorem sound_liveUnitApplyEnd (s : State) : Sound s (liveUnitApplyEnd s) := by
  unfold liveUnitApplyEnd
  split
  · exact sound_self s
  · exact sound_passEnd _ _ _ _ s

/-! Every command -/

/-- Every command but JTAG's goes through one of the gates. -/
theorem sound_exec (c : Instr) (s : State) (hc : ∀ op, c ≠ .jtagInstruction op) : Sound s (exec c s) := by
  cases c with
  | fuseRead | pllLock | pllLockTimeout | dramTrainingDone | trainingAttemptFail | pcieConfigReady | sliceReset |
    pipelineStall | recoveryReapplyStart | clusterHoldSet | structRelease | serviceRequest | testRequest | autoServiceEntry |
    loadFlash | loadPcie | loadHalter | loadLive | headerFetchDone | manifestFetchDone | fetchTimeout | halterLoadRetry |
    liveEpochWaitExpiry | frameReceive | portDown | portUp | carrierDown | carrierUp | calSwitch | calSwitchAbort |
    caReceived | rxCalendarChange | holdAssert | holdRelease | holdResume | holdStuck | holdChatter | rowWriteEnd |
    storeFetchDone | frameReadEnd | replicate | residueRetry | residueExpiry | epochDrained | learnWindowClose |
    learnHoldoffEnd | l2FlushDone | l2ScanVisit | gateComputeDone | gateListChange | gateEntryAdvance | policerRefresh |
    guarLowerEffect | fallVoidClear | periodicSample | memberFrameReceive | syncWaitEnd | gapTimerExpiry | spillReadback |
    idleProbe | forcedProbe | drainProbe | memberSilent | rampStart | rateChange | rcTrigStart | rcTrigEnd | rxCheckLate |
    trigPulseStart | trigPulseEnd | captureEdge | ppsPulseStart | ppsPulseEnd | dramRefresh | clusterStall | breakpointHit |
    delayTick | groupStuck | samplerRecord | forwardTimeout | discoverRound | discoverTimeout | discover | link | hopDown |
    hopUp | routeHoldEnd | pcsLockGained | pcieConfigRequest | msixTableAccess | halterBadFrame =>
    exact sound_event _ s
  | calEntryWrite | calSwitchArm | calSwitchCancel | holdMaskWrite | clsSeal | clsUnseal | clsSwapArm | clsSwapCancel |
    clsRelease | clsUpdateGo | gateArm | gateCancel | polRead | memberDrain | memberRestore | teamTxReset | teamResync |
    rcArm | rcCancel | ntuForceStep | ntuSet | trigArm | trigCancel | engineEnable | engineDisable | errQueuePop |
    channelFlush | threadStart | debugHalt | debugResume | debugChdiscard | stbCancel | stbVoid | bpmGet | bpmPut | bpmXfer |
    pmuFreeze | pmuClear | remoteRead | remoteWrite | softwareEvent =>
    exact sound_regDev _ _ _ _ s
  | calEntryRead | mfNextRead | ntuNowRead | captureRead =>
    exact sound_regAsk _ _ _ _ s
  | resetNRelease | perstNRelease | tempSensorUpdate | i2cCommandWrite | i2cRead =>
    exact sound_runDev _ s
  | recoveryLogicResetDone | signatureCheckDone | bodyStaged | liveUnitPrecheck | ingressPacketStart | missLaneResolve |
    leafLaneDone | egressFrameStart | clsSwap | clsGroupCommit | cacheScanVisit | dramScanVisit | lpmCommit | dramRereadDone |
    patrolScrubRead | sramScrubRead | errorBooking | channelMessageVisible | injectionDescriptor | taskPost | taskHandoff |
    orderedRelease | dmaInject | dmaToChan | dmaFromChan | ringEntryWrite | eventRingWrite =>
    exact sound_eventBlk (fun _ h => by simp [h]) s
  | hostSoftReset | clsCounterClear | flwOpLookup | flwOpInsert | flwOpUpdate | flwOpDelete | flwOpReadSlot | l2OpInsert |
    l2OpDelete | l2OpLookup | l2OpFlush | lpmOpAdd | lpmOpDelete | lpmOpLookup | lpmOpMatch | mplsOpWrite | mplsOpClear |
    mplsOpRead | polAssign | debugStep | stbPost =>
    exact sound_regOp _ _ _ (fun _ _ h => by simp [h]) s
  | powerOn | powerLoss | resetNAssert | perstNAssert | dramLoadComplete | icacheFillDone | storeFailFault | thermalShutdown |
    postedStoreDone =>
    exact sound_runBlk (fun _ h => by simp [h]) s
  | add | sub | and | or | xor | sll | srl | sra | slt | sltu | mul | mulhu | clz | slli | srli | srai | addi | andi | ori |
    xori | slti | sltiu | lui | lb | lbu | lh | lhu | lw | sb | sh | sw | aadd | aswap | fence | isync | beq | bne | blt |
    bge | bltu | bgeu | jal | jalr | chwr | chstg | chcommit | chrecv | chcount | gettask | donetask | bufget | bufput |
    wait | mfsr | mtsr | rft | brk =>
    exact sound_issue _ (fun _ h => by simp [h]) s
  | registerWrite | stagedBankWrite | tableEntryWrite | ntuCorrection | dramWindowCommit | queueDoorbell | ringHeadWrite =>
    exact sound_writeCmd _ _ _ s
  | rcRegisterRead | pairLoRead | clsCounterRead | statCounterRead =>
    exact sound_readCmd _ _ s
  | regCpl | memRd | memCpl | imgData | intr =>
    exact sound_taken (sound_runDev _ s)
  | memWr | imgReq =>
    exact sound_taken (sound_runBlk (fun _ h => by simp [h]) s)
  | hostRegAccess => exact sound_hostRegAccess _ _ _ _ _ s
  | regWr => exact sound_taken (sound_localWrite _ _ _ s)
  | regRd => exact sound_taken (sound_localRead _ _ _ s)
  | regwinAccessDone => exact sound_regwinDone _ s
  | waitEnd => exact sound_waitEnd _ s
  | clusterRelease => exact sound_clusterReleaseCmd _ s
  | applyPassEnd => exact sound_applyPassEnd s
  | recoveryApplyEnd => exact sound_recoveryApplyEnd s
  | liveUnitApplyEnd => exact sound_liveUnitApplyEnd s
  | jtagInstruction op => exact absurd rfl (hc op)

/-- A JTAG instruction is as sound, or its working is not described (R435). -/
theorem jtagInstruction_cases (op : JtagOp) (s : State) :
    Sound s (exec (.jtagInstruction op) s) ∨ exec (.jtagInstruction op) s = .fault (.undescribed 435) := by
  change Sound s (jtagInstruction op s) ∨ jtagInstruction op s = _
  unfold jtagInstruction
  cases op with
  | bypass | sample | idcode => exact .inl (sound_runDev _ s)
  | other n =>
    dsimp only
    split
    · exact .inl (.unpredictable 435)
    · exact .inr rfl

/-- Every command is sound, or a JTAG instruction that is not described. -/
theorem exec_cases (c : Instr) (s : State) :
    Sound s (exec c s) ∨ ∃ op, c = .jtagInstruction op ∧ exec c s = .fault (.undescribed 435) := by
  by_cases hc : ∃ op, c = .jtagInstruction op
  · obtain ⟨op, rfl⟩ := hc
    exact (jtagInstruction_cases op s).imp_right fun h => ⟨op, rfl, h⟩
  · exact .inl (sound_exec c s fun op h => hc ⟨op, h⟩)

/-- Settles O5: a sound outcome is a next state with the same queue or the fault of an unpredictable case; JTAG alone has another. -/
theorem commandsLeaveTheQueueAndAreNeverRefused : Obligations.commands_leave_the_queue_and_are_never_refused := by
  unfold Obligations.commands_leave_the_queue_and_are_never_refused
  intro c s
  obtain h | ⟨op, hop, h⟩ := exec_cases c s
  · generalize exec c s = o at h ⊢
    cases h with
    | next queue _ => exact ⟨fun _ e => (by cases e; exact queue), fun _ e => (by cases e), fun _ e => (by cases e)⟩
    | unpredictable n => exact ⟨fun _ e => (by cases e), fun _ e => (by cases e), fun _ e => (by cases e)⟩
  · rw [h]
    exact ⟨fun _ e => (by cases e), fun _ e => (by cases e), fun _ _ => ⟨op, hop⟩⟩

/-- A command that answers a next state keeps the memories canonical. -/
theorem exec_keeps_memOk {c : Instr} {s t : State} (hs : s.memOk) (h : exec c s = .next t) : t.memOk := by
  obtain hc | ⟨op, _, hc⟩ := exec_cases c s
  · exact hc.memOk h hs
  · rw [h] at hc
    cases hc

/-- A cycle of the clock leaves the memories as they are. -/
theorem tick_keeps_memOk {s t : State} (hs : s.memOk) (h : runDev Dev.tick s = .next t) : t.memOk :=
  (sound_runDev Dev.tick s).memOk h hs

/-- Settles O4: a step executes a command, or lets a cycle pass, which no memory feels. -/
theorem everyStepKeepsMemoryCanonical : Obligations.every_step_keeps_memory_canonical := by
  unfold Obligations.every_step_keeps_memory_canonical
  intro s t hs h
  unfold step at h
  split at h
  · exact tick_keeps_memOk hs h
  · next c rest _ => exact exec_keeps_memOk (s := { s with pending := rest }) hs h

end Sys2Proof.Machine
end

