-- ==== Sys2Proof/Proofs/NetworkTime.lean ====
section
open Sys2Proof Sys2Proof.Machine
namespace Sys2Proof.Machine

/-! Where a correction of network time does not set STEPPED (R289, R291). A step of the NTU repeats the ARMs that the device noted in
the cycle; each puts its element's status register back first. Registers are keyed by offset and element, and the key of an element
of 2^20 or more is also that of a register further on. A state whose note names such an element, which no run reaches, loses STEPPED. -/

/-- A carrier that no device has: the key of its CAR_CAL_STATUS is that of NTU_STATUS. -/
def strayCarrier : Nat := (R.NTU_STATUS - R.CAR_CAL_STATUS) * 2 ^ 20

/-- A running device past BOOT whose host has staged NTU_ADJ_HI, with the ARM of the stray carrier noted in this cycle. -/
def strayArm : State :=
  { dev := ({ life := { low := false, perstLow := false, wide := false, isOpen := true },
              staged := [(regKey R.NTU_ADJ_HI 0, some 0)],
              ntu := { arms := [(1, (strayCarrier, 2))] } } : Dev).fset F.GLB_STATE_DEV 0 2 }

/-- What NTU_STATUS.STEPPED reads in the next state of an outcome. -/
def steppedIn : Host.Outcome State Fault Refusal → Option Nat
  | .next u => some (u.dev.fget F.NTU_STATUS_STEPPED)
  | _ => none

/-- The correction by 2^-16 ns steps the NTU, and the repeated ARM takes STEPPED away. -/
theorem strayArm_loses_stepped : steppedIn (exec (.ntuCorrection .host 1) strayArm) = some 0 := by decide +kernel

/-- Refutes O38: in `strayArm` a correction within JUMP_LIMIT leaves STEPPED at 0. -/
theorem not_correctionsOfNetworkTime : ¬ Obligations.corrections_of_network_time := by
  unfold Obligations.corrections_of_network_time
  intro h
  have hc := (h strayArm .host 1 0).1 (by decide) (by decide) (by decide)
  obtain ⟨u, hu, -, -, -, -, -, stepped⟩ := hc.1 (by decide) (by decide)
  have lost := strayArm_loses_stepped
  rw [hu] at lost
  exact absurd (stepped.symm.trans (Option.some.inj lost)) (by decide)

end Sys2Proof.Machine
end

