-- ==== Sys2Proof/Proofs/RegisterFile.lean ====
section
open Sys2Proof Sys2Proof.Machine
namespace Sys2Proof.Machine

/-! Blocks of the register window -/

theorem blockIndex_mono {m n : Nat} (h : m ≤ n) : blockIndex m ≤ blockIndex n := by
  unfold blockIndex
  rw [← List.countP_eq_length_filter, ← List.countP_eq_length_filter]
  refine Nat.sub_le_sub_right (List.countP_mono_left fun x _ hx => ?_) 1
  simp only [decide_eq_true_eq] at hx ⊢
  exact hx.trans h

/-- An offset lies in its block's window: not below a base whose predecessor is in an earlier block, below one of a later block. -/
theorem bounds_of_blockIndex {off lo hi k : Nat} (h : blockIndex off = k) (hlo : blockIndex (lo - 1) < k) (hhi : k < blockIndex hi) :
    lo ≤ off ∧ off < hi := by
  constructor
  · by_contra hc
    have := blockIndex_mono (show off ≤ lo - 1 by omega)
    omega
  · by_contra hc
    have := blockIndex_mono (show hi ≤ off by omega)
    omega

/-- A register lies below the windows. -/
theorem findReg_lt {off : Nat} {row : RegRow} (h : findReg off = some row) : off < 0x3000000 := by
  by_contra hc
  have : blockRegs off = [] := by
    unfold blockRegs
    repeat rw [if_neg (by omega)]
  rw [findReg, this] at h
  cases h

/-- The row of a register stands in its block's map. -/
theorem findReg_mem {off : Nat} {row : RegRow} (h : findReg off = some row) : row ∈ blockRegs off := List.mem_of_find?_eq_some h

theorem blockRegs_hld {off : Nat} (h : blockIndex off = 1) : blockRegs off = regsHld := by
  obtain ⟨h₁, h₂⟩ := bounds_of_blockIndex (lo := 0x100000) (hi := 0x200000) h (by decide) (by decide)
  unfold blockRegs
  rw [if_neg (by omega), if_pos (by omega)]

theorem blockRegs_hdm {off : Nat} (h : blockIndex off = 3) : blockRegs off = regsHdm := by
  obtain ⟨h₁, h₂⟩ := bounds_of_blockIndex (lo := 0x300000) (hi := 0x400000) h (by decide) (by decide)
  unfold blockRegs
  iterate 3 rw [if_neg (by omega)]
  rw [if_pos (by omega)]

theorem blockRegs_xpf {off : Nat} (h : blockIndex off = 10) : blockRegs off = regsXpf := by
  obtain ⟨h₁, h₂⟩ := bounds_of_blockIndex (lo := 0x1800000) (hi := 0x1c00000) h (by decide) (by decide)
  unfold blockRegs
  iterate 10 rw [if_neg (by omega)]
  rw [if_pos (by omega)]

/-- A register of the loader's, the host's or the crosspoint's block has its row in one of three maps. -/
theorem row_mem_of_findReg {off : Nat} {row : RegRow} (hb : blockIndex off ∈ [1, 3, 10]) (h : findReg off = some row) :
    row ∈ regsHld ++ regsHdm ++ regsXpf := by
  have hm := findReg_mem h
  simp only [List.mem_cons, List.not_mem_nil, or_false] at hb
  obtain hb | hb | hb := hb
  · rw [blockRegs_hld hb] at hm
    simp [hm]
  · rw [blockRegs_hdm hb] at hm
    simp [hm]
  · rw [blockRegs_xpf hb] at hm
    simp [hm]

/-! What a write of these blocks does beside its bits: nothing -/

section
variable {off : Nat} (hb : blockIndex off ∈ [1, 3, 10])
include hb

theorem eq_false_of_plain {n : Nat} (hn : blockIndex n ∉ [1, 3, 10]) : (off = n) = False :=
  eq_false fun e => hn (e ▸ hb)

/-- An offset of these blocks is in no range whose ends lie in one other block. -/
theorem not_between_of_plain {m n k : Nat} (hm : blockIndex m = k) (hn : blockIndex n = k) (hk : k ∉ [1, 3, 10]) :
    ¬ (m ≤ off ∧ off ≤ n) := by
  rintro ⟨h₁, h₂⟩
  have h₁ := blockIndex_mono h₁
  have h₂ := blockIndex_mono h₂
  exact hk ((show blockIndex off = k by omega) ▸ hb)

theorem atTables_plain (b : Block) : b.atTables off = b := by
  unfold Block.atTables
  have h8 : blockIndex off ≠ 8 := fun e => absurd (e ▸ hb) (by decide)
  have h9 : blockIndex off ≠ 9 := fun e => absurd (e ▸ hb) (by decide)
  rw [if_neg h8, if_neg h9, if_neg (not_between_of_plain hb (k := 16) (by decide) (by decide) (by decide))]

theorem ignores_plain (d : Dev) (i : Nat) (v : Word) : d.ignores off i v = none := by
  have hgate : ¬ (R.TMG_GATE_ADMIN_LEN ≤ off ∧ off < R.TMG_GATE_CTRL) := fun h =>
    not_between_of_plain hb (m := R.TMG_GATE_ADMIN_LEN) (n := R.TMG_GATE_CTRL) (k := 11) (by decide) (by decide) (by decide)
      ⟨h.1, h.2.le⟩
  unfold Dev.ignores
  dsimp only
  rw [if_neg (not_between_of_plain hb (k := 5) (by decide) (by decide) (by decide)), if_neg hgate]
  simp (disch := decide) only [eq_false_of_plain hb, or_self, if_false]

theorem wholeWrite_plain (h : off ≠ R.HLD_CTRL) (d : Dev) (r : Req) (i : Nat) (v : Word) : d.wholeWrite r off i v = none := by
  unfold Dev.wholeWrite
  simp (disch := decide) only [eq_false_of_plain hb, h, if_false]

theorem preWrite_plain (h : off ≠ R.HDM_EVT_RATE) (d : Dev) (i : Nat) (v : Word) : d.preWrite off i v = d := by
  unfold Dev.preWrite
  simp (disch := decide) only [eq_false_of_plain hb, h, or_self, if_false, List.contains_eq_mem, List.mem_cons, List.not_mem_nil,
    decide_false, Bool.false_eq_true]

theorem hook_plain (b : Block) (r : Req) (old : Dev) (i : Nat) (v : Word) : b.hook r old off i v = b := by
  simp only [List.mem_cons, List.not_mem_nil, or_false] at hb
  unfold Block.hook
  obtain hb | hb | hb := hb <;> simp only [hb]

end

/-- A write of one of these registers, where it is reached, is its write as R10 states, once the frames that are due have begun. -/
theorem regWrite_plain {b : Block} {r : Req} {off : Nat} {row : RegRow} (v : Word) (ha : off % 4 = 0) (hr : b.dev.reachable off = true)
    (hrow : findReg off = some row) (hb : blockIndex off ∈ [1, 3, 10]) (hc : off ≠ R.HLD_CTRL) (he : off ≠ R.HDM_EVT_RATE) :
    b.regWrite r off v = b.on (fun d => d.beginAll.pairWrite row (reqIdx r) off (d.beginAll.instOf (reqIdx r) off row.kind) v) := by
  have hlt := findReg_lt hrow
  have halarm : off ≠ R.ERR_ALARM := fun e => absurd (e ▸ hb) (by decide)
  unfold Block.regWrite
  rw [if_neg (by omega), if_neg (by simp [hr]), if_neg (by omega)]
  simp only [hrow, atTables_plain hb, ignores_plain hb, wholeWrite_plain hb hc, preWrite_plain hb he, hook_plain hb, halarm, if_false,
    ite_self]
  rfl

/-! Numbers of elements -/

theorem reqIdx_lt (r : Req) : reqIdx r < 2 ^ 20 := by
  cases r with
  | host | loader => decide
  | peer d =>
    have := d.isLt
    simp only [reqIdx]
    omega
  | thread n =>
    have := n.isLt
    simp only [reqIdx]
    omega

theorem sliceSel_lt (d : Dev) (q off : Nat) : d.sliceSel q off < 2 ^ 4 := by
  unfold Dev.sliceSel
  split <;> exact Dev.fget_lt d _ q

/-- The kinds of the loader's, the host's and the crosspoint's registers. -/
def plainKinds : List Kind := [.dev, .req, .dmaq, .ring, .slice, .xp]

/-- The element that a requester's selects choose has a number that a register's key can hold. -/
theorem instOf_lt (d : Dev) (r : Req) (off : Nat) {k : Kind} (hk : k ∈ plainKinds) : d.instOf (reqIdx r) off k < 2 ^ 20 := by
  have hs := sliceSel_lt d (reqIdx r) off
  have hq := Dev.fget_lt d F.HDM_Q_IDX_QUEUE (reqIdx r)
  have hr := Dev.fget_lt d F.HDM_RING_IDX_RING (reqIdx r)
  have hx := Dev.fget_lt d F.XPF_XP_IDX_INGRESS (reqIdx r)
  simp only [plainKinds, List.mem_cons, List.not_mem_nil, or_false] at hk
  obtain rfl | rfl | rfl | rfl | rfl | rfl := hk
  · exact Nat.two_pow_pos 20
  · exact reqIdx_lt r
  · simp only [Dev.instOf] at hq ⊢
    omega
  · simp only [Dev.instOf] at hr ⊢
    omega
  · simp only [Dev.instOf]
    omega
  · simp only [Dev.instOf] at hx ⊢
    omega

/-! Fields of a row -/

/-- Fields that lie in a word, no two at one bit. -/
abbrev FieldsApart (l : List RegField) : Prop :=
  l.Pairwise (fun f g => f.lo + f.w ≤ g.lo ∨ g.lo + g.w ≤ f.lo) ∧ ∀ f ∈ l, f.lo + f.w ≤ 32

theorem plain_rows_apart : ∀ row ∈ regsHld ++ regsHdm ++ regsXpf, FieldsApart row.fields ∧ row.kind ∈ plainKinds := by decide

/-- What a write of a word over another puts into the number so far. -/
def RegField.put (opn : Bool) (old v : Nat) (a : Nat) (f : RegField) : Nat :=
  match f.taken opn old v with
  | some x => setBits a f.lo f.w x
  | none => a

theorem RegRow.merge_eq (r : RegRow) (opn : Bool) (old v : Word) :
    r.merge opn old v = BitVec.ofNat 32 (r.fields.foldl (RegField.put opn old.toNat v.toNat) old.toNat) := rfl

theorem RegField.put_lt {opn : Bool} {old v a : Nat} {f : RegField} (ha : a < 2 ^ 32) (hf : f.lo + f.w ≤ 32) :
    f.put opn old v a < 2 ^ 32 := by
  unfold RegField.put
  split
  · exact setBits_lt ha hf
  · exact ha

/-- A field beside another keeps its bits. -/
theorem RegField.bits_put_beside {opn : Bool} {old v a : Nat} {f g : RegField} (h : f.lo + f.w ≤ g.lo ∨ g.lo + g.w ≤ f.lo) :
    bits (f.put opn old v a) g.lo g.w = bits a g.lo g.w := by
  unfold RegField.put
  split
  · exact h.elim (bits_setBits_high _ _ _ _ _ _) (bits_setBits_low _ _ _ _ _ _)
  · rfl

/-- A field's own bits are those it takes, which fit it. -/
theorem RegField.bits_put (opn : Bool) (old v a : Nat) (f : RegField) :
    bits (f.put opn old v a) f.lo f.w = (f.taken opn old v).getD (bits a f.lo f.w) := by
  unfold RegField.put
  split
  · next x hx =>
    have hlt : x < 2 ^ f.w := by
      unfold RegField.taken at hx
      split at hx
      · cases hx
        exact bits_lt ..
      · split at hx <;> cases hx
        exact bits_lt ..
      · cases hx
        exact Nat.and_le_left.trans_lt (bits_lt ..)
      all_goals cases hx
    simp [hx, Nat.mod_eq_of_lt hlt]
  · next hx => simp [hx]

section
variable {opn : Bool} {old v : Nat}

theorem foldl_put_lt {l : List RegField} {a : Nat} (hl : ∀ f ∈ l, f.lo + f.w ≤ 32) (ha : a < 2 ^ 32) :
    l.foldl (RegField.put opn old v) a < 2 ^ 32 :=
  List.foldlRecOn (motive := fun a => a < 2 ^ 32) l _ ha fun _ ha f hf => RegField.put_lt ha (hl f hf)

/-- Fields beside one leave its bits. -/
theorem bits_foldl_put_beside {l : List RegField} {g : RegField} (hl : ∀ f ∈ l, f.lo + f.w ≤ g.lo ∨ g.lo + g.w ≤ f.lo) (a : Nat) :
    bits (l.foldl (RegField.put opn old v) a) g.lo g.w = bits a g.lo g.w :=
  List.foldlRecOn (motive := fun x => bits x g.lo g.w = bits a g.lo g.w) l _ rfl fun _ ha f hf =>
    (RegField.bits_put_beside (hl f hf)).trans ha

/-- Of fields that lie apart each has the bits that it takes, or keeps its own. -/
theorem bits_foldl_put {l : List RegField} (hl : FieldsApart l) {f : RegField} (hf : f ∈ l) (a : Nat) :
    bits (l.foldl (RegField.put opn old v) a) f.lo f.w = (f.taken opn old v).getD (bits a f.lo f.w) := by
  obtain ⟨hapart, hin⟩ := hl
  induction l generalizing a with
  | nil => cases hf
  | cons g l ih =>
    obtain ⟨hg, hl⟩ := List.pairwise_cons.1 hapart
    rw [List.foldl_cons]
    obtain rfl | hf := List.mem_cons.1 hf
    · rw [bits_foldl_put_beside (fun x hx => (hg x hx).symm), RegField.bits_put]
    · rw [ih hf _ hl fun x hx => hin x (List.mem_cons_of_mem _ hx), RegField.bits_put_beside (hg f hf)]

end

/-- A field of a written register reads what its access code lets it take, or as before. -/
theorem bits_merge {row : RegRow} (h : FieldsApart row.fields) (opn : Bool) (old v : Word) {f : RegField} (hf : f ∈ row.fields) :
    bits (row.merge opn old v).toNat f.lo f.w = (f.taken opn old.toNat v.toNat).getD (bits old.toNat f.lo f.w) := by
  rw [RegRow.merge_eq, BitVec.toNat_ofNat, Nat.mod_eq_of_lt (foldl_put_lt h.2 old.isLt), bits_foldl_put h hf]

/-- A register of one field, all its bits writable, takes the word. -/
theorem merge_full {row : RegRow} {n : Nat} (h : row.fields = [⟨0, 32, .rw, n⟩]) (opn : Bool) (old v : Word) :
    row.merge opn old v = v := by
  have ha : FieldsApart row.fields := by
    rw [h]
    simp [FieldsApart]
  have hb := bits_merge ha opn old v (f := ⟨0, 32, .rw, n⟩) (by simp [h])
  simp only [RegField.taken, Option.getD_some, bits, Nat.pow_zero, Nat.div_one] at hb
  exact BitVec.eq_of_toNat_eq (by have := v.isLt; have := (row.merge opn old v).isLt; omega)

/-! Frames -/

/-- A device with one register written differs in that register alone. -/
theorem onlyRegs_rset (d : Dev) (off : Nat) {i : Nat} (v : Word) (hi : i < 2 ^ 20) : d.onlyRegs (d.rset off i v) [(off, i)] := by
  refine ⟨rfl, fun off' i' hi' hne => Dev.rget_rset_other d v hi hi' ?_⟩
  simp only [List.mem_singleton, Prod.mk.injEq] at hne
  tauto

end Sys2Proof.Machine
end

