-- ==== Sys2Proof/Proofs/RegisterWrites.lean ====
section
open Sys2Proof Sys2Proof.Machine
namespace Sys2Proof.Machine

/-- A register write that names no unpredictable case answers the state after the write. -/
theorem gives_registerWrite {s : State} {r : Req} {off : Nat} {v : Word} {p : State → Prop} (h0 : s.dev.noPass = true)
    (hm : s.dev.misuse (reqIdx r) off (some v) = none) (hp : p (s.withBlk (s.blk.regWrite r off v))) :
    Gives (.registerWrite r off v) s p := ⟨_, writeCmd_ok h0 hm, rfl, hp⟩

/-- A register that is no half of a pair is written field by field. -/
theorem pairWrite_single {row : RegRow} {off : Nat} (hhi : isHi off = false) (hlo : isLo off = false) (d : Dev) (q i : Nat) (v : Word) :
    d.pairWrite row q off i v = d.putReg row off i v := by
  simp only [Dev.pairWrite, hhi, hlo, Bool.false_eq_true, if_false]

/-- What a field of a register reads after the register's write. -/
theorem bits_putReg {row : RegRow} (h : FieldsApart row.fields) (d : Dev) (off i : Nat) (v : Word) {f : RegField} (hf : f ∈ row.fields) :
    bits ((d.putReg row off i v).rget off i).toNat f.lo f.w =
      (f.taken (d.rwsOpen off i) (d.rget off i).toNat v.toNat).getD (bits (d.rget off i).toNat f.lo f.w) := by
  rw [Dev.putReg, Dev.rget_rset, bits_merge h _ _ _ hf]

/-- A structure-locked field takes a write while it is open (R13). -/
theorem getD_taken_rws (opn : Bool) (old v lo w reset : Nat) :
    ((⟨lo, w, .rws, reset⟩ : RegField).taken opn old v).getD (bits old lo w) = if opn then bits v lo w else bits old lo w := by
  cases opn <;> rfl

/-- A counter below its maximum goes up, and nothing else changes. -/
theorem counted_cnt {d : Dev} {f : Fld} {i : Nat} (h : d.canCount f i) (hf : f.lo + f.w ≤ 32) (hi : i < 2 ^ 20) :
    d.counted (d.cnt f i) f i := by
  rw [Dev.cnt_below d f i 1 h]
  exact ⟨by rw [Dev.fget_fset d f i _ hf, Nat.mod_eq_of_lt h], onlyRegs_rset d f.off _ hi⟩

theorem running_of_readable {d : Dev} {off : Nat} (h : d.readable off = true) : d.running = true := by
  simp only [Dev.readable, Bool.and_eq_true] at h
  exact h.1

/-- An access of a wrong alignment names no unpredictable case. -/
theorem misuse_misaligned {d : Dev} {off : Nat} (h : off % 4 ≠ 0) (q : Nat) (v : Option Word) : d.misuse q off v = none := by
  unfold Dev.misuse
  rw [if_pos (.inl h)]

/-- Nor does a write of a block that is not open. -/
theorem misuse_closed {d : Dev} {off : Nat} (h : d.reachable off = false) (q : Nat) (v : Word) : d.misuse q off (some v) = none := by
  unfold Dev.misuse
  rw [if_pos (.inr (by simp [h]))]

theorem regWrite_misaligned {b : Block} {off : Nat} (h : off % 4 ≠ 0) (hrun : b.dev.running = true) (r : Req) (v : Word) :
    b.regWrite r off v = b.on (fun d => d.cnt F.HDM_BAD_ACCESS_COUNT) := by
  unfold Block.regWrite
  rw [if_pos h]
  simp only [Block.on, Dev.badAccess, hrun, if_true]

theorem regWrite_closed {b : Block} {off : Nat} (ha : off % 4 = 0) (h : b.dev.reachable off = false) (r : Req) (v : Word) :
    b.regWrite r off v = b := by
  unfold Block.regWrite
  rw [if_neg (by omega), if_pos (by simp [h])]

/-- Settles O6: a register of these blocks is written field by field once the frames that are due have begun; a write of a wrong
alignment counts, one of a closed block does nothing. -/
theorem registerWritesFollowAccessCodes : Obligations.register_writes_follow_access_codes := by
  unfold Obligations.register_writes_follow_access_codes
  intro s r off v row hpass hreach
  refine ⟨fun hrow ha hb hc he hhi hlo hm => ?_, fun ha hcount => ?_, fun off' ha hclosed => ?_⟩
  · obtain ⟨hapart, hkind⟩ := plain_rows_apart row (row_mem_of_findReg hb hrow)
    refine gives_registerWrite hpass hm ?_
    rw [regWrite_plain v ha hreach hrow hb hc he]
    simp only [pairWrite_single hhi hlo]
    refine ⟨rfl, onlyRegs_rset _ _ _ (instOf_lt _ r off hkind), fun f hf => (bits_putReg hapart _ off _ v hf).trans ?_⟩
    obtain ⟨lo, w, acc, reset⟩ := f
    cases acc with
    | rws => exact getD_taken_rws _ _ _ lo w reset
    | rw | ro | wo | w1c | rc => rfl
  · obtain ⟨hcnt, honly⟩ := counted_cnt hcount (by decide) (by decide)
    refine gives_registerWrite hpass (misuse_misaligned ha _ _) ?_
    rw [regWrite_misaligned (b := s.blk) ha (running_of_readable (reachable_readable hreach))]
    exact ⟨rfl, honly, hcnt⟩
  · refine (writeCmd_ok hpass (misuse_closed hclosed _ v)).trans ?_
    rw [regWrite_closed (b := s.blk) ha hclosed]
    rfl

end Sys2Proof.Machine
end

