-- ==== Sys2Proof/Proofs/RegisterPairs.lean ====
section
open Sys2Proof Sys2Proof.Machine
namespace Sys2Proof.Machine

/-! Writes that name no unpredictable case -/

/-- The registers of chapters 3, 4, 11 and 19 whose values have a range. -/
def rangedPorts : List Nat := [
  R.GLB_CLUSTER_HOLD, R.GLB_TEMP_WARN, R.HDM_Q_CFG, R.HDM_RING_CFG, R.HDM_Q_TAIL, R.HDM_EVT_RATE, R.PRT_MAC_CFG, R.PRT_RX_CAP,
  R.CAR_HOLD_CFG, R.CAR_RC_CFG, R.CAR_RC_LEAD, R.CAR_RC_ADVANCE, R.CAR_RC_CTRL, R.TEM_GAP_WAIT, R.TEM_TEAM_SKEW]

theorem badPorts_unranged {off : Nat} (h : off ∉ rangedPorts) (d : Dev) (i : Nat) (v : Word) : badPorts d off i v = none := by
  simp only [rangedPorts, List.mem_cons, List.not_mem_nil, or_false, not_or] at h
  simp only [badPorts, h, if_false]

theorem badValue_host {off : Nat} (hb : blockIndex off ∈ [1, 3]) (d : Dev) (q i : Nat) (v : Word) :
    badValue d q off i v = badPorts d off i v := by
  simp only [List.mem_cons, List.not_mem_nil, or_false] at hb
  unfold badValue
  obtain hb | hb := hb <;> simp only [hb]

/-- No slice has structure-locked registers of its own in these blocks (R13). -/
theorem rwsSlice_plain {off : Nat} (hb : blockIndex off ∈ [1, 3, 10]) (i : Nat) : rwsSlice off i = none := by
  have hdef : ¬ (R.SLC_DEFACT ≤ off ∧ off < R.SLC_DEFACT + 32) := fun h =>
    not_between_of_plain hb (m := R.SLC_DEFACT) (n := R.SLC_DEFACT + 32) (k := 7) (by decide) (by decide) (by decide) ⟨h.1, h.2.le⟩
  have hkey : ¬ (R.CLS_KEY_EXT ≤ off ∧ off < R.CLS_KEY_EXT + 64) := fun h =>
    not_between_of_plain hb (m := R.CLS_KEY_EXT) (n := R.CLS_KEY_EXT + 64) (k := 7) (by decide) (by decide) (by decide) ⟨h.1, h.2.le⟩
  unfold rwsSlice
  simp (disch := decide) only [eq_false_of_plain hb, if_false, List.contains_eq_mem, List.mem_cons, List.not_mem_nil, or_self,
    decide_false, Bool.false_or, Bool.or_eq_true, Bool.and_eq_true, decide_eq_true_eq, hdef, hkey]

theorem plain_of_host {off : Nat} (hb : blockIndex off ∈ [1, 3]) : blockIndex off ∈ [1, 3, 10] := by
  simp only [List.mem_cons, List.not_mem_nil, or_false] at hb ⊢
  tauto

/-- A write of a register of the loader's or the host's block names a case that is unpredictable by its element or its value alone. -/
theorem misuse_host {d : Dev} {q off : Nat} {row : RegRow} {v : Word} (hb : blockIndex off ∈ [1, 3]) (hrow : findReg off = some row)
    (hsel : badSelect d row.kind (d.instOf q off row.kind) = none) (hv : badPorts d off (d.instOf q off row.kind) v = none) :
    d.misuse q off (some v) = none := by
  have hlt := findReg_lt hrow
  have hlive : d.badLive row off (d.instOf q off row.kind) = false := by
    unfold Dev.badLive
    simp only [rwsSlice_plain (plain_of_host hb)]
  unfold Dev.misuse
  rw [if_neg (show ¬ 0x3000000 ≤ off by omega)]
  simp only [hrow, hsel, hlive, badValue_host hb, hv, Bool.false_eq_true, if_false, ite_self]

/-- A register of the loader's or the host's block that a requester reaches is written once the frames that are due have begun. -/
theorem gives_hostWrite {s : State} {r : Req} {off e : Nat} {row : RegRow} {v : Word} {p : State → Prop} (hb : blockIndex off ∈ [1, 3])
    (ha : off % 4 = 0) (hc : off ≠ R.HLD_CTRL) (he : off ≠ R.HDM_EVT_RATE) (hrow : findReg off = some row)
    (h : s.reaches r off row.kind e) (hi : s.dev.beginAll.instOf (reqIdx r) off row.kind = e) (hv : badPorts s.dev off e v = none)
    (hp : p { s with dev := s.dev.beginAll.pairWrite row (reqIdx r) off e v }) : Gives (.registerWrite r off v) s p := by
  obtain ⟨hpass, hreach, hinst, hsel⟩ := h
  refine gives_registerWrite hpass (misuse_host hb hrow (hinst.symm ▸ hsel) (hinst.symm ▸ hv)) ?_
  rw [regWrite_plain (b := s.blk) v ha hreach hrow (plain_of_host hb) hc he]
  subst hi
  exact hp

/-! Halves of pairs -/

@[simp] theorem Dev.stagedOf_setStaged (d : Dev) (q off : Nat) (v : Option Word) : (d.setStaged q off v).stagedOf q off = v :=
  Sparse.get_set_same none d.staged (regKey off q) v

/-- The row of a register that is one writable word. -/
def wordRow (off : Nat) (k : Kind) : RegRow := ⟨off, 1, k, [⟨0, 32, .rw, 0⟩]⟩

theorem putReg_word (d : Dev) (off : Nat) (k : Kind) (i : Nat) (v : Word) (a : Nat) : d.putReg (wordRow off k) a i v = d.rset a i v := by
  rw [Dev.putReg, merge_full (n := 0) rfl]

/-- A pair of writable words of the loader's or the host's block. -/
abbrev WordPair (a : Nat) (k : Kind) : Prop :=
  findReg a = some (wordRow a k) ∧ findReg (a + 4) = some (wordRow (a + 4) k) ∧ isLo a = true ∧ isHi a = false ∧ isHi (a + 4) = true

/-- Where the halves of a pair stand: they are written by no operation of their own. -/
abbrev PlainHalf (off : Nat) : Prop :=
  off % 4 = 0 ∧ blockIndex off ∈ [1, 3] ∧ off ≠ R.HLD_CTRL ∧ off ≠ R.HDM_EVT_RATE ∧ off ∉ rangedPorts

theorem address_pairs : ∀ p ∈ [(R.HLD_SRC_ADDR_LO, Kind.dev), (R.HDM_RING_BASE_LO, Kind.ring), (R.HDM_RING_WB_LO, Kind.ring)],
    WordPair p.1 p.2 ∧ PlainHalf p.1 ∧ PlainHalf (p.1 + 4) ∧ blockIndex (p.1 + 4) = blockIndex p.1 ∧
      p.2 ∈ [Kind.dev, Kind.ring] := by
  decide

section
variable {a : Nat} {k : Kind} (h : WordPair a k)
include h

/-- A _HI write is staged. -/
theorem pairWrite_hi (d : Dev) (q i : Nat) (v : Word) :
    d.pairWrite (wordRow (a + 4) k) q (a + 4) i v = d.setStaged q (a + 4) (some v) := by
  obtain ⟨-, -, -, -, hhi⟩ := h
  simp only [Dev.pairWrite, hhi, if_true]
  rfl

/-- A _LO write with a staged copy writes both halves and uses the copy up. -/
theorem pairWrite_lo_staged {d : Dev} {q : Nat} {w : Word} (hw : d.stagedOf q (a + 4) = some w) (i : Nat) (v : Word) :
    d.pairWrite (wordRow a k) q a i v = ((d.rset (a + 4) i w).setStaged q (a + 4) none).rset a i v := by
  obtain ⟨-, hrow, hlo, hhi, -⟩ := h
  simp only [Dev.pairWrite, hhi, hlo, hw, hrow, putReg_word, Bool.false_eq_true, if_false, if_true]
  rfl

/-- A _LO write without a staged copy writes the low half. -/
theorem pairWrite_lo_unstaged {d : Dev} {q : Nat} (hw : d.stagedOf q (a + 4) = none) (i : Nat) (v : Word) :
    d.pairWrite (wordRow a k) q a i v = d.rset a i v := by
  obtain ⟨-, -, hlo, hhi, -⟩ := h
  simp only [Dev.pairWrite, hhi, hlo, hw, putReg_word, Bool.false_eq_true, if_false, if_true]
  rfl

end

/-- Both halves read as written, the copy is gone, every other register stands. -/
theorem both_halves_written (d : Dev) (q a : Nat) {i : Nat} (v w : Word) (hi : i < 2 ^ 20) :
    let u := ((d.rset (a + 4) i w).setStaged q (a + 4) none).rset a i v
    u.rget a i = v ∧ u.rget (a + 4) i = w ∧ u.stagedOf q (a + 4) = none ∧ d.regsBut u [(a, i), (a + 4, i)] := by
  refine ⟨Dev.rget_rset .., ?_, Dev.stagedOf_setStaged (d.rset (a + 4) i w) q (a + 4) none, fun off' i' hi' hne => ?_⟩
  · exact (Dev.rget_rset_other _ v hi hi (.inl (by omega))).trans (Dev.rget_rset d (a + 4) i w)
  · simp only [List.mem_cons, List.not_mem_nil, or_false, Prod.mk.injEq, not_or] at hne
    obtain ⟨h₁, h₂⟩ := hne
    exact (Dev.rget_rset_other _ v hi hi' (by tauto)).trans (Dev.rget_rset_other d w hi hi' (by tauto))

/-- The device and a ring have the same number at both halves of a pair. -/
theorem instOf_hi {k : Kind} (hk : k ∈ [Kind.dev, Kind.ring]) (d : Dev) (q a : Nat) : d.instOf q (a + 4) k = d.instOf q a k := by
  simp only [List.mem_cons, List.not_mem_nil, or_false] at hk
  obtain rfl | rfl := hk <;> rfl

/-- A requester that reaches the low half of a pair of the device or of a ring reaches the high half. -/
theorem reaches_hi {s : State} {r : Req} {a e : Nat} {k : Kind} (h : s.reaches r a k e) (hp : WordPair a k)
    (hb : blockIndex (a + 4) = blockIndex a) (hk : k ∈ [Kind.dev, Kind.ring]) : s.reaches r (a + 4) k e := by
  obtain ⟨hpass, hreach, hinst, hsel⟩ := h
  have hreach' : s.dev.reachable (a + 4) = s.dev.reachable a := by
    simp only [Dev.reachable, Dev.readable, hb, findReg_lt hp.1, findReg_lt hp.2.1]
  exact ⟨hpass, hreach'.trans hreach, (instOf_hi hk ..).trans hinst, hsel⟩

/-! Indices -/

/-- The row of a register that is one number from bit 0 on. -/
def indexRow (f : Fld) (k : Kind) : RegRow := ⟨f.off, 1, k, [⟨0, f.w, .rw, 0⟩]⟩

/-- An index register of the loader's or the host's block, written by no operation of its own. -/
abbrev IndexReg (f : Fld) (k : Kind) : Prop :=
  findReg f.off = some (indexRow f k) ∧ f.lo = 0 ∧ f.w ≤ 32 ∧ k ∈ plainKinds ∧ f.off % 4 = 0 ∧ blockIndex f.off ∈ [1, 3] ∧
  f.off ≠ R.HLD_CTRL ∧ f.off ≠ R.HDM_EVT_RATE ∧ isHi f.off = false ∧ isLo f.off = false

/-- An index takes a number that fits. -/
theorem fget_putReg_index {f : Fld} (hlo : f.lo = 0) (hw : f.w ≤ 32) (d : Dev) (k : Kind) (i : Nat) {v : Word} (hv : v.toNat < 2 ^ f.w) :
    (d.putReg (indexRow f k) f.off i v).fget f i = v.toNat := by
  have hapart : FieldsApart (indexRow f k).fields := by simpa [FieldsApart, indexRow] using hw
  have hb := bits_putReg hapart d f.off i v (f := ⟨0, f.w, .rw, 0⟩) (List.mem_singleton.2 rfl)
  simp only [RegField.taken, Option.getD_some] at hb
  rw [Dev.fget, hlo, hb]
  simp [bits, Nat.mod_eq_of_lt hv]

/-- The write of an index register that a requester reaches sets the index and nothing else. -/
theorem gives_indexWrite {s : State} {r : Req} {f : Fld} {k : Kind} {e : Nat} {v : Word} (hf : IndexReg f k) (h : s.reaches r f.off k e)
    (hi : s.dev.beginAll.instOf (reqIdx r) f.off k = e) (hbad : badPorts s.dev f.off e v = none) (hv : v.toNat < 2 ^ f.w) :
    Gives (.registerWrite r f.off v) s fun u => u.mem = s.mem ∧ u.dev.fget f e = v.toNat ∧
      s.dev.beginAll.onlyRegs u.dev [(f.off, e)] := by
  obtain ⟨hrow, hlo, hw, hk, ha, hb, hc, he, hhi', hlo'⟩ := hf
  refine gives_hostWrite hb ha hc he hrow h hi hbad ?_
  rw [pairWrite_single hhi' hlo']
  exact ⟨rfl, fget_putReg_index hlo hw _ k e hv, onlyRegs_rset _ _ _ (hi ▸ instOf_lt _ r f.off hk)⟩

/-- An index inside a queue's ring is no misuse (R413). -/
theorem badPorts_tail {d : Dev} {i : Nat} {v : Word} (h : fv v F.HDM_Q_TAIL_INDEX < 2 ^ d.fget F.HDM_Q_CFG_SIZE i) :
    badPorts d R.HDM_Q_TAIL i v = none := by
  have hno : decide (2 ^ d.fget F.HDM_Q_CFG_SIZE i ≤ fv v F.HDM_Q_TAIL_INDEX) = false := decide_eq_false (Nat.not_le.2 h)
  simp only [badPorts, hno]
  rfl

/-- Settles O8: a _HI write is staged, a _LO write commits what is staged, an index is one write. -/
theorem pairsCommitBothHalves : Obligations.pairs_commit_both_halves := by
  unfold Obligations.pairs_commit_both_halves
  intro s r v w e q d
  refine ⟨fun a k hak hreach hinst => ?_, fun n hreach hinst hn => ?_, fun n hreach hinst => ?_⟩
  · have hp : WordPair a k ∧ PlainHalf a ∧ PlainHalf (a + 4) ∧ blockIndex (a + 4) = blockIndex a ∧ k ∈ [Kind.dev, Kind.ring] :=
      address_pairs _ hak
    obtain ⟨hpair, ⟨ha, hb, hc, he, hv⟩, ⟨ha', hb', hc', he', hv'⟩, hblk, hk⟩ := hp
    have hlt : e < 2 ^ 20 := hinst ▸ instOf_lt d r a ((show [Kind.dev, Kind.ring] ⊆ plainKinds by decide) hk)
    refine ⟨?_, fun hw => ?_, fun hw => ?_⟩
    · refine gives_hostWrite hb' ha' hc' he' hpair.2.1 (reaches_hi hreach hpair hblk hk) ((instOf_hi hk ..).trans hinst)
        (badPorts_unranged hv' ..) ?_
      rw [pairWrite_hi hpair]
      exact ⟨rfl, rfl, Dev.stagedOf_setStaged ..⟩
    · refine gives_hostWrite hb ha hc he hpair.1 hreach hinst (badPorts_unranged hv ..) ?_
      rw [pairWrite_lo_staged hpair hw]
      exact ⟨rfl, both_halves_written d q a v w hlt⟩
    · refine gives_hostWrite hb ha hc he hpair.1 hreach hinst (badPorts_unranged hv ..) ?_
      rw [pairWrite_lo_unstaged hpair hw]
      exact ⟨rfl, Dev.rget_rset .., onlyRegs_rset d a v hlt⟩
  · have hv : (n.zeroExtend 32).toNat = n.toNat  := BitVec.toNat_setWidth_of_le (by decide)
    have hfit : fv (n.zeroExtend 32) F.HDM_Q_TAIL_INDEX < 2 ^ s.dev.fget F.HDM_Q_CFG_SIZE e := by
      refine lt_of_le_of_lt ?_ hn
      rw [fv, hv]
      simpa [bits] using Nat.mod_le n.toNat 256
    exact hv ▸ gives_indexWrite (f := F.HDM_Q_TAIL_INDEX) (by decide) hreach hinst (badPorts_tail hfit) (hv ▸ n.isLt)
  · have hv : (n.zeroExtend 32).toNat = n.toNat  := BitVec.toNat_setWidth_of_le (by decide)
    exact hv ▸ gives_indexWrite (f := F.HDM_RING_HEAD_INDEX) (by decide) hreach hinst (badPorts_unranged (by decide) ..) (hv ▸ n.isLt)

end Sys2Proof.Machine
end

