-- ==== Sys2Proof/Proofs/RegisterReads.lean ====
section
open Sys2Proof Sys2Proof.Machine
namespace Sys2Proof.Machine

/-! What a read goes through -/

/-- A read that names no unpredictable case answers its requester with what the register read gives. -/
theorem gives_registerRead {c : Instr} {s : State} {r : Req} {off : Nat} {p : State → Prop} (hc : exec c s = readCmd r off s)
    (h0 : s.dev.noPass = true) (hm : s.dev.misuse (reqIdx r) off none = none) {w : Word} {d : Dev} {m : Mem}
    (hx : s.blk.regRead (reqIdx r) off = (w, ⟨d, m⟩)) (hp : p { s with dev := d.answer (reqIdx r) w, mem := m }) : Gives c s p := by
  refine ⟨_, hc.trans (readCmd_ok h0 hm), rfl, ?_⟩
  rw [hx]
  exact hp

/-- A read of a register names no unpredictable case where its element exists. -/
theorem misuse_read {d : Dev} {q off : Nat} {row : RegRow} (hrow : findReg off = some row)
    (hsel : badSelect d row.kind (d.instOf q off row.kind) = none) : d.misuse q off none = none := by
  have hlt := findReg_lt hrow
  unfold Dev.misuse
  rw [if_neg (show ¬ 0x3000000 ≤ off by omega)]
  simp only [hrow, hsel, ite_self]

theorem misuse_read_closed {d : Dev} {off : Nat} (h : d.readable off = false) (q : Nat) : d.misuse q off none = none := by
  unfold Dev.misuse
  rw [if_pos (.inr (by simp [h]))]

/-- A read of a closed block answers 0. -/
theorem regRead_closed {b : Block} {off : Nat} (ha : off % 4 = 0) (h : b.dev.readable off = false) (q : Nat) :
    b.regRead q off = (0, ⟨b.dev, b.mem⟩) := by
  unfold Block.regRead
  rw [if_neg (by omega), if_pos (by simp [h])]

/-- The registers whose read is an operation of its own. -/
def askedRegs : List Nat :=
  [R.CAR_CAL_ENTRY, R.CAR_MF_NEXT_NS, R.CAR_RC_TSW_NS, R.CLS_RULES, R.NTU_NOW_NS, R.NTU_CAP_NS]

/-- Any other register is read by `readReg`, with the tables and the lines up to date. -/
theorem regRead_row {s : Block} {q off : Nat} {row : RegRow} (ha : off % 4 = 0) (hr : s.dev.readable off = true)
    (hrow : findReg off = some row) (hn : off ∉ askedRegs) :
    let b := (s.atTables off).on Dev.beginAll
    let x := b.dev.readReg row q off (b.dev.instOf q off row.kind)
    s.regRead q off = (x.1, ⟨x.2, b.mem⟩) := by
  have hlt := findReg_lt hrow
  simp only [askedRegs, List.mem_cons, List.not_mem_nil, or_false, not_or] at hn
  unfold Block.regRead
  rw [if_neg (by omega), if_neg (by simp [hr]), if_neg (by omega)]
  simp only [hrow, hn, if_false]

/-! The loader's and the host's registers -/

section
variable {off : Nat} (hb : blockIndex off ∈ [1, 3])
include hb

theorem view_host (d : Dev) (q i : Nat) : d.view q off i = d.rget off i := by
  simp only [List.mem_cons, List.not_mem_nil, or_false] at hb
  unfold Dev.view
  obtain hb | hb := hb <;> simp only [hb]

theorem eq_false_of_host {n : Nat} (hn : blockIndex n ∉ [1, 3]) : (off = n) = False := eq_false fun e => hn (e ▸ hb)

theorem not_asked_of_host : off ∉ askedRegs := by
  simp (disch := decide) only [askedRegs, List.mem_cons, List.not_mem_nil, eq_false_of_host hb, or_self, not_false_eq_true]

theorem preRead_host (d : Dev) (i : Nat) : d.preRead off i = d := by
  unfold Dev.preRead
  simp (disch := decide) only [eq_false_of_host hb, or_self, if_false,
    not_between_of_plain (plain_of_host hb) (m := R.PMU_THR_SLOTS_LO) (n := R.PMU_THR_INACTIVE_HI) (k := 17)]

theorem freeRead_host (d : Dev) (i : Nat) (v : Word) : d.freeRead off i v = none := by
  unfold Dev.freeRead
  simp (disch := decide) only [eq_false_of_host hb, or_self, if_false]

theorem clearRc_host (d : Dev) (row : RegRow) (i : Nat) :
    d.clearRc row off i = if row.accMask (fun a => a == .rc) = 0 then d
      else d.rset off i (d.rget off i &&& ~~~(BitVec.ofNat 32 (row.accMask (fun a => a == .rc)))) := by
  unfold Dev.clearRc
  simp (disch := decide) only [eq_false_of_host hb, if_false]

/-- A register after its rc fields were cleared (R8). -/
theorem rget_clearRc (d : Dev) (row : RegRow) (i : Nat) :
    (d.clearRc row off i).rget off i = d.rget off i &&& ~~~(BitVec.ofNat 32 (row.accMask (fun a => a == .rc))) := by
  rw [clearRc_host hb]
  split
  · next h =>
    rw [h]
    exact (BitVec.and_allOnes).symm
  · exact Dev.rget_rset ..

/-- Clearing rc fields changes registers alone, and of them one. -/
theorem clearRc_frame (d : Dev) (row : RegRow) {i : Nat} (hi : i < 2 ^ 20) : d.onlyRegs (d.clearRc row off i) [(off, i)] := by
  rw [clearRc_host hb]
  split
  · exact ⟨rfl, fun _ _ _ _ => rfl⟩
  · exact onlyRegs_rset d off _ hi

end

theorem bits_and (m n lo w : Nat) : bits (m &&& n) lo w = bits m lo w &&& bits n lo w := by
  simp only [bits, ← Nat.shiftRight_eq_div_pow, Nat.shiftRight_and_distrib, Nat.and_mod_two_pow]

/-- The mask that clears the rc fields of these registers holds no bit of an rc field and all of any other. -/
theorem rc_masks : ∀ row ∈ regsHld ++ regsHdm ++ regsXpf, ∀ f ∈ row.fields,
    bits (~~~(BitVec.ofNat 32 (row.accMask (fun a => a == .rc)))).toNat f.lo f.w = if f.acc = .rc then 0 else 2 ^ f.w - 1 := by decide

/-- A read leaves 0 in an rc field and every other field as it was. -/
theorem bits_clearRc {off : Nat} {row : RegRow} (hb : blockIndex off ∈ [1, 3]) (hrow : findReg off = some row) (d : Dev) (i : Nat)
    {f : RegField} (hf : f ∈ row.fields) :
    bits ((d.clearRc row off i).rget off i).toNat f.lo f.w = if f.acc = .rc then 0 else bits (d.rget off i).toNat f.lo f.w := by
  rw [rget_clearRc hb, BitVec.toNat_and, bits_and, rc_masks row (row_mem_of_findReg (plain_of_host hb) hrow) f hf]
  split
  · exact Nat.and_zero _
  · rw [Nat.and_two_pow_sub_one_eq_mod, Nat.mod_eq_of_lt (bits_lt ..)]

/-! Halves of pairs -/

@[simp] theorem Dev.heldOf_setHeldOf (d : Dev) (q off : Nat) (v : Option Word) : (d.setHeldOf q off v).heldOf q off = v :=
  Sparse.get_set_same none d.hold (regKey off q) v

/-- A pair of the loader's or the host's block lies in it whole; its low half has no rc field. -/
theorem low_halves : ∀ a ∈ loOffsets, blockIndex a ∈ [1, 3] → blockIndex (a + 4) ∈ [1, 3] ∧
    ∀ row, findReg a = some row → row.accMask (fun x => x == .rc) = 0 := by decide

/-- The low half of a pair of these blocks. -/
theorem isLo_host {off : Nat} (hb : blockIndex off ∈ [1, 3]) (h : isLo off = true) : off ∈ loOffsets := by
  have hmac : ¬ (R.FWD_RMAC ≤ off ∧ off < R.FWD_RMAC + 128) := fun h =>
    not_between_of_plain (plain_of_host hb) (m := R.FWD_RMAC) (n := R.FWD_RMAC + 128) (k := 9) (by decide) (by decide) (by decide)
      ⟨h.1, h.2.le⟩
  have hthr := not_between_of_plain (plain_of_host hb) (m := R.PMU_THR_SLOTS_LO) (n := R.PMU_THR_INACTIVE_HI) (k := 17) (by decide)
    (by decide) (by decide)
  simp only [isLo, Bool.or_eq_true, Bool.and_eq_true, decide_eq_true_eq, hmac, hthr, false_and, or_false,
    List.contains_eq_mem] at h
  exact h

/-- What a read of a register leaves held: of the low half of a pair, the word of the high half (R10). -/
def Dev.holdHi (d : Dev) (q off i : Nat) : Dev := if isLo off then d.setHeldOf q (off + 4) (some (d.rget (off + 4) i)) else d

theorem holdHi_regs (d : Dev) (q off i : Nat) : (d.holdHi q off i).regs = d.regs := by
  unfold Dev.holdHi
  split <;> rfl

/-- A read of one of these registers, no copy being held: its word; the high half is held, rc fields are cleared. -/
theorem readReg_host {off : Nat} (hb : blockIndex off ∈ [1, 3]) {d : Dev} {q : Nat} (hheld : d.heldOf q off = none) (row : RegRow)
    (i : Nat) : d.readReg row q off i = (d.rget off i, (d.holdHi q off i).clearRc row off i) := by
  unfold Dev.readReg Dev.holdHi
  simp only [hheld, preRead_host hb, view_host hb, freeRead_host hb]
  split
  · next h => rw [view_host (low_halves off (isLo_host hb h) hb).1]
  · rfl

/-- Such a read changes one register, and not the time. -/
theorem hostRead_frame {off : Nat} (hb : blockIndex off ∈ [1, 3]) (d : Dev) (q : Nat) (row : RegRow) {i : Nat} (hi : i < 2 ^ 20) :
    ((d.holdHi q off i).clearRc row off i).cycle = d.cycle ∧ d.regsBut ((d.holdHi q off i).clearRc row off i) [(off, i)] := by
  obtain ⟨hframe, hregs⟩ := clearRc_frame hb (d.holdHi q off i) row hi
  have hcycle : (d.holdHi q off i).cycle = d.cycle := by
    unfold Dev.holdHi
    split <;> rfl
  exact ⟨(congrArg Dev.cycle hframe).trans hcycle, fun off' i' hi' hne =>
    (hregs off' i' hi' hne).trans (Dev.rget_congr (holdHi_regs d q off i) off' i')⟩

/-- What its fields read after it. -/
theorem bits_hostRead {off : Nat} {row : RegRow} (hb : blockIndex off ∈ [1, 3]) (hrow : findReg off = some row) (d : Dev) (q i : Nat)
    {f : RegField} (hf : f ∈ row.fields) :
    bits (((d.holdHi q off i).clearRc row off i).rget off i).toNat f.lo f.w =
      if f.acc = .rc then 0 else bits (d.rget off i).toNat f.lo f.w := by
  rw [bits_clearRc hb hrow _ i hf, Dev.rget_congr (holdHi_regs d q off i)]

/-- The low half of a pair has no field to clear. -/
theorem clearRc_low {off : Nat} {row : RegRow} (hb : blockIndex off ∈ [1, 3]) (hrow : findReg off = some row) (hlo : isLo off = true)
    (d : Dev) (i : Nat) : d.clearRc row off i = d := by
  rw [clearRc_host hb, if_pos ((low_halves off (isLo_host hb hlo) hb).2 row hrow)]

theorem heldOf_holdHi {off : Nat} (hlo : isLo off = true) (d : Dev) (q i : Nat) :
    (d.holdHi q off i).heldOf q (off + 4) = some (d.rget (off + 4) i) := by
  rw [Dev.holdHi, if_pos hlo, Dev.heldOf_setHeldOf]

/-- A held copy answers any read and is used up (R10). -/
theorem readReg_held {d : Dev} {q off : Nat} {w : Word} (h : d.heldOf q off = some w) (row : RegRow) (i : Nat) :
    d.readReg row q off i = (w, d.setHeldOf q off none) := by
  unfold Dev.readReg
  simp only [h]

/-- No high half of a pair is read by an operation of its own. -/
theorem not_asked_of_isHi {off : Nat} (h : isHi off = true) : off ∉ askedRegs := fun hm => by
  have := (show ∀ a ∈ askedRegs, isHi a = false by decide) off hm
  rw [h] at this
  cases this

@[simp] theorem answer_rdata (d : Dev) (q : Nat) (v : Word) : Sparse.get 0 (d.answer q v).host.rdata q = v :=
  Sparse.get_set_same ..

/-- Settles O7: a held copy answers and is gone; without one the register's word answers, its rc fields are cleared, the high half
of a pair is held. -/
theorem registerReadsAnswerAndClearRc : Obligations.register_reads_answer_and_clear_rc := by
  unfold Obligations.register_reads_answer_and_clear_rc
  intro s r off row ha hpass hread hrow
  have hx := regRead_row (s := s.blk) (q := reqIdx r) ha hread hrow
  have hmem : blockIndex off ∈ [1, 3] → ((s.blk.atTables off).on Dev.beginAll).mem = s.mem :=
    fun hb => congrArg Block.mem (atTables_plain (plain_of_host hb) s.blk)
  generalize (s.blk.atTables off).on Dev.beginAll = b at hx hmem ⊢
  obtain ⟨e, m⟩ := b
  intro q _ _ i hsel
  have hm : s.dev.misuse q off none = none := misuse_read hrow hsel
  refine ⟨fun hb hheld => ?_, fun w hhi hheld => ?_, fun off' ha' hclosed => ?_⟩
  · have hi : i < 2 ^ 20 := instOf_lt e r off (plain_rows_apart row (row_mem_of_findReg (plain_of_host hb) hrow)).2
    have hx := hx (not_asked_of_host hb)
    dsimp only at hx
    rw [readReg_host hb hheld] at hx
    refine ⟨gives_registerRead rfl hpass hm hx ?_, fun hlo => gives_registerRead rfl hpass hm hx ?_⟩
    · obtain ⟨hcycle, hbut⟩ := hostRead_frame hb e q row hi
      have hbits := fun f hf => bits_hostRead hb hrow e q i (f := f) hf
      generalize (e.holdHi q off i).clearRc row off i = d at hcycle hbut hbits ⊢
      exact ⟨hmem hb, hcycle, hbut, answer_rdata d q (e.rget off i), hbits⟩
    · rw [clearRc_low hb hrow hlo]
      have hregs := holdHi_regs e q off i
      have hhi := heldOf_holdHi hlo e q i
      generalize e.holdHi q off i = d at hregs hhi ⊢
      exact ⟨hmem hb, hregs, answer_rdata d q (e.rget off i), hhi⟩
  · have hx := hx (not_asked_of_isHi hhi)
    dsimp only at hx
    rw [readReg_held hheld] at hx
    refine gives_registerRead rfl hpass hm hx ?_
    exact ⟨rfl, rfl, answer_rdata (e.setHeldOf q off none) q w, Dev.heldOf_setHeldOf e q off none⟩
  · refine gives_registerRead rfl hpass (misuse_read_closed hclosed _) (regRead_closed (b := s.blk) ha' hclosed _) ?_
    exact ⟨rfl, rfl, answer_rdata s.dev q 0⟩

end Sys2Proof.Machine
end

