-- ==== Sys2Proof/Proofs/Counting.lean ====
section
open Sys2Proof Sys2Proof.Machine
namespace Sys2Proof.Machine

/-! What later proofs use of the shared operations: entries of maps, repeated changes, counters and the performance monitor. -/

theorem at0_upd0_same {α : Type} [Inhabited α] [DecidableEq α] (m : List (Nat × α)) (k : Nat) (f : α → α) :
    at0 (upd0 m k f) k = f (at0 m k) := Sparse.get_upd_same _ _ _ _

theorem at0_upd0_other {α : Type} [Inhabited α] [DecidableEq α] (m : List (Nat × α)) {j k : Nat} (f : α → α) (h : j ≠ k) :
    at0 (upd0 m k f) j = at0 m j := Sparse.get_upd_other _ _ _ h

/-- A change made for each element of a list keeps a relation of devices that each change keeps. -/
theorem forAll_related {α : Type} {R : Dev → Dev → Prop} (hr : ∀ d, R d d) (ht : ∀ {d e f}, R d e → R e f → R d f)
    {f : Dev → α → Dev} (hf : ∀ d a, R d (f d a)) (l : List α) (d : Dev) : R d (forAll l f d) := by
  induction l generalizing d with
  | nil => exact hr d
  | cons a l ih => exact ht (hf d a) (ih (f d a))

/-! The performance monitor (R394, R396) -/

/-- Two devices that agree in all but the performance monitor. -/
def Dev.AsidePmu (d e : Dev) : Prop := e = { d with pmu := e.pmu }

theorem pmuAdd_asidePmu (d : Dev) (k n : Nat) : d.AsidePmu (d.pmuAdd k n) := by
  unfold Dev.pmuAdd
  split <;> rfl

theorem plStart_asidePmu (d : Dev) (slice ev n : Nat) : d.AsidePmu (d.plStart slice ev n) := by
  unfold Dev.plStart
  split
  · rfl
  · split <;> rfl

theorem Dev.AsidePmu.trans {d e f : Dev} (hde : d.AsidePmu e) (hef : e.AsidePmu f) : d.AsidePmu f := by
  unfold Dev.AsidePmu at *
  rw [hef, hde]

theorem pl_asidePmu (d : Dev) (slice ev n : Nat) : d.AsidePmu (d.pl slice ev n) := by
  refine (plStart_asidePmu d slice ev n).trans (forAll_related (R := Dev.AsidePmu) (fun _ => rfl) Dev.AsidePmu.trans (fun d i => ?_) _ _)
  split
  · exact pmuAdd_asidePmu _ _ _
  · rfl

/-! Counters -/

/-- A counter below its maximum adds to its own field, and no other register changes. -/
theorem cnt_counted {d : Dev} {f : Fld} {i : Nat} (hi : i < 2 ^ 20) (hf : f.lo + f.w ≤ 32) (h : d.canCount f i) :
    d.counted (d.cnt f i) f i := by
  rw [Dev.cnt_below d f i 1 h]
  refine ⟨?_, rfl, fun off j hj hn => Dev.rget_fset_other d f hi hj ?_⟩
  · rw [Dev.fget_fset d f i _ hf, Nat.mod_eq_of_lt h]
  · simp only [List.mem_singleton, Prod.mk.injEq] at hn
    tauto

/-- Two devices that agree in all but the registers and the values the environment has given. -/
def Dev.AsideRegs (d e : Dev) : Prop := e = { d with regs := e.regs, free := e.free }

theorem Dev.AsideRegs.trans {d e f : Dev} (hde : d.AsideRegs e) (hef : e.AsideRegs f) : d.AsideRegs f := by
  unfold Dev.AsideRegs at *
  rw [hef, hde]

/-- What does not look at the registers is the same. -/
theorem Dev.AsideRegs.same {α : Type} {d e : Dev} (h : d.AsideRegs e) (g : Dev → α)
    (hg : ∀ x y, g { d with regs := x, free := y } = g d) : g e = g d := (congrArg g h).trans (hg e.regs e.free)

theorem cnt_asideRegs (d : Dev) (f : Fld) (i n : Nat) : d.AsideRegs (d.cnt f i n) := by
  rcases Dev.cnt_cases d f i n with ⟨v, e⟩ | ⟨v, e⟩ <;> rw [e] <;> rfl

@[simp] theorem Dev.cnt_tm (d : Dev) (f : Fld) (i n : Nat) : (d.cnt f i n).tm = d.tm :=
  (cnt_asideRegs d f i n).same (·.tm) (fun _ _ => rfl)

@[simp] theorem Dev.cnt_slices (d : Dev) (f : Fld) (i n : Nat) : (d.cnt f i n).slices = d.slices :=
  (cnt_asideRegs d f i n).same (·.slices) (fun _ _ => rfl)

end Sys2Proof.Machine
end


-- ==== Sys2Proof/Proofs/IdleStep.lean ====
section
open Sys2Proof Sys2Proof.Machine
namespace Sys2Proof.Machine

/-! A step on an empty queue (log 39): the clock and the NTU advance, and interrupts whose spacing has passed leave by the host port or
the halter. -/

/-- Two devices that agree in all but the host port and the halter. -/
def Dev.AsideHost (d e : Dev) : Prop := e = { d with host := e.host, halter := e.halter }

theorem Dev.AsideHost.refl (d : Dev) : d.AsideHost d := rfl

theorem Dev.AsideHost.trans {d e f : Dev} (hde : d.AsideHost e) (hef : e.AsideHost f) : d.AsideHost f := by
  unfold Dev.AsideHost at *
  rw [hef, hde]

/-- What does not look at the host port and the halter is the same. -/
theorem Dev.AsideHost.same {α : Type} {d e : Dev} (h : d.AsideHost e) (g : Dev → α)
    (hg : ∀ x y, g { d with host := x, halter := y } = g d) : g e = g d := (congrArg g h).trans (hg e.host e.halter)

theorem send_asideHost (d : Dev) (m : HMsg) : d.AsideHost (d.send m) := by
  unfold Dev.send
  split
  · rfl
  · split <;> rfl

theorem msixFire_asideHost (d : Dev) (v : Nat) : d.AsideHost (d.msixFire v) := by
  simp only [Dev.msixFire]
  split
  · split <;> rfl
  · rfl

theorem vector_asideHost (d : Dev) (v : Nat) : d.AsideHost (d.vector v) := by
  unfold Dev.vector
  split
  · exact msixFire_asideHost d v
  · exact send_asideHost d _

theorem ringInt_asideHost (d : Dev) (r : Nat) : d.AsideHost (d.ringInt r) := by
  have fires (l : List (Nat × Nat)) : d.AsideHost (({ d with host.intLast := l } : Dev).vector r) :=
    (show d.AsideHost { d with host.intLast := l } from rfl).trans (vector_asideHost _ r)
  unfold Dev.ringInt
  split
  · split
    · split
      · rfl
      · exact fires _
    · exact fires _
  · rfl

theorem tick_asideHost (d : Dev) : (d.elapse 1).AsideHost d.tick :=
  forAll_related Dev.AsideHost.refl Dev.AsideHost.trans (fun d r =>
    (show d.AsideHost { d with host.intDue := d.host.intDue.erase r } from rfl).trans (ringInt_asideHost _ r)) _ _

/-- Settles O2: the cycle is `Dev.elapse 1`, and the interrupts that are due touch the host port and the halter alone. -/
theorem anIdleStepIsOneCycle : Obligations.an_idle_step_is_one_cycle := by
  unfold Obligations.an_idle_step_is_one_cycle
  intro s hs
  have h := tick_asideHost s.dev
  have hntu : s.dev.tick.ntu.total = s.dev.ntu.total + (if s.dev.ntu.run then s.dev.incr else 0) := by
    rw [h.same (·.ntu.total) (fun _ _ => rfl)]
    show (if s.dev.ntu.run then s.dev.ntu.total + 1 * s.dev.incr else s.dev.ntu.total) = _
    split <;> simp
  refine ⟨{ s with dev := s.dev.tick }, by simp [step, hs, runDev], hs, rfl, h.same (·.cycle) (fun _ _ => rfl), hntu, ?_⟩
  exact ⟨h.same (·.regs) (fun _ _ => rfl), h.same (·.drv) (fun _ _ => rfl), h.same (·.stb) (fun _ _ => rfl),
    h.same (·.bufs) (fun _ _ => rfl), h.same (·.tm) (fun _ _ => rfl), h.same (·.ports) (fun _ _ => rfl),
    h.same (·.slices) (fun _ _ => rfl), h.same (·.cars) (fun _ _ => rfl), h.same (·.team) (fun _ _ => rfl),
    h.same (·.life) (fun _ _ => rfl), h.same (·.ld) (fun _ _ => rfl)⟩

end Sys2Proof.Machine
end


-- ==== Sys2Proof/Proofs/FramesReceived.lean ====
section
open Sys2Proof Sys2Proof.Machine
namespace Sys2Proof.Machine

/-! Port statistics (R197) -/

/-- What the counters of a port's received frames show after one of n bytes: its octets and its packet, and beyond them only counters
of that port and direction. -/
structure Dev.RxStats (p n : Nat) (d e : Dev) : Prop where
  rest : { e with tm.stats := d.tm.stats } = d
  others : ∀ k, ¬ (p * 40 ≤ k ∧ k < p * 40 + 20) → Sparse.get 0 e.tm.stats k = Sparse.get 0 d.tm.stats k
  octets : Sparse.get 0 e.tm.stats (p * 40 + 1) = (Sparse.get 0 d.tm.stats (p * 40 + 1) + n) % 2 ^ 64
  packets : Sparse.get 0 e.tm.stats (p * 40 + 2) = (Sparse.get 0 d.tm.stats (p * 40 + 2) + 1) % 2 ^ 64

theorem Dev.RxStats.same {p n : Nat} {d e : Dev} (h : d.RxStats p n e) {α : Type} (g : Dev → α)
    (hg : ∀ t, g { e with tm.stats := t } = g e) : g e = g d := (hg d.tm.stats).symm.trans (congrArg g h.rest)

theorem Dev.RxStats.rxHeld {p n : Nat} {d e : Dev} (h : d.RxStats p n e) (s : Nat) (sel : Nat → Bool) :
    e.rxHeld s sel = d.rxHeld s sel := h.same (·.rxHeld s sel) (fun _ => rfl)

theorem Dev.RxStats.regs {p n : Nat} {d e : Dev} (h : d.RxStats p n e) : e.regs = d.regs := h.same (·.regs) (fun _ => rfl)

theorem Dev.RxStats.slices {p n : Nat} {d e : Dev} (h : d.RxStats p n e) : e.slices = d.slices := h.same (·.slices) (fun _ => rfl)

theorem Dev.RxStats.fget {p n : Nat} {d e : Dev} (h : d.RxStats p n e) (f : Fld) (i : Nat) : e.fget f i = d.fget f i :=
  Dev.fget_congr h.regs f i

theorem stat_stats (d : Dev) (p dir c n k : Nat) : Sparse.get 0 (d.stat p dir c n).tm.stats k =
    if k = p * 40 + dir * 20 + c then (Sparse.get 0 d.tm.stats (p * 40 + dir * 20 + c) + n) % 2 ^ 64
    else Sparse.get 0 d.tm.stats k := by
  unfold Dev.stat
  exact Sparse.get_upd (0 : Nat) _ _ _ (fun v => (v + n) % 2 ^ 64)

theorem stat_rest (d : Dev) (p dir c n : Nat) (t : List (Nat × Nat)) :
    ({ d.stat p dir c n with tm.stats := t } : Dev) = { d with tm.stats := t } := rfl

theorem rxStats_octets_packets (d : Dev) (p n : Nat) : d.RxStats p n ((d.stat p 0 1 n).stat p 0 2 1) where
  rest := (stat_rest _ p 0 2 1 _).trans (stat_rest d p 0 1 n _)
  others k hk := by simp only [stat_stats]; rw [if_neg (by omega), if_neg (by omega)]
  octets := by rw [stat_stats, if_neg (by omega), stat_stats, if_pos rfl]
  packets := by rw [stat_stats, if_pos rfl, stat_stats, if_neg (by omega)]

/-- The other counters of the direction leave octets and packets. -/
theorem Dev.RxStats.stat {p n : Nat} {d e : Dev} (h : d.RxStats p n e) {c : Nat} (k : Nat) (hc : c < 20) (h1 : c ≠ 1) (h2 : c ≠ 2) :
    d.RxStats p n (e.stat p 0 c k) where
  rest := h.rest
  others j hj := by rw [stat_stats, if_neg (by omega), h.others j hj]
  octets := by rw [stat_stats, if_neg (by omega), h.octets]
  packets := by rw [stat_stats, if_neg (by omega), h.packets]

theorem ite_some_or {c : Prop} [Decidable c] {a k : Nat} {x : Option Nat} (h : (if c then some a else x) = some k) :
    a = k ∨ x = some k := by
  split at h
  · exact .inl (Option.some.inj h)
  · exact .inr h

theorem sizeBin_bounds {n m k : Nat} (h : sizeBin n m = some k) : 3 ≤ k ∧ k < 20 := by
  have h64 : ¬ n < 64 := fun hlt => by simp [sizeBin, hlt] at h
  rw [sizeBin, if_neg h64] at h
  iterate 9 (obtain rfl | h := ite_some_or h; · decide)
  cases h

theorem rxStats_statFrame (d : Dev) (p : Nat) (bytes : List Byte) (n m : Nat) (good : Bool) :
    d.RxStats p n (d.statFrame p 0 bytes n m good) := by
  unfold Dev.statFrame
  extract_lets d₁ d₂
  have h₁ : d.RxStats p n d₁ := rxStats_octets_packets d p n
  have h₂ : d.RxStats p n d₂ := by
    simp only [d₂]
    split
    · next k hk =>
      obtain ⟨h3, h20⟩ := sizeBin_bounds hk
      exact h₁.stat 1 h20 (by omega) (by omega)
    · exact h₁
  split
  · exact h₂
  · split
    · exact h₂.stat 1 (by decide) (by decide) (by decide)
    · split
      · exact h₂.stat 1 (by decide) (by decide) (by decide)
      · exact h₂

/-! FRAME_RECEIVE (R86 to R88, R96) -/

/-- The counters of a port's received frames after one of n bytes, which a slice that does not forward does not count. -/
def Dev.RxStatsIf (p n : Nat) (d e : Dev) : Prop :=
  (∀ k, ¬ (p * 40 ≤ k ∧ k < p * 40 + 20) → Sparse.get 0 e.tm.stats k = Sparse.get 0 d.tm.stats k) ∧
  (d.forwards (p / 32) = true → Sparse.get 0 e.tm.stats (p * 40 + 1) = (Sparse.get 0 d.tm.stats (p * 40 + 1) + n) % 2 ^ 64 ∧
    Sparse.get 0 e.tm.stats (p * 40 + 2) = (Sparse.get 0 d.tm.stats (p * 40 + 2) + 1) % 2 ^ 64)

theorem Dev.RxStats.ifForwards {p n : Nat} {d e : Dev} (h : d.RxStats p n e) : d.RxStatsIf p n e :=
  ⟨h.others, fun _ => ⟨h.octets, h.packets⟩⟩

theorem Dev.RxStatsIf.of_tm {p n : Nat} {d e u : Dev} (h : d.RxStatsIf p n e) (ht : u.tm = e.tm) : d.RxStatsIf p n u := by
  unfold Dev.RxStatsIf
  rw [ht]
  exact h

/-- What a count does is the same whatever the statistics are. -/
theorem cnt_setStats (d : Dev) (f : Fld) (i n : Nat) (t : List (Nat × Nat)) :
    ({ d with tm.stats := t } : Dev).cnt f i n = { d.cnt f i n with tm.stats := t } := by
  have hf : ({ d with tm.stats := t } : Dev).fget f i = d.fget f i := rfl
  unfold Dev.cnt
  rw [hf]
  split <;> rfl

/-- A frame that is counted as dropped before it enters the statistics. -/
theorem dropped_cnt_first {d e : Dev} {p n : Nat} {f : Fld} (hp : p < 512) (hf : f.lo + f.w ≤ 32) (hc : d.canCount f p)
    (h : (d.cnt f p).RxStats p n e) : d.RxStatsIf p n e ∧ d.counted { e with tm.stats := d.tm.stats } f p := by
  obtain ⟨rest, others, octets, packets⟩ := h
  rw [Dev.cnt_tm] at rest others octets packets
  exact ⟨⟨others, fun _ => ⟨octets, packets⟩⟩, rest ▸ cnt_counted (by omega) hf hc⟩

/-- A frame that is counted as dropped after it has entered the statistics. -/
theorem dropped_cnt_last {d e : Dev} {p n : Nat} {f : Fld} (hp : p < 512) (hf : f.lo + f.w ≤ 32) (hc : d.canCount f p)
    (h : d.RxStats p n e) : d.RxStatsIf p n (e.cnt f p) ∧ d.counted { e.cnt f p with tm.stats := d.tm.stats } f p := by
  have hrest : ({ e.cnt f p with tm.stats := d.tm.stats } : Dev) = d.cnt f p := by rw [← cnt_setStats, h.rest]
  refine ⟨?_, hrest ▸ cnt_counted (by omega) hf hc⟩
  unfold Dev.RxStatsIf
  rw [Dev.cnt_tm]
  exact h.ifForwards

/-- The time stamp of a received frame takes at most a value of the environment. -/
theorem rxStamp_snd (d : Dev) (p n : Nat) : ∃ k, (d.rxStamp p n).2 = { d with free := k } := by
  unfold Dev.rxStamp Dev.clientPlace
  split
  · exact ⟨_, rfl⟩
  · exact ⟨_, rfl⟩

section
variable {d : Dev} {p : Nat} {bytes : List Byte}

theorem frameReceive_lost (h : d.link p = false ∨ d.slotsLost p = true) : frameReceive p bytes d = d := by
  rcases h with h | h <;> simp [frameReceive, h]

variable (hl : d.link p = true) (hs : d.slotsLost p = false)
include hl hs

theorem frameReceive_recovery (hf : d.forwards (p / 32) = false) :
    frameReceive p bytes d = d.cnt F.PRT_RX_RECOVERY_DROP_COUNT p := by
  simp [frameReceive, hl, hs, hf]

variable (hf : d.forwards (p / 32) = true)
include hf

/-- A frame below 64 bytes is counted and enters the statistics, whatever its FCS. -/
theorem frameReceive_runt (hn : bytes.length < 64) :
    (d.cnt F.PRT_RX_RUNT_COUNT p).RxStats p bytes.length (frameReceive p bytes d) := by
  simp only [frameReceive, hl, hs, hf, hn, Bool.not_true, Bool.or_self, Bool.false_eq_true, if_false, if_true]
  exact (rxStats_statFrame _ _ _ _ _ _).stat 1 (by split <;> decide) (by split <;> decide) (by split <;> decide)

variable (hn : 64 ≤ bytes.length)
include hn

theorem frameReceive_oversize (hm : d.maxFrameAt p (d.firstByte p bytes.length) < bytes.length) :
    (d.cnt F.PRT_RX_OVERSIZE_COUNT p).RxStats p bytes.length (frameReceive p bytes d) := by
  simp only [frameReceive, hl, hs, hf, Nat.not_lt.2 hn, hm, Bool.not_true, Bool.or_self, Bool.false_eq_true, if_false, if_true]
  exact (rxStats_statFrame _ _ _ _ _ _).stat 1 (by split <;> decide) (by split <;> decide) (by split <;> decide)

variable (hm : bytes.length ≤ d.maxFrameAt p (d.firstByte p bytes.length))
include hm

theorem frameReceive_badFcs (hg : crc32 (bytes.take (bytes.length - 4)) ≠ leNat (bytes.drop (bytes.length - 4))) :
    (d.cnt F.CKU_RX_FCS_ERR_COUNT p).RxStats p bytes.length (frameReceive p bytes d) := by
  simp only [frameReceive, hl, hs, hf, Nat.not_lt.2 hn, Nat.not_lt.2 hm, beq_false_of_ne hg, Bool.not_true, Bool.not_false, Bool.or_self,
    Bool.false_eq_true, if_false, if_true]
  exact (rxStats_statFrame _ _ _ _ _ _).stat 1 (by decide) (by decide) (by decide)

variable (hg : crc32 (bytes.take (bytes.length - 4)) = leNat (bytes.drop (bytes.length - 4)))
include hg

theorem frameReceive_macctrl (he : f16 (bytes.take (bytes.length - 4)) 12 = 0x8808) :
    ∃ e, d.RxStats p bytes.length e ∧ frameReceive p bytes d = e.cnt F.PRT_RX_MACCTRL_COUNT p := by
  refine ⟨_, rxStats_statFrame d p bytes bytes.length (d.maxFrameAt p (d.firstByte p bytes.length)) true, ?_⟩
  simp only [frameReceive, hl, hs, hf, Nat.not_lt.2 hn, Nat.not_lt.2 hm, hg, he, beq_self_eq_true, Bool.not_true, Bool.or_self,
    Bool.false_eq_true, if_false, if_true]

variable (he : f16 (bytes.take (bytes.length - 4)) 12 ≠ 0x8808)
include he

/-- A good frame that does not fit is counted, also in its port's statistics. -/
theorem frameReceive_overrun (hb : ¬ (d.rxHeld (p / 32) (fun q => q == p) + bytes.length ≤ d.fget F.PRT_RX_CAP_KIB p * 1024 ∧
      d.rxHeld (p / 32) (fun _ => true) + bytes.length ≤ 114688)) :
    ∃ e, d.RxStats p bytes.length e ∧
      frameReceive p bytes d = ((e.cnt F.PRT_RX_OVERRUN_COUNT p).pl (p / 32) 0x06).stat p 0 0 1 := by
  have h := rxStats_statFrame d p bytes bytes.length (d.maxFrameAt p (d.firstByte p bytes.length)) true
  refine ⟨_, h, ?_⟩
  rw [← h.rxHeld, ← h.rxHeld, ← h.fget] at hb
  simp only [frameReceive, hl, hs, hf, Nat.not_lt.2 hn, Nat.not_lt.2 hm, hg, he, beq_self_eq_true, Bool.not_true, Bool.or_self,
    Bool.false_eq_true, if_false, if_true]
  rw [if_pos (by omega)]

/-- A good frame that fits joins the received frames of its slice. -/
theorem frameReceive_joins (hb : d.rxHeld (p / 32) (fun q => q == p) + bytes.length ≤ d.fget F.PRT_RX_CAP_KIB p * 1024 ∧
      d.rxHeld (p / 32) (fun _ => true) + bytes.length ≤ 114688) :
    ∃ e k x, d.RxStats p bytes.length e ∧
      frameReceive p bytes d = ({ e with free := k } : Dev).updSl (p / 32) (fun y => { y with rx := y.rx ++ [x] }) ∧
      x.data = bytes.take (bytes.length - 4) ∧ x.port = p ∧ x.slice = p / 32 ∧ x.kind = 0 ∧ x.pass = 1 := by
  have h := rxStats_statFrame d p bytes bytes.length (d.maxFrameAt p (d.firstByte p bytes.length)) true
  generalize hE : d.statFrame p 0 bytes bytes.length (d.maxFrameAt p (d.firstByte p bytes.length)) true = e at h
  obtain ⟨k, hk⟩ := rxStamp_snd e p bytes.length
  rw [← h.rxHeld, ← h.rxHeld, ← h.fget] at hb
  refine ⟨e, k,
    { data := bytes.take (bytes.length - 4), port := p, slice := p / 32, kind := 0, rxAt := (e.rxStamp p bytes.length).1 },
    h, ?_, rfl, rfl, rfl, rfl, rfl⟩
  simp only [frameReceive, hl, hs, hf, Nat.not_lt.2 hn, Nat.not_lt.2 hm, hg, he, hE, beq_self_eq_true, Bool.not_true, Bool.or_self,
    Bool.false_eq_true, if_false, if_true]
  rw [if_neg (by omega), hk]

end

/-- Settles O24: each length, FCS and EtherType has its own lemma above. -/
theorem framesReceived : Obligations.frames_received := by
  unfold Obligations.frames_received
  intro s p bytes hrun
  have hp : p.val < 512 := p.isLt
  have gives (P : State → Prop) (h : P { s with dev := frameReceive p bytes s.dev }) : Gives (.frameReceive p bytes) s P :=
    ⟨_, event_running (frameReceive p bytes) hrun, rfl, h⟩
  dsimp only
  refine ⟨fun h => ?lost, fun hl hs => ⟨fun hf hc => gives _ ?recovery, fun hf => ⟨fun hn hc => gives _ ?runt,
    fun hn hm hc => gives _ ?oversize, fun hn hm hg hc => gives _ ?badFcs, fun hn hm hg he hc => gives _ ?macctrl,
    fun hn hm hg he => ⟨fun hb => gives _ ?joins, fun hb hc => gives _ ?overrun⟩⟩⟩⟩
  case lost =>
    show event (frameReceive p bytes) s = _
    rw [event_running _ hrun, frameReceive_lost h]
  case recovery =>
    rw [frameReceive_recovery hl hs hf]
    refine ⟨⟨rfl, fun k _ => by rw [Dev.cnt_tm], fun h => absurd h (by simp [hf])⟩, ?_⟩
    rw [show ({ s.dev.cnt F.PRT_RX_RECOVERY_DROP_COUNT p with tm.stats := s.dev.tm.stats } : Dev) =
      s.dev.cnt F.PRT_RX_RECOVERY_DROP_COUNT p from cnt_setStats s.dev _ _ _ _ ▸ rfl]
    exact cnt_counted (by omega) (by decide) hc
  case runt =>
    obtain ⟨hst, hcnt⟩ := dropped_cnt_first hp (by decide) hc (frameReceive_runt hl hs hf hn)
    exact ⟨⟨rfl, hst⟩, hcnt⟩
  case oversize =>
    obtain ⟨hst, hcnt⟩ := dropped_cnt_first hp (by decide) hc (frameReceive_oversize hl hs hf hn hm)
    exact ⟨⟨rfl, hst⟩, hcnt⟩
  case badFcs =>
    obtain ⟨hst, hcnt⟩ := dropped_cnt_first hp (by decide) hc (frameReceive_badFcs hl hs hf hn hm hg)
    exact ⟨⟨rfl, hst⟩, hcnt⟩
  case macctrl =>
    obtain ⟨e, hst, heq⟩ := frameReceive_macctrl hl hs hf hn hm hg he
    obtain ⟨hst, hcnt⟩ := dropped_cnt_last hp (by decide) hc hst
    rw [heq]
    exact ⟨⟨rfl, hst⟩, hcnt⟩
  case joins =>
    obtain ⟨e, k, x, hst, heq, hx⟩ := frameReceive_joins hl hs hf hn hm hg he hb
    rw [heq]
    have hsl : e.slices = s.dev.slices := hst.slices
    refine ⟨⟨rfl, hst.ifForwards⟩, hst.regs, ⟨x, ?_, hx⟩, fun m hm => ?_⟩
    · simp [Dev.sl, hsl, at0_upd0_same]
    · simp [Dev.sl, hsl, at0_upd0_other _ _ hm]
  case overrun =>
    obtain ⟨e, hst, heq⟩ := frameReceive_overrun hl hs hf hn hm hg he hb
    obtain ⟨hone, -, -⟩ : e.counted (e.cnt F.PRT_RX_OVERRUN_COUNT p) F.PRT_RX_OVERRUN_COUNT p :=
      cnt_counted (by omega) (by decide) (by rw [Dev.canCount, hst.fget]; exact hc)
    rw [heq, pl_asidePmu (e.cnt F.PRT_RX_OVERRUN_COUNT p) (p / 32) 0x06 1]
    refine ⟨⟨rfl, ?_⟩, ?_, ?_⟩
    · exact (hst.stat 1 (c := 0) (by decide) (by decide) (by decide)).ifForwards.of_tm (by simp [Dev.stat])
    · exact (Dev.cnt_slices e _ _ _).trans hst.slices
    · exact (Dev.fget_congr rfl _ _).trans (hone.trans (by rw [hst.fget]))

end Sys2Proof.Machine
end


-- ==== Sys2Proof/Proofs/Keeps.lean ====
section
open Sys2Proof Sys2Proof.Machine
namespace Sys2Proof.Machine

/-! What the device's book-keeping leaves as it is: counting, reporting, freeing buffers and marking faults change registers, queues to
the host and the state of their own units, and never the clock, the slices' pipelines, the ports, the carriers, the leaf queues or the
packets that wait to be injected. -/

/-- Two devices with the same clock, pipelines, ports, carriers, leaf queues and EGRESS injections. -/
structure Dev.Beside (d e : Dev) : Prop where
  cycle : e.cycle = d.cycle
  slices : e.slices = d.slices
  ports : e.ports = d.ports
  cars : e.cars = d.cars
  leaves : e.tm.leaves = d.tm.leaves
  hostInj : e.hostInj = d.hostInj

theorem Dev.Beside.refl (d : Dev) : d.Beside d := ⟨rfl, rfl, rfl, rfl, rfl, rfl⟩

theorem Dev.Beside.trans {d e f : Dev} (hde : d.Beside e) (hef : e.Beside f) : d.Beside f :=
  ⟨hef.cycle.trans hde.cycle, hef.slices.trans hde.slices, hef.ports.trans hde.ports, hef.cars.trans hde.cars,
    hef.leaves.trans hde.leaves, hef.hostInj.trans hde.hostInj⟩

theorem Dev.Beside.ofHost {d e f : Dev} (h : d.Beside e) (hf : e.AsideHost f) : d.Beside f :=
  h.trans ⟨hf.same (·.cycle) (fun _ _ => rfl), hf.same (·.slices) (fun _ _ => rfl), hf.same (·.ports) (fun _ _ => rfl),
    hf.same (·.cars) (fun _ _ => rfl), hf.same (·.tm.leaves) (fun _ _ => rfl),
    hf.same (·.hostInj) (fun _ _ => rfl)⟩

section
variable {d e : Dev} (h : d.Beside e)
include h

theorem Dev.Beside.forAll {α : Type} {f : Dev → α → Dev} (hf : ∀ {e} a, d.Beside e → d.Beside (f e a)) (l : List α) :
    d.Beside (forAll l f e) := by
  induction l generalizing e with
  | nil => exact h
  | cons a l ih => exact ih (hf a h)

/-! Registers and counters -/

theorem Dev.Beside.rset (off i : Nat) (v : Word) : d.Beside (e.rset off i v) :=
  ⟨h.cycle, h.slices, h.ports, h.cars, h.leaves, h.hostInj⟩

theorem Dev.Beside.fset (f : Fld) (i v : Nat) : d.Beside (e.fset f i v) := h.rset _ _ _

theorem Dev.Beside.fresh (w : Nat) : d.Beside (e.fresh w).2 := ⟨h.cycle, h.slices, h.ports, h.cars, h.leaves, h.hostInj⟩

theorem Dev.Beside.cnt (f : Fld) (i n : Nat) : d.Beside (e.cnt f i n) := by
  rw [cnt_asideRegs e f i n]
  exact ⟨h.cycle, h.slices, h.ports, h.cars, h.leaves, h.hostInj⟩

theorem Dev.Beside.pl (slice ev n : Nat) : d.Beside (e.pl slice ev n) := by
  rw [pl_asidePmu e slice ev n]
  exact ⟨h.cycle, h.slices, h.ports, h.cars, h.leaves, h.hostInj⟩

/-! Events (R417, R418) -/

theorem Dev.Beside.enqueueEvt (v : Evt) : d.Beside (e.enqueueEvt v) := by
  unfold Dev.enqueueEvt
  split
  · exact ⟨h.cycle, h.slices, h.ports, h.cars, h.leaves, h.hostInj⟩
  · split
    · refine Dev.Beside.cnt ?_ _ _ _
      exact ⟨h.cycle, h.slices, h.ports, h.cars, h.leaves, h.hostInj⟩
    · exact h.cnt _ _ _

theorem Dev.Beside.raise (cls : Nat) (f : Fld) (inst : Nat) (data : List Byte) : d.Beside (e.raise cls f inst data) := by
  have hseq := h.fset F.HDM_EVT_SEQ_SEQ cls (e.fget F.HDM_EVT_SEQ_SEQ cls + 1)
  simp only [Dev.raise, Dev.raiseRaw]
  generalize e.fset F.HDM_EVT_SEQ_SEQ cls (e.fget F.HDM_EVT_SEQ_SEQ cls + 1) = e' at hseq
  split
  · exact hseq.cnt _ _ _
  · refine Dev.Beside.enqueueEvt ?_ _
    exact ⟨hseq.cycle, hseq.slices, hseq.ports, hseq.cars, hseq.leaves, hseq.hostInj⟩

theorem Dev.Beside.notice (f : Fld) (inst : Nat) : d.Beside (e.notice f inst) := h.raise _ _ _ _

theorem Dev.Beside.error (f : Fld) (inst : Nat) : d.Beside (e.error f inst) := h.raise _ _ _ _

theorem Dev.Beside.alarm (n : Nat) (f : Fld) (inst : Nat) (data : List Byte) : d.Beside (e.alarm n f inst data) := by
  refine Dev.Beside.raise ?_ 0 f inst data
  have hset (w : Word) : d.Beside (({ e with host.alarmAt := Sparse.set 0 e.host.alarmAt n (e.cycle + 1) } : Dev).rset R.ERR_ALARM 0 w) :=
    ⟨h.cycle, h.slices, h.ports, h.cars, h.leaves, h.hostInj⟩
  unfold Dev.alarmBit
  dsimp only
  split
  · exact (hset _).ofHost (vector_asideHost _ 0)
  · exact hset _

/-! Memory failures (R320 to R332) -/

theorem Dev.Beside.pendFail (f : MemFail) : d.Beside (e.pendFail f) := by
  unfold Dev.pendFail
  dsimp only
  split
  · exact ⟨h.cycle, h.slices, h.ports, h.cars, h.leaves, h.hostInj⟩
  · exact (h.fset _ _ _).cnt _ _ _

theorem Dev.Beside.parityFail (cls inst w : Nat) (detail : List Byte) (taken : Bool) :
    d.Beside (e.parityFail cls inst w detail taken) := by
  refine Dev.Beside.pendFail (Dev.Beside.cnt ?_ _ _ _) _
  unfold Dev.markWord
  split
  · exact h
  · exact ⟨h.cycle, h.slices, h.ports, h.cars, h.leaves, h.hostInj⟩

theorem Dev.Beside.sramRead (cls inst w : Nat) (detail : List Byte) : d.Beside (e.sramRead cls inst w detail).2 := by
  unfold Dev.sramRead
  split
  · exact h.parityFail _ _ _ _ _
  · exact h

theorem Dev.Beside.markBurst (a : Nat) : d.Beside (e.markBurst a) := by
  unfold Dev.markBurst
  split
  · exact h
  · exact ⟨h.cycle, h.slices, h.ports, h.cars, h.leaves, h.hostInj⟩

theorem Dev.Beside.stackFail (st : Nat) : d.Beside (e.stackFail st) := by
  unfold Dev.stackFail
  extract_lets ms w n src e₁ e₂ lim
  have hcnt : d.Beside e₂ := by
    refine Dev.Beside.cnt (Dev.Beside.cnt ?_ _ _ _) _ _ _
    exact ⟨h.cycle, h.slices, h.ports, h.cars, h.leaves, h.hostInj⟩
  split
  · exact (hcnt.fset _ _ _).alarm _ _ _ _
  · exact hcnt

theorem Dev.Beside.dramFail (kind a cls inst : Nat) (detail : List Byte) : d.Beside (e.dramFail kind a cls inst detail) :=
  ((h.markBurst a).stackFail _).pendFail _

/-! Packet buffers (R383 to R388) -/

theorem Dev.Beside.poolMarks (p : Nat) : d.Beside (e.poolMarks p) := by
  unfold Dev.poolMarks
  dsimp only
  split
  · exact (h.fset _ _ _).notice _ _
  · split
    · exact (h.fset _ _ _).notice _ _
    · exact h

theorem Dev.Beside.poolMin (p : Nat) : d.Beside (e.poolMin p) := by
  unfold Dev.poolMin
  split
  · split
    · exact h.fset _ _ _
    · exact h
  · refine Dev.Beside.fset ?_ _ _ _
    exact ⟨h.cycle, h.slices, h.ports, h.cars, h.leaves, h.hostInj⟩

theorem Dev.Beside.bufQuarantine (p i : Nat) : d.Beside (e.bufQuarantine p i) := by
  unfold Dev.bufQuarantine
  split
  · exact h
  · refine Dev.Beside.poolMin (Dev.Beside.poolMarks (Dev.Beside.cnt ?_ _ _ _) _) _
    exact ⟨h.cycle, h.slices, h.ports, h.cars, h.leaves, h.hostInj⟩

theorem Dev.Beside.bufOut (p i : Nat) : d.Beside (e.bufOut p i).2 := by
  unfold Dev.bufOut
  split
  · exact h
  · split
    · exact (h.parityFail _ _ _ _ _).bufQuarantine _ _
    · exact h

theorem Dev.Beside.bufFree (a owner : Nat) : d.Beside (e.bufFree a owner).2 := by
  unfold Dev.bufFree
  split
  · exact (h.cnt _ _ _).error _ _
  · next p i _ =>
    extract_lets x
    split
    · exact (h.bufOut p i).error _ _
    · split
      · exact (h.cnt _ _ _).error _ _
      · split
        · exact (h.cnt _ _ _).error _ _
        · refine Dev.Beside.poolMarks (Dev.Beside.cnt ?_ _ _ _) _
          exact ⟨h.cycle, h.slices, h.ports, h.cars, h.leaves, h.hostInj⟩

theorem Dev.Beside.freeAll (l : List Nat) : d.Beside (e.freeAll l) := by
  refine h.forAll (fun a h => ?_) l
  unfold Dev.bufRelease
  split <;> exact h.bufFree _ _

theorem Dev.Beside.settleMc : d.Beside e.settleMc := by
  unfold Dev.settleMc
  refine Dev.Beside.freeAll ?_ _
  exact ⟨h.cycle, h.slices, h.ports, h.cars, h.leaves, h.hostInj⟩

end

end Sys2Proof.Machine
end


-- ==== Sys2Proof/Proofs/Fabric.lean ====
section
open Sys2Proof Sys2Proof.Machine
namespace Sys2Proof.Machine

/-! The leaf queues -/

@[simp] theorem lq_updLq_same (d : Dev) (q : Nat) (f : LeafSt → LeafSt) : (d.updLq q f).lq q = f (d.lq q) := at0_upd0_same _ _ _

theorem lq_updLq_other (d : Dev) {q q' : Nat} (f : LeafSt → LeafSt) (h : q' ≠ q) : (d.updLq q f).lq q' = d.lq q' :=
  at0_upd0_other _ _ h

theorem Dev.Beside.lq {d e : Dev} (h : d.Beside e) (q : Nat) : e.lq q = d.lq q := by rw [Dev.lq, h.leaves, Dev.lq]

/-- An entry of a map whose entries are all changed by a function that keeps the default. -/
theorem at0_map {α : Type} [Inhabited α] (f : α → α) (hf : f default = default) (m : List (Nat × α)) (k : Nat) :
    at0 (m.map (fun y => (y.1, f y.2))) k = f (at0 m k) := by
  induction m with
  | nil => exact hf.symm
  | cons y m ih =>
    obtain ⟨i, v⟩ := y
    simp only [at0, List.map_cons, Sparse.get] at ih ⊢
    split
    · rfl
    · exact ih

/-! Row writes (R203) -/

theorem rowWriteEnd_eq {d : Dev} {s e : Nat} (he : e ∈ d.rowEnds s) (hmin : ∀ y ∈ d.rowEnds s, e ≤ y) :
    rowWriteEnd s d = (d.toCycle ((e + 399) / 400)).markWritten s e := by
  unfold rowWriteEnd
  split
  · next h => simp [h] at he
  · next a r h =>
    rw [h] at he hmin
    have : (a :: r).min? = some e := List.min?_eq_some_iff.2 ⟨he, hmin⟩
    rw [List.min?_cons', Option.some.injEq] at this
    rw [this]

theorem markWritten_pkts (d : Dev) (s e q : Nat) : ((d.markWritten s e).lq q).pkts = (d.lq q).pkts.map (fun x =>
    if x.row = s ∧ x.wrEnd = e ∧ x.mc = none then { x with written := true } else x) := by
  simp only [Dev.lq, Dev.markWritten, Option.isNone_iff_eq_none]
  rw [at0_map (fun l : LeafSt => { l with pkts := l.pkts.map _ }) rfl]

theorem cycle_toCycle (d : Dev) (c : Nat) : (d.toCycle c).cycle = max c d.cycle := by
  show d.cycle + (c - d.cycle) = _
  omega

/-! The packet store (R241) -/

theorem storeFetchDone_ok {d : Dev} {q : Nat} {x : QPkt} (hx : (d.lq q).pkts.find? (fun y => y.dram) = some x)
    (hf : x.fetched = false) (hw : x.written = true) : storeFetchDone q true d = d.updLq q (fun l => { l with
      pkts := l.pkts.map (fun y => if y.id = x.id then { y with fetched := true, fetchAt := d.cycle } else y) }) := by
  simp [storeFetchDone, hx, hf, hw]

/-- Discarding from a leaf queue that holds a packet to be discarded. -/
theorem discardIf_pkts (d : Dev) (q : Nat) (p : QPkt → Bool) {x : QPkt} (hx : x ∈ (d.lq q).pkts) (hp : p x = true) :
    ((d.discardIf q p).lq q).pkts = (d.lq q).pkts.filter (fun y => !p y) := by
  have hne : ((d.lq q).pkts.filter p).length ≠ 0 := fun h =>
    List.not_mem_nil (List.length_eq_zero_iff.1 h ▸ List.mem_filter.2 ⟨hx, hp⟩)
  unfold Dev.discardIf
  extract_lets n gone e
  rw [if_neg hne]
  have hbook : (d.updLq q (fun l => { l with pkts := l.pkts.filter (fun x => !p x), head := none })).Beside
      (e.freeAll (gone.map (fun x => x.frees)).flatten) := ((Dev.Beside.refl _).cnt _ _ _).freeAll _
  rw [hbook.lq, lq_updLq_same]

theorem storeFetchDone_lost {d : Dev} {q : Nat} {x : QPkt} (hx : (d.lq q).pkts.find? (fun y => y.dram) = some x)
    (hf : x.fetched = false) (hw : x.written = true) :
    ((storeFetchDone q false d).lq q).pkts = (d.lq q).pkts.filter (fun y => y.id != x.id) := by
  simp only [storeFetchDone, hx, hf, hw, Bool.not_true, Bool.or_self, Bool.false_eq_true, if_false]
  have hbook : d.Beside ((d.freePlace d.pktBase d.pktSize).2.dramFail 1 (d.freePlace d.pktBase d.pktSize).1 0x01 q []) :=
    Dev.Beside.dramFail ((Dev.Beside.refl d).fresh 40) _ _ _ _ _
  rw [discardIf_pkts _ q _ (x := x) (by rw [hbook.lq]; exact List.mem_of_find?_eq_some hx) (by simp), hbook.lq]
  rfl

end Sys2Proof.Machine
end


-- ==== Sys2Proof/Proofs/Lines.lean ====
section
open Sys2Proof Sys2Proof.Machine
namespace Sys2Proof.Machine

/-! What the line of a port changes: frames begin and leave, and no packet of a leaf queue moves (R208, R213). -/

@[simp] theorem pt_updPt_same (d : Dev) (p : Nat) (f : PortSt → PortSt) : (d.updPt p f).pt p = f (d.pt p) := at0_upd0_same _ _ _

theorem pt_updPt_other (d : Dev) {p p' : Nat} (f : PortSt → PortSt) (h : p' ≠ p) : (d.updPt p f).pt p' = d.pt p' :=
  at0_upd0_other _ _ h

@[simp] theorem sl_updSl_same (d : Dev) (s : Nat) (f : SliceSt → SliceSt) : (d.updSl s f).sl s = f (d.sl s) := at0_upd0_same _ _ _

theorem sl_updSl_other (d : Dev) {s s' : Nat} (f : SliceSt → SliceSt) (h : s' ≠ s) : (d.updSl s f).sl s' = d.sl s' :=
  at0_upd0_other _ _ h

theorem Dev.Beside.pt {d e : Dev} (h : d.Beside e) (p : Nat) : e.pt p = d.pt p := by rw [Dev.pt, h.ports, Dev.pt]

/-- Two devices with the same clock, pipelines and carriers and the same packets in their leaf queues. -/
structure Dev.SameQueues (d e : Dev) : Prop where
  cycle : e.cycle = d.cycle
  slices : e.slices = d.slices
  cars : e.cars = d.cars
  pkts : ∀ q, (e.lq q).pkts = (d.lq q).pkts

/-- What tells a frame on a line, whether its MAC start has come or not: its packet, its start, whether it is read and whether it is a
probe. -/
def Tx.mark (t : Tx) : Nat × Nat × Bool × Bool := (t.pkt.id, t.start, t.isRead, t.probe)

/-- Two devices that hold the same frames on their lines as well, under the same holds. -/
structure Dev.SameLines (d e : Dev) : Prop extends d.SameQueues e where
  hold : ∀ p, (e.pt p).hold = (d.pt p).hold
  marks : ∀ p, (e.pt p).tx.map Tx.mark = (d.pt p).tx.map Tx.mark

theorem Dev.SameQueues.refl (d : Dev) : d.SameQueues d := ⟨rfl, rfl, rfl, fun _ => rfl⟩

theorem Dev.SameQueues.trans {d e f : Dev} (hde : d.SameQueues e) (hef : e.SameQueues f) : d.SameQueues f :=
  ⟨hef.cycle.trans hde.cycle, hef.slices.trans hde.slices, hef.cars.trans hde.cars, fun q => (hef.pkts q).trans (hde.pkts q)⟩

theorem Dev.SameLines.refl (d : Dev) : d.SameLines d := ⟨.refl d, fun _ => rfl, fun _ => rfl⟩

theorem Dev.SameLines.trans {d e f : Dev} (hde : d.SameLines e) (hef : e.SameLines f) : d.SameLines f :=
  ⟨hde.toSameQueues.trans hef.toSameQueues, fun p => (hef.hold p).trans (hde.hold p), fun p => (hef.marks p).trans (hde.marks p)⟩

theorem Dev.Beside.sameLines {d e : Dev} (h : d.Beside e) : d.SameLines e :=
  ⟨⟨h.cycle, h.slices, h.cars, fun q => by rw [h.lq]⟩, fun p => by rw [h.pt], fun p => by rw [h.pt]⟩

theorem updLq_sameLines (d : Dev) (q : Nat) (f : LeafSt → LeafSt) (hf : (f (d.lq q)).pkts = (d.lq q).pkts) :
    d.SameLines (d.updLq q f) := by
  refine ⟨⟨rfl, rfl, rfl, fun q' => ?_⟩, fun _ => rfl, fun _ => rfl⟩
  by_cases h : q' = q
  · rw [h, lq_updLq_same, hf]
  · rw [lq_updLq_other d f h]

theorem updPt_sameQueues (d : Dev) (p : Nat) (f : PortSt → PortSt) : d.SameQueues (d.updPt p f) := ⟨rfl, rfl, rfl, fun _ => rfl⟩

theorem updPt_sameLines (d : Dev) (p : Nat) (f : PortSt → PortSt) (hh : (f (d.pt p)).hold = (d.pt p).hold)
    (ht : (f (d.pt p)).tx.map Tx.mark = (d.pt p).tx.map Tx.mark) : d.SameLines (d.updPt p f) := by
  refine ⟨updPt_sameQueues d p f, fun p' => ?_, fun p' => ?_⟩ <;> by_cases h : p' = p
  · rw [h, pt_updPt_same, hh]
  · rw [pt_updPt_other d f h]
  · rw [h, pt_updPt_same, ht]
  · rw [pt_updPt_other d f h]

/-! A frame's MAC start (R208, R297, R298, R306) -/

theorem Dev.Beside.stat {d e : Dev} (h : d.Beside e) (p dir c n : Nat) : d.Beside (e.stat p dir c n) :=
  ⟨h.cycle, h.slices, h.ports, h.cars, h.leaves, h.hostInj⟩

theorem statFrame_beside (d : Dev) (p dir : Nat) (bytes : List Byte) (n m : Nat) (good : Bool) :
    d.Beside (d.statFrame p dir bytes n m good) := by
  unfold Dev.statFrame
  extract_lets d₁ d₂
  have h₁ : d.Beside d₁ := ((Dev.Beside.refl d).stat _ _ _ _).stat _ _ _ _
  have h₂ : d.Beside d₂ := by
    simp only [d₂]
    split
    · exact h₁.stat _ _ _ _
    · exact h₁
  split
  · exact h₂
  · split
    · exact h₂.stat _ _ _ _
    · split
      · exact h₂.stat _ _ _ _
      · exact h₂

theorem txStamp_beside (d : Dev) (p start : Nat) : d.Beside (d.txStamp p start).2 := by
  unfold Dev.txStamp Dev.clientPlace
  split
  · exact (Dev.Beside.refl d).fresh 24
  · exact .refl d

theorem txStamp_regs (d : Dev) (p start : Nat) : (d.txStamp p start).2.regs = d.regs := by
  unfold Dev.txStamp Dev.clientPlace
  split <;> rfl

theorem ptpSend_beside (d : Dev) (x : QPkt) (t : Nat) : d.Beside (d.ptpSend x t).2 := by
  unfold Dev.ptpSend
  split
  · exact .refl d
  · dsimp only
    split
    · exact .refl d
    · split
      · exact (Dev.Beside.refl d).cnt _ _ _
      · split <;> exact (Dev.Beside.refl d).cnt _ _ _

theorem tsTake_beside (d : Dev) (x : QPkt) (t : Nat) : d.Beside (d.tsTake x t) := by
  unfold Dev.tsTake
  split
  · refine ((Dev.Beside.refl d).cnt F.NTU_PORT_TS_CNT_COUNT x.port 1).trans ?_
    unfold Dev.tsWrite
    split
    · split
      · exact (Dev.Beside.refl _).cnt _ _ _
      · exact ⟨rfl, rfl, rfl, rfl, rfl, rfl⟩
    · exact ⟨rfl, rfl, rfl, rfl, rfl, rfl⟩
  · exact .refl d

theorem mbrSent_beside (d : Dev) (k : Nat) (t : Tx) : d.Beside (d.mbrSent k t) := by
  unfold Dev.mbrSent
  refine Dev.Beside.cnt ?_ _ _ _
  exact ⟨rfl, rfl, rfl, rfl, rfl, rfl⟩

theorem sojourn_sameLines (d : Dev) (x : QPkt) (start : Nat) : d.SameLines (d.sojourn x start) := by
  have hmax := updLq_sameLines d x.queue (fun l => { l with sojMax := max l.sojMax ((start - x.adm) / 3) }) rfl
  unfold Dev.sojourn
  dsimp only
  split
  · exact hmax.trans ((Dev.Beside.refl _).fset _ _ _).sameLines
  · exact hmax

theorem onLine_sameLines (d : Dev) (p : Nat) (t : Tx) (bytes : List Byte) : d.SameLines (d.onLine p t bytes) := by
  refine (updPt_sameLines d p _ rfl ?_).trans (statFrame_beside _ _ _ _ _ _ _).sameLines
  rw [List.map_map]
  refine List.map_congr_left fun u _ => ?_
  simp only [Function.comp_apply]
  split <;> rfl

theorem packetStarts_sameLines (d : Dev) (p : Nat) (t : Tx) : d.SameLines (d.packetStarts p t) := by
  unfold Dev.packetStarts
  extract_lets x st ptp d₁ s d₂
  have h₁ : d.Beside d₁ := ((txStamp_beside d p t.start).trans (ptpSend_beside _ _ _)).trans (tsTake_beside _ _ _)
  have h₂ : d.SameLines d₂ := ((h₁.cnt _ _ _).cnt _ _ _).sameLines.trans (sojourn_sameLines _ _ _)
  split
  · exact (h₂.trans (mbrSent_beside _ _ _).sameLines).trans (onLine_sameLines _ _ _ _)
  · exact h₂.trans (onLine_sameLines _ _ _ _)

theorem beginTx_sameLines (d : Dev) (p : Nat) (t : Tx) : d.SameLines (d.beginTx p t) := by
  unfold Dev.beginTx
  split
  · exact (mbrSent_beside _ _ _).sameLines.trans (onLine_sameLines _ _ _ _)
  · exact packetStarts_sameLines d p t

theorem begins_sameLines (d : Dev) (p : Nat) : d.SameLines (d.begins p) :=
  forAll_related Dev.SameLines.refl Dev.SameLines.trans (fun d t => beginTx_sameLines d p t) _ _

/-! Frames that leave the line (R208, R213, R307) -/

theorem lineDone_sameQueues (d : Dev) (p : Nat) : d.SameQueues (d.lineDone p) := by
  refine (begins_sameLines d p).toSameQueues.trans ?_
  unfold Dev.lineDone
  generalize d.begins p = e
  dsimp only
  split
  · exact .refl e
  · refine Dev.SameQueues.trans (e := Dev.updPt { e with tm.sent := _ } p _) ?_
      ((Dev.Beside.refl _).settleMc.freeAll _).sameLines.toSameQueues
    exact ⟨rfl, rfl, rfl, fun _ => rfl⟩

/-- A line without frames has none that end. -/
theorem lineDone_of_empty {d : Dev} {p : Nat} (h : (d.pt p).tx = []) : d.lineDone p = d := by
  have hb : d.begins p = d := by simp [Dev.begins, h, forAll]
  simp [Dev.lineDone, hb, h]

theorem cutOne_sameLines (d : Dev) (p : Nat) (t : Tx) : d.SameLines (d.cutOne p false t) := by
  unfold Dev.cutOne
  split
  · have h := ((Dev.Beside.refl d).cnt F.PRT_TX_ABORT_COUNT p 1).cnt F.CKU_TX_STOMP_COUNT p 1
    exact Dev.Beside.sameLines ⟨h.cycle, h.slices, h.ports, h.cars, h.leaves, h.hostInj⟩
  · split
    · exact .refl d
    · exact ((Dev.Beside.refl d).cnt _ _ _).sameLines

/-- Frames that are cut leave the line; no leaf queue gets them back. -/
theorem cutTx_spec (d : Dev) (p : Nat) (sel : Tx → Bool) :
    d.SameQueues (d.cutTx p sel) ∧ ∀ y ∈ ((d.cutTx p sel).pt p).tx, sel y = false := by
  have hline := lineDone_sameQueues d p
  unfold Dev.cutTx
  generalize d.lineDone p = e at hline
  dsimp only
  split
  · next h =>
    rw [List.isEmpty_iff, List.filter_eq_nil_iff] at h
    exact ⟨hline, fun y hy => by simpa using h y hy⟩
  · generalize hf : forAll _ _ e = f
    have hcut : e.SameLines f := by
      rw [← hf]
      exact forAll_related Dev.SameLines.refl Dev.SameLines.trans (fun d t => cutOne_sameLines d p t) _ _
    have hbook (g : Dev) (l : List Nat) := (Dev.Beside.refl g).settleMc.freeAll l
    refine ⟨(hline.trans hcut.toSameQueues).trans
      ((updPt_sameQueues f p _).trans (hbook _ _).sameLines.toSameQueues), fun y hy => ?_⟩
    rw [(hbook _ _).pt, pt_updPt_same] at hy
    simpa using (List.mem_filter.1 hy).2

/-! The end of a read (R202, R213) -/

theorem toCycle_pt (d : Dev) (c p : Nat) : (d.toCycle c).pt p = d.pt p := rfl

section
variable {d : Dev} {p : Nat} {t : Tx} (h : (d.pt p).tx.find? (fun t => !t.isRead && !t.probe && !d.keptTx p t) = some t)
include h

theorem frameReadEnd_read : frameReadEnd p false d = ((((d.toCycle (t.stop - 84)).begins p).updPt p (fun y => { y with
    tx := y.tx.map (fun u => if u.start == t.start && !u.probe then { u with isRead := true } else u) })).settleMc).freeAll
      t.pkt.frees := by
  simp only [frameReadEnd, h, Bool.false_eq_true, if_false]

theorem frameReadEnd_read_queues : (d.toCycle (t.stop - 84)).SameQueues (frameReadEnd p false d) := by
  rw [frameReadEnd_read h]
  exact (begins_sameLines _ p).toSameQueues.trans ((updPt_sameQueues _ p _).trans
    ((Dev.Beside.refl _).settleMc.freeAll _).sameLines.toSameQueues)

theorem frameReadEnd_read_marks : (((frameReadEnd p false d).pt p).tx.map Tx.mark) =
    ((d.pt p).tx.map (fun u => if u.start = t.start ∧ u.probe = false then { u with isRead := true } else u)).map Tx.mark := by
  have hmark (l : List Tx) : (l.map (fun u => if u.start == t.start && !u.probe then { u with isRead := true } else u)).map Tx.mark =
      (l.map Tx.mark).map (fun m => if m.2.1 = t.start ∧ m.2.2.2 = false then (m.1, m.2.1, true, m.2.2.2) else m) := by
    simp only [List.map_map]
    refine List.map_congr_left fun u _ => ?_
    simp only [Function.comp_apply, Tx.mark]
    by_cases hu : u.start = t.start ∧ u.probe = false
    · simp [hu]
    · simp only [Bool.and_eq_true, beq_iff_eq, Bool.not_eq_true', hu, if_false]
  rw [frameReadEnd_read h, ((Dev.Beside.refl _).settleMc.freeAll _).pt, pt_updPt_same, hmark, (begins_sameLines _ p).marks p,
    toCycle_pt, ← hmark]
  simp only [Bool.and_eq_true, beq_iff_eq, Bool.not_eq_true']

theorem frameReadEnd_parity : (d.toCycle (t.stop - 84)).SameQueues (frameReadEnd p true d) ∧
    ∀ y ∈ ((frameReadEnd p true d).pt p).tx, y.probe = true ∨ y.start ≠ t.start := by
  simp only [frameReadEnd, h, if_true]
  generalize hw : (((d.toCycle (t.stop - 84)).begins p).fresh 20).1 = w
  have hfail := ((Dev.Beside.refl ((d.toCycle (t.stop - 84)).begins p)).fresh 20).parityFail 0x10 (t.pkt.port / 32) w [] false
  generalize (((d.toCycle (t.stop - 84)).begins p).fresh 20).2.parityFail 0x10 (t.pkt.port / 32) w [] = e at hfail
  obtain ⟨hq, hgone⟩ := cutTx_spec e p (fun u => u.start == t.start && !u.probe)
  generalize e.cutTx p (fun u => u.start == t.start && !u.probe) = f at hq hgone
  have hbook (c : Prop) [Decidable c] : f.Beside (if c then ((f.cnt F.XPF_PAR_DROP_COUNT (t.pkt.port / 32)).cnt F.XPF_ABORT_CNT_COUNT
      (t.pkt.port / 32)).cnt F.TMG_Q_DISCARD_COUNT t.pkt.queue else f.cnt F.XPF_PAR_DROP_COUNT (t.pkt.port / 32)) := by
    split
    · exact (((Dev.Beside.refl f).cnt _ _ _).cnt _ _ _).cnt _ _ _
    · exact (Dev.Beside.refl f).cnt _ _ _
  refine ⟨((begins_sameLines _ p).toSameQueues.trans hfail.sameLines.toSameQueues).trans
    (hq.trans (hbook _).sameLines.toSameQueues), fun y hy => ?_⟩
  rw [(hbook _).pt] at hy
  have hy' := hgone y hy
  by_cases hp : y.probe = true
  · exact .inl hp
  · exact .inr (by simpa [hp] using hy')

end

end Sys2Proof.Machine
end


-- ==== Sys2Proof/Proofs/FrameStart.lean ====
section
open Sys2Proof Sys2Proof.Machine
namespace Sys2Proof.Machine

/-! EGRESS_FRAME_START (R19, R208): the head that `tm_select` names is taken and stands at the MAC. -/

/-! The choice of the leaf queue and its charges (R208, R227, R228) -/

/-- Two devices that differ in the tags of the leaf queues and the accounts of ports and leaves alone. -/
structure Dev.OnlySched (d e : Dev) : Prop extends d.SameLines e where
  regs : e.regs = d.regs

theorem Dev.OnlySched.refl (d : Dev) : d.OnlySched d := ⟨.refl d, rfl⟩

theorem Dev.OnlySched.trans {d e f : Dev} (hde : d.OnlySched e) (hef : e.OnlySched f) : d.OnlySched f :=
  ⟨hde.toSameLines.trans hef.toSameLines, hef.regs.trans hde.regs⟩

theorem Dev.OnlySched.updLq {d e : Dev} (h : d.OnlySched e) (q : Nat) (f : LeafSt → LeafSt) (hf : ∀ l, (f l).pkts = l.pkts) :
    d.OnlySched (e.updLq q f) := h.trans ⟨updLq_sameLines e q f (hf _), rfl⟩

theorem Dev.OnlySched.updPt {d e : Dev} (h : d.OnlySched e) (p : Nat) (f : PortSt → PortSt) (hh : ∀ y, (f y).hold = y.hold)
    (ht : ∀ y, (f y).tx = y.tx) : d.OnlySched (e.updPt p f) :=
  h.trans ⟨updPt_sameLines e p f (hh _) (by rw [ht]), rfl⟩

theorem Dev.OnlySched.clearHead {d e : Dev} (h : d.OnlySched e) (q : Nat) : d.OnlySched (e.clearHead q) := by
  unfold Dev.clearHead
  split
  · exact h
  · exact h.updLq q _ fun _ => rfl

theorem clearHeads_onlySched (d : Dev) (l : List Nat) : d.OnlySched (forAll l (fun d q => d.clearHead q) d) :=
  forAll_related Dev.OnlySched.refl Dev.OnlySched.trans (fun d q => (Dev.OnlySched.refl d).clearHead q) l d

theorem tagHeads_onlySched (d : Dev) (p : Nat) : d.OnlySched (d.tagHeads p) := by
  unfold Dev.tagHeads
  refine (clearHeads_onlySched d _).trans (forAll_related Dev.OnlySched.refl Dev.OnlySched.trans (fun d c => ?_) _ _)
  dsimp only
  split
  · exact .refl d
  · exact (Dev.OnlySched.refl d).updLq c.1 _ fun _ => rfl

theorem tmSelect_onlySched (d : Dev) (p : Nat) : d.OnlySched (tmSelect p d).2 := by
  have htag := tagHeads_onlySched d p
  unfold tmSelect
  generalize d.tagHeads p = e at htag ⊢
  dsimp only
  cases e.choices p with
  | nil => exact htag
  | cons c r =>
    dsimp only
    split
    · exact htag
    · refine Dev.OnlySched.updPt (Dev.OnlySched.updLq htag _ _ ?_) p _ ?_ ?_ <;> exact fun _ => rfl

theorem startCharge_onlySched (d : Dev) (x : QPkt) : d.OnlySched (d.startCharge x) := by
  unfold Dev.startCharge
  extract_lets p q l w c r d₁ d₂ d₃
  have h₁ : d.OnlySched d₁ := (Dev.OnlySched.refl d).updPt p _ (fun _ => rfl) (fun _ => rfl)
  have h₂ : d.OnlySched d₂ := by
    simp only [d₂]
    split
    · exact h₁.updLq q _ fun _ => rfl
    · exact h₁
  have h₃ : d.OnlySched d₃ := by
    simp only [d₃]
    split
    · exact h₂.updPt p _ (fun _ => rfl) (fun _ => rfl)
    · exact h₂
  exact h₃.trans (clearHeads_onlySched _ _)

/-! The egress copy of a frame (R195, R196) -/

/-- What a parity failure of the session's configuration and the copies refused write: their counters and the state of the unit. -/
def mirrorRegs : List Nat := [R.FWD_DEST_DROP, R.ERR_PAR_CNT, R.ERR_Q_STATUS, R.ERR_Q_LOST]

/-- Two devices that differ in book-keeping alone, and in no register but those of the mirror sessions. -/
structure Dev.OnlyMirror (d e : Dev) : Prop extends d.Beside e where
  regs : ∀ off i, off ∉ mirrorRegs → i < 2 ^ 20 → e.rget off i = d.rget off i

theorem Dev.OnlyMirror.refl (d : Dev) : d.OnlyMirror d := ⟨.refl d, fun _ _ _ _ => rfl⟩

theorem Dev.OnlyMirror.trans {d e f : Dev} (hde : d.OnlyMirror e) (hef : e.OnlyMirror f) : d.OnlyMirror f :=
  ⟨hde.toBeside.trans hef.toBeside, fun off i ho hi => (hef.regs off i ho hi).trans (hde.regs off i ho hi)⟩

theorem fset_onlyMirror (d : Dev) (f : Fld) {i : Nat} (v : Nat) (hf : f.off ∈ mirrorRegs) (hi : i < 2 ^ 20) :
    d.OnlyMirror (d.fset f i v) :=
  ⟨(Dev.Beside.refl d).fset f i v, fun _ _ ho hj => Dev.rget_fset_other d f hi hj (.inl fun h => ho (h ▸ hf))⟩

theorem cnt_onlyMirror (d : Dev) (f : Fld) {i : Nat} (n : Nat) (hf : f.off ∈ mirrorRegs) (hi : i < 2 ^ 20) :
    d.OnlyMirror (d.cnt f i n) :=
  ⟨(Dev.Beside.refl d).cnt f i n, fun _ _ ho hj => Dev.rget_cnt_ne d f (regKey_ne hi hj (.inl fun h => ho (h ▸ hf)))⟩

theorem sramRead_onlyMirror (d : Dev) (s w : Nat) (detail : List Byte) : d.OnlyMirror (d.sramRead 0x17 s w detail).2 := by
  unfold Dev.sramRead
  split
  · have hmark : d.OnlyMirror (d.markWord 0x17 w) := by
      unfold Dev.markWord
      split
      · exact .refl d
      · exact ⟨⟨rfl, rfl, rfl, rfl, rfl, rfl⟩, fun _ _ _ _ => rfl⟩
    refine (hmark.trans (cnt_onlyMirror _ F.ERR_PAR_CNT_COUNT (i := 0) 1 (by decide) (by decide))).trans ?_
    show Dev.OnlyMirror _ (Dev.pendFail _ _)
    unfold Dev.pendFail
    dsimp only
    split
    · exact ⟨⟨rfl, rfl, rfl, rfl, rfl, rfl⟩, fun _ _ _ _ => rfl⟩
    · have hu : errUnit 2 0x17 s w = 21 := by simp [errUnit]
      rw [hu]
      exact (fset_onlyMirror _ F.ERR_Q_STATUS_MULTI 1 (by decide) (by decide)).trans
        (cnt_onlyMirror _ F.ERR_Q_LOST_COUNT 1 (by decide) (by decide))
  · exact .refl d

theorem tabBad_onlyMirror (b : Block) (s off n : Nat) : b.dev.OnlyMirror (b.tabBad s off n).2.dev := by
  unfold Block.tabBad
  generalize List.range ((off % 8 + n + 7) / 8) = l
  suffices h : ∀ a : Bool × Block, b.dev.OnlyMirror a.2.dev → b.dev.OnlyMirror (l.foldl (fun a i =>
      (a.1 || (a.2.dev.sramRead 0x17 s ((off - 0x3400000) / 8 + i) (toLe 4 (0x3400000 + 8 * ((off - 0x3400000) / 8 + i)))).1,
        { a.2 with dev := (a.2.dev.sramRead 0x17 s ((off - 0x3400000) / 8 + i) (toLe 4 (0x3400000 + 8 * ((off - 0x3400000) / 8 + i)))).2 }))
      a).2.dev from h (false, b) (.refl _)
  induction l with
  | nil => exact fun a h => h
  | cons i l ih => exact fun a h => ih _ (h.trans (sramRead_onlyMirror _ _ _ _))

theorem mirrorTakes_onlyMirror (b : Block) {slice : Nat} (n : Nat) (egress : Bool) (hs : slice < 2 ^ 20) :
    b.dev.OnlyMirror (b.mirrorTakes slice n egress).2.dev := by
  have htab := tabBad_onlyMirror b slice (mirOff n) 16
  unfold Block.mirrorTakes
  dsimp only
  split
  · exact htab.trans (cnt_onlyMirror _ F.FWD_DEST_DROP_COUNT 1 (by decide) hs)
  · split
    · exact htab
    · exact htab.trans ⟨⟨rfl, rfl, rfl, rfl, rfl, rfl⟩, fun _ _ _ _ => rfl⟩

/-- Two devices that differ as by a mirror session's copy: in its registers, in book-keeping and in what a pipeline will take again. -/
structure Dev.OnlyCopied (d e : Dev) : Prop where
  cycle : e.cycle = d.cycle
  ports : e.ports = d.ports
  cars : e.cars = d.cars
  leaves : e.tm.leaves = d.tm.leaves
  lastTx : ∀ s, (e.sl s).lastTx = (d.sl s).lastTx
  regs : ∀ off i, off ∉ mirrorRegs → i < 2 ^ 20 → e.rget off i = d.rget off i

theorem Dev.OnlyCopied.trans {d e f : Dev} (hde : d.OnlyCopied e) (hef : e.OnlyCopied f) : d.OnlyCopied f :=
  ⟨hef.cycle.trans hde.cycle, hef.ports.trans hde.ports, hef.cars.trans hde.cars, hef.leaves.trans hde.leaves,
    fun s => (hef.lastTx s).trans (hde.lastTx s), fun off i ho hi => (hef.regs off i ho hi).trans (hde.regs off i ho hi)⟩

theorem Dev.OnlyMirror.copied {d e : Dev} (h : d.OnlyMirror e) : d.OnlyCopied e :=
  ⟨h.cycle, h.ports, h.cars, h.leaves, fun s => by rw [Dev.sl, h.slices, Dev.sl], h.regs⟩

theorem Dev.OnlyCopied.updSl {d e : Dev} (h : d.OnlyCopied e) (s : Nat) (f : SliceSt → SliceSt) (hf : ∀ y, (f y).lastTx = y.lastTx) :
    d.OnlyCopied (e.updSl s f) := by
  refine ⟨h.cycle, h.ports, h.cars, h.leaves, fun s' => ?_, h.regs⟩
  rw [← h.lastTx]
  by_cases hs : s' = s
  · rw [hs, sl_updSl_same, hf]
  · rw [sl_updSl_other _ _ hs]

theorem mirrorEgress_onlyCopied (b : Block) (x : QPkt) (data : List Byte) (hx : x.port < 512) :
    b.dev.OnlyCopied (b.mirrorEgress x data).dev := by
  unfold Block.mirrorEgress
  extract_lets s n t
  have ht : b.dev.OnlyCopied t.2.dev := (mirrorTakes_onlyMirror b n true (by omega)).copied
  split
  · exact (Dev.OnlyMirror.refl _).copied
  · split
    · exact ht
    · exact ht.updSl s _ fun _ => rfl

/-! The frame at the MAC -/

theorem pl_onlyMirror (d : Dev) (slice ev n : Nat) : d.OnlyMirror (d.pl slice ev n) :=
  ⟨(Dev.Beside.refl d).pl slice ev n, fun off i _ _ => by rw [pl_asidePmu d slice ev n]; rfl⟩

/-- What `takeFrame` does on a port that is no team's: the packet leaves its queue, and its frame joins the port's line. -/
theorem takeFrame_spec (b : Block) (x : QPkt) (start : Nat) (hx : x.port < 512) :
    ∃ e ct len, (b.dev.unqueue x.queue x.id).OnlySched e ∧
      (e.putLine x.port start { pkt := { x with ct := ct }, len := len }).OnlyCopied (b.takeFrame x start none).dev := by
  refine ⟨(b.dev.unqueue x.queue x.id).startCharge { x with ct := b.dev.ctNow x }, b.dev.ctNow x, x.data.length + 4,
    startCharge_onlySched _ _, ?_⟩
  unfold Block.takeFrame
  dsimp only
  refine Dev.OnlyCopied.trans ?_ (mirrorEgress_onlyCopied _ _ _ hx)
  dsimp only
  split
  · exact ((pl_onlyMirror _ _ _ _).trans (pl_onlyMirror _ _ _ _)).copied
  · exact (pl_onlyMirror _ _ _ _).copied

theorem putLine_tx (d : Dev) (p start : Nat) (t : Tx) : ((d.putLine p start t).pt p).tx =
    ((d.lineDone p).pt p).tx ++ [{ t with start := start, stop := start + d.byteCycles p t.len }] := by
  rw [Dev.putLine, pt_updPt_same]

theorem putLine_sameQueues (d : Dev) (p start : Nat) (t : Tx) : d.SameQueues (d.putLine p start t) :=
  (lineDone_sameQueues d p).trans (updPt_sameQueues _ _ _)

/-- The one port of a list of copies of it is picked. -/
theorem egressPick_single (d : Dev) {l : List Nat} {p : Nat} (hp : p ∈ l) (h : ∀ o ∈ l, o = p) : d.egressPick l = some p := by
  unfold Dev.egressPick
  extract_lets v
  have hstep : ∀ (m : List Nat) (a : Option Nat), (∀ o ∈ m, o = p) → (a = some p ∨ m ≠ [] ∧ a = none) →
      m.foldl (fun (a : Option Nat) p => match a with
        | none => some p
        | some b => if v b < v p then some p else some b) a = some p := by
    intro m
    induction m with
    | nil => rintro a - (rfl | ⟨h, -⟩) <;> simp_all
    | cons o m ih =>
      intro a hm ha
      obtain rfl : o = p := hm o List.mem_cons_self
      refine ih _ (fun k hk => hm k (List.mem_cons_of_mem _ hk)) (.inl ?_)
      rcases ha with rfl | ⟨-, rfl⟩ <;> simp
  exact hstep l none h (.inr ⟨List.ne_nil_of_mem hp, rfl⟩)

/-- The start slot of a pipeline: one cycle after the last (R19). -/
def Dev.startSlot (d : Dev) (s : Nat) : Dev :=
  match (d.sl s).lastTx with
  | some c => d.toCycle (c + 1)
  | none => d

/-- The device at a start, its slot taken. -/
def Dev.slotTaken (d : Dev) (s : Nat) : Dev := (d.startSlot s).updSl s (fun y => { y with lastTx := some (d.startSlot s).cycle })

section
variable {b : Block} {s p q : Nat} {x : QPkt} {e : Dev}
variable (hbusy : p ∈ (b.dev.startSlot s).busyPorts s) (hcan : (b.dev.startSlot s).canStart p = true)
variable (hone : ∀ o ∈ (b.dev.startSlot s).busyPorts s, (b.dev.startSlot s).canStart o = true → o = p)
variable (hteam : (b.dev.startSlot s).teamOf p = none) (hsel : tmSelect p (b.dev.slotTaken s) = (some (q, x), e))
variable (hdue : (b.dev.startSlot s).macStart p ≤ x.adm + x.bound)
include hbusy hcan hone hteam hsel hdue

theorem egressFrameStart_takes :
    egressFrameStart s b = ({ b with dev := e } : Block).takeFrame x ((b.dev.startSlot s).macStart p) none := by
  have hany : ((b.dev.startSlot s).busyPorts s).any (fun p => (b.dev.startSlot s).canStart p) = true :=
    List.any_eq_true.2 ⟨p, hbusy, hcan⟩
  have hpick : (b.dev.startSlot s).egressPick (((b.dev.startSlot s).busyPorts s).filter (fun p => (b.dev.startSlot s).canStart p)) =
      some p := egressPick_single _ (List.mem_filter.2 ⟨hbusy, hcan⟩) fun o ho =>
    hone o (List.mem_filter.1 ho).1 (List.mem_filter.1 ho).2
  unfold egressFrameStart
  extract_lets z ps z₁ z₂
  have hz₁ : z₁ = b.dev.startSlot s := if_pos hany
  have hps : ps = (b.dev.startSlot s).busyPorts s := rfl
  have hz₂ : z₂ = b.dev.slotTaken s := by simp only [z₂, hz₁, Dev.slotTaken]
  simp only [hz₁, hz₂, hps, hpick, hteam, Option.bind_none, hsel]
  rw [if_neg (by omega)]

end

/-! The frame that begins (R297, R298, R306) -/

/-- Without PTP writes on its port a packet's bytes leave as they are. -/
theorem ptpSend_off {d : Dev} {x : QPkt} (ho : d.fon F.NTU_PORT_CFG_ONE_STEP_EN x.port = false)
    (ht : d.fon F.NTU_PORT_CFG_TC_EN x.port = false) (t : Nat) : (d.ptpSend x t).1 = x.data := by
  unfold Dev.ptpSend
  split
  · rfl
  · simp [Dev.ptpWants, ho, ht]

theorem sojourn_pt (d : Dev) (x : QPkt) (start p : Nat) : (d.sojourn x start).pt p = d.pt p := by
  unfold Dev.sojourn
  dsimp only
  split <;> rfl

/-- The one frame of a line whose start has come has begun, with its FCS. -/
theorem begins_single {d : Dev} {p : Nat} {t : Tx} (htx : (d.pt p).tx = [t]) (hb : t.begun = false) (hp : t.probe = false)
    (hm : t.mbr = none) (hs : t.start < d.cycle) (hk : d.keptTx p t = false)
    (ho : d.fon F.NTU_PORT_CFG_ONE_STEP_EN t.pkt.port = false) (ht : d.fon F.NTU_PORT_CFG_TC_EN t.pkt.port = false) :
    ((d.begins p).pt p).tx = [{ t with begun := true, bytes := withFcs t.pkt.data }] := by
  have hbegins : d.begins p = d.packetStarts p t := by
    simp [Dev.begins, htx, hb, Dev.started, hs, hk, forAll, Dev.beginTx, hp, hm]
  rw [hbegins]
  have hbytes : ((d.txStamp p t.start).2.ptpSend t.pkt (d.txStamp p t.start).1).1 = t.pkt.data := by
    refine ptpSend_off ?_ ?_ _
    · exact (Dev.fon_congr (txStamp_regs d p t.start) _ _).trans ho
    · exact (Dev.fon_congr (txStamp_regs d p t.start) _ _).trans ht
  unfold Dev.packetStarts
  extract_lets x st ptp d₁ sl d₂
  have hd₂ : d₂.pt p = d.pt p := by
    simp only [d₂, sojourn_pt]
    exact (((((txStamp_beside d p t.start).trans (ptpSend_beside _ _ _)).trans (tsTake_beside _ _ _)).cnt _ _ _).cnt _ _ _).pt p
  split
  · next k hk => simp [hm] at hk
  rw [Dev.onLine, (statFrame_beside _ _ _ _ _ _ _).pt, pt_updPt_same, hd₂, htx]
  simp [hb, hbytes, ptp, x, st]

theorem keptTx_of_not_held {d : Dev} {p : Nat} (h : d.heldKey (d.holdKeyOf p) = false) (t : Tx) : d.keptTx p t = false := by
  simp only [Dev.heldKey, Option.isSome_eq_false_iff, Option.isNone_iff_eq_none] at h
  simp [Dev.keptTx, h]

end Sys2Proof.Machine
end


-- ==== Sys2Proof/Proofs/FabricEvents.lean ====
section
open Sys2Proof Sys2Proof.Machine
namespace Sys2Proof.Machine

/-! The start of a frame, put together (R19, R208, R306) -/

theorem unqueue_pkts (d : Dev) (q id : Nat) : ((d.unqueue q id).lq q).pkts = (d.lq q).pkts.filter (fun y => y.id != id) := by
  rw [Dev.unqueue, lq_updLq_same]

theorem startSlot_lq (d : Dev) (s q : Nat) : (d.startSlot s).lq q = d.lq q := by
  unfold Dev.startSlot
  split <;> rfl

theorem startSlot_pt (d : Dev) (s p : Nat) : (d.startSlot s).pt p = d.pt p := by
  unfold Dev.startSlot
  split <;> rfl

theorem startSlot_regs (d : Dev) (s : Nat) : (d.startSlot s).regs = d.regs := by
  unfold Dev.startSlot
  split <;> rfl

theorem busyPorts_lt {d : Dev} {s p : Nat} (hs : s < 16) (h : p ∈ d.busyPorts s) : p < 512 := by
  obtain ⟨hp, -⟩ := List.mem_filter.1 h
  obtain ⟨k, hk, rfl⟩ := List.mem_map.1 hp
  have := List.mem_range.1 hk
  omega

/-- A port of no team that has frames to start is not held. -/
theorem busyPorts_not_held {d : Dev} {s p : Nat} (h : p ∈ d.busyPorts s) (ht : d.teamOf p = none) :
    d.heldKey (d.holdKeyOf p) = false := by
  obtain ⟨-, hp⟩ := List.mem_filter.1 h
  simp only [Bool.and_eq_true, Bool.not_eq_true', Dev.held, ht] at hp
  exact hp.1.2

/-- What tells whether a port is held is its mode, its own hold and its carrier's. -/
theorem heldKey_congr {d e : Dev} {p : Nat} (hr : e.rget R.PRT_MODE p = d.rget R.PRT_MODE p) (hc : e.cars = d.cars)
    (hh : ∀ k, (e.pt k).hold = (d.pt k).hold) : e.heldKey (e.holdKeyOf p) = d.heldKey (d.holdKeyOf p) := by
  have hf (f : Fld) (ho : f.off = R.PRT_MODE) : e.fget f p = d.fget f p := by rw [Dev.fget, ho, hr, Dev.fget, ho]
  have hkind : e.isClient p = d.isClient p := by rw [Dev.isClient, hf _ rfl, Dev.isClient]
  have hcar : e.carrierOf p = d.carrierOf p := hf _ rfl
  have hk : e.holdKeyOf p = d.holdKeyOf p := by rw [Dev.holdKeyOf, hkind, hcar, Dev.holdKeyOf]
  have hst (k : Nat) : e.heldSt k = d.heldSt k := by
    simp only [Dev.heldSt, hh, Dev.car, hc]
  rw [hk, Dev.heldKey, hst, Dev.heldKey]

section
variable {b : Block} {s p q : Nat} {x : QPkt} {e : Dev} (hs : s < 16)
variable (hbusy : p ∈ (b.dev.startSlot s).busyPorts s) (hcan : (b.dev.startSlot s).canStart p = true)
variable (hone : ∀ o ∈ (b.dev.startSlot s).busyPorts s, (b.dev.startSlot s).canStart o = true → o = p)
variable (hteam : (b.dev.startSlot s).teamOf p = none) (hsel : tmSelect p (b.dev.slotTaken s) = (some (q, x), e))
variable (hport : x.port = p) (hqueue : x.queue = q)
variable (hdue : (b.dev.startSlot s).macStart p ≤ x.adm + x.bound)
include hs hbusy hcan hone hteam hsel hport hqueue hdue

/-- The device before the frame joins the line: the packet has left its queue, and the scheduler has charged it. -/
theorem egressFrameStart_charged : ∃ f ct len, ((e.unqueue q x.id).OnlySched f) ∧
    (f.putLine p ((b.dev.startSlot s).macStart p) { pkt := { x with ct := ct }, len := len }).OnlyCopied (egressFrameStart s b).dev := by
  rw [egressFrameStart_takes hbusy hcan hone hteam hsel hdue]
  subst hport hqueue
  exact takeFrame_spec { b with dev := e } x _ (busyPorts_lt hs hbusy)

theorem egressFrameStart_queues : (egressFrameStart s b).dev.cycle = (b.dev.startSlot s).cycle ∧
    ((egressFrameStart s b).dev.sl s).lastTx = some (b.dev.startSlot s).cycle ∧
    ((egressFrameStart s b).dev.lq q).pkts = (b.dev.lq q).pkts.filter (fun y => y.id != x.id) := by
  obtain ⟨f, ct, len, hf, hu⟩ := egressFrameStart_charged hs hbusy hcan hone hteam hsel hport hqueue hdue
  have he : (b.dev.slotTaken s).OnlySched e := by simpa only [hsel] using tmSelect_onlySched (b.dev.slotTaken s) p
  have hline := putLine_sameQueues f p ((b.dev.startSlot s).macStart p) { pkt := { x with ct := ct }, len := len }
  refine ⟨?_, ?_, ?_⟩
  · exact hu.cycle.trans (hline.cycle.trans (hf.cycle.trans he.cycle))
  · have hsl : f.slices = (b.dev.slotTaken s).slices := hf.slices.trans he.slices
    rw [hu.lastTx, Dev.sl, hline.slices, hsl]
    exact congrArg SliceSt.lastTx (sl_updSl_same (b.dev.startSlot s) s _)
  · rw [Dev.lq, hu.leaves, ← Dev.lq, hline.pkts, hf.pkts, unqueue_pkts, he.pkts]
    exact congrArg (List.filter _) (congrArg LeafSt.pkts (startSlot_lq b.dev s q))

theorem egressFrameStart_line : ∃ t ∈ ((egressFrameStart s b).dev.pt p).tx, t.pkt.data = x.data ∧ t.pkt.id = x.id ∧
    t.start = (b.dev.startSlot s).macStart p ∧ t.isRead = false ∧ t.begun = false := by
  obtain ⟨f, ct, len, -, hu⟩ := egressFrameStart_charged hs hbusy hcan hone hteam hsel hport hqueue hdue
  rw [Dev.pt, hu.ports, ← Dev.pt, putLine_tx]
  exact ⟨_, List.mem_append_right _ List.mem_cons_self, rfl, rfl, rfl, rfl, rfl⟩

/-- On an empty line the frame begins with its FCS at its MAC start. -/
theorem egressFrameStart_begins (ho : b.dev.fon F.NTU_PORT_CFG_ONE_STEP_EN p = false)
    (ht : b.dev.fon F.NTU_PORT_CFG_TC_EN p = false) (hempty : (b.dev.pt p).tx = []) :
    ∃ t, ((((egressFrameStart s b).dev.toCycle ((b.dev.startSlot s).macStart p + 1)).begins p).pt p).tx = [t] ∧ t.begun = true ∧
      t.bytes = withFcs x.data := by
  obtain ⟨f, ct, len, hf, hu⟩ := egressFrameStart_charged hs hbusy hcan hone hteam hsel hport hqueue hdue
  have he : (b.dev.slotTaken s).OnlySched e := by simpa only [hsel] using tmSelect_onlySched (b.dev.slotTaken s) p
  have hp : p < 512 := busyPorts_lt hs hbusy
  have hnil : (f.pt p).tx = [] := by
    have h := (hf.marks p).trans (he.marks p)
    rw [show ((b.dev.slotTaken s).pt p).tx = [] from (congrArg PortSt.tx (startSlot_pt b.dev s p)).trans hempty] at h
    simpa using h
  have hregs (off : Nat) (h : off ∉ mirrorRegs) : (egressFrameStart s b).dev.rget off p = b.dev.rget off p := by
    refine (hu.regs off p h (by omega)).trans (Dev.rget_congr ?_ off p)
    rw [Dev.putLine, lineDone_of_empty hnil]
    exact hf.regs.trans (he.regs.trans (startSlot_regs b.dev s))
  have hhold (k : Nat) : ((egressFrameStart s b).dev.pt k).hold = ((b.dev.startSlot s).pt k).hold := by
    rw [Dev.pt, hu.ports, ← Dev.pt, Dev.putLine, lineDone_of_empty hnil]
    refine Eq.trans ?_ ((hf.hold k).trans (he.hold k))
    by_cases hk : k = p
    · rw [hk, pt_updPt_same]
    · rw [pt_updPt_other _ _ hk]
  have hcars : (egressFrameStart s b).dev.cars = (b.dev.startSlot s).cars :=
    hu.cars.trans ((putLine_sameQueues _ _ _ _).cars.trans (hf.cars.trans he.cars))
  have hmode : (egressFrameStart s b).dev.rget R.PRT_MODE p = (b.dev.startSlot s).rget R.PRT_MODE p :=
    (hregs _ (by decide)).trans (Dev.rget_congr (startSlot_regs b.dev s) _ _).symm
  have hheld := (heldKey_congr hmode hcars hhold).trans (busyPorts_not_held hbusy hteam)
  have hfon (g : Fld) (h : g.off ∉ mirrorRegs) : (egressFrameStart s b).dev.fon g p = b.dev.fon g p := by
    rw [Dev.fon, Dev.fget, hregs _ h]
    rfl
  have htx := putLine_tx f p ((b.dev.startSlot s).macStart p) { pkt := { x with ct := ct }, len := len }
  rw [lineDone_of_empty hnil, hnil, Dev.pt, ← hu.ports, ← Dev.pt] at htx
  refine ⟨_, begins_single (d := (egressFrameStart s b).dev.toCycle ((b.dev.startSlot s).macStart p + 1)) htx rfl rfl rfl ?_
    (keptTx_of_not_held hheld _) ?_ ?_, rfl, rfl⟩
  · rw [cycle_toCycle]
    exact Nat.lt_of_lt_of_le (Nat.lt_succ_self _) (Nat.le_max_left _ _)
  · exact hport ▸ (hfon F.NTU_PORT_CFG_ONE_STEP_EN (by decide)).trans ho
  · exact hport ▸ (hfon F.NTU_PORT_CFG_TC_EN (by decide)).trans ht

end

/-- Settles O26: the four events of the fabric, each by its own lemmas. -/
theorem writesFetchesAndFramesOfTheFabric : Obligations.writes_fetches_and_frames_of_the_fabric := by
  unfold Obligations.writes_fetches_and_frames_of_the_fabric
  intro s hrun
  refine ⟨fun slice e he hmin => ?_, fun q x hx hf hw => ⟨?_, ?_⟩, ?_, fun p t ht => ?_⟩
  · refine ⟨_, event_running (rowWriteEnd slice) hrun, rfl, rfl, ?_, ?_, fun q => ?_⟩ <;> dsimp only <;> rw [rowWriteEnd_eq he hmin]
    · rfl
    · exact (Nat.le_max_left _ _).trans_eq (cycle_toCycle s.dev _).symm
    · exact markWritten_pkts _ slice e q
  · refine ⟨_, event_running (storeFetchDone q true) hrun, rfl, rfl, ?_, ?_⟩ <;> dsimp only <;> rw [storeFetchDone_ok hx hf hw]
    · rfl
    · rw [lq_updLq_same]
  · exact ⟨_, event_running (storeFetchDone q false) hrun, rfl, rfl, storeFetchDone_lost hx hf hw⟩
  · intro slice p q x e z d hbusy hcan hone hteam hsel hport hqueue hdue ho ht
    obtain ⟨hcycle, hlast, hpkts⟩ := egressFrameStart_queues (b := s.blk) slice.isLt hbusy hcan hone hteam hsel hport hqueue hdue
    have hline := egressFrameStart_line (b := s.blk) slice.isLt hbusy hcan hone hteam hsel hport hqueue hdue
    have hbegins := egressFrameStart_begins (b := s.blk) slice.isLt hbusy hcan hone hteam hsel hport hqueue hdue ho ht
    exact ⟨_, eventBlk_running (egressFrameStart slice) hrun, rfl, egressFrameStart_mem s.blk slice, hcycle, hlast, hpkts,
      hline, hbegins⟩
  · have hcycle (u : Dev) (h : (s.dev.toCycle (t.stop - 84)).SameQueues u) : t.stop - 84 ≤ u.cycle := by
      rw [h.cycle, cycle_toCycle]
      exact Nat.le_max_left _ _
    have hread := frameReadEnd_read_queues ht
    obtain ⟨hcut, hgone⟩ := frameReadEnd_parity ht
    refine ⟨⟨_, event_running (frameReadEnd p false) hrun, rfl, ⟨rfl, hcycle _ hread, hread.pkts⟩, ?_⟩,
      ⟨_, event_running (frameReadEnd p true) hrun, rfl, ⟨rfl, hcycle _ hcut, hcut.pkts⟩, hgone⟩⟩
    have hmarks := congrArg (List.map (fun m : Nat × Nat × Bool × Bool => (m.1, m.2.1, m.2.2.1))) (frameReadEnd_read_marks ht)
    rw [List.map_map, List.map_map] at hmarks
    exact hmarks

end Sys2Proof.Machine
end


-- ==== Sys2Proof/Proofs/Admission.lean ====
section
open Sys2Proof Sys2Proof.Machine
namespace Sys2Proof.Machine

/-! A packet that admission accepts joins the tail of its leaf queue (R34, R203). -/

section
variable {d e : Dev} (h : d.Beside e)
include h

theorem Dev.Beside.xpPeak (i j : Nat) : d.Beside (e.xpPeak i j) := by
  unfold Dev.xpPeak
  dsimp only
  split
  · exact h.fset _ _ _
  · exact h

theorem Dev.Beside.wrqPeak (i : Nat) : d.Beside (e.wrqPeak i) := by
  unfold Dev.wrqPeak
  dsimp only
  split
  · exact h.fset _ _ _
  · exact h

theorem Dev.Beside.storeTake (l : Nat) : d.Beside (e.storeTake l) :=
  ⟨h.cycle, h.slices, h.ports, h.cars, h.leaves, h.hostInj⟩

theorem Dev.Beside.epochDrop (x : Option (Nat × Nat)) : d.Beside (e.epochDrop x) := by
  unfold Dev.epochDrop
  split
  · exact h
  · exact ⟨h.cycle, h.slices, h.ports, h.cars, h.leaves, h.hostInj⟩

end

/-- The device after a packet has joined the tail of a leaf queue and the row's write line reaches `w`. -/
def Dev.joined (d : Dev) (row w : Nat) (q tag : Nat) (y : QPkt) : Dev :=
  (d.updSl row (fun s => { s with wrEnd := w })).updLq q (fun l => { l with pkts := l.pkts ++ [y], fLast := tag })

/-- The packet as it stands in the queue: data, port, queue and row of the one admitted, and the time of admission. -/
def QPkt.standsFor (y x : QPkt) (now : Nat) : Prop :=
  y.data = x.data ∧ y.port = x.port ∧ y.queue = x.queue ∧ y.row = x.row ∧ y.adm = now

theorem enqueue_beside (d : Dev) (x : QPkt) : ∃ tag y, y.standsFor x d.cycle ∧
    (d.updLq x.queue (fun l => { l with pkts := l.pkts ++ [y], fLast := tag })).Beside (d.enqueue x) := by
  let t := d.nextTag x.port x.queue x.data.length
  refine ⟨t, { x with id := d.tm.nextId, adm := d.cycle, bound := cyclesOfNs (d.qBound x.queue), tagv := t },
    ⟨rfl, rfl, rfl, rfl, rfl⟩, ?_⟩
  unfold Dev.enqueue
  refine Dev.Beside.pl (Dev.Beside.pl (Dev.Beside.cnt ?_ _ _ _) _ _ _) _ _ _
  exact ⟨rfl, rfl, rfl, rfl, rfl, rfl⟩

theorem admitTo_accepted {d : Dev} {x : QPkt} (h : d.admitTest x.port x.queue x.row x.data.length false = 0) :
    (d.admitTo x).1 = true ∧ ∃ w tag y, y.standsFor x d.cycle ∧ (d.joined x.row w x.queue tag y).Beside (d.admitTo x).2 := by
  unfold Dev.admitTo
  dsimp only
  rw [h]
  refine ⟨rfl, ?_⟩
  generalize (d.fon F.TMG_Q_CFG_DRAM x.queue) = dram
  obtain ⟨tag, y, hy, hq⟩ := enqueue_beside (d.rowWrite x.row x.data.length).2.2 { x with
    wrStart := (d.rowWrite x.row x.data.length).1
    wrEnd := (d.rowWrite x.row x.data.length).2.1
    dram := dram
    ct := d.ctLeaf x.port x.queue && x.kind != 5 }
  refine ⟨(d.rowWrite x.row x.data.length).2.1, tag, y, hy, ?_⟩
  refine Dev.Beside.wrqPeak (Dev.Beside.xpPeak ?_ _ _) _
  split
  · exact hq.storeTake _
  · exact hq

/-- Admission of a packet to a leaf of a port. -/
theorem blockAdmitTo_accepted {b : Block} {k : Pkt} {data : List Byte} {p cls grp : Nat} (hashed : Nat)
    (h : b.dev.admitTest p (b.dev.leafOf p cls grp) k.slice data.length false = 0) : ∃ w tag y,
      (b.dev.joined k.slice w (b.dev.leafOf p cls grp) tag y).Beside (b.admitTo k data p cls grp hashed).dev ∧
      y.data = data ∧ y.port = p ∧ y.queue = b.dev.leafOf p cls grp ∧ y.row = k.slice ∧ y.adm = b.dev.cycle := by
  obtain ⟨hok, w, tag, y, hy, hq⟩ := admitTo_accepted
    (x := k.toQ data p (b.dev.leafOf p cls grp) (b.dev.domFor k hashed p)) h
  refine ⟨w, tag, y, ?_, hy⟩
  unfold Block.admitTo
  dsimp only
  rw [if_pos hok]
  exact hq.epochDrop _

theorem joined_pkts (d : Dev) (row w q tag : Nat) (y : QPkt) : ((d.joined row w q tag y).lq q).pkts = (d.lq q).pkts ++ [y] := by
  rw [Dev.joined, lq_updLq_same]
  rfl

theorem joined_sl {α : Type} (d : Dev) (row w q tag : Nat) (y : QPkt) (s : Nat) (g : SliceSt → α)
    (hg : ∀ x, g { x with wrEnd := w } = g x) : g ((d.joined row w q tag y).sl s) = g (d.sl s) := by
  show g ((d.updSl row (fun s => { s with wrEnd := w })).sl s) = _
  by_cases hs : s = row
  · rw [hs, sl_updSl_same, hg]
  · rw [sl_updSl_other _ _ hs]

/-- The admission tests do not look at the pipelines, the injections and the performance monitor. -/
theorem admitTest_elsewhere (d : Dev) (sl : List (Nat × SliceSt)) (hi : List (Nat × List Inject)) (pm : PmuSt)
    (p q i l : Nat) (mc : Bool) :
    ({ d with slices := sl, hostInj := hi, pmu := pm } : Dev).admitTest p q i l mc = d.admitTest p q i l mc := by
  unfold Dev.admitTest
  rfl

end Sys2Proof.Machine
end


-- ==== Sys2Proof/Proofs/IngressStart.lean ====
section
open Sys2Proof Sys2Proof.Machine
namespace Sys2Proof.Machine

/-! INGRESS_PACKET_START (R20, R113, R117, R360): what the input of an idle pipeline selects, and what becomes of it. -/

/-! The selection (R20) -/

/-- The only EGRESS injection of a pipeline in which nothing else waits is taken. -/
theorem inputSelect_injection {d : Dev} {s : Nat} {j : Inject} (hr : (d.sl s).recirc = []) (hd : at0 d.drvInj s = [])
    (hl : d.lineReady s = []) (hh : at0 d.hostInj s = [j]) :
    d.inputSelect s = some (j.toPkt s d.ntu.total, true, false, { d with hostInj := upd0 d.hostInj s (fun _ => []) }) := by
  have htake : d.takeInternal s = some (j.toPkt s d.ntu.total, { d with hostInj := upd0 d.hostInj s (fun _ => []) }) := by
    simp [Dev.takeInternal, hr, hd, hh]
  simp [Dev.inputSelect, hl, htake]

theorem filter_range_single {m : Nat} (hm : m < 32) : (List.range 32).filter (fun n => m == n) = [m] := by
  decide +revert

theorem lineReady_single {d : Dev} {s : Nat} {k : Pkt} (hrx : (d.sl s).rx = [k]) (hrel : (d.sl s).rel = [])
    (hm : d.memberOf k.port = none) : d.lineReady s = [k.port % 32] := by
  simpa [Dev.lineReady, hrx, hrel, hm] using filter_range_single (Nat.mod_lt k.port (by decide))

/-- The only received line frame of a pipeline in which nothing else waits is taken. -/
theorem inputSelect_line {d : Dev} {s : Nat} {k : Pkt} (hr : (d.sl s).recirc = []) (hd : at0 d.drvInj s = [])
    (hh : at0 d.hostInj s = []) (hrx : (d.sl s).rx = [k]) (hrel : (d.sl s).rel = []) (hm : d.memberOf k.port = none) :
    ∃ f : SliceSt → SliceSt, (f (d.sl s)).rx = [] ∧ d.inputSelect s = some (k, false, false, d.updSl s f) := by
  have hw : d.internalWaits s = false := by simp [Dev.internalWaits, hr, hd, hh]
  have h32 : k.port % 32 ≠ 32 := (Nat.mod_lt _ (by decide)).ne
  have htake : ∃ f : SliceSt → SliceSt, (f (d.sl s)).rx = [] ∧ d.takeLine s = some (k, d.updSl s f) := by
    simp only [Dev.takeLine, lineReady_single hrx hrel hm, List.foldl_cons, List.foldl_nil, Option.bind_some, h32, if_false, hrx,
      List.find?_cons, beq_self_eq_true, Option.map_some]
    exact ⟨_, by rw [hrx, List.erase_cons_head], rfl⟩
  obtain ⟨f, hf, htake⟩ := htake
  exact ⟨f, hf, by simp [Dev.inputSelect, hw, lineReady_single hrx hrel hm, htake]⟩

/-! A parse that fails (R113, R117) -/

/-- The registers that show parse failures: reasons, ports and the last failure. -/
def failReg (off : Nat) : Prop := 0xC01084 ≤ off ∧ off < 0xC01280 ∨ off = R.SLC_LAST_FAIL

/-- Two devices that differ in the registers of parse failures alone. -/
structure Dev.OnlyFails (d e : Dev) : Prop where
  rest : d.AsideRegs e
  regs : ∀ off i, ¬ failReg off → i < 2 ^ 20 → e.rget off i = d.rget off i

theorem Dev.OnlyFails.trans {d e f : Dev} (hde : d.OnlyFails e) (hef : e.OnlyFails f) : d.OnlyFails f :=
  ⟨hde.rest.trans hef.rest, fun off i ho hi => (hef.regs off i ho hi).trans (hde.regs off i ho hi)⟩

theorem fset_onlyFails (d : Dev) (f : Fld) {i : Nat} (v : Nat) (hf : failReg f.off) (hi : i < 2 ^ 20) : d.OnlyFails (d.fset f i v) :=
  ⟨rfl, fun _ _ ho hj => Dev.rget_fset_other d f hi hj (.inl fun h => ho (h ▸ hf))⟩

theorem cnt_onlyFails (d : Dev) (f : Fld) {i : Nat} (hf : failReg f.off) (hi : i < 2 ^ 20) : d.OnlyFails (d.cnt f i) :=
  ⟨cnt_asideRegs d f i 1, fun _ _ ho hj => Dev.rget_cnt_ne d f (regKey_ne hi hj (.inl fun h => ho (h ▸ hf)))⟩

theorem failCount_onlyFails (d : Dev) {k : Pkt} (hs : k.slice < 2 ^ 20) (hp : k.port / 32 < 2 ^ 20) (hr : k.pr.reason ≤ 16) :
    d.OnlyFails (d.failCount k) := by
  have hreg (f : Fld) (n : Nat) (h : 0xC01084 ≤ f.off) (h' : f.off + 4 * n < 0xC01280) : failReg (f.nth n).off :=
    .inl ⟨Nat.le_add_right_of_le h, h'⟩
  have hmod : k.port % 32 < 32 := Nat.mod_lt _ (by decide)
  have hlast (e : Dev) : e.OnlyFails
      (((e.fset F.SLC_LAST_FAIL_PORT k.slice (k.port % 32)).fset F.SLC_LAST_FAIL_STATUS k.slice k.pr.status).fset
        F.SLC_LAST_FAIL_OFFSET k.slice k.pr.failOff) :=
    ((fset_onlyFails _ _ _ (.inr rfl) hs).trans (fset_onlyFails _ _ _ (.inr rfl) hs)).trans (fset_onlyFails _ _ _ (.inr rfl) hs)
  unfold Dev.failCount
  dsimp only
  refine Dev.OnlyFails.trans ?_ (hlast _)
  split
  · exact (cnt_onlyFails _ _ (hreg _ _ (by decide) (by show 0xC01084 + _ < _; omega)) hs).trans
      (cnt_onlyFails _ _ (hreg _ _ (by decide) (by show 0xC01100 + _ < _; omega)) hp)
  · exact (cnt_onlyFails _ _ (hreg _ _ (by decide) (by show 0xC010C4 + _ < _; omega)) hs).trans
      (cnt_onlyFails _ _ (hreg _ _ (by decide) (by show 0xC01180 + _ < _; omega)) hp)

theorem Dev.OnlyFails.fget {d e : Dev} (h : d.OnlyFails e) (f : Fld) {i : Nat} (hf : ¬ failReg f.off) (hi : i < 2 ^ 20) :
    e.fget f i = d.fget f i := by rw [Dev.fget, h.regs _ _ hf hi, Dev.fget]

/-- A packet that holds no epoch and no buffer leaves nothing behind. -/
theorem leave_nothing (b : Block) {k : Pkt} (he : k.epoch = none) (hf : k.frees = []) : b.leave k = b := by
  simp [Block.leave, Block.on, he, hf, Dev.epochDrop, Dev.freeAll, forAll]

/-- With DROP in SERVICE a packet whose parse fails is counted and gone. -/
theorem parseFail_drops {b : Block} {k : Pkt} (hs : k.slice < 2 ^ 20) (hp : k.port / 32 < 2 ^ 20) (hr : k.pr.reason ≤ 16)
    (he : k.epoch = none) (hf : k.frees = []) (hsvc : b.dev.fget F.GLB_STATE_DEV = stService)
    (hact : b.dev.fget (if k.pr.result = 1 then F.SLC_FAIL_ACT_MAL_ACT else F.SLC_FAIL_ACT_PL_ACT) k.slice = 0) :
    b.parseFail k = { b with dev := (b.dev.failCount k).cnt F.SLC_FAIL_DROP_COUNT k.slice } := by
  have h := failCount_onlyFails b.dev hs hp hr
  have hsvc' : (b.dev.failCount k).fget F.GLB_STATE_DEV = stService :=
    (h.fget _ (by simp [failReg]) (by decide)).trans hsvc
  have hact' : (b.dev.failCount k).fget (if k.pr.result = 1 then F.SLC_FAIL_ACT_MAL_ACT else F.SLC_FAIL_ACT_PL_ACT) k.slice = 0 :=
    (h.fget _ (by split <;> simp [failReg]) hs).trans hact
  simp [Block.parseFail, Block.on, hsvc', hact', leave_nothing _ he hf]

/-! The start of an idle pipeline -/

/-- The device of a pipeline that has taken a packet in this cycle. -/
def Dev.tookAt (d : Dev) (s : Nat) (int : Bool) : Dev :=
  d.updSl s (fun x => { x with last := some d.cycle, lastInt := if int then d.cycle else x.lastInt })

/-- A packet as it enters the pipeline of a slice. -/
def Pkt.entering (k : Pkt) (s : Nat) : Pkt := { k with slice := s, key := List.replicate 48 0 }

theorem ingressPacketStart_injection {b : Block} {s : Nat} {k : Pkt} {d : Dev} (hl : (b.dev.sl s).last = none)
    (h : b.dev.inputSelect s = some (k, true, false, d)) :
    ingressPacketStart s b = ({ b with dev := ((d.tookAt s true).pl s 0x02).pl s 0x05 } : Block).ingress (k.entering s) := by
  simp [ingressPacketStart, hl, h, Dev.tookAt, Pkt.entering]

theorem ingressPacketStart_line {b : Block} {s : Nat} {k : Pkt} {d : Dev} (hl : (b.dev.sl s).last = none)
    (h : b.dev.inputSelect s = some (k, false, false, d)) :
    ingressPacketStart s b = ({ b with dev := (d.tookAt s false).pl s 0x02 } : Block).ingress (k.entering s) := by
  simp [ingressPacketStart, hl, h, Dev.tookAt, Pkt.entering]

/-- Two devices that differ in the pipelines' inputs and the performance monitor alone. -/
def Dev.OnlyInput (d e : Dev) : Prop := e = { d with hostInj := e.hostInj, slices := e.slices, pmu := e.pmu }

/-- What does not look at the inputs and the performance monitor is the same. -/
theorem Dev.OnlyInput.same {α : Type} {d e : Dev} (h : d.OnlyInput e) (g : Dev → α)
    (hg : ∀ x y z, g { d with hostInj := x, slices := y, pmu := z } = g d) : g e = g d :=
  (congrArg g h).trans (hg e.hostInj e.slices e.pmu)

theorem Dev.AsidePmu.onlyInput {d e f : Dev} (hf : e.AsidePmu f) (h : d.OnlyInput e) : d.OnlyInput f := by
  rw [Dev.OnlyInput] at h
  rw [Dev.AsidePmu] at hf
  rw [Dev.OnlyInput, hf, h]

theorem Dev.AsidePmu.slices {d e : Dev} (h : d.AsidePmu e) : e.slices = d.slices := by rw [Dev.AsidePmu] at h; rw [h]

theorem Dev.AsidePmu.hostInj {d e : Dev} (h : d.AsidePmu e) : e.hostInj = d.hostInj := by rw [Dev.AsidePmu] at h; rw [h]

/-- An EGRESS injection goes to admission. -/
theorem ingress_injection (b : Block) (s now : Nat) {j : Inject} (hj : j.kind = 2) : ∃ hashed,
    b.ingress ((j.toPkt s now).entering s) = b.admitTo (j.toPkt s now) j.data j.port j.cls j.group hashed :=
  ⟨b.hashDom (j.toPkt s now), by simp [Block.ingress, Inject.toPkt, Pkt.entering, hj]⟩

/-- An EGRESS injection that admission accepts joins its leaf queue. -/
theorem start_injection {b : Block} {s : Nat} {j : Inject} (hr : (b.dev.sl s).recirc = []) (hd : at0 b.dev.drvInj s = [])
    (hlast : (b.dev.sl s).last = none) (hline : b.dev.lineReady s = []) (hh : at0 b.dev.hostInj s = [j]) (hj : j.kind = 2)
    (ht : b.dev.admitTest j.port (b.dev.leafOf j.port j.cls j.group) s j.data.length false = 0) :
    (ingressPacketStart s b).mem = b.mem ∧ (ingressPacketStart s b).dev.cycle = b.dev.cycle ∧
    at0 (ingressPacketStart s b).dev.hostInj s = [] ∧
    ((ingressPacketStart s b).dev.sl s).last = some b.dev.cycle ∧
    b.dev.gains (ingressPacketStart s b).dev (b.dev.leafOf j.port j.cls j.group) j.data j.port s := by
  rw [ingressPacketStart_injection hlast (inputSelect_injection hr hd hline hh)]
  generalize hD : (((({ b.dev with hostInj := upd0 b.dev.hostInj s (fun _ => []) } : Dev).tookAt s true).pl s 0x02).pl s 0x05) = D
  have hpl : (({ b.dev with hostInj := upd0 b.dev.hostInj s (fun _ => []) } : Dev).tookAt s true).AsidePmu D :=
    hD ▸ (pl_asidePmu _ _ _ _).trans (pl_asidePmu _ _ _ _)
  have hin : b.dev.OnlyInput D := hpl.onlyInput rfl
  obtain ⟨hashed, hgo⟩ := ingress_injection { b with dev := D } s b.dev.ntu.total hj
  rw [hgo]
  have hleaf : D.leafOf j.port j.cls j.group = b.dev.leafOf j.port j.cls j.group :=
    hin.same (·.leafOf j.port j.cls j.group) (fun _ _ _ => rfl)
  have htest : D.admitTest j.port (D.leafOf j.port j.cls j.group) s j.data.length false = 0 := by
    rw [hleaf, ← ht]
    exact hin.same (·.admitTest _ _ _ _ _) (fun _ _ _ => admitTest_elsewhere _ _ _ _ _ _ _ _ _)
  obtain ⟨w, tag, y, hy, hdata, hport, hqueue, hrow, hadm⟩ := blockAdmitTo_accepted (b := { b with dev := D })
    (k := j.toPkt s b.dev.ntu.total) hashed htest
  refine ⟨Block.admitTo_mem _ _ _ _ _ _ _, hy.cycle.trans (hin.same (·.cycle) (fun _ _ _ => rfl)), ?_, ?_, y, ?_,
    hdata, hport, hqueue.trans hleaf, hrow,
    hadm.trans hy.cycle.symm⟩
  · rw [hy.hostInj]
    exact (congrArg (at0 · s) hpl.hostInj).trans (at0_upd0_same b.dev.hostInj s (fun _ => []))
  · rw [Dev.sl, hy.slices, ← Dev.sl, joined_sl D _ w _ tag y s SliceSt.last (fun _ => rfl), Dev.sl, hpl.slices, ← Dev.sl, Dev.tookAt,
      sl_updSl_same]
  · rw [hy.lq, ← hleaf, joined_pkts, hin.same (·.lq _) (fun _ _ _ => rfl)]

/-- A line frame goes to the parser, and with a failing result to the action of a parse failure. -/
theorem ingress_parseFail (b : Block) (s : Nat) {k : Pkt} {cfg : PCfg} (hkind : k.kind = 0) (hpass : k.pass = 1)
    (hcfg : b.dev.pcfg s 1 (b.dev.memberOf k.port).isSome = cfg) (hres : (parse cfg k.data).result ≠ 0) :
    b.ingress (k.entering s) = b.parseFail { k.entering s with pr := parse cfg k.data } := by
  subst hcfg
  simp [Block.ingress, Pkt.entering, hkind, hpass, hres]

/-- A line frame whose parse fails with DROP in SERVICE is counted and gone. -/
theorem start_parseFail {b : Block} {s : Nat} {k : Pkt} {r : PRes} (hs : s < 16) (hr : (b.dev.sl s).recirc = [])
    (hd : at0 b.dev.drvInj s = []) (hlast : (b.dev.sl s).last = none) (hrel : (b.dev.sl s).rel = []) (hh : at0 b.dev.hostInj s = [])
    (hrx : (b.dev.sl s).rx = [k]) (hslice : k.port / 32 = s) (hm : b.dev.memberOf k.port = none) (hkind : k.kind = 0)
    (hpass : k.pass = 1) (he : k.epoch = none) (hf : k.frees = []) (hparse : parse (b.dev.pcfg s 1 false) k.data = r)
    (hres : r.result ≠ 0) (hreason : r.reason ≤ 16) (hsvc : b.dev.fget F.GLB_STATE_DEV = stService)
    (hact : b.dev.fget (if r.result = 1 then F.SLC_FAIL_ACT_MAL_ACT else F.SLC_FAIL_ACT_PL_ACT) s = 0)
    (hcnt : b.dev.canCount F.SLC_FAIL_DROP_COUNT s) :
    (ingressPacketStart s b).mem = b.mem ∧ ((ingressPacketStart s b).dev.sl s).rx = [] ∧ (ingressPacketStart s b).dev.tm = b.dev.tm ∧
    (ingressPacketStart s b).dev.stb = b.dev.stb ∧
    (ingressPacketStart s b).dev.fget F.SLC_FAIL_DROP_COUNT s = b.dev.fget F.SLC_FAIL_DROP_COUNT s + 1 := by
  obtain ⟨f, hfrx, hsel⟩ := inputSelect_line hr hd hh hrx hrel hm
  rw [ingressPacketStart_line hlast hsel]
  generalize hD : ((b.dev.updSl s f).tookAt s false).pl s 0x02 = D
  have hpl : ((b.dev.updSl s f).tookAt s false).AsidePmu D := hD ▸ pl_asidePmu _ _ _ _
  have hin : b.dev.OnlyInput D := hpl.onlyInput rfl
  have hcfg : D.pcfg s 1 (D.memberOf k.port).isSome = b.dev.pcfg s 1 false := by
    rw [hin.same (·.memberOf k.port) (fun _ _ _ => rfl), hm]
    exact hin.same (·.pcfg s 1 false) (fun _ _ _ => rfl)
  have hregs (g : Fld) (i : Nat) : D.fget g i = b.dev.fget g i := hin.same (·.fget g i) (fun _ _ _ => rfl)
  rw [ingress_parseFail { b with dev := D } s hkind hpass hcfg (hparse ▸ hres), hparse,
    parseFail_drops (b := { b with dev := D }) (k := { k.entering s with pr := r }) (by show s < _; omega) (by show k.port / 32 < _; omega)
      hreason he hf ((hregs _ _).trans hsvc) ((hregs _ _).trans hact)]
  have hfail := failCount_onlyFails D (k := { k.entering s with pr := r }) (by show s < _; omega) (by show k.port / 32 < _; omega) hreason
  generalize D.failCount { k.entering s with pr := r } = E at hfail
  have hbefore : E.fget F.SLC_FAIL_DROP_COUNT s = b.dev.fget F.SLC_FAIL_DROP_COUNT s :=
    (hfail.fget _ (by simp [failReg]) (by omega)).trans (hregs _ _)
  obtain ⟨hone, -, -⟩ : E.counted (E.cnt F.SLC_FAIL_DROP_COUNT s) F.SLC_FAIL_DROP_COUNT s :=
    cnt_counted (by omega) (by decide) (by rw [Dev.canCount, hbefore]; exact hcnt)
  have hrest := hfail.rest.trans (cnt_asideRegs E F.SLC_FAIL_DROP_COUNT s 1)
  refine ⟨rfl, ?_, (hrest.same (·.tm) (fun _ _ => rfl)).trans (hin.same (·.tm) (fun _ _ _ => rfl)),
    (hrest.same (·.stb) (fun _ _ => rfl)).trans (hin.same (·.stb) (fun _ _ _ => rfl)), hone.trans (by rw [hbefore])⟩
  show ((E.cnt F.SLC_FAIL_DROP_COUNT s).sl s).rx = []
  rw [hrest.same (·.sl s) (fun _ _ => rfl), Dev.sl, hpl.slices, ← Dev.sl, Dev.tookAt, sl_updSl_same, sl_updSl_same]
  exact hfrx

end Sys2Proof.Machine
end


-- ==== Sys2Proof/Proofs/LeafLane.lean ====
section
open Sys2Proof Sys2Proof.Machine
namespace Sys2Proof.Machine

/-! LEAF_LANE_DONE (R192): a packet whose reads are done goes to admission of its port. -/

@[simp] theorem destKind_port {p : Nat} (hp : p < 512) : destKind (mkDest 0 p) = 0 := by
  simp only [destKind, mkDest, bits]
  omega

@[simp] theorem destIndex_port {p : Nat} (hp : p < 512) : destIndex (mkDest 0 p) = p := by
  simp only [destIndex, mkDest, bits]
  omega

theorem resolve_port (b : Block) (k : Pkt) {p : Nat} (hp : p < 512) : b.resolve k 4 none (mkDest 0 p) = (.port p, none, b) := by
  simp [Block.resolve, hp]

/-- A packet without a rewrite and without label work leaves as it came. -/
theorem rewriteAll_plain (b : Block) {k : Pkt} (hn : k.nat = none) : b.rewriteAll k 0 0 none = (k.data, b) := by
  simp [Block.rewriteAll, Block.rewrite, hn]

theorem mirrorIngress_none {b : Block} {k : Pkt} (hk : k.mirEn = false) (hp : bit (b.portCfg k.port 3) 0 = false) :
    b.mirrorIngress k = b := by
  simp [Block.mirrorIngress, hk, hp]

/-- A packet for a port that nothing rewrites, polices or mirrors goes to admission. -/
theorem onward_port {b : Block} {k : Pkt} {p : Nat} (hp : p < 512) (hn : k.nat = none) (hpol : k.pol = none)
    (hm : k.mirEn = false) (hc : bit (b.portCfg k.port 3) 0 = false) : ∃ hashed,
    b.onward k (mkDest 0 p) 0 0 none = b.admitTo k k.data p (b.leafClass k none).1 (b.leafClass k none).2 hashed := by
  refine ⟨b.hashDom k, ?_⟩
  have hcfg (u : Block) (hu : u.mem = b.mem) : bit (u.portCfg k.port 3) 0 = false := by
    rw [Block.portCfg, hu]
    exact hc
  simp only [Block.onward, resolve_port b k hp, Block.ttlStops, hpol, ite_self, rewriteAll_plain b hn, Block.sendTo, Bool.false_eq_true,
    if_false]
  exact mirrorIngress_none hm (hcfg _ (Block.admitTo_mem _ _ _ _ _ _ _))

theorem leafDone_port {b : Block} {w : LeafWait} {p : Nat} (s : Nat) (hp : p < 512) (hlpm : w.lpm = none) (hl : w.label = none)
    (hpop : w.popped = false) (hd : w.dest = mkDest 0 p) (hn : w.pkt.nat = none) (hpol : w.pkt.pol = none)
    (hm : w.pkt.mirEn = false) (hc : bit (b.portCfg w.pkt.port 3) 0 = false) (now : Bool) : ∃ hashed,
    b.leafDone s w now = b.admitTo w.pkt w.pkt.data p (b.leafClass w.pkt none).1 (b.leafClass w.pkt none).2 hashed := by
  obtain ⟨hashed, h⟩ := onward_port (b := b) hp hn hpol hm hc
  exact ⟨hashed, by simp [Block.leafDone, Block.finish, Block.choose, hlpm, hl, hpop, hd, h]⟩

/-- The device whose lane `n` has left. -/
def Dev.leafLeft (d : Dev) (s n : Nat) : Dev := d.updSl s (fun x => { x with leaf := x.leaf.eraseIdx n })

theorem leafLaneDone_single {b : Block} {s n : Nat} {l : LeafLane} {w : LeafWait} (hl : (b.dev.sl s).leaf[n]? = some l)
    (hw : l.pkts = [w]) : leafLaneDone s n true b = ({ b with dev := b.dev.leafLeft s n } : Block).leafDone s w false := by
  simp [leafLaneDone, hl, hw, Block.on, Dev.leafLeft, forAll]

theorem leafLaneDone_port {b : Block} {s n : Nat} {l : LeafLane} {w : LeafWait} {p : Nat} (hl : (b.dev.sl s).leaf[n]? = some l)
    (hw : l.pkts = [w]) (hp : p < 512) (hlpm : w.lpm = none) (hlab : w.label = none)
    (hpop : w.popped = false) (hd : w.dest = mkDest 0 p) (hn : w.pkt.nat = none) (hpol : w.pkt.pol = none)
    (hm : w.pkt.mirEn = false) (hc : bit (b.portCfg w.pkt.port 3) 0 = false)
    (ht : b.dev.admitTest p (b.dev.leafOf p (b.leafClass w.pkt none).1 (b.leafClass w.pkt none).2) w.pkt.slice w.pkt.data.length
      false = 0) :
    ((leafLaneDone s n true b).dev.sl s).leaf = (b.dev.sl s).leaf.eraseIdx n ∧
    b.dev.gains (leafLaneDone s n true b).dev (b.dev.leafOf p (b.leafClass w.pkt none).1 (b.leafClass w.pkt none).2) w.pkt.data p
      w.pkt.slice := by
  obtain ⟨hashed, h⟩ := leafDone_port (b := { b with dev := b.dev.leafLeft s n }) s hp hlpm hlab hpop hd hn hpol hm hc false
  have hcls : ({ b with dev := b.dev.leafLeft s n } : Block).leafClass w.pkt none = b.leafClass w.pkt none := rfl
  rw [leafLaneDone_single hl hw, h, hcls]
  generalize b.leafClass w.pkt none = c at ht
  obtain ⟨wr, tag, y, hy, hdata, hport, hqueue, hrow, hadm⟩ := blockAdmitTo_accepted (b := { b with dev := b.dev.leafLeft s n })
    (k := w.pkt) (data := w.pkt.data) (p := p) (cls := c.1) (grp := c.2) hashed
    ((admitTest_elsewhere b.dev _ b.dev.hostInj b.dev.pmu _ _ _ _ _).trans ht)
  refine ⟨?_, y, ?_, hdata, hport, hqueue, hrow, hadm.trans hy.cycle.symm⟩
  · rw [Dev.sl, hy.slices, ← Dev.sl, joined_sl (b.dev.leafLeft s n) _ wr _ tag y s SliceSt.leaf (fun _ => rfl),
      Dev.leafLeft, sl_updSl_same]
  · rw [hy.lq]
    exact joined_pkts (b.dev.leafLeft s n) w.pkt.slice wr _ tag y

end Sys2Proof.Machine
end


-- ==== Sys2Proof/Proofs/MissLane.lean ====
section
open Sys2Proof Sys2Proof.Machine
namespace Sys2Proof.Machine

/-! MISS_LANE_RESOLVE (R154, R156, R165) of a lane whose home slot is cached: the flow engine's part. -/

/-! The record cache -/

/-- A cached slot's line holds what is put into it. -/
theorem cached_setLine {d : Dev} {slot i r : Nat} (h : d.cached slot = some (i, r)) (r' : Nat) :
    (d.setLine i (some ⟨slot, r'⟩)).cached slot = some (i, r') := by
  obtain ⟨before, a, rest, hrange, ha, hbefore⟩ := List.findSome?_eq_some_iff.1 h
  have hline : i = cacheBucket slot * 8 + a := by
    split at ha
    · split at ha
      · exact (Prod.mk.inj (Option.some.inj ha)).1.symm
      · cases ha
    · cases ha
  have hput (j : Nat) (hj : j ≠ i) : at0 (d.setLine i (some ⟨slot, r'⟩)).flow.cache j = at0 d.flow.cache j :=
    Sparse.get_set_other (none : Option CacheLine) d.flow.cache (some ⟨slot, r'⟩) hj
  have hnew : at0 (d.setLine i (some ⟨slot, r'⟩)).flow.cache i = some ⟨slot, r'⟩ :=
    Sparse.get_set_same (none : Option CacheLine) d.flow.cache i (some ⟨slot, r'⟩)
  refine List.findSome?_eq_some_iff.2 ⟨before, a, rest, hrange, ?_, fun x hx => ?_⟩
  · rw [← hline, hnew]
    simp
  · have hne : cacheBucket slot * 8 + x ≠ i := by
      intro hx'
      have hxa : x = a := by omega
      rw [hxa] at hx
      exact absurd (hbefore a hx) (by rw [ha]; exact Option.some_ne_none _)
    rw [hput _ hne]
    exact hbefore x hx

/-- With the memories sound a cached line is read as it is. -/
theorem cacheRead_sound (b : Block) (c1 c2 : Nat) (h : b.dev.integ.badWords = []) : b.cacheRead c1 c2 = b := by
  simp [Block.cacheRead, h, forAll]

theorem slotGet_cached {b : Block} {slot i r : Nat} (hb : b.dev.integ.badWords = []) (h : b.dev.cached slot = some (i, r)) :
    b.slotGet slot = (r, b) := by
  simp [Block.slotGet, cacheRead_sound b _ _ hb, h]

theorem fill_cached {b : Block} {slot i r : Nat} (hb : b.dev.integ.badWords = []) (h : b.dev.cached slot = some (i, r)) (r' : Nat)
    (who : Option Nat) : b.fill slot r' who = b.on (fun d => d.setLine i (some ⟨slot, r'⟩)) := by
  simp [Block.fill, cacheRead_sound b _ _ hb, h]

/-! The locks (R157) -/

/-- The lanes of a pipeline, their locks apart. -/
def dropGot (l : List Lane) : List Lane := l.map (fun y => { y with got := 0 })

/-- Two devices that differ in the flow engine's books, its record cache and the locks of lanes, and in no register but the count of
revived records. -/
structure Dev.OnlyFlow (d e : Dev) : Prop where
  rest : e = { d with regs := e.regs, free := e.free, slices := e.slices, flow := e.flow }
  regs : ∀ off i, off ≠ R.FLW_REVIVE_CNT → i < 2 ^ 20 → e.rget off i = d.rget off i
  ops : e.flow.ops = d.flow.ops
  lanes : ∀ s, dropGot (e.sl s).flow = dropGot (d.sl s).flow

theorem Dev.OnlyFlow.refl (d : Dev) : d.OnlyFlow d := ⟨rfl, fun _ _ _ _ => rfl, rfl, fun _ => rfl⟩

theorem Dev.OnlyFlow.trans {d e f : Dev} (hde : d.OnlyFlow e) (hef : e.OnlyFlow f) : d.OnlyFlow f := by
  refine ⟨?_, fun off i ho hi => (hef.regs off i ho hi).trans (hde.regs off i ho hi), hef.ops.trans hde.ops,
    fun s => (hef.lanes s).trans (hde.lanes s)⟩
  rw [hef.rest, hde.rest]

/-- What does not look at the registers, the pipelines and the flow engine is the same. -/
theorem Dev.OnlyFlow.same {α : Type} {d e : Dev} (h : d.OnlyFlow e) (g : Dev → α)
    (hg : ∀ w x y z, g { d with regs := w, free := x, slices := y, flow := z } = g d) : g e = g d :=
  (congrArg g h.rest).trans (hg e.regs e.free e.slices e.flow)

theorem Dev.OnlyFlow.fget {d e : Dev} (h : d.OnlyFlow e) (f : Fld) {i : Nat} (hf : f.off ≠ R.FLW_REVIVE_CNT) (hi : i < 2 ^ 20) :
    e.fget f i = d.fget f i := by rw [Dev.fget, h.regs _ _ hf hi, Dev.fget]

theorem updSl_onlyFlow (d : Dev) (s : Nat) (f : SliceSt → SliceSt) (hf : ∀ x, dropGot (f x).flow = dropGot x.flow) :
    d.OnlyFlow (d.updSl s f) := by
  refine ⟨rfl, fun _ _ _ _ => rfl, rfl, fun s' => ?_⟩
  by_cases hs : s' = s
  · rw [hs, sl_updSl_same, hf]
  · rw [sl_updSl_other _ _ hs]

theorem withFlow_onlyFlow (d : Dev) (x : FlowSt) (h : x.ops = d.flow.ops) : d.OnlyFlow { d with flow := x } :=
  ⟨rfl, fun _ _ _ _ => rfl, h, fun _ => rfl⟩

theorem setLine_onlyFlow (d : Dev) (i : Nat) (l : Option CacheLine) : d.OnlyFlow (d.setLine i l) := withFlow_onlyFlow d _ rfl

theorem cached_congr {d e : Dev} (h : e.flow.cache = d.flow.cache) (slot : Nat) : e.cached slot = d.cached slot := by
  simp only [Dev.cached, h]

theorem dropGot_modify (l : List Lane) (i : Nat) (f : Lane → Nat) :
    dropGot (l.modify i (fun y => { y with got := f y })) = dropGot l := by
  refine List.ext_getElem? fun j => ?_
  simp only [dropGot, List.getElem?_map, List.getElem?_modify]
  cases l[j]? with
  | none => rfl
  | some y => by_cases h : i = j <;> simp [h]

/-- With no operation waiting the locks go to lanes alone. -/
theorem takeLocks_onlyFlow (d : Dev) (c : Claimant) (h : d.flow.ops = []) :
    d.OnlyFlow (d.takeLocks c) ∧ (d.takeLocks c).flow = d.flow := by
  cases c with
  | lane s i => exact ⟨updSl_onlyFlow d s _ fun x => dropGot_modify x.flow i _, rfl⟩
  | op i =>
    have hflow (g : FlowOp → FlowOp) : ({ d.flow with ops := d.flow.ops.modify i g } : FlowSt) = d.flow := by
      rw [h, List.modify_nil, ← h]
    simp only [Dev.takeLocks, hflow]
    exact ⟨.refl d, trivial⟩

theorem grant_onlyFlow (d : Dev) (h : d.flow.ops = []) : d.OnlyFlow d.grant ∧ d.grant.flow = d.flow := by
  unfold Dev.grant
  generalize d.claimants = l
  induction l generalizing d with
  | nil => exact ⟨.refl d, rfl⟩
  | cons c l ih =>
    obtain ⟨hc, hcf⟩ := takeLocks_onlyFlow d c h
    obtain ⟨hl, hlf⟩ := ih (d.takeLocks c) (by rw [hcf]; exact h)
    exact ⟨hc.trans hl, hlf.trans hcf⟩

theorem flowOps_none (b : Block) (h : b.dev.flow.ops = []) : b.flowOps = b := by
  simp [Block.flowOps, h, Block.opsRun]

/-! The lane -/

/-- Reads of no bucket charge nothing. -/
theorem laneCharge_none (d : Dev) (s : Nat) : d.OnlyFlow (d.laneCharge s 0 0) ∧ (d.laneCharge s 0 0).flow.cache = d.flow.cache := by
  refine ⟨?_, rfl⟩
  unfold Dev.laneCharge
  dsimp only
  rw [if_pos rfl, if_pos rfl]
  refine Dev.OnlyFlow.trans ?_ (withFlow_onlyFlow _ _ ?_)
  · exact updSl_onlyFlow d s _ fun _ => rfl
  · rfl

/-- A miss whose home slot is cached and holds the flow's record finds it there. -/
theorem flowMiss_cached {b : Block} {s home i r : Nat} {key : FKey} (p : Pkt) (hb : b.dev.integ.badWords = [])
    (hk : b.dev.homeSlot key = home) (h : b.dev.cached home = some (i, r)) (hm : rcMatch r key = true) :
    b.flowMiss s key p = (.ok home, { b with dev := (b.dev.laneCharge s 0 0).setLine i (some ⟨home, r⟩) }) := by
  obtain ⟨hc, hcache⟩ := laneCharge_none b.dev s
  have hu : b.dev.uncached home = false := by simp [Dev.uncached, h]
  have hfill := fill_cached (b := { b with dev := b.dev.laneCharge s 0 0 }) (slot := home) (i := i) (r := r)
    ((hc.same (·.integ) (fun _ _ _ _ => rfl)) ▸ hb) ((cached_congr hcache home).trans h) r (some s)
  simp only [Block.flowMiss, hk, hu, slotGet_cached hb h, hm, b2n, Block.on, Bool.false_eq_true, if_false, if_true, hfill]

/-- A record after a packet of `len` bytes and telemetry `tel`, received at `at_` (R154, R167). -/
def rcCounted (r len at_ tel : Nat) : Nat :=
  let r := setBits (setBits r 96 2 1) 192 48 (bits r 192 48 + 1)
  let r := setBits r 128 64 (bits r 128 64 + len)
  let r := setBits (setBits r 320 32 (secOf at_)) 352 32 (nsOf at_)
  let r := setBits (setBits r 98 1 1) 124 1 1
  setBits r 112 8 (bits r 112 8 ||| tel)

theorem rcCounted_state (r len at_ tel : Nat) : rcState (rcCounted r len at_ tel) = 1 := by
  simp (disch := decide) only [rcState, rcCounted, bits_setBits_low, bits_setBits]
  decide

theorem rcCounted_packets (r len at_ tel : Nat) : bits (rcCounted r len at_ tel) 192 48 = (bits r 192 48 + 1) % 2 ^ 48 := by
  simp (disch := decide) only [rcCounted, bits_setBits_high, bits_setBits_low, bits_setBits]

theorem reviveCount_onlyFlow (d : Dev) : d.OnlyFlow (d.cnt F.FLW_REVIVE_CNT_COUNT) ∧ (d.cnt F.FLW_REVIVE_CNT_COUNT).flow = d.flow := by
  have h := cnt_asideRegs d F.FLW_REVIVE_CNT_COUNT 0 1
  have hflow := h.same (·.flow) (fun _ _ => rfl)
  have hsl := h.same (·.slices) (fun _ _ => rfl)
  refine ⟨⟨?_, fun off i ho hi => Dev.rget_cnt_ne d _ (regKey_ne (by decide) hi (.inl ho)), by rw [hflow],
    fun s => by rw [Dev.sl, hsl, Dev.sl]⟩, hflow⟩
  rw [hflow, hsl]
  exact h

/-- The update of a cached record for a packet. -/
theorem flowUpdate_cached {b : Block} {slot i r : Nat} (p : Pkt) (h : b.dev.cached slot = some (i, r)) : ∃ pol nat dom e,
    b.dev.OnlyFlow e ∧ e.cached slot = some (i, rcCounted r p.pr.len p.rxAt p.telemetry) ∧
    b.flowUpdate slot p = ({ p with pol := pol, nat := nat, dom := dom }, { b with dev := e }) := by
  obtain ⟨hrev, hflow⟩ := reviveCount_onlyFlow b.dev
  unfold Block.flowUpdate
  simp only [h]
  by_cases hst : rcState r = 2
  · simp only [hst, if_true]
    exact ⟨_, _, _, _, hrev.trans (setLine_onlyFlow _ i _), cached_setLine ((cached_congr (by rw [hflow]) slot).trans h) _, rfl⟩
  · simp only [hst, if_false]
    exact ⟨_, _, _, _, setLine_onlyFlow _ i _, cached_setLine h _, rfl⟩

/-- The device whose miss lane `n` has left. -/
def Dev.laneLeft (d : Dev) (s n : Nat) : Dev := d.updSl s (fun x => { x with flow := x.flow.eraseIdx n })

/-- With no operation waiting the locks that are free again only go to lanes. -/
theorem freed_block (b : Block) (h : b.dev.flow.ops = []) : (b.on (fun d => d.grant)).flowOps = { b with dev := b.dev.grant } := by
  obtain ⟨-, hflow⟩ := grant_onlyFlow b.dev h
  rw [flowOps_none _ (show b.dev.grant.flow.ops = [] by rw [hflow]; exact h)]
  rfl

section
variable {b : Block} {s n i r home : Nat} {l : Lane} {k : Pkt}
variable (hl : (b.dev.sl s).flow[n]? = some l) (hgot : l.needs.length ≤ l.got) (hops : b.dev.flow.ops = [])
variable (hbad : b.dev.integ.badWords = []) (hhome : b.dev.homeSlot (b.dev.fkey l.key l.prof) = home)
variable (hcached : b.dev.cached home = some (i, r)) (hmatch : rcMatch r (b.dev.fkey l.key l.prof) = true)
include hbad hhome hcached hmatch

/-- The lane's miss finds its record in the home slot. -/
theorem laneMiss_cached : ∃ e, (b.dev.laneLeft s n).OnlyFlow e ∧ e.cached home = some (i, r) ∧
    ({ b with dev := b.dev.laneLeft s n } : Block).flowMiss s ((b.dev.laneLeft s n).fkey l.key l.prof) k =
      (.ok home, { b with dev := e }) := by
  obtain ⟨hcharge, hcache⟩ := laneCharge_none (b.dev.laneLeft s n) s
  exact ⟨_, hcharge.trans (setLine_onlyFlow _ _ _), cached_setLine ((cached_congr hcache home).trans hcached) r,
    flowMiss_cached (b := { b with dev := b.dev.laneLeft s n }) (key := b.dev.fkey l.key l.prof) k hbad hhome hcached hmatch⟩

include hl hgot hops

/-- A lane without packets leaves, and its record stays cached (R165). -/
theorem laneResolve_ghost (hp : l.pkts = []) (hk : l.ghost = some k) : ∃ e, (b.dev.laneLeft s n).OnlyFlow e ∧
    e.cached home = some (i, r) ∧ b.laneResolve s n = ([], { b with dev := e }) := by
  obtain ⟨e, he, hec, hmiss⟩ := laneMiss_cached (n := n) (s := s) (k := k) hbad hhome hcached hmatch
  have heops : e.flow.ops = [] := he.ops.trans hops
  obtain ⟨hgrant, hgflow⟩ := grant_onlyFlow e heops
  refine ⟨e.grant, he.trans hgrant, (cached_congr (by rw [hgflow]) home).trans hec, ?_⟩
  unfold Block.laneResolve
  rw [flowOps_none b hops]
  simp only [hl, Nat.not_lt.2 hgot, if_false, hp, hk]
  rw [show b.on (fun d => d.updSl s (fun x => { x with flow := x.flow.eraseIdx n })) = { b with dev := b.dev.laneLeft s n } from rfl,
    hmiss, freed_block _ heops]

/-- A lane with one packet leaves, and the packet goes on with its record updated (R154). -/
theorem laneResolve_packet (hp : l.pkts = [k]) : ∃ e pol nat dom, (b.dev.laneLeft s n).OnlyFlow e ∧
    e.cached home = some (i, rcCounted r k.pr.len k.rxAt k.telemetry) ∧
    b.laneResolve s n = ([.go { k with pol := pol, nat := nat, dom := dom }], { b with dev := e }) := by
  obtain ⟨e, he, hec, hmiss⟩ := laneMiss_cached (n := n) (s := s) (k := k) hbad hhome hcached hmatch
  obtain ⟨pol, nat, dom, f, hf, hfc, hupd⟩ := flowUpdate_cached (b := { b with dev := e }) k hec
  have hfops : f.flow.ops = [] := hf.ops.trans (he.ops.trans hops)
  obtain ⟨hgrant, hgflow⟩ := grant_onlyFlow f hfops
  refine ⟨f.grant, pol, nat, dom, he.trans (hf.trans hgrant), (cached_congr (by rw [hgflow]) home).trans hfc, ?_⟩
  unfold Block.laneResolve
  rw [flowOps_none b hops]
  simp only [hl, Nat.not_lt.2 hgot, if_false, hp]
  rw [show b.on (fun d => d.updSl s (fun x => { x with flow := x.flow.eraseIdx n })) = { b with dev := b.dev.laneLeft s n } from rfl,
    hmiss]
  simp only [List.foldl_cons, List.foldl_nil, hupd, List.nil_append]
  rw [freed_block _ hfops]

end

/-! Forwarding of a packet whose address no table holds (R178) -/

/-- With the memories sound no word of the tables is bad. -/
theorem tabBad_sound (b : Block) (s off n : Nat) (h : b.dev.integ.badWords = []) : b.tabBad s off n = (false, b) := by
  have hread (w : Nat) (x : List Byte) : b.dev.sramRead 0x17 s w x = (false, b.dev) := by
    simp [Dev.sramRead, Dev.wordBad, h]
  unfold Block.tabBad
  generalize List.range ((off % 8 + n + 7) / 8) = l
  induction l with
  | nil => rfl
  | cons i l ih =>
    rw [List.foldl_cons]
    simpa only [hread, Bool.or_self] using ih

theorem l2Find_none {d : Dev} {s mac vlan : Nat} (h : d.l2At s mac vlan = none) : d.l2Find s mac vlan = (none, d) := by
  unfold Dev.l2At at h
  simp only [Dev.l2Find, h]

/-- A packet of a later pass, its MAC address unknown and its VLAN not flooding, is counted and gone. -/
theorem forward_unknown {b : Block} {k : Pkt} (hbad : b.dev.integ.badWords = []) (hpass : k.pass ≠ 1) (hl2 : k.l2only = false)
    (hmac : b.dev.rmacHit (daOf k.data) = false) (hat : b.dev.l2At k.slice (daOf k.data) (b.outerVlan k) = none)
    (hflood : b.vlanFlood (b.outerVlan k) = false) (he : k.epoch = none) (hf : k.frees = []) :
    b.forward k = { b with dev := b.dev.cnt F.FWD_L2_DA_MISS_COUNT k.slice } := by
  have hsel : b.fwdSelect k = (.gone, { b with dev := b.dev.cnt F.FWD_L2_DA_MISS_COUNT k.slice }) := by
    have hsrc : b.sourceCheck k (b.outerVlan k) = b := by simp [Block.sourceCheck, hpass]
    have hf' : ({ b with dev := b.dev.cnt F.FWD_L2_DA_MISS_COUNT k.slice } : Block).vlanFlood (b.outerVlan k) = false := hflood
    simp only [Block.fwdSelect, tabBad_sound b _ _ _ hbad, Bool.or_self, Bool.false_eq_true, if_false, hsrc, hl2, hmac, Bool.not_false,
      Bool.or_true, if_true, Block.l2Dest, l2Find_none hat, hf']
  simp only [Block.forward, hsel]
  exact leave_nothing _ he hf

end Sys2Proof.Machine
end


-- ==== Sys2Proof/Proofs/IngressEvents.lean ====
section
open Sys2Proof Sys2Proof.Machine
namespace Sys2Proof.Machine

/-! The events of the ingress pipeline, put together (R20, R154, R178, R192). -/

/-- The tables and hash seeds of forwarding are no part of the flow engine. -/
theorem Dev.OnlyFlow.l2At {d e : Dev} (h : d.OnlyFlow e) (s mac vlan : Nat) : e.l2At s mac vlan = d.l2At s mac vlan := by
  have hbuckets : e.l2Buckets = d.l2Buckets := by
    rw [Dev.l2Buckets, h.fget F.FWD_SRAM_SPLIT_L2_MIB (by decide) (by decide), Dev.l2Buckets]
  have hhash : e.l2Hash mac vlan = d.l2Hash mac vlan := by
    unfold Dev.l2Hash
    rw [hbuckets, h.fget F.FWD_L2_SALT1_SALT (by decide) (by decide), h.fget F.FWD_L2_SALT2_SALT (by decide) (by decide)]
  have hfwd : e.fwd = d.fwd := h.same (·.fwd) (fun _ _ _ _ => rfl)
  simp only [Dev.l2At, Dev.l2Places, hhash, Dev.l2, hfwd]

theorem Dev.OnlyFlow.rmacHit {d e : Dev} (h : d.OnlyFlow e) (da : Nat) : e.rmacHit da = d.rmacHit da := by
  have hrget (n k : Nat) : e.rget (R.FWD_RMAC + 8 * n + k) = d.rget (R.FWD_RMAC + 8 * n + k) :=
    h.regs _ 0 (by show 0x1400180 + 8 * n + k ≠ 0x1000310; omega) (by decide)
  have hlow (n : Nat) : e.rget (R.FWD_RMAC + 8 * n) = d.rget (R.FWD_RMAC + 8 * n) := hrget n 0
  simp only [Dev.rmacHit, Dev.rmac, hrget, hlow]

section
variable {b : Block} {s n i r home : Nat} {l : Lane} {k : Pkt}
variable (hl : (b.dev.sl s).flow[n]? = some l) (hgot : l.needs.length ≤ l.got) (hops : b.dev.flow.ops = [])
variable (hbad : b.dev.integ.badWords = []) (hhome : b.dev.homeSlot (b.dev.fkey l.key l.prof) = home)
variable (hcached : b.dev.cached home = some (i, r)) (hmatch : rcMatch r (b.dev.fkey l.key l.prof) = true)
include hl hgot hops hbad hhome hcached hmatch

theorem missLaneResolve_ghost (hp : l.pkts = []) (hk : l.ghost = some k) : (missLaneResolve s n b).mem = b.mem ∧
    dropGot ((missLaneResolve s n b).dev.sl s).flow = dropGot ((b.dev.sl s).flow.eraseIdx n) ∧
    (missLaneResolve s n b).dev.cached home = some (i, r) := by
  obtain ⟨e, he, hec, h⟩ := laneResolve_ghost hl hgot hops hbad hhome hcached hmatch hp hk
  have hres : missLaneResolve s n b = { b with dev := e } := by simp [missLaneResolve, h, forAll]
  rw [hres]
  refine ⟨rfl, ?_, hec⟩
  rw [he.lanes s, Dev.laneLeft, sl_updSl_same]

theorem missLaneResolve_packet (hp : l.pkts = [k]) (hs : s < 2 ^ 20) (hslice : k.slice = s) (hpass : k.pass ≠ 1) (hl2 : k.l2only = false)
    (he : k.epoch = none) (hf : k.frees = []) (hmac : b.dev.rmacHit (daOf k.data) = false)
    (hat : b.dev.l2At s (daOf k.data) (b.outerVlan k) = none) (hflood : b.vlanFlood (b.outerVlan k) = false)
    (hcnt : b.dev.canCount F.FWD_L2_DA_MISS_COUNT s) : (missLaneResolve s n b).mem = b.mem ∧
    dropGot ((missLaneResolve s n b).dev.sl s).flow = dropGot ((b.dev.sl s).flow.eraseIdx n) ∧
    (missLaneResolve s n b).dev.fget F.FWD_L2_DA_MISS_COUNT s = b.dev.fget F.FWD_L2_DA_MISS_COUNT s + 1 ∧
    (missLaneResolve s n b).dev.cached home = some (i, rcCounted r k.pr.len k.rxAt k.telemetry) := by
  subst hslice
  obtain ⟨e, pol, nat, dom, hflow, hec, h⟩ := laneResolve_packet hl hgot hops hbad hhome hcached hmatch hp
  have hfwd : ({ b with dev := e } : Block).forward { k with pol := pol, nat := nat, dom := dom } =
      { b with dev := e.cnt F.FWD_L2_DA_MISS_COUNT k.slice } :=
    forward_unknown (b := { b with dev := e }) (k := { k with pol := pol, nat := nat, dom := dom })
      ((hflow.same (·.integ.badWords) (fun _ _ _ _ => rfl)).trans hbad) hpass hl2 ((hflow.rmacHit _).trans hmac)
      ((hflow.l2At _ _ _).trans hat) hflood he hf
  have hres : missLaneResolve k.slice n b = { b with dev := e.cnt F.FWD_L2_DA_MISS_COUNT k.slice } := by
    simp [missLaneResolve, h, forAll, Block.afterFlow, hfwd]
  have hbefore : e.fget F.FWD_L2_DA_MISS_COUNT k.slice = b.dev.fget F.FWD_L2_DA_MISS_COUNT k.slice :=
    (hflow.fget F.FWD_L2_DA_MISS_COUNT (by decide) hs).trans (Dev.fget_congr rfl _ _)
  obtain ⟨hone, -, -⟩ : e.counted (e.cnt F.FWD_L2_DA_MISS_COUNT k.slice) F.FWD_L2_DA_MISS_COUNT k.slice :=
    cnt_counted hs (by decide) (by rw [Dev.canCount, hbefore]; exact hcnt)
  have hrest := cnt_asideRegs e F.FWD_L2_DA_MISS_COUNT k.slice 1
  rw [hres]
  refine ⟨rfl, ?_, hone.trans (by rw [hbefore]), (hrest.same (·.cached home) (fun _ _ => rfl)).trans hec⟩
  rw [hrest.same (·.sl k.slice) (fun _ _ => rfl), hflow.lanes k.slice, Dev.laneLeft, sl_updSl_same]

end

/-- Settles O25: the two starts, the lane that resolves and the lane that is done, each by its own lemmas. -/
theorem packetsThroughTheIngressPipeline : Obligations.packets_through_the_ingress_pipeline := by
  unfold Obligations.packets_through_the_ingress_pipeline
  intro s slice hrun
  have hslice : slice.val < 16 := slice.isLt
  dsimp only
  refine ⟨?injection, ?parseFails, ?missLane, ?leafLane⟩
  case injection =>
    rintro j ⟨hr, hd, hlast, -⟩ hline hh hj ht
    exact ⟨_, eventBlk_running (ingressPacketStart slice) hrun, rfl,
      start_injection (b := s.blk) hr hd hlast hline hh hj ht⟩
  case parseFails =>
    rintro k ⟨hr, hd, hlast, hrel⟩ hh hrx hport hm hkind hpass he hf hres hreason hsvc hact hcnt
    exact ⟨_, eventBlk_running (ingressPacketStart slice) hrun, rfl,
      start_parseFail (b := s.blk) hslice hr hd hlast hrel hh hrx hport hm hkind hpass he hf rfl hres hreason hsvc hact hcnt⟩
  case missLane =>
    intro n l i r hl hgot hops hbad hcached hmatch
    refine ⟨fun k hp hk => ?_, fun k hp hs hpass hl2 he hf hmac hat hflood hcnt => ?_⟩
    · exact ⟨_, eventBlk_running (missLaneResolve slice n) hrun, rfl,
        missLaneResolve_ghost (b := s.blk) hl hgot hops hbad rfl hcached hmatch hp hk⟩
    · obtain ⟨hmem, hlanes, hcount, hcache⟩ := missLaneResolve_packet (b := s.blk) hl hgot hops hbad rfl hcached hmatch hp
        (by omega) hs hpass hl2 he hf hmac hat hflood hcnt
      exact ⟨_, eventBlk_running (missLaneResolve slice n) hrun, rfl, hmem, hlanes, hcount, _, hcache, rcCounted_state _ _ _ _,
        rcCounted_packets _ _ _ _⟩
  case leafLane =>
    intro n l w p hl hw hlpm hlab hpop hd hn hpol _ hm hc ht
    exact ⟨_, eventBlk_running (leafLaneDone slice n true) hrun, rfl, leafLaneDone_mem slice n true s.blk,
      leafLaneDone_port (b := s.blk) hl hw p.isLt hlpm hlab hpop hd hn hpol hm hc ht⟩

end Sys2Proof.Machine
end


-- ==== Sys2Proof/Proofs/Reports.lean ====
section
open Sys2Proof Sys2Proof.Machine
namespace Sys2Proof.Machine

/-! What the loader's and the start-up sequence's reports change: registers of a list, the host port with its events (R417 to R421), the
halter and the free values. -/

/-- Two devices that agree in all but registers of a list, the host port, the halter and the values the environment has given. -/
structure Dev.Reported (l : List Nat) (d e : Dev) : Prop where
  rest : e = { d with regs := e.regs, free := e.free, host := e.host, halter := e.halter }
  regs : ∀ off i, i < 2 ^ 20 → off ∉ l → e.rget off i = d.rget off i

/-- The registers that events count in (R417, R418). -/
def eventRegs : List Nat := [R.HDM_EVT_SEQ, R.HDM_EVT_DROP]

/-- The registers of alarms and their events (R419). -/
def alarmRegs : List Nat := [R.HDM_EVT_SEQ, R.HDM_EVT_DROP, R.ERR_ALARM]

theorem Dev.Reported.refl (l : List Nat) (d : Dev) : d.Reported l d := ⟨rfl, fun _ _ _ _ => rfl⟩

theorem Dev.Reported.trans {l : List Nat} {d e f : Dev} (hde : d.Reported l e) (hef : e.Reported l f) : d.Reported l f :=
  ⟨hef.rest.trans (by rw [hde.rest]), fun off i hi ho => (hef.regs off i hi ho).trans (hde.regs off i hi ho)⟩

/-- What looks at none of the four parts is the same. -/
theorem Dev.Reported.same {l : List Nat} {d e : Dev} (h : d.Reported l e) {α : Type} (g : Dev → α)
    (hg : ∀ x y z w, g { d with regs := x, free := y, host := z, halter := w } = g d) : g e = g d :=
  (congrArg g h.rest).trans (hg _ _ _ _)

section
variable {l : List Nat} {d e : Dev} (h : d.Reported l e)
include h

theorem Dev.Reported.ld : e.ld = d.ld := h.same (·.ld) (fun _ _ _ _ => rfl)

theorem Dev.Reported.life : e.life = d.life := h.same (·.life) (fun _ _ _ _ => rfl)

theorem Dev.Reported.cycle : e.cycle = d.cycle := h.same (·.cycle) (fun _ _ _ _ => rfl)

theorem Dev.Reported.fget (f : Fld) {i : Nat} (hf : f.off ∉ l) (hi : i < 2 ^ 20) : e.fget f i = d.fget f i :=
  Dev.fget_of_rget (h.regs f.off i hi hf)

theorem Dev.Reported.fon (f : Fld) {i : Nat} (hf : f.off ∉ l) (hi : i < 2 ^ 20) : e.fon f i = d.fon f i := by
  rw [Dev.fon, h.fget f hf hi, Dev.fon]

theorem Dev.Reported.rset (off : Nat) {i : Nat} (v : Word) (ho : off ∈ l) (hi : i < 2 ^ 20) : d.Reported l (e.rset off i v) :=
  h.trans ⟨rfl, fun _ _ hj hn => Dev.rget_rset_other e v hi hj (.inl fun heq => hn (heq ▸ ho))⟩

theorem Dev.Reported.fset (f : Fld) {i : Nat} (v : Nat) (hf : f.off ∈ l) (hi : i < 2 ^ 20) : d.Reported l (e.fset f i v) :=
  h.rset f.off _ hf hi

theorem Dev.Reported.fresh (w : Nat) : d.Reported l (e.fresh w).2 := h.trans ⟨rfl, fun _ _ _ _ => rfl⟩

theorem Dev.Reported.cnt (f : Fld) {i : Nat} (n : Nat) (hf : f.off ∈ l) (hi : i < 2 ^ 20) : d.Reported l (e.cnt f i n) := by
  obtain ⟨v, hv⟩ | ⟨v, hv⟩ := Dev.cnt_cases e f i n <;> rw [hv]
  · exact h.fset f v hf hi
  · exact (h.fresh _).fset f v hf hi

theorem Dev.Reported.withHost (x : HostSt) : d.Reported l { e with host := x } := h.trans ⟨rfl, fun _ _ _ _ => rfl⟩

theorem Dev.Reported.ofHost {f : Dev} (hf : e.AsideHost f) : d.Reported l f := by
  rw [hf]
  exact h.trans ⟨rfl, fun _ _ _ _ => rfl⟩

theorem Dev.Reported.forAll {α : Type} {f : Dev → α → Dev} (m : List α)
    (hf : ∀ {e} a, a ∈ m → d.Reported l e → d.Reported l (f e a)) :
    d.Reported l (forAll m f e) := by
  induction m generalizing e with
  | nil => exact h
  | cons a m ih => exact ih (hf a List.mem_cons_self h) fun b hb => hf b (List.mem_cons_of_mem a hb)

/-! Events (R417, R418) -/

theorem Dev.Reported.enqueueEvt (v : Evt) (hl : R.HDM_EVT_DROP ∈ l) (hv : v.cls < 2 ^ 20) : d.Reported l (e.enqueueEvt v) := by
  unfold Dev.enqueueEvt
  split
  · exact h.withHost _
  · split
    · next c q hq =>
      obtain ⟨a, ha, hq⟩ := List.exists_of_findSome?_eq_some hq
      obtain ⟨-, -, ⟨⟩⟩ := Option.map_eq_some_iff.1 hq
      have hc : c ∈ [3, 2, 1] := (List.mem_filter.1 ha).1
      exact (h.withHost _).cnt _ _ hl (by simp only [List.mem_cons, List.not_mem_nil, or_false] at hc; omega)
    · exact h.cnt _ _ hl hv

theorem Dev.Reported.raise (hl : eventRegs ⊆ l) {cls : Nat} (hc : cls < 2 ^ 20) (f : Fld) (inst : Nat) (data : List Byte) :
    d.Reported l (e.raise cls f inst data) := by
  have hseq := h.fset F.HDM_EVT_SEQ_SEQ (e.fget F.HDM_EVT_SEQ_SEQ cls + 1) (hl (by decide)) hc
  simp only [Dev.raise, Dev.raiseRaw]
  generalize e.fset F.HDM_EVT_SEQ_SEQ cls (e.fget F.HDM_EVT_SEQ_SEQ cls + 1) = e' at hseq
  split
  · exact hseq.cnt _ _ (hl (by decide)) hc
  · exact (hseq.withHost _).enqueueEvt _ (hl (by decide)) hc

theorem Dev.Reported.notice (hl : eventRegs ⊆ l) (f : Fld) (inst : Nat := devWide) : d.Reported l (e.notice f inst) :=
  h.raise hl (by decide) f _ _

theorem Dev.Reported.error (hl : eventRegs ⊆ l) (f : Fld) (inst : Nat := devWide) : d.Reported l (e.error f inst) :=
  h.raise hl (by decide) f _ _

theorem Dev.Reported.alarm (hl : alarmRegs ⊆ l) (n : Nat) (f : Fld) (inst : Nat := devWide) (data : List Byte := []) :
    d.Reported l (e.alarm n f inst data) := by
  have hset := (h.withHost { e.host with alarmAt := Sparse.set 0 e.host.alarmAt n (e.cycle + 1) }).rset R.ERR_ALARM
    (e.rget R.ERR_ALARM ||| BitVec.ofNat 32 (2 ^ n)) (hl (by decide)) (Nat.two_pow_pos 20)
  refine Dev.Reported.raise ?_ (fun _ hx => hl (List.mem_append_left [R.ERR_ALARM] hx)) (Nat.two_pow_pos 20) f inst data
  unfold Dev.alarmBit
  dsimp only
  split
  · exact hset.ofHost (vector_asideHost _ 0)
  · exact hset

end

/-- An alarm sets its bit of ERR_ALARM (R419). -/
theorem bit_alarm (d : Dev) {n : Nat} (hn : n < 32) (f : Fld) : bit ((d.alarm n f).rget R.ERR_ALARM).toNat n = true := by
  have hreg : (d.alarm n f).rget R.ERR_ALARM = d.rget R.ERR_ALARM ||| BitVec.ofNat 32 (2 ^ n) := by
    refine (((Dev.Reported.refl eventRegs (d.alarmBit n)).raise (List.Subset.refl _) (Nat.two_pow_pos 20) f _ _).regs _ _
      (Nat.two_pow_pos 20) (by decide)).trans ?_
    unfold Dev.alarmBit
    dsimp only
    split
    · rw [Dev.rget_congr ((vector_asideHost _ 0).same (·.regs) (fun _ _ => rfl)), Dev.rget_rset]
    · rw [Dev.rget_rset]
  rw [hreg, bit, beq_iff_eq, BitVec.toNat_or, BitVec.toNat_ofNat,
    Nat.mod_eq_of_lt (Nat.pow_lt_pow_right (by decide) hn), ← Nat.toNat_testBit, Nat.testBit_or, Nat.testBit_two_pow_self, Bool.or_true]
  rfl

end Sys2Proof.Machine
end


-- ==== Sys2Proof/Proofs/States.lean ====
section
open Sys2Proof Sys2Proof.Machine
namespace Sys2Proof.Machine

/-! Fields, device states and slice states -/

/-- A field of another register, or beside it in the same one, reads as before. -/
theorem Dev.fget_fset_apart (d : Dev) (f g : Fld) {i v i' : Nat} (hf : f.lo + f.w ≤ 32)
    (h : regKey g.off i' ≠ regKey f.off i ∨ g.off = f.off ∧ i' = i ∧ (g.lo + g.w ≤ f.lo ∨ f.lo + f.w ≤ g.lo)) :
    (d.fset f i v).fget g i' = d.fget g i' := by
  obtain h | ⟨ho, rfl, h⟩ := h
  · exact Dev.fget_fset_ne d f g h
  · exact Dev.fget_fset_beside d f g i' v ho hf h

/-- A register of one field of all its bits reads the number it is set to. -/
theorem Dev.rget_fset_whole (d : Dev) (off i : Nat) (v : Word) : (d.fset ⟨off, 0, 32⟩ i v.toNat).rget off i = v := by
  refine BitVec.eq_of_toNat_eq ((congrArg BitVec.toNat (Dev.rget_fset d ⟨off, 0, 32⟩ i v.toNat)).trans ?_)
  rw [setBits_word _ _ _ _ (Nat.le_refl 32)]
  have := v.isLt
  have := (d.rget off i).isLt
  simp only [setBits, bits]
  omega

/-- Registers of an array that have been set in turn read as set. -/
theorem rget_forAll_rset (base n : Nat) (v : Nat → Word) (d : Dev) {j : Nat} (hj : j < n) :
    (forAll (List.range n) (fun d k => d.rset (base + 4 * k) 0 (v k)) d).rget (base + 4 * j) = v j := by
  unfold forAll
  induction n with
  | zero => omega
  | succ n ih =>
    rw [List.range_succ, List.foldl_append]
    by_cases h : j = n
    · rw [h]
      exact Dev.rget_rset _ _ _ _
    · exact (Dev.rget_rset_other _ _ (by decide) (by decide) (by omega)).trans (ih (by omega))

/-- The registers of device and slice states (R66). -/
def stateRegs : List Nat := [R.GLB_SLICE_STATE_LO, R.GLB_SLICE_STATE_HI, R.GLB_STATE]

theorem Dev.Reported.setDevSt {l : List Nat} {d e : Dev} (h : d.Reported l e) (hl : R.GLB_STATE ∈ l) (v : Nat) :
    d.Reported l (e.setDevSt v) := by
  unfold Dev.setDevSt
  refine Dev.Reported.fset ?_ _ _ hl (Nat.two_pow_pos 20)
  split
  · exact h
  · exact (h.fset _ _ hl (Nat.two_pow_pos 20)).fset _ _ hl (Nat.two_pow_pos 20)

theorem devSt_setDevSt (d : Dev) {v : Nat} (hv : v < 16) : (d.setDevSt v).devSt = v := by
  unfold Dev.setDevSt Dev.devSt
  dsimp only
  rw [Dev.fget_fset_apart _ _ _ (by decide) (by decide)]
  split
  · next h => exact h.symm
  · rw [Dev.fget_fset _ _ _ _ (by decide)]
    exact Nat.mod_eq_of_lt hv

theorem Dev.Reported.devSt {l : List Nat} {d e : Dev} (h : d.Reported l e) (hl : R.GLB_STATE ∉ l) : e.devSt = d.devSt :=
  h.fget F.GLB_STATE_DEV hl (Nat.two_pow_pos 20)

theorem Dev.Reported.sliceSt {l : List Nat} {d e : Dev} (h : d.Reported l e) (hlo : R.GLB_SLICE_STATE_LO ∉ l)
    (hhi : R.GLB_SLICE_STATE_HI ∉ l) (s : Nat) : e.sliceSt s = d.sliceSt s := by
  unfold Dev.sliceSt
  split
  · rw [h.regs _ _ (Nat.two_pow_pos 20) hlo]
  · rw [h.regs _ _ (Nat.two_pow_pos 20) hhi]

/-- What the device notes of its slices as all take one state. -/
def Dev.sharing (d : Dev) : Dev := { d with life := { d.life with wide := true, kind := [], ready := [], stopped := [] } }

theorem allStates_reported (d : Dev) (v : Nat) : d.sharing.Reported stateRegs (d.allStates v) := by
  have h (w : Word) := (((Dev.Reported.refl stateRegs d).rset R.GLB_SLICE_STATE_LO w (by decide) (Nat.two_pow_pos 20)).rset
    R.GLB_SLICE_STATE_HI w (by decide) (Nat.two_pow_pos 20)).setDevSt (by decide) v
  refine ⟨?_, fun off i hi ho => (Dev.rget_congr rfl off i).trans ((h _).regs off i hi ho)⟩
  unfold Dev.allStates Dev.setDevSt Dev.sharing
  dsimp only
  split <;> rfl

theorem allStates_devSt (d : Dev) {v : Nat} (hv : v < 16) : (d.allStates v).devSt = v := by
  unfold Dev.allStates
  exact devSt_setDevSt _ hv

theorem bits_all_nibbles : ∀ v < 16, ∀ j < 8, bits (BitVec.ofNat 32 (0x11111111 * v)).toNat (j * 4) 4 = v := by decide

theorem allStates_sliceSt (d : Dev) {v : Nat} (hv : v < 16) (s : Nat) : (d.allStates v).sliceSt s = v := by
  have hset := (Dev.Reported.refl [R.GLB_STATE] ((d.rset R.GLB_SLICE_STATE_LO 0 (BitVec.ofNat 32 (0x11111111 * v))).rset
    R.GLB_SLICE_STATE_HI 0 (BitVec.ofNat 32 (0x11111111 * v)))).setDevSt (by decide) v
  refine (hset.sliceSt (by decide) (by decide) s).trans ?_
  unfold Dev.sliceSt
  split
  · rw [Dev.rget_rset_other _ _ (by decide) (by decide) (by decide), Dev.rget_rset]
    exact bits_all_nibbles v hv _ (Nat.mod_lt _ (by decide))
  · rw [Dev.rget_rset]
    exact bits_all_nibbles v hv _ (Nat.mod_lt _ (by decide))

end Sys2Proof.Machine
end


-- ==== Sys2Proof/Proofs/LoadStarts.lean ====
section
open Sys2Proof Sys2Proof.Machine
namespace Sys2Proof.Machine

/-! What asking a source over the ring changes: the halter alone (R57, R58, R410) -/

theorem imgAsk_asideHost (d : Dev) (a n : Nat) : d.AsideHost (d.imgAsk a n) := by
  unfold Dev.imgAsk
  split
  · exact .refl d
  · refine forAll_related Dev.AsideHost.refl Dev.AsideHost.trans (fun d k => ?_) _ d
    split
    · exact .refl d
    · exact send_asideHost d _

theorem memAsk_asideHost (d : Dev) (who req addr n : Nat) : d.AsideHost (d.memAsk who req addr n) := by
  unfold Dev.memAsk
  refine Dev.AsideHost.trans (e := { d with halter.reads := d.halter.reads.filter (fun r => r.who != who) }) rfl
    (forAll_related Dev.AsideHost.refl Dev.AsideHost.trans (fun d x => ?_) _ _)
  exact Dev.AsideHost.trans (e := { d with halter := _ }) rfl (send_asideHost _ _)

theorem askSrc_asideHost (d : Dev) (a n : Nat) : d.AsideHost (d.askSrc a n) := by
  unfold Dev.askSrc
  split
  · exact memAsk_asideHost d _ _ _ _
  · exact imgAsk_asideHost d a n

theorem askBody_asideHost (d : Dev) : d.AsideHost d.askBody := by
  unfold Dev.askBody
  split
  · exact askSrc_asideHost d _ _
  · exact .refl d

/-! A load's start (R55 to R58) -/

/-- The loader's state as a load starts from a source. -/
def LoadSt.begun (l : LoadSt) (src : Nat) (live : Bool) (cycle len peer : Nat) : LoadSt :=
  { l with src := src, live := live, step := 1, since := cycle, len := len, next := 0, got := [], man := [], peer := peer,
           slotA := if src = 2 then l.slotA else none }

/-- The registers that a load's start writes. -/
def startRegs : List Nat := [R.HLD_STATUS, R.HLD_BOOT_SRC, R.HLD_CTRL]

/-- A load has started: BUSY and PHASE, the source of a boot load, and the loader's state. -/
structure Dev.LoadBegins (src : Nat) (live : Bool) (d e : Dev) : Prop where
  regs : ∀ off i, i < 2 ^ 20 → off ∉ startRegs → e.rget off i = d.rget off i
  busy : e.fget F.HLD_STATUS_BUSY = 1
  phase : e.fget F.HLD_STATUS_PHASE = 1
  slot : e.fget F.HLD_BOOT_SRC_SLOT = if live then d.fget F.HLD_BOOT_SRC_SLOT else min src 3
  ctrl : d.ld.byStrap = false → e.rget R.HLD_CTRL = d.rget R.HLD_CTRL
  ld : ∃ p, (d.ld.byStrap = false → p = d.fget F.HLD_CTRL_PEER) ∧ e.ld = d.ld.begun src live d.cycle (d.sourceLen src) p

/-- The upstream neighbour becomes the PEER of a load that BOOTSEL 10 starts. -/
theorem peerUp_cases (d : Dev) : d.peerUp = d ∨ d.ld.byStrap = true ∧ ∃ n, d.upstream = some n ∧
    d.peerUp = (d.fset F.HLD_CTRL_PEER 0 n).updLd (fun l => { l with peer := n }) := by
  unfold Dev.peerUp
  split
  · next n hs hu => exact .inr ⟨hs, n, hu, rfl⟩
  · exact .inl rfl

/-- The device as a load has shown its start, before the neighbour and the source are asked. -/
def Dev.loadShown (d : Dev) (src : Nat) (live : Bool) : Dev :=
  let d := (d.fset F.HLD_STATUS_BUSY 0 1).fset F.HLD_STATUS_PHASE 0 1
  let d := if live then d else d.fset F.HLD_BOOT_SRC_SLOT 0 (min src 3)
  d.updLd (fun l => l.begun src live d.cycle (d.sourceLen src) (if l.byStrap then d.devid else d.fget F.HLD_CTRL_PEER))

theorem loadFrom_eq (d : Dev) (src : Nat) (live : Bool) : d.loadFrom src live = (d.loadShown src live).peerUp.askSrc 0 128 := rfl

theorem loadShown_begins (d : Dev) (src : Nat) (live : Bool) : d.LoadBegins src live (d.loadShown src live) := by
  have h0 : (0 : Nat) < 2 ^ 20 := Nat.two_pow_pos 20
  have hmin : min src 3 < 4 := by omega
  have hshow : ∃ e, d.Reported [R.HLD_STATUS, R.HLD_BOOT_SRC] e ∧ e.fget F.HLD_STATUS_BUSY = 1 ∧ e.fget F.HLD_STATUS_PHASE = 1 ∧
      (e.fget F.HLD_BOOT_SRC_SLOT = if live then d.fget F.HLD_BOOT_SRC_SLOT else min src 3) ∧ d.loadShown src live =
        e.updLd (fun l => l.begun src live e.cycle (e.sourceLen src) (if l.byStrap then e.devid else e.fget F.HLD_CTRL_PEER)) := by
    have hbusy := ((Dev.Reported.refl [R.HLD_STATUS, R.HLD_BOOT_SRC] d).fset F.HLD_STATUS_BUSY 1 (by decide) h0).fset
      F.HLD_STATUS_PHASE 1 (by decide) h0
    cases live with
    | true =>
      refine ⟨_, hbusy, ?_, ?_, ?_, rfl⟩ <;> simp (disch := decide) only [Dev.fget_fset, Dev.fget_fset_apart, if_true]
      · rfl
      · rfl
    | false =>
      refine ⟨_, hbusy.fset F.HLD_BOOT_SRC_SLOT (min src 3) (by decide) h0, ?_, ?_, ?_, rfl⟩ <;>
        simp (disch := decide) only [Dev.fget_fset, Dev.fget_fset_apart, Bool.false_eq_true, if_false]
      · rfl
      · rfl
      · exact Nat.mod_eq_of_lt hmin
  obtain ⟨e, h, hb, hp, hs, he⟩ := hshow
  have hlen : e.sourceLen src = d.sourceLen src := by rw [Dev.sourceLen, h.fget F.HLD_SRC_LEN_LEN (by decide) h0, Dev.sourceLen]
  rw [he]
  refine ⟨fun off i hi ho => h.regs off i hi (fun hm => ho (List.mem_append_left [R.HLD_CTRL] hm)), hb, hp, hs,
    fun _ => h.regs _ _ h0 (by decide), if d.ld.byStrap then e.devid else e.fget F.HLD_CTRL_PEER, fun hbs => ?_, ?_⟩
  · rw [if_neg (by simp [hbs])]
    exact h.fget F.HLD_CTRL_PEER (by decide) h0
  · rw [Dev.updLd, h.ld, h.cycle, hlen]

theorem loadFrom_begins (d : Dev) (src : Nat) (live : Bool) : d.LoadBegins src live (d.loadFrom src live) := by
  have h := loadShown_begins d src live
  rw [loadFrom_eq]
  generalize d.loadShown src live = e at h
  obtain ⟨p, hp, hld⟩ := h.ld
  have hask := askSrc_asideHost e.peerUp 0 128
  generalize e.peerUp.askSrc 0 128 = f at hask
  have hr (off i : Nat) : f.rget off i = e.peerUp.rget off i := Dev.rget_congr (hask.same (·.regs) (fun _ _ => rfl)) off i
  have hl : f.ld = e.peerUp.ld := hask.same (·.ld) (fun _ _ => rfl)
  obtain hup | ⟨hs, n, -, hup⟩ := peerUp_cases e <;> rw [hup] at hr hl
  · exact ⟨fun off i hi ho => (hr off i).trans (h.regs off i hi ho), (Dev.fget_of_rget (hr _ _)).trans h.busy,
      (Dev.fget_of_rget (hr _ _)).trans h.phase, (Dev.fget_of_rget (hr _ _)).trans h.slot, fun hb => (hr _ _).trans (h.ctrl hb),
      p, hp, hl.trans hld⟩
  · have hb : d.ld.byStrap = true := by rw [hld] at hs; exact hs
    have hr' (off i : Nat) (hi : i < 2 ^ 20) (ho : off ≠ R.HLD_CTRL) : f.rget off i = e.rget off i :=
      (hr off i).trans (Dev.rget_fset_other e F.HLD_CTRL_PEER (Nat.two_pow_pos 20) hi (.inl ho))
    have h0 : (0 : Nat) < 2 ^ 20 := Nat.two_pow_pos 20
    exact ⟨fun off i hi ho => (hr' off i hi (fun hc => ho (hc ▸ by decide))).trans (h.regs off i hi ho),
      (Dev.fget_of_rget (hr' _ _ h0 (by decide))).trans h.busy, (Dev.fget_of_rget (hr' _ _ h0 (by decide))).trans h.phase,
      (Dev.fget_of_rget (hr' _ _ h0 (by decide))).trans h.slot, fun hc => absurd hb (by simp [hc]),
      n, fun hc => absurd hb (by simp [hc]), hl.trans (congrArg (fun l : LoadSt => { l with peer := n }) hld)⟩

/-- A source of 128 bytes or more starts. -/
theorem loadStart_eq {d : Dev} {src : Nat} (live : Bool) (h : 128 ≤ d.sourceLen src) : d.loadStart src live = d.loadFrom src live := by
  obtain ⟨p, -, hld⟩ := (loadFrom_begins d src live).ld
  have hlen : (d.loadFrom src live).ld.len = d.sourceLen src := congrArg LoadSt.len hld
  rw [Dev.loadStart, if_neg (by omega)]

/-! A load's failure (R52, R62) -/

/-- The loader's state once a load has failed. -/
def LoadSt.failed (l : LoadSt) : LoadSt := { l with src := 0, step := 0, byStrap := false, slotA := none }

/-- A load has ended in failure: HLD_STATUS shows the code and the section, and the loader is idle. -/
structure Dev.LoadEnds (code sec : Nat) (d e : Dev) : Prop where
  ld : e.ld = d.ld.failed
  cycle : e.cycle = d.cycle
  busy : e.fget F.HLD_STATUS_BUSY = 0
  fail : e.fget F.HLD_STATUS_FAIL = 1
  err : e.fget F.HLD_STATUS_ERR = code % 256
  sect : e.fget F.HLD_STATUS_SECTION = sec % 2 ^ 16

/-- The registers that a failure's report changes. -/
def failRegs : List Nat := [R.HLD_FAIL_CNT, R.HDM_EVT_SEQ, R.HDM_EVT_DROP, R.ERR_ALARM]

theorem loadFail_ends {d : Dev} (h : d.ld.src ≠ 1) (code sec : Nat) : d.LoadEnds code sec (d.loadFail code sec) := by
  have h0 : (0 : Nat) < 2 ^ 20 := Nat.two_pow_pos 20
  unfold Dev.loadFail
  rw [if_neg h]
  extract_lets live d₁ d₂ d₃ d₄
  have hcnt : d₃.Reported failRegs d₄ := (Dev.Reported.refl failRegs d₃).cnt _ _ (by decide) h0
  have hend : d₃.Reported failRegs (if live then d₄.error F.HLD_STATUS_FAIL else d₄.alarm 0 F.HLD_STATUS_FAIL) := by
    split
    · exact hcnt.error (by decide) _
    · exact hcnt.alarm (by decide) _ _
  generalize (if live then d₄.error F.HLD_STATUS_FAIL else d₄.alarm 0 F.HLD_STATUS_FAIL) = e at hend
  refine ⟨hend.ld, hend.cycle, ?_, ?_, ?_, ?_⟩ <;> rw [hend.fget _ (by decide) h0] <;>
    simp (disch := decide) only [d₃, d₂, Dev.fget_fset, Dev.fget_fset_apart] <;> rfl

end Sys2Proof.Machine
end


-- ==== Sys2Proof/Proofs/HostLoads.lean ====
section
open Sys2Proof Sys2Proof.Machine
namespace Sys2Proof.Machine

/-! A write of HLD_CTRL (R56 to R58, R61, R62) -/

/-- The device as HLD_CTRL has taken what a load command writes. -/
def Dev.ctrlShown (d : Dev) (c : Nat) (live serve : Bool) (peer : Nat) : Dev :=
  (((d.fset F.HLD_CTRL_SRC 0 c).fset F.HLD_CTRL_LIVE 0 (b2n live)).fset F.HLD_CTRL_SERVE_EN 0 (b2n serve)).fset F.HLD_CTRL_PEER 0 peer

theorem loadCtrl_fields {c peer : Nat} (live serve : Bool) (hc : c < 3) (hp : peer < 64) : bits (loadCtrl c live serve peer) 1 2 = c ∧
    bit (loadCtrl c live serve peer) 3 = live ∧ bits (loadCtrl c live serve peer) 4 1 = b2n serve ∧
    bits (loadCtrl c live serve peer) 8 6 = peer ∧ bit (loadCtrl c live serve peer) 0 = true := by
  cases live <;> cases serve <;>
    simp only [loadCtrl, bits, bit, b2n, beq_iff_eq, beq_eq_false_iff_ne, if_true, if_false, Bool.false_eq_true] <;> omega

theorem ctrlShown_reported (d : Dev) (c : Nat) (live serve : Bool) (peer : Nat) :
    d.Reported [R.HLD_CTRL] (d.ctrlShown c live serve peer) := by
  have h0 : (0 : Nat) < 2 ^ 20 := Nat.two_pow_pos 20
  exact ((((Dev.Reported.refl _ d).fset _ _ (by decide) h0).fset _ _ (by decide) h0).fset _ _ (by decide) h0).fset _ _ (by decide) h0

theorem ctrlShown_fields (d : Dev) (c : Nat) (live serve : Bool) {peer : Nat} (hp : peer < 64) :
    (d.ctrlShown c live serve peer).fget F.HLD_CTRL_PEER = peer ∧
    (d.ctrlShown c live serve peer).fget F.HLD_CTRL_SERVE_EN = if serve then 1 else 0 := by
  unfold Dev.ctrlShown
  simp (disch := decide) only [Dev.fget_fset, Dev.fget_fset_apart]
  exact ⟨Nat.mod_eq_of_lt hp, by cases serve <;> rfl⟩

/-- The source that a value of HLD_CTRL.SRC names. -/
def hostSource (c : Nat) : Nat := if c = 0 then 1 else if c = 1 then 3 else 4

/-- The loader is free for a load that the host starts; a live load clears the outcomes of the one before (R62, R63). -/
def Dev.hostStart (d : Dev) (live : Bool) : Dev :=
  let d := d.updLd (fun l => { l with byStrap := false })
  if live then forAll [R.HLD_LIVE_DONE, R.HLD_LIVE_REFUSED, R.HLD_LIVE_ERR_LO, R.HLD_LIVE_ERR_HI, R.HLD_LIVE_KERR]
    (fun d off => d.rset off 0 0) d
  else d

section
variable {d : Dev} {c peer : Nat} {live : Bool} (serve : Bool) (hc : c < 3) (hp : peer < 64)
include hc hp

theorem hldCtrl_refused (hb : d.fon F.HLD_STATUS_BUSY = true) (hw : d.strapWait = false) :
    d.hldCtrl (loadCtrl c live serve peer) = (d.ctrlShown c live serve peer).cnt F.HLD_REFUSED_CNT_COUNT := by
  obtain ⟨h1, h2, h3, h4, h5⟩ := loadCtrl_fields live serve hc hp
  have he := ctrlShown_reported d c live serve peer
  have hbusy : (d.ctrlShown c live serve peer).fon F.HLD_STATUS_BUSY = true := (he.fon _ (by decide) (Nat.two_pow_pos 20)).trans hb
  have hwait : (d.ctrlShown c live serve peer).strapWait = false := hw
  unfold Dev.hldCtrl
  simp only [h1, h2, h3, h4, h5]
  unfold Dev.ctrlShown at hbusy hwait ⊢
  simp only [hbusy, hwait, Bool.not_true, Bool.not_false, Bool.and_self, Bool.true_or, Bool.false_eq_true, if_true, if_false]

theorem hldCtrl_starts (hl : live = true → c = 1) (hb : d.fon F.HLD_STATUS_BUSY = false) (hst : stHarness ≤ d.devSt)
    (hstuck : d.applyStuck = false) :
    d.hldCtrl (loadCtrl c live serve peer) = ((d.ctrlShown c live serve peer).hostStart live).loadStart (hostSource c) live := by
  obtain ⟨h1, h2, h3, h4, h5⟩ := loadCtrl_fields live serve hc hp
  have he := ctrlShown_reported d c live serve peer
  have hbusy : (d.ctrlShown c live serve peer).fon F.HLD_STATUS_BUSY = false := (he.fon _ (by decide) (Nat.two_pow_pos 20)).trans hb
  have hst' : ¬ (d.ctrlShown c live serve peer).devSt < stHarness := by rw [he.devSt (by decide)]; omega
  have hstuck' : (d.ctrlShown c live serve peer).applyStuck = false := by
    rw [Dev.applyStuck, he.life, he.devSt (by decide), he.ld, ← Dev.applyStuck, hstuck]
  have hsrc : (c == 3) = false := beq_false_of_ne (by omega)
  have hlive : (live && c != 1) = false := by
    cases live with
    | true => simp [hl rfl]
    | false => rfl
  unfold Dev.hldCtrl
  simp only [h1, h2, h3, h4, h5]
  unfold Dev.ctrlShown at hbusy hst' hstuck' ⊢
  simp only [hbusy, hstuck', hst', hsrc, hlive, decide_false, Bool.not_true, Bool.false_and, Bool.or_self, Bool.false_eq_true, if_false]
  obtain rfl | rfl | rfl : c = 0 ∨ c = 1 ∨ c = 2 := by omega
  · obtain rfl : live = false := Bool.eq_false_iff.2 fun h => absurd (hl h) (by decide)
    rfl
  · rfl
  · obtain rfl : live = false := Bool.eq_false_iff.2 fun h => absurd (hl h) (by decide)
    rfl

end

/-- The registers of a live load's outcomes (R63). -/
def liveRegs : List Nat := [R.HLD_LIVE_DONE, R.HLD_LIVE_REFUSED, R.HLD_LIVE_ERR_LO, R.HLD_LIVE_ERR_HI, R.HLD_LIVE_KERR]

theorem hostStart_reported (d : Dev) (live : Bool) : (d.updLd (fun l => { l with byStrap := false })).Reported liveRegs (d.hostStart live) := by
  unfold Dev.hostStart
  split
  · exact Dev.Reported.forAll (.refl _ _) _ fun off ho h => h.rset off 0 ho (Nat.two_pow_pos 20)
  · exact .refl _ _

theorem hostStart_clears (d : Dev) {off : Nat} (ho : off ∈ liveRegs) : (d.hostStart true).rget off = 0 := by
  simp only [liveRegs, List.mem_cons, List.not_mem_nil, or_false] at ho
  simp only [Dev.hostStart, if_true, forAll, List.foldl]
  obtain rfl | rfl | rfl | rfl | rfl := ho <;>
    simp (disch := decide) only [Dev.rget_rset, Dev.rget_rset_ne]

/-- Each load command writes HLD_CTRL with the number of its source. -/
theorem loads_write_hldCtrl {serve : Bool} {peer : Fin 64} {x : Instr × Nat × Bool} (hx : x ∈ ([(.loadFlash serve peer, 1, false),
    (.loadPcie serve peer, 3, false), (.loadHalter serve peer, 4, false), (.loadLive serve peer, 3, true)] : List (Instr × Nat × Bool))) :
    ∃ c, c < 3 ∧ x.2.1 = hostSource c ∧ (x.2.2 = true → c = 1) ∧
      ∀ s, exec x.1 s = event (fun d => d.hldCtrl (loadCtrl c x.2.2 serve peer.val)) s := by
  simp only [List.mem_cons, List.not_mem_nil, or_false] at hx
  obtain rfl | rfl | rfl | rfl := hx
  · exact ⟨0, by decide, rfl, fun h => Bool.noConfusion h, fun _ => rfl⟩
  · exact ⟨1, by decide, rfl, fun _ => rfl, fun _ => rfl⟩
  · exact ⟨2, by decide, rfl, fun h => Bool.noConfusion h, fun _ => rfl⟩
  · exact ⟨1, by decide, rfl, fun _ => rfl, fun _ => rfl⟩

/-! Pieces of an image over the ring (R58, R410) -/

theorem imgData_adds {d : Dev} {m : HMsg} (hs : d.ld.src = 4) (hm : ∀ e ∈ d.ld.got, e.1 ≠ m.addr) :
    imgData m d = d.updLd (fun l => { l with got := l.got ++ [(m.addr, m.payload)] }) := by
  have hany : d.ld.got.any (fun e => e.1 == m.addr) = false := by simpa using fun a b hab => hm (a, b) hab
  rw [imgData, if_pos ⟨hs, by simp [hany]⟩]

theorem imgData_ignored {d : Dev} {m : HMsg} (hs : d.ld.src ≠ 4) : imgData m d = d := by
  rw [imgData, if_neg (fun h => hs h.1)]

theorem imgReq_refused {b : Block} {m : HMsg} (h : b.dev.ld.retained = false ∨ b.dev.fon F.HLD_CTRL_SERVE_EN = false) : imgReq m b = b := by
  unfold imgReq
  rw [if_pos (by simpa using h)]

theorem imgReq_served {b : Block} {m : HMsg} (h : b.dev.ld.retained = true) (hs : b.dev.fon F.HLD_CTRL_SERVE_EN = true) :
    imgReq m b = b.on (fun d => d.send (d.mkMsg 9 m.src m.req m.tag 0 m.addr
      (b.mem.read .dram (0x30000000 + m.addr) (min 1024 (leNat (b.mem.read .dram 0x30000010 4) - m.addr))))) := by
  unfold imgReq
  rw [if_neg (by simp [h, hs])]
  rfl

/-! Requests that go unanswered (R55 to R58) -/

theorem le_cycle_toCycle (d : Dev) (c : Nat) : c ≤ (d.toCycle c).cycle := by
  rw [cycle_toCycle]
  exact Nat.le_max_left _ _

theorem fetchTimeout_ends {d : Dev} (hsrc : d.ld.src = 2 ∨ d.ld.src = 3) (hstep : d.ld.step ∈ [1, 2, 4]) :
    (fetchTimeout d).ld.step = 0 ∧ d.ld.since + (if d.ld.src = 3 then 30000000 else 3000000) ≤ (fetchTimeout d).cycle ∧
    (fetchTimeout d).fget F.HLD_STATUS_BUSY = 0 ∧ (fetchTimeout d).fget F.HLD_STATUS_FAIL = 1 ∧
    (fetchTimeout d).fget F.HLD_STATUS_ERR = errFetch := by
  generalize hlim : d.ld.since + (if d.ld.src = 3 then 30000000 else 3000000) = lim
  have heq : ∃ sec, fetchTimeout d = (d.toCycle lim).loadFail errFetch sec := by
    unfold fetchTimeout
    rw [if_pos ⟨by simpa using hstep, .inr hsrc⟩, hlim]
    exact ⟨_, rfl⟩
  obtain ⟨sec, heq⟩ := heq
  have hne : (d.toCycle lim).ld.src ≠ 1 := by
    show d.ld.src ≠ 1
    omega
  have hend := loadFail_ends hne errFetch sec
  rw [heq]
  exact ⟨congrArg LoadSt.step hend.ld, (le_cycle_toCycle d lim).trans hend.cycle.ge, hend.busy, hend.fail, hend.err⟩

/-- The neighbour that a load which BOOTSEL 10 starts asks. -/
theorem peerUp_spec {d : Dev} (hs : d.ld.byStrap = true) : d.peerUp.ld = { d.ld with peer := d.upstream.getD d.ld.peer } ∧
    d.peerUp.cycle = d.cycle ∧ (d.upstream = none → d.peerUp.regs = d.regs) ∧
    ∀ n, d.upstream = some n → d.peerUp.fget F.HLD_CTRL_PEER = n % 64 := by
  unfold Dev.peerUp
  rw [hs]
  cases hu : d.upstream with
  | none => exact ⟨rfl, rfl, fun _ => rfl, fun _ h => absurd h (by simp)⟩
  | some u =>
    refine ⟨rfl, rfl, fun h => absurd h (by simp), fun n hn => ?_⟩
    obtain rfl := Option.some.inj hn
    exact Dev.fget_fset d F.HLD_CTRL_PEER 0 u (by decide)

/-- A request that is sent again, at whatever cycle. -/
theorem asked_again {d : Dev} (hs : d.ld.byStrap = true) (lim : Nat) :
    ∃ e, ((d.toCycle lim).updLd (fun l => { l with since := (d.toCycle lim).cycle })).peerUp.imgAsk 0 128 = e ∧ lim ≤ e.cycle ∧
      e.ld = { d.ld with since := e.cycle, peer := d.upstream.getD d.ld.peer } ∧ (d.upstream = none → e.regs = d.regs) ∧
      ∀ n, d.upstream = some n → e.fget F.HLD_CTRL_PEER = n % 64 := by
  refine ⟨_, rfl, ?_⟩
  have hlim := le_cycle_toCycle d lim
  have hup : ((d.toCycle lim).updLd (fun l => { l with since := (d.toCycle lim).cycle })).upstream = d.upstream := rfl
  obtain ⟨hld, hcycle, hregs, hpeer⟩ :=
    peerUp_spec (d := (d.toCycle lim).updLd (fun l => { l with since := (d.toCycle lim).cycle })) hs
  rw [hup] at hld hregs hpeer
  generalize ((d.toCycle lim).updLd (fun l => { l with since := (d.toCycle lim).cycle })).peerUp = f at hld hcycle hregs hpeer
  have hask := imgAsk_asideHost f 0 128
  have hsent : (f.imgAsk 0 128).regs = f.regs := hask.same (·.regs) (fun _ _ => rfl)
  have hnow : (f.imgAsk 0 128).cycle = (d.toCycle lim).cycle := (hask.same (·.cycle) (fun _ _ => rfl)).trans hcycle
  rw [hnow]
  exact ⟨hlim, (hask.same (·.ld) (fun _ _ => rfl)).trans hld, fun hu => hsent.trans (hregs hu),
    fun n hn => (Dev.fget_of_rget (Dev.rget_congr hsent _ _)).trans (hpeer n hn)⟩

theorem halterLoadRetry_asks {d : Dev} (hsrc : d.ld.src = 4) (hw : d.strapWait = true) :
    d.ld.since + 3000000 ≤ (halterLoadRetry d).cycle ∧
    (halterLoadRetry d).ld = { d.ld with since := (halterLoadRetry d).cycle, peer := d.upstream.getD d.ld.peer } ∧
    (d.upstream = none → (halterLoadRetry d).regs = d.regs) ∧
    ∀ n, d.upstream = some n → (halterLoadRetry d).fget F.HLD_CTRL_PEER = n % 64 := by
  have hstrap : d.ld.byStrap = true := by
    simp only [Dev.strapWait, Bool.and_eq_true] at hw
    exact hw.1.1
  unfold halterLoadRetry
  rw [if_pos (by simp [hsrc, hw])]
  generalize d.ld.since + 3000000 = lim
  obtain ⟨e, he, h⟩ := asked_again hstrap lim
  rw [he]
  exact h

/-- Settles O18: a load command writes HLD_CTRL, which refuses the load or starts it; the other commands are one event each. -/
theorem loadStarts : Obligations.load_starts := by
  unfold Obligations.load_starts
  intro s serve peer hrun
  have h0 : (0 : Nat) < 2 ^ 20 := Nat.two_pow_pos 20
  refine ⟨fun x hx hb hw hcnt => ?_, fun x hx hb hst hstuck hlen => ?_, fun hsrc hstep => ?_, fun hsrc hw => ?_, fun m hm => ?_⟩
  · obtain ⟨c, hc, -, -, hexec⟩ := loads_write_hldCtrl hx
    refine ⟨_, (hexec s).trans (event_running _ hrun), rfl, rfl, ?_⟩
    have he := ctrlShown_reported s.dev c x.2.2 serve peer.val
    have hf := he.fget F.HLD_REFUSED_CNT_COUNT (by decide) h0
    dsimp only
    rw [hldCtrl_refused serve hc peer.isLt hb hw]
    generalize s.dev.ctrlShown c x.2.2 serve peer.val = e at he hf
    obtain ⟨hone, -, -⟩ := cnt_counted (d := e) (f := F.HLD_REFUSED_CNT_COUNT) (i := 0) h0 (by decide) (by rw [Dev.canCount, hf]; exact hcnt)
    exact ⟨((cnt_asideRegs e F.HLD_REFUSED_CNT_COUNT 0 1).same (·.ld) (fun _ _ => rfl)).trans he.ld, hone.trans (by rw [hf])⟩
  · obtain ⟨c, hc, hsource, hlive, hexec⟩ := loads_write_hldCtrl hx
    refine ⟨_, (hexec s).trans (event_running _ hrun), rfl, rfl, ?_⟩
    have he := ctrlShown_reported s.dev c x.2.2 serve peer.val
    obtain ⟨hpeer, hserve⟩ := ctrlShown_fields s.dev c x.2.2 serve peer.isLt
    dsimp only
    rw [hldCtrl_starts serve hc peer.isLt hlive hb hst hstuck, hsource]
    generalize s.dev.ctrlShown c x.2.2 serve peer.val = e at he hpeer hserve
    have hs := hostStart_reported e x.2.2
    have hclear (hl : x.2.2 = true) {off : Nat} (ho : off ∈ liveRegs) : (e.hostStart x.2.2).rget off = 0 := hl ▸ hostStart_clears e ho
    generalize e.hostStart x.2.2 = f at hs hclear
    have hsl : 128 ≤ f.sourceLen (hostSource c) := by
      have hreg : f.fget F.HLD_SRC_LEN_LEN = s.dev.fget F.HLD_SRC_LEN_LEN := (hs.fget _ (by decide) h0).trans (he.fget _ (by decide) h0)
      unfold Dev.sourceLen
      (repeat' split) <;> omega
    rw [loadStart_eq _ hsl]
    have hbegin := loadFrom_begins f (hostSource c) x.2.2
    generalize f.loadFrom (hostSource c) x.2.2 = g at hbegin
    have hstrap : f.ld.byStrap = false := congrArg LoadSt.byStrap hs.ld
    have hctrl : g.rget R.HLD_CTRL = e.rget R.HLD_CTRL := (hbegin.ctrl hstrap).trans (hs.regs _ _ h0 (by decide))
    obtain ⟨p, hp, hld⟩ := hbegin.ld
    have hpe : p = peer.val := (hp hstrap).trans ((hs.fget _ (by decide) h0).trans hpeer)
    refine ⟨by rw [hld]; rfl, by rw [hld]; rfl, by rw [hld]; rfl, by rw [hld]; exact hpe, by rw [hld]; rfl, hbegin.busy, hbegin.phase,
      (Dev.fget_of_rget hctrl).trans hpeer, (Dev.fget_of_rget hctrl).trans hserve, hbegin.slot.trans ?_, fun hl off ho => ?_⟩
    · rw [hs.fget F.HLD_BOOT_SRC_SLOT (by decide) h0]
      exact congrArg (fun n => if x.2.2 = true then n else min (hostSource c) 3) (he.fget F.HLD_BOOT_SRC_SLOT (by decide) h0)
    · refine (hbegin.regs off 0 h0 fun hn => ?_).trans (hclear hl ho)
      exact absurd hn ((by decide : ∀ o ∈ liveRegs, o ∉ startRegs) off ho)
  · exact ⟨_, event_running fetchTimeout hrun, rfl, rfl, fetchTimeout_ends hsrc hstep⟩
  · exact ⟨_, event_running halterLoadRetry hrun, rfl, rfl, halterLoadRetry_asks hsrc hw⟩
  · refine ⟨fun hsrc hgot => ?_, fun hsrc => ?_, fun h => ?_, fun h hserve => ?_⟩
    · have hadd := imgData_adds hsrc hgot
      refine ⟨_, taken_here (runDev (imgData m)) hrun hm, rfl, rfl, ?_⟩
      dsimp only
      rw [hadd]
      exact ⟨rfl, rfl⟩
    · refine (taken_here (runDev (imgData m)) hrun hm).trans ?_
      rw [runDev, imgData_ignored hsrc]
    · refine (taken_here (runBlk (imgReq m)) hrun hm).trans ?_
      rw [runBlk, imgReq_refused h]
      rfl
    · refine (taken_here (runBlk (imgReq m)) hrun hm).trans ?_
      rw [runBlk, imgReq_served h hserve]
      rfl

end Sys2Proof.Machine
end


-- ==== Sys2Proof/Proofs/StartUp.lean ====
section
open Sys2Proof Sys2Proof.Machine
namespace Sys2Proof.Machine

/-! BOOT (R74, R80, R287) -/

/-- TRAIN has been entered, if the fuses are read and the PLLs locked: the states' registers alone change. -/
structure Dev.TriesTrain (d e : Dev) : Prop where
  regs : ∀ off i, i < 2 ^ 20 → off ∉ stateRegs → e.rget off i = d.rget off i
  cycle : e.cycle = d.cycle
  ntu : e.ntu = d.ntu
  fused : e.life.fused = d.life.fused
  locked : e.life.locked = d.life.locked
  devSt : e.devSt = if d.life.fused && d.life.locked then stTrain else d.devSt
  slices : (d.life.fused && d.life.locked) = true → ∀ s, e.sliceSt s = stTrain

theorem enterTrain_spec (d : Dev) : d.TriesTrain d.enterTrain := by
  have h := allStates_reported d stTrain
  have hst := allStates_devSt d (v := stTrain) (by decide)
  have hsl := allStates_sliceSt d (v := stTrain) (by decide)
  unfold Dev.enterTrain
  generalize d.allStates stTrain = e at h hst hsl
  split
  · next hb => exact ⟨h.regs, h.cycle, h.same (·.ntu) (fun _ _ _ _ => rfl), h.same (·.life.fused) (fun _ _ _ _ => rfl),
      h.same (·.life.locked) (fun _ _ _ _ => rfl), hst.trans (if_pos hb).symm, fun _ => hsl⟩
  · next hb => exact ⟨fun _ _ _ _ => rfl, rfl, rfl, rfl, rfl, (if_neg hb).symm, fun hc => absurd hc hb⟩

/-- The registers of the fuses' words of the stacks and of the key hash. -/
def fuseArrays : List Nat :=
  (List.range 4).map (fun k => R.GLB_FUSE_STACK + 4 * k) ++ (List.range 12).map (fun k => R.HLD_KEY_HASH + 4 * k)

/-- The registers of the lot and the die. -/
def dieRegs : List Nat := [R.GLB_FUSE_LOT_LO, R.GLB_FUSE_LOT_HI, R.GLB_FUSE_DIE]

/-- The device once its registers show the fuses' lot and die. -/
def Dev.dieShown (d : Dev) (lotLo lotHi die : Nat) : Dev :=
  let d := (d.fset F.GLB_FUSE_LOT_LO_LOT 0 lotLo).fset F.GLB_FUSE_LOT_HI_LOT 0 lotHi
  let d := (d.fset F.GLB_FUSE_DIE_WAFER 0 die).fset F.GLB_FUSE_DIE_DIE_X 0 (die / 2 ^ 8)
  (d.fset F.GLB_FUSE_DIE_DIE_Y 0 (die / 2 ^ 16)).fset F.GLB_FUSE_DIE_FUSE_REV 0 (die / 2 ^ 24)

/-- The device once its registers show the fuses' words of the stacks and of the key hash. -/
def Dev.wordsShown (d : Dev) (drams key : List Word) : Dev :=
  let d := forAll (List.range 4) (fun d k => d.rset (R.GLB_FUSE_STACK + 4 * k) 0 (drams.getD k 0)) d
  forAll (List.range 12) (fun d k => d.rset (R.HLD_KEY_HASH + 4 * k) 0 (key.getD k 0)) d

/-- The fuses are read. -/
def Dev.fuseHeld (d : Dev) : Dev := { d with life.fused := true }

theorem fuseRead_good {d : Dev} (hrun : d.running = true) (hst : d.devSt = stBoot) (hf : d.life.fused = false)
    (hfail : d.fon F.GLB_BOOT_STATUS_FUSE_FAIL = false) (lotLo lotHi die : Nat) (drams key : List Word) :
    fuseRead lotLo lotHi die drams key true d =
      (((d.toCycle (d.life.riseAt + 150000)).dieShown lotLo lotHi die).wordsShown drams key).fuseHeld.enterTrain := by
  simp only [fuseRead, hrun, hst, hf, hfail, Bool.not_true, bne_self_eq_false, Bool.or_self, Bool.false_eq_true, if_false]
  rfl

theorem dieShown_reported (d : Dev) (lotLo lotHi die : Nat) : d.Reported dieRegs (d.dieShown lotLo lotHi die) := by
  have h0 : (0 : Nat) < 2 ^ 20 := Nat.two_pow_pos 20
  exact ((((((Dev.Reported.refl dieRegs d).fset _ _ (by decide) h0).fset _ _ (by decide) h0).fset _ _ (by decide) h0).fset _ _
    (by decide) h0).fset _ _ (by decide) h0).fset _ _ (by decide) h0

theorem dieShown_lot (d : Dev) (lo : Word) (hi : BitVec 16) (die : Nat) :
    (d.dieShown lo.toNat hi.toNat die).rget R.GLB_FUSE_LOT_LO = lo ∧
    (d.dieShown lo.toNat hi.toNat die).fget F.GLB_FUSE_LOT_HI_LOT = hi.toNat := by
  have h0 : (0 : Nat) < 2 ^ 20 := Nat.two_pow_pos 20
  have hdie (e : Dev) := ((((Dev.Reported.refl [R.GLB_FUSE_DIE] e).fset F.GLB_FUSE_DIE_WAFER die (by decide) h0).fset
    F.GLB_FUSE_DIE_DIE_X (die / 2 ^ 8) (by decide) h0).fset F.GLB_FUSE_DIE_DIE_Y (die / 2 ^ 16) (by decide) h0).fset
    F.GLB_FUSE_DIE_FUSE_REV (die / 2 ^ 24) (by decide) h0
  constructor
  · refine ((hdie _).regs _ _ h0 (by decide)).trans ((Dev.rget_fset_other _ _ h0 h0 (by decide)).trans ?_)
    exact Dev.rget_fset_whole d R.GLB_FUSE_LOT_LO 0 lo
  · refine ((hdie _).fget _ (by decide) h0).trans ((Dev.fget_fset _ _ _ _ (by decide)).trans ?_)
    exact Nat.mod_eq_of_lt hi.isLt

theorem wordsShown_reported (d : Dev) (drams key : List Word) : d.Reported fuseArrays (d.wordsShown drams key) := by
  refine Dev.Reported.forAll (Dev.Reported.forAll (.refl _ d) _ fun k hk h => ?_) _ fun k hk h => ?_
  · exact h.rset _ _ (List.mem_append_left _ (List.mem_map_of_mem hk)) (Nat.two_pow_pos 20)
  · exact h.rset _ _ (List.mem_append_right _ (List.mem_map_of_mem hk)) (Nat.two_pow_pos 20)

theorem wordsShown_stack (d : Dev) (drams key : List Word) {k : Nat} (hk : k < 4) :
    (d.wordsShown drams key).rget (R.GLB_FUSE_STACK + 4 * k) = drams.getD k 0 := by
  have hkeys (e : Dev) := Dev.Reported.forAll (.refl ((List.range 12).map (fun k => R.HLD_KEY_HASH + 4 * k)) e) (List.range 12)
    (f := fun d k => d.rset (R.HLD_KEY_HASH + 4 * k) 0 (key.getD k 0)) fun a ha h =>
      h.rset _ _ (List.mem_map_of_mem ha) (Nat.two_pow_pos 20)
  refine ((hkeys _).regs _ _ (Nat.two_pow_pos 20) fun hmem => ?_).trans
    (rget_forAll_rset R.GLB_FUSE_STACK 4 (fun k => drams.getD k 0) d hk)
  obtain ⟨j, -, hj⟩ := List.mem_map.1 hmem
  simp only [R.HLD_KEY_HASH, R.GLB_FUSE_STACK] at hj
  omega

theorem wordsShown_key (d : Dev) (drams key : List Word) {k : Nat} (hk : k < 12) :
    (d.wordsShown drams key).rget (R.HLD_KEY_HASH + 4 * k) = key.getD k 0 :=
  rget_forAll_rset R.HLD_KEY_HASH 12 (fun k => key.getD k 0) _ hk

/-- A start-up failure shows its bit of GLB_BOOT_STATUS and the alarm BOOT (R74). -/
theorem bootFail_spec (d : Dev) {f : Fld} (hoff : f.off = R.GLB_BOOT_STATUS) (hw : 0 < f.w) (hf : f.lo + f.w ≤ 32) :
    (d.fset f 0 1).Reported alarmRegs (d.bootFail f) ∧ (d.bootFail f).fget f = 1 ∧
    bit ((d.bootFail f).rget R.ERR_ALARM).toNat 1 = true := by
  have h := (Dev.Reported.refl alarmRegs (d.fset f 0 1)).alarm (List.Subset.refl _) 1 f
  refine ⟨h, (h.fget f (by rw [hoff]; decide) (Nat.two_pow_pos 20)).trans ?_, bit_alarm _ (by decide) _⟩
  rw [Dev.fget_fset _ _ _ _ hf]
  exact Nat.mod_eq_of_lt (Nat.one_lt_two_pow hw.ne')

/-- The registers show the fuses' words. -/
theorem fuses_shown (d : Dev) (lo : Word) (hi : BitVec 16) (die : Nat) (drams key : List Word) :
    let b := (d.dieShown lo.toNat hi.toNat die).wordsShown drams key
    b.life = d.life ∧ b.cycle = d.cycle ∧ b.devSt = d.devSt ∧ b.rget R.GLB_FUSE_LOT_LO = lo ∧ b.fget F.GLB_FUSE_LOT_HI_LOT = hi.toNat := by
  have h0 : (0 : Nat) < 2 ^ 20 := Nat.two_pow_pos 20
  have hdie := dieShown_reported d lo.toNat hi.toNat die
  obtain ⟨hlo, hhi⟩ := dieShown_lot d lo hi die
  have hwords := wordsShown_reported (d.dieShown lo.toNat hi.toNat die) drams key
  exact ⟨hwords.life.trans hdie.life, hwords.cycle.trans hdie.cycle, (hwords.devSt (by decide)).trans (hdie.devSt (by decide)),
    (hwords.regs _ _ h0 (by decide)).trans hlo, (hwords.fget _ (by decide) h0).trans hhi⟩

/-- With the PLLs locked, fuses that are read bring the device to TRAIN; what they show stays. -/
theorem fuseHeld_enters (b : Dev) : b.fuseHeld.enterTrain.life.fused = true ∧ b.fuseHeld.enterTrain.cycle = b.cycle ∧
    (∀ off, off ∉ stateRegs → b.fuseHeld.enterTrain.rget off 0 = b.rget off 0) ∧
    b.fuseHeld.enterTrain.devSt = if b.life.locked then stTrain else b.devSt := by
  have h := enterTrain_spec b.fuseHeld
  exact ⟨h.fused, h.cycle, fun off ho => (h.regs off 0 (Nat.two_pow_pos 20) ho).trans (Dev.rget_congr rfl off 0), h.devSt⟩

/-- Good fuses show their words; with the PLLs locked the device enters TRAIN. -/
theorem fuseRead_shows {d : Dev} (hrun : d.running = true) (hst : d.devSt = stBoot) (hf : d.life.fused = false)
    (hfail : d.fon F.GLB_BOOT_STATUS_FUSE_FAIL = false) (lo : Word) (hi : BitVec 16) (die : Nat) (drams key : List Word) :
    ∃ e, fuseRead lo.toNat hi.toNat die drams key true d = e ∧
      e.life.fused = true ∧ d.life.riseAt + 150000 ≤ e.cycle ∧ e.rget R.GLB_FUSE_LOT_LO = lo ∧ e.fget F.GLB_FUSE_LOT_HI_LOT = hi.toNat ∧
      (∀ k, k < 4 → e.rget (R.GLB_FUSE_STACK + 4 * k) = drams.getD k 0) ∧
      (∀ k, k < 12 → e.rget (R.HLD_KEY_HASH + 4 * k) = key.getD k 0) ∧
      e.devSt = if d.life.locked then stTrain else stBoot := by
  refine ⟨_, fuseRead_good hrun hst hf hfail _ _ _ _ _, ?_⟩
  obtain ⟨lim, hlim⟩ : ∃ lim, d.life.riseAt + 150000 = lim := ⟨_, rfl⟩
  rw [hlim]
  obtain ⟨hlife, hcycle, hdev, hlo, hhi⟩ := fuses_shown (d.toCycle lim) lo hi die drams key
  obtain ⟨hfused, hnow, hreg, hst'⟩ :=
    fuseHeld_enters (((d.toCycle lim).dieShown lo.toNat hi.toNat die).wordsShown drams key)
  refine ⟨hfused, (le_cycle_toCycle d lim).trans (hnow.trans hcycle).ge, (hreg _ (by decide)).trans hlo,
    (Dev.fget_of_rget (hreg _ (by decide))).trans hhi, fun k hk => (hreg _ ?_).trans (wordsShown_stack _ drams key hk),
    fun k hk => (hreg _ ?_).trans (wordsShown_key _ drams key hk), ?_⟩
  · simp only [stateRegs, List.mem_cons, List.not_mem_nil, or_false, R.GLB_FUSE_STACK, R.GLB_SLICE_STATE_LO, R.GLB_SLICE_STATE_HI, R.GLB_STATE]
    omega
  · simp only [stateRegs, List.mem_cons, List.not_mem_nil, or_false, R.HLD_KEY_HASH, R.GLB_SLICE_STATE_LO, R.GLB_SLICE_STATE_HI, R.GLB_STATE]
    omega
  · have hlocked : _ = d.life.locked := congrArg LifeSt.locked hlife
    have hboot : _ = stBoot := hdev.trans hst
    rw [hst', hlocked, hboot]

section
variable {d : Dev} (hrun : d.running = true) (hst : d.devSt = stBoot)
include hrun hst

/-- Fuses with a bad CRC hold BOOT (R80). -/
theorem fuseRead_bad (hf : d.life.fused = false) (hfail : d.fon F.GLB_BOOT_STATUS_FUSE_FAIL = false) (lotLo lotHi die : Nat)
    (drams key : List Word) : (fuseRead lotLo lotHi die drams key false d).life.fused = false ∧
    (fuseRead lotLo lotHi die drams key false d).fget F.GLB_BOOT_STATUS_FUSE_FAIL = 1 ∧
    bit ((fuseRead lotLo lotHi die drams key false d).rget R.ERR_ALARM).toNat 1 = true ∧
    (fuseRead lotLo lotHi die drams key false d).devSt = stBoot := by
  obtain ⟨lim, hlim⟩ : ∃ lim, d.life.riseAt + 150000 = lim := ⟨_, rfl⟩
  have heq : fuseRead lotLo lotHi die drams key false d = (d.toCycle lim).bootFail F.GLB_BOOT_STATUS_FUSE_FAIL := by
    simp only [fuseRead, hrun, hst, hf, hfail, hlim, Bool.not_true, Bool.not_false, bne_self_eq_false, Bool.or_self, Bool.false_eq_true,
      if_false, if_true]
  obtain ⟨hrep, hbit, halarm⟩ := bootFail_spec (d.toCycle lim) (f := F.GLB_BOOT_STATUS_FUSE_FAIL) rfl (by decide) (by decide)
  rw [heq]
  exact ⟨(congrArg LifeSt.fused hrep.life).trans hf, hbit, halarm, (hrep.devSt (by decide)).trans
    ((Dev.fget_fset_apart _ _ _ (by decide) (by decide)).trans hst)⟩

/-- The PLLs lock and the NTU starts; with the fuses read the device enters TRAIN (R66, R287). -/
theorem pllLock_enters (hl : d.life.locked = false) (hfail : d.fon F.GLB_BOOT_STATUS_PLL_FAIL = false) :
    (pllLock d).life.locked = true ∧ (pllLock d).ntu.run = true ∧ (pllLock d).ntu.total = d.ntu.total ∧
    (pllLock d).devSt = (if d.life.fused then stTrain else stBoot) ∧
    (d.life.fused = true → ∀ k, k < 16 → (pllLock d).sliceSt k = stTrain) := by
  have heq : pllLock d = ({ d with life.locked := true, ntu.run := true } : Dev).enterTrain := by
    simp only [pllLock, hrun, hst, hl, hfail, Bool.not_true, bne_self_eq_false, Bool.or_self, Bool.false_eq_true, if_false]
  have h := enterTrain_spec { d with life.locked := true, ntu.run := true }
  rw [heq]
  refine ⟨h.locked, (congrArg NtuSt.run h.ntu :), (congrArg NtuSt.total h.ntu :), ?_, fun hf k _ => h.slices ?_ k⟩
  · rw [h.devSt, Bool.and_true]
    exact congrArg (fun n => if d.life.fused = true then stTrain else n) hst
  · exact (Bool.and_true _).trans hf

/-- A time-out of the lock counts; the third one holds BOOT (R74). -/
theorem pllLockTimeout_counts (hl : d.life.locked = false) (hfail : d.fon F.GLB_BOOT_STATUS_PLL_FAIL = false) :
    (pllLockTimeout d).life.pllTries = d.life.pllTries + 1 ∧ (pllLockTimeout d).life.locked = false ∧
    (pllLockTimeout d).devSt = stBoot ∧ d.life.riseAt + (d.life.pllTries + 1) * 3000000 ≤ (pllLockTimeout d).cycle ∧
    (pllLockTimeout d).fget F.GLB_BOOT_STATUS_PLL_FAIL = (if d.life.pllTries = 2 then 1 else 0) := by
  obtain ⟨lim, hlim⟩ : ∃ lim, d.life.riseAt + (d.life.pllTries + 1) * 3000000 = lim := ⟨_, rfl⟩
  rw [hlim]
  have hcycle := le_cycle_toCycle d lim
  have heq : pllLockTimeout d = (if d.life.pllTries = 2 then
      ({ d.toCycle lim with life.pllTries := d.life.pllTries + 1 } : Dev).bootFail F.GLB_BOOT_STATUS_PLL_FAIL
      else { d.toCycle lim with life.pllTries := d.life.pllTries + 1 }) := by
    simp only [pllLockTimeout, hrun, hst, hl, hfail, hlim, Bool.not_true, bne_self_eq_false, Bool.or_self, Bool.false_eq_true, if_false,
      Nat.reduceEqDiff]
    rfl
  rw [heq]
  split
  · obtain ⟨hrep, hbit, -⟩ := bootFail_spec ({ d.toCycle lim with life.pllTries := d.life.pllTries + 1 } : Dev)
      (f := F.GLB_BOOT_STATUS_PLL_FAIL) rfl (by decide) (by decide)
    exact ⟨congrArg LifeSt.pllTries hrep.life, (congrArg LifeSt.locked hrep.life).trans hl,
      (hrep.devSt (by decide)).trans ((Dev.fget_fset_apart _ _ _ (by decide) (by decide)).trans hst), hcycle.trans hrep.cycle.ge, hbit⟩
  · refine ⟨rfl, hl, hst, hcycle, ?_⟩
    simp only [Dev.fon, bne_eq_false_iff_eq] at hfail
    exact hfail

end

/-! TRAIN and the boot load (R55, R66, R74) -/

/-- The registers that the stacks' training writes. -/
def trainRegs : List Nat := [F.SDC_STACK_STATUS_TRAINED.off, F.SDC_STACK_TRAIN_US.off]

/-- The device once it shows each stack trained. -/
def Dev.stacksShown (d : Dev) (us : List Nat) (n : Nat) : Dev :=
  forAll (List.range n) (fun d k => (d.fset F.SDC_STACK_STATUS_TRAINED k 1).fset F.SDC_STACK_TRAIN_US k (us.getD k 0)) d

theorem stacksShown_succ (d : Dev) (us : List Nat) (n : Nat) : d.stacksShown us (n + 1) =
    ((d.stacksShown us n).fset F.SDC_STACK_STATUS_TRAINED n 1).fset F.SDC_STACK_TRAIN_US n (us.getD n 0) := by
  rw [Dev.stacksShown, forAll, List.range_succ, List.foldl_append]
  rfl

theorem stacksShown_reported (d : Dev) (us : List Nat) (n : Nat) (hn : n ≤ 4) : d.Reported trainRegs (d.stacksShown us n) := by
  have h4 : (4 : Nat) ≤ 2 ^ 20 := by decide
  refine Dev.Reported.forAll (.refl _ d) _ fun k hk h => ?_
  have hk : k < n := List.mem_range.1 hk
  exact (h.fset _ _ (by decide) (by omega)).fset _ _ (by decide) (by omega)

theorem stacksShown_fields (d : Dev) (us : List Nat) {n k : Nat} (hk : k < n) (hn : n ≤ 4) :
    (d.stacksShown us n).fget F.SDC_STACK_STATUS_TRAINED k = 1 ∧
    (d.stacksShown us n).fget F.SDC_STACK_TRAIN_US k = us.getD k 0 % 2 ^ 16 := by
  have h4 : (4 : Nat) ≤ 2 ^ 20 := by decide
  induction n with
  | zero => omega
  | succ n ih =>
    rw [stacksShown_succ]
    generalize d.stacksShown us n = e at ih
    by_cases h : k = n
    · rw [h]
      exact ⟨(Dev.fget_of_rget (Dev.rget_fset_other _ _ (by omega) (by omega) (.inl (by decide)))).trans (Dev.fget_fset _ _ _ _ (by decide)),
        Dev.fget_fset _ _ _ _ (by decide)⟩
    · have hother (f : Fld) : ((e.fset F.SDC_STACK_STATUS_TRAINED n 1).fset F.SDC_STACK_TRAIN_US n (us.getD n 0)).fget f k = e.fget f k :=
        Dev.fget_of_rget ((Dev.rget_fset_other _ _ (by omega) (by omega) (.inr h)).trans
          (Dev.rget_fset_other _ _ (by omega) (by omega) (.inr h)))
      obtain ⟨htrained, hus⟩ := ih (by omega) (by omega)
      exact ⟨(hother _).trans htrained, (hother _).trans hus⟩

/-- The boot load starts from the source that BOOTSEL names (R55). -/
theorem bootLoad_starts (d : Dev) : (∀ off i, i < 2 ^ 20 → off ∉ startRegs → d.bootLoad.rget off i = d.rget off i) ∧
    (d.fget F.HLD_BOOT_SRC_BOOTSEL = 1 → d.bootLoad = d) ∧
    (d.fget F.HLD_BOOT_SRC_BOOTSEL ≠ 1 → d.bootLoad.fget F.HLD_STATUS_BUSY = 1 ∧ d.bootLoad.fget F.HLD_STATUS_PHASE = 1 ∧
      d.bootLoad.ld.step = 1 ∧ d.bootLoad.ld.src = if d.fget F.HLD_BOOT_SRC_BOOTSEL = 2 then 4 else 1) := by
  have hsel := d.fget_lt F.HLD_BOOT_SRC_BOOTSEL 0
  have hstarts (e : Dev) (src : Nat) (he : e.regs = d.regs) : (∀ off i, i < 2 ^ 20 → off ∉ startRegs →
      (e.loadFrom src false).rget off i = d.rget off i) ∧ (e.loadFrom src false).fget F.HLD_STATUS_BUSY = 1 ∧
      (e.loadFrom src false).fget F.HLD_STATUS_PHASE = 1 ∧ (e.loadFrom src false).ld.step = 1 ∧ (e.loadFrom src false).ld.src = src := by
    have h := loadFrom_begins e src false
    obtain ⟨p, -, hld⟩ := h.ld
    exact ⟨fun off i hi ho => (h.regs off i hi ho).trans (Dev.rget_congr he off i), h.busy, h.phase, congrArg LoadSt.step hld,
      congrArg LoadSt.src hld⟩
  unfold Dev.bootLoad
  dsimp only
  generalize d.fget F.HLD_BOOT_SRC_BOOTSEL = sel at hsel
  split
  · have hlen : 128 ≤ d.sourceLen 1 := by simp [Dev.sourceLen]
    rw [loadStart_eq _ hlen]
    obtain ⟨hregs, hbusy, hphase, hstep, hsrc⟩ := hstarts d 1 rfl
    exact ⟨hregs, fun h => by omega, fun _ => ⟨hbusy, hphase, hstep, hsrc.trans (if_neg (by omega)).symm⟩⟩
  · split
    · have hlen : 128 ≤ (d.updLd (fun l => { l with byStrap := true })).sourceLen 4 := by simp [Dev.sourceLen]
      rw [loadStart_eq _ hlen]
      obtain ⟨hregs, hbusy, hphase, hstep, hsrc⟩ := hstarts (d.updLd (fun l => { l with byStrap := true })) 4 rfl
      exact ⟨hregs, fun h => by omega, fun _ => ⟨hbusy, hphase, hstep, hsrc⟩⟩
    · exact ⟨fun _ _ _ _ => rfl, fun _ => rfl, fun h => by have : sel < 2 ^ 2 := hsel; omega⟩

/-- The device once a stack's attempt has been counted. -/
def Dev.tripped (d : Dev) (k n : Nat) : Dev :=
  { d with life.trips := Sparse.set 0 d.life.trips k n }.fset F.GLB_BOOT_STATUS_TRAIN_TRIES 0
    (max (d.fget F.GLB_BOOT_STATUS_TRAIN_TRIES) (min n 2))

/-- A stack's failed attempt is noted; the device stays in TRAIN. -/
theorem tripped_shows {d : Dev} (hst : d.devSt = stTrain) (hfail : d.fon F.GLB_BOOT_STATUS_TRAIN_FAIL = false) (k n : Nat) :
    Sparse.get 0 (d.tripped k n).life.trips k = n ∧ (d.tripped k n).devSt = stTrain ∧
    (d.tripped k n).fget F.GLB_BOOT_STATUS_TRAIN_FAIL = 0 := by
  refine ⟨Sparse.get_set_same _ _ _ _, (Dev.fget_fset_apart _ _ _ (by decide) (by decide)).trans hst,
    (Dev.fget_fset_apart _ _ _ (by decide) (by decide)).trans ?_⟩
  simp only [Dev.fon, bne_eq_false_iff_eq] at hfail
  exact hfail

section
variable {d : Dev} (hrun : d.running = true) (hst : d.devSt = stTrain) (hfail : d.fon F.GLB_BOOT_STATUS_TRAIN_FAIL = false)
include hrun hst hfail

theorem training_runs : d.training = true := by
  simp only [Dev.training, hrun, hst, hfail, beq_self_eq_true, Bool.not_false, Bool.and_self]

/-- Trained stacks bring the device to HARNESS, where the boot load starts. -/
theorem dramTrainingDone_loads (us : List Nat) : ∃ e, dramTrainingDone us d = e ∧ e.devSt = stHarness ∧
    (∀ k, k < 4 → e.fget F.SDC_STACK_STATUS_TRAINED k = 1 ∧ e.fget F.SDC_STACK_TRAIN_US k = us.getD k 0 % 2 ^ 16) ∧
    (d.fget F.HLD_BOOT_SRC_BOOTSEL = 1 → e.ld = d.ld) ∧
    (d.fget F.HLD_BOOT_SRC_BOOTSEL ≠ 1 → e.fget F.HLD_STATUS_BUSY = 1 ∧ e.fget F.HLD_STATUS_PHASE = 1 ∧ e.ld.step = 1 ∧
      e.ld.src = if d.fget F.HLD_BOOT_SRC_BOOTSEL = 2 then 4 else 1) := by
  have h0 : (0 : Nat) < 2 ^ 20 := Nat.two_pow_pos 20
  have heq : dramTrainingDone us d = ((d.stacksShown us 4).allStates stHarness).bootLoad := by
    simp only [dramTrainingDone, training_runs hrun hst hfail, Bool.not_true, Bool.false_eq_true, if_false]
    rfl
  have hshown := stacksShown_reported d us 4 (Nat.le_refl 4)
  have hfields : ∀ k < 4, _ := fun k hk => stacksShown_fields d us hk (Nat.le_refl 4)
  refine ⟨_, heq, ?_⟩
  generalize d.stacksShown us 4 = a at hshown hfields
  have hstates := allStates_reported a stHarness
  have hdev := allStates_devSt a (v := stHarness) (by decide)
  generalize a.allStates stHarness = b at hstates hdev
  have hb (f : Fld) (i : Nat) (hf : f.off ∉ stateRegs) (hi : i < 2 ^ 20) : b.fget f i = a.fget f i :=
    (hstates.fget f hf hi).trans (Dev.fget_of_rget (Dev.rget_congr rfl _ _))
  have hsel : b.fget F.HLD_BOOT_SRC_BOOTSEL = d.fget F.HLD_BOOT_SRC_BOOTSEL :=
    (hb _ _ (by decide) h0).trans (hshown.fget _ (by decide) h0)
  have hld : b.ld = d.ld := (hstates.ld).trans hshown.ld
  obtain ⟨hregs, hnone, hload⟩ := bootLoad_starts b
  rw [hsel] at hnone hload
  have h4 : (4 : Nat) ≤ 2 ^ 20 := by decide
  refine ⟨(Dev.fget_of_rget (hregs _ _ h0 (by decide))).trans hdev, fun k hk => ?_, fun h => (congrArg Dev.ld (hnone h)).trans hld, hload⟩
  obtain ⟨htrained, hus⟩ := hfields k hk
  exact ⟨(Dev.fget_of_rget (hregs _ _ (by omega) (by decide))).trans ((hb _ _ (by decide) (by omega)).trans htrained),
    (Dev.fget_of_rget (hregs _ _ (by omega) (by decide))).trans ((hb _ _ (by decide) (by omega)).trans hus)⟩

/-- A failed attempt counts for its stack; the third one holds TRAIN with the stack's bit (R74). -/
theorem trainingAttemptFail_counts {k : Nat} (hk : k < 4) : ∃ e, trainingAttemptFail k d = e ∧ e.devSt = stTrain ∧
    Sparse.get 0 e.life.trips k = Sparse.get 0 d.life.trips k + 1 ∧
    (Sparse.get 0 d.life.trips k + 1 < 3 → e.fget F.GLB_BOOT_STATUS_TRAIN_FAIL = 0) ∧
    (3 ≤ Sparse.get 0 d.life.trips k + 1 → e.fget F.GLB_BOOT_STATUS_TRAIN_FAIL = 1 ∧ e.fget F.GLB_BOOT_STATUS_STACK_FAIL = 2 ^ k ∧
      bit (e.rget R.ERR_ALARM).toNat 1 = true) := by
  have heq : trainingAttemptFail k d = (if Sparse.get 0 d.life.trips k + 1 < 3 then d.tripped k (Sparse.get 0 d.life.trips k + 1) else
      ((d.tripped k (Sparse.get 0 d.life.trips k + 1)).fset F.GLB_BOOT_STATUS_STACK_FAIL 0 (2 ^ k)).bootFail F.GLB_BOOT_STATUS_TRAIN_FAIL) := by
    simp only [trainingAttemptFail, training_runs hrun hst hfail, Bool.not_true, Bool.false_eq_true, if_false]
    rfl
  refine ⟨_, heq, ?_⟩
  obtain ⟨htrips, hdev, hnone⟩ := tripped_shows hst hfail k (Sparse.get 0 d.life.trips k + 1)
  generalize Sparse.get 0 d.life.trips k + 1 = n at htrips hdev hnone
  generalize d.tripped k n = a at htrips hdev hnone
  split
  · exact ⟨hdev, htrips, fun _ => hnone, fun h => by omega⟩
  · obtain ⟨hrep, hbit, halarm⟩ := bootFail_spec (a.fset F.GLB_BOOT_STATUS_STACK_FAIL 0 (2 ^ k)) (f := F.GLB_BOOT_STATUS_TRAIN_FAIL)
      rfl (by decide) (by decide)
    have hpow : 2 ^ k < 2 ^ 4 := Nat.pow_lt_pow_right (by decide) hk
    refine ⟨(hrep.devSt (by decide)).trans ?_, (congrArg (fun l => Sparse.get 0 l.trips k) hrep.life).trans htrips, fun h => by omega,
      fun _ => ⟨hbit, (hrep.fget _ (by decide) (Nat.two_pow_pos 20)).trans ?_, halarm⟩⟩
    · exact (Dev.fget_fset_apart _ _ _ (by decide) (by decide)).trans ((Dev.fget_fset_apart _ _ _ (by decide) (by decide)).trans hdev)
    · refine (Dev.fget_fset_apart _ _ _ (by decide) (by decide)).trans ((Dev.fget_fset _ _ _ _ (by decide)).trans ?_)
      exact Nat.mod_eq_of_lt hpow

end

/-- The endpoint is ready 20 ms after the later release (R72). -/
theorem pcieConfigReady_ready {d : Dev} (hrun : d.running = true) (hp : d.life.perstLow = false) (hr : d.host.pcieReady = false) :
    ∃ e, pcieConfigReady d = e ∧ e.regs = d.regs ∧ e.host.pcieReady = true ∧ max d.life.riseAt d.life.perstAt + 60000000 ≤ e.cycle := by
  obtain ⟨lim, hlim⟩ : ∃ lim, max d.life.riseAt d.life.perstAt + 60000000 = lim := ⟨_, rfl⟩
  have heq : pcieConfigReady d = { d.toCycle lim with host.pcieReady := true } := by
    simp only [pcieConfigReady, hrun, hp, hr, hlim, Bool.not_true, Bool.or_self, Bool.false_eq_true, if_false]
  rw [hlim]
  exact ⟨_, heq, rfl, rfl, le_cycle_toCycle d lim⟩

/-- Settles O10: each command of the start-up sequence does its own lemma's part. -/
theorem startUpSequence : Obligations.start_up_sequence := by
  unfold Obligations.start_up_sequence
  intro s hrun
  refine ⟨fun hst => ⟨fun lo hi die s0 s1 s2 s3 key hf hfail => ⟨?_, ?_⟩, fun hl hfail => ⟨?_, ?_⟩⟩,
    fun hst hfail => ⟨fun a b c d => ?_, fun k => ?_⟩, fun hp hr => ?_⟩
  · obtain ⟨e, he, hfused, hcycle, hlo, hhi, hstack, hkey, hdev⟩ :=
      fuseRead_shows hrun hst hf hfail lo hi die.toNat [s0, s1, s2, s3] key
    have hnext := event_running (fuseRead lo.toNat hi.toNat die.toNat [s0, s1, s2, s3] key true) hrun
    rw [he] at hnext
    exact ⟨_, hnext, rfl, rfl, hfused, hcycle, hlo, hhi, hstack 0 (by decide), hstack 3 (by decide), hkey, hdev⟩
  · exact ⟨_, event_running (fuseRead lo.toNat hi.toNat die.toNat [s0, s1, s2, s3] key false) hrun, rfl, rfl,
      fuseRead_bad hrun hst hf hfail lo.toNat hi.toNat die.toNat [s0, s1, s2, s3] key⟩
  · exact ⟨_, event_running pllLock hrun, rfl, rfl, pllLock_enters hrun hst hl hfail⟩
  · exact ⟨_, event_running pllLockTimeout hrun, rfl, rfl, pllLockTimeout_counts hrun hst hl hfail⟩
  · obtain ⟨e, he, hdev, hstacks, hnone, hload⟩ := dramTrainingDone_loads hrun hst hfail [a.toNat, b.toNat, c.toNat, d.toNat]
    have hnext := event_running (dramTrainingDone [a.toNat, b.toNat, c.toNat, d.toNat]) hrun
    rw [he] at hnext
    refine ⟨_, hnext, rfl, rfl, hdev, fun k hk => ⟨(hstacks k hk).1, (hstacks k hk).2.trans ?_⟩, hnone, hload⟩
    have hus : ([a.toNat, b.toNat, c.toNat, d.toNat] : List Nat).getD k 0 = ([a, b, c, d].getD k 0).toNat := by
      obtain rfl | rfl | rfl | rfl : k = 0 ∨ k = 1 ∨ k = 2 ∨ k = 3 := by omega
      all_goals rfl
    rw [hus]
    exact Nat.mod_eq_of_lt ([a, b, c, d].getD k 0).isLt
  · obtain ⟨e, he, h⟩ := trainingAttemptFail_counts hrun hst hfail k.isLt
    have hnext := event_running (trainingAttemptFail k.val) hrun
    rw [he] at hnext
    exact ⟨_, hnext, rfl, rfl, h⟩
  · obtain ⟨e, he, h⟩ := pcieConfigReady_ready hrun hp hr
    have hnext := event_running pcieConfigReady hrun
    rw [he] at hnext
    exact ⟨_, hnext, rfl, rfl, h⟩

end Sys2Proof.Machine
end


-- ==== Sys2Proof/Proofs/LoadFrames.lean ====
section
open Sys2Proof Sys2Proof.Machine
namespace Sys2Proof.Machine

/-! What leaves the loader's state alone: counting and reporting, freeing buffers, cutting frames short, rates and voids of ports,
members of teams, and all of a port's fall (R89, R97, R213, R252, R257). -/

theorem forAll_ld {α : Type} {f : Dev → α → Dev} (hf : ∀ d a, (f d a).ld = d.ld) (l : List α) (d : Dev) : (forAll l f d).ld = d.ld :=
  forAll_keeps (fun e => e.ld = d.ld) l f d rfl fun e a h => (hf e a).trans h

section
variable (d : Dev)

/-! Parts of the state -/

@[simp] theorem fset_ld (f : Fld) (i v : Nat) : (d.fset f i v).ld = d.ld := rfl
@[simp] theorem fresh_ld (w : Nat) : (d.fresh w).2.ld = d.ld := rfl
@[simp] theorem updPt_ld (p : Nat) (f : PortSt → PortSt) : (d.updPt p f).ld = d.ld := rfl
@[simp] theorem updCar_ld (c : Nat) (f : CarSt → CarSt) : (d.updCar c f).ld = d.ld := rfl
@[simp] theorem updSl_ld (s : Nat) (f : SliceSt → SliceSt) : (d.updSl s f).ld = d.ld := rfl
@[simp] theorem updLq_ld (q : Nat) (f : LeafSt → LeafSt) : (d.updLq q f).ld = d.ld := rfl
@[simp] theorem updMbr_ld (k : Nat) (f : MbrSt → MbrSt) : (d.updMbr k f).ld = d.ld := rfl
@[simp] theorem updDom_ld (k : Nat) (f : DomSt → DomSt) : (d.updDom k f).ld = d.ld := rfl
@[simp] theorem satAdd_ld (f : Fld) (i n : Nat) : (d.satAdd f i n).ld = d.ld := rfl
@[simp] theorem stat_ld (p dir c n : Nat) : (d.stat p dir c n).ld = d.ld := rfl

@[simp] theorem cnt_ld (f : Fld) (i n : Nat) : (d.cnt f i n).ld = d.ld := (cnt_asideRegs d f i n).same (·.ld) fun _ _ => rfl

@[simp] theorem notice_ld (f : Fld) (i : Nat) : (d.notice f i).ld = d.ld := ((Dev.Reported.refl eventRegs d).notice (List.Subset.refl _) f i).ld
@[simp] theorem error_ld (f : Fld) (i : Nat) : (d.error f i).ld = d.ld := ((Dev.Reported.refl eventRegs d).error (List.Subset.refl _) f i).ld
@[simp] theorem alarm_ld (n : Nat) (f : Fld) (i : Nat) (data : List Byte) : (d.alarm n f i data).ld = d.ld :=
  ((Dev.Reported.refl alarmRegs d).alarm (List.Subset.refl _) n f i data).ld

/-! Memory failures and buffers (R320, R383 to R388) -/

@[simp] theorem pendFail_ld (f : MemFail) : (d.pendFail f).ld = d.ld := by
  unfold Dev.pendFail
  dsimp only
  split
  · rfl
  · simp [Dev.unitLost]

@[simp] theorem parityFail_ld (cls inst w : Nat) (detail : List Byte) (taken : Bool) :
    (d.parityFail cls inst w detail taken).ld = d.ld := by
  unfold Dev.parityFail Dev.markWord
  split <;> simp

@[simp] theorem poolMarks_ld (p : Nat) : (d.poolMarks p).ld = d.ld := by
  unfold Dev.poolMarks
  dsimp only
  split
  · simp
  · split <;> simp

@[simp] theorem poolMin_ld (p : Nat) : (d.poolMin p).ld = d.ld := by
  unfold Dev.poolMin
  split
  · split
    · exact fset_ld _ _ _ _
    · rfl
  · exact fset_ld { d with minSeen := d.minSeen ++ [p] } _ _ _

@[simp] theorem bufQuarantine_ld (p i : Nat) : (d.bufQuarantine p i).ld = d.ld := by
  unfold Dev.bufQuarantine
  split <;> simp

@[simp] theorem bufOut_ld (p i : Nat) : (d.bufOut p i).2.ld = d.ld := by
  unfold Dev.bufOut
  split
  · rfl
  · split <;> simp

@[simp] theorem bufFree_ld (a owner : Nat) : (d.bufFree a owner).2.ld = d.ld := by
  unfold Dev.bufFree
  split
  · simp
  · dsimp only
    (repeat' split) <;> simp

@[simp] theorem freeAll_ld (l : List Nat) : (d.freeAll l).ld = d.ld := by
  refine forAll_ld (fun d a => ?_) l d
  unfold Dev.bufRelease
  split <;> simp

@[simp] theorem settleMc_ld : d.settleMc.ld = d.ld := by
  unfold Dev.settleMc
  simp

/-! Frames on a line (R208, R213) -/

@[simp] theorem statFrame_ld (p dir : Nat) (bytes : List Byte) (n m : Nat) (good : Bool) : (d.statFrame p dir bytes n m good).ld = d.ld := by
  unfold Dev.statFrame
  dsimp only
  (repeat' split) <;> simp

@[simp] theorem onLine_ld (p : Nat) (t : Tx) (bytes : List Byte) : (d.onLine p t bytes).ld = d.ld := by
  simp [Dev.onLine]

@[simp] theorem mbrSent_ld (k : Nat) (t : Tx) : (d.mbrSent k t).ld = d.ld := by
  simp [Dev.mbrSent]

@[simp] theorem txStamp_ld (p start : Nat) : (d.txStamp p start).2.ld = d.ld := by
  unfold Dev.txStamp Dev.clientPlace
  split <;> rfl

@[simp] theorem ptpSend_ld (x : QPkt) (t : Nat) : (d.ptpSend x t).2.ld = d.ld := by
  unfold Dev.ptpSend
  dsimp only
  (repeat' split) <;> simp

@[simp] theorem tsTake_ld (x : QPkt) (t : Nat) : (d.tsTake x t).ld = d.ld := by
  unfold Dev.tsTake Dev.tsWrite Dev.addStream
  dsimp only
  (repeat' split) <;> simp

@[simp] theorem sojourn_ld (x : QPkt) (start : Nat) : (d.sojourn x start).ld = d.ld := by
  unfold Dev.sojourn
  dsimp only
  split <;> rfl

@[simp] theorem packetStarts_ld (p : Nat) (t : Tx) : (d.packetStarts p t).ld = d.ld := by
  unfold Dev.packetStarts
  dsimp only
  split <;> simp

@[simp] theorem begins_ld (p : Nat) : (d.begins p).ld = d.ld := by
  refine forAll_ld (fun d t => ?_) _ d
  unfold Dev.beginTx
  split <;> simp

@[simp] theorem lineDone_ld (p : Nat) : (d.lineDone p).ld = d.ld := by
  unfold Dev.lineDone
  dsimp only
  split <;> simp

@[simp] theorem cutOne_ld (p : Nat) (back : Bool) (t : Tx) : (d.cutOne p back t).ld = d.ld := by
  unfold Dev.cutOne Dev.requeue
  dsimp only
  (repeat' split) <;> simp

@[simp] theorem cutTx_ld (p : Nat) (sel : Tx → Bool) (back : Bool) : (d.cutTx p sel back).ld = d.ld := by
  unfold Dev.cutTx
  dsimp only
  split
  · simp
  · simp [forAll_ld]

/-! The multicast residue and the leaf queues (R220, R241) -/

@[simp] theorem discardPort_ld (p : Nat) : (d.discardPort p).ld = d.ld := by
  refine forAll_ld (fun d q => ?_) _ d
  unfold Dev.discardIf
  dsimp only
  split <;> simp

@[simp] theorem showRes_ld (s : Nat) : (d.showRes s).ld = d.ld := by
  unfold Dev.showRes Dev.settleStall
  dsimp only
  (repeat' split) <;> simp

@[simp] theorem mcPortDown_ld (p : Nat) : (d.mcPortDown p).ld = d.ld := by
  unfold Dev.mcPortDown
  dsimp only
  split <;> simp

@[simp] theorem linkLost_ld (p : Nat) : (d.linkLost p).ld = d.ld := by
  simp [Dev.linkLost]

/-! Rates, holds and voids of a port (R97, R222, R236) -/

@[simp] theorem setHeld_ld (k : Nat) (h : Held) : (d.setHeld k h).ld = d.ld := by
  unfold Dev.setHeld
  split <;> rfl

@[simp] theorem teamHeld_ld (p ns : Nat) : (d.teamHeld p ns).ld = d.ld := by
  unfold Dev.teamHeld
  split
  · extract_lets r
    split
    · rfl
    · exact satAdd_ld _ _ _ _
  · rfl

@[simp] theorem settleHold_ld (k : Nat) : (d.settleHold k).ld = d.ld := by
  unfold Dev.settleHold
  dsimp only
  (repeat' split) <;> simp [forAll_ld]

@[simp] theorem settleHolds_ld (p : Nat) : (d.settleHolds p).ld = d.ld := by
  unfold Dev.settleHolds
  split <;> simp [forAll_ld]

@[simp] theorem settleShapers_ld (p : Nat) : (d.settleShapers p).ld = d.ld := by
  unfold Dev.settleShapers
  extract_lets e
  have he : e.ld = d.ld := forAll_ld (fun d q => updLq_ld d q _) _ d
  split
  · exact he
  · exact (forAll_ld (fun d c => updPt_ld d p _) _ _).trans he

@[simp] theorem settleRel_ld : d.settleRel.ld = d.ld := by
  unfold Dev.settleRel
  exact forAll_ld (fun d s => updSl_ld d s _) _ d

@[simp] theorem settleDc_ld (p : Nat) : (d.settleDc p).ld = d.ld := by
  unfold Dev.settleDc
  dsimp only
  rw [settleShapers_ld, updPt_ld, updSl_ld]
  split
  · exact settleRel_ld d
  · rfl

@[simp] theorem setVoid_ld (p : Nat) (v : Bool) : (d.setVoid p v).ld = d.ld := by
  unfold Dev.setVoid
  dsimp only
  (repeat' split) <;> simp

@[simp] theorem evalPort_ld (p : Nat) : (d.evalPort p).ld = d.ld := by
  unfold Dev.evalPort
  extract_lets e
  have he : e.ld = d.ld := (fset_ld _ _ _ _).trans (fset_ld _ _ _ _)
  split
  · exact he
  · exact (setVoid_ld _ _ _).trans ((fset_ld _ _ _ _).trans ((fset_ld _ _ _ _).trans ((fset_ld _ _ _ _).trans he)))

@[simp] theorem applyRate_ld (p : Nat) (ramped : Bool) : (d.applyRate p ramped).ld = d.ld := by
  unfold Dev.applyRate
  dsimp only
  (repeat' split) <;> simp

/-! Members of teams (R252 to R262) -/

@[simp] theorem teamRates_ld (t : Nat) (ramped : Bool) : (d.teamRates t ramped).ld = d.ld := by
  have hrate (d : Dev) (k : Nat) : (d.mbrRate k).ld = d.ld := by
    unfold Dev.mbrRate
    dsimp only
    split <;> rfl
  unfold Dev.teamRates
  dsimp only
  split <;> simp [forAll_ld hrate]

@[simp] theorem release_ld (t dm : Nat) (p : Pkt) : (d.release t dm p).ld = d.ld := by
  unfold Dev.release
  dsimp only
  split <;> simp

@[simp] theorem setExpect_ld (k e : Nat) : (d.setExpect k e).ld = d.ld := by
  unfold Dev.setExpect
  dsimp only
  split <;> simp

@[simp] theorem reseqCheck_ld (t dm n : Nat) : (reseqCheck t dm n d).ld = d.ld := by
  induction n generalizing d with
  | zero => rfl
  | succ n ih =>
    unfold reseqCheck
    dsimp only
    (repeat' split) <;> simp [ih]

/-- The same loader, as a relation between devices: a device whose terms hold large numbers is compared as a whole. -/
def Dev.SameLoader (d e : Dev) : Prop := e.ld = d.ld

/-- A member's skew, which may pass its team's limit (R266). -/
theorem skewOver_sameLoader (k t v : Nat) (c : Prop) [Decidable c] : d.SameLoader (if c then (((d.fset F.TEM_MBR_SKEW_NS_NS k v).fset
    F.TEM_MBR_STATUS_SKEW_OVER k 1).fset F.TEM_TEAM_STATUS_SKEW_OVER t 1).alarm 5 F.TEM_TEAM_STATUS_SKEW_OVER t
    else d.fset F.TEM_MBR_SKEW_NS_NS k v) := by
  unfold Dev.SameLoader
  split <;> simp

@[simp] theorem showSkew_ld (t : Nat) : (d.showSkew t).ld = d.ld := by
  unfold Dev.showSkew
  extract_lets known e
  have he : e.ld = d.ld := forAll_ld (fun d k => fset_ld d _ _ _) _ d
  split
  · exact he
  · exact Eq.trans (forAll_related (R := Dev.SameLoader) (fun _ => rfl) (fun hde hef => hef.trans hde)
      (fun d k => skewOver_sameLoader d k t _ _) _ _) he

@[simp] theorem rxChanged_ld (t : Nat) : (d.rxChanged t).ld = d.ld :=
  (forAll_ld (fun d dm => reseqCheck_ld d t dm _) _ _).trans (showSkew_ld d t)

@[simp] theorem mbrDown_ld (k : Nat) : (d.mbrDown k).ld = d.ld := by
  unfold Dev.mbrDown
  dsimp only
  split <;> simp

/-! A port's fall, and what else a carve or a gate list changes (R63, R131, R232) -/

@[simp] theorem portFalls_ld (p : Nat) : (d.portFalls p).ld = d.ld := by
  unfold Dev.portFalls
  dsimp only
  split <;> simp

@[simp] theorem portDownAny_ld (p : Nat) : (d.portDownAny p).ld = d.ld := by
  unfold Dev.portDownAny Dev.portDownNow
  dsimp only
  (repeat' split) <;> simp

@[simp] theorem carveStop_ld (p : Nat) : (d.carveStop p).ld = d.ld := by
  simp [Dev.carveStop]

@[simp] theorem gatePend_ld (p : Nat) : (d.gatePend p).ld = d.ld := by
  simp [Dev.gatePend]

@[simp] theorem epochDrained_ld (s : Nat) : (epochDrained s d).ld = d.ld := by
  have hidle : (d.bankIdle s).ld = d.ld := by
    unfold Dev.bankIdle Dev.setBank
    extract_lets k e
    refine (fset_ld e _ _ _).trans ?_
    simp only [e]
    split <;> simp
  unfold epochDrained
  extract_lets e
  split
  · exact hidle
  · rfl

end

end Sys2Proof.Machine
end


-- ==== Sys2Proof/Proofs/SliceStates.lean ====
section
open Sys2Proof Sys2Proof.Machine
namespace Sys2Proof.Machine

/-! What a slice's state moves with it: the device's state and, as DEV leaves STRUCTURE, the clusters with firmware (R66, R73, R76). -/

/-- The registers of the device's state and of the clusters that are released. -/
def releaseRegs : List Nat := [R.GLB_STATE, R.GLB_CLUSTER_HOLD, F.THREAD_STATUS_STATE.off, F.DBG_STATUS_HALTED.off]

/-- Two devices that agree in all but the registers of a release, the monitor and the cores. -/
structure Dev.Releasing (d e : Dev) : Prop where
  rest : e = { d with regs := e.regs, pmu := e.pmu, drv := e.drv }
  regs : ∀ off i, i < 2 ^ 20 → off ∉ releaseRegs → e.rget off i = d.rget off i

theorem Dev.Releasing.refl (d : Dev) : d.Releasing d := ⟨rfl, fun _ _ _ _ => rfl⟩

theorem Dev.Releasing.trans {d e f : Dev} (hde : d.Releasing e) (hef : e.Releasing f) : d.Releasing f :=
  ⟨hef.rest.trans (by rw [hde.rest]), fun off i hi ho => (hef.regs off i hi ho).trans (hde.regs off i hi ho)⟩

/-- What looks at none of the three parts is the same. -/
theorem Dev.Releasing.same {d e : Dev} (h : d.Releasing e) {α : Type} (g : Dev → α)
    (hg : ∀ x y z, g { d with regs := x, pmu := y, drv := z } = g d) : g e = g d :=
  (congrArg g h.rest).trans (hg _ _ _)

section
variable {d e : Dev} (h : d.Releasing e)
include h

theorem Dev.Releasing.ld : e.ld = d.ld := h.same (·.ld) (fun _ _ _ => rfl)

theorem Dev.Releasing.life : e.life = d.life := h.same (·.life) (fun _ _ _ => rfl)

theorem Dev.Releasing.fset (f : Fld) {i : Nat} (v : Nat) (hf : f.off ∈ releaseRegs) (hi : i < 2 ^ 20) : d.Releasing (e.fset f i v) :=
  h.trans ⟨rfl, fun _ _ hj hn => Dev.rget_rset_other e _ hi hj (.inl fun heq => hn (heq ▸ hf))⟩

/-- The same registers, and the same of all but the monitor and the cores. -/
theorem Dev.Releasing.cores {f : Dev} {x : PmuSt} {y : DrvSt} (hr : f = { e with pmu := x, drv := y }) : d.Releasing f := by
  rw [hr]
  exact h.trans ⟨rfl, fun _ _ _ _ => rfl⟩

theorem Dev.Releasing.forAll {α : Type} {f : Dev → α → Dev} (l : List α)
    (hf : ∀ {e} a, a ∈ l → d.Releasing e → d.Releasing (f e a)) : d.Releasing (forAll l f e) := by
  induction l generalizing e with
  | nil => exact h
  | cons a l ih => exact ih (hf a List.mem_cons_self h) fun b hb => hf b (List.mem_cons_of_mem a hb)

/-! Threads that start (R340) -/

theorem Dev.Releasing.settle (t : Nat) : d.Releasing (e.settle t) := by
  have hp : e.passed t = { e with pmu := (e.passed t).pmu } :=
    congrArg (fun x : Dev => { x with pmu := (e.passed t).pmu }) (Dev.passed_only e t)
  have hpassed : d.Releasing (e.passed t) := h.cores (y := e.drv) hp
  exact hpassed.cores rfl

theorem Dev.Releasing.enter {t : Nat} (ht : t < 2 ^ 20) (st : Nat) (w : Hold) : d.Releasing (e.enter t st w) := by
  have hset := (h.settle t).fset F.THREAD_STATUS_STATE st (by decide) ht
  unfold Dev.enter Dev.stallWatch
  dsimp only
  split
  · split
    · exact hset.cores rfl
    · exact hset.cores rfl
  · exact hset.cores rfl

theorem Dev.Releasing.startThread {t : Nat} (ht : t < 2 ^ 20) : d.Releasing (e.startThread t) := by
  have hnew (f : Thread → Thread) : d.Releasing ((e.settle t).updThr t f) := (h.settle t).cores rfl
  exact (((((hnew _).fset _ _ (by decide) ht).fset _ _ (by decide) ht).fset _ _ (by decide) ht).fset _ _ (by decide) ht).enter ht _ _

theorem Dev.Releasing.releaseFw : d.Releasing e.releaseFw := by
  refine h.forAll _ fun k hk h => ?_
  have hk : k < 8 := List.mem_range.1 hk
  split
  · unfold clusterRelease
    split
    · have hheld := h.fset ⟨R.GLB_CLUSTER_HOLD, k, 1⟩ 0 (by decide : R.GLB_CLUSTER_HOLD ∈ releaseRegs) (Nat.two_pow_pos 20)
      refine hheld.forAll _ fun t ht h => ?_
      obtain ⟨j, hj, rfl⟩ := List.mem_map.1 ht
      have hj : j < 32 := List.mem_range.1 hj
      have hlt : 32 * k + j < 2 ^ 20 := Nat.lt_of_lt_of_le (by omega : 32 * k + j < 256) (by decide)
      split
      · exact h.startThread hlt
      · exact h
    · exact h
  · exact h

theorem Dev.Releasing.setDevSt (v : Nat) : d.Releasing (e.setDevSt v) := by
  have h0 : (0 : Nat) < 2 ^ 20 := Nat.two_pow_pos 20
  unfold Dev.setDevSt
  refine Dev.Releasing.fset ?_ _ _ (by decide) h0
  split
  · exact h
  · exact (h.fset _ _ (by decide) h0).fset _ _ (by decide) h0

theorem Dev.Releasing.refresh : d.Releasing e.refresh := by
  unfold Dev.refresh
  split
  · exact h
  · dsimp only
    split
    · exact (h.setDevSt _).releaseFw
    · exact h.setDevSt _

end

/-! Slices put into a state -/

@[simp] theorem putSlice_ld (d : Dev) (s st kind : Nat) : (d.putSlice s st kind).ld = d.ld :=
  (Dev.Releasing.refl ((d.setSliceSt s st).setKind s kind)).refresh.ld

/-- The registers that a slice's state and what follows it change. -/
def putRegs : List Nat := R.GLB_SLICE_STATE_LO :: R.GLB_SLICE_STATE_HI :: releaseRegs

/-- The nibble of a slice's state (R66). -/
def stateFld (s : Nat) : Fld := nibble R.GLB_SLICE_STATE_LO R.GLB_SLICE_STATE_HI s

theorem stateFld_fits (s : Nat) : (stateFld s).lo + (stateFld s).w ≤ 32 := by
  show s % 8 * 4 + 4 ≤ 32
  omega

theorem stateFld_off (s : Nat) : (stateFld s).off = R.GLB_SLICE_STATE_LO ∨ (stateFld s).off = R.GLB_SLICE_STATE_HI :=
  ite_eq_or_eq _ _ _

/-- The nibbles of two slices lie in two registers, or beside each other. -/
theorem stateFld_apart {s t : Nat} (h : t ≠ s) (hs : s < 16) (ht : t < 16) :
    regKey (stateFld t).off 0 ≠ regKey (stateFld s).off 0 ∨ (stateFld t).off = (stateFld s).off ∧ 0 = 0 ∧
      ((stateFld t).lo + (stateFld t).w ≤ (stateFld s).lo ∨ (stateFld s).lo + (stateFld s).w ≤ (stateFld t).lo) := by
  have h0 : (0 : Nat) < 2 ^ 20 := Nat.two_pow_pos 20
  have hoff (n : Nat) : (stateFld n).off = if n < 8 then R.GLB_SLICE_STATE_LO else R.GLB_SLICE_STATE_HI := rfl
  by_cases hside : s < 8 ↔ t < 8
  · refine .inr ⟨by simp only [hoff, hside], rfl, ?_⟩
    show t % 8 * 4 + 4 ≤ s % 8 * 4 ∨ s % 8 * 4 + 4 ≤ t % 8 * 4
    omega
  · refine .inl (regKey_ne h0 h0 (.inl ?_))
    rw [hoff, hoff]
    by_cases h8 : s < 8
    · rw [if_pos h8, if_neg (fun ht => hside ⟨fun _ => ht, fun _ => h8⟩)]
      decide
    · rw [if_neg h8, if_pos (by_contra fun ht => hside ⟨fun hs => absurd hs h8, fun h => absurd h ht⟩)]
      decide

theorem sliceSt_setSliceSt_same (d : Dev) (s : Nat) {v : Nat} (hv : v < 16) : (d.setSliceSt s v).sliceSt s = v :=
  (Dev.fget_fset d (stateFld s) 0 v (stateFld_fits s)).trans (Nat.mod_eq_of_lt hv)

theorem sliceSt_setSliceSt_other (d : Dev) {s t : Nat} (v : Nat) (h : t ≠ s) (hs : s < 16) (ht : t < 16) :
    (d.setSliceSt s v).sliceSt t = d.sliceSt t :=
  Dev.fget_fset_apart d (stateFld s) (stateFld t) (stateFld_fits s) (stateFld_apart h hs ht)

theorem rget_setSliceSt (d : Dev) (s v : Nat) {off i : Nat} (hi : i < 2 ^ 20) (ho : off ∉ putRegs) :
    (d.setSliceSt s v).rget off i = d.rget off i := by
  refine Dev.rget_fset_other d (stateFld s) (Nat.two_pow_pos 20) hi (.inl fun h => ho ?_)
  obtain hs | hs := stateFld_off s <;> rw [h, hs] <;> decide

/-- Two devices of which the second has the slices of the first that wait in STRUCTURE still waiting: the registers of the slices'
states and what follows them have changed, and how slices stand in their states. -/
structure Dev.Waiting (d e : Dev) : Prop where
  ld : e.ld = d.ld
  wide : e.life.wide = d.life.wide
  regs : ∀ off i, i < 2 ^ 20 → off ∉ putRegs → e.rget off i = d.rget off i
  waits : ∀ k, k < 16 → d.sliceSt k = stStructure → e.sliceSt k = stStructure
  kinds : ∀ k, d.kindOf k = 1 → e.kindOf k = 1

theorem Dev.Waiting.trans {d e f : Dev} (hde : d.Waiting e) (hef : e.Waiting f) : d.Waiting f :=
  ⟨hef.ld.trans hde.ld, hef.wide.trans hde.wide, fun off i hi ho => (hef.regs off i hi ho).trans (hde.regs off i hi ho),
    fun k hk h => hef.waits k hk (hde.waits k hk h), fun k h => hef.kinds k (hde.kinds k h)⟩

theorem Dev.Waiting.refl (d : Dev) : d.Waiting d := ⟨rfl, rfl, fun _ _ _ _ => rfl, fun _ _ h => h, fun _ h => h⟩

theorem Dev.Releasing.sliceSt {d e : Dev} (h : d.Releasing e) (k : Nat) : e.sliceSt k = d.sliceSt k := by
  show e.fget (stateFld k) = d.fget (stateFld k)
  refine Dev.fget_of_rget (h.regs (stateFld k).off 0 (Nat.two_pow_pos 20) ?_)
  obtain hs | hs := stateFld_off k <;> rw [hs] <;> decide

theorem Dev.Releasing.waiting {d e : Dev} (h : d.Releasing e) : d.Waiting e :=
  ⟨h.ld, congrArg LifeSt.wide h.life, fun off i hi ho => h.regs off i hi fun hm => ho (List.mem_cons_of_mem _ (List.mem_cons_of_mem _ hm)),
    fun k _ hk => (h.sliceSt k).trans hk, fun k hk => (congrArg (fun l : LifeSt => Sparse.get 0 l.kind k) h.life).trans hk⟩

theorem kindOf_setKind (d : Dev) (s k : Nat) : (d.setKind s k).kindOf s = k := Sparse.get_set_same 0 d.life.kind s k

theorem setKind_waiting (d : Dev) (s : Nat) : d.Waiting (d.setKind s 1) := by
  refine ⟨rfl, rfl, fun _ _ _ _ => rfl, fun _ _ h => h, fun k h => ?_⟩
  refine (Sparse.get_set 0 d.life.kind s k 1).trans ?_
  split
  · rfl
  · exact h

/-- A slice is put into the hold (R68). -/
theorem putSlice_waits (d : Dev) {s : Nat} (hs : s < 16) : d.Waiting (d.putSlice s stStructure 1) ∧
    (d.putSlice s stStructure 1).sliceSt s = stStructure ∧ (d.putSlice s stStructure 1).kindOf s = 1 := by
  have hset : d.Waiting (d.setSliceSt s stStructure) := by
    refine ⟨rfl, rfl, fun off i hi ho => rget_setSliceSt d s _ hi ho, fun k hk h => ?_, fun _ h => h⟩
    by_cases hks : k = s
    · rw [hks]
      exact sliceSt_setSliceSt_same d s (by decide)
    · exact (sliceSt_setSliceSt_other d _ hks hs hk).trans h
  have hfresh := (Dev.Releasing.refl ((d.setSliceSt s stStructure).setKind s 1)).refresh.waiting
  exact ⟨(hset.trans (setKind_waiting _ s)).trans hfresh, hfresh.waits s hs (sliceSt_setSliceSt_same d s (by decide)),
    hfresh.kinds s (kindOf_setKind _ s 1)⟩

/-- With STRUCT_HOLD on, slices whose apply pass has ended wait in the hold (R68). -/
theorem leaveStructure_waits (l : List Nat) (d : Dev) (hl : ∀ s ∈ l, s < 16) (hon : d.fon F.GLB_CTRL_STRUCT_HOLD = true) :
    d.Waiting (forAll l (fun d s => d.leaveStructure s true) d) ∧
    ∀ s ∈ l, (forAll l (fun d s => d.leaveStructure s true) d).sliceSt s = stStructure ∧
      (forAll l (fun d s => d.leaveStructure s true) d).kindOf s = 1 := by
  induction l generalizing d with
  | nil => exact ⟨.refl d, fun s hs => absurd hs List.not_mem_nil⟩
  | cons a l ih =>
    have ha : a < 16 := hl a List.mem_cons_self
    have hleave : d.leaveStructure a true = d.putSlice a stStructure 1 := if_pos hon
    obtain ⟨hput, hst, hkind⟩ := putSlice_waits d ha
    have hon' : (d.putSlice a stStructure 1).fon F.GLB_CTRL_STRUCT_HOLD = true := by
      rw [Dev.fon, Dev.fget_of_rget (hput.regs _ 0 (Nat.two_pow_pos 20) (by decide)), ← Dev.fon, hon]
    obtain ⟨hrest, hall⟩ := ih (d.putSlice a stStructure 1) (fun s hs => hl s (List.mem_cons_of_mem a hs)) hon'
    rw [show forAll (a :: l) (fun d s => d.leaveStructure s true) d = forAll l (fun d s => d.leaveStructure s true) (d.leaveStructure a true)
      from rfl, hleave]
    refine ⟨hput.trans hrest, fun s hs => ?_⟩
    obtain rfl | hs := List.mem_cons.1 hs
    · exact ⟨hrest.waits s ha hst, hrest.kinds s hkind⟩
    · exact hall s hs

end Sys2Proof.Machine
end


-- ==== Sys2Proof/Proofs/Verification.lean ====
section
open Sys2Proof Sys2Proof.Machine
namespace Sys2Proof.Machine

/-! The phases of a load up to its last body (R45 to R49, R52) -/

/-- A range that the source delivers is no error of its own. -/
theorem fetchBad_of_fetched {d : Dev} {a n : Nat} {data x : List Byte} (h : d.fetched a n data = some x) (ok : Bool) :
    d.fetchBad a n ok = !ok := by
  have hring : (d.ringReads && d.memGot ldReader (d.srcAddr a) n == some none) = false := by
    cases hr : d.ringReads with
    | false => rfl
    | true =>
      have hsrc : d.ld.src ≠ 4 := by
        simp only [Dev.ringReads, Bool.and_eq_true, beq_iff_eq] at hr
        omega
      rw [Dev.fetched, if_neg hsrc, if_pos hr] at h
      obtain ⟨y, hy, rfl⟩ := Option.bind_eq_some_iff.1 h
      rw [hy]
      rfl
  rw [Dev.fetchBad, hring, Bool.or_false]

/-- The loader's registers and state once a load has ended with a code. -/
def Dev.Ended (d : Dev) (code sec : Nat) : Prop := d.ld.step = 0 ∧ d.fget F.HLD_STATUS_BUSY = 0 ∧ d.fget F.HLD_STATUS_FAIL = 1 ∧
  d.fget F.HLD_STATUS_ERR = code % 256 ∧ d.fget F.HLD_STATUS_SECTION = sec % 2 ^ 16

theorem loadFail_ended {d : Dev} (h : d.ld.src ≠ 1) (code sec : Nat) : (d.loadFail code sec).Ended code sec := by
  have hend := loadFail_ends h code sec
  exact ⟨congrArg LoadSt.step hend.ld, hend.busy, hend.fail, hend.err, hend.sect⟩

section
variable {d : Dev} {data : List Byte}

/-! The header (R44) -/

theorem headerFetchDone_refused {x : List Byte} (hstep : d.ld.step = 1) (hf : d.fetched 0 128 data = some x) :
    headerFetchDone data false d = d.loadFail errFetch noSection := by
  rw [headerFetchDone, if_neg (by simp [hstep]), fetchBad_of_fetched hf false]
  rfl

section
variable {h : List Byte} (hstep : d.ld.step = 1) (hf : d.fetched 0 128 data = some h)
include hstep hf

theorem headerFetchDone_read : headerFetchDone data true d =
    if hdrCheck h (d.fget F.GLB_ID_REV) d.devid d.ld.live d.sourceLimit ≠ 0 then
      d.loadFail (hdrCheck h (d.fget F.GLB_ID_REV) d.devid d.ld.live d.sourceLimit) noSection
    else (d.updLd (fun l => { l with step := 2, since := d.cycle, man := h })).askSrc 128 (sigOffset (hdrCount h) + 128) := by
  have hbad := fetchBad_of_fetched hf true
  simp only [headerFetchDone, hstep, hbad, hf, ne_eq, not_true_eq_false, Bool.not_true, Bool.false_eq_true, if_false]

theorem headerFetchDone_good (he : hdrCheck h (d.fget F.GLB_ID_REV) d.devid d.ld.live d.sourceLimit = 0) :
    (headerFetchDone data true d).regs = d.regs ∧ (headerFetchDone data true d).ld.step = 2 ∧
    (headerFetchDone data true d).ld.man = h := by
  rw [headerFetchDone_read hstep hf, if_neg (by simp [he])]
  generalize hn : sigOffset (hdrCount h) + 128 = n
  have hask := askSrc_asideHost (d.updLd (fun l => { l with step := 2, since := d.cycle, man := h })) 128 n
  have hld := hask.same (·.ld) (fun _ _ => rfl)
  exact ⟨hask.same (·.regs) (fun _ _ => rfl), congrArg LoadSt.step hld, congrArg LoadSt.man hld⟩

end

/-! The rest of the manifest (R45) -/

/-- The device once the rest of the manifest is read. -/
def Dev.manifestRead (d : Dev) (r : List Byte) : Dev :=
  (d.updLd (fun l => { l with step := 3, man := l.man ++ r })).fset F.HLD_STATUS_PHASE 0 2

theorem manifestRead_keyHash (d : Dev) (r : List Byte) : (d.manifestRead r).keyHash = d.keyHash := by
  refine List.flatMap_congr fun k hk => ?_
  have hk : k < 12 := List.mem_range.1 hk
  have hreg : (d.manifestRead r).rget (R.HLD_KEY_HASH + 4 * k) = d.rget (R.HLD_KEY_HASH + 4 * k) := by
    refine Dev.rget_fset_other (d.updLd _) F.HLD_STATUS_PHASE (Nat.two_pow_pos 20) (Nat.two_pow_pos 20) (.inl ?_)
    simp only [R.HLD_KEY_HASH]
    omega
  rw [hreg]

theorem manifestRead_shows (d : Dev) (r : List Byte) : (d.manifestRead r).ld.step = 3 ∧ (d.manifestRead r).ld.man = d.ld.man ++ r ∧
    (d.manifestRead r).fget F.HLD_STATUS_PHASE = 2 :=
  ⟨rfl, rfl, Dev.fget_fset (d.updLd _) F.HLD_STATUS_PHASE 0 2 (by decide)⟩

theorem manifestFetchDone_good {r : List Byte} (hstep : d.ld.step = 2)
    (hf : d.fetched 128 (sigOffset (hdrCount d.ld.man) + 128) data = some r)
    (hform : sigFormCheck (LoadSt.sig { d.ld with man := d.ld.man ++ r }) d.keyHash = 0) :
    manifestFetchDone data true d = d.manifestRead r := by
  have hread : manifestFetchDone data true d = if sigFormCheck (d.manifestRead r).ld.sig (d.manifestRead r).keyHash ≠ 0 then
      (d.manifestRead r).loadFail (sigFormCheck (d.manifestRead r).ld.sig (d.manifestRead r).keyHash) noSection else d.manifestRead r := by
    simp only [manifestFetchDone, hstep, fetchBad_of_fetched hf true, hf, ne_eq, not_true_eq_false, Bool.not_true, Bool.false_eq_true,
      if_false]
    rfl
  rw [hread, manifestRead_keyHash]
  exact if_neg (not_not_intro hform)

end

/-! The signature and the table (R46) -/

section
variable {b : Block} (hstep : b.dev.ld.step = 3)
include hstep

theorem signatureCheckDone_bad (hsig : sigOk (b.dev.ld.man.take (sigOffset (hdrCount b.dev.ld.man))) b.dev.ld.sig = false) :
    signatureCheckDone b = b.on (fun d => d.loadFail errSig noSection) := by
  simp only [signatureCheckDone, hstep, hsig, ne_eq, not_true_eq_false, Bool.not_false, if_true, if_false]

/-- The device once the manifest is staged, before the first body is asked for. -/
def Dev.manifestHeld (d : Dev) : Dev :=
  (d.updLd (fun l => { l with step := 4, since := d.cycle, next := 0, retained := l.retained && l.live })).fset F.HLD_STATUS_PHASE 0 3

theorem signatureCheckDone_good (hsig : sigOk (b.dev.ld.man.take (sigOffset (hdrCount b.dev.ld.man))) b.dev.ld.sig = true)
    (htab : (tableCheck b.dev.ld.man b.dev.ld.live).1 = 0) :
    signatureCheckDone b = (b.store .dram (stageBase b.dev.ld.live) b.dev.ld.man).on (fun d => d.manifestHeld.askBody) := by
  simp only [signatureCheckDone, hstep, hsig, htab, ne_eq, not_true_eq_false, Bool.not_true, Bool.false_eq_true, if_false]
  rfl

end

theorem manifestHeld_shows (d : Dev) : d.manifestHeld.askBody.ld.step = 4 ∧ d.manifestHeld.askBody.ld.next = 0 ∧
    d.manifestHeld.askBody.fget F.HLD_STATUS_PHASE = 3 := by
  have hask := askBody_asideHost d.manifestHeld
  have hld := hask.same (·.ld) (fun _ _ => rfl)
  exact ⟨congrArg LoadSt.step hld, congrArg LoadSt.next hld,
    (Dev.fget_of_rget (Dev.rget_congr (hask.same (·.regs) (fun _ _ => rfl)) _ _)).trans (Dev.fget_fset _ _ _ _ (by decide))⟩

/-! Bodies (R47, R49) -/

/-- The block once a body is staged and hashed. -/
def Block.bodyHeld (b : Block) (e : Entry) (body : List Byte) : Block :=
  { b with dev := b.dev.digestDone (sha384 body) body.length }.dramWhole (stageBase b.dev.ld.live + e.off) body

/-- The digest engine's registers. -/
def digestRegs : List Nat := R.CKU_DIG_BYTES :: (List.range 12).map (fun k => R.CKU_DIG_LAST + 4 * k)

theorem digestDone_reported (d : Dev) (dg : List Byte) (n : Nat) : d.Reported digestRegs (d.digestDone dg n) := by
  have h0 : (0 : Nat) < 2 ^ 20 := Nat.two_pow_pos 20
  unfold Dev.digestDone
  refine Dev.Reported.cnt (Dev.Reported.forAll (.refl _ d) _ fun k hk h => ?_) _ _ List.mem_cons_self h0
  exact h.rset _ _ (List.mem_cons_of_mem _ (List.mem_map_of_mem hk)) h0

theorem bodyHeld_ld (b : Block) (e : Entry) (body : List Byte) : (b.bodyHeld e body).dev.ld = b.dev.ld :=
  (digestDone_reported b.dev (sha384 body) body.length).ld

theorem bodyHeld_cycle (b : Block) (e : Entry) (body : List Byte) : (b.bodyHeld e body).dev.cycle = b.dev.cycle :=
  (digestDone_reported b.dev (sha384 body) body.length).cycle

/-- The block with the next body in turn. -/
def Block.bodyPassed (b : Block) (e : Entry) (body : List Byte) : Block :=
  (b.bodyHeld e body).on (fun d => d.updLd (fun l => { l with next := l.next + 1, since := d.cycle }))

section
variable {b : Block} {data body : List Byte} {e : Entry} (hstep : b.dev.ld.step = 4) (hent : b.dev.ld.entry = some e)
  (hf : b.dev.fetched e.off e.len data = some body)
include hstep hent hf

theorem bodyStaged_read : bodyStaged data true b =
    if sha384 body ≠ e.digest then (b.bodyHeld e body).on (fun d => d.loadFail errDigest e.idx)
    else if e.applies && !recordsOk e body then (b.bodyHeld e body).on (fun d => d.loadFail errBadRecord e.idx)
    else if b.dev.ld.next + 1 < hdrCount b.dev.ld.man then (b.bodyPassed e body).on (fun d => d.askBody)
    else (b.bodyPassed e body).verified := by
  have hbad := fetchBad_of_fetched hf true
  simp only [bodyStaged, hent, hstep, hbad, hf, ne_eq, not_true_eq_false, Bool.not_true, Bool.false_eq_true, if_false]
  rfl

theorem bodyStaged_bad (hdg : sha384 body ≠ e.digest) :
    bodyStaged data true b = (b.bodyHeld e body).on (fun d => d.loadFail errDigest e.idx) := by
  rw [bodyStaged_read hstep hent hf, if_pos hdg]

theorem bodyStaged_good (hdg : sha384 body = e.digest) (hrec : e.applies = true → recordsOk e body = true) :
    bodyStaged data true b = if b.dev.ld.next + 1 < hdrCount b.dev.ld.man then (b.bodyPassed e body).on (fun d => d.askBody)
      else (b.bodyPassed e body).verified := by
  have happ : ¬(e.applies && !recordsOk e body) = true := by
    cases ha : e.applies with
    | false => simp
    | true => simp [hrec ha]
  rw [bodyStaged_read hstep hent hf, if_neg (not_not_intro hdg), if_neg happ]

/-- Before the last body. -/
theorem bodyStaged_next (hdg : sha384 body = e.digest) (hrec : e.applies = true → recordsOk e body = true)
    (hn : b.dev.ld.next + 1 < hdrCount b.dev.ld.man) : bodyStaged data true b = (b.bodyPassed e body).on (fun d => d.askBody) :=
  (bodyStaged_good hstep hent hf hdg hrec).trans (if_pos hn)

/-- With the last body. -/
theorem bodyStaged_last (hdg : sha384 body = e.digest) (hrec : e.applies = true → recordsOk e body = true)
    (hn : hdrCount b.dev.ld.man ≤ b.dev.ld.next + 1) : bodyStaged data true b = (b.bodyPassed e body).verified :=
  (bodyStaged_good hstep hent hf hdg hrec).trans (if_neg (Nat.not_lt.2 hn))

end

theorem bodyPassed_ld (b : Block) (e : Entry) (body : List Byte) :
    (b.bodyPassed e body).dev.ld = { b.dev.ld with next := b.dev.ld.next + 1, since := b.dev.cycle } := by
  have hld := bodyHeld_ld b e body
  have hcycle := bodyHeld_cycle b e body
  unfold Block.bodyPassed
  generalize b.bodyHeld e body = c at hld hcycle
  rw [← hld, ← hcycle]
  rfl

theorem bodyPassed_mem (b : Block) (e : Entry) (body : List Byte) :
    (b.bodyPassed e body).mem = b.mem.write .dram (stageBase b.dev.ld.live + e.off) body := rfl

end Sys2Proof.Machine
end


-- ==== Sys2Proof/Proofs/ApplyPasses.lean ====
section
open Sys2Proof Sys2Proof.Machine
namespace Sys2Proof.Machine

/-! A verified image and the boot apply pass (R41, R53, R66, R68) -/

theorem forAll_dev {α : Type} {f : Block → α → Block} (hf : ∀ b a, (f b a).dev = b.dev) (l : List α) (b : Block) :
    (forAll l f b).dev = b.dev :=
  forAll_keeps (fun c => c.dev = b.dev) l f b rfl fun c a h => (hf c a).trans h

/-- The slices that an image enables depend on the memories alone. -/
theorem imageMask_congr {b c : Block} (h : b.mem = c.mem) (es : List Entry) : b.imageMask es = c.imageMask es := by
  unfold Block.imageMask Block.staged
  rw [h]

/-- The device as its live units are to be handled. -/
def Dev.liveReady (d : Dev) (units : List Nat) : Dev :=
  (d.fset F.HLD_STATUS_PHASE 0 4).updLd (fun l => { l with step := 6, units := units, unit := none, waitAt := none })

theorem verified_live {b : Block} (h : b.dev.ld.live = true) :
    b.verified = b.on (fun d => d.liveReady (liveUnits (entries b.dev.ld.man))) := if_pos h

theorem verified_boot {b : Block} (h : b.dev.ld.live = false)
    (hc : coverageMissing (entries b.dev.ld.man) (b.imageMask (entries b.dev.ld.man)) = false) :
    b.verified = b.bootApplyStart (b.imageMask (entries b.dev.ld.man)) (fwMask (entries b.dev.ld.man)) := by
  simp only [Block.verified, h, hc, Bool.false_eq_true, if_false]

/-- The device as its boot apply pass has begun. -/
def Dev.bootMarked (d : Dev) (mask fw : Nat) : Dev :=
  let d := (d.fset F.HLD_STATUS_PHASE 0 4).updLd (fun l => { l with
    step := 5, since := d.cycle, done := 0, retained := true, mask := mask, fw := fw, engine := none, unit := none })
  { d with life := { d.life with wide := true, isOpen := true, begun := false, kind := [], ready := [], stopped := [] } }

/-- The device as the slices of the boot apply pass show their states. -/
def Dev.bootShown (d : Dev) (mask : Nat) : Dev :=
  (forAll (List.range 64) (fun d c => d.fset F.CAR_CAL_STATUS_ACTIVE c 0)
    (forAll (List.range 16) (fun d s => d.setSliceSt s (if bit mask s then stStructure else stOff)) d)).setDevSt stStructure

theorem bankInit_dev (b : Block) (s k : Nat) : (b.bankInit s k).dev = b.dev := by
  unfold Block.bankInit
  rfl

theorem bootApplyStart_dev (b : Block) (mask fw : Nat) : ∃ d, (b.bootApplyStart mask fw).dev = (Dev.bootMarked d mask fw).bootShown mask := by
  unfold Block.bootApplyStart
  extract_lets d₀ d₁ b₁ d₂ d₃ start d₅ life marked d₈ d₉ shown
  have hmark : marked = start.bootMarked mask fw := rfl
  have hshown : shown = marked.bootShown mask := rfl
  refine ⟨start, (forAll_dev (fun c s => ?_) _ _).trans (hshown.trans (by rw [hmark]))⟩
  exact (bankInit_dev _ s 1).trans (bankInit_dev c s 0)

/-- The registers that the states of the boot apply pass's slices show in. -/
def bootRegs : List Nat := [R.GLB_SLICE_STATE_LO, R.GLB_SLICE_STATE_HI, R.GLB_STATE, F.CAR_CAL_STATUS_ACTIVE.off]

theorem bootShown_reported (d : Dev) (mask : Nat) : d.Reported bootRegs (d.bootShown mask) := by
  have hslices := Dev.Reported.forAll (.refl bootRegs d) (List.range 16)
    (f := fun d s => d.setSliceSt s (if bit mask s then stStructure else stOff)) fun s _ h => by
      refine h.fset (stateFld s) _ ?_ (Nat.two_pow_pos 20)
      obtain hs | hs := stateFld_off s <;> rw [hs] <;> decide
  refine Dev.Reported.setDevSt (hslices.forAll _ fun c hc h => h.fset _ _ (by decide) ?_) (by decide) _
  have hc : c < 64 := List.mem_range.1 hc
  exact hc.trans (by decide)

theorem bootApplyStart_shows (b : Block) (mask fw : Nat) : (b.bootApplyStart mask fw).dev.ld.step = 5 ∧
    (b.bootApplyStart mask fw).dev.ld.mask = mask ∧ (b.bootApplyStart mask fw).dev.ld.retained = true ∧
    (b.bootApplyStart mask fw).dev.fget F.HLD_STATUS_PHASE = 4 := by
  obtain ⟨d, hd⟩ := bootApplyStart_dev b mask fw
  have h := bootShown_reported (d.bootMarked mask fw) mask
  rw [hd]
  refine ⟨congrArg LoadSt.step h.ld, congrArg LoadSt.mask h.ld, congrArg LoadSt.retained h.ld,
    (h.fget _ (by decide) (Nat.two_pow_pos 20)).trans ?_⟩
  exact Dev.fget_fset d F.HLD_STATUS_PHASE 0 4 (by decide)

/-! The end of the boot apply pass -/

theorem passEnd_good {live : Bool} {since : Nat} {ws : List (Target × Entry)} {f : Option Nat → Dev → Dev} {s : State} {p : Pass}
    (hp : (s.blk.on (fun d => d.toCycle (since + passCycles ws))).runPass ⟨live, s.dev.ld.done, passBytes ws, true⟩ ws = p)
    (hbad : p.bad = none) : passEnd live since ws f s = .next (s.withBlk (p.b.on (f p.fail))) := by
  simp only [passEnd, hp, hbad]

theorem applyFails_reported (d : Dev) (sec : Nat) :
    (((d.fset F.HLD_STATUS_FAIL 0 1).fset F.HLD_STATUS_ERR 0 errApply).fset F.HLD_STATUS_SECTION 0 sec).Reported failRegs
      (d.applyFails sec) :=
  ((Dev.Reported.refl failRegs _).cnt _ _ (by decide) (Nat.two_pow_pos 20)).alarm (by decide) 0 _

/-- A body that fails in the boot apply pass ends the load (R53). -/
theorem bootApplied_fails (d : Dev) (sec : Nat) : (d.bootApplied (some sec)).Ended errApply sec := by
  have h0 : (0 : Nat) < 2 ^ 20 := Nat.two_pow_pos 20
  have h := applyFails_reported ((d.fset F.HLD_STATUS_BUSY 0 0).fset F.HLD_STATUS_PHASE 0 0) sec
  refine ⟨rfl, (h.fget F.HLD_STATUS_BUSY (by decide) h0).trans ?_, (h.fget F.HLD_STATUS_FAIL (by decide) h0).trans ?_,
    (h.fget F.HLD_STATUS_ERR (by decide) h0).trans ?_, (h.fget F.HLD_STATUS_SECTION (by decide) h0).trans ?_⟩ <;>
    simp (disch := decide) only [Dev.fget_fset, Dev.fget_fset_apart, Nat.reducePow, Nat.reduceMod]

/-- The device as HLD_STATUS shows the end of the boot load. -/
def Dev.bootEnded (d : Dev) : Dev :=
  let l := d.ld
  let r := l.slotA.getD (0, noSection)
  let d := ((d.fset F.HLD_STATUS_BUSY 0 0).fset F.HLD_STATUS_PHASE 0 0).updLd (fun l =>
    { l with step := 0, src := 0, byStrap := false, slotA := none })
  (((d.fset F.HLD_STATUS_DONE 0 1).fset F.HLD_STATUS_FAIL 0 0).fset F.HLD_STATUS_ERR 0 r.1).fset F.HLD_STATUS_SECTION 0 r.2

/-- The device as the image's serial and slices are shown too, and the end is reported; the slices have states of their own again. -/
def Dev.bootOpened (d : Dev) : Dev :=
  { ((d.bootEnded.rset R.HLD_IMAGE_SERIAL 0 (wordOf (leAt d.ld.man 20 4))).fset F.HLD_SLICE_EN_EN 0 d.ld.mask).notice F.HLD_STATUS_DONE
    with life.wide := false }

/-- The slices that an image enables. -/
def enabledBy (mask : Nat) : List Nat := (List.range 16).filter (fun s => bit mask s)

theorem bootApplied_ends (d : Dev) : d.bootApplied none = (forAll (enabledBy d.ld.mask) (fun d s => d.leaveStructure s true)
    (forAll (enabledBy d.ld.mask) (fun d s => d.setKind s 1) d.bootOpened)).refresh := rfl

theorem bootEnded_shows (d : Dev) : d.bootEnded.fget F.HLD_STATUS_BUSY = 0 ∧ d.bootEnded.fget F.HLD_STATUS_DONE = 1 ∧
    d.bootEnded.fon F.GLB_CTRL_STRUCT_HOLD = d.fon F.GLB_CTRL_STRUCT_HOLD := by
  have hupd (e : Dev) (f : LoadSt → LoadSt) (g : Fld) : (e.updLd f).fget g 0 = e.fget g 0 := rfl
  unfold Dev.bootEnded Dev.fon
  dsimp only
  refine ⟨?_, ?_, ?_⟩ <;> simp (disch := decide) only [Dev.fget_fset, Dev.fget_fset_apart, hupd, Nat.reducePow, Nat.reduceMod]

theorem bootOpened_shows (d : Dev) : d.bootOpened.ld.step = 0 ∧ d.bootOpened.fget F.HLD_STATUS_BUSY = 0 ∧
    d.bootOpened.fget F.HLD_STATUS_DONE = 1 ∧ d.bootOpened.fget F.HLD_SLICE_EN_EN = d.ld.mask % 2 ^ 16 ∧
    d.bootOpened.fon F.GLB_CTRL_STRUCT_HOLD = d.fon F.GLB_CTRL_STRUCT_HOLD := by
  have h0 : (0 : Nat) < 2 ^ 20 := Nat.two_pow_pos 20
  obtain ⟨hbusy, hdone, hhold⟩ := bootEnded_shows d
  have hserial := ((Dev.Reported.refl [R.HLD_IMAGE_SERIAL, R.HLD_SLICE_EN] d.bootEnded).rset R.HLD_IMAGE_SERIAL
    (wordOf (leAt d.ld.man 20 4)) (by decide) h0).fset F.HLD_SLICE_EN_EN d.ld.mask (by decide) h0
  have hen := Dev.fget_fset (d.bootEnded.rset R.HLD_IMAGE_SERIAL 0 (wordOf (leAt d.ld.man 20 4))) F.HLD_SLICE_EN_EN 0 d.ld.mask (by decide)
  have hstep : d.bootEnded.ld.step = 0 := rfl
  unfold Dev.bootOpened
  generalize (d.bootEnded.rset R.HLD_IMAGE_SERIAL 0 (wordOf (leAt d.ld.man 20 4))).fset F.HLD_SLICE_EN_EN 0 d.ld.mask = e at hserial hen
  have hnote := (Dev.Reported.refl eventRegs e).notice (List.Subset.refl _) F.HLD_STATUS_DONE
  refine ⟨(congrArg LoadSt.step (hnote.ld.trans hserial.ld)).trans hstep,
    (hnote.fget _ (by decide) h0).trans ((hserial.fget _ (by decide) h0).trans hbusy),
    (hnote.fget _ (by decide) h0).trans ((hserial.fget _ (by decide) h0).trans hdone), (hnote.fget _ (by decide) h0).trans hen,
    (hnote.fon _ (by decide) h0).trans ((hserial.fon _ (by decide) h0).trans hhold)⟩

/-- With STRUCT_HOLD on, the slices of a boot load wait in the hold (R53, R68). -/
theorem bootApplied_waits {d : Dev} (hon : d.fon F.GLB_CTRL_STRUCT_HOLD = true) : (d.bootApplied none).ld.step = 0 ∧
    (d.bootApplied none).fget F.HLD_STATUS_BUSY = 0 ∧ (d.bootApplied none).fget F.HLD_STATUS_DONE = 1 ∧
    (d.bootApplied none).fget F.HLD_SLICE_EN_EN = d.ld.mask % 2 ^ 16 ∧ (d.bootApplied none).life.wide = false ∧
    ∀ k, k < 16 → bit d.ld.mask k = true → (d.bootApplied none).sliceSt k = stStructure ∧ (d.bootApplied none).kindOf k = 1 := by
  have h0 : (0 : Nat) < 2 ^ 20 := Nat.two_pow_pos 20
  rw [bootApplied_ends]
  obtain ⟨hstep, hbusy, hdone, hen, hhold⟩ := bootOpened_shows d
  have hwide : d.bootOpened.life.wide = false := rfl
  have hsl (s : Nat) (hs : s ∈ enabledBy d.ld.mask) : s < 16 := List.mem_range.1 (List.mem_filter.1 hs).1
  generalize d.bootOpened = a at hstep hbusy hdone hen hhold hwide
  have hkinds : a.Waiting (forAll (enabledBy d.ld.mask) (fun d s => d.setKind s 1) a) :=
    forAll_related Dev.Waiting.refl Dev.Waiting.trans setKind_waiting _ _
  generalize forAll (enabledBy d.ld.mask) (fun d s => d.setKind s 1) a = b at hkinds
  have honb : b.fon F.GLB_CTRL_STRUCT_HOLD = true := by
    rw [Dev.fon, Dev.fget_of_rget (hkinds.regs _ 0 h0 (by decide)), ← Dev.fon, hhold, hon]
  obtain ⟨hleave, hall⟩ := leaveStructure_waits (enabledBy d.ld.mask) b hsl honb
  generalize forAll (enabledBy d.ld.mask) (fun d s => d.leaveStructure s true) b = c at hleave hall
  have hfresh := (Dev.Releasing.refl c).refresh.waiting
  have h := (hkinds.trans hleave).trans hfresh
  generalize c.refresh = e at hfresh h
  have hreg (f : Fld) (hf : f.off ∉ putRegs) : e.fget f = a.fget f := Dev.fget_of_rget (h.regs _ 0 h0 hf)
  refine ⟨(congrArg LoadSt.step h.ld).trans hstep, (hreg _ (by decide)).trans hbusy, (hreg _ (by decide)).trans hdone,
    (hreg _ (by decide)).trans hen, h.wide.trans hwide, fun k hk hbit => ?_⟩
  obtain ⟨hst, hkind⟩ := hall k (List.mem_filter.2 ⟨List.mem_range.2 hk, hbit⟩)
  exact ⟨hfresh.waits k hk hst, hfresh.kinds k hkind⟩

end Sys2Proof.Machine
end


-- ==== Sys2Proof/Proofs/LiveUnits.lean ====
section
open Sys2Proof Sys2Proof.Machine
namespace Sys2Proof.Machine

/-! Live units (R63, R64) -/

/-- The device with a unit's code, before the unit's bit. -/
def Dev.codeShown (d : Dev) (u code : Nat) : Dev :=
  if u < 16 then d.fset (nibble R.HLD_LIVE_ERR_LO R.HLD_LIVE_ERR_HI u) 0 code
  else d.fset ⟨R.HLD_LIVE_KERR, (u - 16) * 4, 4⟩ 0 code

theorem liveCode_eq (d : Dev) (u code : Nat) : d.liveCode u code =
    (d.codeShown u code).fset ⟨if code = 0 then R.HLD_LIVE_DONE else R.HLD_LIVE_REFUSED, u, 1⟩ 0 1 := rfl

@[simp] theorem liveCode_ld (d : Dev) (u code : Nat) : (d.liveCode u code).ld = d.ld := by
  rw [liveCode_eq, fset_ld, Dev.codeShown]
  split <;> rfl

theorem liveCode_done (d : Dev) {u : Nat} (hu : u < 24) : (d.liveCode u 0).fget ⟨R.HLD_LIVE_DONE, u, 1⟩ = 1 :=
  Dev.fget_fset (d.codeShown u 0) ⟨R.HLD_LIVE_DONE, u, 1⟩ 0 1 (by simp only; omega)

theorem liveCode_refused (d : Dev) {u code : Nat} (hu : u < 24) (hc : code ≠ 0) :
    (d.liveCode u code).fget ⟨R.HLD_LIVE_REFUSED, u, 1⟩ = 1 := by
  rw [liveCode_eq, if_neg hc]
  exact Dev.fget_fset (d.codeShown u code) ⟨R.HLD_LIVE_REFUSED, u, 1⟩ 0 1 (by simp only; omega)

theorem liveCode_code (d : Dev) {u code : Nat} (hu : u < 16) (hc : code ≠ 0) (hlt : code < 16) :
    (d.liveCode u code).fget (nibble R.HLD_LIVE_ERR_LO R.HLD_LIVE_ERR_HI u) = code := by
  have hoff : (nibble R.HLD_LIVE_ERR_LO R.HLD_LIVE_ERR_HI u).off ≠ R.HLD_LIVE_REFUSED := by
    show (if u < 8 then R.HLD_LIVE_ERR_LO else R.HLD_LIVE_ERR_HI) ≠ R.HLD_LIVE_REFUSED
    split <;> decide
  have hfits : (nibble R.HLD_LIVE_ERR_LO R.HLD_LIVE_ERR_HI u).lo + (nibble R.HLD_LIVE_ERR_LO R.HLD_LIVE_ERR_HI u).w ≤ 32 := by
    show u % 8 * 4 + 4 ≤ 32
    omega
  rw [liveCode_eq, if_neg hc, Dev.codeShown, if_pos hu]
  refine (Dev.fget_of_rget (Dev.rget_fset_other _ _ (Nat.two_pow_pos 20) (Nat.two_pow_pos 20) (.inl hoff))).trans ?_
  exact (Dev.fget_fset d _ 0 code hfits).trans (Nat.mod_eq_of_lt hlt)

/-! The end of a live load (R63) -/

/-- While units are left, the load goes on. -/
theorem liveFinish_waits {d : Dev} (h : d.ld.units ≠ []) : d.liveFinish = d := by
  unfold Dev.liveFinish
  rw [if_pos (.inr (.inr (by simpa using h)))]

/-- The registers that the end of a live load reports in. -/
def finishRegs : List Nat := [R.HLD_STATUS, R.HDM_EVT_SEQ, R.HDM_EVT_DROP]

theorem liveFinish_keeps (d : Dev) : d.liveFinish.ld.unit = d.ld.unit ∧
    ∀ off, off ∉ finishRegs → d.liveFinish.rget off = d.rget off := by
  have h0 : (0 : Nat) < 2 ^ 20 := Nat.two_pow_pos 20
  unfold Dev.liveFinish
  split
  · exact ⟨rfl, fun _ _ => rfl⟩
  · extract_lets l e f
    have h := ((((((Dev.Reported.refl finishRegs e).fset F.HLD_STATUS_BUSY 0 (by decide) h0).fset F.HLD_STATUS_DONE 1 (by decide) h0).fset
      F.HLD_STATUS_PHASE 0 (by decide) h0).fset F.HLD_STATUS_FAIL 0 (by decide) h0).fset F.HLD_STATUS_ERR 0 (by decide) h0).fset
      F.HLD_STATUS_SECTION 0xFFFF (by decide) h0
    have hnote := h.notice (by decide) F.HLD_STATUS_DONE
    exact ⟨(congrArg LoadSt.unit hnote.ld :), fun off ho => (hnote.regs off 0 h0 ho).trans (Dev.rget_congr rfl off 0)⟩

/-! A unit that is tested (Table 02-10) -/

section
variable {b : Block} {k : Nat} {rest : List Nat} (hstep : b.dev.ld.step = 6) (hunit : b.dev.ld.unit = none)
  (hengine : b.dev.ld.engine = none) (hready : b.dev.life.ready = []) (hunits : b.dev.ld.units = k :: rest)
include hstep hunit hengine hready hunits

theorem liveUnitPrecheck_tests : liveUnitPrecheck b =
    if b.dev.unitCode (b.newCarve k) b.queued k = 0 then b.on (fun d => d.unitEnters (b.newCarve k) k)
    else if b.dev.unitCode (b.newCarve k) b.queued k = 2 then
      b.on (fun d => d.updLd (fun l => { l with waitAt := some (l.waitAt.getD d.cycle) }))
    else b.on (fun d => d.unitRefused k (b.dev.unitCode (b.newCarve k) b.queued k)) := by
  simp only [liveUnitPrecheck, hstep, hunit, hengine, hready, hunits, ne_eq, not_true_eq_false, Option.isSome_none, List.isEmpty_nil,
    Bool.not_true, Bool.false_eq_true, or_self, if_false, List.head?_cons]

end

theorem unitEnters_ld (d n : Dev) (u : Nat) : (d.unitEnters n u).ld =
    { d.ld with units := d.ld.units.drop 1, unit := some u, unitAt := d.cycle, done := 0, waitAt := none } := by
  unfold Dev.unitEnters
  extract_lets e f
  split
  · refine (forAll_ld (fun d p => carveStop_ld d p) _ _).trans ((epochDrained_ld _ _).trans ((putSlice_ld _ _ _ _).trans rfl))
  · rfl

/-- A unit that is refused while others are left. -/
theorem unitRefused_eq {d : Dev} {u code k : Nat} {rest : List Nat} (hunits : d.ld.units = k :: rest) (hrest : rest ≠ []) :
    d.unitRefused u code = (d.liveCode u code).updLd (fun l => { l with units := l.units.drop 1, waitAt := none }) := by
  refine liveFinish_waits ?_
  show (d.liveCode u code).ld.units.drop 1 ≠ []
  rw [liveCode_ld, hunits]
  exact hrest

theorem unitRefused_shows {d : Dev} {u code k : Nat} {rest : List Nat} (hunits : d.ld.units = k :: rest) (hrest : rest ≠ [])
    (hu : u < 24) (hc : code ≠ 0) : (d.unitRefused u code).ld.units = rest ∧
    (d.unitRefused u code).fget ⟨R.HLD_LIVE_REFUSED, u, 1⟩ = 1 := by
  rw [unitRefused_eq hunits hrest]
  refine ⟨?_, liveCode_refused d hu hc⟩
  show (d.liveCode u code).ld.units.drop 1 = rest
  rw [liveCode_ld, hunits]
  rfl

/-- The wait of HLD_LIVE_WAIT has ended with the epoch still draining. -/
theorem liveEpochWaitExpiry_refuses {d : Dev} {t k : Nat} {rest : List Nat} (hwait : d.ld.waitAt = some t)
    (hunits : d.ld.units = k :: rest) (hk : k < 16) (hrest : rest ≠ []) (hbusy : d.epochBusy k = true) :
    (liveEpochWaitExpiry d).ld.units = rest ∧ t + 3000 * d.fget F.HLD_LIVE_WAIT_WAIT_US ≤ (liveEpochWaitExpiry d).cycle ∧
    (liveEpochWaitExpiry d).fget ⟨R.HLD_LIVE_REFUSED, k, 1⟩ = 1 ∧
    (liveEpochWaitExpiry d).fget (nibble R.HLD_LIVE_ERR_LO R.HLD_LIVE_ERR_HI k) = 2 := by
  have hns : t + 3000 * d.fget F.HLD_LIVE_WAIT_WAIT_US = t + cyclesOfNs (d.fget F.HLD_LIVE_WAIT_WAIT_US * 1000) := by
    rw [cyclesOfNs]
    omega
  obtain ⟨lim, hlim⟩ : ∃ lim, t + cyclesOfNs (d.fget F.HLD_LIVE_WAIT_WAIT_US * 1000) = lim := ⟨_, rfl⟩
  have heq : liveEpochWaitExpiry d = (d.toCycle lim).unitRefused k 2 := by
    have hlate : (d.toCycle lim).epochBusy k = true := hbusy
    simp only [liveEpochWaitExpiry, hwait, hunits, List.head?_cons, hlim, hlate, if_true]
  have hlate := le_cycle_toCycle d lim
  have hunits' : (d.toCycle lim).ld.units = k :: rest := hunits
  rw [hns, hlim, heq]
  generalize d.toCycle lim = e at hlate hunits'
  obtain ⟨hleft, hrefused⟩ := unitRefused_shows (u := k) (code := 2) hunits' hrest (by omega) (by decide)
  refine ⟨hleft, hlate.trans ?_, hrefused, ?_⟩
  · rw [unitRefused_eq hunits' hrest, liveCode_eq, Dev.codeShown, if_pos hk]
    exact Nat.le_refl e.cycle
  · rw [unitRefused_eq hunits' hrest]
    exact liveCode_code e hk (by decide) (by decide)

/-- The device as a unit whose sections are applied serves again. -/
def Dev.unitServes (d : Dev) (u : Nat) : Dev :=
  let d := d.updLd (fun l => { l with unit := none })
  if u < 16 then forAll ((slicePorts u).filter (fun p => (d.pt p).gateArmed)) (fun (d : Dev) p => d.gatePend p) (d.putSlice u stService 0)
  else d

theorem unitApplied_eq (d : Dev) (u : Nat) : d.unitApplied u none = ((d.unitServes u).liveCode u 0).liveFinish := rfl

theorem unitServes_unit (d : Dev) (u : Nat) : (d.unitServes u).ld.unit = none := by
  unfold Dev.unitServes
  extract_lets e
  split
  · exact congrArg LoadSt.unit ((forAll_ld (fun d p => gatePend_ld d p) _ _).trans (putSlice_ld e u stService 0))
  · rfl

/-- A unit whose sections are applied is done. -/
theorem unitApplied_done (d : Dev) {u : Nat} (hu : u < 24) : (d.unitApplied u none).ld.unit = none ∧
    (d.unitApplied u none).fget ⟨R.HLD_LIVE_DONE, u, 1⟩ = 1 := by
  rw [unitApplied_eq]
  obtain ⟨hunit, hregs⟩ := liveFinish_keeps ((d.unitServes u).liveCode u 0)
  refine ⟨hunit.trans ((congrArg LoadSt.unit (liveCode_ld _ u 0)).trans (unitServes_unit d u)), ?_⟩
  exact (Dev.fget_of_rget (hregs R.HLD_LIVE_DONE (by decide))).trans (liveCode_done _ hu)

end Sys2Proof.Machine
end


-- ==== Sys2Proof/Proofs/ImageLoads.lean ====
section
open Sys2Proof Sys2Proof.Machine
namespace Sys2Proof.Machine

/-! The phases of a load, put together (R52 to R68). -/

theorem gives_event {c : Instr} {s : State} {f : Dev → Dev} {d : Dev} {p : State → Prop} (hc : exec c s = event f s)
    (hrun : s.dev.running = true) (hd : f s.dev = d) (hp : p { s with dev := d }) : Gives c s p := by
  subst hd
  exact ⟨_, hc.trans (event_running f hrun), rfl, hp⟩

theorem gives_eventBlk {c : Instr} {s : State} {f : Block → Block} {b : Block} {p : State → Prop} (hc : exec c s = eventBlk f s)
    (hrun : s.dev.running = true) (hb : f s.blk = b) (hp : p (s.withBlk b)) : Gives c s p := by
  subst hb
  exact ⟨_, hc.trans (eventBlk_running f hrun), rfl, hp⟩

/-- The end of a pass over bodies that holds no unpredictable record. -/
theorem gives_passEnd {c : Instr} {s : State} {live : Bool} {since : Nat} {ws : List (Target × Entry)} {f : Option Nat → Dev → Dev}
    {q : State → Prop} {p : Pass} {fail : Option Nat} (hc : exec c s = passEnd live since ws f s)
    (hp : (s.blk.on (fun d => d.toCycle (since + passCycles ws))).runPass ⟨live, s.dev.ld.done, passBytes ws, true⟩ ws = p)
    (hbad : p.bad = none) (hfail : p.fail = fail) (hq : ∀ u, u.mem = p.b.mem → u.dev = f fail p.b.dev → q u) :
    Gives c s q := by
  subst hfail
  exact ⟨_, hc.trans (passEnd_good hp hbad), rfl, hq _ rfl rfl⟩

theorem applyPassEnd_eq {s : State} (h : s.dev.ld.step = 5) : applyPassEnd s =
    passEnd false s.dev.ld.since (bootWork (applyOrder (entries s.dev.ld.man))) (fun fail d => d.bootApplied fail) s :=
  if_neg (not_not_intro h)

theorem liveUnitApplyEnd_eq {s : State} {k : Nat} (h : s.dev.ld.unit = some k) : liveUnitApplyEnd s =
    passEnd true s.dev.ld.unitAt (s.dev.unitWork k) (fun fail d => d.unitApplied k fail) s := by
  simp only [liveUnitApplyEnd, h]

/-- A verified image's body is the last one staged: a live image's units are to be handled. -/
theorem lastBody_live {b : Block} {e : Entry} {body : List Byte} (hlive : b.dev.ld.live = true) :
    ∃ c, (b.bodyPassed e body).verified = c ∧ c.mem = b.mem.write .dram (stageBase true + e.off) body ∧ c.dev.ld.step = 6 ∧
      c.dev.ld.units = liveUnits (entries b.dev.ld.man) ∧ c.dev.fget F.HLD_STATUS_PHASE = 4 := by
  have hld := bodyPassed_ld b e body
  have hmem := bodyPassed_mem b e body
  rw [hlive] at hmem
  have hman : (b.bodyPassed e body).dev.ld.man = b.dev.ld.man := (congrArg LoadSt.man hld :)
  have hstill : (b.bodyPassed e body).dev.ld.live = true := (congrArg LoadSt.live hld).trans hlive
  generalize b.bodyPassed e body = c at hmem hman hstill
  exact ⟨_, verified_live hstill, hmem, rfl, congrArg (fun m => liveUnits (entries m)) hman,
    Dev.fget_fset c.dev F.HLD_STATUS_PHASE 0 4 (by decide)⟩

/-- The last body of a boot image that covers its slices is staged: the boot apply pass starts. -/
theorem lastBody_boot {b : Block} {e : Entry} {body : List Byte} (hlive : b.dev.ld.live = false) {mask : Nat}
    (hmask : Block.imageMask ⟨b.dev, b.mem.write .dram (stageBase false + e.off) body⟩ (entries b.dev.ld.man) = mask)
    (hcov : coverageMissing (entries b.dev.ld.man) mask = false) :
    (b.bodyPassed e body).verified.dev.ld.step = 5 ∧ (b.bodyPassed e body).verified.dev.ld.mask = mask ∧
    (b.bodyPassed e body).verified.dev.ld.retained = true ∧ (b.bodyPassed e body).verified.dev.fget F.HLD_STATUS_PHASE = 4 := by
  have hld := bodyPassed_ld b e body
  have hmem := bodyPassed_mem b e body
  have hman : (b.bodyPassed e body).dev.ld.man = b.dev.ld.man := (congrArg LoadSt.man hld :)
  rw [hlive] at hmem
  have hsame : (b.bodyPassed e body).imageMask (entries (b.bodyPassed e body).dev.ld.man) = mask := by
    rw [hman]
    exact (imageMask_congr hmem _).trans hmask
  rw [verified_boot ((congrArg LoadSt.live hld).trans hlive) (by rw [hsame, hman]; exact hcov), hsame]
  exact bootApplyStart_shows _ _ _

/-- Settles O19: each command has its equation for the case at hand, and what it comes to shows the outcome. -/
theorem imageVerificationAndApply : Obligations.image_verification_and_apply := by
  unfold Obligations.image_verification_and_apply
  intro s hrun
  refine ⟨fun data h ok hstep hf => ⟨fun hok he => ?_, fun hsrc hok he => ?_, fun hsrc hok => ?_⟩, fun data r hstep hf hform => ?_,
    fun hstep => ⟨fun hsrc hsig => ?_, fun hsig htab => ?_⟩, fun data body e hstep hsrc hent hf hdg => ?_,
    fun data body e hstep hent hf hdg hrec => ⟨fun hnext => ?_, fun hlast hlive => ?_, fun hlast hlive hcov => ?_⟩,
    fun hstep hbad => ⟨fun sec hfail => ?_, fun hfail hon => ?_⟩,
    fun hstep hunit hengine hready k rest hunits hk => ⟨fun hc => ?_, fun hc => ?_, fun hc hc2 hrest => ?_⟩,
    fun t k rest hstep hunit hwait hunits hk hrest hbusy => ?_, fun k hunit hk hbad hfail => ?_⟩
  · subst hok
    exact gives_event rfl hrun rfl ⟨rfl, headerFetchDone_good hstep hf he⟩
  · subst hok
    exact gives_event rfl hrun ((headerFetchDone_read hstep hf).trans (if_pos he)) ⟨rfl, loadFail_ended hsrc _ _⟩
  · subst hok
    exact gives_event rfl hrun (headerFetchDone_refused hstep hf) ⟨rfl, loadFail_ended hsrc _ _⟩
  · exact gives_event rfl hrun (manifestFetchDone_good hstep hf hform) ⟨rfl, manifestRead_shows s.dev r⟩
  · exact gives_eventBlk rfl hrun (signatureCheckDone_bad (b := s.blk) hstep hsig) ⟨rfl, loadFail_ended hsrc _ _⟩
  · exact gives_eventBlk rfl hrun (signatureCheckDone_good (b := s.blk) hstep hsig htab)
      ⟨State.storedAt_write s _ .dram _ _ rfl, manifestHeld_shows s.dev⟩
  · have hheld : (s.blk.bodyHeld e body).dev.ld.src ≠ 1 := by
      rw [bodyHeld_ld]
      exact hsrc
    exact gives_eventBlk rfl hrun (bodyStaged_bad (b := s.blk) hstep hent hf hdg) (loadFail_ended hheld _ _)
  · exact gives_eventBlk rfl hrun (bodyStaged_next (b := s.blk) hstep hent hf hdg hrec hnext)
      ⟨State.storedAt_write s _ .dram _ _ (bodyPassed_mem s.blk e body),
        ((askBody_asideHost _).same (·.ld) (fun _ _ => rfl)).trans (bodyPassed_ld s.blk e body)⟩
  · obtain ⟨c, hc, hmem, hshows⟩ := lastBody_live (b := s.blk) (e := e) (body := body) hlive
    exact gives_eventBlk rfl hrun ((bodyStaged_last (b := s.blk) hstep hent hf hdg hrec hlast).trans hc)
      ⟨State.storedAt_write s c .dram _ _ hmem, hshows⟩
  · exact gives_eventBlk rfl hrun (bodyStaged_last (b := s.blk) hstep hent hf hdg hrec hlast) (lastBody_boot (b := s.blk) hlive rfl hcov)
  · refine gives_passEnd (applyPassEnd_eq hstep) rfl hbad hfail fun u hmem hdev => ⟨hmem, ?_⟩
    have hended : u.dev.Ended errApply sec := hdev ▸ bootApplied_fails _ sec
    exact hended
  · exact gives_passEnd (applyPassEnd_eq hstep) rfl hbad hfail fun u hmem hdev => ⟨hmem, hdev ▸ bootApplied_waits hon⟩
  · refine gives_eventBlk rfl hrun ((liveUnitPrecheck_tests (b := s.blk) hstep hunit hengine hready hunits).trans (if_pos hc)) ⟨rfl, ?_⟩
    have hld := unitEnters_ld s.dev (s.blk.newCarve k) k
    exact ⟨congrArg LoadSt.unit hld, (congrArg LoadSt.units hld).trans (congrArg (List.drop 1) hunits)⟩
  · have hc0 : s.dev.unitCode (s.blk.newCarve k) s.blk.queued k ≠ 0 := fun h => absurd (h.symm.trans hc) (by decide)
    exact gives_eventBlk rfl hrun ((liveUnitPrecheck_tests (b := s.blk) hstep hunit hengine hready hunits).trans
      ((if_neg hc0).trans (if_pos hc))) ⟨rfl, rfl, rfl⟩
  · exact gives_eventBlk rfl hrun ((liveUnitPrecheck_tests (b := s.blk) hstep hunit hengine hready hunits).trans
      ((if_neg hc).trans (if_neg hc2))) ⟨rfl, unitRefused_shows hunits hrest hk hc⟩
  · exact gives_event rfl hrun rfl ⟨rfl, liveEpochWaitExpiry_refuses hwait hunits hk hrest hbusy⟩
  · exact gives_passEnd (liveUnitApplyEnd_eq hunit) rfl hbad hfail fun u hmem hdev => ⟨hmem, hdev ▸ unitApplied_done _ hk⟩

end Sys2Proof.Machine
end


-- ==== Sys2Proof/Proofs/Temperatures.lean ====
section
open Sys2Proof Sys2Proof.Machine
namespace Sys2Proof.Machine

/-! Temperature readings and the marks of hot stacks (R319, R434, R437, R438) -/

/-- Elements' fields that are set in turn read as set. -/
theorem fget_forAll_fset (f : Fld) (hf : f.lo + f.w ≤ 32) (v : Nat → Nat) (d : Dev) {n j : Nat} (hn : n ≤ 2 ^ 20) (hj : j < n) :
    (forAll (List.range n) (fun d k => d.fset f k (v k)) d).fget f j = v j % 2 ^ f.w := by
  unfold forAll
  induction n with
  | zero => omega
  | succ n ih =>
    rw [List.range_succ, List.foldl_append]
    by_cases h : j = n
    · rw [h]
      exact Dev.fget_fset _ _ _ _ hf
    · exact (Dev.fget_of_rget (Dev.rget_fset_other _ _ (by omega) (by omega) (.inr h))).trans (ih (by omega) (by omega))

/-- A field beside elements' fields that are set reads as before. -/
theorem fget_forAll_fset_beside (f g : Fld) (hf : f.lo + f.w ≤ 32) (ho : g.off = f.off) (h : g.lo + g.w ≤ f.lo ∨ f.lo + f.w ≤ g.lo)
    (v : Nat → Nat) (d : Dev) {n j : Nat} (hn : n ≤ 2 ^ 20) (hj : j < 2 ^ 20) :
    (forAll (List.range n) (fun d k => d.fset f k (v k)) d).fget g j = d.fget g j := by
  unfold forAll
  induction n with
  | zero => rfl
  | succ n ih =>
    rw [List.range_succ, List.foldl_append]
    refine (Dev.fget_fset_apart _ _ _ hf ?_).trans (ih (by omega))
    by_cases hjn : j = n
    · exact .inr ⟨ho, hjn, h⟩
    · exact .inl (regKey_ne (by omega) hj (.inr hjn))

/-- Fields of elements that are set leave every other register. -/
theorem forAll_fset_reported (f : Fld) (v : Nat → Nat) (d : Dev) {n : Nat} (hn : n ≤ 2 ^ 20) :
    d.Reported [f.off] (forAll (List.range n) (fun d k => d.fset f k (v k)) d) :=
  Dev.Reported.forAll (.refl _ d) _ fun _ hk h =>
    h.fset f _ (List.mem_singleton.2 rfl) (Nat.lt_of_lt_of_le (List.mem_range.1 hk) hn)

/-- The registers that show hot stacks. -/
def hotRegs : List Nat := [R.SDC_STACK_STATUS, R.GLB_TEMP_STATUS]

/-- The stacks' own marks, before the device's. -/
def Dev.stacksHot (d : Dev) : Dev :=
  forAll (List.range 4) (fun n k => n.fset F.SDC_STACK_STATUS_HOT k (b2n (d.fon F.SDC_CFG_TEMP_REFRESH &&
    decide (85 < d.fget F.SDC_STACK_STATUS_TEMP k)))) d

theorem showHot_eq (d : Dev) : d.showHot = d.stacksHot.fset F.GLB_TEMP_STATUS_STACK_HOT 0
    (b2n ((List.range 4).any (fun k => decide (85 < d.fget F.SDC_STACK_STATUS_TEMP k)))) := rfl

theorem showHot_reported (d : Dev) : d.Reported hotRegs d.showHot := by
  refine Dev.Reported.fset (Dev.Reported.forAll (.refl _ d) _ fun k hk h => ?_) _ _ (by decide) (Nat.two_pow_pos 20)
  have hk : k < 4 := List.mem_range.1 hk
  exact h.fset F.SDC_STACK_STATUS_HOT _ (by decide) (by omega)

theorem b2n_lt (b : Bool) : b2n b < 2 ^ 1 := by cases b <;> decide

theorem showHot_stackHot (d : Dev) : d.showHot.fget F.GLB_TEMP_STATUS_STACK_HOT =
    b2n ((List.range 4).any (fun k => decide (85 < d.fget F.SDC_STACK_STATUS_TEMP k))) := by
  rw [showHot_eq, Dev.fget_fset _ _ _ _ (by decide)]
  exact Nat.mod_eq_of_lt (b2n_lt _)

theorem showHot_warn (d : Dev) : d.showHot.fget F.GLB_TEMP_STATUS_WARN = d.fget F.GLB_TEMP_STATUS_WARN := by
  rw [showHot_eq]
  refine (Dev.fget_fset_apart _ _ _ (by decide) (by decide)).trans ?_
  exact (forAll_fset_reported F.SDC_STACK_STATUS_HOT _ d (by decide)).fget _ (by decide) (Nat.two_pow_pos 20)

section
variable {k : Nat} (hk : k < 4)
include hk

/-- The device's mark leaves the stacks' registers. -/
theorem showHot_stack (d : Dev) (f : Fld) (hf : f.off = R.SDC_STACK_STATUS) : d.showHot.fget f k = d.stacksHot.fget f k := by
  rw [showHot_eq]
  refine Dev.fget_fset_ne _ _ _ (regKey_ne (Nat.two_pow_pos 20) (by omega) (.inl ?_))
  rw [hf]
  decide

theorem showHot_temp (d : Dev) : d.showHot.fget F.SDC_STACK_STATUS_TEMP k = d.fget F.SDC_STACK_STATUS_TEMP k :=
  (showHot_stack hk d _ rfl).trans
    (fget_forAll_fset_beside F.SDC_STACK_STATUS_HOT F.SDC_STACK_STATUS_TEMP (by decide) rfl (by decide) _ d (n := 4) (by decide)
      (by omega))

theorem showHot_hot (d : Dev) : d.showHot.fget F.SDC_STACK_STATUS_HOT k =
    b2n (d.fon F.SDC_CFG_TEMP_REFRESH && decide (85 < d.fget F.SDC_STACK_STATUS_TEMP k)) := by
  refine (showHot_stack hk d _ rfl).trans ((fget_forAll_fset F.SDC_STACK_STATUS_HOT (by decide) _ d (by decide) hk).trans ?_)
  exact Nat.mod_eq_of_lt (b2n_lt _)

end

/-! A sensors' update -/

/-- The device as the clock reaches the update's cycle. -/
def Dev.sensed (d : Dev) (lim : Nat) : Dev := { d.toCycle lim with life.tempAt := (d.toCycle lim).cycle }

theorem sensed_shows (d : Dev) (lim : Nat) : lim ≤ (d.sensed lim).cycle ∧ (d.sensed lim).running = d.running ∧
    (d.sensed lim).regs = d.regs := ⟨le_cycle_toCycle d lim, rfl, rfl⟩

/-- The registers of the slices' readings. -/
def sliceTemps : List Nat := (List.range 4).map (fun n => R.GLB_TEMP_SLICE + 4 * n)

/-- The slices' readings shown. -/
def Dev.slicesShown (d : Dev) (sl : List Byte) : Dev :=
  forAll (List.range 4) (fun d n => d.rset (R.GLB_TEMP_SLICE + 4 * n) 0 (BitVec.ofNat 32 (leNat ((sl.drop (4 * n)).take 4)))) d

/-- The stacks' readings shown. -/
def Dev.dramsShown (d : Dev) (st : List Byte) : Dev :=
  forAll (List.range 4) (fun d k => d.fset F.SDC_STACK_STATUS_TEMP k (st.getD k 0).toNat) d

/-- The largest readings and the peak shown. -/
def Dev.maxShown (d : Dev) (c m : Nat) : Dev :=
  let d := (d.fset F.GLB_TEMP_MAX_DIE_C 0 c).fset F.GLB_TEMP_MAX_STACK_C 0 m
  d.fset F.GLB_TEMP_MAX_PEAK_C 0 (max c (d.fget F.GLB_TEMP_MAX_PEAK_C))

/-- The warning follows the die's reading while the device runs. -/
def Dev.warned (d : Dev) (c : Nat) : Dev :=
  if !d.running then d
  else if d.fon F.GLB_TEMP_STATUS_WARN then
    if c < d.fget F.GLB_TEMP_WARN_CLEAR_C then d.fset F.GLB_TEMP_STATUS_WARN 0 0 else d
  else if d.fget F.GLB_TEMP_WARN_SET_C ≤ c then
    (d.fset F.GLB_TEMP_STATUS_WARN 0 1).alarm 11 F.GLB_TEMP_STATUS_WARN
  else d

theorem tempSensorUpdate_eq {d : Dev} (hp : d.life.power = true) {sl st : List Byte} (hsl : sl.length = 16) (hst : st.length = 4) :
    tempSensorUpdate sl st d =
      ((((d.sensed (d.life.tempAt + 300000)).slicesShown sl).dramsShown st).maxShown (maxByte sl) (maxByte st)).showHot.warned (maxByte sl) := by
  have hs : (sl ++ List.replicate 16 0).take 16 = sl := List.take_left' hsl
  have hd : (st ++ List.replicate 4 0).take 4 = st := List.take_left' hst
  simp only [tempSensorUpdate, hp, hs, hd, Bool.not_true, Bool.false_eq_true, if_false]
  rfl

theorem maxByte_lt (l : List Byte) : maxByte l < 256 :=
  List.foldlRecOn (motive := fun m => m < 256) l _ (by decide) fun _ hm b _ => max_lt hm b.isLt

theorem slicesShown_reported (d : Dev) (sl : List Byte) : d.Reported sliceTemps (d.slicesShown sl) :=
  Dev.Reported.forAll (.refl _ d) _ fun _ hk h => h.rset _ _ (List.mem_map_of_mem hk) (Nat.two_pow_pos 20)

theorem dramsShown_reported (d : Dev) (st : List Byte) : d.Reported [R.SDC_STACK_STATUS] (d.dramsShown st) :=
  forAll_fset_reported F.SDC_STACK_STATUS_TEMP _ d (by decide)

theorem maxShown_reported (d : Dev) (c m : Nat) : d.Reported [R.GLB_TEMP_MAX] (d.maxShown c m) := by
  have h0 : (0 : Nat) < 2 ^ 20 := Nat.two_pow_pos 20
  exact (((Dev.Reported.refl _ d).fset _ _ (by decide) h0).fset _ _ (by decide) h0).fset _ _ (by decide) h0

/-- Fields of one register that are set beside each other. -/
theorem maxShown_fields (d : Dev) {c m : Nat} (hc : c < 256) (hm : m < 256) : (d.maxShown c m).fget F.GLB_TEMP_MAX_DIE_C = c ∧
    (d.maxShown c m).fget F.GLB_TEMP_MAX_STACK_C = m ∧
    (d.maxShown c m).fget F.GLB_TEMP_MAX_PEAK_C = max c (d.fget F.GLB_TEMP_MAX_PEAK_C) := by
  have hpeak : d.fget F.GLB_TEMP_MAX_PEAK_C < 256 := d.fget_lt F.GLB_TEMP_MAX_PEAK_C 0
  have hold : ((d.fset F.GLB_TEMP_MAX_DIE_C 0 c).fset F.GLB_TEMP_MAX_STACK_C 0 m).fget F.GLB_TEMP_MAX_PEAK_C =
      d.fget F.GLB_TEMP_MAX_PEAK_C :=
    (Dev.fget_fset_apart _ _ _ (by decide) (by decide)).trans (Dev.fget_fset_apart _ _ _ (by decide) (by decide))
  refine ⟨(Dev.fget_fset_apart _ _ _ (by decide) (by decide)).trans ((Dev.fget_fset_apart _ _ _ (by decide) (by decide)).trans ?_),
    (Dev.fget_fset_apart _ _ _ (by decide) (by decide)).trans ?_, ?_⟩
  · exact (Dev.fget_fset _ _ _ _ (by decide)).trans (Nat.mod_eq_of_lt hc)
  · exact (Dev.fget_fset _ _ _ _ (by decide)).trans (Nat.mod_eq_of_lt hm)
  · refine (Dev.fget_fset _ _ _ _ (by decide)).trans ((Nat.mod_eq_of_lt ?_).trans (congrArg (max c) hold))
    rw [hold]
    exact max_lt hc hpeak

theorem warned_reported (d : Dev) (c : Nat) : d.Reported (R.GLB_TEMP_STATUS :: alarmRegs) (d.warned c) := by
  have hset (v : Nat) := (Dev.Reported.refl (R.GLB_TEMP_STATUS :: alarmRegs) d).fset F.GLB_TEMP_STATUS_WARN v (by decide)
    (Nat.two_pow_pos 20)
  unfold Dev.warned
  split
  · exact .refl _ d
  · split
    · split
      · exact hset 0
      · exact .refl _ d
    · split
      · exact (hset 1).alarm (List.subset_cons_self _ _) 11 _
      · exact .refl _ d

/-- The alarm of a warning leaves the status register. -/
theorem rget_status_alarm (d : Dev) : (d.alarm 11 F.GLB_TEMP_STATUS_WARN).rget R.GLB_TEMP_STATUS = d.rget R.GLB_TEMP_STATUS :=
  ((Dev.Reported.refl alarmRegs d).alarm (List.Subset.refl _) 11 _).regs _ _ (Nat.two_pow_pos 20) (by decide)

theorem warned_stackHot (d : Dev) (c : Nat) : (d.warned c).fget F.GLB_TEMP_STATUS_STACK_HOT = d.fget F.GLB_TEMP_STATUS_STACK_HOT := by
  have hset (v : Nat) : (d.fset F.GLB_TEMP_STATUS_WARN 0 v).fget F.GLB_TEMP_STATUS_STACK_HOT = d.fget F.GLB_TEMP_STATUS_STACK_HOT :=
    Dev.fget_fset_apart _ _ _ (by decide) (by decide)
  unfold Dev.warned
  split
  · rfl
  · split
    · split
      · exact hset 0
      · rfl
    · split
      · exact (Dev.fget_of_rget (rget_status_alarm _)).trans (hset 1)
      · rfl

theorem warned_clears {d : Dev} (c : Nat) (hrun : d.running = true) (hw : d.fon F.GLB_TEMP_STATUS_WARN = true) :
    (d.warned c).fget F.GLB_TEMP_STATUS_WARN = if c < d.fget F.GLB_TEMP_WARN_CLEAR_C then 0 else 1 := by
  have hone : d.fget F.GLB_TEMP_STATUS_WARN = 1 := by
    have hlt : d.fget F.GLB_TEMP_STATUS_WARN < 2 := d.fget_lt F.GLB_TEMP_STATUS_WARN 0
    simp only [Dev.fon, bne_iff_ne] at hw
    omega
  simp only [Dev.warned, hrun, hw, Bool.not_true, Bool.false_eq_true, if_false, if_true]
  split
  · exact Dev.fget_fset _ _ _ _ (by decide)
  · exact hone

theorem warned_sets {d : Dev} (c : Nat) (hrun : d.running = true) (hw : d.fon F.GLB_TEMP_STATUS_WARN = false) :
    (d.warned c).fget F.GLB_TEMP_STATUS_WARN = if d.fget F.GLB_TEMP_WARN_SET_C ≤ c then 1 else 0 := by
  simp only [Dev.warned, hrun, hw, Bool.not_true, Bool.false_eq_true, if_false]
  split
  · exact (Dev.fget_of_rget (rget_status_alarm _)).trans (Dev.fget_fset _ _ _ _ (by decide))
  · simpa only [Dev.fon, bne_eq_false_iff_eq] using hw

/-- What the readings' registers and fields are once shown. -/
structure Dev.ShowsReadings (d e : Dev) (sl st : List Byte) : Prop where
  slices : ∀ n, n < 4 → e.rget (R.GLB_TEMP_SLICE + 4 * n) = BitVec.ofNat 32 (leNat ((sl.drop (4 * n)).take 4))
  drams : ∀ k, k < 4 → e.fget F.SDC_STACK_STATUS_TEMP k = (st.getD k 0).toNat
  die : e.fget F.GLB_TEMP_MAX_DIE_C = maxByte sl
  stack : e.fget F.GLB_TEMP_MAX_STACK_C = maxByte st
  peak : e.fget F.GLB_TEMP_MAX_PEAK_C = max (maxByte sl) (d.fget F.GLB_TEMP_MAX_PEAK_C)

/-- Readings shown count their peak from any device with the same one. -/
theorem Dev.ShowsReadings.of_peak {d c e : Dev} {sl st : List Byte} (h : c.ShowsReadings e sl st)
    (hp : c.fget F.GLB_TEMP_MAX_PEAK_C = d.fget F.GLB_TEMP_MAX_PEAK_C) : d.ShowsReadings e sl st :=
  ⟨h.slices, h.drams, h.die, h.stack, h.peak.trans (by rw [hp])⟩

/-- A register outside the readings' own. -/
theorem notMem_sliceTemps {off : Nat} (h : off < R.GLB_TEMP_SLICE ∨ R.GLB_TEMP_SLICE + 16 ≤ off) : off ∉ sliceTemps := by
  intro hm
  obtain ⟨n, hn, rfl⟩ := List.mem_map.1 hm
  have := List.mem_range.1 hn
  omega

/-- The readings leave every register but their own. -/
theorem readings_reported (d : Dev) (sl st : List Byte) (c m : Nat) :
    d.Reported (sliceTemps ++ [R.SDC_STACK_STATUS, R.GLB_TEMP_MAX]) (((d.slicesShown sl).dramsShown st).maxShown c m) := by
  have hs := slicesShown_reported d sl
  have hd := dramsShown_reported (d.slicesShown sl) st
  have hm := maxShown_reported ((d.slicesShown sl).dramsShown st) c m
  exact ⟨hm.rest.trans (by rw [hd.rest, hs.rest]), fun off i hi ho => by
    simp only [List.mem_append, List.mem_cons, List.not_mem_nil, or_false, not_or] at ho
    obtain ⟨ho₁, ho₂, ho₃⟩ := ho
    exact (hm.regs off i hi (by simpa using ho₃)).trans ((hd.regs off i hi (by simpa using ho₂)).trans (hs.regs off i hi ho₁))⟩

theorem readings_shown (d : Dev) (sl : List Byte) (st : List Byte) :
    d.ShowsReadings (((d.slicesShown sl).dramsShown st).maxShown (maxByte sl) (maxByte st)) sl st := by
  have h0 : (0 : Nat) < 2 ^ 20 := Nat.two_pow_pos 20
  have hs := slicesShown_reported d sl
  have hd := dramsShown_reported (d.slicesShown sl) st
  have hm := maxShown_reported ((d.slicesShown sl).dramsShown st) (maxByte sl) (maxByte st)
  obtain ⟨hdie, hstack, hpeak⟩ := maxShown_fields ((d.slicesShown sl).dramsShown st) (maxByte_lt sl) (maxByte_lt st)
  refine ⟨fun n hn => ?_, fun k hk => ?_, hdie, hstack, hpeak.trans ?_⟩
  · rw [hm.regs _ _ h0 ?_, hd.regs _ _ h0 ?_]
    · exact rget_forAll_rset R.GLB_TEMP_SLICE 4 (fun n => BitVec.ofNat 32 (leNat ((sl.drop (4 * n)).take 4))) d hn
    all_goals
      simp only [List.mem_singleton, R.SDC_STACK_STATUS, R.GLB_TEMP_MAX, R.GLB_TEMP_SLICE]
      omega
  · rw [hm.fget _ (by decide) (by omega)]
    refine (fget_forAll_fset F.SDC_STACK_STATUS_TEMP (by decide) (fun k => (st.getD k 0).toNat) _ (by decide) hk).trans ?_
    exact Nat.mod_eq_of_lt (st.getD k 0).isLt
  · rw [hd.fget _ (by decide) h0, hs.fget _ (notMem_sliceTemps (.inl (by decide))) h0]

/-- The marks and the warning leave what the readings show. -/
theorem Dev.ShowsReadings.marked {d e : Dev} {sl st : List Byte} (h : d.ShowsReadings e sl st) (c : Nat) :
    d.ShowsReadings (e.showHot.warned c) sl st := by
  have h0 : (0 : Nat) < 2 ^ 20 := Nat.two_pow_pos 20
  have hw := warned_reported e.showHot c
  have hh := showHot_reported e
  have hmax (f : Fld) (hf : f.off = R.GLB_TEMP_MAX) : (e.showHot.warned c).fget f = e.fget f :=
    (hw.fget f (by rw [hf]; decide) h0).trans (hh.fget f (by rw [hf]; decide) h0)
  refine ⟨fun n hn => ?_, fun k hk => ?_, (hmax _ rfl).trans h.die, (hmax _ rfl).trans h.stack, (hmax _ rfl).trans h.peak⟩
  · rw [hw.regs _ _ h0 ?_, hh.regs _ _ h0 ?_, h.slices n hn]
    all_goals
      simp only [alarmRegs, hotRegs, List.mem_cons, List.not_mem_nil, or_false, R.SDC_STACK_STATUS, R.GLB_TEMP_STATUS,
        R.GLB_TEMP_SLICE, R.HDM_EVT_SEQ, R.HDM_EVT_DROP, R.ERR_ALARM]
      omega
  · rw [hw.fget _ (by decide) (by omega), showHot_temp hk, h.drams k hk]

end Sys2Proof.Machine
end


-- ==== Sys2Proof/Proofs/SidePorts.lean ====
section
open Sys2Proof Sys2Proof.Machine
namespace Sys2Proof.Machine

/-! Temperatures -/

/-- A test of four elements' numbers is one of the four elements. -/
theorem any_range_four {l : List Byte} (h : l.length = 4) {q : Nat → Bool} {p : Byte → Bool} (hq : ∀ k < 4, q k = p (l.getD k 0)) :
    (List.range 4).any q = l.any p := by
  match l, h with
  | [a, b, c, d], _ =>
    simp only [List.range, List.range.loop, List.any_cons, List.any_nil, hq 0 (by decide), hq 1 (by decide), hq 2 (by decide),
      hq 3 (by decide), List.getD_cons_zero, List.getD_cons_succ]

/-- A sensors' update shows the readings and what follows from them (R319, R437, R438). -/
theorem tempSensorUpdate_shows {d : Dev} (hp : d.life.power = true) {sl st : List Byte} (hsl : sl.length = 16) (hst : st.length = 4) :
    let e := tempSensorUpdate sl st d
    d.ShowsReadings e sl st ∧ d.life.tempAt + 300000 ≤ e.cycle ∧
    e.fget F.GLB_TEMP_STATUS_STACK_HOT = b2n (st.any (fun x => decide (85 < x.toNat))) ∧
    (∀ k, k < 4 → e.fget F.SDC_STACK_STATUS_HOT k = b2n (d.fon F.SDC_CFG_TEMP_REFRESH && decide (85 < (st.getD k 0).toNat))) ∧
    (d.running = true → d.fon F.GLB_TEMP_STATUS_WARN = true →
      e.fget F.GLB_TEMP_STATUS_WARN = if maxByte sl < d.fget F.GLB_TEMP_WARN_CLEAR_C then 0 else 1) ∧
    (d.running = true → d.fon F.GLB_TEMP_STATUS_WARN = false →
      e.fget F.GLB_TEMP_STATUS_WARN = if d.fget F.GLB_TEMP_WARN_SET_C ≤ maxByte sl then 1 else 0) := by
  have h0 : (0 : Nat) < 2 ^ 20 := Nat.two_pow_pos 20
  dsimp only
  rw [tempSensorUpdate_eq hp hsl hst]
  generalize d.life.tempAt + 300000 = lim
  obtain ⟨hcycle, hlife, hsame⟩ := sensed_shows d lim
  have hregs (f : Fld) (i : Nat) : (d.sensed lim).fget f i = d.fget f i := Dev.fget_congr hsame f i
  have hshown : d.ShowsReadings _ sl st := (readings_shown (d.sensed lim) sl st).of_peak (hregs _ _)
  have hrep := readings_reported (d.sensed lim) sl st (maxByte sl) (maxByte st)
  generalize (((d.sensed lim).slicesShown sl).dramsShown st).maxShown (maxByte sl) (maxByte st) = e at hshown hrep
  have hkept (f : Fld) (hf : f.off ∉ sliceTemps ++ [R.SDC_STACK_STATUS, R.GLB_TEMP_MAX]) : e.fget f = d.fget f :=
    (hrep.fget f hf h0).trans (hregs f 0)
  have hmark := showHot_reported e
  have hwarn := warned_reported e.showHot (maxByte sl)
  have hrun : e.showHot.running = d.running := by
    rw [Dev.running, hmark.life, hrep.life]
    exact hlife
  have hw : e.showHot.fget F.GLB_TEMP_STATUS_WARN = d.fget F.GLB_TEMP_STATUS_WARN :=
    (showHot_warn e).trans (hkept _ (by decide))
  have hlimit (f : Fld) (hf : f.off = R.GLB_TEMP_WARN) : e.showHot.fget f = d.fget f :=
    (hmark.fget f (by rw [hf]; decide) h0).trans (hkept f (by rw [hf]; decide))
  refine ⟨hshown.marked _, ?_, ?_, fun k hk => ?_, fun hr hon => ?_, fun hr hon => ?_⟩
  · rw [hwarn.cycle, hmark.cycle, hrep.cycle]
    exact hcycle
  · rw [warned_stackHot, showHot_stackHot]
    exact congrArg b2n (any_range_four hst fun k hk => by rw [hshown.drams k hk])
  · rw [hwarn.fget _ (by decide) (by omega), showHot_hot hk, hshown.drams k hk, Dev.fon, hkept _ (by decide), Dev.fon]
  · rw [warned_clears _ (hrun.trans hr) (by rw [Dev.fon, hw]; exact hon), hlimit _ rfl]
  · rw [warned_sets _ (hrun.trans hr) (by rw [Dev.fon, hw]; exact hon), hlimit _ rfl]

/-! The I2C sideband (R434) -/

theorem answered (d : Dev) (q : Nat) (v : Word) : Sparse.get 0 (d.answer q v).host.rdata q = v := Sparse.get_set_same _ _ _ _

/-- Devices with the same registers and the same state of power and resets. -/
def Dev.Answers (d e : Dev) : Prop := e.regs = d.regs ∧ e.life = d.life

theorem answer_answers (d : Dev) (q : Nat) (v : Word) : d.Answers (d.answer q v) := ⟨rfl, rfl⟩

theorem i2cAnswer_answers (d : Dev) (valid : Bool) (v : Word) : d.Answers (d.i2cAnswer valid v) := by
  unfold Dev.i2cAnswer
  split <;> exact ⟨rfl, rfl⟩

theorem answers_ite {d e f : Dev} {c : Prop} [Decidable c] (he : d.Answers e) (hf : d.Answers f) : d.Answers (if c then e else f) :=
  iteInduction (motive := d.Answers) (fun _ => he) (fun _ => hf)

theorem i2cRead_answers (d : Dev) : d.Answers (i2cRead d) := by
  unfold i2cRead
  refine answers_ite ⟨rfl, rfl⟩ (answers_ite (answer_answers d _ _) ?_)
  refine answers_ite (i2cAnswer_answers d _ _) (answers_ite (i2cAnswer_answers d _ _) (answers_ite (i2cAnswer_answers d _ _) ?_))
  refine answers_ite (answer_answers d _ _) (answers_ite (i2cAnswer_answers d _ _) (answers_ite (i2cAnswer_answers d _ _) ?_))
  exact answers_ite (i2cAnswer_answers d _ _) (answer_answers d _ _)

/-- Every register that the sideband shows is valid 1 ms after the rails came up, with the fuses read and RESET_N high (Table 20-9). -/
theorem i2cRead_valid {d : Dev} (hp : d.life.power = true) (hl : d.life.low = false) (hf : d.life.fused = true)
    (hw : d.life.powerAt + 3000000 ≤ d.cycle) : i2cRead d = d.answer i2cIdx (match d.life.i2c with
      | 0 => d.rget R.GLB_ID
      | 1 => d.rget R.GLB_STATE
      | 2 => d.rget R.GLB_TEMP_MAX
      | 3 => d.rget R.ERR_ALARM
      | 4 => d.rget R.GLB_RESET_CAUSE
      | 5 => d.rget R.GLB_TEMP_STATUS
      | 6 => d.rget R.GLB_FUSE_DIE
      | 7 => d.rget R.GLB_STRAPS
      | _ => 0) := by
  unfold i2cRead Dev.i2cAnswer
  simp only [hp, hl, hf, hw, Bool.not_true, Bool.not_false, Bool.false_eq_true, if_false, if_true, decide_true]
  match d.life.i2c with
  | 0 | 1 | 2 | 3 | 4 | 5 | 6 | 7 => rfl
  | n + 8 => simp only [Nat.reduceEqDiff, Nat.add_eq_zero_iff, OfNat.ofNat_ne_zero, and_false, if_false]

/-! The endpoint: MSI-X (R421) and configuration requests (R72) -/

/-- What a pass over pending vectors leaves: everything but marks of pending vectors and the record of vectors sent. -/
structure Dev.Flushes (d e : Dev) : Prop where
  rest : e = { d with host := { d.host with msix := e.host.msix, msixOut := e.host.msixOut } }
  unmasked : ∀ i, (at0 e.host.msix i).unmasked = (at0 d.host.msix i).unmasked

theorem Dev.Flushes.refl (d : Dev) : d.Flushes d := ⟨rfl, fun _ => rfl⟩

theorem Dev.Flushes.trans {d e f : Dev} (hde : d.Flushes e) (hef : e.Flushes f) : d.Flushes f :=
  ⟨hef.rest.trans (by rw [hde.rest]), fun i => (hef.unmasked i).trans (hde.unmasked i)⟩

/-- A mark of a pending vector leaves every mask. -/
theorem unmasked_pending (m : List (Nat × Msix)) (v i : Nat) (b : Bool) :
    (at0 (upd0 m v (fun (x : Msix) => { x with pending := b })) i).unmasked = (at0 m i).unmasked := by
  by_cases h : i = v
  · rw [h, at0_upd0_same]
  · rw [at0_upd0_other _ _ h]

theorem pending_flushes (d : Dev) (v : Nat) (b : Bool) :
    d.Flushes { d with host.msix := upd0 d.host.msix v (fun (x : Msix) => { x with pending := b }) } :=
  ⟨rfl, fun i => unmasked_pending _ v i b⟩

theorem msixFire_flushes (d : Dev) (v : Nat) : d.Flushes (d.msixFire v) := by
  simp only [Dev.msixFire]
  split
  · split
    · exact pending_flushes d v true
    · exact ⟨rfl, fun _ => rfl⟩
  · exact .refl d

theorem msixFlush_flushes (d : Dev) : d.Flushes d.msixFlush := by
  refine forAll_related (R := Dev.Flushes) Dev.Flushes.refl Dev.Flushes.trans (fun d e => ?_) _ _
  split
  · exact (pending_flushes d _ _).trans (msixFire_flushes _ _)
  · exact .refl d

theorem Dev.Flushes.regs {d e : Dev} (h : d.Flushes e) : e.regs = d.regs := by rw [h.rest]

theorem Dev.Flushes.cfg {d e : Dev} (h : d.Flushes e) : e.host.cfg = d.host.cfg := by rw [h.rest]

/-- A ready endpoint takes a configuration write: the writable bits (R72). -/
theorem pcieConfig_writes {d : Dev} (hp : d.life.perstLow = false) (hr : d.host.pcieReady = true) (reg : Nat) (v : Word) :
    (pcieConfig true reg v d).regs = d.regs ∧
    Sparse.get 0 (pcieConfig true reg v d).host.cfg reg = v &&& BitVec.ofNat 32 (cfgMask reg) := by
  have heq : pcieConfig true reg v d = ({ d with
      host.retry := false
      host.cfg := Sparse.set 0 d.host.cfg reg (v &&& BitVec.ofNat 32 (cfgMask reg)) } : Dev).msixFlush := by
    rw [pcieConfig, if_neg (by simp [hp]), if_neg (by simp [hr])]
    rfl
  have h := msixFlush_flushes { d with
    host.retry := false
    host.cfg := Sparse.set 0 d.host.cfg reg (v &&& BitVec.ofNat 32 (cfgMask reg)) }
  rw [heq]
  exact ⟨h.regs, (congrArg (Sparse.get 0 · reg) h.cfg).trans (Sparse.get_set_same _ _ _ _)⟩

theorem pcieConfig_reads {d : Dev} (hp : d.life.perstLow = false) (hr : d.host.pcieReady = true) (reg : Nat) (v : Word) :
    pcieConfig false reg v d = ({ d with host.retry := false } : Dev).answer 0 (d.cfgRead reg) := by
  rw [pcieConfig, if_neg (by simp [hp]), if_neg (by simp [hr])]
  rfl

/-- The vector-control dword of an entry of the table. -/
theorem vectorControl {i : Nat} (hi : i < 512) : (16 * i + 12) % 0x10000 = 16 * i + 12 ∧ 16 * i + 12 < 0x2000 ∧
    (16 * i + 12) / 16 = i ∧ (16 * i + 12) % 16 / 4 = 3 := by omega

theorem msixAccess_masks (d : Dev) {i : Nat} (hi : i < 512) (v : Word) : (msixAccess true (16 * i + 12) v d).regs = d.regs ∧
    (at0 (msixAccess true (16 * i + 12) v d).host.msix i).unmasked = !bit v.toNat 0 := by
  obtain ⟨-, hlt, hentry, hword⟩ := vectorControl hi
  simp only [msixAccess, hlt, hentry, hword, if_true, if_false, OfNat.ofNat_ne_zero, Nat.reduceEqDiff]
  have h := msixFlush_flushes { d with
    host.msix := Sparse.set default d.host.msix i { at0 d.host.msix i with unmasked := !bit v.toNat 0 } }
  refine ⟨h.regs, (h.unmasked i).trans ?_⟩
  exact congrArg Msix.unmasked (Sparse.get_set_same _ _ _ _)

theorem msixAccess_reads (d : Dev) {i : Nat} (hi : i < 512) (v : Word) : (msixAccess false (16 * i + 12) v d).regs = d.regs ∧
    Sparse.get 0 (msixAccess false (16 * i + 12) v d).host.rdata 0 = if (at0 d.host.msix i).unmasked then 0 else 1 := by
  obtain ⟨-, hlt, hentry, hword⟩ := vectorControl hi
  simp only [msixAccess, hlt, hentry, hword, if_true, if_false, OfNat.ofNat_ne_zero, Nat.reduceEqDiff, Bool.false_eq_true]
  refine ⟨rfl, (answered _ _ _).trans ?_⟩
  cases (at0 d.host.msix i).unmasked <;> rfl

/-! JTAG (R435) -/

/-- Whether every slice is OFF, or one is not. -/
theorem all_off_or (d : Dev) :
    (List.range 16).any (fun k => d.sliceSt k != stOff) = !(List.range 16).all (fun k => d.sliceSt k == stOff) := by
  rw [List.not_all_eq_any_not]
  rfl

theorem jtagInstruction_other (code : Byte) (s : State) : exec (.jtagInstruction (.other code)) s =
    if (List.range 16).all (fun k => s.dev.sliceSt k == stOff) then .fault (.undescribed 435) else .fault (.unpredictable 435) := by
  refine (if_congr (Bool.eq_iff_iff.1 (all_off_or s.dev)) rfl rfl).trans ?_
  cases (List.range 16).all (fun k => s.dev.sliceSt k == stOff) <;> rfl

/-! The statement -/

/-- A ready endpoint's answers to configuration requests and to accesses of the MSI-X table. -/
theorem readyEndpoint {s : State} (hrun : s.dev.running = true) (hp : s.dev.life.perstLow = false) (hr : s.dev.host.pcieReady = true)
    (reg : Nat) (v : Word) :
    (Gives (.pcieConfigRequest true reg v) s fun u => u.mem = s.mem ∧ u.dev.regs = s.dev.regs ∧
      Sparse.get 0 u.dev.host.cfg reg = v &&& BitVec.ofNat 32 (cfgMask reg)) ∧
    (Gives (.pcieConfigRequest false reg v) s fun u => u.mem = s.mem ∧ u.dev.regs = s.dev.regs ∧
      Sparse.get 0 u.dev.host.rdata 0 = s.dev.cfgRead reg) ∧
    (s.dev.isRoot = true → ∀ i, i < 512 →
      (Gives (.msixTableAccess true (16 * i + 12) v) s fun u => u.mem = s.mem ∧ u.dev.regs = s.dev.regs ∧
        (at0 u.dev.host.msix i).unmasked = !bit v.toNat 0) ∧
      (Gives (.msixTableAccess false (16 * i + 12) v) s fun u => u.mem = s.mem ∧ u.dev.regs = s.dev.regs ∧
        Sparse.get 0 u.dev.host.rdata 0 = if (at0 s.dev.host.msix i).unmasked then 0 else 1)) := by
  refine ⟨gives_event (f := pcieConfig true reg v) rfl hrun rfl ⟨rfl, pcieConfig_writes hp hr reg v⟩,
    gives_event (f := pcieConfig false reg v) rfl hrun (pcieConfig_reads hp hr reg v) ⟨rfl, rfl, answered _ _ _⟩,
    fun hroot i hi => ?_⟩
  have hacc (wr : Bool) : (if s.dev.isRoot && s.dev.host.pcieReady then msixAccess wr ((16 * i + 12) % 0x10000) v s.dev else s.dev) =
      msixAccess wr (16 * i + 12) v s.dev := by
    rw [hroot, hr, (vectorControl hi).1]
    rfl
  exact ⟨gives_event rfl hrun (hacc true) ⟨rfl, msixAccess_masks s.dev hi v⟩,
    gives_event rfl hrun (hacc false) ⟨rfl, msixAccess_reads s.dev hi v⟩⟩

/-- Settles O11: each command's own lemma says what it shows, answers or changes. -/
theorem temperaturesAndSidePorts : Obligations.temperatures_and_side_ports := by
  unfold Obligations.temperatures_and_side_ports
  intro s
  refine ⟨fun hp sl st hsl hst => ?_, fun hp => ⟨fun cmd => ?_, ?_⟩, fun op hop => ?_, ?_, fun code => jtagInstruction_other code s,
    fun hrun wr reg v => ⟨fun hl => ?_, fun hl hr => ?_, fun hl hr => readyEndpoint hrun hl hr reg v⟩⟩
  · obtain ⟨hshown, hcycle, hany, hhot, hclear, hset⟩ := tempSensorUpdate_shows hp hsl hst
    exact ⟨_, rfl, rfl, rfl, hcycle, hshown.slices, hshown.drams, hshown.die, hshown.stack, hshown.peak, hany, hhot, hclear, hset⟩
  · have heq : i2cCommandWrite cmd.toNat s.dev = { s.dev with life.i2c := cmd.toNat } := if_pos hp
    exact ⟨{ s with dev := i2cCommandWrite cmd.toNat s.dev }, rfl, rfl, rfl, by rw [heq], by rw [heq]⟩
  · obtain ⟨hregs, hlife⟩ := i2cRead_answers s.dev
    refine ⟨{ s with dev := i2cRead s.dev }, rfl, rfl, rfl, hregs, hlife, fun hl hf hw => ?_⟩
    exact (congrArg (fun d : Dev => Sparse.get 0 d.host.rdata i2cIdx) (i2cRead_valid hp hl hf hw)).trans (answered _ _ _)
  · simp only [List.mem_cons, List.not_mem_nil, or_false] at hop
    obtain rfl | rfl := hop <;> rfl
  · exact ⟨_, rfl, rfl, rfl, rfl, rfl, answered _ _ _⟩
  · refine (event_running (pcieConfig wr reg v) hrun).trans ?_
    rw [pcieConfig, if_pos hl]
  · refine (event_running (pcieConfig wr reg v) hrun).trans ?_
    simp only [pcieConfig, hl, hr, Bool.not_false, Bool.false_eq_true, if_false, if_true]

end Sys2Proof.Machine
end


-- ==== Sys2Proof/Proofs/PinResets.lean ====
section
open Sys2Proof Sys2Proof.Machine
namespace Sys2Proof.Machine

/-! Power, RESET_N and thermal shutdown (R72, R75, R428, R429, R439) -/

/-! Memories -/

theorem devClear_bytes (m : Mem) {sp : Space} (h : sp ≠ .host) : m.devClear.bytes sp = [] := by
  cases sp with
  | host => exact absurd rfl h
  | _ => rfl

/-! Registers -/

/-- A map of registers reads under a test of keys as before where the test passes, as at reset elsewhere. -/
theorem Sparse.get_filter {α : Type} (d : α) (m : List (Nat × α)) (p : Nat → Bool) (k : Nat) :
    Sparse.get d (m.filter (fun e => p e.1)) k = if p k then Sparse.get d m k else d := by
  induction m with
  | nil => exact (ite_self d).symm
  | cons e m ih =>
    obtain ⟨j, v⟩ := e
    by_cases hk : k = j
    · subst hk
      cases hp : p k with
      | true => simp only [List.filter_cons, hp, if_true, Sparse.get]
      | false => simp only [List.filter_cons, hp, if_false, ih, Bool.false_eq_true]
    · cases hp : p j with
      | true => simp only [List.filter_cons, hp, if_true, Sparse.get, hk, if_false, ih]
      | false => simp only [List.filter_cons, hp, if_false, ih, Sparse.get, hk, Bool.false_eq_true]

/-- A bit that is set joins the register's others. -/
theorem ofNat_setBits_one (w : Word) {n : Nat} (hn : n < 32) :
    BitVec.ofNat 32 (setBits w.toNat n 1 1) = w ||| BitVec.ofNat 32 (2 ^ n) := by
  have htest (v i : Nat) : v.testBit i = (bits v i 1 == 1) := by
    rw [Nat.testBit_eq_decide_div_mod_eq]
    simp [bits]
    rfl
  refine BitVec.eq_of_toNat_eq ?_
  rw [setBits_word _ _ _ _ (by omega), BitVec.toNat_or, BitVec.toNat_ofNat, Nat.mod_eq_of_lt (Nat.pow_lt_pow_right (by decide) hn)]
  refine Nat.eq_of_testBit_eq fun i => ?_
  rw [Nat.testBit_or, htest, htest]
  obtain h | rfl | h : i < n ∨ i = n ∨ n < i := by omega
  · rw [bits_setBits_low _ _ _ _ _ _ (by omega), Nat.testBit_two_pow_of_ne (by omega), Bool.or_false]
  · rw [bits_setBits, Nat.testBit_two_pow_self, Bool.or_true]
    rfl
  · rw [bits_setBits_high _ _ _ _ _ _ (by omega), Nat.testBit_two_pow_of_ne (by omega), Bool.or_false]

theorem Dev.AsideRegs.refl (d : Dev) : d.AsideRegs d := rfl

theorem rset_asideRegs (d : Dev) (off i : Nat) (v : Word) : d.AsideRegs (d.rset off i v) := rfl

theorem fset_asideRegs (d : Dev) (f : Fld) (i v : Nat) : d.AsideRegs (d.fset f i v) := rfl

theorem forAll_asideRegs {α : Type} {f : Dev → α → Dev} (hf : ∀ (d : Dev) a, d.AsideRegs (f d a)) (l : List α) (d : Dev) :
    d.AsideRegs (forAll l f d) := forAll_related Dev.AsideRegs.refl Dev.AsideRegs.trans hf l d

/-! Temperatures over a reset -/

/-- The registers that a reset fills with what the sensors report. -/
def tempRegs : List Nat := sliceTemps ++ [R.GLB_TEMP_MAX, R.SDC_STACK_STATUS, R.GLB_TEMP_STATUS]

/-- The device with another's readings, before its marks of hot stacks. -/
def Dev.readsOf (d old : Dev) : Dev :=
  let d := forAll (List.range 4) (fun d n => d.rset (R.GLB_TEMP_SLICE + 4 * n) 0 (old.rget (R.GLB_TEMP_SLICE + 4 * n))) d
  let d := (d.fset F.GLB_TEMP_MAX_DIE_C 0 (old.fget F.GLB_TEMP_MAX_DIE_C)).fset F.GLB_TEMP_MAX_STACK_C 0
    (old.fget F.GLB_TEMP_MAX_STACK_C)
  forAll (List.range 4) (fun d k => d.fset F.SDC_STACK_STATUS_TEMP k (old.fget F.SDC_STACK_STATUS_TEMP k)) d

theorem keepTemps_eq (d old : Dev) : d.keepTemps old = (d.readsOf old).showHot := rfl

theorem Dev.Reported.weaken {l m : List Nat} {d e : Dev} (h : d.Reported l e) (hl : l ⊆ m) : d.Reported m e :=
  ⟨h.rest, fun off i hi ho => h.regs off i hi fun hm => ho (hl hm)⟩

/-- The maxima and the stacks' readings of another device. -/
theorem readsOf_reported (d old : Dev) : (forAll (List.range 4) (fun d n => d.rset (R.GLB_TEMP_SLICE + 4 * n) 0
    (old.rget (R.GLB_TEMP_SLICE + 4 * n))) d).Reported [R.GLB_TEMP_MAX, R.SDC_STACK_STATUS] (d.readsOf old) := by
  have h0 : (0 : Nat) < 2 ^ 20 := Nat.two_pow_pos 20
  refine Dev.Reported.forAll (((Dev.Reported.refl _ _).fset _ _ (by decide) h0).fset _ _ (by decide) h0) _ fun k hk h => ?_
  have hk : k < 4 := List.mem_range.1 hk
  exact h.fset F.SDC_STACK_STATUS_TEMP _ (by decide) (by omega)

theorem keepTemps_reported (d old : Dev) : d.Reported tempRegs (d.keepTemps old) := by
  have hslices : d.Reported sliceTemps (forAll (List.range 4) (fun d n => d.rset (R.GLB_TEMP_SLICE + 4 * n) 0
    (old.rget (R.GLB_TEMP_SLICE + 4 * n))) d) :=
    Dev.Reported.forAll (.refl _ d) _ fun _ hk h => h.rset _ _ (List.mem_map_of_mem hk) (Nat.two_pow_pos 20)
  exact ((hslices.weaken (by decide)).trans ((readsOf_reported d old).weaken (by decide))).trans
    ((showHot_reported (d.readsOf old)).weaken (by decide))

theorem showHot_asideRegs (d : Dev) : d.AsideRegs d.showHot := by
  rw [showHot_eq]
  exact (forAll_asideRegs (fun d k => fset_asideRegs d _ k _) _ d).trans (fset_asideRegs _ _ _ _)

theorem keepTemps_asideRegs (d old : Dev) : d.AsideRegs (d.keepTemps old) := by
  refine Dev.AsideRegs.trans (forAll_asideRegs (fun d n => rset_asideRegs d _ _ _) _ d) (.trans (fset_asideRegs _ _ _ _)
    (.trans (fset_asideRegs _ _ _ _) (.trans (forAll_asideRegs (fun d k => fset_asideRegs d _ k _) _ _) (showHot_asideRegs _))))

theorem keepTemps_slices (d old : Dev) {n : Nat} (hn : n < 4) :
    (d.keepTemps old).rget (R.GLB_TEMP_SLICE + 4 * n) = old.rget (R.GLB_TEMP_SLICE + 4 * n) := by
  rw [keepTemps_eq, (showHot_reported _).regs _ _ (Nat.two_pow_pos 20) ?_, (readsOf_reported d old).regs _ _ (Nat.two_pow_pos 20) ?_]
  · exact rget_forAll_rset R.GLB_TEMP_SLICE 4 (fun n => old.rget (R.GLB_TEMP_SLICE + 4 * n)) d hn
  all_goals
    simp only [hotRegs, List.mem_cons, List.not_mem_nil, or_false, R.SDC_STACK_STATUS, R.GLB_TEMP_MAX, R.GLB_TEMP_STATUS,
      R.GLB_TEMP_SLICE]
    omega

theorem keepTemps_warn (d old : Dev) : (d.keepTemps old).fget F.GLB_TEMP_STATUS_WARN = d.fget F.GLB_TEMP_STATUS_WARN := by
  rw [keepTemps_eq, showHot_warn, (readsOf_reported d old).fget _ (by decide) (Nat.two_pow_pos 20)]
  refine Dev.fget_of_rget ?_
  exact (Dev.Reported.forAll (.refl sliceTemps d) _ fun _ hk h => h.rset _ _ (List.mem_map_of_mem hk) (Nat.two_pow_pos 20)).regs _ _
    (Nat.two_pow_pos 20) (by decide)

/-! A pin reset (Table 03-5) -/

/-- What a pin reset leaves, before the reset cause and the temperatures. -/
def Dev.blank (d : Dev) : Dev := {
  cycle := d.cycle
  free := d.free
  pmu := { zero := d.cycle, upTo := d.cycle }
  host := { msixOut := d.host.msixOut }
  halter := { out := d.halter.out }
  tm := { sent := d.tm.sent }
  holdIns := d.keepPins
  life := {
    power := true
    powerAt := d.life.powerAt
    low := d.life.low
    perstLow := d.life.perstLow
    perstAt := d.life.perstAt
    tempAt := d.life.tempAt
    i2c := d.life.i2c
    jtag := d.life.jtag } }

/-- The device in the state of a pin reset, with a bit of its cause set. -/
def Dev.resetBy (d : Dev) (n : Nat) : Dev :=
  ((d.blank.rset R.GLB_RESET_CAUSE 0 (d.rget R.GLB_RESET_CAUSE)).keepTemps d).fset ⟨R.GLB_RESET_CAUSE, n, 1⟩ 0 1

theorem rget_blank (d : Dev) (off i : Nat) : d.blank.rget off i = resetWord off := rfl

theorem resetBy_asideRegs (d : Dev) (n : Nat) : d.blank.AsideRegs (d.resetBy n) :=
  (rset_asideRegs d.blank _ _ _).trans ((keepTemps_asideRegs _ d).trans (fset_asideRegs _ _ _ _))

theorem resetBy_reported (d : Dev) (n : Nat) : d.blank.Reported (R.GLB_RESET_CAUSE :: tempRegs) (d.resetBy n) := by
  have h0 : (0 : Nat) < 2 ^ 20 := Nat.two_pow_pos 20
  have hcause := (Dev.Reported.refl (R.GLB_RESET_CAUSE :: tempRegs) d.blank).rset R.GLB_RESET_CAUSE (d.rget R.GLB_RESET_CAUSE)
    (by decide) h0
  unfold Dev.resetBy
  generalize d.blank.rset R.GLB_RESET_CAUSE 0 (d.rget R.GLB_RESET_CAUSE) = e at hcause
  have htemps := hcause.trans ((keepTemps_reported e d).weaken (List.subset_cons_self _ _))
  exact htemps.fset ⟨R.GLB_RESET_CAUSE, n, 1⟩ 1 List.mem_cons_self h0

/-- The cause's register and a slice's readings after a pin reset; WARN is clear. -/
theorem resetBy_shows (d : Dev) {n : Nat} (hn : n < 32) :
    (d.resetBy n).rget R.GLB_RESET_CAUSE = d.rget R.GLB_RESET_CAUSE ||| BitVec.ofNat 32 (2 ^ n) ∧
    (∀ k, k < 4 → (d.resetBy n).rget (R.GLB_TEMP_SLICE + 4 * k) = d.rget (R.GLB_TEMP_SLICE + 4 * k)) ∧
    (d.resetBy n).fget F.GLB_TEMP_STATUS_WARN = 0 := by
  have h0 : (0 : Nat) < 2 ^ 20 := Nat.two_pow_pos 20
  unfold Dev.resetBy
  have hcause : (d.blank.rset R.GLB_RESET_CAUSE 0 (d.rget R.GLB_RESET_CAUSE)).rget R.GLB_RESET_CAUSE = d.rget R.GLB_RESET_CAUSE :=
    Dev.rget_rset _ _ _ _
  have hwarn : (d.blank.rset R.GLB_RESET_CAUSE 0 (d.rget R.GLB_RESET_CAUSE)).fget F.GLB_TEMP_STATUS_WARN = 0 := by
    rw [Dev.fget_rset_ne d.blank F.GLB_TEMP_STATUS_WARN _ (regKey_ne h0 h0 (.inl (by decide))), Dev.fget, rget_blank]
    decide
  generalize d.blank.rset R.GLB_RESET_CAUSE 0 (d.rget R.GLB_RESET_CAUSE) = b at hcause hwarn
  have hreg : (b.keepTemps d).rget R.GLB_RESET_CAUSE = d.rget R.GLB_RESET_CAUSE :=
    ((keepTemps_reported b d).regs _ _ h0 (by decide)).trans hcause
  have hslices : ∀ k < 4, _ := fun k hk => keepTemps_slices b d hk
  have hwarn := (keepTemps_warn b d).trans hwarn
  generalize b.keepTemps d = e at hreg hslices hwarn
  have hother (off : Nat) (h : off ≠ R.GLB_RESET_CAUSE) : (e.fset ⟨R.GLB_RESET_CAUSE, n, 1⟩ 0 1).rget off = e.rget off :=
    Dev.rget_fset_other e _ h0 h0 (.inl h)
  refine ⟨(Dev.rget_fset e ⟨R.GLB_RESET_CAUSE, n, 1⟩ 0 1).trans ?_, fun k hk => (hother _ ?_).trans (hslices k hk),
    (Dev.fget_of_rget (hother _ (by decide))).trans hwarn⟩
  · rw [← hreg]
    exact ofNat_setBits_one _ hn
  · simp only [R.GLB_TEMP_SLICE, R.GLB_RESET_CAUSE]
    omega

/-- A device that a pin reset has left shows it (Table 03-5): what else it holds beside registers and the state of its life is of a
device that has just been powered. -/
theorem pinReset_of {s u : State} {d e : Dev} {n : Nat} (hn : n < 32) (he : d.resetBy n = e) (hregs : d.regs = s.dev.regs)
    (hmem : u.mem = s.mem.devClear) (hdev : ∃ l, u.dev = { e with life := l }) : s.pinReset u n := by
  have h0 : (0 : Nat) < 2 ^ 20 := Nat.two_pow_pos 20
  have hother := resetBy_reported d n
  have hrest := resetBy_asideRegs d n
  obtain ⟨hcause, hslices, hwarn⟩ := resetBy_shows d hn
  rw [he] at hother hrest hcause hslices hwarn
  obtain ⟨l, hdev⟩ := hdev
  have hr (off i : Nat) : u.dev.rget off i = e.rget off i := by rw [hdev]; rfl
  refine ⟨hmem ▸ rfl, fun sp h => hmem ▸ devClear_bytes _ h, ?_, fun k hk => ?_, fun off i hi h₁ h₂ h₃ h₄ h₅ => ?_,
    (Dev.fget_of_rget (hr _ _)).trans hwarn, ?_, ?_, ?_, ?_, ?_, ?_, ?_⟩
  · rw [hr, hcause, Dev.rget_congr hregs]
  · rw [hr, hslices k hk, Dev.rget_congr hregs]
  · rw [hr, hother.regs off i hi, rget_blank]
    simp only [tempRegs, sliceTemps, List.mem_cons, List.mem_append, List.mem_map, List.mem_range, List.not_mem_nil, or_false, not_or,
      not_exists, not_and]
    exact ⟨h₁, fun k hk he => h₅ k hk he.symm, h₂, h₄, h₃⟩
  all_goals rw [hdev]
  · exact hrest.same (·.ports) (fun _ _ => rfl)
  · exact hrest.same (·.slices) (fun _ _ => rfl)
  · exact hrest.same (·.drv) (fun _ _ => rfl)
  · exact hrest.same (·.stb) (fun _ _ => rfl)
  · exact hrest.same (·.bufs) (fun _ _ => rfl)
  · exact hrest.same (·.ntu) (fun _ _ => rfl)
  · exact hrest.same (·.ld) (fun _ _ => rfl)

theorem pinReset_dev (b : Block) : b.pinReset.dev = b.dev.resetBy 1 := rfl

/-- A low of RESET_N of 10 us or more resets a device that runs (R75). -/
theorem resetNAssert_resets {s : State} (hrun : s.dev.running = true) {ns : Nat} (hns : 10000 ≤ ns) :
    Gives (.resetNAssert ns) s fun u => s.pinReset u 1 ∧ u.dev.life.low = true ∧ u.dev.cycle = s.dev.cycle := by
  obtain ⟨⟨hp, hl⟩, ht⟩ : (s.dev.life.power = true ∧ s.dev.life.low = false) ∧ s.dev.life.thermal = false := by
    simpa [Dev.running] using hrun
  have heq : resetNAssert ns s.blk = ({ s.blk with dev := { s.dev with life.low := true } } : Block).pinReset := by
    have hlt : ¬ ns < 2000 := by omega
    simp only [resetNAssert, State.blk_dev, hp, hl, ht, hns, hlt, Bool.not_true, Bool.or_self, decide_false, Bool.false_eq_true,
      if_false, if_true]
  have hdev := pinReset_dev { s.blk with dev := { s.dev with life.low := true } }
  have hrest := resetBy_asideRegs { s.dev with life.low := true } 1
  have hpin := fun u => pinReset_of (s := s) (u := u) (d := { s.dev with life.low := true }) (n := 1) (by decide) rfl rfl
  refine ⟨s.withBlk (resetNAssert ns s.blk), rfl, rfl, ?_⟩
  rw [heq]
  generalize ({ s.dev with life.low := true } : Dev).resetBy 1 = e at hdev hrest hpin
  exact ⟨hpin _ rfl ⟨e.life, hdev⟩, (congrArg (·.life.low) hdev).trans (hrest.same (·.life.low) (fun _ _ => rfl)),
    (congrArg (·.cycle) hdev).trans (hrest.same (·.cycle) (fun _ _ => rfl))⟩

theorem resetNAssert_filtered {s : State} {ns : Nat} (hns : ns < 2000) : exec (.resetNAssert ns) s = .next s := by
  have heq : resetNAssert ns s.blk = s.blk := by
    simp only [resetNAssert, hns, decide_true, Bool.or_true, if_true]
  refine (congrArg (fun b => Host.Outcome.next (s.withBlk b)) heq :)

/-- A thermal shutdown resets a powered device and holds it (R439). -/
theorem thermalShutdown_resets {s : State} (hp : s.dev.life.power = true) (ht : s.dev.life.thermal = false) :
    Gives .thermalShutdown s fun u => s.pinReset u 3 ∧ u.dev.life.thermal = true ∧ u.dev.thermtripLow = true := by
  have heq : thermalShutdown s.blk = { dev := { s.dev.resetBy 3 with life := { (s.dev.resetBy 3).life with thermal := true } },
                                       mem := s.mem.devClear } := by
    simp only [thermalShutdown, State.blk_dev, hp, ht, Bool.not_true, Bool.or_self, Bool.false_eq_true, if_false]
    rfl
  have hpin := fun u => pinReset_of (s := s) (u := u) (d := s.dev) (n := 3) (by decide) rfl rfl
  refine ⟨s.withBlk (thermalShutdown s.blk), rfl, rfl, ?_⟩
  rw [heq]
  exact ⟨hpin _ rfl ⟨_, rfl⟩, rfl, rfl⟩

/-- RESET_N's rise samples the straps and starts BOOT (R72). -/
theorem resetNRelease_boots {d : Dev} (hp : d.life.power = true) (hl : d.life.low = true) (ht : d.life.thermal = false)
    (devid : BitVec 6) (bootsel : BitVec 2) (clksel : Bool) : let e := resetNRelease devid.toNat bootsel.toNat clksel d
    e.running = true ∧ e.devid = devid.toNat ∧ e.fget F.HLD_BOOT_SRC_BOOTSEL = bootsel.toNat ∧ e.life.clkSel = clksel ∧
    e.life.riseAt = e.cycle ∧ e.devSt = stBoot ∧ ∀ k, e.sliceSt k = stBoot := by
  have h0 : (0 : Nat) < 2 ^ 20 := Nat.two_pow_pos 20
  obtain ⟨c, heq, hlife, hid, hsel⟩ : ∃ c : Dev, resetNRelease devid.toNat bootsel.toNat clksel d = c.allStates stBoot ∧
      c.life = { d.life with low := false, thermal := false, riseAt := c.cycle, clkSel := clksel } ∧
      c.fget F.GLB_STRAPS_DEVID = devid.toNat ∧ c.fget F.HLD_BOOT_SRC_BOOTSEL = bootsel.toNat := by
    have hsample (c : Dev) := And.intro
      ((Dev.fget_fset (c.fset F.HLD_BOOT_SRC_BOOTSEL 0 bootsel.toNat) F.GLB_STRAPS_DEVID 0 devid.toNat (by decide)).trans
        (Nat.mod_eq_of_lt devid.isLt))
      ((Dev.fget_fset_apart (c.fset F.HLD_BOOT_SRC_BOOTSEL 0 bootsel.toNat) F.GLB_STRAPS_DEVID F.HLD_BOOT_SRC_BOOTSEL (i := 0)
        (v := devid.toNat) (i' := 0) (by decide) (by decide)).trans
        ((Dev.fget_fset c F.HLD_BOOT_SRC_BOOTSEL 0 bootsel.toNat (by decide)).trans (Nat.mod_eq_of_lt bootsel.isLt)))
    simp only [resetNRelease, hp, hl, ht, Bool.not_true, Bool.or_self, Bool.false_and, Bool.false_eq_true, if_false]
    exact ⟨_, rfl, rfl, hsample _⟩
  have hrep := allStates_reported c stBoot
  have hf (f : Fld) (hf : f.off ∉ stateRegs) : (c.allStates stBoot).fget f = c.fget f :=
    (hrep.fget f hf h0).trans (Dev.fget_congr rfl f 0)
  have hl' : (c.allStates stBoot).life = { c.life with wide := true, kind := [], ready := [], stopped := [] } := hrep.life
  dsimp only
  rw [heq]
  refine ⟨?_, (hf _ (by decide)).trans hid, (hf _ (by decide)).trans hsel, ?_, ?_, allStates_devSt c (by decide),
    allStates_sliceSt c (by decide)⟩
  · rw [Dev.running, hl', hlife, hp]
    rfl
  · rw [hl', hlife]
  · rw [hl', hlife, hrep.cycle]
    rfl

end Sys2Proof.Machine
end


-- ==== Sys2Proof/Proofs/SoftReset.lean ====
section
open Sys2Proof Sys2Proof.Machine
namespace Sys2Proof.Machine

/-! PERST_N and the host soft reset (R72, R75) -/

/-! PERST_N -/

/-- Whether PERST_N clears the register at an offset: those of the DMA queues and of the rings. -/
def perstClears (off : Nat) : Bool :=
  match findReg off with
  | none => false
  | some r => r.kind == .dmaq || (r.kind == .ring && decide (r.off < R.HDM_EVT_RATE))

theorem regKey_div (off : Nat) {i : Nat} (hi : i < 2 ^ 20) : regKey off i / 2 ^ 20 = off := by
  unfold regKey
  omega

theorem perstClears_queues : ∀ off ∈ [R.HDM_Q_CFG, R.HDM_Q_TAIL, R.HDM_Q_HEAD, R.HDM_RING_CFG, R.HDM_RING_TAIL, R.HDM_RING_HEAD],
    perstClears off = true := by decide

/-- PERST_N at the running root clears the endpoint and what hangs on it (R75, R422). -/
theorem perstAssert_clears {b : Block} (hrun : b.dev.running = true) (hroot : b.dev.isRoot = true) : perstAssert b =
    { dev := { b.dev with
        life.perstLow := true
        regs := b.dev.regs.filter (fun e => !perstClears (e.1 / 2 ^ 20))
        halter.reqs := b.dev.halter.reqs.filter (fun r => r.remote.isSome)
        host := { b.dev.host with
          cfg := [], msix := [], pcieReady := false, dma := [], intLast := [], intDue := [] } }
      mem := b.mem.clear .bar2 } := by
  have hr : (b.on (fun d => { d with life.perstLow := true })).dev.running = true := hrun
  have hi : (b.on (fun d => { d with life.perstLow := true })).dev.isRoot = true := hroot
  unfold perstAssert
  simp only [hr, hi, Bool.not_true, Bool.or_self, Bool.false_eq_true, if_false]
  rfl

theorem perstNAssert_clears {s : State} (hrun : s.dev.running = true) (hroot : s.dev.isRoot = true) :
    Gives .perstNAssert s fun u => u.dev.life.perstLow = true ∧
      u.dev.host.pcieReady = false ∧ u.dev.host.cfg = [] ∧ u.dev.host.msix = [] ∧ u.mem.bar2 = [] ∧
      (∀ sp, sp ≠ Space.bar2 → u.mem.bytes sp = s.mem.bytes sp) ∧
      (∀ off e, off ∈ [R.HDM_Q_CFG, R.HDM_Q_TAIL, R.HDM_Q_HEAD, R.HDM_RING_CFG, R.HDM_RING_TAIL, R.HDM_RING_HEAD] → e < 64 →
        u.dev.rget off e = resetWord off) ∧
      u.dev.host.evtQ = s.dev.host.evtQ ∧ u.dev.ports = s.dev.ports ∧ u.dev.slices = s.dev.slices ∧ u.dev.tm = s.dev.tm ∧
      u.dev.drv = s.dev.drv ∧ u.dev.ntu = s.dev.ntu := by
  refine ⟨s.withBlk (perstAssert s.blk), rfl, rfl, ?_⟩
  rw [perstAssert_clears (b := s.blk) hrun hroot]
  refine ⟨rfl, rfl, rfl, rfl, rfl, fun sp h => Mem.bytes_clear_other _ h, fun off e ho he => ?_, rfl, rfl, rfl, rfl, rfl, rfl⟩
  refine (Sparse.get_filter _ _ (fun k => !perstClears (k / 2 ^ 20)) _).trans (if_neg ?_)
  rw [regKey_div off (by omega), perstClears_queues off ho]
  decide

/-! What a load's start leaves beside registers and the loader: the halter's maps, and all of the host port (R410) -/

/-- Two devices that agree in all but registers, the loader and the messages of the halter. -/
def Dev.Asks (d e : Dev) : Prop := e = { d with
  regs := e.regs
  ld := e.ld
  halter := { d.halter with out := e.halter.out, held := e.halter.held, nextTag := e.halter.nextTag, reads := e.halter.reads } }

theorem Dev.Asks.refl (d : Dev) : d.Asks d := rfl

theorem Dev.Asks.trans {d e f : Dev} (hde : d.Asks e) (hef : e.Asks f) : d.Asks f := by
  unfold Dev.Asks at *
  rw [hef, hde]

/-- What looks at none of the changed parts is the same. -/
theorem Dev.Asks.same {d e : Dev} (h : d.Asks e) {α : Type} (g : Dev → α) (hg : ∀ r l o q n w, g { d with
    regs := r, ld := l, halter := { d.halter with out := o, held := q, nextTag := n, reads := w } } = g d) : g e = g d :=
  (congrArg g h).trans (hg _ _ _ _ _ _)

theorem sendVia_asks (d : Dev) (down : Bool) (m : HMsg) : d.Asks (d.sendVia down m) := rfl

theorem send_asks (d : Dev) (m : HMsg) : d.Asks (d.send m) := by
  unfold Dev.send
  split
  · rfl
  · split
    · rfl
    · exact sendVia_asks d _ m

theorem imgAsk_asks (d : Dev) (a n : Nat) : d.Asks (d.imgAsk a n) := by
  unfold Dev.imgAsk
  split
  · exact .refl d
  · refine forAll_related Dev.Asks.refl Dev.Asks.trans (fun d k => ?_) _ d
    split
    · exact .refl d
    · exact send_asks d _

theorem memAsk_asks (d : Dev) (who req addr n : Nat) : d.Asks (d.memAsk who req addr n) := by
  unfold Dev.memAsk
  refine Dev.Asks.trans (e := { d with halter.reads := d.halter.reads.filter (fun r => r.who != who) }) rfl
    (forAll_related Dev.Asks.refl Dev.Asks.trans (fun d x => ?_) _ _)
  exact Dev.Asks.trans (e := { d with halter := { d.halter with
    nextTag := (d.halter.nextTag + 1) % 65536
    reads := d.halter.reads ++ [{ tag := d.halter.nextTag, who := who, addr := x.1, n := x.2 }] } }) rfl (send_asks _ _)

theorem askSrc_asks (d : Dev) (a n : Nat) : d.Asks (d.askSrc a n) := by
  unfold Dev.askSrc
  split
  · exact memAsk_asks d _ _ _ _
  · exact imgAsk_asks d a n

theorem loadShown_asks (d : Dev) (src : Nat) (live : Bool) : d.Asks (d.loadShown src live) := by
  unfold Dev.loadShown
  split <;> rfl

theorem peerUp_asks (d : Dev) : d.Asks d.peerUp := by
  unfold Dev.peerUp
  split <;> rfl

theorem loadFrom_asks (d : Dev) (src : Nat) (live : Bool) : d.Asks (d.loadFrom src live) := by
  rw [loadFrom_eq]
  exact ((loadShown_asks d src live).trans (peerUp_asks _)).trans (askSrc_asks _ 0 128)

theorem bootLoad_asks (d : Dev) : d.Asks d.bootLoad := by
  unfold Dev.bootLoad
  dsimp only
  split
  · rw [loadStart_eq _ (by simp [Dev.sourceLen])]
    exact loadFrom_asks d 1 false
  · split
    · rw [loadStart_eq _ (by simp [Dev.sourceLen])]
      exact Dev.Asks.trans (e := d.updLd (fun l => { l with byStrap := true })) rfl (loadFrom_asks _ 4 false)
    · exact .refl d

/-! The registers that a host soft reset keeps -/

/-- The register maps of all blocks. -/
def regTables : List (List RegRow) :=
  [regsGlb, regsHld, regsHtr, regsHdm, regsPrt, regsCar, regsTem, regsSlc, regsFlw, regsFwd, regsXpf, regsTmg, regsNtu, regsCku, regsBpm,
   regsDrv, regsStb, regsPmu, regsSdc, regsErr, []]

theorem ite_mem {α : Type} {l : List α} {c : Prop} [Decidable c] {a b : α} (ha : a ∈ l) (hb : b ∈ l) : (if c then a else b) ∈ l :=
  iteInduction (motive := (· ∈ l)) (fun _ => ha) (fun _ => hb)

theorem blockRegs_mem (off : Nat) : blockRegs off ∈ regTables := by
  unfold blockRegs
  iterate 20 refine ite_mem (by simp only [regTables, List.mem_cons, true_or, or_true]) ?_
  simp only [regTables, List.mem_cons, true_or, or_true]

/-- The blocks that hold registers which a host soft reset keeps or sets anew. -/
def softBlocks : List Nat := [0, 1, 2, 3, 12, 18, 19]

/-- Registers that a soft reset names beside whole blocks. -/
def softNamed (r : RegRow) : Bool :=
  r.kind == .ring || r.off == R.HDM_RING_IDX || r.off == R.ERR_ALARM || r.off == R.SDC_STACK_TRAIN ||
  r.off == R.HLD_IMAGE_SERIAL || r.off == R.HLD_BOOT_SRC || r.off == R.HLD_KEY_HASH || r.off == R.GLB_ID ||
  r.off == R.GLB_STATE || r.off == R.GLB_RESET_CAUSE || r.off == R.GLB_TEMP_WARN

theorem softNamed_blocks : ∀ t ∈ regTables, ∀ r ∈ t, softNamed r = true →
    blockIndex r.off ∈ softBlocks ∧ blockIndex (r.off + 4 * r.count - 1) = blockIndex r.off := by decide

theorem keptSoft_eq (off : Nat) (r : RegRow) : keptSoft off r = (blockIndex off == 12 || blockIndex off == 2 || softNamed r ||
    (blockIndex off == 0 && decide (R.GLB_STRAPS ≤ off) && decide (off < R.GLB_TEMP_MAX))) := by
  simp only [keptSoft, softNamed, Bool.or_assoc]

/-- The row of a register spans it. -/
theorem findReg_spans {off : Nat} {row : RegRow} (h : findReg off = some row) :
    row.off ≤ off ∧ off ≤ row.off + 4 * row.count - 1 := by
  have h := List.find?_some h
  simp only [Bool.and_eq_true, decide_eq_true_eq] at h
  omega

/-- Outside those blocks a soft reset keeps no register. -/
theorem keptSoft_outside {off : Nat} {row : RegRow} (hrow : findReg off = some row) (hb : blockIndex off ∉ softBlocks) :
    keptSoft off row = false := by
  have hnamed : softNamed row = false := by
    by_contra hn
    obtain ⟨hin, hend⟩ := softNamed_blocks _ (blockRegs_mem off) row (findReg_mem hrow) (by simpa using hn)
    obtain ⟨hlo, hhi⟩ := findReg_spans hrow
    have h₁ := blockIndex_mono hlo
    have h₂ := blockIndex_mono hhi
    exact hb ((show blockIndex off = blockIndex row.off by omega) ▸ hin)
  simp only [softBlocks, List.mem_cons, List.not_mem_nil, or_false, not_or] at hb
  obtain ⟨h0, -, h2, -, h12, -, -⟩ := hb
  simp only [keptSoft_eq, hnamed, beq_eq_false_iff_ne.2 h0, beq_eq_false_iff_ne.2 h2, beq_eq_false_iff_ne.2 h12, Bool.or_self,
    Bool.false_and]

/-- Whether a soft reset keeps the register at an offset. -/
def softKeeps (off : Nat) : Bool :=
  match findReg off with
  | none => false
  | some r => keptSoft off r

/-- What a host soft reset leaves, before temperatures, training marks and states. -/
def Dev.softBlank (d : Dev) : Dev := {
  regs := d.regs.filter (fun e => softKeeps (e.1 / 2 ^ 20))
  cycle := d.cycle
  free := d.free
  pmu := { zero := d.cycle, upTo := d.cycle }
  ntu := d.ntu
  integ := { crcDiff := d.integ.crcDiff.filter (fun x => decide (0x30000000 ≤ x.1) && decide (x.1 < 0x50000000)) }
  halter := { d.halter with reads := [] }
  host := { d.host with dma := [] }
  tm := { sent := d.tm.sent }
  holdIns := d.keepPins
  life := d.life
  ld := { retained := d.ld.retained } }

theorem rget_softBlank (d : Dev) (off : Nat) {i : Nat} (hi : i < 2 ^ 20) :
    d.softBlank.rget off i = if softKeeps off then d.rget off i else resetWord off := by
  refine (Sparse.get_filter (resetWord off) d.regs (fun k => softKeeps (k / 2 ^ 20)) (regKey off i)).trans ?_
  rw [regKey_div off hi]
  rfl

/-- The training marks and causes that a soft reset sets, before the states. -/
def Dev.softMarked (b d : Dev) : Dev :=
  let n := forAll (List.range 4) (fun n k => n.fset F.SDC_STACK_STATUS_TRAINED k (d.fget F.SDC_STACK_STATUS_TRAINED k)) b
  (n.fset F.HLD_BOOT_SRC_SLOT 0 0).fset F.GLB_RESET_CAUSE_SOFT 0 1

theorem softCleared_eq (d : Dev) : d.softCleared =
    { ((d.softBlank.keepTemps d).softMarked d).allStates stHarness with
      life := { (((d.softBlank.keepTemps d).softMarked d).allStates stHarness).life with isOpen := false, served := false } } := rfl

/-- The registers that a host soft reset writes. -/
def softRegs : List Nat :=
  tempRegs ++ [R.HLD_BOOT_SRC, R.GLB_RESET_CAUSE, R.GLB_SLICE_STATE_LO, R.GLB_SLICE_STATE_HI, R.GLB_STATE]

theorem softMarked_reported (b d : Dev) : b.Reported softRegs (b.softMarked d) := by
  have h0 : (0 : Nat) < 2 ^ 20 := Nat.two_pow_pos 20
  have hstacks : b.Reported softRegs _ := (forAll_fset_reported F.SDC_STACK_STATUS_TRAINED (fun k => d.fget F.SDC_STACK_STATUS_TRAINED k)
    b (n := 4) (by decide)).weaken (by decide)
  exact (hstacks.fset F.HLD_BOOT_SRC_SLOT 0 (by decide) h0).fset F.GLB_RESET_CAUSE_SOFT 1 (by decide) h0

theorem softMarked_asideRegs (b d : Dev) : b.AsideRegs (b.softMarked d) :=
  (forAll_asideRegs (fun _ _ => fset_asideRegs _ _ _ _) _ b).trans ((fset_asideRegs _ _ _ _).trans (fset_asideRegs _ _ _ _))

theorem softMarked_cause (b d : Dev) : (b.softMarked d).fget F.GLB_RESET_CAUSE_SOFT = 1 := Dev.fget_fset _ _ _ _ (by decide)

theorem allStates_asideRegs (d : Dev) (v : Nat) : d.sharing.AsideRegs (d.allStates v) := by
  unfold Dev.allStates Dev.setDevSt
  dsimp only
  split <;> rfl

/-- What a soft reset leaves: registers it keeps or sets, the host port and the halter but for what is under way there, NTU. -/
structure Dev.SoftLeaves (d e : Dev) : Prop where
  regs : ∀ off i, i < 2 ^ 20 → off ∉ softRegs → e.rget off i = d.softBlank.rget off i
  devSt : e.devSt = stHarness
  cause : e.fget F.GLB_RESET_CAUSE_SOFT = 1
  parts : ∀ {α : Type} (g : Dev → α), (∀ x y l, g { d.softBlank with regs := x, free := y, life := l } = g d.softBlank) →
    g e = g d.softBlank

theorem softCleared_leaves (d : Dev) : d.SoftLeaves d.softCleared := by
  have h0 : (0 : Nat) < 2 ^ 20 := Nat.two_pow_pos 20
  rw [softCleared_eq]
  have htemps := keepTemps_reported d.softBlank d
  have hbeside := keepTemps_asideRegs d.softBlank d
  generalize d.softBlank.keepTemps d = t at htemps hbeside
  have hmarks := softMarked_reported t d
  have hbeside := hbeside.trans (softMarked_asideRegs t d)
  have hcause := softMarked_cause t d
  generalize t.softMarked d = m at hmarks hbeside hcause
  have hstates := allStates_reported m stHarness
  have hlast := allStates_asideRegs m stHarness
  have hst := allStates_devSt m (v := stHarness) (by decide)
  generalize m.allStates stHarness = e at hstates hlast hst
  refine ⟨fun off i hi ho => ?_, hst, (hstates.fget _ (by decide) h0).trans hcause, fun g hg => ?_⟩
  · have hn : off ∉ stateRegs := fun hm => ho ((by decide : stateRegs ⊆ softRegs) hm)
    exact (hstates.regs off i hi hn).trans ((hmarks.regs off i hi ho).trans
      (htemps.regs off i hi fun hm => ho (List.mem_append_left _ hm)))
  · have he : ({ e with life := { e.life with isOpen := false, served := false } } : Dev) =
        { d.softBlank with regs := e.regs, free := e.free, life := { e.life with isOpen := false, served := false } } := by
      rw [hlast, Dev.sharing, hbeside]
    rw [he]
    exact hg _ _ _

/-! The statement -/

/-- Memories after a host soft reset: the host's own, and of DRAM the staged image, stand (R75). -/
theorem softMem (m : Mem) :
    let n := ((((m.keep .dram (fun a => decide (0x30000000 ≤ a) && decide (a < 0x50000000))).clear .cls).clear .cluster).clear .sram
      |>.clear .tabs).clear .bar2
    n.host = m.host ∧ (∀ sp, sp ≠ Space.host → sp ≠ Space.dram → n.bytes sp = []) ∧
    ∀ a, Sparse.get 0 n.dram a = if 0x30000000 ≤ a ∧ a < 0x50000000 then Sparse.get 0 m.dram a else 0 := by
  refine ⟨rfl, fun sp hh hd => ?_, fun a => ?_⟩
  · cases sp with
    | host => exact absurd rfl hh
    | dram => exact absurd rfl hd
    | _ => rfl
  · refine (Sparse.get_filter 0 m.dram (fun a => decide (0x30000000 ≤ a) && decide (a < 0x50000000)) a).trans ?_
    simp only [Bool.and_eq_true, decide_eq_true_eq]

theorem hostSoftReset_ignored {b : Block} {key : Word} (h : key ≠ 0x00015116 ∨ b.dev.devSt < stHarness) :
    hostSoftReset key.toNat b = b := by
  unfold hostSoftReset
  refine if_pos ?_
  obtain h | h := h
  · have hk : key.toNat ≠ 0x00015116 := fun he => h (BitVec.eq_of_toNat_eq he)
    simp [hk]
  · simp [h]

theorem hostSoftReset_clears {b : Block} (hrun : b.dev.running = true) (hst : stHarness ≤ b.dev.devSt) :
    hostSoftReset 0x00015116 b =
      { dev := b.dev.softCleared.bootLoad
        mem := ((((b.mem.keep .dram (fun a => decide (0x30000000 ≤ a) && decide (a < 0x50000000))).clear .cls).clear .cluster).clear .sram
          |>.clear .tabs).clear .bar2 } := by
  have hlt : ¬ b.dev.devSt < stHarness := by omega
  simp only [hostSoftReset, hrun, hlt, Bool.not_true, bne_self_eq_false, Bool.or_self, decide_false, Bool.false_eq_true, if_false]

/-- What the boot load that follows leaves of a device that a soft reset has cleared. -/
theorem softReset_leaves (d : Dev) : let e := d.softCleared.bootLoad
    e.devSt = stHarness ∧ e.ntu = d.ntu ∧ e.rget R.ERR_ALARM = d.rget R.ERR_ALARM ∧ e.fget F.GLB_RESET_CAUSE_SOFT = 1 ∧
    e.halter.order = d.halter.order ∧ e.halter.down = d.halter.down ∧ e.host.evtQ = d.host.evtQ ∧ e.host.msix = d.host.msix ∧
    e.devid = d.devid ∧ e.ports = [] ∧ e.slices = [] ∧ e.drv = {} ∧ e.stb = {} ∧
    ∀ off row i, findReg off = some row → i < 2 ^ 20 → blockIndex off ∉ softBlocks → e.rget off i = resetWord off := by
  have h0 : (0 : Nat) < 2 ^ 20 := Nat.two_pow_pos 20
  have hclear := softCleared_leaves d
  dsimp only
  generalize d.softCleared = c at hclear
  obtain ⟨hload, -, -⟩ := bootLoad_starts c
  have hasks := bootLoad_asks c
  generalize c.bootLoad = e at hload hasks
  have hsame {α : Type} (g : Dev → α) (h₁ : ∀ r l o q n w, g { c with
      regs := r, ld := l, halter := { c.halter with out := o, held := q, nextTag := n, reads := w } } = g c)
      (h₂ : ∀ x y l, g { d.softBlank with regs := x, free := y, life := l } = g d.softBlank) : g e = g d.softBlank :=
    (hasks.same g h₁).trans (hclear.parts g h₂)
  have hreg (off : Nat) {i : Nat} (hi : i < 2 ^ 20) (hn : off ∉ softRegs ++ startRegs) : e.rget off i = d.softBlank.rget off i :=
    (hload off i hi fun hm => hn (List.mem_append_right _ hm)).trans (hclear.regs off i hi fun hm => hn (List.mem_append_left _ hm))
  refine ⟨(Dev.fget_of_rget (hload _ _ h0 (by decide))).trans hclear.devSt, ?_, ?_,
    (Dev.fget_of_rget (hload _ _ h0 (by decide))).trans hclear.cause, ?_, ?_, ?_, ?_, ?_, ?_, ?_, ?_, ?_, fun off row i hrow hi hb => ?_⟩
  · exact hsame (·.ntu) (fun _ _ _ _ _ _ => rfl) (fun _ _ _ => rfl)
  · exact (hreg _ h0 (by decide)).trans ((rget_softBlank d _ h0).trans (if_pos (by decide)))
  · exact hsame (·.halter.order) (fun _ _ _ _ _ _ => rfl) (fun _ _ _ => rfl)
  · exact hsame (·.halter.down) (fun _ _ _ _ _ _ => rfl) (fun _ _ _ => rfl)
  · exact hsame (·.host.evtQ) (fun _ _ _ _ _ _ => rfl) (fun _ _ _ => rfl)
  · exact hsame (·.host.msix) (fun _ _ _ _ _ _ => rfl) (fun _ _ _ => rfl)
  · exact Dev.fget_of_rget ((hreg R.GLB_STRAPS h0 (by decide)).trans ((rget_softBlank d _ h0).trans (if_pos (by decide))))
  · exact hsame (·.ports) (fun _ _ _ _ _ _ => rfl) (fun _ _ _ => rfl)
  · exact hsame (·.slices) (fun _ _ _ _ _ _ => rfl) (fun _ _ _ => rfl)
  · exact hsame (·.drv) (fun _ _ _ _ _ _ => rfl) (fun _ _ _ => rfl)
  · exact hsame (·.stb) (fun _ _ _ _ _ _ => rfl) (fun _ _ _ => rfl)
  · have hin : ∀ o ∈ softRegs ++ startRegs, blockIndex o ∈ softBlocks := by decide
    have hn : off ∉ softRegs ++ startRegs := fun hm => hb (hin off hm)
    rw [hreg off hi hn, rget_softBlank d off hi, softKeeps, hrow]
    exact if_neg (by simp [keptSoft_outside hrow hb])

/-- Settles O9: each command clears what its own lemma says. -/
theorem powerAndResets : Obligations.power_and_resets := by
  unfold Obligations.power_and_resets
  intro s
  refine ⟨fun c on hc => ?_, fun ns hrun => ⟨resetNAssert_resets hrun, resetNAssert_filtered⟩, thermalShutdown_resets,
    fun devid bootsel clksel hp hl ht => ?_, perstNAssert_clears, fun hp => ?_, fun r key hpass hreach => ?_⟩
  · simp only [List.mem_cons, List.not_mem_nil, or_false, Prod.mk.injEq] at hc
    obtain ⟨rfl, rfl⟩ | ⟨rfl, rfl⟩ := hc
    · exact ⟨_, rfl, rfl, rfl, rfl, fun _ _ => rfl, rfl, fun _ => devClear_bytes s.mem, rfl⟩
    · exact ⟨_, rfl, rfl, rfl, rfl, fun _ _ => rfl, rfl, fun _ => devClear_bytes s.mem, rfl⟩
  · obtain ⟨hrun, hid, hsel, hclk, hrise, hdev, hsl⟩ := resetNRelease_boots hp hl ht devid bootsel clksel
    exact ⟨_, rfl, rfl, rfl, hrun, hid, hsel, hclk, hrise, hdev, fun k _ => hsl k⟩
  · have heq : perstRelease s.dev = { s.dev with life.perstLow := false, life.perstAt := s.dev.cycle } := if_pos hp
    refine ⟨{ s with dev := perstRelease s.dev }, rfl, rfl, rfl, ?_⟩
    rw [heq]
    exact ⟨rfl, rfl, rfl⟩
  · have hnext (key : Word) : exec (.hostSoftReset r key) s = .next (s.withBlk (hostSoftReset key.toNat s.blk)) :=
      regOp_reaches (i := 0) (fun _ => hostSoftReset key.toNat) ⟨hpass, hreach, rfl, rfl⟩
    refine ⟨fun h => ?_, fun hst => ?_⟩
    · rw [hnext, hostSoftReset_ignored (b := s.blk) h, State.withBlk_blk]
    · have hrun := running_of_readable (reachable_readable hreach)
      have hclear := hostSoftReset_clears (b := s.blk) hrun hst
      have hmem := softMem s.mem
      have hdev := softReset_leaves s.dev
      refine ⟨_, (hnext 0x00015116).trans (congrArg (fun b => Host.Outcome.next (s.withBlk b)) hclear), rfl, ?_⟩
      dsimp only [State.withBlk_dev, State.withBlk_mem, State.blk_dev, State.blk_mem] at hdev hmem ⊢
      generalize s.dev.softCleared.bootLoad = e at hdev
      obtain ⟨hst, hntu, halarm, hcause, horder, hdown, hevt, hmsix, hid, hports, hslices, hdrv, hstb, hregs⟩ := hdev
      obtain ⟨hhost, hnone, hdram⟩ := hmem
      exact ⟨hst, hntu, halarm, hcause, horder, hdown, hevt, hmsix, hid, hports, hslices, hdrv, hstb, hhost, hnone, hdram, hregs⟩

end Sys2Proof.Machine
end


-- ==== Sys2Proof/Proofs/GlobalFrames.lean ====
section
open Sys2Proof Sys2Proof.Machine
namespace Sys2Proof.Machine

/-! What leaves the clock and the registers of block GLB alone: every register that a slice's fall, its start or a cluster's reset writes
lies in a block above GLB (Table 00-5). -/

/-- The registers of block GLB, out of a register file. -/
def lowRegs (m : List (Nat × Word)) (off i : Nat) : Word :=
  if off < R.HLD_CTRL ∧ i < 2 ^ 20 then Sparse.get (resetWord off) m (regKey off i) else 0

/-- The clock and the registers of block GLB stand. -/
@[simp] abbrev Dev.KeepsGlb (d e : Dev) : Prop := e.cycle = d.cycle ∧ lowRegs e.regs = lowRegs d.regs

theorem Dev.KeepsGlb.refl (d : Dev) : d.KeepsGlb d := ⟨rfl, rfl⟩

theorem Dev.KeepsGlb.trans {d e f : Dev} (hde : d.KeepsGlb e) (hef : e.KeepsGlb f) : d.KeepsGlb f :=
  ⟨hef.1.trans hde.1, hef.2.trans hde.2⟩

/-- A register of block GLB reads as before. -/
theorem Dev.KeepsGlb.rget {d e : Dev} (h : d.KeepsGlb e) {off i : Nat} (ho : off < R.HLD_CTRL) (hi : i < 2 ^ 20) :
    e.rget off i = d.rget off i := by
  have h := congrFun (congrFun h.2 off) i
  simp only [lowRegs, if_pos (And.intro ho hi)] at h
  exact h

theorem Dev.KeepsGlb.fget {d e : Dev} (h : d.KeepsGlb e) {f : Fld} {i : Nat} (ho : f.off < R.HLD_CTRL) (hi : i < 2 ^ 20) :
    e.fget f i = d.fget f i := Dev.fget_of_rget (h.rget ho hi)

theorem Dev.Reported.glb {l : List Nat} {d e : Dev} (h : d.Reported l e) (hl : ∀ off ∈ l, R.HLD_CTRL ≤ off) : d.KeepsGlb e := by
  refine ⟨h.cycle, funext fun off => funext fun i => ?_⟩
  unfold lowRegs
  split
  · next hlow =>
    obtain ⟨ho, hi⟩ := hlow
    exact h.regs off i hi fun hm => absurd (hl off hm) (by omega)
  · rfl

theorem forAll_glb {α : Type} {f : Dev → α → Dev} (hf : ∀ (d : Dev) a, d.KeepsGlb (f d a)) (l : List α) (d : Dev) :
    d.KeepsGlb (forAll l f d) := forAll_related Dev.KeepsGlb.refl Dev.KeepsGlb.trans hf l d

section
variable (d : Dev)

/-! Parts of the state -/

/-- A register of a later block, whatever its element, is none of block GLB. -/
theorem rset_glb (off i : Nat) (v : Word) (h : R.HLD_CTRL ≤ off) : d.KeepsGlb (d.rset off i v) := by
  refine ⟨rfl, funext fun off' => funext fun i' => ?_⟩
  unfold lowRegs
  split
  · next hlow =>
    obtain ⟨ho, hi⟩ := hlow
    refine Dev.rget_rset_ne d v ?_
    simp only [regKey, R.HLD_CTRL] at *
    omega
  · rfl

@[simp] theorem fset_glb (f : Fld) (i v : Nat) (h : R.HLD_CTRL ≤ f.off) : d.KeepsGlb (d.fset f i v) := rset_glb d f.off i _ h

@[simp] theorem fset_above_glb (base k lo w i v : Nat) (h : R.HLD_CTRL ≤ base) : d.KeepsGlb (d.fset ⟨base + k, lo, w⟩ i v) :=
  fset_glb d _ i v (Nat.le_add_right_of_le h)

@[simp] theorem cnt_glb (f : Fld) (i n : Nat) (h : R.HLD_CTRL ≤ f.off) : d.KeepsGlb (d.cnt f i n) := by
  obtain ⟨v, hv⟩ | ⟨v, hv⟩ := Dev.cnt_cases d f i n <;> rw [hv]
  · exact fset_glb d f i v h
  · exact fset_glb (d.fresh f.w).2 f i v h

@[simp] theorem cnt_nth_glb (f : Fld) (k i n : Nat) (h : R.HLD_CTRL ≤ f.off) : d.KeepsGlb (d.cnt (f.nth k) i n) :=
  cnt_glb d (f.nth k) i n (Nat.le_add_right_of_le h)

@[simp] theorem satAdd_glb (f : Fld) (i n : Nat) (h : R.HLD_CTRL ≤ f.off) : d.KeepsGlb (d.satAdd f i n) := fset_glb d f i _ h

@[simp] theorem notice_glb (f : Fld) (i : Nat) : d.KeepsGlb (d.notice f i) :=
  ((Dev.Reported.refl eventRegs d).notice (List.Subset.refl _) f i).glb (by decide)

@[simp] theorem error_glb (f : Fld) (i : Nat) : d.KeepsGlb (d.error f i) :=
  ((Dev.Reported.refl eventRegs d).error (List.Subset.refl _) f i).glb (by decide)

@[simp] theorem alarm_glb (n : Nat) (f : Fld) (i : Nat) (data : List Byte) : d.KeepsGlb (d.alarm n f i data) :=
  ((Dev.Reported.refl alarmRegs d).alarm (List.Subset.refl _) n f i data).glb (by decide)

theorem pl_glb (s ev n : Nat) : d.KeepsGlb (d.pl s ev n) :=
  ⟨(congrArg Dev.cycle (pl_asidePmu d s ev n) :), congrArg lowRegs (congrArg Dev.regs (pl_asidePmu d s ev n) :)⟩

theorem updPt_glb (p : Nat) (f : PortSt → PortSt) : d.KeepsGlb (d.updPt p f) := ⟨rfl, rfl⟩

theorem updSl_glb (s : Nat) (f : SliceSt → SliceSt) : d.KeepsGlb (d.updSl s f) := ⟨rfl, rfl⟩

theorem updCar_glb (c : Nat) (f : CarSt → CarSt) : d.KeepsGlb (d.updCar c f) := ⟨rfl, rfl⟩

@[simp] theorem updMbr_glb (k : Nat) (f : MbrSt → MbrSt) : d.KeepsGlb (d.updMbr k f) := ⟨rfl, rfl⟩

@[simp] theorem updDom_glb (k : Nat) (f : DomSt → DomSt) : d.KeepsGlb (d.updDom k f) := ⟨rfl, rfl⟩

@[simp] theorem updLq_glb (q : Nat) (f : LeafSt → LeafSt) : d.KeepsGlb (d.updLq q f) := ⟨rfl, rfl⟩

@[simp] theorem stat_glb (p dir c n : Nat) : d.KeepsGlb (d.stat p dir c n) := ⟨rfl, rfl⟩

/-! Memory failures and buffers (R320, R383 to R388) -/

@[simp] theorem pendFail_glb (f : MemFail) : d.KeepsGlb (d.pendFail f) := by
  unfold Dev.pendFail
  dsimp only
  split
  · exact ⟨rfl, rfl⟩
  · simp (disch := decide) [Dev.unitLost]

@[simp] theorem parityFail_glb (cls inst w : Nat) (detail : List Byte) (taken : Bool) :
    d.KeepsGlb (d.parityFail cls inst w detail taken) := by
  unfold Dev.parityFail Dev.markWord
  split <;> simp (disch := decide)

@[simp] theorem poolMarks_glb (p : Nat) : d.KeepsGlb (d.poolMarks p) := by
  unfold Dev.poolMarks
  dsimp only
  split
  · simp (disch := decide)
  · split <;> simp (disch := decide)

@[simp] theorem poolMin_glb (p : Nat) : d.KeepsGlb (d.poolMin p) := by
  unfold Dev.poolMin
  split
  · split
    · exact fset_glb _ _ _ _ (by decide)
    · exact ⟨rfl, rfl⟩
  · exact fset_glb { d with minSeen := d.minSeen ++ [p] } _ _ _ (by decide)

@[simp] theorem bufQuarantine_glb (p i : Nat) : d.KeepsGlb (d.bufQuarantine p i) := by
  unfold Dev.bufQuarantine
  split <;> simp (disch := decide)

@[simp] theorem bufOut_glb (p i : Nat) : d.KeepsGlb (d.bufOut p i).2 := by
  unfold Dev.bufOut
  split
  · exact ⟨rfl, rfl⟩
  · split <;> simp (disch := decide)

@[simp] theorem bufFree_glb (a owner : Nat) : d.KeepsGlb (d.bufFree a owner).2 := by
  unfold Dev.bufFree
  split
  · simp (disch := decide)
  · dsimp only
    (repeat' split) <;> simp (disch := decide)

@[simp] theorem freeAll_glb (l : List Nat) : d.KeepsGlb (d.freeAll l) := by
  refine forAll_glb (fun d a => ?_) l d
  unfold Dev.bufRelease
  split <;> simp (disch := decide)

@[simp] theorem settleMc_glb : d.KeepsGlb d.settleMc := by
  unfold Dev.settleMc
  simp (disch := decide)

/-! Frames on a line (R208, R213) -/

@[simp] theorem statFrame_glb (p dir : Nat) (bytes : List Byte) (n m : Nat) (good : Bool) :
    d.KeepsGlb (d.statFrame p dir bytes n m good) := by
  unfold Dev.statFrame
  dsimp only
  (repeat' split) <;> simp (disch := decide)

@[simp] theorem onLine_glb (p : Nat) (t : Tx) (bytes : List Byte) : d.KeepsGlb (d.onLine p t bytes) := by
  simp (disch := decide) [Dev.onLine]

@[simp] theorem mbrSent_glb (k : Nat) (t : Tx) : d.KeepsGlb (d.mbrSent k t) := by
  unfold Dev.mbrSent
  cases t.probe <;> simp (disch := decide)

@[simp] theorem txStamp_glb (p start : Nat) : d.KeepsGlb (d.txStamp p start).2 := by
  unfold Dev.txStamp Dev.clientPlace
  split <;> exact ⟨rfl, rfl⟩

@[simp] theorem ptpSend_glb (x : QPkt) (t : Nat) : d.KeepsGlb (d.ptpSend x t).2 := by
  unfold Dev.ptpSend
  dsimp only
  (repeat' split) <;> simp (disch := decide)

@[simp] theorem tsTake_glb (x : QPkt) (t : Nat) : d.KeepsGlb (d.tsTake x t) := by
  unfold Dev.tsTake Dev.tsWrite Dev.addStream
  dsimp only
  (repeat' split) <;> simp (disch := decide)

@[simp] theorem sojourn_glb (x : QPkt) (start : Nat) : d.KeepsGlb (d.sojourn x start) := by
  unfold Dev.sojourn
  dsimp only
  split <;> simp (disch := decide)

@[simp] theorem packetStarts_glb (p : Nat) (t : Tx) : d.KeepsGlb (d.packetStarts p t) := by
  unfold Dev.packetStarts
  dsimp only
  split <;> cases t.pkt.ct <;> simp (disch := decide)

@[simp] theorem begins_glb (p : Nat) : d.KeepsGlb (d.begins p) := by
  refine forAll_glb (fun d t => ?_) _ d
  unfold Dev.beginTx
  split <;> simp (disch := decide)

@[simp] theorem lineDone_glb (p : Nat) : d.KeepsGlb (d.lineDone p) := by
  unfold Dev.lineDone
  dsimp only
  split <;> simp (disch := decide)

@[simp] theorem cutOne_glb (p : Nat) (back : Bool) (t : Tx) : d.KeepsGlb (d.cutOne p back t) := by
  unfold Dev.cutOne Dev.requeue
  dsimp only
  (repeat' split) <;> simp (disch := decide)

@[simp] theorem cutTx_glb (p : Nat) (sel : Tx → Bool) (back : Bool) : d.KeepsGlb (d.cutTx p sel back) := by
  unfold Dev.cutTx
  dsimp only
  split
  · exact lineDone_glb d p
  · refine ((((lineDone_glb d p).trans (forAll_glb (fun d t => cutOne_glb d p _ t) _ _)).trans (updPt_glb _ p _)).trans
      (settleMc_glb _)).trans (freeAll_glb _ _)

/-! The multicast residue and the leaf queues (R220, R241) -/

@[simp] theorem discardPort_glb (p : Nat) : d.KeepsGlb (d.discardPort p) := by
  refine forAll_glb (fun d q => ?_) _ d
  unfold Dev.discardIf
  dsimp only
  split <;> simp (disch := decide)

@[simp] theorem showRes_glb (s : Nat) : d.KeepsGlb (d.showRes s) := by
  unfold Dev.showRes Dev.settleStall
  dsimp only
  (repeat' split) <;> simp (disch := decide)

@[simp] theorem mcPortDown_glb (p : Nat) : d.KeepsGlb (d.mcPortDown p) := by
  unfold Dev.mcPortDown
  dsimp only
  split <;> simp (disch := decide)

@[simp] theorem linkLost_glb (p : Nat) : d.KeepsGlb (d.linkLost p) := by
  simp (disch := decide) [Dev.linkLost]

/-! Rates, holds and voids of a port (R97, R222, R236) -/

@[simp] theorem setHeld_glb (k : Nat) (h : Held) : d.KeepsGlb (d.setHeld k h) := by
  unfold Dev.setHeld
  split <;> exact ⟨rfl, rfl⟩

@[simp] theorem teamHeld_glb (p ns : Nat) : d.KeepsGlb (d.teamHeld p ns) := by
  unfold Dev.teamHeld
  split
  · extract_lets r
    split
    · exact ⟨rfl, rfl⟩
    · exact satAdd_glb _ _ _ _ (by decide)
  · exact ⟨rfl, rfl⟩

@[simp] theorem settleHold_glb (k : Nat) : d.KeepsGlb (d.settleHold k) := by
  unfold Dev.settleHold
  dsimp only
  split
  · exact .refl d
  · split
    · simp (disch := decide)
    · refine Dev.KeepsGlb.trans ?_ (forAll_glb (fun d p => ?_) _ _) <;> simp (disch := decide)

@[simp] theorem settleHolds_glb (p : Nat) : d.KeepsGlb (d.settleHolds p) := by
  unfold Dev.settleHolds
  split
  · exact forAll_glb (fun d k => settleHold_glb d _) _ d
  · exact settleHold_glb d _

@[simp] theorem settleShapers_glb (p : Nat) : d.KeepsGlb (d.settleShapers p) := by
  unfold Dev.settleShapers
  extract_lets e
  have he : d.KeepsGlb e := forAll_glb (fun d q => updLq_glb d q _) _ d
  split
  · exact he
  · exact he.trans (forAll_glb (fun d c => updPt_glb d p _) _ _)

@[simp] theorem settleRel_glb : d.KeepsGlb d.settleRel := by
  unfold Dev.settleRel
  exact forAll_glb (fun d s => updSl_glb d s _) _ d

@[simp] theorem settleDc_glb (p : Nat) : d.KeepsGlb (d.settleDc p) := by
  unfold Dev.settleDc
  dsimp only
  refine Dev.KeepsGlb.trans ?_ (settleShapers_glb _ p)
  refine Dev.KeepsGlb.trans (Dev.KeepsGlb.trans ?_ (updSl_glb _ _ _)) (updPt_glb _ p _)
  split
  · exact settleRel_glb d
  · exact .refl d

@[simp] theorem setVoid_glb (p : Nat) (v : Bool) : d.KeepsGlb (d.setVoid p v) := by
  unfold Dev.setVoid
  dsimp only
  (repeat' split) <;> simp (disch := decide)

@[simp] theorem evalPort_glb (p : Nat) : d.KeepsGlb (d.evalPort p) := by
  unfold Dev.evalPort
  extract_lets e
  have he : d.KeepsGlb e := (fset_glb _ _ _ _ (by decide)).trans (fset_glb _ _ _ _ (by decide))
  split
  · exact he
  · exact (((he.trans (fset_glb _ _ _ _ (by decide))).trans (fset_glb _ _ _ _ (by decide))).trans
      (fset_glb _ _ _ _ (by decide))).trans (setVoid_glb _ _ _)

@[simp] theorem applyRate_glb (p : Nat) (ramped : Bool) : d.KeepsGlb (d.applyRate p ramped) := by
  unfold Dev.applyRate
  dsimp only
  (repeat' split) <;> simp (disch := decide)

/-! Members of teams (R252 to R262) -/

@[simp] theorem teamRates_glb (t : Nat) (ramped : Bool) : d.KeepsGlb (d.teamRates t ramped) := by
  have hrate (d : Dev) (k : Nat) : d.KeepsGlb (d.mbrRate k) := by
    unfold Dev.mbrRate
    dsimp only
    split <;> simp (disch := decide)
  unfold Dev.teamRates
  dsimp only
  have hshown (x y : Nat) := (((forAll_glb hrate (d.members t) d).trans (fset_glb _ F.PRT_STATUS_LINK (d.teamPort t) x (by decide))).trans
    (fset_glb _ F.TEM_TEAM_STATUS_STATE t y (by decide))).trans (applyRate_glb _ (d.teamPort t) ramped)
  split
  · exact (hshown _ _).trans (linkLost_glb _ _)
  · exact hshown _ _

@[simp] theorem release_glb (t dm : Nat) (p : Pkt) : d.KeepsGlb (d.release t dm p) := by
  unfold Dev.release
  dsimp only
  split <;> simp (disch := decide)

@[simp] theorem setExpect_glb (k e : Nat) : d.KeepsGlb (d.setExpect k e) := by
  unfold Dev.setExpect
  dsimp only
  split <;> simp (disch := decide)

@[simp] theorem reseqCheck_glb (t dm n : Nat) : d.KeepsGlb (reseqCheck t dm n d) := by
  induction n generalizing d with
  | zero => exact ⟨rfl, rfl⟩
  | succ n ih =>
    unfold reseqCheck
    dsimp only
    (repeat' split) <;> simp (disch := decide) [ih]

/-- The same, as a relation that is compared as a whole where a device's terms hold large numbers. -/
def Dev.GlbStands (d e : Dev) : Prop := d.KeepsGlb e

/-- A member's skew, which may pass its team's limit (R266). -/
theorem skewOver_glb (k t v : Nat) (c : Prop) [Decidable c] : d.GlbStands (if c then (((d.fset F.TEM_MBR_SKEW_NS_NS k v).fset
    F.TEM_MBR_STATUS_SKEW_OVER k 1).fset F.TEM_TEAM_STATUS_SKEW_OVER t 1).alarm 5 F.TEM_TEAM_STATUS_SKEW_OVER t
    else d.fset F.TEM_MBR_SKEW_NS_NS k v) := by
  unfold Dev.GlbStands
  split <;> simp (disch := decide)

@[simp] theorem showSkew_glb (t : Nat) : d.KeepsGlb (d.showSkew t) := by
  unfold Dev.showSkew
  extract_lets known e
  have he : d.KeepsGlb e := forAll_glb (fun d k => fset_glb d _ _ _ (by decide)) _ d
  split
  · exact he
  · exact he.trans (forAll_related (R := Dev.GlbStands) Dev.KeepsGlb.refl Dev.KeepsGlb.trans
      (fun d k => skewOver_glb d k t _ _) _ _)

@[simp] theorem rxChanged_glb (t : Nat) : d.KeepsGlb (d.rxChanged t) :=
  (showSkew_glb d t).trans (forAll_glb (fun d dm => reseqCheck_glb d t dm _) _ _)

@[simp] theorem mbrDown_glb (k : Nat) : d.KeepsGlb (d.mbrDown k) := by
  unfold Dev.mbrDown
  dsimp only
  split <;> simp (disch := decide)

/-! A port's fall, and what else a carve or a gate list changes (R63, R131, R232) -/

@[simp] theorem portFalls_glb (p : Nat) : d.KeepsGlb (d.portFalls p) := by
  unfold Dev.portFalls
  dsimp only
  split <;> simp (disch := decide)

@[simp] theorem portDownAny_glb (p : Nat) : d.KeepsGlb (d.portDownAny p) := by
  unfold Dev.portDownAny Dev.portDownNow
  dsimp only
  (repeat' split) <;> simp (disch := decide)

@[simp] theorem gatePend_glb (p : Nat) : d.KeepsGlb (d.gatePend p) := by
  simp (disch := decide) [Dev.gatePend]


end

end Sys2Proof.Machine
end


-- ==== Sys2Proof/Proofs/SliceFrames.lean ====
section
open Sys2Proof Sys2Proof.Machine
namespace Sys2Proof.Machine

/-! A slice's fall and its start leave the clock and block GLB alone (R73, R78). -/

section
variable (d : Dev)

/-! A slice's fall (R78 steps 2 and 3, R220) -/

@[simp] theorem epochDrop_glb (h : Option (Nat × Nat)) : d.KeepsGlb (d.epochDrop h) := by
  unfold Dev.epochDrop
  split <;> exact ⟨rfl, rfl⟩

@[simp] theorem recoverDrop_glb (p : Pkt) : d.KeepsGlb (d.recoverDrop p) := by
  unfold Dev.recoverDrop
  dsimp only
  (repeat' split) <;> simp (disch := decide)

theorem recoverIngress_glb (s : Nat) : d.KeepsGlb (d.recoverIngress s) :=
  (forAll_glb recoverDrop_glb _ d).trans (updSl_glb _ s _)

@[simp] theorem disarm_glb (c : Nat) : d.KeepsGlb (d.disarm c) := by
  unfold Dev.disarm
  simp (disch := decide)

theorem rcStop_glb (c err : Nat) : d.KeepsGlb (d.rcStop c err) := by
  unfold Dev.rcStop
  dsimp only
  split
  · exact .refl d
  · refine Dev.KeepsGlb.trans ?_ (forAll_glb (fun d y => evalPort_glb d _) _ _)
    (repeat' split) <;> simp (disch := decide)

theorem carFalls_glb (c : Nat) {fall : Nat → Dev → Dev} (hf : ∀ p (d : Dev), d.KeepsGlb (fall p d)) :
    d.KeepsGlb (d.carFalls c fall) := by
  unfold Dev.carFalls
  split
  · exact .refl d
  · exact ((fset_glb d _ _ _ (by decide)).trans (cnt_glb _ _ _ _ (by decide))).trans (forAll_glb (fun d p => hf p d) _ _)

theorem recoverCarrier_glb (c : Nat) : d.KeepsGlb (d.recoverCarrier c) := by
  unfold Dev.recoverCarrier
  dsimp only
  refine Dev.KeepsGlb.trans (Dev.KeepsGlb.trans ?_ (carFalls_glb _ c fun p d => portDownAny_glb d p)) (updCar_glb _ c _)
  split
  · exact ((rcStop_glb d c 5).trans (disarm_glb _ c)).trans (fset_glb _ _ _ _ (by decide))
  · exact rcStop_glb d c 5

theorem recoverPort_glb (p : Nat) : d.KeepsGlb (d.recoverPort p) :=
  ((((portDownAny_glb d p).trans (discardPort_glb _ p)).trans (mcPortDown_glb _ p)).trans
    (forAll_glb (fun d q => updLq_glb d q _) _ _)).trans (updPt_glb _ p _)

theorem discardIf_glb (q : Nat) (sel : QPkt → Bool) : d.KeepsGlb (d.discardIf q sel) := by
  unfold Dev.discardIf
  dsimp only
  split <;> simp (disch := decide)

/-- Packets that a row's write queue loses (R220). -/
theorem rowLost_glb (s n : Nat) : d.KeepsGlb (if n = 0 then d else d.cnt F.XPF_WRQ_DROP_COUNT s n) := by
  split <;> simp (disch := decide)

theorem mcs_glb (l : List McPkt) : d.KeepsGlb { d with tm.mcs := l } := ⟨rfl, rfl⟩

theorem recoverRow_glb (s : Nat) : d.KeepsGlb (d.recoverRow s) := by
  unfold Dev.recoverRow
  extract_lets mine lost cut queues gone counted tm left
  have hcut : d.KeepsGlb cut := by
    refine forAll_glb (fun d y => ?_) _ d
    refine ((lineDone_glb d _).trans (cutTx_glb _ _ _ _)).trans (forAll_glb (fun d t => ?_) _ _)
    split
    · exact ((rowLost_glb d s 1).trans (cnt_glb _ _ _ _ (by decide))).trans (cnt_glb _ _ _ _ (by decide))
    · exact rowLost_glb d s 1
  have hqueues : cut.KeepsGlb queues := forAll_glb (fun d y => (discardIf_glb d _ _).trans (rowLost_glb _ s _)) _ cut
  exact ((((hcut.trans hqueues).trans (rowLost_glb queues s _)).trans (mcs_glb counted _)).trans (forAll_glb showRes_glb _ left)).trans
    (freeAll_glb _ _)

theorem recoverColumn_glb (s : Nat) : d.KeepsGlb (d.recoverColumn s) := by
  unfold Dev.recoverColumn
  extract_lets cut gone tm left
  have hcut : d.KeepsGlb cut := forAll_glb (fun d y => cutTx_glb d _ _ _) _ d
  exact ((hcut.trans (mcs_glb cut _)).trans (showRes_glb left s)).trans (freeAll_glb _ _)

theorem recoverStop_glb (s : Nat) : d.KeepsGlb (d.recoverStop s) :=
  ((((recoverRow_glb d s).trans (recoverColumn_glb _ s)).trans (forAll_glb recoverCarrier_glb _ _)).trans
    (forAll_glb recoverPort_glb _ _)).trans (recoverIngress_glb _ s)

/-! A slice's start (R73, R97 to R100, R131) -/

theorem setBank_glb (s b v : Nat) : d.KeepsGlb (d.setBank s b v) := by
  refine fset_glb d _ _ _ ?_
  unfold bankFld
  split <;> decide

theorem clsStart_glb (s : Nat) : d.KeepsGlb (d.clsStart s) :=
  (((setBank_glb d s 0 _).trans (setBank_glb _ s 1 _)).trans (fset_glb _ _ _ _ (by decide))).trans (fset_glb _ _ _ _ (by decide))

theorem showCarRate_glb (c : Nat) : d.KeepsGlb (d.showCarRate c) :=
  (fset_glb d _ _ _ (by decide)).trans (fset_glb _ _ _ _ (by decide))

theorem showHeld_glb (k : Nat) : d.KeepsGlb (d.showHeld k) := by
  unfold Dev.showHeld
  dsimp only
  split
  · exact fset_glb d _ _ _ (by decide)
  · refine (fset_glb d _ _ _ (by decide)).trans (forAll_glb (fun d p => ?_) _ _)
    split <;> simp (disch := decide)

theorem settleMbrs_glb (k : Nat) : d.KeepsGlb (d.settleMbrs k) := by
  unfold Dev.settleMbrs
  split
  · exact .refl d
  · refine forAll_glb (fun d p => ?_) _ d
    split
    · exact updMbr_glb d _ _
    · exact .refl d

theorem clearHeads_glb (p : Nat) : d.KeepsGlb (d.clearHeads p) := by
  refine forAll_glb (fun d q => ?_) _ d
  unfold Dev.clearHead
  split <;> simp

theorem stopHeads_glb (p : Nat) : d.KeepsGlb (d.stopHeads p) := by
  unfold Dev.stopHeads
  split
  · split
    · exact clearHeads_glb d _
    · exact .refl d
  · exact clearHeads_glb d p

theorem holdNow_glb (k : Nat) : d.KeepsGlb (d.holdNow k) := by
  unfold Dev.holdNow
  dsimp only
  split
  · exact setHeld_glb d k _
  · exact (((settleMbrs_glb d k).trans (setHeld_glb _ k _)).trans (showHeld_glb _ k)).trans (forAll_glb stopHeads_glb _ _)

theorem holdEnd_glb (p c : Nat) : d.KeepsGlb (d.holdEnd p c) := by
  unfold Dev.holdEnd Dev.teamHoldEnd
  dsimp only
  (repeat' split) <;> simp (disch := decide)

theorem sample_glb (r : List Byte) : d.KeepsGlb (d.sample r) := by
  unfold Dev.sample Dev.addStream
  dsimp only
  split
  · exact cnt_glb d _ _ _ (by decide)
  · exact ⟨rfl, rfl⟩

theorem expired_glb (x : QPkt) (t : Nat) : d.KeepsGlb (d.expired x t) := by
  unfold Dev.expired
  extract_lets counted
  have hcounted : d.KeepsGlb counted := (cnt_glb d _ _ _ (by decide)).trans (pl_glb _ _ _ _)
  split
  · exact hcounted.trans (sample_glb counted _)
  · exact hcounted

theorem resumeTx_glb (p c : Nat) : d.KeepsGlb (d.resumeTx p c) := by
  unfold Dev.resumeTx
  dsimp only
  split
  · exact .refl d
  · exact (((updPt_glb d p _).trans (forAll_glb (fun d g => expired_glb d _ _) _ _)).trans (settleMc_glb _)).trans (freeAll_glb _ _)

theorem unhold_glb (k : Nat) : d.KeepsGlb (d.unhold k) := by
  unfold Dev.unhold
  dsimp only
  split
  · exact settleHold_glb d k
  · exact (((((settleHold_glb d k).trans (forAll_glb begins_glb _ _)).trans (settleMbrs_glb _ k)).trans (setHeld_glb _ k _)).trans
      (showHeld_glb _ k)).trans (forAll_glb (fun d p => (holdEnd_glb d p _).trans (resumeTx_glb _ p _)) _ _)

theorem letGo_glb (k : Nat) : d.KeepsGlb (d.letGo k) := by
  unfold Dev.letGo
  extract_lets ns
  split
  · exact unhold_glb d k
  · split
    · exact setHeld_glb d k _
    · exact .refl d

theorem reselect_glb (k n : Nat) : d.KeepsGlb (d.reselect k n) := by
  unfold Dev.reselect
  split
  · exact holdNow_glb d k
  · exact letGo_glb d k

theorem carrierStart_glb (c : Nat) : d.KeepsGlb (d.carrierStart c) :=
  ((updCar_glb d c _).trans (showCarRate_glb _ c)).trans (reselect_glb _ _ _)

theorem portStart_glb (p : Nat) : d.KeepsGlb (d.portStart p) := by
  unfold Dev.portStart
  extract_lets enabled held
  have hheld : d.KeepsGlb held := by
    refine (updPt_glb d p _ : d.KeepsGlb enabled).trans ?_
    unfold held
    split
    · exact reselect_glb enabled p _
    · exact .refl enabled
  split
  · exact hheld.trans (gatePend_glb held p)
  · exact hheld

theorem formTeam_glb (t : Nat) : d.KeepsGlb (d.formTeam t) := by
  unfold Dev.formTeam
  split
  · exact .refl d
  · exact ((fset_glb d _ _ _ (by decide)).trans
      (forAll_glb (fun d k => (fset_glb d _ _ _ (by decide)).trans (updMbr_glb _ k _)) _ _)).trans
      (teamRates_glb _ t true)

end

end Sys2Proof.Machine
end


-- ==== Sys2Proof/Proofs/ClusterStates.lean ====
section
open Sys2Proof Sys2Proof.Machine
namespace Sys2Proof.Machine

/-! Clusters that are held and released (R75, R76, R340) -/

/-! What a cluster's reset and its threads' start leave of block GLB -/

section
variable (d : Dev)

theorem Dev.PmuOnly.glb {d e : Dev} (h : d.PmuOnly e) : d.KeepsGlb e := ⟨h.cycle, congrArg lowRegs h.regs⟩

theorem updThr_glb (t : Nat) (f : Thread → Thread) : d.KeepsGlb (d.updThr t f) := ⟨rfl, rfl⟩

theorem settle_glb (t : Nat) : d.KeepsGlb (d.settle t) := (Dev.passed_only d t).glb.trans (updThr_glb _ t _)

theorem stallWatch_glb (t : Nat) : d.KeepsGlb (d.stallWatch t) := by
  refine ⟨?_, congrArg lowRegs (Dev.stallWatch_regs d t)⟩
  unfold Dev.stallWatch
  dsimp only
  (repeat' split) <;> rfl

theorem voidTask_glb (i : Nat) : d.KeepsGlb (d.voidTask i) := by
  have hgone := ((updThr_glb d (d.task i).thread (fun x => { x with task := none })).trans
    (fset_glb _ F.THREAD_STATUS_TASK_HELD (d.task i).thread 0 (by decide))).trans (epochDrop_glb _ (d.task i).epoch)
  unfold Dev.voidTask
  dsimp only
  split
  · exact hgone.trans ⟨rfl, rfl⟩
  · exact hgone.trans ⟨rfl, rfl⟩

theorem dropSlot_only (t : Nat) : d.PmuOnly (d.dropSlot t) := by
  unfold Dev.dropSlot
  split
  · exact .refl d
  · exact .refl d
  · exact Dev.closeSlot_only d t 5

/-- The registers of a thread that a cluster's reset returns to their reset values. -/
def threadResets : List Nat := [R.THREAD_STATUS, R.THREAD_PC, R.THREAD_FAULT_CODE, R.THREAD_FAULT_PC, R.THREAD_FAULT_ADDR, R.THREAD_TCMP_NS,
  R.THREAD_TCMP_SEC, R.THREAD_HANDLER, R.THREAD_WMASK, R.DBG_CTRL, R.DBG_STATUS, R.DBG_PC, R.DBG_BP]

/-- A task that a thread holds ends void as the thread is reset. -/
def Dev.taskVoided (d : Dev) (t : Nat) : Dev :=
  match (d.thr t).task with
  | some h => d.voidTask (h % 4096)
  | none => d

/-- A reset thread's own state. -/
def Dev.threadFresh (d : Dev) (t : Nat) : Dev :=
  ((d.settle t).dropSlot t).updThr t (fun x => { (default : Thread) with posted := x.posted, slotsAt := x.slotsAt })

theorem resetThread_eq (t : Nat) : d.resetThread t =
    forAll threadResets (fun d off => d.rset off t (resetWord off)) ((d.taskVoided t).threadFresh t) := rfl

theorem taskVoided_glb (t : Nat) : d.KeepsGlb (d.taskVoided t) := by
  unfold Dev.taskVoided
  split
  · exact voidTask_glb d _
  · exact .refl d

theorem threadFresh_glb (t : Nat) : d.KeepsGlb (d.threadFresh t) :=
  ((settle_glb d t).trans (dropSlot_only _ t).glb).trans (updThr_glb _ t _)

theorem forAll_rset_glb (t : Nat) (l : List Nat) (hl : ∀ off ∈ l, R.HLD_CTRL ≤ off) :
    d.KeepsGlb (forAll l (fun d off => d.rset off t (resetWord off)) d) := by
  induction l generalizing d with
  | nil => exact .refl d
  | cons off l ih => exact (rset_glb d off t _ (hl off List.mem_cons_self)).trans (ih _ fun o ho => hl o (List.mem_cons_of_mem off ho))

theorem resetThread_glb (t : Nat) : d.KeepsGlb (d.resetThread t) := by
  rw [resetThread_eq]
  exact ((taskVoided_glb d t).trans (threadFresh_glb _ t)).trans (forAll_rset_glb _ t threadResets (by decide))

theorem updEng_glb (e : Nat) (f : CrcEng → CrcEng) : d.KeepsGlb (d.updEng e f) := ⟨rfl, rfl⟩

theorem enginePos_glb (e pos : Nat) (data : List Byte) : d.KeepsGlb (d.enginePos e pos data) :=
  (updEng_glb d e _).trans (fset_glb _ F.CKU_ENG_STATUS_POS e pos (by decide))

theorem engineAbandon_glb (e : Nat) : d.KeepsGlb (d.engineAbandon e) := by
  unfold Dev.engineAbandon
  split
  · exact .refl d
  · exact ((enginePos_glb d e 0 []).trans (cnt_glb _ _ _ _ (by decide))).trans (fset_glb _ _ _ _ (by decide))

theorem engineReset_glb (e : Nat) : d.KeepsGlb (d.engineReset e) := by
  unfold Dev.engineReset
  exact (engineAbandon_glb d e).trans (updEng_glb _ e _)

theorem withDrv_glb (x : DrvSt) : d.KeepsGlb { d with drv := x } := ⟨rfl, rfl⟩

theorem resetCluster_glb (k : Nat) : d.KeepsGlb (d.resetCluster k) := by
  unfold Dev.resetCluster
  extract_lets threads drv caches engines
  have hthreads : d.KeepsGlb threads := forAll_glb resetThread_glb _ d
  have hcaches : threads.KeepsGlb caches := withDrv_glb threads _
  have hengines : caches.KeepsGlb engines := by
    refine forAll_glb (fun d e => ?_) _ caches
    split
    · exact engineReset_glb d e
    · exact .refl d
  exact ((hthreads.trans hcaches).trans hengines).trans (withDrv_glb engines _)

theorem enter_glb (t st : Nat) (w : Hold) : d.KeepsGlb (d.enter t st w) :=
  (((settle_glb d t).trans (fset_glb _ F.THREAD_STATUS_STATE t st (by decide))).trans (updThr_glb _ t _)).trans (stallWatch_glb _ t)

theorem startThread_glb (t : Nat) : d.KeepsGlb (d.startThread t) := by
  unfold Dev.startThread
  extract_lets settled thread fresh marked
  have hfresh : settled.KeepsGlb fresh := updThr_glb settled t _
  have hmarked : d.KeepsGlb marked := ((((settle_glb d t).trans hfresh).trans
    (fset_glb _ F.THREAD_STATUS_IN_TRAP t 0 (by decide))).trans (fset_glb _ F.THREAD_STATUS_TASK_HELD t 0 (by decide))).trans
    (fset_glb _ F.DBG_STATUS_HALTED t 0 (by decide))
  exact (hmarked.trans (fset_glb _ F.DBG_STATUS_CAUSE t 0 (by decide))).trans (enter_glb _ t 1 .none)

theorem releaseCluster_glb (k : Nat) : d.KeepsGlb (d.releaseCluster k) := by
  refine forAll_glb (fun d t => ?_) _ d
  split
  · exact startThread_glb d t
  · exact .refl d

/-- Whether a cluster is held is a bit of GLB_CLUSTER_HOLD. -/
theorem clusterHeld_eq {k : Nat} (hk : k < 8) : d.clusterHeld k = (d.fget ⟨R.GLB_CLUSTER_HOLD, k, 1⟩ == 1) := by
  have hbits (w : Nat) : bits w 0 8 / 2 ^ k % 2 = bits w k 1 := by
    obtain rfl | rfl | rfl | rfl | rfl | rfl | rfl | rfl :
        k = 0 ∨ k = 1 ∨ k = 2 ∨ k = 3 ∨ k = 4 ∨ k = 5 ∨ k = 6 ∨ k = 7 := by omega
    all_goals
      simp only [bits]
      omega
  exact congrArg (· == 1) (hbits _)

theorem Dev.KeepsGlb.clusterHeld {d e : Dev} (h : d.KeepsGlb e) {k : Nat} (hk : k < 8) : e.clusterHeld k = d.clusterHeld k := by
  rw [clusterHeld_eq e hk, clusterHeld_eq d hk, h.fget (by decide : R.GLB_CLUSTER_HOLD < R.HLD_CTRL) (Nat.two_pow_pos 20)]

theorem clusterHeld_fset {k : Nat} (hk : k < 8) (v : Nat) : (d.fset ⟨R.GLB_CLUSTER_HOLD, k, 1⟩ 0 v).clusterHeld k = (v % 2 == 1) := by
  rw [clusterHeld_eq _ hk, Dev.fget_fset _ _ _ _ (by show k + 1 ≤ 32; omega)]
  rfl

end

/-! A thread over the resets and starts of others (R76, R340) -/

/-- What a thread does stands: its STATE and what it waits for. -/
def Dev.SparesState (t : Nat) (d e : Dev) : Prop := e.tstate t = d.tstate t ∧ (e.thr t).hold = (d.thr t).hold

/-- The registers that say where a thread starts and what it does. -/
def startRegsOf : List Nat := [R.THREAD_STATUS, R.THREAD_CFG, R.THREAD_ENTRY]

/-- A thread and the registers that its start goes by stand. -/
structure Dev.Spares (t : Nat) (d e : Dev) : Prop where
  thr : e.thr t = d.thr t
  regs : ∀ off ∈ startRegsOf, e.rget off t = d.rget off t

theorem Dev.SparesState.trans {t : Nat} {d e f : Dev} (hde : d.SparesState t e) (hef : e.SparesState t f) : d.SparesState t f :=
  ⟨hef.1.trans hde.1, hef.2.trans hde.2⟩

theorem Dev.Spares.trans {t : Nat} {d e f : Dev} (hde : d.Spares t e) (hef : e.Spares t f) : d.Spares t f :=
  ⟨hef.thr.trans hde.thr, fun off ho => (hef.regs off ho).trans (hde.regs off ho)⟩

theorem Dev.Spares.refl (t : Nat) (d : Dev) : d.Spares t d := ⟨rfl, fun _ _ => rfl⟩

theorem Dev.Spares.state {t : Nat} {d e : Dev} (h : d.Spares t e) : d.SparesState t e :=
  ⟨Dev.fget_of_rget (h.regs R.THREAD_STATUS (by decide)), congrArg Thread.hold h.thr⟩

/-- The same registers and the same threads. -/
theorem Dev.Spares.of_eq {t : Nat} {d e : Dev} (hr : e.regs = d.regs) (ht : e.drv.threads = d.drv.threads) : d.Spares t e :=
  ⟨Dev.thr_congr ht t, fun off _ => Dev.rget_congr hr off t⟩

theorem Dev.PmuOnly.spares {d e : Dev} (h : d.PmuOnly e) (t : Nat) : d.Spares t e := .of_eq h.regs (congrArg DrvSt.threads h.drv)

section
variable {t n : Nat} (hn : n ≠ t)
include hn

theorem updThr_spares (d : Dev) (f : Thread → Thread) : d.Spares t (d.updThr n f) :=
  ⟨(Dev.thr_updThr d n t f).trans (if_neg hn.symm), fun _ _ => rfl⟩

theorem settle_spares (d : Dev) : d.Spares t (d.settle n) := ((Dev.passed_only d n).spares t).trans (updThr_spares hn _ _)

theorem threadFresh_spares (d : Dev) : d.Spares t (d.threadFresh n) :=
  ((settle_spares hn d).trans ((dropSlot_only _ n).spares t)).trans (updThr_spares hn _ _)

variable (ht : t < 2 ^ 20) (hn' : n < 2 ^ 20)
include ht hn'

theorem rset_spares (d : Dev) (off : Nat) (v : Word) : d.Spares t (d.rset off n v) :=
  ⟨rfl, fun _ _ => Dev.rget_rset_other d v hn' ht (.inr hn.symm)⟩

theorem fset_spares (d : Dev) (f : Fld) (v : Nat) : d.Spares t (d.fset f n v) := rset_spares hn ht hn' d f.off _

theorem enter_spares (d : Dev) (st : Nat) (w : Hold) : d.Spares t (d.enter n st w) :=
  (((settle_spares hn d).trans (fset_spares hn ht hn' _ F.THREAD_STATUS_STATE st)).trans (updThr_spares hn _ _)).trans
    ⟨Dev.stallWatch_thr _ n t, fun off _ => Dev.rget_congr (Dev.stallWatch_regs _ n) off t⟩

theorem startThread_spares (d : Dev) : d.Spares t (d.startThread n) := by
  unfold Dev.startThread
  extract_lets settled thread fresh marked
  have hfresh : settled.Spares t fresh := updThr_spares hn settled _
  have hmarked : d.Spares t marked := ((((settle_spares hn d).trans hfresh).trans
    (fset_spares hn ht hn' _ F.THREAD_STATUS_IN_TRAP 0)).trans (fset_spares hn ht hn' _ F.THREAD_STATUS_TASK_HELD 0)).trans
    (fset_spares hn ht hn' _ F.DBG_STATUS_HALTED 0)
  exact (hmarked.trans (fset_spares hn ht hn' _ F.DBG_STATUS_CAUSE 0)).trans (enter_spares hn ht hn' _ 1 .none)

theorem forAll_rset_spares (d : Dev) (l : List Nat) : d.Spares t (forAll l (fun d off => d.rset off n (resetWord off)) d) := by
  induction l generalizing d with
  | nil => exact .refl t d
  | cons off l ih => exact (rset_spares hn ht hn' d off _).trans (ih _)

end

theorem epochDrop_spares (d : Dev) (h : Option (Nat × Nat)) (t : Nat) : d.Spares t (d.epochDrop h) := by
  unfold Dev.epochDrop
  split
  · exact .refl t d
  · exact .of_eq rfl rfl

/-- A void task of any thread leaves every thread's STATE and what it waits for. -/
theorem voidTask_spares (d : Dev) (i t : Nat) : d.SparesState t (d.voidTask i) := by
  have hheld (n : Nat) : d.SparesState t ((d.updThr n (fun x => { x with task := none })).fset F.THREAD_STATUS_TASK_HELD n 0) := by
    refine ⟨?_, ?_⟩
    · refine (Dev.fget_fset_apart _ F.THREAD_STATUS_TASK_HELD F.THREAD_STATUS_STATE (by decide) ?_).trans (Dev.fget_congr rfl _ _)
      by_cases h : t = n
      · exact .inr ⟨rfl, h, by decide⟩
      · exact .inl (by simp only [regKey]; omega)
    · rw [Dev.fset_thr, Dev.thr_updThr]
      split
      · next h => rw [h]
      · rfl
  have hgone := (hheld (d.task i).thread).trans (epochDrop_spares _ (d.task i).epoch t).state
  unfold Dev.voidTask
  dsimp only
  split
  · exact hgone.trans ⟨rfl, rfl⟩
  · exact hgone.trans ⟨rfl, rfl⟩

theorem taskVoided_spares (d : Dev) (n t : Nat) : d.SparesState t (d.taskVoided n) := by
  unfold Dev.taskVoided
  split
  · exact voidTask_spares d _ t
  · exact ⟨rfl, rfl⟩

theorem resetThread_spares (d : Dev) {n t : Nat} (hn : n ≠ t) (ht : t < 2 ^ 20) (hn' : n < 2 ^ 20) :
    d.SparesState t (d.resetThread n) := by
  rw [resetThread_eq]
  exact (taskVoided_spares d n t).trans ((threadFresh_spares hn _).trans (forAll_rset_spares hn ht hn' _ threadResets)).state

/-- A thread that a cluster's reset reaches is OFF and waits for nothing. -/
theorem resetThread_off (d : Dev) {t : Nat} (ht : t < 2 ^ 20) :
    (d.resetThread t).tstate t = 0 ∧ ((d.resetThread t).thr t).hold = .none := by
  rw [resetThread_eq]
  generalize d.taskVoided t = e
  have hfresh : ((e.threadFresh t).thr t).hold = .none := by
    unfold Dev.threadFresh
    rw [Dev.thr_updThr_same]
    rfl
  generalize e.threadFresh t = f at hfresh
  refine ⟨?_, hfresh⟩
  have hrest : ((f.rset R.THREAD_STATUS t (resetWord R.THREAD_STATUS)).Reported threadResets.tail
      (forAll threadResets.tail (fun d off => d.rset off t (resetWord off)) (f.rset R.THREAD_STATUS t (resetWord R.THREAD_STATUS)))) :=
    Dev.Reported.forAll (.refl _ _) _ fun off ho h => h.rset off _ ho ht
  refine (hrest.fget F.THREAD_STATUS_STATE (by decide) ht).trans ?_
  rw [Dev.fget, Dev.rget_rset]
  decide

/-! All threads of a cluster -/

theorem mem_clusterThreads {k t : Nat} : t ∈ clusterThreads k ↔ 32 * k ≤ t ∧ t < 32 * k + 32 := by
  simp only [clusterThreads, List.mem_map, List.mem_range]
  constructor
  · rintro ⟨j, hj, rfl⟩
    omega
  · rintro ⟨h₁, h₂⟩
    exact ⟨t - 32 * k, by omega, by omega⟩

theorem lt_of_mem_clusterThreads {k t : Nat} (hk : k < 8) (h : t ∈ clusterThreads k) : t < 2 ^ 20 := by
  have := mem_clusterThreads.1 h
  omega

/-- What a step for an element brings about, and steps for others keep, holds of each element at the end. -/
theorem forAll_each {P : Nat → Dev → Prop} {f : Dev → Nat → Dev} {l : List Nat} (hself : ∀ d, ∀ t ∈ l, P t (f d t))
    (hkeep : ∀ d, ∀ n ∈ l, ∀ t, n ≠ t → P t d → P t (f d n)) (d : Dev) :
    (∀ t ∈ l, P t (forAll l f d)) ∧ ∀ t, t ∉ l → P t d → P t (forAll l f d) := by
  induction l generalizing d with
  | nil => exact ⟨fun t ht => absurd ht List.not_mem_nil, fun t _ h => h⟩
  | cons a l ih =>
    obtain ⟨hin, hout⟩ := ih (fun d t ht => hself d t (List.mem_cons_of_mem a ht))
      (fun d n hn => hkeep d n (List.mem_cons_of_mem a hn)) (f d a)
    refine ⟨fun t ht => ?_, fun t ht h => ?_⟩
    · by_cases hl : t ∈ l
      · exact hin t hl
      · obtain rfl : t = a := (List.mem_cons.1 ht).resolve_right hl
        exact hout t hl (hself d t ht)
    · obtain ⟨hne, hl⟩ := not_or.1 (fun h => ht (List.mem_cons.2 h))
      exact hout t hl (hkeep d a List.mem_cons_self t (Ne.symm hne) h)

section
variable {t : Nat} (ht : t < 2 ^ 20) (d : Dev)
include ht

theorem fset_off_spares (f : Fld) {i : Nat} (v : Nat) (hi : i < 2 ^ 20) (ho : R.THREAD_STATUS ≠ f.off) :
    d.SparesState t (d.fset f i v) := ⟨Dev.fget_of_rget (Dev.rget_fset_other d f hi ht (.inl ho)), rfl⟩

theorem cnt_off_spares (f : Fld) {i : Nat} (n : Nat) (hi : i < 2 ^ 20) (ho : R.THREAD_STATUS ≠ f.off) :
    d.SparesState t (d.cnt f i n) := by
  obtain ⟨v, hv⟩ | ⟨v, hv⟩ := Dev.cnt_cases d f i n <;> rw [hv]
  · exact fset_off_spares ht d f v hi ho
  · exact fset_off_spares ht (d.fresh f.w).2 f v hi ho

theorem engineReset_spares {e : Nat} (he : e < 2 ^ 20) : d.SparesState t (d.engineReset e) := by
  have habandon : d.SparesState t (d.engineAbandon e) := by
    unfold Dev.engineAbandon
    split
    · exact ⟨rfl, rfl⟩
    · exact ((fset_off_spares ht (d.updEng e _) F.CKU_ENG_STATUS_POS 0 he (by decide)).trans
        (cnt_off_spares ht _ F.CKU_ENG_ABANDON_COUNT 1 he (by decide))).trans
        (fset_off_spares ht _ F.CKU_ENG_STATUS_ABANDONED 1 he (by decide))
  exact habandon.trans ⟨rfl, rfl⟩

end

theorem withDrv_spares (d : Dev) {x : DrvSt} (hx : x.threads = d.drv.threads) (t : Nat) : d.SparesState t { d with drv := x } :=
  (Dev.Spares.of_eq (d := d) (e := { d with drv := x }) rfl hx).state

theorem Dev.SparesState.refl (t : Nat) (d : Dev) : d.SparesState t d := ⟨rfl, rfl⟩

/-- The engines that a cluster's reset resets leave what each thread does. -/
theorem enginesReset_spares {t : Nat} (ht : t < 2 ^ 20) (d : Dev) (k : Nat) : d.SparesState t
    (forAll (List.range 4) (fun d e => if (at0 d.cku e).writers.contains k then d.engineReset e else d) d) := by
  unfold forAll
  refine List.foldlRecOn (motive := fun e => d.SparesState t e) (List.range 4) _ (.refl t d) fun e h n hn => ?_
  split
  · exact h.trans (engineReset_spares ht e ((List.mem_range.1 hn).trans (by decide)))
  · exact h

/-- What a cluster's reset does beside its threads leaves what each thread does. -/
theorem resetCluster_spares (d : Dev) (k : Nat) {t : Nat} (ht : t < 2 ^ 20) :
    (forAll (clusterThreads k) (fun d t => d.resetThread t) d).SparesState t (d.resetCluster k) := by
  unfold Dev.resetCluster
  extract_lets threads drv caches engines
  have hthreads : forAll (clusterThreads k) (fun d t => d.resetThread t) d = threads := rfl
  have hdrv : drv.threads = threads.drv.threads := rfl
  rw [hthreads]
  clear_value threads drv
  have hcaches : threads.SparesState t caches := withDrv_spares threads hdrv t
  have hengines : caches.SparesState t engines := enginesReset_spares ht caches k
  clear_value engines
  exact (hcaches.trans hengines).trans (withDrv_spares engines rfl t)

/-- Every thread of a cluster that is reset is OFF and waits for nothing (R76, R340). -/
theorem resetCluster_off (d : Dev) {k : Nat} (hk : k < 8) :
    ∀ t ∈ clusterThreads k, (d.resetCluster k).tstate t = 0 ∧ ((d.resetCluster k).thr t).hold = .none := by
  intro t ht
  have hin : ∀ n ∈ clusterThreads k, n < 2 ^ 20 := fun n hn => lt_of_mem_clusterThreads hk hn
  have hall := (forAll_each (P := fun t e => t < 2 ^ 20 ∧ e.tstate t = 0 ∧ (e.thr t).hold = .none) (f := fun d t => d.resetThread t)
    (fun d t ht => ⟨hin t ht, resetThread_off d (hin t ht)⟩)
    (fun d n hn t hne ⟨hlt, hst, hhold⟩ =>
      have h := resetThread_spares d hne hlt (hin n hn)
      ⟨hlt, h.1.trans hst, h.2.trans hhold⟩) d).1 t ht
  obtain ⟨hlt, hst, hhold⟩ := hall
  have hrest := resetCluster_spares d k hlt
  exact ⟨hrest.1.trans hst, hrest.2.trans hhold⟩

/-- A cluster that is put on hold is held, its threads OFF. -/
theorem clusterHoldSet_holds {d : Dev} {k : Nat} (hk : k < 8) (h : d.clusterHeld k = false) : (clusterHoldSet k d).clusterHeld k = true ∧
    ∀ t ∈ clusterThreads k, (clusterHoldSet k d).tstate t = 0 ∧ ((clusterHoldSet k d).thr t).hold = .none := by
  have heq : clusterHoldSet k d = (d.fset ⟨R.GLB_CLUSTER_HOLD, k, 1⟩ 0 1).resetCluster k := if_neg (by simp [h])
  rw [heq]
  refine ⟨?_, resetCluster_off _ hk⟩
  rw [(resetCluster_glb _ k).clusterHeld hk, clusterHeld_fset d hk]
  rfl

/-! A release -/

/-- A thread that starts runs at its entry (R340). -/
theorem startThread_runs (d : Dev) (t : Nat) :
    (d.startThread t).tstate t = 1 ∧ ((d.startThread t).thr t).pc = d.fget F.THREAD_ENTRY_PC t := by
  unfold Dev.startThread
  extract_lets settled thread fresh marked
  refine ⟨?_, ?_⟩
  · refine (Dev.fget_congr (Dev.enter_regs _ t 1 .none) _ t).trans ?_
    exact Dev.fget_fset _ F.THREAD_STATUS_STATE t 1 (by decide)
  · rw [Dev.enter_thr, if_pos rfl]
    show (fresh.thr t).pc = _
    unfold fresh
    rw [Dev.thr_updThr_same]
    exact Dev.fget_congr (Dev.settle_regs d t) _ t

/-- A thread of ROLE 1 runs at its entry. -/
def Dev.RunsAtEntry (t : Nat) (d : Dev) : Prop :=
  t < 2 ^ 20 ∧ (d.fon F.THREAD_CFG_ROLE t = true → d.tstate t = 1 ∧ (d.thr t).pc = d.fget F.THREAD_ENTRY_PC t)

theorem Dev.RunsAtEntry.spared {t : Nat} {d e : Dev} (h : d.RunsAtEntry t) (hs : d.Spares t e) : e.RunsAtEntry t := by
  obtain ⟨ht, h⟩ := h
  have hentry : e.fget F.THREAD_ENTRY_PC t = d.fget F.THREAD_ENTRY_PC t := Dev.fget_of_rget (hs.regs _ (by decide))
  refine ⟨ht, fun hon => ?_⟩
  rw [Dev.fon, Dev.fget_of_rget (hs.regs F.THREAD_CFG_ROLE.off (by decide)), ← Dev.fon] at hon
  rw [hs.state.1, hs.thr, hentry]
  exact h hon

theorem startThread_runsAtEntry (d : Dev) {t : Nat} (ht : t < 2 ^ 20) : (d.startThread t).RunsAtEntry t := by
  obtain ⟨hst, hpc⟩ := startThread_runs d t
  have hreg := (Dev.Releasing.refl d).startThread ht
  exact ⟨ht, fun _ => ⟨hst, hpc.trans (Dev.fget_of_rget (hreg.regs _ t ht (by decide))).symm⟩⟩

/-- The ROLE 1 threads of a cluster that is released start at their entries (R76, R340). -/
theorem releaseCluster_runs (d : Dev) {k : Nat} (hk : k < 8) : ∀ t ∈ clusterThreads k, d.fon F.THREAD_CFG_ROLE t = true →
    (d.releaseCluster k).tstate t = 1 ∧ ((d.releaseCluster k).thr t).pc = d.fget F.THREAD_ENTRY_PC t := by
  intro t ht hon
  have hin : ∀ n ∈ clusterThreads k, n < 2 ^ 20 := fun n hn => lt_of_mem_clusterThreads hk hn
  obtain ⟨-, hruns⟩ := (forAll_each (P := Dev.RunsAtEntry) (f := fun d t => if d.fon F.THREAD_CFG_ROLE t then d.startThread t else d)
    (fun d t ht => by
      split
      · exact startThread_runsAtEntry d (hin t ht)
      · next h => exact ⟨hin t ht, fun hon => absurd hon h⟩)
    (fun d n hn t hne h => by
      split
      · exact h.spared (startThread_spares hne h.1 (hin n hn) d)
      · exact h) d).1 t ht
  have hreg : d.Releasing (d.releaseCluster k) := (Dev.Releasing.refl d).forAll _ fun n hn h => by
    split
    · exact h.startThread (hin n hn)
    · exact h
  have hcfg : (d.releaseCluster k).fon F.THREAD_CFG_ROLE t = true := by
    rw [Dev.fon, Dev.fget_of_rget (hreg.regs _ t (hin t ht) (by decide)), ← Dev.fon, hon]
  obtain ⟨hst, hpc⟩ := hruns hcfg
  exact ⟨hst, hpc.trans (Dev.fget_of_rget (hreg.regs _ t (hin t ht) (by decide)))⟩

/-- A held cluster that is released is not held, and its ROLE 1 threads run. -/
theorem clusterRelease_releases {d : Dev} {k : Nat} (hk : k < 8) (h : d.clusterHeld k = true) :
    (clusterRelease k d).clusterHeld k = false ∧
    ∀ t ∈ clusterThreads k, d.fon F.THREAD_CFG_ROLE t = true → (clusterRelease k d).tstate t = 1 ∧
      ((clusterRelease k d).thr t).pc = d.fget F.THREAD_ENTRY_PC t := by
  have h0 : (0 : Nat) < 2 ^ 20 := Nat.two_pow_pos 20
  have heq : clusterRelease k d = (d.fset ⟨R.GLB_CLUSTER_HOLD, k, 1⟩ 0 0).releaseCluster k := if_pos h
  rw [heq]
  refine ⟨?_, fun t ht hon => ?_⟩
  · rw [(releaseCluster_glb _ k).clusterHeld hk, clusterHeld_fset d hk]
    rfl
  · have hreg (f : Fld) (hf : f.off ≠ R.GLB_CLUSTER_HOLD) : (d.fset ⟨R.GLB_CLUSTER_HOLD, k, 1⟩ 0 0).fget f t = d.fget f t :=
      Dev.fget_of_rget (Dev.rget_fset_other d _ h0 (lt_of_mem_clusterThreads hk ht) (.inl hf))
    have hruns := releaseCluster_runs (d.fset ⟨R.GLB_CLUSTER_HOLD, k, 1⟩ 0 0) hk t ht
      (by rw [Dev.fon, hreg _ (by decide), ← Dev.fon, hon])
    rw [hreg _ (by decide)] at hruns
    exact hruns

end Sys2Proof.Machine
end


-- ==== Sys2Proof/Proofs/ServiceStates.lean ====
section
open Sys2Proof Sys2Proof.Machine
namespace Sys2Proof.Machine

/-! The state of one slice, and service and test requests (R66, R68, R69) -/

/-! What a slice that is put into a state shows -/

section
variable (d : Dev) (s : Nat)

theorem kindOf_setKind_other {t : Nat} (k : Nat) (h : t ≠ s) : (d.setKind s k).kindOf t = d.kindOf t :=
  (Sparse.get_set 0 d.life.kind s t k).trans (if_neg h)

theorem putSlice_releasing (st kind : Nat) : ((d.setSliceSt s st).setKind s kind).Releasing (d.putSlice s st kind) :=
  (Dev.Releasing.refl _).refresh

theorem putSlice_sliceSt {st : Nat} (kind : Nat) (hst : st < 16) : (d.putSlice s st kind).sliceSt s = st :=
  ((putSlice_releasing d s st kind).sliceSt s).trans (sliceSt_setSliceSt_same d s hst)

theorem putSlice_sliceSt_other {t : Nat} (st kind : Nat) (h : t ≠ s) (hs : s < 16) (ht : t < 16) :
    (d.putSlice s st kind).sliceSt t = d.sliceSt t :=
  ((putSlice_releasing d s st kind).sliceSt t).trans (sliceSt_setSliceSt_other d st h hs ht)

theorem putSlice_life (st kind : Nat) : (d.putSlice s st kind).life = { d.life with kind := Sparse.set 0 d.life.kind s kind } :=
  (putSlice_releasing d s st kind).life

theorem putSlice_kindOf (st kind : Nat) : (d.putSlice s st kind).kindOf s = kind :=
  (congrArg (fun l : LifeSt => Sparse.get 0 l.kind s) (putSlice_life d s st kind)).trans (kindOf_setKind d s kind)

theorem putSlice_cycle (st kind : Nat) : (d.putSlice s st kind).cycle = d.cycle :=
  (putSlice_releasing d s st kind).same (·.cycle) fun _ _ _ => rfl

end

/-! DEV as one slice moves (R66) -/

theorem mem_enabledSlices {d : Dev} {s : Nat} : s ∈ d.enabledSlices ↔ s < 16 ∧ d.sliceSt s ≠ stOff := by
  simp [Dev.enabledSlices]

/-- The boot load of an enabled slice keeps DEV in STRUCTURE. -/
theorem devOf_structure {d : Dev} {s : Nat} (hs : s ∈ d.enabledSlices) (hk : d.kindOf s = 1) : d.devOf = stStructure := by
  have hany : d.enabledSlices.any (fun s => d.kindOf s == 1) = true := List.any_eq_true.2 ⟨s, hs, beq_iff_eq.2 hk⟩
  exact if_pos hany

theorem devOf_lt (d : Dev) : d.devOf < 16 := by
  unfold Dev.devOf
  dsimp only
  (repeat' split) <;> decide

/-- DEV does not leave STRUCTURE: no cluster is released. -/
theorem refresh_stays {d : Dev} (hw : d.life.wide = false) (h : d.devSt = stStructure → d.devOf = stStructure) :
    d.refresh = d.setDevSt d.devOf := by
  unfold Dev.refresh
  rw [if_neg (by simp [hw])]
  refine if_neg fun hleft => ?_
  rw [devSt_setDevSt d (devOf_lt d), Bool.and_eq_true, beq_iff_eq, bne_iff_ne] at hleft
  exact hleft.2 (h hleft.1)

/-! Registers outside a list -/

theorem Dev.regsBut_trans {d e f : Dev} {l : List (Nat × Nat)} (hde : d.regsBut e l) (hef : e.regsBut f l) : d.regsBut f l :=
  fun off i hi ho => (hef off i hi ho).trans (hde off i hi ho)

theorem Dev.regsBut_fset (d : Dev) {l : List (Nat × Nat)} (f : Fld) {i : Nat} (v : Nat) (hi : i < 2 ^ 20) (h : (f.off, i) ∈ l) :
    d.regsBut (d.fset f i v) l := fun off j hj ho =>
  Dev.rget_fset_other d f hi hj (not_and_or.1 fun ⟨hoff, hij⟩ => ho (by rw [hoff, hij]; exact h))

/-- What a move of one slice may change of the registers. -/
def movedRegs : List (Nat × Nat) := [(R.GLB_STATE, 0), (R.GLB_SLICE_STATE_LO, 0), (R.GLB_SLICE_STATE_HI, 0), (R.GLB_BOOT_TIME, 0)]

theorem setDevSt_regsBut (d : Dev) (v : Nat) : d.regsBut (d.setDevSt v) movedRegs := by
  have hset (e : Dev) (f : Fld) (v : Nat) (h : (f.off, 0) ∈ movedRegs) : e.regsBut (e.fset f 0 v) movedRegs :=
    Dev.regsBut_fset e f v (Nat.two_pow_pos 20) h
  unfold Dev.setDevSt
  refine Dev.regsBut_trans ?_ (hset _ F.GLB_STATE_REGIME _ (by decide))
  split
  · exact fun _ _ _ _ => rfl
  · exact Dev.regsBut_trans (hset _ F.GLB_STATE_PREV _ (by decide)) (hset _ F.GLB_STATE_DEV _ (by decide))

theorem setSliceSt_regsBut (d : Dev) (s st : Nat) : d.regsBut (d.setSliceSt s st) movedRegs := by
  refine Dev.regsBut_fset d (stateFld s) st (Nat.two_pow_pos 20) ?_
  obtain h | h := stateFld_off s <;> rw [h] <;> decide

/-- What a request that moves a slice needs of the device: slices have states of their own, and another slice's boot load is why
DEV reads STRUCTURE, if it does. -/
structure Dev.MovesAlone (d : Dev) (s : Nat) : Prop where
  narrow : d.life.wide = false
  loads : d.devSt = stStructure → ∃ j ∈ d.enabledSlices, j ≠ s ∧ d.kindOf j = 1

/-- One slice shows a state, the others and all registers but those of the states stand. -/
structure Dev.Moved (d : Dev) (s v : Nat) (e : Dev) : Prop where
  own : e.sliceSt s = v
  others : ∀ j, j < 16 → j ≠ s → e.sliceSt j = d.sliceSt j
  regs : d.regsBut e movedRegs

theorem putSlice_regsBut {d : Dev} {s : Nat} (hs : s < 16) (h : d.MovesAlone s) (st kind : Nat) :
    d.regsBut (d.putSlice s st kind) movedRegs := by
  have hdev : (d.setSliceSt s st).devSt = d.devSt :=
    Dev.fget_of_rget (Dev.rget_fset_other d (stateFld s) (Nat.two_pow_pos 20) (Nat.two_pow_pos 20)
      (.inl (by obtain hf | hf := stateFld_off s <;> rw [hf] <;> decide)))
  have hstays : (d.putSlice s st kind) = ((d.setSliceSt s st).setKind s kind).setDevSt ((d.setSliceSt s st).setKind s kind).devOf := by
    refine refresh_stays h.narrow fun hst => ?_
    obtain ⟨j, hj, hne, hkind⟩ := h.loads (hdev.symm.trans hst)
    obtain ⟨hlt, hon⟩ := mem_enabledSlices.1 hj
    refine devOf_structure (mem_enabledSlices.2 ⟨hlt, ?_⟩) ((kindOf_setKind_other _ s kind hne).trans hkind)
    exact (sliceSt_setSliceSt_other d st hne hs hlt).trans_ne hon
  rw [hstays]
  exact Dev.regsBut_trans (setSliceSt_regsBut d s st) (setDevSt_regsBut ((d.setSliceSt s st).setKind s kind) _)

theorem putSlice_moved {d : Dev} {s : Nat} (hs : s < 16) (h : d.MovesAlone s) {st : Nat} (hst : st < 16) (kind : Nat) :
    d.Moved s st (d.putSlice s st kind) where
  own := putSlice_sliceSt d s kind hst
  others _ hj hne := putSlice_sliceSt_other d s st kind hne hs hj
  regs := putSlice_regsBut hs h st kind

/-- A slice that enters SERVICE; the first to do so shows how long the device took to come up (R69). -/
theorem serve_moved {d : Dev} {s : Nat} (hs : s < 16) (h : d.MovesAlone s) : d.Moved s stService (d.serve s) := by
  have hput := putSlice_moved hs h (by decide : stService < 16) 0
  unfold Dev.serve
  generalize d.putSlice s stService 0 = e at hput
  dsimp only
  split
  · exact hput
  · have htime : e.regsBut (e.fset F.GLB_BOOT_TIME_US 0 ((e.cycle - e.life.riseAt) / 3000)) movedRegs :=
      Dev.regsBut_fset e F.GLB_BOOT_TIME_US _ (Nat.two_pow_pos 20) (by decide)
    have hstate (j : Nat) : (e.fset F.GLB_BOOT_TIME_US 0 ((e.cycle - e.life.riseAt) / 3000)).sliceSt j = e.sliceSt j :=
      ((Dev.Reported.refl [R.GLB_BOOT_TIME] e).fset F.GLB_BOOT_TIME_US _ (by decide) (Nat.two_pow_pos 20)).sliceSt (by decide) (by decide) j
    exact ⟨(hstate s).trans hput.own, fun j hj hne => (hstate j).trans (hput.others j hj hne), Dev.regsBut_trans hput.regs htime⟩

/-! The requests -/

section
variable {s : State} {k : Fin 16} (hrun : s.dev.running = true) (h : s.dev.MovesAlone k)
include hrun h

theorem serviceRequest_gives (hst : s.dev.sliceSt k = stStartup ∨ s.dev.sliceSt k = stTest) :
    Gives (.serviceRequest k) s fun u => u.mem = s.mem ∧ s.dev.Moved k stService u.dev :=
  gives_event rfl hrun (if_pos ⟨by rw [h.narrow]; rfl, hst⟩) ⟨rfl, serve_moved k.isLt h⟩

theorem testRequest_gives (hst : s.dev.sliceSt k = stService) :
    Gives (.testRequest k) s fun u => u.mem = s.mem ∧ s.dev.Moved k stTest u.dev :=
  gives_event rfl hrun (if_pos ⟨by rw [h.narrow]; rfl, hst⟩) ⟨rfl, putSlice_moved k.isLt h (by decide : stTest < 16) 0⟩

theorem autoServiceEntry_gives (hst : s.dev.sliceSt k = stStartup) (hauto : s.dev.fon F.GLB_CTRL_AUTO_SERVICE = true) :
    Gives (.autoServiceEntry k) s fun u => u.mem = s.mem ∧ s.dev.Moved k stService u.dev :=
  gives_event rfl hrun (if_pos ⟨hauto, by rw [h.narrow]; rfl, hst⟩) ⟨rfl, serve_moved k.isLt h⟩

end

/-- A request that asks for what the slice cannot do changes nothing. -/
theorem event_same {s : State} (f : Dev → Dev) (hrun : s.dev.running = true) (h : f s.dev = s.dev) : event f s = .next s := by
  rw [event_running f hrun, h]

section
variable {s : State} {k : Fin 16} (hrun : s.dev.running = true)
include hrun

theorem serviceRequest_ignored (h₁ : s.dev.sliceSt k ≠ stStartup) (h₂ : s.dev.sliceSt k ≠ stTest) :
    exec (.serviceRequest k) s = .next s :=
  event_same _ hrun (if_neg fun ⟨_, h⟩ => h.elim h₁ h₂)

theorem testRequest_ignored (h : s.dev.sliceSt k ≠ stService) : exec (.testRequest k) s = .next s :=
  event_same _ hrun (if_neg fun ⟨_, hst⟩ => h hst)

theorem autoServiceEntry_ignored (h : s.dev.sliceSt k ≠ stStartup ∨ s.dev.fon F.GLB_CTRL_AUTO_SERVICE = false) :
    exec (.autoServiceEntry k) s = .next s :=
  event_same _ hrun (if_neg fun ⟨hauto, _, hst⟩ => h.elim (fun h => h hst) (fun h => Bool.false_ne_true (h.symm.trans hauto)))

end

/-! Cluster holds -/

section
variable {s : State} {k : Fin 8} (hrun : s.dev.running = true)
include hrun

theorem clusterHoldSet_ignored (h : s.dev.clusterHeld k = true) : exec (.clusterHoldSet k) s = .next s :=
  event_same _ hrun (if_pos h)

theorem clusterRelease_ignored (h : s.dev.clusterHeld k = false) : exec (.clusterRelease k) s = .next s := by
  have hsame : clusterRelease k s.dev = s.dev := if_neg (by simp [h])
  show clusterReleaseCmd k s = .next s
  unfold clusterReleaseCmd
  rw [if_neg (by simp [h])]
  exact event_same _ hrun hsame

theorem clusterHoldSet_gives (h : s.dev.clusterHeld k = false) :
    Gives (.clusterHoldSet k) s fun u => u.mem = s.mem ∧ u.dev.clusterHeld k = true ∧
      ∀ t ∈ clusterThreads k, u.dev.tstate t = 0 ∧ (u.dev.thr t).hold = .none :=
  gives_event rfl hrun rfl ⟨rfl, clusterHoldSet_holds k.isLt h⟩

theorem clusterRelease_gives (h : s.dev.clusterHeld k = true) (hfw : bit s.dev.ld.fw k = true) :
    Gives (.clusterRelease k) s fun u => u.mem = s.mem ∧ u.dev.clusterHeld k = false ∧
      ∀ t ∈ clusterThreads k, s.dev.fon F.THREAD_CFG_ROLE t = true →
        u.dev.tstate t = 1 ∧ (u.dev.thr t).pc = s.dev.fget F.THREAD_ENTRY_PC t := by
  have hcmd : exec (.clusterRelease k) s = event (clusterRelease k) s := by
    show clusterReleaseCmd k s = _
    unfold clusterReleaseCmd
    exact if_neg (by simp [hfw])
  exact gives_event hcmd hrun rfl ⟨rfl, clusterRelease_releases k.isLt h⟩

/-- A cluster without firmware is not released (R76). -/
theorem clusterRelease_unpredictable (h : s.dev.clusterHeld k = true) (hfw : bit s.dev.ld.fw k = false) :
    exec (.clusterRelease k) s = .fault (.unpredictable 76) :=
  if_pos (by simp [hrun, h, hfw])

end

/-- Settles O12: a request moves its slice or does nothing, and a cluster's hold and release reach every thread of it. -/
theorem serviceStatesOfSlices : Obligations.service_states_of_slices := by
  unfold Obligations.service_states_of_slices
  intro s k hrun
  refine ⟨fun hnarrow hloads => ?_, fun c => ⟨clusterHoldSet_ignored hrun, fun h => ⟨clusterHoldSet_gives hrun h,
    clusterRelease_ignored hrun h⟩, clusterRelease_gives hrun, clusterRelease_unpredictable hrun⟩⟩
  have hmoves : s.dev.MovesAlone k := ⟨hnarrow, hloads⟩
  have hmoved {c : Instr} {v : Nat} (h : Gives c s fun u => u.mem = s.mem ∧ s.dev.Moved k v u.dev) : Gives c s fun u => u.mem = s.mem ∧
      u.dev.sliceSt k = v ∧ (∀ j, j < 16 → j ≠ k.val → u.dev.sliceSt j = s.dev.sliceSt j) ∧ s.dev.regsBut u.dev movedRegs := by
    obtain ⟨u, hu, hp, hmem, hm⟩ := h
    exact ⟨u, hu, hp, hmem, hm.own, hm.others, hm.regs⟩
  exact ⟨fun h => hmoved (serviceRequest_gives hrun hmoves h), serviceRequest_ignored hrun,
    fun h => hmoved (testRequest_gives hrun hmoves h), testRequest_ignored hrun,
    fun h hauto => hmoved (autoServiceEntry_gives hrun hmoves h hauto), autoServiceEntry_ignored hrun⟩

end Sys2Proof.Machine
end


-- ==== Sys2Proof/Proofs/Recoveries.lean ====
section
open Sys2Proof Sys2Proof.Machine
namespace Sys2Proof.Machine

/-! A recovery starts: the slice's state, its cause, the clock (R77 to R79) -/

/-- The nibble of a slice's cause (R78). -/
def causeFld (s : Nat) : Fld := nibble R.GLB_SLICE_CAUSE_LO R.GLB_SLICE_CAUSE_HI s

theorem causeFld_fits (s : Nat) : (causeFld s).lo + (causeFld s).w ≤ 32 := by
  show s % 8 * 4 + 4 ≤ 32
  omega

theorem causeFld_off (s : Nat) : (causeFld s).off = R.GLB_SLICE_CAUSE_LO ∨ (causeFld s).off = R.GLB_SLICE_CAUSE_HI := ite_eq_or_eq _ _ _

theorem causeFld_low (s : Nat) : (causeFld s).off < R.HLD_CTRL := by
  obtain h | h := causeFld_off s <;> rw [h] <;> decide

theorem stateFld_low (s : Nat) : (stateFld s).off < R.HLD_CTRL := by
  obtain h | h := stateFld_off s <;> rw [h] <;> decide

theorem Dev.KeepsGlb.sliceSt {d e : Dev} (h : d.KeepsGlb e) (s : Nat) : e.sliceSt s = d.sliceSt s :=
  h.fget (f := stateFld s) (stateFld_low s) (Nat.two_pow_pos 20)

theorem Dev.KeepsGlb.cause {d e : Dev} (h : d.KeepsGlb e) (s : Nat) : e.fget (causeFld s) = d.fget (causeFld s) :=
  h.fget (causeFld_low s) (Nat.two_pow_pos 20)

/-- A slice's cause is shown beside its state. -/
theorem sliceSt_setCause (d : Dev) (s t v : Nat) : (d.fset (causeFld s) 0 v).sliceSt t = d.sliceSt t := by
  refine Dev.fget_of_rget (f := stateFld t) (Dev.rget_fset_other d (causeFld s) (Nat.two_pow_pos 20) (Nat.two_pow_pos 20) (.inl ?_))
  obtain h | h := stateFld_off t <;> obtain h' | h' := causeFld_off s <;> rw [h, h'] <;> decide

theorem fget_setCause (d : Dev) (s : Nat) {v : Nat} (hv : v < 16) : (d.fset (causeFld s) 0 v).fget (causeFld s) = v :=
  (Dev.fget_fset d (causeFld s) 0 v (causeFld_fits s)).trans (Nat.mod_eq_of_lt hv)

/-- The registers of a recovery's event. -/
def recoverRegs : List Nat := R.GLB_RECOVERY_CNT :: alarmRegs

theorem recoverEvent_reported (d : Dev) (s cause : Nat) : (d.fset (causeFld s) 0 cause).Reported recoverRegs (d.recoverEvent s cause) := by
  have hcnt := (Dev.Reported.refl recoverRegs (d.fset (causeFld s) 0 cause)).cnt F.GLB_RECOVERY_CNT_COUNT 1 (by decide) (Nat.two_pow_pos 20)
  unfold Dev.recoverEvent
  extract_lets f counted c
  change Dev.Reported recoverRegs (d.fset (causeFld s) 0 cause) counted at hcnt
  clear_value counted c
  split
  · exact hcnt.alarm (by decide) 2 c
  · split
    · exact hcnt.notice (by decide) c
    · exact hcnt.error (by decide) c

theorem recoverEvent_sliceSt (d : Dev) (s cause t : Nat) : (d.recoverEvent s cause).sliceSt t = d.sliceSt t :=
  ((recoverEvent_reported d s cause).sliceSt (by decide) (by decide) t).trans (sliceSt_setCause d s t cause)

theorem recoverEvent_cause (d : Dev) (s : Nat) {cause : Nat} (hc : cause < 16) : (d.recoverEvent s cause).fget (causeFld s) = cause := by
  refine ((recoverEvent_reported d s cause).fget (causeFld s) ?_ (Nat.two_pow_pos 20)).trans (fget_setCause d s hc)
  obtain h | h := causeFld_off s <;> rw [h] <;> decide

theorem recoverEvent_cycle (d : Dev) (s cause : Nat) : (d.recoverEvent s cause).cycle = d.cycle := (recoverEvent_reported d s cause).cycle

section
variable (d : Dev)

theorem liveCode_glb (u code : Nat) : d.KeepsGlb (d.liveCode u code) := by
  have hlive : R.HLD_CTRL ≤ (nibble R.HLD_LIVE_ERR_LO R.HLD_LIVE_ERR_HI u).off := by
    show R.HLD_CTRL ≤ if u < 8 then R.HLD_LIVE_ERR_LO else R.HLD_LIVE_ERR_HI
    split <;> decide
  have hkerr : R.HLD_CTRL ≤ R.HLD_LIVE_KERR := by decide
  have hdone (e : Dev) : e.KeepsGlb (e.fset ⟨if code = 0 then R.HLD_LIVE_DONE else R.HLD_LIVE_REFUSED, u, 1⟩ 0 1) := by
    refine fset_glb e _ 0 1 ?_
    show R.HLD_CTRL ≤ if code = 0 then R.HLD_LIVE_DONE else R.HLD_LIVE_REFUSED
    split <;> decide
  unfold Dev.liveCode
  dsimp only
  split
  · exact (fset_glb d _ 0 code hlive).trans (hdone _)
  · exact (fset_glb d ⟨R.HLD_LIVE_KERR, (u - 16) * 4, 4⟩ 0 code hkerr).trans (hdone _)

theorem withLd_glb (l : LoadSt) : d.KeepsGlb { d with ld := l } := ⟨rfl, rfl⟩

theorem liveFinish_glb : d.KeepsGlb d.liveFinish := by
  have hset (e : Dev) (f : Fld) (v : Nat) (h : R.HLD_CTRL ≤ f.off) : e.KeepsGlb (e.fset f 0 v) := fset_glb e f 0 v h
  unfold Dev.liveFinish
  split
  · exact .refl d
  · extract_lets _ ended idle
    have hidle : d.KeepsGlb idle := (((withLd_glb d _).trans (hset ended F.HLD_STATUS_BUSY 0 (by decide))).trans
      (hset _ F.HLD_STATUS_DONE 1 (by decide))).trans (hset _ F.HLD_STATUS_PHASE 0 (by decide))
    exact (((hidle.trans (hset idle F.HLD_STATUS_FAIL 0 (by decide))).trans (hset _ F.HLD_STATUS_ERR 0 (by decide))).trans
      (hset _ F.HLD_STATUS_SECTION 0xFFFF (by decide))).trans (notice_glb _ F.HLD_STATUS_DONE devWide)

theorem stopApply_glb (s : Nat) : d.KeepsGlb (d.stopApply s) := by
  unfold Dev.stopApply
  extract_lets _ _ stopped
  have hunit : d.KeepsGlb stopped := by
    unfold stopped
    split
    · exact ((liveCode_glb d s 7).trans (withLd_glb _ _)).trans (liveFinish_glb _)
    · exact .refl d
  clear_value stopped
  split
  · exact hunit.trans (withLd_glb stopped _)
  · exact hunit

theorem withLife_glb (l : LifeSt) : d.KeepsGlb { d with life := l } := ⟨rfl, rfl⟩

end

/-- The cause that a recovery notes: a commanded reset of a slice that a live unit applies to is the unit's (R79). -/
def Dev.causeOf (d : Dev) (s cause : Nat) : Nat := if d.kindOf s = 2 ∧ cause = 1 then 4 else cause

theorem causeOf_uncommanded (d : Dev) (s : Nat) {cause : Nat} (h : cause ≠ 1) : d.causeOf s cause = cause := if_neg fun hc => h hc.2

/-- A slice in recovery, with its cause, the clock as it was. -/
structure Dev.Recovers (d : Dev) (s cause : Nat) (e : Dev) : Prop where
  state : e.sliceSt s = stRecovery
  cause : e.fget (causeFld s) = cause
  cycle : e.cycle = d.cycle

theorem Dev.Recovers.stands {d e f : Dev} {s cause : Nat} (h : d.Recovers s cause e) (hg : e.KeepsGlb f) : d.Recovers s cause f :=
  ⟨(hg.sliceSt s).trans h.state, (hg.cause s).trans h.cause, hg.1.trans h.cycle⟩

theorem recoverEvent_recovers (d : Dev) (s : Nat) {cause : Nat} (hc : cause < 16) :
    d.Recovers s cause (((d.stopApply s).putSlice s stRecovery 3).recoverEvent s cause) where
  state := (recoverEvent_sliceSt _ s cause s).trans (putSlice_sliceSt _ s 3 (by decide))
  cause := recoverEvent_cause _ s hc
  cycle := (recoverEvent_cycle _ s cause).trans ((putSlice_cycle _ s stRecovery 3).trans (stopApply_glb d s).1)

/-- A recovery that starts or starts again (R78). -/
theorem recover_recovers {d : Dev} {s cause : Nat} (hw : d.life.wide = false) (hst : d.sliceSt s ≠ stOff) (hc : cause < 16)
    (hcmd : cause = 1 → d.devSt ≠ stStructure) : d.Recovers s (d.causeOf s cause) (d.recover s cause) := by
  have hlt : d.causeOf s cause < 16 := by
    unfold Dev.causeOf
    split
    · decide
    · exact hc
  have hstarts : ¬(d.life.wide ∨ d.sliceSt s = stOff ∨ (cause = 1 ∧ d.devSt = stStructure)) := by
    rintro (h | h | ⟨h₁, h₂⟩)
    · simp [hw] at h
    · exact hst h
    · exact hcmd h₁ h₂
  have hevent := recoverEvent_recovers d s hlt
  unfold Dev.recover
  rw [if_neg hstarts]
  change d.Recovers s (d.causeOf s cause) _
  extract_lets noted stop begun rest marked
  change d.Recovers s (d.causeOf s cause) begun at hevent
  clear_value begun
  exact (hevent.stands (withLife_glb begun _)).stands (recoverStop_glb _ s)

/-- A slice that is OFF does not recover. -/
theorem recover_off {d : Dev} {s : Nat} (cause : Nat) (h : d.sliceSt s = stOff) : d.recover s cause = d := if_pos (.inr (.inl h))

/-- The first cycle at which a pipeline that has work has started no packet for some cycles. -/
def Dev.stallsAt (d : Dev) (s : Nat) (egress : Bool) (cycles : Nat) : Nat :=
  (if egress then (d.sl s).lastTx else (d.sl s).last).getD 0 + cycles

theorem pipelineStall_eq {d : Dev} {s : Nat} {egress : Bool} (hwork : d.hasWork s egress = true) :
    pipelineStall s egress d = (d.toCycle (d.stallsAt s egress 3000000)).recover s 3 := by
  unfold pipelineStall Dev.stallsAt
  rw [hwork]
  simp only [Bool.not_true, Bool.false_eq_true, if_false]

theorem recover_stalled {d : Dev} {s : Nat} (c : Nat) (hw : d.life.wide = false) (hst : d.sliceSt s ≠ stOff) :
    (d.toCycle c).Recovers s 3 ((d.toCycle c).recover s 3) := by
  have hrec : (d.toCycle c).Recovers s ((d.toCycle c).causeOf s 3) ((d.toCycle c).recover s 3) :=
    recover_recovers hw hst (by decide) fun h => absurd h (by decide)
  rwa [causeOf_uncommanded _ s (by decide : 3 ≠ 1)] at hrec

/-- A pipeline with work that started no packet for 1 ms (R77). -/
theorem pipelineStall_recovers {d : Dev} {s : Nat} {egress : Bool} (hw : d.life.wide = false) (hst : d.sliceSt s ≠ stOff)
    (hwork : d.hasWork s egress = true) :
    (d.toCycle (d.stallsAt s egress 3000000)).Recovers s 3 (pipelineStall s egress d) := by
  rw [pipelineStall_eq hwork]
  exact recover_stalled _ hw hst

end Sys2Proof.Machine
end


-- ==== Sys2Proof/Proofs/Reapplications.lean ====
section
open Sys2Proof Sys2Proof.Machine
namespace Sys2Proof.Machine

/-! A slice's logic is cleared, it waits for the loader, and its sections are applied again (R59, R68, R78, R79) -/

/-! The logic reset -/

/-- What the entries of the L2 table that are not a slice's, and how the slices stand, are. -/
structure Dev.KeepsOthers (s : Nat) (d e : Dev) : Prop where
  life : e.life = d.life
  l2 : e.fwd.l2.filter (fun x => x.1 / 65536 != s) = d.fwd.l2.filter (fun x => x.1 / 65536 != s)

theorem Dev.KeepsOthers.refl (s : Nat) (d : Dev) : d.KeepsOthers s d := ⟨rfl, rfl⟩

theorem Dev.KeepsOthers.trans {s : Nat} {d e f : Dev} (hde : d.KeepsOthers s e) (hef : e.KeepsOthers s f) : d.KeepsOthers s f :=
  ⟨hef.life.trans hde.life, hef.l2.trans hde.l2⟩

/-- The same slices' states and the same table. -/
theorem Dev.KeepsOthers.of_eq {s : Nat} {d e : Dev} (hl : e.life = d.life) (hf : e.fwd = d.fwd) : d.KeepsOthers s e := ⟨hl, by rw [hf]⟩

theorem Dev.KeepsOthers.forAll {α : Type} {s : Nat} {f : Dev → α → Dev} (hf : ∀ (d : Dev) a, d.KeepsOthers s (f d a)) (l : List α)
    (d : Dev) : d.KeepsOthers s (forAll l f d) := forAll_related (Dev.KeepsOthers.refl s) Dev.KeepsOthers.trans hf l d

section
variable (d : Dev) (s : Nat)

theorem fset_keepsOthers (f : Fld) (i v : Nat) : d.KeepsOthers s (d.fset f i v) := .of_eq rfl rfl

theorem toCycle_keepsOthers (c : Nat) : d.KeepsOthers s (d.toCycle c) := .of_eq (Dev.toCycle_life d c) (Dev.toCycle_fwd d c)

theorem l2End_keepsOthers (q err : Nat) (ev re : Bool) : d.KeepsOthers s (d.l2End q err ev re) := .of_eq rfl rfl

theorem updSl_keepsOthers (n : Nat) (f : SliceSt → SliceSt) : d.KeepsOthers s (d.updSl n f) := .of_eq rfl rfl

/-- A flush that ends removes entries of its slice. -/
theorem flushed_keepsOthers (gone : Nat × Option L2E → Bool) (h : ∀ x, gone x = true → x.1 / 65536 = s) :
    d.KeepsOthers s { d with fwd.l2 := d.fwd.l2.filter (fun x => !gone x) } := by
  refine ⟨rfl, ?_⟩
  show (d.fwd.l2.filter (fun x => !gone x)).filter (fun x => x.1 / 65536 != s) = _
  rw [List.filter_filter]
  refine List.filter_congr fun x _ => ?_
  by_cases hx : gone x = true
  · simp [h x hx]
  · simp [hx]

theorem l2FlushDone_keepsOthers : d.KeepsOthers s (l2FlushDone s d) := by
  unfold l2FlushDone
  split
  · exact .refl s d
  · next f r _ =>
    extract_lets timed gone _ left
    have hgone : ∀ x, gone x = true → x.1 / 65536 = s := fun x hx => beq_iff_eq.1 (Bool.and_eq_true_iff.1 hx).1
    have htimed : d.KeepsOthers s timed := toCycle_keepsOthers d s _
    clear_value timed gone
    have hleft : timed.KeepsOthers s left := flushed_keepsOthers timed s gone hgone
    clear_value left
    exact ((htimed.trans hleft).trans (updSl_keepsOthers left s s _)).trans (l2End_keepsOthers _ s f.who 0 false false)

theorem refused_keepsOthers (g : UpdGroup) :
    d.KeepsOthers s ((d.fset F.CLS_UPD_STATUS_BUSY g.who 0).fset F.CLS_UPD_STATUS_ERR g.who 1) :=
  Dev.KeepsOthers.trans (fset_keepsOthers d s F.CLS_UPD_STATUS_BUSY g.who 0) (fset_keepsOthers _ s F.CLS_UPD_STATUS_ERR g.who 1)

theorem restore_keepsOthers (sel : RegRow → Nat → Bool) (f : Acc → Bool) : d.KeepsOthers s (d.restore sel f) := by
  refine Dev.KeepsOthers.forAll (fun d e => ?_) _ d
  dsimp only
  split
  · exact .refl s d
  · split
    · exact .of_eq rfl rfl
    · exact .refl s d

theorem resetGates_keepsOthers (p : Nat) : d.KeepsOthers s (d.resetGates p) := .of_eq rfl rfl

/-- The slice's part of the L2 table is emptied. -/
def Dev.l2Emptied : Dev := { d with fwd := { d.fwd with l2 := d.fwd.l2.filter (fun e => e.1 / 65536 != s) } }

end

theorem Dev.KeepsOthers.emptied {s : Nat} {d e : Dev} (h : d.KeepsOthers s e) :
    (e.l2Emptied s).life = d.life ∧ (e.l2Emptied s).fwd.l2 = d.fwd.l2.filter (fun x => x.1 / 65536 != s) := ⟨h.life, h.l2⟩

/-- A logic reset leaves how the slices stand, and of the L2 table the entries of the other slices. -/
theorem resetSlice_keeps (b : Block) (s : Nat) :
    (b.resetSlice s).dev.life = b.dev.life ∧ (b.resetSlice s).dev.fwd.l2 = b.dev.fwd.l2.filter (fun x => x.1 / 65536 != s) := by
  unfold Block.resetSlice
  extract_lets d flushed updated restored carved gated fwd emptied _ cleared
  have hflushed : d.KeepsOthers s flushed := .forAll (fun d _ => l2FlushDone_keepsOthers d s) _ d
  have hupdated : flushed.KeepsOthers s updated := .forAll (fun d g => refused_keepsOthers d s g) _ flushed
  have hrestored : updated.KeepsOthers s restored := restore_keepsOthers updated s (slcOf s) (fun a => a == .rws || a == .ro)
  have hcarved : restored.KeepsOthers s carved := restore_keepsOthers restored s (prtOf s) (fun a => a == .rws)
  have hgated : carved.KeepsOthers s gated := .forAll (fun d p => resetGates_keepsOthers d s p) _ carved
  have hall : d.KeepsOthers s gated := (((hflushed.trans hupdated).trans hrestored).trans hcarved).trans hgated
  clear_value gated
  have hemptied : emptied.life = d.life ∧ emptied.fwd.l2 = d.fwd.l2.filter (fun x => x.1 / 65536 != s) := hall.emptied
  clear_value emptied
  rw [bankInit_dev, bankInit_dev]
  exact hemptied

/-- The host's, the buffers' and the clusters' memories stand. -/
structure Block.SameStores (b c : Block) : Prop where
  host : c.mem.host = b.mem.host
  dram : c.mem.dram = b.mem.dram
  cluster : c.mem.cluster = b.mem.cluster

theorem Block.SameStores.trans {b c e : Block} (h : b.SameStores c) (h' : c.SameStores e) : b.SameStores e :=
  ⟨h'.host.trans h.host, h'.dram.trans h.dram, h'.cluster.trans h.cluster⟩

/-- Only the classifier's memory changes as a bank is initialized. -/
theorem bankInit_sameStores (b : Block) (s k : Nat) : b.SameStores (b.bankInit s k) := by
  have hcls (m : Mem) (p : Nat → Bool) (a : Nat) (bs : List Byte) : ((m.keep .cls p).write .cls a bs).host = m.host ∧
      ((m.keep .cls p).write .cls a bs).dram = m.dram ∧ ((m.keep .cls p).write .cls a bs).cluster = m.cluster := ⟨rfl, rfl, rfl⟩
  obtain ⟨hhost, hdram, hcluster⟩ := hcls b.mem _ _ _
  exact ⟨hhost, hdram, hcluster⟩

theorem withDev_sameStores (b : Block) (d : Dev) : b.SameStores { b with dev := d } := ⟨rfl, rfl, rfl⟩

theorem resetSlice_sameStores (b : Block) (s : Nat) : b.SameStores (b.resetSlice s) := by
  unfold Block.resetSlice
  extract_lets d flushed updated restored carved gated _ _ emptied cleared
  clear_value emptied cleared
  exact ((withDev_sameStores b _).trans (bankInit_sameStores _ s 0)).trans (bankInit_sameStores _ s 1)

/-- A slice whose logic has been reset waits for the loader (R78, R79). -/
theorem recoveryLogicResetDone_waits {b : Block} {s : Nat} (hw : b.dev.life.wide = false) (hst : b.dev.sliceSt s = stRecovery)
    (hstop : b.dev.life.stopped.contains s = false) (hready : b.dev.life.ready.contains s = false) : recoveryLogicResetDone s b =
      (b.resetSlice s).on (fun d => { d with life.ready := d.life.ready ++ [s] }) := by
  refine if_neg ?_
  rintro (h | h | h | h)
  · exact h hst
  · simp [hw] at h
  · exact Bool.false_ne_true (hstop.symm.trans h)
  · exact Bool.false_ne_true (hready.symm.trans h)

/-! The loader takes a waiting slice -/

/-- The lowest waiting slice in STRUCTURE, the loader at its first section (R79). -/
def Dev.reapplies (d : Dev) (s : Nat) : Dev :=
  { d.putSlice s stStructure 3 with
    ld.engine := some s
    ld.engineAt := d.cycle
    ld.done := 0
    life.ready := d.life.ready.filter (fun t => t != s) }

theorem recoveryReapplyStart_takes {d : Dev} {s : Nat} (hmin : minOf d.life.ready = some s) (hengine : d.ld.engine = none)
    (hunit : d.ld.unit = none) (hstep : d.ld.step ≠ 5) : recoveryReapplyStart d = d.reapplies s := by
  unfold recoveryReapplyStart
  rw [hmin]
  refine if_neg ?_
  rintro (h | h | h)
  · simp [hengine] at h
  · simp [hunit] at h
  · exact hstep h

theorem reapplies_shows (d : Dev) (s : Nat) : (d.reapplies s).sliceSt s = stStructure ∧ (d.reapplies s).ld.engine = some s ∧
    (d.reapplies s).ld.engineAt = d.cycle ∧ (d.reapplies s).life.ready = d.life.ready.filter (fun t => t != s) :=
  ⟨putSlice_sliceSt d s 3 (by decide : stStructure < 16), rfl, rfl, rfl⟩

/-! A slice starts -/

/-- A slice that starts is in STARTUP: of block GLB, what follows changes nothing (R68, R73). -/
theorem startSlice_sliceSt (d : Dev) (s : Nat) (boot : Bool) : (d.startSlice s boot).sliceSt s = stStartup := by
  unfold Dev.startSlice
  extract_lets _ _ _ begun put drained counted carriers ports
  have hput : (begun.putSlice s stStartup (if boot then 0 else 3)).sliceSt s = stStartup := putSlice_sliceSt begun s _ (by decide)
  have hstart : (begun.putSlice s stStartup (if boot then 0 else 3)).KeepsGlb put := clsStart_glb _ s
  generalize begun.putSlice s stStartup (if boot then 0 else 3) = e at hput hstart
  clear_value put
  have hdrained : put.KeepsGlb drained := fset_glb put F.CLS_EPOCH_DRAINING s 0 (by decide)
  have hcounted : drained.KeepsGlb counted := updSl_glb drained s _
  have hcarriers : counted.KeepsGlb carriers := forAll_glb (fun d c => carrierStart_glb d c) _ counted
  have hports : carriers.KeepsGlb ports := forAll_glb (fun d p => portStart_glb d p) _ carriers
  have hall := (((hstart.trans hdrained).trans hcounted).trans hcarriers).trans hports
  split
  · exact ((hall.trans (forAll_glb (fun d t => formTeam_glb d t) _ ports)).sliceSt s).trans hput
  · exact (hall.sliceSt s).trans hput

end Sys2Proof.Machine
end


-- ==== Sys2Proof/Proofs/SliceRecoveries.lean ====
section
open Sys2Proof Sys2Proof.Machine
namespace Sys2Proof.Machine

/-! The end of a re-application, the release out of the hold, and recoveries as a whole (R59, R68, R77 to R79) -/

/-- The loader is free of the slice. -/
def Dev.engineFree (d : Dev) : Dev := d.updLd (fun l => { l with engine := none })

theorem recoveryApplyEnd_eq {s : State} {k : Nat} (h : s.dev.ld.engine = some k) : recoveryApplyEnd s =
    passEnd false s.dev.ld.engineAt (s.blk.sliceWork k) (fun fail d => d.reapplied k fail) s := by
  simp only [recoveryApplyEnd, h]

/-- A slice whose sections are applied again waits in the hold where GLB_CTRL asks for it (R68). -/
theorem reapplied_waits {d : Dev} (s : Nat) (hon : d.fon F.GLB_CTRL_STRUCT_HOLD = true) : (d.reapplied s none).sliceSt s = stStructure ∧
    (d.reapplied s none).kindOf s = 4 ∧ (d.reapplied s none).ld.engine = none := by
  have hput : d.reapplied s none = d.engineFree.putSlice s stStructure 4 := if_pos hon
  rw [hput, putSlice_ld]
  exact ⟨putSlice_sliceSt _ s 4 (by decide), putSlice_kindOf _ s stStructure 4, rfl⟩

/-- The slice stays stopped: a body's digest failed, and no re-application follows (R59). -/
def Dev.stopsFailed (d : Dev) (s : Nat) : Dev :=
  { d with life := { d.life with stopped := d.life.stopped.filter (fun t => t != s) ++ [s] } }

theorem reapplied_failed (d : Dev) (s sec : Nat) : d.reapplied s (some sec) =
    (((d.engineFree.putSlice s stRecovery 3).stopsFailed s).fset (causeFld s) 0 5).applyFails sec := rfl

theorem applyFails_glb (d : Dev) (sec : Nat) : d.KeepsGlb (d.applyFails sec) :=
  (((fset_glb d F.HLD_STATUS_FAIL 0 1 (by decide)).trans (fset_glb _ F.HLD_STATUS_ERR 0 errApply (by decide))).trans
    (fset_glb _ F.HLD_STATUS_SECTION 0 sec (by decide))).trans ((applyFails_reported d sec).glb (by decide))

/-- What the loader shows of a body that failed (R53, R59). -/
theorem applyFails_shows (d : Dev) (sec : Nat) : (d.applyFails sec).fget F.HLD_STATUS_ERR = errApply ∧
    (d.applyFails sec).fget F.HLD_STATUS_SECTION = sec % 2 ^ 16 := by
  have h0 : (0 : Nat) < 2 ^ 20 := Nat.two_pow_pos 20
  have h := applyFails_reported d sec
  refine ⟨(h.fget F.HLD_STATUS_ERR (by decide) h0).trans ?_, (h.fget F.HLD_STATUS_SECTION (by decide) h0).trans ?_⟩
  · rw [Dev.fget_fset_apart _ _ _ (by decide) (by decide)]
    exact Dev.fget_fset _ F.HLD_STATUS_ERR 0 errApply (by decide)
  · exact Dev.fget_fset _ F.HLD_STATUS_SECTION 0 sec (by decide)

theorem applyFails_ld (d : Dev) (sec : Nat) : (d.applyFails sec).ld = d.ld := by
  rw [(applyFails_reported d sec).ld, Dev.fset_ld, Dev.fset_ld, Dev.fset_ld]

theorem applyFails_life (d : Dev) (sec : Nat) : (d.applyFails sec).life = d.life := by
  rw [(applyFails_reported d sec).life, Dev.fset_life, Dev.fset_life, Dev.fset_life]

/-- A slice of whose sections one fails is back in RECOVERY, its cause the digest (R59). -/
theorem reapplied_fails {d e : Dev} {s sec : Nat} (he : e = d.reapplied s (some sec)) : e.sliceSt s = stRecovery ∧
    e.fget (causeFld s) = 5 ∧ e.ld.engine = none ∧ e.life.stopped.contains s = true ∧ e.fget F.HLD_STATUS_ERR = errApply ∧
    e.fget F.HLD_STATUS_SECTION = sec % 2 ^ 16 := by
  subst he
  have hst : ((d.engineFree.putSlice s stRecovery 3).stopsFailed s).sliceSt s = stRecovery := putSlice_sliceSt d.engineFree s 3 (by decide)
  have hld : ((d.engineFree.putSlice s stRecovery 3).stopsFailed s).ld.engine = none :=
    congrArg LoadSt.engine (putSlice_ld d.engineFree s stRecovery 3)
  have hstop : ((d.engineFree.putSlice s stRecovery 3).stopsFailed s).life.stopped.contains s = true := by
    simp [Dev.stopsFailed]
  rw [reapplied_failed]
  generalize (d.engineFree.putSlice s stRecovery 3).stopsFailed s = e at hst hld hstop
  have hglb := applyFails_glb (e.fset (causeFld s) 0 5) sec
  obtain ⟨herr, hsec⟩ := applyFails_shows (e.fset (causeFld s) 0 5) sec
  refine ⟨(hglb.sliceSt s).trans ((sliceSt_setCause e s s 5).trans hst), (hglb.cause s).trans (fget_setCause e s (by decide)), ?_, ?_,
    herr, hsec⟩
  · rw [applyFails_ld]
    exact hld
  · rw [applyFails_life]
    exact hstop

/-- A slice in the hold that is released starts (R68). -/
theorem structRelease_starts {d : Dev} {s : Nat} (h : d.kindOf s = 1 ∨ d.kindOf s = 4) : (structRelease s d).sliceSt s = stStartup := by
  obtain h | h := h
  · have hstart : structRelease s d = d.startSlice s true := if_pos h
    rw [hstart]
    exact startSlice_sliceSt d s true
  · have hstart : structRelease s d = d.startSlice s false := by simp [structRelease, h]
    rw [hstart]
    exact startSlice_sliceSt d s false

theorem structRelease_other {d : Dev} {s : Nat} (h₁ : d.kindOf s ≠ 1) (h₄ : d.kindOf s ≠ 4) : structRelease s d = d :=
  (if_neg h₁).trans (if_neg h₄)

/-! The commands -/

section
variable {s : State} {k : Fin 16} (hrun : s.dev.running = true)
include hrun

theorem sliceReset_gives (hw : s.dev.life.wide = false) (hdev : s.dev.devSt ≠ stStructure) (hst : s.dev.sliceSt k ≠ stOff) :
    Gives (.sliceReset k) s fun u => u.mem = s.mem ∧ u.dev.sliceSt k = stRecovery ∧
      u.dev.fget (causeFld k) = (if s.dev.kindOf k = 2 then 4 else 1) := by
  have hrec := recover_recovers hw hst (by decide : 1 < 16) fun _ => hdev
  refine gives_event rfl hrun rfl ⟨rfl, hrec.state, hrec.cause.trans ?_⟩
  unfold Dev.causeOf
  simp only [and_true]

theorem sliceReset_ignored (h : s.dev.sliceSt k = stOff) : exec (.sliceReset k) s = .next s := event_same _ hrun (recover_off 1 h)

theorem pipelineStall_gives (hw : s.dev.life.wide = false) (hst : s.dev.sliceSt k ≠ stOff) (egress : Bool)
    (hwork : s.dev.hasWork k egress = true) : Gives (.pipelineStall k egress) s fun u => u.mem = s.mem ∧
      u.dev.sliceSt k = stRecovery ∧ u.dev.fget (causeFld k) = 3 ∧ s.dev.stallsAt k egress 3000000 ≤ u.dev.cycle := by
  have hrec := pipelineStall_recovers hw hst hwork
  have hclock := (le_cycle_toCycle s.dev (s.dev.stallsAt k egress 3000000)).trans_eq hrec.cycle.symm
  exact gives_event rfl hrun rfl ⟨rfl, hrec.state, hrec.cause, hclock⟩

theorem recoveryLogicResetDone_gives (hw : s.dev.life.wide = false) (hst : s.dev.sliceSt k = stRecovery)
    (hstop : s.dev.life.stopped.contains k.val = false) (hready : s.dev.life.ready.contains k.val = false) :
    Gives (.recoveryLogicResetDone k) s fun u => u.dev.life.ready = s.dev.life.ready ++ [k.val] ∧ u.mem.host = s.mem.host ∧
      u.mem.dram = s.mem.dram ∧ u.mem.cluster = s.mem.cluster ∧ u.dev.fwd.l2 = s.dev.fwd.l2.filter (fun e => e.1 / 65536 != k.val) := by
  have hwaits := recoveryLogicResetDone_waits (b := s.blk) hw hst hstop hready
  have hmem := resetSlice_sameStores s.blk k
  obtain ⟨hlife, hl2⟩ := resetSlice_keeps s.blk k
  generalize s.blk.resetSlice k = b at hwaits hmem hlife hl2
  exact gives_eventBlk rfl hrun hwaits ⟨congrArg (fun l : LifeSt => l.ready ++ [k.val]) hlife, hmem.host, hmem.dram, hmem.cluster, hl2⟩

theorem recoveryReapplyStart_gives (hmin : minOf s.dev.life.ready = some k.val) (hengine : s.dev.ld.engine = none)
    (hunit : s.dev.ld.unit = none) (hstep : s.dev.ld.step ≠ 5) : Gives .recoveryReapplyStart s fun u => u.mem = s.mem ∧
      u.dev.sliceSt k = stStructure ∧ u.dev.ld.engine = some k.val ∧ u.dev.ld.engineAt = s.dev.cycle ∧
      u.dev.life.ready = s.dev.life.ready.filter (fun t => t != k.val) :=
  gives_event rfl hrun (recoveryReapplyStart_takes hmin hengine hunit hstep) ⟨rfl, reapplies_shows s.dev k⟩

theorem structRelease_gives (h : s.dev.kindOf k = 1 ∨ s.dev.kindOf k = 4) :
    Gives (.structRelease k) s fun u => u.mem = s.mem ∧ u.dev.sliceSt k = stStartup :=
  gives_event rfl hrun rfl ⟨rfl, structRelease_starts h⟩

theorem structRelease_ignored (h₁ : s.dev.kindOf k ≠ 1) (h₄ : s.dev.kindOf k ≠ 4) : exec (.structRelease k) s = .next s :=
  event_same _ hrun (structRelease_other h₁ h₄)

end

/-- Settles O13: each step of a recovery has its equation, and what it comes to shows the slice's state. -/
theorem sliceRecovery : Obligations.slice_recovery := by
  unfold Obligations.slice_recovery
  intro s k hrun hw
  refine ⟨sliceReset_gives hrun hw, fun hst => pipelineStall_gives hrun hw hst, sliceReset_ignored hrun,
    recoveryLogicResetDone_gives hrun hw, recoveryReapplyStart_gives hrun, fun hengine => ?_, structRelease_gives hrun,
    structRelease_ignored hrun⟩
  intro ws p hbad
  refine ⟨fun hfail hon => ?_, fun sec hfail => ?_⟩
  · exact gives_passEnd (recoveryApplyEnd_eq hengine) rfl hbad hfail fun u hmem hdev => ⟨hmem, hdev ▸ reapplied_waits k hon⟩
  · exact gives_passEnd (recoveryApplyEnd_eq hengine) rfl hbad hfail fun u hmem hdev => ⟨hmem, reapplied_fails hdev⟩

end Sys2Proof.Machine
end


-- ==== Sys2Proof/Proofs/Standing.lean ====
section
open Sys2Proof Sys2Proof.Machine
namespace Sys2Proof.Machine

/-! What stands of ports, carriers, teams and HOLD inputs while rates follow, frames leave a line and members move (R85, R89, R97, R99,
R208, R257): the clock, the fields of a list, locks, what is armed, and which keys are held. -/

/-- Modes, configurations, locks, links and calendars. -/
def standFlds : List Fld := [
  F.PRT_MODE_KIND, F.PRT_MODE_CARRIER, F.PRT_MAC_CFG_HOLD_SEL, F.PRT_STATUS_LINK, F.PRT_STATUS_FEC_LOCK,
  F.CAR_HOLD_PIN_LEVEL, F.CAR_HOLD_MASK_MASK, F.CAR_HOLD_CFG_SEL, F.CAR_HOLD_CFG_RESUME_NS, F.CAR_CAL_STATUS_ACTIVE,
  F.CAR_CAL_STATUS_ARMED, F.CAR_STATUS_UP, F.CAR_STATUS_OH_LOCK, F.CAR_STATUS_PHY_ALIGNED, F.TEM_TEAM_CFG_ENABLE,
  F.TEM_TEAM_CFG_COUNT, F.TEM_TEAM_CFG_TEAM_PORT, F.TEM_MBR_CFG_PORT, F.TEM_MBR_STATUS_RX_STATE]

/-- Rates, held times, counters and members' states: fields that change, of registers below the members' frame counters. -/
def movedFlds : List Fld := [
  F.HDM_EVT_SEQ_SEQ, F.HDM_EVT_DROP_COUNT, F.PRT_STATUS_HELD, F.PRT_STATUS_PAYLOAD_RATE, F.PRT_HOLD_NS_NS,
  F.PRT_LINK_DOWN_CNT_COUNT, F.PRT_FEC_UNCORR_COUNT, F.PRT_TX_ABORT_COUNT, F.PRT_RX_DOWN_DROP_COUNT, F.CAR_STATUS_HELD,
  F.CAR_RATE_CLIENT_SLOTS, F.CAR_RATE_AVAIL_SLOTS, F.CAR_HOLD_NS_NS, F.CAR_DOWN_CNT_COUNT, F.TEM_TEAM_STATUS_STATE,
  F.TEM_TEAM_STATUS_SKEW_OVER, F.TEM_TEAM_RATE_MBPS, F.TEM_RELEASED_COUNT, F.TEM_DUP_SEQ_COUNT, F.TEM_LOST_COUNT,
  F.TEM_FAST_SKIP_COUNT, F.TEM_DELIV_DROP_COUNT, F.TEM_MBR_STATUS_TX_STATE, F.TEM_MBR_STATUS_HELD, F.TEM_MBR_STATUS_TX_PHASE,
  F.TEM_MBR_STATUS_SKEW_OVER, F.TEM_MBR_DELAY_NS_NS, F.TEM_MBR_SKEW_NS_NS, F.TEM_MBR_RATE_MBPS]

theorem stand_low : ∀ f ∈ standFlds, f.off < R.TEM_MBR_TX_FRAMES := by decide

theorem stand_fits : ∀ f ∈ standFlds, f.lo + f.w ≤ 32 := by decide

theorem moved_fits : ∀ f ∈ movedFlds, f.lo + f.w ≤ 32 := by decide

theorem moved_apart : ∀ f ∈ movedFlds, ∀ g ∈ standFlds, g.off ≠ f.off ∨ g.lo + g.w ≤ f.lo ∨ f.lo + f.w ≤ g.lo := by decide

theorem stand_apart : ∀ f ∈ standFlds, ∀ g ∈ standFlds, g ≠ f → g.off ≠ f.off ∨ g.lo + g.w ≤ f.lo ∨ f.lo + f.w ≤ g.lo := by decide

/-- What the device holds of them. -/
@[ext] structure Core where
  cycle : Nat
  field : Fld → Nat → Nat
  lock : Nat → Option Nat
  car : Nat → CarSt
  held : Nat → Option Nat × Option Nat
  inputs : List (Nat × HoldIn)

def Dev.core (d : Dev) : Core where
  cycle := d.cycle
  field f i := if f ∈ standFlds ∧ i < 2 ^ 20 then d.fget f i else 0
  lock p := (d.pt p).lockAt
  car c := { d.car c with hold := {} }
  held k := ((d.heldSt k).since, (d.heldSt k).resume)
  inputs := d.holdIns

/-- The same with another hold of a key. -/
def Core.withHeld (x : Core) (k : Nat) (v : Option Nat × Option Nat) : Core := { x with held := Function.update x.held k v }

theorem core_congr {d e : Dev} (hcycle : e.cycle = d.cycle) (hports : e.ports = d.ports) (hcars : e.cars = d.cars)
    (hins : e.holdIns = d.holdIns) (hfield : ∀ f ∈ standFlds, ∀ i < 2 ^ 20, e.fget f i = d.fget f i) : e.core = d.core := by
  have hf : e.core.field = d.core.field := funext fun f => funext fun i => by
    show (if _ then _ else _) = if _ then _ else _
    split
    · next h => exact hfield f h.1 i h.2
    · rfl
  simp only [Dev.core, Dev.pt, Dev.car, Dev.heldSt, hcycle, hports, hcars, hins] at hf ⊢
  rw [hf]

section
variable {d e : Dev} (h : e.core = d.core)
include h

theorem Dev.core_fget {f : Fld} {i : Nat} (hf : f ∈ standFlds) (hi : i < 2 ^ 20) : e.fget f i = d.fget f i := by
  have := congrFun (congrFun (congrArg Core.field h) f) i
  simpa only [Dev.core, if_pos (And.intro hf hi)] using this

theorem Dev.core_fon {f : Fld} {i : Nat} (hf : f ∈ standFlds) (hi : i < 2 ^ 20) : e.fon f i = d.fon f i := by
  rw [Dev.fon, Dev.core_fget h hf hi, Dev.fon]

theorem Dev.core_cycle : e.cycle = d.cycle := congrArg Core.cycle h

theorem Dev.core_heldKey (k : Nat) : e.heldKey k = d.heldKey k :=
  congrArg (fun x : Option Nat × Option Nat => x.1.isSome) (congrFun (congrArg Core.held h) k)

end

theorem forAll_core {α : Type} {f : Dev → α → Dev} (l : List α) (d : Dev) (hf : ∀ (d : Dev) a, a ∈ l → (f d a).core = d.core) :
    (forAll l f d).core = d.core := by
  induction l generalizing d with
  | nil => rfl
  | cons a l ih => exact (ih (f d a) fun d b hb => hf d b (List.mem_cons_of_mem a hb)).trans (hf d a List.mem_cons_self)

/-! Registers -/

section
variable (d : Dev)

/-- A register above all that stand, whatever its element, is none of them. -/
theorem fget_rset_above {g : Fld} (hg : g ∈ standFlds) {off i j : Nat} (v : Word) (h : R.TEM_MBR_TX_FRAMES ≤ off) (hj : j < 2 ^ 20) :
    (d.rset off i v).fget g j = d.fget g j := by
  refine Dev.fget_rset_ne d g v ?_
  have := stand_low g hg
  simp only [regKey, R.TEM_MBR_TX_FRAMES] at *
  omega

theorem rset_core_above (off i : Nat) (v : Word) (h : R.TEM_MBR_TX_FRAMES ≤ off) : (d.rset off i v).core = d.core :=
  core_congr rfl rfl rfl rfl fun _ hg _ hj => fget_rset_above d hg v h hj

/-- A field that stands reads as before where another one is set beside it, or elsewhere. -/
theorem fget_fset_stands {f g : Fld} {i j : Nat} (v : Nat) (hf : f.lo + f.w ≤ 32) (hi : i < 2 ^ 20) (hj : j < 2 ^ 20)
    (h : (g.off ≠ f.off ∨ g.lo + g.w ≤ f.lo ∨ f.lo + f.w ≤ g.lo) ∨ j ≠ i) : (d.fset f i v).fget g j = d.fget g j := by
  by_cases hij : j = i
  · obtain hoff | hbeside := h.resolve_right (not_not_intro hij)
    · exact Dev.fget_fset_ne d f g (regKey_ne hi hj (.inl hoff))
    · by_cases hoff : g.off = f.off
      · exact hij ▸ Dev.fget_fset_beside d f g _ v hoff hf hbeside
      · exact Dev.fget_fset_ne d f g (regKey_ne hi hj (.inl hoff))
  · exact Dev.fget_fset_ne d f g (regKey_ne hi hj (.inr hij))

@[simp] theorem fset_core_above (f : Fld) (i v : Nat) (h : R.TEM_MBR_TX_FRAMES ≤ f.off) : (d.fset f i v).core = d.core :=
  rset_core_above d f.off i _ h

@[simp] theorem fset_core_array (base k lo w i v : Nat) (h : R.TEM_MBR_TX_FRAMES ≤ base) :
    (d.fset ⟨base + k, lo, w⟩ i v).core = d.core := fset_core_above d _ i v (Nat.le_add_right_of_le h)

@[simp] theorem fset_core (f : Fld) (i v : Nat) (hf : f ∈ movedFlds) (hi : i < 2 ^ 20) : (d.fset f i v).core = d.core :=
  core_congr rfl rfl rfl rfl fun g hg _ hj => fget_fset_stands d v (moved_fits f hf) hi hj (.inl (moved_apart f hf g hg))

@[simp] theorem cnt_core_above (f : Fld) (i n : Nat) (h : R.TEM_MBR_TX_FRAMES ≤ f.off) : (d.cnt f i n).core = d.core := by
  obtain ⟨v, hv⟩ | ⟨v, hv⟩ := Dev.cnt_cases d f i n <;> rw [hv]
  · exact fset_core_above d f i v h
  · exact fset_core_above (d.fresh f.w).2 f i v h

@[simp] theorem cnt_core_nth (f : Fld) (k i n : Nat) (h : R.TEM_MBR_TX_FRAMES ≤ f.off) : (d.cnt (f.nth k) i n).core = d.core :=
  cnt_core_above d (f.nth k) i n (Nat.le_add_right_of_le h)

@[simp] theorem cnt_core (f : Fld) (i n : Nat) (hf : f ∈ movedFlds) (hi : i < 2 ^ 20) : (d.cnt f i n).core = d.core := by
  obtain ⟨v, hv⟩ | ⟨v, hv⟩ := Dev.cnt_cases d f i n <;> rw [hv]
  · exact fset_core d f i v hf hi
  · exact fset_core (d.fresh f.w).2 f i v hf hi

@[simp] theorem satAdd_core (f : Fld) (i n : Nat) (hf : f ∈ movedFlds) (hi : i < 2 ^ 20) : (d.satAdd f i n).core = d.core :=
  fset_core d f i _ hf hi

theorem Dev.Reported.core {d e : Dev} {l : List Nat} (h : d.Reported l e) (hl : ∀ f ∈ standFlds, f.off ∉ l) : e.core = d.core :=
  core_congr h.cycle (h.same (·.ports) fun _ _ _ _ => rfl) (h.same (·.cars) fun _ _ _ _ => rfl)
    (h.same (·.holdIns) fun _ _ _ _ => rfl) fun f hf _ hi => h.fget f (hl f hf) hi

@[simp] theorem notice_core (f : Fld) (i : Nat) : (d.notice f i).core = d.core :=
  ((Dev.Reported.refl eventRegs d).notice (List.Subset.refl _) f i).core (by decide)

@[simp] theorem error_core (f : Fld) (i : Nat) : (d.error f i).core = d.core :=
  ((Dev.Reported.refl eventRegs d).error (List.Subset.refl _) f i).core (by decide)

@[simp] theorem alarm_core (n : Nat) (f : Fld) (i : Nat) (data : List Byte) : (d.alarm n f i data).core = d.core :=
  ((Dev.Reported.refl alarmRegs d).alarm (List.Subset.refl _) n f i data).core (by decide)

/-! Parts of the state -/

@[simp] theorem pl_core (s ev n : Nat) : (d.pl s ev n).core = d.core := (congrArg Dev.core (pl_asidePmu d s ev n) :)

@[simp] theorem updSl_core (s : Nat) (f : SliceSt → SliceSt) : (d.updSl s f).core = d.core := rfl

@[simp] theorem updMbr_core (k : Nat) (f : MbrSt → MbrSt) : (d.updMbr k f).core = d.core := rfl

@[simp] theorem updDom_core (k : Nat) (f : DomSt → DomSt) : (d.updDom k f).core = d.core := rfl

@[simp] theorem updLq_core (q : Nat) (f : LeafSt → LeafSt) : (d.updLq q f).core = d.core := rfl

@[simp] theorem stat_core (p dir c n : Nat) : (d.stat p dir c n).core = d.core := rfl

theorem pt_updPt_view {α : Type} (p q : Nat) {f : PortSt → PortSt} (g : PortSt → α) (hg : ∀ x, g (f x) = g x) :
    g ((d.updPt p f).pt q) = g (d.pt q) := by
  by_cases h : q = p
  · rw [h, pt_updPt_same, hg]
  · rw [pt_updPt_other d f h]

@[simp] theorem car_updCar_same (c : Nat) (f : CarSt → CarSt) : (d.updCar c f).car c = f (d.car c) := at0_upd0_same _ _ _

theorem fget_updCar (c : Nat) (f : CarSt → CarSt) (g : Fld) (i : Nat) : (d.updCar c f).fget g i = d.fget g i :=
  Dev.fget_congr (Dev.updCar_regs d c f) g i

theorem car_fset (f : Fld) (i v c : Nat) : (d.fset f i v).car c = d.car c := by
  rw [Dev.car, Dev.car, Dev.fset_cars]

theorem car_updCar_other {c c' : Nat} (f : CarSt → CarSt) (h : c' ≠ c) : (d.updCar c f).car c' = d.car c' := at0_upd0_other _ _ h

theorem updPt_core (p : Nat) (f : PortSt → PortSt) (hlock : ∀ x, (f x).lockAt = x.lockAt := by intro; rfl)
    (hhold : ∀ x, (f x).hold = x.hold := by intro; rfl) : (d.updPt p f).core = d.core := by
  refine Core.ext rfl rfl (funext fun q => pt_updPt_view d p q _ hlock) rfl (funext fun k => ?_) rfl
  simp only [Dev.core, Dev.heldSt]
  rw [pt_updPt_view d p k (fun x => x.hold) hhold]
  rfl

/-- The hold of a key is set. -/
theorem heldSt_setHeld (k : Nat) (h : Held) (j : Nat) : (d.setHeld k h).heldSt j = if j = k then h else d.heldSt j := by
  unfold Dev.setHeld Dev.heldSt
  by_cases hjk : j = k
  · subst hjk
    split <;> simp
  · rw [if_neg hjk]
    by_cases hk : k < 512
    · rw [if_pos hk, pt_updPt_other d _ hjk]
      rfl
    · rw [if_neg hk]
      split
      · rfl
      · rw [car_updCar_other d _ (by omega)]

theorem setHeld_core (k : Nat) (h : Held) : (d.setHeld k h).core = d.core.withHeld k (h.since, h.resume) := by
  have hheld : (d.setHeld k h).core.held = (d.core.withHeld k (h.since, h.resume)).held := funext fun j => by
    simp only [Dev.core, Core.withHeld, Function.update_apply, heldSt_setHeld]
    split <;> rfl
  unfold Dev.setHeld at hheld ⊢
  by_cases hk : k < 512
  · rw [if_pos hk] at hheld ⊢
    exact Core.ext rfl rfl (funext fun q => pt_updPt_view d k q (fun x => x.lockAt) fun _ => rfl) rfl hheld rfl
  · rw [if_neg hk] at hheld ⊢
    refine Core.ext rfl rfl rfl (funext fun c => ?_) hheld rfl
    simp only [Dev.core, Core.withHeld]
    by_cases hc : c = k - 512
    · rw [hc, car_updCar_same]
    · rw [car_updCar_other d _ hc]

/-- What a key's hold counts from changes. -/
@[simp] theorem setHeld_core_mark (k m : Nat) : (d.setHeld k { d.heldSt k with mark := m }).core = d.core := by
  rw [setHeld_core]
  exact congrArg (fun x => { d.core with held := x }) (Function.update_eq_self k d.core.held)

end

end Sys2Proof.Machine
end


-- ==== Sys2Proof/Proofs/PortFrames.lean ====
section
open Sys2Proof Sys2Proof.Machine
namespace Sys2Proof.Machine

/-! A port's line, its queues, its rate and its team's members change nothing that stands. -/

section
variable (d : Dev)

/-! Memory failures and buffers (R320, R383 to R388) -/

@[simp] theorem pendFail_core (f : MemFail) : (d.pendFail f).core = d.core := by
  unfold Dev.pendFail
  dsimp only
  split
  · rfl
  · simp (disch := decide) [Dev.unitLost]

@[simp] theorem parityFail_core (cls inst w : Nat) (detail : List Byte) (taken : Bool) :
    (d.parityFail cls inst w detail taken).core = d.core := by
  have hmark : (d.markWord cls w).core = d.core := by
    unfold Dev.markWord
    split <;> rfl
  unfold Dev.parityFail
  simp (disch := decide) [hmark]

@[simp] theorem poolMarks_core (p : Nat) : (d.poolMarks p).core = d.core := by
  unfold Dev.poolMarks
  dsimp only
  split
  · simp (disch := decide)
  · split <;> simp (disch := decide)

@[simp] theorem poolMin_core (p : Nat) : (d.poolMin p).core = d.core := by
  unfold Dev.poolMin
  split
  · split
    · exact fset_core_above _ _ _ _ (by decide)
    · rfl
  · exact fset_core_above { d with minSeen := d.minSeen ++ [p] } _ _ _ (by decide)

@[simp] theorem bufQuarantine_core (p i : Nat) : (d.bufQuarantine p i).core = d.core := by
  unfold Dev.bufQuarantine
  split
  · rfl
  · simp (disch := decide)
    rfl

@[simp] theorem bufOut_core (p i : Nat) : (d.bufOut p i).2.core = d.core := by
  unfold Dev.bufOut
  split
  · rfl
  · split <;> simp

@[simp] theorem bufFree_core (a owner : Nat) : (d.bufFree a owner).2.core = d.core := by
  unfold Dev.bufFree
  split
  · simp (disch := decide)
  · dsimp only
    (repeat' split) <;> simp (disch := decide)
    rfl

@[simp] theorem freeAll_core (l : List Nat) : (d.freeAll l).core = d.core := by
  refine forAll_core l d fun d a _ => ?_
  unfold Dev.bufRelease
  split <;> simp

@[simp] theorem settleMc_core : d.settleMc.core = d.core := by
  unfold Dev.settleMc
  exact freeAll_core _ _

/-! Frames on a line (R208, R213) -/

@[simp] theorem statFrame_core (p dir : Nat) (bytes : List Byte) (n m : Nat) (good : Bool) :
    (d.statFrame p dir bytes n m good).core = d.core := by
  unfold Dev.statFrame
  dsimp only
  (repeat' split) <;> simp

@[simp] theorem onLine_core (p : Nat) (t : Tx) (bytes : List Byte) : (d.onLine p t bytes).core = d.core := by
  unfold Dev.onLine
  exact (statFrame_core _ _ _ _ _ _ _).trans (updPt_core d p _)

@[simp] theorem mbrSent_core (k : Nat) (t : Tx) : (d.mbrSent k t).core = d.core := by
  unfold Dev.mbrSent
  cases t.probe <;> simp (disch := decide)

@[simp] theorem txStamp_core (p start : Nat) : (d.txStamp p start).2.core = d.core := by
  unfold Dev.txStamp Dev.clientPlace
  split <;> rfl

@[simp] theorem ptpSend_core (x : QPkt) (t : Nat) : (d.ptpSend x t).2.core = d.core := by
  unfold Dev.ptpSend
  dsimp only
  (repeat' split) <;> simp (disch := decide)

@[simp] theorem tsTake_core (x : QPkt) (t : Nat) : (d.tsTake x t).core = d.core := by
  have hwrite (d : Dev) (r : List Byte) : (d.tsWrite r).core = d.core := by
    unfold Dev.tsWrite Dev.addStream
    (repeat' split) <;> simp (disch := decide)
    all_goals rfl
  unfold Dev.tsTake
  split
  · simp (disch := decide) [hwrite]
  · rfl

@[simp] theorem sojourn_core (x : QPkt) (start : Nat) : (d.sojourn x start).core = d.core := by
  unfold Dev.sojourn
  dsimp only
  split <;> simp (disch := decide)

@[simp] theorem packetStarts_core (p : Nat) (t : Tx) : (d.packetStarts p t).core = d.core := by
  unfold Dev.packetStarts
  dsimp only
  split <;> cases t.pkt.ct <;> simp (disch := decide)

@[simp] theorem begins_core (p : Nat) : (d.begins p).core = d.core := by
  refine forAll_core _ d fun d t _ => ?_
  unfold Dev.beginTx
  split <;> simp

@[simp] theorem lineDone_core (p : Nat) : (d.lineDone p).core = d.core := by
  unfold Dev.lineDone
  dsimp only
  split
  · exact begins_core d p
  · rw [freeAll_core, settleMc_core]
    exact (updPt_core _ p _).trans (begins_core d p)

theorem cutOne_core {p : Nat} (hp : p < 2 ^ 20) (back : Bool) (t : Tx) : (d.cutOne p back t).core = d.core := by
  unfold Dev.cutOne Dev.requeue
  dsimp only
  split
  · exact (cnt_core_above _ F.CKU_TX_STOMP_COUNT p 1 (by decide)).trans (cnt_core d F.PRT_TX_ABORT_COUNT p 1 (by decide) hp)
  · (repeat' split) <;> simp (disch := decide)

theorem cutTx_core {p : Nat} (hp : p < 2 ^ 20) (sel : Tx → Bool) (back : Bool) : (d.cutTx p sel back).core = d.core := by
  unfold Dev.cutTx
  dsimp only
  split
  · exact lineDone_core d p
  · rw [freeAll_core, settleMc_core]
    exact (updPt_core _ p _).trans ((forAll_core _ _ fun d t _ => cutOne_core d hp _ t).trans (lineDone_core d p))

/-! The multicast residue and the leaf queues (R220, R241) -/

@[simp] theorem discardPort_core (p : Nat) : (d.discardPort p).core = d.core := by
  refine forAll_core _ d fun d q _ => ?_
  unfold Dev.discardIf
  dsimp only
  split <;> simp (disch := decide)

@[simp] theorem showRes_core (s : Nat) : (d.showRes s).core = d.core := by
  unfold Dev.showRes Dev.settleStall
  dsimp only
  (repeat' split) <;> simp (disch := decide)

@[simp] theorem mcPortDown_core (p : Nat) : (d.mcPortDown p).core = d.core := by
  unfold Dev.mcPortDown
  dsimp only
  split <;> simp (disch := decide) <;> rfl

theorem linkLost_core {p : Nat} (hp : p < 2 ^ 20) : (d.linkLost p).core = d.core := by
  unfold Dev.linkLost
  rw [notice_core, cnt_core _ _ _ _ (by decide) hp, mcPortDown_core, discardPort_core]

/-! Elements named by fields -/

theorem teamPort_lt (t : Nat) : d.teamPort t < 2 ^ 20 := (Dev.fget_lt d F.TEM_TEAM_CFG_TEAM_PORT t).trans (by decide)

theorem mbrPort_lt (k : Nat) : d.mbrPort k < 2 ^ 20 := (Dev.fget_lt d F.TEM_MBR_CFG_PORT k).trans (by decide)

theorem holdKeyOf_lt {p : Nat} (hp : p < 2 ^ 20) : d.holdKeyOf p < 2 ^ 20 := by
  have : d.carrierOf p < 2 ^ 6 := Dev.fget_lt d F.PRT_MODE_CARRIER p
  unfold Dev.holdKeyOf
  split <;> omega

variable {d} in
theorem client_lt {c p : Nat} (h : p ∈ d.clients c) : p < 2 ^ 20 := by
  have : d.fget F.CAR_CFG_SLICE c < 2 ^ 4 := Dev.fget_lt d F.CAR_CFG_SLICE c
  obtain ⟨j, hj, h⟩ := List.mem_filterMap.1 h
  have hj := List.mem_range.1 hj
  dsimp only at h
  split at h
  · have := Option.some.inj h
    omega
  · exact absurd h (by simp)

variable {d} in
theorem team_lt {t : Nat} (h : t ∈ d.teams) : t < 32 := List.mem_range.1 (List.mem_filter.1 h).1

variable {d} in
theorem teamOf_lt {p t : Nat} (h : d.teamOf p = some t) : t < 32 := team_lt (List.mem_of_find?_eq_some h)

variable {d} in
theorem member_lt {t k : Nat} (ht : t < 2 ^ 10) (h : k ∈ d.members t) : k < 2 ^ 20 := by
  have : d.teamCount t < 2 ^ 5 := Dev.fget_lt d F.TEM_TEAM_CFG_COUNT t
  obtain ⟨m, hm, rfl⟩ := List.mem_map.1 h
  have hm := List.mem_range.1 hm
  unfold mbrKey
  omega

variable {d} in
theorem memberOf_lt {p k : Nat} (h : d.memberOf p = some k) : k < 2 ^ 11 := by
  obtain ⟨t, ht, hk⟩ := List.exists_of_findSome?_eq_some h
  have := team_lt ht
  have : d.teamCount t < 2 ^ 5 := Dev.fget_lt d F.TEM_TEAM_CFG_COUNT t
  obtain ⟨m, hm, rfl⟩ := List.mem_map.1 (List.mem_of_find?_eq_some hk)
  have hm := List.mem_range.1 hm
  unfold mbrKey
  omega

/-! Rates, holds and voids of a port (R97, R222, R236) -/

@[simp] theorem teamAdd_core (t y : Nat) : (d.teamAdd t y).core = d.core := by
  unfold Dev.teamAdd
  dsimp only
  rw [satAdd_core _ F.PRT_HOLD_NS_NS _ _ (by decide) (teamPort_lt d _)]
  rfl

@[simp] theorem teamHeld_core (p ns : Nat) : (d.teamHeld p ns).core = d.core := by
  unfold Dev.teamHeld
  split
  · extract_lets r
    split
    · rfl
    · exact teamAdd_core d _ _
  · rfl

theorem settleHold_core {k : Nat} (hk : k < 2 ^ 20) : (d.settleHold k).core = d.core := by
  unfold Dev.settleHold
  dsimp only
  split
  · rfl
  · split
    · exact (satAdd_core _ _ _ _ (by decide) hk).trans (setHeld_core_mark d k _)
    · have hk' : k - 512 < 2 ^ 20 := by omega
      refine (forAll_core _ _ fun d p hp => ?_).trans ((satAdd_core _ _ _ _ (by decide) hk').trans (setHeld_core_mark d k _))
      rw [teamHeld_core]
      exact satAdd_core d _ _ _ (by decide) (client_lt hp)

theorem settleHolds_core {p : Nat} (hp : p < 2 ^ 20) : (d.settleHolds p).core = d.core := by
  unfold Dev.settleHolds
  split
  · exact forAll_core _ d fun d k _ => settleHold_core d (holdKeyOf_lt d (mbrPort_lt d k))
  · exact settleHold_core d (holdKeyOf_lt d hp)

@[simp] theorem settleShapers_core (p : Nat) : (d.settleShapers p).core = d.core := by
  unfold Dev.settleShapers
  extract_lets e
  have he : e.core = d.core := forAll_core _ d fun d q _ => updLq_core d q _
  split
  · exact he
  · exact (forAll_core _ e fun d c _ => updPt_core d p _).trans he

@[simp] theorem settleDc_core (p : Nat) : (d.settleDc p).core = d.core := by
  have hrel : d.settleRel.core = d.core := forAll_core _ d fun d s _ => updSl_core d s _
  unfold Dev.settleDc
  dsimp only
  rw [settleShapers_core]
  refine (updPt_core _ p _).trans ((updSl_core _ _ _).trans ?_)
  split
  · exact hrel
  · rfl

@[simp] theorem setVoid_core (p : Nat) (v : Bool) : (d.setVoid p v).core = d.core := by
  unfold Dev.setVoid
  dsimp only
  (repeat' split) <;> simp (disch := decide)

@[simp] theorem evalPort_core (p : Nat) : (d.evalPort p).core = d.core := by
  have hramp : (d.showRamp p).core = d.core := by
    unfold Dev.showRamp
    simp (disch := decide)
  unfold Dev.evalPort
  dsimp only
  split <;> simp (disch := decide) [hramp]

theorem applyRate_core {p : Nat} (hp : p < 2 ^ 20) (ramped : Bool) : (d.applyRate p ramped).core = d.core := by
  unfold Dev.applyRate
  extract_lets new old settled team fall
  have hsettled : settled.core = d.core := by
    unfold settled
    split
    · rfl
    · rw [fset_core _ _ _ _ (by decide) hp, settleDc_core, settleHolds_core d hp]
  have hteam : team.core = settled.core := by
    unfold team
    split
    · next t ht => exact fset_core _ _ _ _ (by decide) ((teamOf_lt ht).trans (by decide))
    · rfl
  have hfall : fall.core = team.core := by
    unfold fall
    split
    · exact (setVoid_core _ _ _).trans ((updPt_core _ p _).trans (fset_core_above _ _ _ _ (by decide)))
    · rfl
  exact (evalPort_core fall p).trans (hfall.trans (hteam.trans hsettled))

/-! Members of teams (R252 to R262) -/

theorem mbrRate_core {k : Nat} (hk : k < 2 ^ 20) : (d.mbrRate k).core = d.core := by
  unfold Dev.mbrRate
  dsimp only
  split
  · rfl
  · exact (updMbr_core _ k _).trans (fset_core d _ _ _ (by decide) hk)

theorem release_core {t : Nat} (ht : t < 2 ^ 10) (dm : Nat) (p : Pkt) : (d.release t dm p).core = d.core := by
  have ht : t < 2 ^ 20 := by omega
  unfold Dev.release
  dsimp only
  split
  · rw [cnt_core _ _ _ _ (by decide) ht, cnt_core _ _ _ _ (by decide) ht]
  · rw [updSl_core, cnt_core _ _ _ _ (by decide) ht]

theorem setExpect_core {k : Nat} (hk : k < 2 ^ 32) (e : Nat) : (d.setExpect k e).core = d.core := by
  unfold Dev.setExpect
  dsimp only
  split
  · rfl
  · exact cnt_core _ _ _ _ (by decide) (by omega)

theorem reseqCheck_core {t dm : Nat} (ht : t < 2 ^ 10) (hdm : dm < 4096) (n : Nat) : (reseqCheck t dm n d).core = d.core := by
  have hk : domKey t dm < 2 ^ 32 := by
    unfold domKey
    omega
  have ht' : t < 2 ^ 20 := by omega
  induction n generalizing d with
  | zero => rfl
  | succ n ih =>
    unfold reseqCheck
    dsimp only
    split
    · rfl
    · split
      · split
        · rfl
        · rw [ih, setExpect_core _ hk, release_core _ ht, updDom_core]
      · split
        · rw [ih, setExpect_core _ hk]
        · split
          · rw [ih, setExpect_core _ hk]
            split
            · exact cnt_core d _ _ _ (by decide) ht'
            · rw [cnt_core _ _ _ _ (by decide) ht', cnt_core _ _ _ _ (by decide) ht']
          · rfl

theorem showSkew_core {t : Nat} (ht : t < 2 ^ 10) : (d.showSkew t).core = d.core := by
  have ht' : t < 2 ^ 20 := by omega
  unfold Dev.showSkew
  extract_lets known e
  have hk (k : Nat) (h : k ∈ known) : k < 2 ^ 20 := member_lt ht (List.mem_filter.1 h).1
  have he : e.core = d.core := forAll_core _ d fun d k h => fset_core d _ _ _ (by decide) (hk k h)
  split
  · exact he
  · refine (forAll_core _ e fun d k h => ?_).trans he
    dsimp only
    split
    · rw [alarm_core, fset_core _ _ _ _ (by decide) ht', fset_core _ _ _ _ (by decide) (hk k h),
        fset_core _ _ _ _ (by decide) (hk k h)]
    · exact fset_core d _ _ _ (by decide) (hk k h)

theorem rxChanged_core {t : Nat} (ht : t < 2 ^ 10) : (d.rxChanged t).core = d.core := by
  refine (forAll_core _ _ fun d dm h => ?_).trans (showSkew_core d ht)
  obtain ⟨x, -, rfl⟩ := List.mem_map.1 h
  exact reseqCheck_core d ht (Nat.mod_lt _ (by decide)) _

end

end Sys2Proof.Machine
end


-- ==== Sys2Proof/Proofs/PortMoves.lean ====
section
open Sys2Proof Sys2Proof.Machine
namespace Sys2Proof.Machine

/-! Ports that rise and fall, and the members and team ports that follow them (R89, R97, R252, R257). -/

/-- Two devices of which the second holds what stands of the first but fields that a test names. -/
structure Dev.StandsBut (P : Fld → Nat → Prop) (d e : Dev) : Prop where
  rest : { e.core with field := d.core.field } = d.core
  field : ∀ f ∈ standFlds, ∀ i < 2 ^ 20, ¬ P f i → e.fget f i = d.fget f i

section
variable {P : Fld → Nat → Prop} {d e : Dev}

theorem Dev.StandsBut.of_core (h : e.core = d.core) : d.StandsBut P e :=
  ⟨by rw [h], fun _ hf _ hi _ => Dev.core_fget h hf hi⟩

variable (h : d.StandsBut P e)
include h

theorem Dev.StandsBut.trans {f : Dev} (g : e.StandsBut P f) : d.StandsBut P f := by
  refine ⟨?_, fun a ha i hi hP => (g.field a ha i hi hP).trans (h.field a ha i hi hP)⟩
  have := congrArg (fun x : Core => { x with field := d.core.field }) g.rest
  exact this.trans h.rest

theorem Dev.StandsBut.core {f : Dev} (g : f.core = e.core) : d.StandsBut P f := h.trans (.of_core g)

theorem Dev.StandsBut.mono {Q : Fld → Nat → Prop} (hQ : ∀ f i, P f i → Q f i) : d.StandsBut Q e :=
  ⟨h.rest, fun f hf i hi hn => h.field f hf i hi fun hP => hn (hQ f i hP)⟩

theorem Dev.StandsBut.fset {f : Fld} {i : Nat} (hf : f ∈ standFlds) (hi : i < 2 ^ 20) (hP : P f i) (v : Nat) :
    d.StandsBut P (e.fset f i v) := by
  refine h.trans ⟨rfl, fun g hg j hj hn => fget_fset_stands e v (stand_fits f hf) hi hj ?_⟩
  by_cases hgf : g = f
  · exact .inr fun hji => hn (hgf ▸ hji ▸ hP)
  · exact .inl (stand_apart f hf g hg hgf)

theorem Dev.StandsBut.fget {f : Fld} {i : Nat} (hf : f ∈ standFlds) (hi : i < 2 ^ 20) (hn : ¬ P f i) : e.fget f i = d.fget f i :=
  h.field f hf i hi hn

theorem Dev.StandsBut.fon {f : Fld} {i : Nat} (hf : f ∈ standFlds) (hi : i < 2 ^ 20) (hn : ¬ P f i) : e.fon f i = d.fon f i := by
  rw [Dev.fon, h.field f hf i hi hn, Dev.fon]

theorem Dev.StandsBut.cycle : e.cycle = d.cycle := congrArg Core.cycle h.rest

theorem Dev.StandsBut.lockAt (p : Nat) : (e.pt p).lockAt = (d.pt p).lockAt := congrFun (congrArg Core.lock h.rest) p

theorem Dev.StandsBut.car {α : Type} (c : Nat) (g : CarSt → α) (hg : ∀ x : CarSt, g { x with hold := {} } = g x) :
    g (e.car c) = g (d.car c) :=
  (hg _).symm.trans ((congrArg g (congrFun (congrArg Core.car h.rest) c)).trans (hg _))

theorem Dev.StandsBut.forAll {α : Type} {f : Dev → α → Dev} (l : List α) (hf : ∀ (d : Dev) a, a ∈ l → d.StandsBut P (f d a)) :
    d.StandsBut P (forAll l f e) := by
  induction l generalizing e with
  | nil => exact h
  | cons a l ih => exact ih (h.trans (hf e a List.mem_cons_self)) fun d b hb => hf d b (List.mem_cons_of_mem a hb)

end

/-! Which ports are teams' and members' -/

/-- The fields that say so (R244, R245). -/
def teamFlds : List Fld := [F.TEM_TEAM_CFG_ENABLE, F.TEM_TEAM_CFG_COUNT, F.TEM_TEAM_CFG_TEAM_PORT, F.TEM_MBR_CFG_PORT]

theorem team_stand : ∀ f ∈ teamFlds, f ∈ standFlds := by decide

section
variable {d e : Dev} (h : ∀ f ∈ teamFlds, ∀ i < 2 ^ 20, e.fget f i = d.fget f i)
include h

theorem teamPort_congr {t : Nat} (ht : t < 2 ^ 20) : e.teamPort t = d.teamPort t := h _ (by decide) t ht

theorem teams_congr : e.teams = d.teams := by
  refine List.filter_congr fun t ht => ?_
  have := List.mem_range.1 ht
  rw [Dev.teamOn, Dev.fon, h _ (by decide) t (by omega), Dev.teamOn, Dev.fon]

theorem members_congr {t : Nat} (ht : t < 32) : e.members t = d.members t := by
  rw [Dev.members, Dev.teamCount, h _ (by decide) t (by omega), Dev.members, Dev.teamCount]

theorem teamOf_congr (p : Nat) : e.teamOf p = d.teamOf p := by
  unfold Dev.teamOf
  rw [teams_congr h, List.find?_congr fun t ht => ?_]
  have := team_lt ht
  rw [teamPort_congr h (by omega)]

theorem memberOf_congr (p : Nat) : e.memberOf p = d.memberOf p := by
  unfold Dev.memberOf
  rw [teams_congr h, ← List.head?_filterMap, ← List.head?_filterMap, List.filterMap_congr fun t ht => ?_]
  rw [members_congr h (team_lt ht), List.find?_congr fun k hk => ?_]
  have := team_lt ht
  rw [Dev.mbrPort, h _ (by decide) k (member_lt (by omega) hk), Dev.mbrPort]

end

/-- A port that is no member of its own team. -/
theorem ownPort_congr {d e : Dev} (h : ∀ f ∈ teamFlds, ∀ i < 2 ^ 20, e.fget f i = d.fget f i) {p : Nat}
    (hown : ∀ k, d.memberOf p = some k → d.teamPort (k / 16) ≠ p) (k : Nat) (hk : e.memberOf p = some k) : e.teamPort (k / 16) ≠ p := by
  rw [memberOf_congr h] at hk
  have := memberOf_lt hk
  rw [teamPort_congr h (by omega)]
  exact hown k hk

/-- The links of ports and the receive states of members. -/
def linkFlds (f : Fld) (_ : Nat) : Prop := f = F.PRT_STATUS_LINK ∨ f = F.TEM_MBR_STATUS_RX_STATE

/-- The link of one port. -/
def linkOf (p : Nat) (f : Fld) (i : Nat) : Prop := f = F.PRT_STATUS_LINK ∧ i = p

/-- The receive state of a member, and its team port's link. -/
def Dev.mbrFlds (d : Dev) (k : Nat) (f : Fld) (i : Nat) : Prop := linkOf (d.teamPort (k / 16)) f i ∨ f = F.TEM_MBR_STATUS_RX_STATE ∧ i = k

theorem linkFlds_of_linkOf {p : Nat} (f : Fld) (i : Nat) (h : linkOf p f i) : linkFlds f i := .inl h.1

theorem linkFlds_of_mbrFlds {d : Dev} {k : Nat} (f : Fld) (i : Nat) (h : d.mbrFlds k f i) : linkFlds f i :=
  h.imp And.left And.left

theorem linkFlds_other {f : Fld} {i : Nat} (h : f ∉ [F.PRT_STATUS_LINK, F.TEM_MBR_STATUS_RX_STATE]) : ¬ linkFlds f i := fun hl =>
  h (by obtain rfl | rfl := hl <;> decide)

theorem Dev.StandsBut.team {d e : Dev} (h : d.StandsBut linkFlds e) : ∀ f ∈ teamFlds, ∀ i < 2 ^ 20, e.fget f i = d.fget f i :=
  fun f hf i hi => h.field f (team_stand f hf) i hi
    (linkFlds_other (by revert f; decide))

section
variable (d : Dev)

/-- A team's members have changed: its port's link follows (R245, R257). -/
theorem teamRates_stands {t : Nat} (ht : t < 2 ^ 10) (ramped : Bool) : d.StandsBut (linkOf (d.teamPort t)) (d.teamRates t ramped) := by
  have hp := teamPort_lt d t
  unfold Dev.teamRates
  extract_lets p rated any lost linked rising
  have hrated : rated.core = d.core := forAll_core _ d fun d k hk => mbrRate_core d (member_lt ht hk)
  have hlinked : d.StandsBut (linkOf p) linked := (Dev.StandsBut.of_core hrated).fset (by decide) hp ⟨rfl, rfl⟩ _
  have hrising : d.StandsBut (linkOf p) rising :=
    hlinked.core ((applyRate_core _ hp ramped).trans (fset_core _ _ _ _ (by decide) (by omega)))
  split
  · exact hrising.core (linkLost_core _ hp)
  · exact hrising

section
variable {k : Nat} (hk : k < 2 ^ 11)
include hk

theorem rxState_stands {e : Dev} (he : e.core = d.core) (v : Nat) : d.StandsBut (d.mbrFlds k) (e.fset F.TEM_MBR_STATUS_RX_STATE k v) :=
  (Dev.StandsBut.of_core he).fset (by decide) (by omega) (.inr ⟨rfl, rfl⟩) v

/-- A member's team after the member's receive state has been set. -/
theorem mbrRates_stands {e : Dev} (h : d.StandsBut (d.mbrFlds k) e) : d.StandsBut (d.mbrFlds k) (e.teamRates (k / 16) false) := by
  have hport : e.teamPort (k / 16) = d.teamPort (k / 16) := teamPort_congr (h.mono linkFlds_of_mbrFlds).team (by omega)
  refine h.trans ((teamRates_stands e (by omega) false).mono fun f i hf => .inl ?_)
  exact hport ▸ hf

/-- A member whose port goes down is DOWN at its receive side (R252, R257). -/
theorem mbrDown_stands : d.StandsBut (d.mbrFlds k) (d.mbrDown k) ∧ (d.mbrDown k).fget F.TEM_MBR_STATUS_RX_STATE k = 4 := by
  have hk' : k < 2 ^ 20 := by omega
  unfold Dev.mbrDown
  extract_lets sent
  have hsent : sent.core = d.core := by
    unfold sent
    split
    · exact fset_core d _ _ _ (by decide) hk'
    · rfl
  have hdown := rxState_stands d hk hsent 4
  have hchanged := rxChanged_core ((sent.fset F.TEM_MBR_STATUS_RX_STATE k 4).teamRates (k / 16) false) (by omega : k / 16 < 2 ^ 10)
  refine ⟨(mbrRates_stands d hk hdown).core hchanged, ?_⟩
  rw [Dev.core_fget hchanged (by decide) hk',
    (teamRates_stands _ (by omega) false).fget (by decide) hk' (fun h => absurd h.1 (by decide)), Dev.fget_fset _ _ _ _ (by decide)]
  rfl

theorem mbrUp_stands : d.StandsBut (d.mbrFlds k) (d.mbrUp k) := by
  have hk' : k < 2 ^ 20 := by omega
  unfold Dev.mbrUp
  extract_lets sent up
  have hsent : sent.core = d.core := by
    unfold sent
    split
    · exact (updMbr_core _ k _).trans (fset_core d _ _ _ (by decide) hk')
    · rfl
  exact mbrRates_stands d hk ((rxState_stands d hk hsent 0).core (updMbr_core _ k _))

end

/-! A port falls and rises -/

section
variable {p : Nat} (hp : p < 2 ^ 20)
include hp

/-- What follows the link of a port that changes. -/
theorem relinked_stands {e f : Dev} {v : Nat} (he : e.core = d.core) (hf : f.core = (e.fset F.PRT_STATUS_LINK p v).core) :
    d.StandsBut (linkOf p) f := ((Dev.StandsBut.of_core he).fset (by decide) hp ⟨rfl, rfl⟩ v).core hf

/-- The device as a port's link has gone, its member still as it was. -/
def Dev.linkFalls (d : Dev) (p : Nat) : Dev :=
  (((d.cutTx p (fun _ => true) true).fset F.PRT_STATUS_LINK p 0).applyRate p true).linkLost p

theorem linkFalls_core : (d.linkFalls p).core = ((d.cutTx p (fun _ => true) true).fset F.PRT_STATUS_LINK p 0).core :=
  (linkLost_core _ hp).trans (applyRate_core _ hp true)

theorem linkFalls_stands : d.StandsBut (linkOf p) (d.linkFalls p) :=
  relinked_stands d hp (cutTx_core d hp _ true) (linkFalls_core d hp)

theorem portFalls_eq : d.portFalls p = match d.memberOf p with | some k => (d.linkFalls p).mbrDown k | none => d.linkFalls p := by
  have hmem : (d.linkFalls p).memberOf p = d.memberOf p :=
    memberOf_congr ((linkFalls_stands d hp).mono linkFlds_of_linkOf).team p
  rw [← hmem]
  rfl

theorem portFalls_stands : d.StandsBut linkFlds (d.portFalls p) := by
  have hfalls := (linkFalls_stands d hp).mono linkFlds_of_linkOf
  rw [portFalls_eq d hp]
  split
  · next k hk => exact hfalls.trans ((mbrDown_stands _ (memberOf_lt hk)).1.mono linkFlds_of_mbrFlds)
  · exact hfalls

/-- The device as a port's link has come, its member still as it was. -/
def Dev.linkRises (d : Dev) (p : Nat) : Dev := (d.fset F.PRT_STATUS_LINK p 1).applyRate p true

theorem linkRises_core : (d.linkRises p).core = (d.fset F.PRT_STATUS_LINK p 1).core := applyRate_core _ hp true

theorem linkRises_stands : d.StandsBut (linkOf p) (d.linkRises p) := relinked_stands d hp rfl (linkRises_core d hp)

theorem portRises_eq (hlink : d.link p = false) (hteam : d.teamOf p = none) :
    d.portRises p = match d.memberOf p with | some k => (d.linkRises p).mbrUp k | none => d.linkRises p := by
  have hmem : (d.linkRises p).memberOf p = d.memberOf p :=
    memberOf_congr ((linkRises_stands d hp).mono linkFlds_of_linkOf).team p
  rw [← hmem]
  unfold Dev.portRises
  rw [if_neg (by simp [hlink, hteam])]
  rfl

theorem portRises_stands : d.StandsBut linkFlds (d.portRises p) := by
  have hrises := (linkRises_stands d hp).mono linkFlds_of_linkOf
  by_cases h : (d.link p || (d.teamOf p).isSome) = true
  · exact .of_core (congrArg Dev.core (if_pos h))
  · simp only [Bool.or_eq_true, not_or, Bool.not_eq_true, Option.isSome_eq_false_iff, Option.isNone_iff_eq_none] at h
    rw [portRises_eq d hp h.1 h.2]
    split
    · next k hk => exact hrises.trans ((mbrUp_stands _ (memberOf_lt hk)).mono linkFlds_of_mbrFlds)
    · exact hrises

theorem portDownNow_stands (cut : Bool) : d.StandsBut linkFlds (d.portDownNow p cut) := by
  unfold Dev.portDownNow
  split
  · exact .of_core rfl
  · dsimp only
    split
    · exact (portFalls_stands d hp).core (cnt_core _ _ _ _ (by decide) hp)
    · exact portFalls_stands d hp

theorem portDownAny_stands : d.StandsBut linkFlds (d.portDownAny p) := by
  unfold Dev.portDownAny
  split
  · exact .of_core rfl
  · exact (Dev.StandsBut.of_core (d := d) (e := (d.fresh 1).2) rfl).trans (portDownNow_stands _ hp _)

/-! A port that is a member's, but not its own team's port -/

section
variable (hown : ∀ k, d.memberOf p = some k → d.teamPort (k / 16) ≠ p)
include hown

/-- The link of a member's port stands as the member and its team follow. -/
theorem link_of_mbrFlds {e f : Dev} {k : Nat} (hk : d.memberOf p = some k) (he : d.StandsBut (linkOf p) e)
    (hf : e.StandsBut (e.mbrFlds k) f) : f.link p = e.link p := by
  have hport : e.teamPort (k / 16) = d.teamPort (k / 16) :=
    teamPort_congr (he.mono linkFlds_of_linkOf).team (by have := memberOf_lt hk; omega)
  refine hf.fon (by decide) hp fun hP => ?_
  obtain ⟨-, hp⟩ | ⟨habs, -⟩ := hP
  · exact hown k hk (hport.symm.trans hp.symm)
  · exact absurd habs (by decide)

/-- A port that falls loses its link, and its member is DOWN at its receive side (R89, R257). -/
theorem portFalls_falls : (d.portFalls p).link p = false ∧
    ∀ k, d.memberOf p = some k → (d.portFalls p).fget F.TEM_MBR_STATUS_RX_STATE k = 4 := by
  have hfall := linkFalls_stands d hp
  have hlink : (d.linkFalls p).link p = false := by
    rw [Dev.link, Dev.core_fon (linkFalls_core d hp) (by decide) hp, Dev.fon, Dev.fget_fset _ _ _ _ (by decide)]
    rfl
  rw [portFalls_eq d hp]
  split
  · next k hk =>
    obtain ⟨hstands, hdown⟩ := mbrDown_stands (d.linkFalls p) (memberOf_lt hk)
    refine ⟨(link_of_mbrFlds d hp hown hk hfall hstands).trans hlink, fun j hj => ?_⟩
    rwa [← Option.some.inj (hk.symm.trans hj)]
  · next hk => exact ⟨hlink, fun k hk' => absurd (hk.symm.trans hk') (by simp)⟩

theorem portDownNow_falls (hlink : d.link p = true) (hteam : d.teamOf p = none) (cut : Bool) : (d.portDownNow p cut).link p = false ∧
    ∀ k, d.memberOf p = some k → (d.portDownNow p cut).fget F.TEM_MBR_STATUS_RX_STATE k = 4 := by
  have hfalls := portFalls_falls d hp hown
  unfold Dev.portDownNow
  rw [if_neg (by simp [hlink, hteam])]
  cases cut
  · exact hfalls
  · have hcnt := cnt_core (d.portFalls p) F.PRT_RX_DOWN_DROP_COUNT p 1 (by decide) hp
    refine ⟨(Dev.core_fon hcnt (by decide) hp).trans hfalls.1, fun k hk => ?_⟩
    exact (Dev.core_fget hcnt (by decide) ((memberOf_lt hk).trans (by decide))).trans (hfalls.2 k hk)

/-- A port that rises has its link. -/
theorem portRises_rises (hlink : d.link p = false) (hteam : d.teamOf p = none) : (d.portRises p).link p = true := by
  have hrise : (d.linkRises p).link p = true := by
    rw [Dev.link, Dev.core_fon (linkRises_core d hp) (by decide) hp, Dev.fon, Dev.fget_fset _ _ _ _ (by decide)]
    rfl
  rw [portRises_eq d hp hlink hteam]
  split
  · next k hk => exact (link_of_mbrFlds d hp hown hk (linkRises_stands d hp) (mbrUp_stands _ (memberOf_lt hk))).trans hrise
  · exact hrise

end

end

/-! The clients of a carrier follow it (R97) -/

theorem clientsFollow_stands (c : Nat) : d.StandsBut linkFlds (d.clientsFollow c) := by
  refine (Dev.StandsBut.of_core rfl).forAll _ fun e p hp => ?_
  split
  · exact portRises_stands e (client_lt hp)
  · exact portDownAny_stands e (client_lt hp)

/-- What a carrier that falls changes of what stands. -/
def fallFlds (c : Nat) (f : Fld) (i : Nat) : Prop := linkFlds f i ∨ f = F.CAR_STATUS_UP ∧ i = c

theorem fallFlds_other {c : Nat} {f : Fld} {i : Nat} (h : f ∉ [F.PRT_STATUS_LINK, F.TEM_MBR_STATUS_RX_STATE, F.CAR_STATUS_UP]) :
    ¬ fallFlds c f i := by
  rintro ((rfl | rfl) | ⟨rfl, -⟩) <;> exact h (by decide)

/-- A carrier that falls is not up. -/
theorem carFalls_falls {c : Nat} (hc : c < 2 ^ 20) {fall : Nat → Dev → Dev}
    (hfall : ∀ p < 2 ^ 20, ∀ d : Dev, d.StandsBut linkFlds (fall p d)) :
    d.StandsBut (fallFlds c) (d.carFalls c fall) ∧ (d.carFalls c fall).fget F.CAR_STATUS_UP c = 0 := by
  unfold Dev.carFalls
  split
  · next h => exact ⟨.of_core rfl, by simpa [Dev.fon] using h⟩
  · have hdown := ((Dev.StandsBut.of_core (P := fallFlds c) (rfl : d.core = d.core)).fset (f := F.CAR_STATUS_UP) (by decide) hc
      (.inr ⟨rfl, rfl⟩) 0).core (cnt_core _ F.CAR_DOWN_CNT_COUNT c 1 (by decide) hc)
    have hclients := (Dev.StandsBut.of_core (P := linkFlds) (rfl :
      ((d.fset F.CAR_STATUS_UP c 0).cnt F.CAR_DOWN_CNT_COUNT c).core = _)).forAll (d.clients c) fun e p hp => hfall p (client_lt hp) e
    refine ⟨hdown.trans (hclients.mono fun _ _ => .inl), ?_⟩
    rw [hclients.fget (by decide) hc (linkFlds_other (by decide)), Dev.core_fget (cnt_core _ _ _ _ (by decide) hc) (by decide) hc,
      Dev.fget_fset _ _ _ _ (by decide)]
    rfl

end

end Sys2Proof.Machine
end


-- ==== Sys2Proof/Proofs/PortEvents.lean ====
section
open Sys2Proof Sys2Proof.Machine
namespace Sys2Proof.Machine

/-! Lock, its loss and the up-hold of ports and carriers (R89, R97). -/

theorem cycle_le_toCycle_ms (d : Dev) (c ms : Nat) : c + 3000000 * ms ≤ (d.toCycle (c + cyclesOfNs (ms * 1000000))).cycle := by
  have h := le_cycle_toCycle d (c + cyclesOfNs (ms * 1000000))
  have hns : cyclesOfNs (ms * 1000000) = 3000000 * ms := by
    unfold cyclesOfNs
    omega
  rwa [hns] at h ⊢

/-! Lock -/

theorem regsBut_refl (d : Dev) (l : List (Nat × Nat)) : d.regsBut d l := fun _ _ _ _ => rfl

/-- Setting a field of a listed register leaves every other register. -/
theorem regsBut_fset {d e : Dev} {l : List (Nat × Nat)} (h : d.regsBut e l) (f : Fld) {i : Nat} (v : Nat) (hl : (f.off, i) ∈ l)
    (hi : i < 2 ^ 20) : d.regsBut (e.fset f i v) l := by
  refine fun o j hj hn => (Dev.rget_fset_other e f hi hj ?_).trans (h o j hj hn)
  by_contra hsame
  push Not at hsame
  exact hn (hsame.1 ▸ hsame.2 ▸ hl)

section
variable (d : Dev) {c : Nat} (phys : Nat) (oh : Bool)

theorem showLock_regs (hc : c < 2 ^ 20) : d.regsBut (d.showLock c phys oh) [(R.CAR_STATUS, c)] :=
  regsBut_fset (regsBut_fset (regsBut_refl d _) _ _ (by simp) hc) _ _ (by simp) hc

theorem showLock_oh : (d.showLock c phys oh).fget F.CAR_STATUS_OH_LOCK c = b2n oh := by
  unfold Dev.showLock
  rw [Dev.fget_fset _ _ _ _ (by decide)]
  cases oh <;> rfl

theorem showLock_car (j : Nat) : (d.showLock c phys oh).car j = d.car j := by
  rw [Dev.showLock, car_fset, car_fset]

theorem showLock_cycle : (d.showLock c phys oh).cycle = d.cycle := by
  rw [Dev.showLock, Dev.fset_cycle, Dev.fset_cycle]

theorem showLock_up : (d.showLock c phys oh).fget F.CAR_STATUS_UP c = d.fget F.CAR_STATUS_UP c := by
  unfold Dev.showLock
  rw [Dev.fget_fset_beside _ F.CAR_STATUS_OH_LOCK F.CAR_STATUS_UP _ _ rfl (by decide) (by decide),
    Dev.fget_fset_beside _ F.CAR_STATUS_PHY_ALIGNED F.CAR_STATUS_UP _ _ rfl (by decide) (by decide)]

/-- The PHYs of a carrier, as many as it has, lie in their field. -/
theorem showLock_phys (hphys : phys < 2 ^ 16) :
    (d.showLock c phys oh).fget F.CAR_STATUS_PHY_ALIGNED c = phys % 2 ^ d.fget F.CAR_CFG_PHY_COUNT c := by
  unfold Dev.showLock
  rw [Dev.fget_fset_beside _ F.CAR_STATUS_OH_LOCK F.CAR_STATUS_PHY_ALIGNED _ _ rfl (by decide) (by decide), Dev.fget_fset _ _ _ _ (by decide)]
  exact Nat.mod_eq_of_lt ((Nat.mod_le _ _).trans_lt hphys)

/-- Whether all is locked, as shown. -/
theorem showLock_locked (hc : c < 2 ^ 20) (hphys : phys < 2 ^ 16) : (d.showLock c phys oh).carLocked c = true ↔
    oh = true ∧ phys % 2 ^ d.fget F.CAR_CFG_PHY_COUNT c = 2 ^ d.fget F.CAR_CFG_PHY_COUNT c - 1 := by
  have hcount : (d.showLock c phys oh).fget F.CAR_CFG_PHY_COUNT c = d.fget F.CAR_CFG_PHY_COUNT c :=
    Dev.fget_of_rget (showLock_regs d phys oh hc _ _ hc (by simp))
  rw [Dev.carLocked, Dev.fon, showLock_oh, showLock_phys d phys oh hphys, hcount]
  cases oh <;> simp [b2n]

end

/-- The up hold of a carrier counts once all is locked (R97). -/
def Dev.holdCounts (d : Dev) (c : Nat) : Dev :=
  if d.carLocked c && (d.car c).lockAt.isNone then d.updCar c (fun x => { x with lockAt := some d.cycle }) else d

theorem holdCounts_regs (d : Dev) (c : Nat) : (d.holdCounts c).regs = d.regs := by
  unfold Dev.holdCounts
  split <;> rfl

theorem holdCounts_lockAt {d : Dev} {c : Nat} (h : (d.car c).lockAt = none) :
    ((d.holdCounts c).car c).lockAt = if d.carLocked c = true then some d.cycle else none := by
  unfold Dev.holdCounts
  simp only [h, Option.isNone_none, Bool.and_true]
  split
  · exact congrArg CarSt.lockAt (car_updCar_same d c _)
  · exact h

theorem pcsLockGained_carrier (d : Dev) (phys : BitVec 16) (oh : Bool) (n : Nat) : pcsLockGained (.carrier phys oh) n d =
    (d.showLock (n % 64) (d.fget F.CAR_STATUS_PHY_ALIGNED (n % 64) ||| phys.toNat)
      (oh || d.fon F.CAR_STATUS_OH_LOCK (n % 64))).holdCounts (n % 64) := rfl

/-! The loss of lock of a port (R89) -/

/-- A port whose PCS has lost lock, or whose FEC has met an uncorrectable codeword. -/
def Dev.pcsFails (d : Dev) (p : Nat) (fec : Bool) : Dev :=
  (if fec then d.cnt F.PRT_FEC_UNCORR_COUNT p else d.fset F.PRT_STATUS_FEC_LOCK p 0).updPt p (fun x =>
    { x with lockAt := if fec then x.lockAt.map (fun _ =>
        (if fec then d.cnt F.PRT_FEC_UNCORR_COUNT p else d.fset F.PRT_STATUS_FEC_LOCK p 0).cycle) else none })

theorem portDown_eq {d : Dev} {p : Nat} (heth : d.isEth p = true) (fec cut : Bool) :
    portDown p fec cut d = (d.pcsFails p fec).portDownNow p cut := by
  unfold portDown
  rw [if_neg (by simp [heth])]
  rfl

section
variable (d : Dev) {p : Nat} (hp : p < 2 ^ 20) (fec : Bool)
include hp

theorem pcsFails_fget {f : Fld} {i : Nat} (hf : f ∈ standFlds) (hne : f ≠ F.PRT_STATUS_FEC_LOCK) (hi : i < 2 ^ 20) :
    (d.pcsFails p fec).fget f i = d.fget f i := by
  cases fec
  · exact ((Dev.StandsBut.of_core (P := fun f i => f = F.PRT_STATUS_FEC_LOCK) (rfl : d.core = d.core)).fset (by decide) hp rfl 0).fget
      hf hi hne
  · exact Dev.core_fget (cnt_core d F.PRT_FEC_UNCORR_COUNT p 1 (by decide) hp) hf hi

theorem pcsFails_team : ∀ f ∈ teamFlds, ∀ i < 2 ^ 20, (d.pcsFails p fec).fget f i = d.fget f i := fun f hf _ hi =>
  pcsFails_fget d hp fec (team_stand f hf) (by revert f; decide) hi

end

/-! The up hold's end -/

theorem portUp_eq {d : Dev} {p l : Nat} (heth : d.isEth p = true) (hlink : d.link p = false) (hlock : (d.pt p).lockAt = some l)
    (henable : d.fon F.PRT_MAC_CFG_ENABLE p = true) (hforwards : d.forwards (p / 32) = true) :
    portUp p d = (d.toCycle (max l (d.pt p).enAt + cyclesOfNs (d.fget F.PRT_LINK_UP_HOLD_MS p * 1000000))).portRises p := by
  unfold portUp
  simp only [hlock, heth, hlink, henable, hforwards, Bool.not_true, Bool.or_self, Bool.false_eq_true, if_false]

theorem carrierUp_eq {d : Dev} {c l : Nat} (hlock : (d.car c).lockAt = some l) (hup : d.fon F.CAR_STATUS_UP c = false)
    (henable : d.fon F.CAR_CFG_ENABLE c = true) (hforwards : d.forwards (d.fget F.CAR_CFG_SLICE c) = true) :
    carrierUp c d = (((d.toCycle (max l (d.car c).enAt + cyclesOfNs (d.fget F.CAR_LINK_UP_HOLD_MS c * 1000000))).fset
      F.CAR_STATUS_UP c 1).swAfterUp c).clientsFollow c := by
  unfold carrierUp
  simp only [hlock, hup, henable, hforwards, Bool.not_true, Bool.or_self, Bool.false_eq_true, if_false]

/-- A switch that qualifies anew moves no register and no clock. -/
theorem swAfterUp_shows (d : Dev) (c : Nat) : (d.swAfterUp c).regs = d.regs ∧ (d.swAfterUp c).cycle = d.cycle := by
  unfold Dev.swAfterUp
  (repeat' split) <;> exact ⟨rfl, rfl⟩

/-! The commands -/

section
variable {s : State} (hrun : s.dev.running = true)

section
variable (p : Fin 512)
include hrun

theorem pcsLockGained_port_gives (h : (s.dev.pt p).lockAt = none) : Gives (.pcsLockGained .port p) s fun u => u.mem = s.mem ∧
    u.dev.fget F.PRT_STATUS_FEC_LOCK p = 1 ∧ (u.dev.pt p).lockAt = some s.dev.cycle ∧ s.dev.regsBut u.dev [(R.PRT_STATUS, p)] := by
  refine gives_event rfl hrun (if_neg (by simp [h])) ⟨rfl, Dev.fget_fset _ F.PRT_STATUS_FEC_LOCK _ _ (by decide), ?_, ?_⟩
  · exact congrArg PortSt.lockAt (pt_updPt_same _ _ _)
  · exact regsBut_fset (regsBut_refl _ _) F.PRT_STATUS_FEC_LOCK 1 (by simp) (by omega)

theorem portDown_ignored (heth : s.dev.isEth p = false) (fec cut : Bool) : exec (.portDown p fec cut) s = .next s :=
  event_same _ hrun (if_pos (by rw [heth]; rfl))

section
variable (hteam : s.dev.teamOf p = none) (hown : ∀ k, s.dev.memberOf p = some k → s.dev.teamPort (k / 16) ≠ p)
include hteam hown

theorem portDown_gives (heth : s.dev.isEth p = true) (fec cut : Bool) (hlink : s.dev.link p = true) :
    Gives (.portDown p fec cut) s fun u => u.mem = s.mem ∧ u.dev.link p = false ∧ u.dev.cycle = s.dev.cycle ∧
      (fec = false → u.dev.fget F.PRT_STATUS_FEC_LOCK p = 0 ∧ (u.dev.pt p).lockAt = none) ∧
      (∀ k, s.dev.memberOf p = some k → u.dev.fget F.TEM_MBR_STATUS_RX_STATE k = 4) := by
  have hp : p.val < 2 ^ 20 := by omega
  have hflds := pcsFails_team s.dev hp fec
  have hmem := memberOf_congr hflds p
  have hstands := portDownNow_stands (s.dev.pcsFails p fec) hp cut
  have hcycle : (s.dev.pcsFails p fec).cycle = s.dev.cycle := by
    cases fec
    · rfl
    · exact (Dev.core_cycle (cnt_core s.dev F.PRT_FEC_UNCORR_COUNT p 1 (by decide) hp) :)
  obtain ⟨hdown, hrx⟩ := portDownNow_falls (s.dev.pcsFails p fec) hp (ownPort_congr hflds hown)
    (by rw [Dev.link, Dev.fon, pcsFails_fget s.dev hp fec (by decide) (by decide) hp]; exact hlink)
    ((teamOf_congr hflds p).trans hteam) cut
  refine gives_event rfl hrun (portDown_eq heth fec cut) ⟨rfl, hdown, hstands.cycle.trans hcycle, ?_, fun k hk => hrx k (hmem.trans hk)⟩
  rintro rfl
  refine ⟨(hstands.fget (by decide) hp (linkFlds_other (by decide))).trans ?_, (hstands.lockAt p).trans ?_⟩
  · exact Dev.fget_fset s.dev F.PRT_STATUS_FEC_LOCK p 0 (by decide)
  · exact congrArg PortSt.lockAt (pt_updPt_same _ _ _)

theorem portUp_gives (heth : s.dev.isEth p = true) {l : Nat} (hlink : s.dev.link p = false) (hlock : (s.dev.pt p).lockAt = some l)
    (henable : s.dev.fon F.PRT_MAC_CFG_ENABLE p = true) (hforwards : s.dev.forwards (p / 32) = true) :
    Gives (.portUp p) s fun u => u.mem = s.mem ∧ u.dev.link p = true ∧
      max l (s.dev.pt p).enAt + 3000000 * s.dev.fget F.PRT_LINK_UP_HOLD_MS p ≤ u.dev.cycle := by
  have hp : p.val < 2 ^ 20 := by omega
  have hrise := portUp_eq heth hlink hlock henable hforwards
  have hclock := cycle_le_toCycle_ms s.dev (max l (s.dev.pt p).enAt) (s.dev.fget F.PRT_LINK_UP_HOLD_MS p)
  generalize max l (s.dev.pt p).enAt + cyclesOfNs (s.dev.fget F.PRT_LINK_UP_HOLD_MS p * 1000000) = t at hrise hclock
  have hregs : (s.dev.toCycle t).regs = s.dev.regs := Dev.toCycle_regs _ _
  have hflds : ∀ f ∈ teamFlds, ∀ i < 2 ^ 20, (s.dev.toCycle t).fget f i = s.dev.fget f i := fun f _ i _ => Dev.fget_congr hregs f i
  have hup := portRises_rises (s.dev.toCycle t) hp (ownPort_congr hflds hown) ((Dev.fon_congr hregs _ _).trans hlink)
    ((teamOf_congr hflds p).trans hteam)
  refine gives_event rfl hrun hrise ⟨rfl, hup, ?_⟩
  exact hclock.trans_eq (portRises_stands (s.dev.toCycle t) hp).cycle.symm

end

end

section
variable (c : Fin 64)
include hrun

theorem pcsLockGained_carrier_gives (phys : BitVec 16) (oh : Bool) (n : Fin 512) (hn : n.val % 64 = c.val)
    (hlock : (s.dev.car c).lockAt = none) :
    let al := (s.dev.fget F.CAR_STATUS_PHY_ALIGNED c ||| phys.toNat) % 2 ^ s.dev.fget F.CAR_CFG_PHY_COUNT c
    let locked := oh || s.dev.fon F.CAR_STATUS_OH_LOCK c
    Gives (.pcsLockGained (.carrier phys oh) n) s fun u => u.mem = s.mem ∧ u.dev.fget F.CAR_STATUS_PHY_ALIGNED c = al ∧
      u.dev.fon F.CAR_STATUS_OH_LOCK c = locked ∧ s.dev.regsBut u.dev [(R.CAR_STATUS, c)] ∧
      (u.dev.car c).lockAt = (if locked = true ∧ al = 2 ^ s.dev.fget F.CAR_CFG_PHY_COUNT c - 1 then some s.dev.cycle else none) := by
  intro al locked
  have hc : c.val < 2 ^ 20 := by omega
  have hphys : s.dev.fget F.CAR_STATUS_PHY_ALIGNED c ||| phys.toNat < 2 ^ 16 :=
    Nat.or_lt_two_pow (Dev.fget_lt s.dev F.CAR_STATUS_PHY_ALIGNED c) phys.isLt
  have hregs := holdCounts_regs (s.dev.showLock c (s.dev.fget F.CAR_STATUS_PHY_ALIGNED c ||| phys.toNat) locked) c
  have hgain := pcsLockGained_carrier s.dev phys oh n
  rw [hn] at hgain
  refine gives_event rfl hrun hgain ⟨rfl, ?_, ?_, ?_, ?_⟩
  · exact (Dev.fget_congr hregs _ _).trans (showLock_phys _ _ _ hphys)
  · rw [Dev.fon_congr hregs, Dev.fon, showLock_oh]
    cases locked <;> rfl
  · exact fun off i hi hn => (Dev.rget_congr hregs off i).trans (showLock_regs _ _ _ hc off i hi hn)
  · have hcar := showLock_car s.dev (c := c) (s.dev.fget F.CAR_STATUS_PHY_ALIGNED c ||| phys.toNat) locked c
    have hshown := (congrArg CarSt.lockAt hcar).trans hlock
    exact (holdCounts_lockAt hshown).trans (if_congr (showLock_locked s.dev _ locked hc hphys)
      (congrArg some (showLock_cycle s.dev _ locked)) rfl)

theorem carrierDown_gives (aligned : BitVec 16) (oh : Bool) (cut : Word) :
    let al := aligned.toNat % 2 ^ s.dev.fget F.CAR_CFG_PHY_COUNT c
    Gives (.carrierDown c aligned oh cut) s fun u => u.mem = s.mem ∧
      u.dev.fget F.CAR_STATUS_PHY_ALIGNED c = al ∧ u.dev.fget F.CAR_STATUS_OH_LOCK c = (if oh then 1 else 0) ∧
      (if oh = true ∧ al = 2 ^ s.dev.fget F.CAR_CFG_PHY_COUNT c - 1 then
        (u.dev.car c).lockAt = some s.dev.cycle ∧ u.dev.fget F.CAR_STATUS_UP c = s.dev.fget F.CAR_STATUS_UP c
      else (u.dev.car c).lockAt = none ∧ u.dev.fget F.CAR_STATUS_UP c = 0) := by
  intro al
  have hc : c.val < 2 ^ 20 := by omega
  have hal := showLock_phys s.dev (c := c) aligned.toNat oh aligned.isLt
  have hlocked := showLock_locked s.dev aligned.toNat oh hc aligned.isLt
  have hcycle := showLock_cycle s.dev (c := c) aligned.toNat oh
  have hoh := showLock_oh s.dev (c := c) aligned.toNat oh
  have hup := showLock_up s.dev (c := c) aligned.toNat oh
  by_cases hall : oh = true ∧ al = 2 ^ s.dev.fget F.CAR_CFG_PHY_COUNT c - 1
  · simp only [if_pos hall]
    refine gives_event rfl hrun (if_pos (hlocked.2 hall)) ?_
    generalize s.dev.showLock c aligned.toNat oh = e at *
    have hcar := car_updCar_same e c (fun x => { x with lockAt := some e.cycle })
    exact ⟨rfl, (fget_updCar e c _ _ c).trans hal, (fget_updCar e c _ _ c).trans hoh, (congrArg CarSt.lockAt hcar).trans (congrArg some hcycle),
      (fget_updCar e c _ _ c).trans hup⟩
  · simp only [if_neg hall]
    refine gives_event rfl hrun (if_neg (mt hlocked.1 hall)) ?_
    generalize s.dev.showLock c aligned.toNat oh = e at *
    obtain ⟨hstands, hdown⟩ := carFalls_falls (e.updCar c (fun x => { x with lockAt := none })) hc
      (fall := fun p d => d.portDownNow p (bit cut.toNat (p % 32))) fun p hp d => portDownNow_stands d hp _
    have hkept {f : Fld} (hf : f ∈ standFlds) (hn : f ∉ [F.PRT_STATUS_LINK, F.TEM_MBR_STATUS_RX_STATE, F.CAR_STATUS_UP]) :=
      (hstands.fget hf hc (fallFlds_other hn)).trans (fget_updCar e c _ f c)
    refine ⟨rfl, (hkept (by decide) (by decide)).trans hal, (hkept (by decide) (by decide)).trans hoh, ?_, hdown⟩
    exact (hstands.car c CarSt.lockAt fun _ => rfl).trans (congrArg CarSt.lockAt (car_updCar_same e c (fun x => { x with lockAt := none })))

theorem carrierUp_gives {l : Nat} (hlock : (s.dev.car c).lockAt = some l) (hup : s.dev.fon F.CAR_STATUS_UP c = false)
    (henable : s.dev.fon F.CAR_CFG_ENABLE c = true) (hforwards : s.dev.forwards (s.dev.fget F.CAR_CFG_SLICE c) = true) :
    Gives (.carrierUp c) s fun u => u.mem = s.mem ∧ u.dev.fget F.CAR_STATUS_UP c = 1 ∧
      max l (s.dev.car c).enAt + 3000000 * s.dev.fget F.CAR_LINK_UP_HOLD_MS c ≤ u.dev.cycle := by
  have hc : c.val < 2 ^ 20 := by omega
  have hrise := carrierUp_eq hlock hup henable hforwards
  have hclock := cycle_le_toCycle_ms s.dev (max l (s.dev.car c).enAt) (s.dev.fget F.CAR_LINK_UP_HOLD_MS c)
  generalize max l (s.dev.car c).enAt + cyclesOfNs (s.dev.fget F.CAR_LINK_UP_HOLD_MS c * 1000000) = t at hrise hclock
  obtain ⟨hregs, hcycle⟩ := swAfterUp_shows ((s.dev.toCycle t).fset F.CAR_STATUS_UP c 1) c
  have hstands := clientsFollow_stands (((s.dev.toCycle t).fset F.CAR_STATUS_UP c 1).swAfterUp c) c
  refine gives_event rfl hrun hrise ⟨rfl, ?_, hclock.trans_eq (hstands.cycle.trans hcycle).symm⟩
  refine (hstands.fget (by decide) hc (linkFlds_other (by decide))).trans ((Dev.fget_congr hregs _ _).trans ?_)
  exact Dev.fget_fset _ F.CAR_STATUS_UP c 1 (by decide)

end

end

/-- Settles O20: each command moves its port or carrier as its own lemma says. -/
theorem portsAndCarriersRiseAndFall : Obligations.ports_and_carriers_rise_and_fall := by
  unfold Obligations.ports_and_carriers_rise_and_fall
  intro s p c hrun all
  refine ⟨pcsLockGained_port_gives hrun p, fun phys oh n hn hlock => pcsLockGained_carrier_gives hrun c phys oh n hn hlock,
    portDown_ignored hrun p, fun heth hteam hown => ⟨portDown_gives hrun p hteam hown heth, fun l => portUp_gives hrun p hteam hown heth⟩,
    carrierDown_gives hrun c, fun l => carrierUp_gives hrun c⟩

end Sys2Proof.Machine
end


-- ==== Sys2Proof/Proofs/CalendarAccess.lean ====
section
open Sys2Proof Sys2Proof.Machine
namespace Sys2Proof.Machine

/-! Calendar entries, and what arms, cancels and times a switch (R93, R94, R95). -/

/-! Operations that a register access starts -/

theorem gives_regDev {c : Instr} {s : State} {r : Req} {off i : Nat} {k : Kind} {f : Nat → Dev → Dev} {d : Dev} {p : State → Prop}
    (hc : exec c s = regDev r off k f s) (h : s.reaches r off k i) (hd : f i s.dev = d) (hp : p { s with dev := d }) : Gives c s p := by
  subst hd
  exact ⟨_, hc.trans (regDev_reaches f h), rfl, hp⟩

theorem gives_regAsk {c : Instr} {s : State} {r : Req} {off i : Nat} {k : Kind} {f : Nat → Dev → Word × Dev} {v : Word} {d : Dev}
    {p : State → Prop} (hc : exec c s = regAsk r off k f s) (h : s.reads r off k i) (hd : f i s.dev = (v, d))
    (hp : p { s with dev := d.answer (reqIdx r) v }) : Gives c s p := by
  refine ⟨_, hc.trans (regAsk_reads f h), rfl, ?_⟩
  rw [hd]
  exact hp

/-! Frames -/

theorem onlyRegs_refl (d : Dev) (l : List (Nat × Nat)) : d.onlyRegs d l := ⟨rfl, regsBut_refl d l⟩

theorem onlyRegs_fset {d e : Dev} {l : List (Nat × Nat)} (h : d.onlyRegs e l) (f : Fld) {i : Nat} (v : Nat) (hl : (f.off, i) ∈ l)
    (hi : i < 2 ^ 20) : d.onlyRegs (e.fset f i v) l := ⟨h.1, regsBut_fset h.2 f v hl hi⟩

/-! Calendar entries (R93) -/

section
variable (d : Dev) {c : Nat} (hc : c < 64)

theorem calPlace_lt (hc : c < 64) : d.calPlace c < 2 ^ 20 := by
  have hbank : d.fget F.CAR_CAL_IDX_BANK c < 2 ^ 1 := Dev.fget_lt d F.CAR_CAL_IDX_BANK c
  have hslot : d.fget F.CAR_CAL_IDX_SLOT c < 2 ^ 9 := Dev.fget_lt d F.CAR_CAL_IDX_SLOT c
  unfold Dev.calPlace calKey b2n
  split <;> omega

theorem calAdvance_slot : (d.calAdvance c).fget F.CAR_CAL_IDX_SLOT c = (d.fget F.CAR_CAL_IDX_SLOT c + 1) % 512 :=
  Dev.fget_fset d F.CAR_CAL_IDX_SLOT c _ (by decide)

include hc

/-- A change of another register, as SLOT advances. -/
theorem advanced_slot {e : Dev} {off i : Nat} (h : d.onlyRegs e [(off, i)]) (hoff : off ≠ R.CAR_CAL_IDX) :
    (e.calAdvance c).fget F.CAR_CAL_IDX_SLOT c = (d.fget F.CAR_CAL_IDX_SLOT c + 1) % 512 := by
  have hslot : e.fget F.CAR_CAL_IDX_SLOT c = d.fget F.CAR_CAL_IDX_SLOT c :=
    Dev.fget_of_rget (h.2 _ _ (by omega) (by simp [hoff.symm]))
  rw [calAdvance_slot, hslot]

theorem advanced_only {e : Dev} {off i : Nat} (h : d.onlyRegs e [(off, i)]) :
    d.onlyRegs (e.calAdvance c) [(off, i), (R.CAR_CAL_IDX, c)] :=
  onlyRegs_fset ⟨h.1, fun o j hj hn => h.2 o j hj fun hm => hn (List.mem_cons.2 (.inl (List.mem_singleton.1 hm)))⟩ _ _ (by simp) (by omega)

end

/-- An entry that may be written goes to its place. -/
theorem calEntryWrite_takes {d : Dev} {loader : Bool} {c : Nat} (v : Nat) (hfree : loader = true ∨ d.fon F.CAR_CAL_IDX_RX c = false ∧
    d.fget F.CAR_CAL_IDX_BANK c ≠ d.active c ∧ d.fon F.CAR_CAL_STATUS_ARMED c = false) (hlen : d.fget F.CAR_CAL_IDX_SLOT c < d.calLen c) :
    calEntryWrite loader c v d = (d.fset F.CAR_CAL_ENTRY_ENTRY (d.calPlace c) v).calAdvance c := by
  unfold calEntryWrite
  dsimp only
  rw [if_neg]
  simp only [Bool.or_eq_true, decide_eq_true_eq, not_or, Nat.not_le]
  refine ⟨?_, hlen⟩
  obtain rfl | ⟨hrx, hbank, harmed⟩ := hfree
  · simp
  · simp [hrx, hbank, harmed]

/-- A transmit calendar in use takes no entry: the write is counted. -/
theorem calEntryWrite_refused {d : Dev} {loader : Bool} {c : Nat} (v : Nat) (hl : loader = false) (hrx : d.fon F.CAR_CAL_IDX_RX c = false)
    (huse : d.fget F.CAR_CAL_IDX_BANK c = d.active c ∨ d.fon F.CAR_CAL_STATUS_ARMED c = true) :
    calEntryWrite loader c v d = (d.cnt F.CAR_CAL_REFUSED_COUNT c).calAdvance c := by
  unfold calEntryWrite
  dsimp only
  rw [if_pos]
  simp [hl, hrx, huse]

/-! Arming and disarming (R94) -/

section
variable (d : Dev) {c : Nat} (hc : c < 64)

theorem armSwitch_shows (due : Nat) (inst hs : Option Nat) : (d.armSwitch c due inst hs).fget F.CAR_CAL_STATUS_ARMED c = 1 ∧
    (d.armSwitch c due inst hs).fget F.CAR_CAL_STATUS_CR_SENT c = 1 ∧ ((d.armSwitch c due inst hs).car c).sw.isSome = true := by
  unfold Dev.armSwitch
  refine ⟨?_, Dev.fget_fset _ F.CAR_CAL_STATUS_CR_SENT c 1 (by decide), ?_⟩
  · rw [Dev.fget_fset_beside _ F.CAR_CAL_STATUS_CR_SENT F.CAR_CAL_STATUS_ARMED _ _ rfl (by decide) (by decide),
      Dev.fget_fset _ _ _ _ (by decide)]
    rfl
  · exact congrArg (fun x : CarSt => x.sw.isSome) (car_updCar_same d c (fun x => { x with sw := some ⟨due, inst, hs⟩ }))

theorem disarm_shows : (d.disarm c).fget F.CAR_CAL_STATUS_ARMED c = 0 ∧ ((d.disarm c).car c).sw = none := by
  unfold Dev.disarm
  refine ⟨?_, congrArg CarSt.sw (car_updCar_same d c (fun x => { x with sw := none }))⟩
  rw [Dev.fget_fset_beside _ F.CAR_CAL_STATUS_CR_SENT F.CAR_CAL_STATUS_ARMED _ _ rfl (by decide) (by decide),
    Dev.fget_fset _ _ _ _ (by decide)]
  rfl

variable {d} in
/-- A switch that is armed now: what precedes the arming moves at most LATE. -/
theorem calSwitchArm_arms (hc : c < 64) (h : d.fon F.CAR_CAL_STATUS_ARMED c = false) : ∃ e due inst hs,
    calSwitchArm c d = e.armSwitch c due inst hs ∧ d.regsBut e [(R.CAR_CAL_STATUS, c)] := by
  unfold calSwitchArm
  rw [if_neg (by simp [h])]
  extract_lets e t imm late due hs e'
  have he : d.regsBut e [(R.CAR_CAL_STATUS, c)] := regsBut_refl d _
  refine ⟨e', due, _, hs, rfl, ?_⟩
  unfold e'
  split
  · exact regsBut_fset he F.CAR_CAL_STATUS_LATE 1 (by simp) (by omega)
  · exact he

end

/-! The next boundary (R95) -/

theorem heldOf_holdFor (d : Dev) (q off : Nat) (v : Nat) : (d.holdFor q off v).heldOf q off = some (BitVec.ofNat 32 v) := by
  simp [Dev.heldOf, Dev.holdFor]

theorem heldOf_holdFor_other (d : Dev) {q off off' : Nat} (v : Nat) (h : off' ≠ off) : (d.holdFor q off v).heldOf q off' = d.heldOf q off' := by
  have hkey : regKey off' q ≠ regKey off q := by
    unfold regKey
    omega
  simp [Dev.heldOf, Dev.holdFor, Sparse.get_set, hkey]

/-- A word holds a number's low 32 bits. -/
theorem ofNat_low (x : Nat) : BitVec.ofNat 32 (x % 2 ^ 32) = BitVec.ofNat 32 x := BitVec.eq_of_toNat_eq (by simp)

/-! The commands -/

section
variable {s : State} {r : Req} {c : Fin 64}

theorem calEntryWrite_taken (v : BitVec 6) (hreach : s.reaches r R.CAR_CAL_ENTRY .carrier c) (hfree : r = .loader ∨
      s.dev.fon F.CAR_CAL_IDX_RX c = false ∧ s.dev.fget F.CAR_CAL_IDX_BANK c ≠ s.dev.active c ∧
      s.dev.fon F.CAR_CAL_STATUS_ARMED c = false) (hlen : s.dev.fget F.CAR_CAL_IDX_SLOT c < s.dev.calLen c) :
    Gives (.calEntryWrite r v) s fun u => u.mem = s.mem ∧ u.dev.fget F.CAR_CAL_ENTRY_ENTRY (s.dev.calPlace c) = v.toNat ∧
      u.dev.fget F.CAR_CAL_IDX_SLOT c = (s.dev.fget F.CAR_CAL_IDX_SLOT c + 1) % 512 ∧
      s.dev.onlyRegs u.dev [(R.CAR_CAL_ENTRY, s.dev.calPlace c), (R.CAR_CAL_IDX, c)] := by
  have hplace := calPlace_lt s.dev c.isLt
  have honly := onlyRegs_fset (onlyRegs_refl s.dev [(R.CAR_CAL_ENTRY, s.dev.calPlace c)]) F.CAR_CAL_ENTRY_ENTRY v.toNat (by simp) hplace
  refine gives_regDev rfl hreach (calEntryWrite_takes v.toNat (hfree.imp_left (by simp [·])) hlen)
    ⟨rfl, ?_, advanced_slot s.dev c.isLt honly (by decide), advanced_only s.dev c.isLt honly⟩
  refine (Dev.fget_of_rget (Dev.rget_fset_other _ F.CAR_CAL_IDX_SLOT (by omega) hplace (.inl (by decide)))).trans ?_
  exact (Dev.fget_fset _ _ _ _ (by decide)).trans (Nat.mod_eq_of_lt v.isLt)

theorem calEntryWrite_counted (v : BitVec 6) (hreach : s.reaches r R.CAR_CAL_ENTRY .carrier c) (hr : r ≠ .loader)
    (hrx : s.dev.fon F.CAR_CAL_IDX_RX c = false)
    (huse : s.dev.fget F.CAR_CAL_IDX_BANK c = s.dev.active c ∨ s.dev.fon F.CAR_CAL_STATUS_ARMED c = true)
    (hcount : s.dev.canCount F.CAR_CAL_REFUSED_COUNT c) :
    Gives (.calEntryWrite r v) s fun u => u.mem = s.mem ∧
      u.dev.fget F.CAR_CAL_REFUSED_COUNT c = s.dev.fget F.CAR_CAL_REFUSED_COUNT c + 1 ∧
      u.dev.fget F.CAR_CAL_IDX_SLOT c = (s.dev.fget F.CAR_CAL_IDX_SLOT c + 1) % 512 ∧
      s.dev.onlyRegs u.dev [(R.CAR_CAL_REFUSED, c), (R.CAR_CAL_IDX, c)] := by
  obtain ⟨hval, honly⟩ := cnt_counted (by omega) (by decide) hcount
  refine gives_regDev rfl hreach (calEntryWrite_refused v.toNat (beq_eq_false_iff_ne.2 hr) hrx huse)
    ⟨rfl, ?_, advanced_slot s.dev c.isLt honly (by decide), advanced_only s.dev c.isLt honly⟩
  exact (Dev.fget_of_rget (Dev.rget_fset_other _ F.CAR_CAL_IDX_SLOT (by omega) (by omega) (.inl (by decide)))).trans hval

theorem calEntryRead_gives (hread : s.reads r R.CAR_CAL_ENTRY .carrier c) : Gives (.calEntryRead r) s fun u => u.mem = s.mem ∧
    Sparse.get 0 u.dev.host.rdata (reqIdx r) = s.dev.rget R.CAR_CAL_ENTRY (s.dev.calPlace c) ∧
    u.dev.fget F.CAR_CAL_IDX_SLOT c = (s.dev.fget F.CAR_CAL_IDX_SLOT c + 1) % 512 ∧ s.dev.regsBut u.dev [(R.CAR_CAL_IDX, c)] :=
  gives_regAsk rfl hread rfl ⟨rfl, answered _ _ _, calAdvance_slot s.dev,
    regsBut_fset (regsBut_refl s.dev _) F.CAR_CAL_IDX_SLOT _ (by simp) (by omega)⟩

theorem calSwitchArm_gives (hreach : s.reaches r R.CAR_CAL_CTRL .carrier c) (h : s.dev.fon F.CAR_CAL_STATUS_ARMED c = false) :
    Gives (.calSwitchArm r) s fun u => u.mem = s.mem ∧ u.dev.fget F.CAR_CAL_STATUS_ARMED c = 1 ∧
      u.dev.fget F.CAR_CAL_STATUS_CR_SENT c = 1 ∧ (u.dev.car c).sw.isSome = true ∧ s.dev.regsBut u.dev [(R.CAR_CAL_STATUS, c)] := by
  obtain ⟨e, due, inst, hs, harm, he⟩ := calSwitchArm_arms c.isLt h
  obtain ⟨harmed, hcr, hsw⟩ := armSwitch_shows e (c := c) due inst hs
  refine gives_regDev rfl hreach harm ⟨rfl, harmed, hcr, hsw, ?_⟩
  have hset : s.dev.regsBut (e.updCar c (fun x => { x with sw := some ⟨due, inst, hs⟩ })) [(R.CAR_CAL_STATUS, c.val)] := he
  exact regsBut_fset (regsBut_fset hset F.CAR_CAL_STATUS_ARMED 1 (by simp) (by omega)) F.CAR_CAL_STATUS_CR_SENT 1 (by simp) (by omega)

theorem calSwitchArm_counted (hreach : s.reaches r R.CAR_CAL_CTRL .carrier c) (h : s.dev.fon F.CAR_CAL_STATUS_ARMED c = true)
    (hcount : s.dev.canCount F.CAR_CAL_REFUSED_COUNT c) : Gives (.calSwitchArm r) s fun u => u.mem = s.mem ∧
      u.dev.fget F.CAR_CAL_REFUSED_COUNT c = s.dev.fget F.CAR_CAL_REFUSED_COUNT c + 1 ∧ s.dev.onlyRegs u.dev [(R.CAR_CAL_REFUSED, c)] :=
  gives_regDev rfl hreach (if_pos h) ⟨rfl, cnt_counted (by omega) (by decide) hcount⟩

theorem calSwitchCancel_ignored (hreach : s.reaches r R.CAR_CAL_CTRL .carrier c) (hrc : (s.dev.car c).rc = none)
    (hnow : s.dev.swCycle c = some s.dev.cycle) : exec (.calSwitchCancel r) s = .next s := by
  refine (regDev_reaches calSwitchCancel hreach).trans ?_
  rw [show calSwitchCancel c s.dev = s.dev from (if_neg (by simp [hrc])).trans (if_pos hnow)]

theorem calSwitchCancel_gives (hreach : s.reaches r R.CAR_CAL_CTRL .carrier c) (hrc : (s.dev.car c).rc = none)
    (hnow : s.dev.swCycle c ≠ some s.dev.cycle) (hsw : (s.dev.car c).sw.isSome = true) : Gives (.calSwitchCancel r) s fun u =>
      u.mem = s.mem ∧ u.dev.fget F.CAR_CAL_STATUS_ARMED c = 0 ∧ (u.dev.car c).sw = none ∧
      s.dev.regsBut u.dev [(R.CAR_CAL_STATUS, c)] := by
  have hcancel : calSwitchCancel c s.dev = s.dev.disarm c := (if_neg (by simp [hrc])).trans ((if_neg hnow).trans (if_pos hsw))
  obtain ⟨harmed, hnone⟩ := disarm_shows s.dev (c := c)
  refine gives_regDev rfl hreach hcancel ⟨rfl, harmed, hnone, ?_⟩
  have hset : s.dev.regsBut (s.dev.updCar c (fun x => { x with sw := none })) [(R.CAR_CAL_STATUS, c.val)] := regsBut_refl s.dev _
  exact regsBut_fset (regsBut_fset hset F.CAR_CAL_STATUS_ARMED 0 (by simp) (by omega)) F.CAR_CAL_STATUS_CR_SENT 0 (by simp) (by omega)

theorem mfNextRead_gives (hread : s.reads r R.CAR_MF_NEXT_NS .carrier c) (t : Nat) (ht : s.dev.mfNext c = some t) :
    Gives (.mfNextRead r) s fun u => u.mem = s.mem ∧ u.dev.regs = s.dev.regs ∧
      Sparse.get 0 u.dev.host.rdata (reqIdx r) = BitVec.ofNat 32 (t / ntuNs % 10 ^ 9) ∧
      u.dev.heldOf (reqIdx r) R.CAR_MF_NEXT_SEC_LO = some (BitVec.ofNat 32 (t / ntuNs / 10 ^ 9)) ∧
      u.dev.heldOf (reqIdx r) R.CAR_MF_NEXT_SEC_HI = some (BitVec.ofNat 32 (t / ntuNs / 10 ^ 9 / 2 ^ 32)) := by
  have hnext : mfNextRead (reqIdx r) c s.dev = (BitVec.ofNat 32 (t / ntuNs % 10 ^ 9),
      (s.dev.holdFor (reqIdx r) R.CAR_MF_NEXT_SEC_LO (t / ntuNs / 10 ^ 9 % 2 ^ 32)).holdFor (reqIdx r) R.CAR_MF_NEXT_SEC_HI
        (t / ntuNs / 10 ^ 9 / 2 ^ 32)) := by
    simp only [mfNextRead, ht, Option.getD_some, Nat.reducePow]
  refine gives_regAsk rfl hread hnext ⟨rfl, rfl, answered _ _ _, ?_, heldOf_holdFor _ _ _ _⟩
  exact (heldOf_holdFor_other _ _ (by decide)).trans ((heldOf_holdFor _ _ _ _).trans (congrArg some (ofNat_low _)))

end

end Sys2Proof.Machine
end


-- ==== Sys2Proof/Proofs/CalendarSwitches.lean ====
section
open Sys2Proof Sys2Proof.Machine
namespace Sys2Proof.Machine

/-! A calendar switch at its boundary or given up, and what the received overhead carries (R94, R96). -/

/-! The switch (R94) -/

theorem showCarRate_core (d : Dev) {c : Nat} (hc : c < 2 ^ 20) : (d.showCarRate c).core = d.core := by
  unfold Dev.showCarRate
  rw [fset_core _ _ _ _ (by decide) hc, fset_core _ _ _ _ (by decide) hc]

/-- A client's rate and its team follow the calendar that has become active. -/
theorem clientSwitch_stands (d : Dev) {c p : Nat} (hp : p < 2 ^ 20) (ramped : Nat → Bool) : d.StandsBut linkFlds
    (let d := if d.link p && d.slots c (d.active c) (p % 32) != 0 then d.applyRate p (ramped p) else d
    match d.memberOf p with
    | some k => (d.fset F.TEM_MBR_STATUS_TX_PHASE k (b2n (d.car c).phase)).teamRates (k / 16) (ramped (d.teamPort (k / 16)))
    | none => d) := by
  extract_lets rated
  have hrated : rated.core = d.core := by
    unfold rated
    split
    · exact applyRate_core d hp _
    · rfl
  split
  · next k hk =>
    have hk := memberOf_lt hk
    have hphase := (Dev.StandsBut.of_core (P := linkFlds) hrated).core (fset_core rated F.TEM_MBR_STATUS_TX_PHASE k
      (b2n (rated.car c).phase) (by decide) (by omega))
    exact hphase.trans ((teamRates_stands _ (by omega) _).mono linkFlds_of_linkOf)
  · exact .of_core hrated

theorem car_showCarRate (d : Dev) (c c' : Nat) : (d.showCarRate c).car c' = d.car c' := by
  rw [Dev.showCarRate, car_fset, car_fset]

theorem active_disarm (d : Dev) (c : Nat) : (d.disarm c).active c = d.active c := by
  unfold Dev.disarm Dev.active
  rw [Dev.fget_fset_beside _ F.CAR_CAL_STATUS_CR_SENT F.CAR_CAL_STATUS_ACTIVE _ _ rfl (by decide) (by decide),
    Dev.fget_fset_beside _ F.CAR_CAL_STATUS_ARMED F.CAR_CAL_STATUS_ACTIVE _ _ rfl (by decide) (by decide)]
  rfl

/-- At its boundary a switch makes the other calendar active and is armed no more. -/
theorem switchNow_shows (d : Dev) {c : Nat} (hc : c < 64) (ramped : Nat → Bool) :
    (d.switchNow c ramped).active c = 1 - d.active c ∧ ((d.switchNow c ramped).car c).sw = none ∧
      (d.switchNow c ramped).fget F.CAR_CAL_STATUS_ARMED c = 0 ∧ (d.switchNow c ramped).cycle = d.cycle := by
  have hc' : c < 2 ^ 20 := by omega
  unfold Dev.switchNow
  extract_lets begun switched shown moved
  have hbegun : begun.core = d.core := forAll_core _ d fun d p _ => begins_core d p
  have hshown := showCarRate_core (switched.updCar c (fun x => { x with phase := !x.phase })) hc'
  obtain ⟨harmed, hsw⟩ := disarm_shows begun (c := c)
  have hmoved : shown.StandsBut linkFlds moved :=
    (Dev.StandsBut.of_core rfl).forAll _ fun d p hp => clientSwitch_stands d (client_lt hp) ramped
  have hall : shown.StandsBut linkFlds (if moved.fon F.CAR_STATUS_UP c then moved.clientsFollow c else moved) := by
    split
    · exact hmoved.trans (clientsFollow_stands moved c)
    · exact hmoved
  generalize (if moved.fon F.CAR_STATUS_UP c then moved.clientsFollow c else moved) = last at hall
  have hfield {f : Fld} (hf : f ∈ standFlds) (hn : f ∉ [F.PRT_STATUS_LINK, F.TEM_MBR_STATUS_RX_STATE]) :
      last.fget f c = switched.fget f c := (hall.fget hf hc' (linkFlds_other hn)).trans (Dev.core_fget hshown hf hc')
  refine ⟨?_, ?_, ?_, ?_⟩
  · have hactive : begun.active c = d.active c := Dev.core_fget hbegun (by decide) hc'
    have hbit : d.active c < 2 ^ 1 := Dev.fget_lt d F.CAR_CAL_STATUS_ACTIVE c
    have hkept := hfield (f := F.CAR_CAL_STATUS_ACTIVE) (by decide) (by decide)
    have hset := Dev.fget_fset (begun.disarm c) F.CAR_CAL_STATUS_ACTIVE c (1 - begun.active c) (by decide)
    rw [Dev.active, hkept, hset, hactive]
    exact Nat.mod_eq_of_lt (show 1 - d.active c < 2 ^ 1 by omega)
  · have hphase : (shown.car c).sw = (switched.car c).sw := by
      unfold shown
      rw [car_showCarRate, car_updCar_same]
    have hswitched : switched.car c = (begun.disarm c).car c := car_fset _ _ _ _ _
    rw [hall.car c CarSt.sw fun _ => rfl, hphase, hswitched, hsw]
  · have hkept := hfield (f := F.CAR_CAL_STATUS_ARMED) (by decide) (by decide)
    have hbeside := Dev.fget_fset_beside (begun.disarm c) F.CAR_CAL_STATUS_ACTIVE F.CAR_CAL_STATUS_ARMED c (1 - begun.active c) rfl
      (by decide) (by decide)
    exact hkept.trans (hbeside.trans harmed)
  · exact hall.cycle.trans ((Dev.core_cycle hshown).trans (Dev.core_cycle hbegun :))

theorem calSwitch_eq {d : Dev} {c : Nat} {sw : SwSt} (hsw : (d.car c).sw = some sw) (hhs : sw.hs = none) (hrc : (d.car c).rc = none)
    (hboot : (d.car c).boot.isSome = true) (hup : d.fon F.CAR_STATUS_UP c = true) :
    calSwitch c d = (d.toCycle (d.mfCycle c (d.swBoundary c sw))).switchNow c (fun _ => false) := by
  have hcycle : d.swCycle c = some (d.mfCycle c (d.swBoundary c sw)) := by
    unfold Dev.swCycle
    simp only [hsw, hhs, hrc, Option.isNone_eq_false_iff.2 hboot, hup]
    rfl
  unfold calSwitch
  rw [hcycle]

/-! The abandoning (R94) -/

theorem Dev.Reported.car {l : List Nat} {d e : Dev} (h : Dev.Reported l d e) (c : Nat) : e.car c = d.car c := by
  have hcars := h.same (·.cars) fun _ _ _ _ => rfl
  rw [Dev.car, Dev.car, hcars]

/-- A handshake that is given up at a cycle. -/
def Dev.swAborts (d : Dev) (c t : Nat) : Dev :=
  (((d.toCycle t).disarm c).fset F.CAR_CAL_STATUS_ABORTED c 1).error F.CAR_CAL_STATUS_ABORTED c

theorem calSwitchAbort_eq {d : Dev} {c h : Nat} {sw : SwSt} (hsw : (d.car c).sw = some sw) (hhs : sw.hs = some h)
    (hca : d.fon F.CAR_CAL_STATUS_CA_RCVD c = false) (hboot : (d.car c).boot.isSome = true) (hup : d.fon F.CAR_STATUS_UP c = true) :
    calSwitchAbort c d = d.swAborts c (d.mfCycle c (d.swFirst c sw + h)) := by
  obtain ⟨due, inst, hs⟩ := sw
  obtain rfl : hs = some h := hhs
  unfold calSwitchAbort
  simp only [hsw, hca, Option.isNone_eq_false_iff.2 hboot, hup]
  rfl

theorem swAborts_shows (d : Dev) {c : Nat} (hc : c < 64) (t : Nat) : (d.swAborts c t).active c = d.active c ∧
    ((d.swAborts c t).car c).sw = none ∧ (d.swAborts c t).fget F.CAR_CAL_STATUS_ABORTED c = 1 ∧ t ≤ (d.swAborts c t).cycle := by
  have hc' : c < 2 ^ 20 := by omega
  have herr := (Dev.Reported.refl eventRegs (((d.toCycle t).disarm c).fset F.CAR_CAL_STATUS_ABORTED c 1)).error (List.Subset.refl _)
    F.CAR_CAL_STATUS_ABORTED c
  refine ⟨?_, ?_, ?_, (le_cycle_toCycle d t).trans_eq herr.cycle.symm⟩
  · refine (herr.fget F.CAR_CAL_STATUS_ACTIVE (by decide) hc').trans ?_
    refine (Dev.fget_fset_beside _ F.CAR_CAL_STATUS_ABORTED F.CAR_CAL_STATUS_ACTIVE _ _ rfl (by decide) (by decide)).trans ?_
    exact (active_disarm (d.toCycle t) c).trans (Dev.fget_congr (Dev.toCycle_regs d t) _ _)
  · rw [Dev.swAborts, herr.car, car_fset, (disarm_shows (d.toCycle t)).2]
  · exact (herr.fget F.CAR_CAL_STATUS_ABORTED (by decide) hc').trans (Dev.fget_fset _ _ _ _ (by decide))

/-! The received calendar (R96) -/

/-- Whether received client numbers and the selected receive calendar disagree on a slot. -/
def Dev.rxDiffers (d : Dev) (c : Nat) (nums : List Nat) : Bool :=
  (List.range (min nums.length (d.calLen c))).any (fun k => nums.getD k 0 != d.rxCal c k)

/-- The received client numbers are compared with the selected receive calendar. -/
def Dev.rxCompared (d : Dev) (c : Nat) (nums : List Nat) : Dev :=
  let e := d.updCar c (fun x => { x with bad := d.rxBad c nums })
  if !d.rxDiffers c nums then e else (e.fset F.CAR_CAL_STATUS_CAL_MISMATCH c 1).error F.CAR_CAL_STATUS_CAL_MISMATCH c

/-- What the selected receive calendar does to a change of it that is under way. -/
def Dev.rxSelected (e : Dev) (c : Nat) (sel : Bool) : Dev :=
  match (e.car c).rx with
  | some (old, _) => if b2n old = b2n sel then e else (e.fset F.CAR_RC_STATUS_RX_DONE c 1).updCar c (fun x => { x with rx := none })
  | none => e

theorem rxCalendarChange_eq (d : Dev) (c : Nat) (sel : Bool) (nums : List Nat) :
    rxCalendarChange c sel nums d = ((d.fset F.CAR_CAL_STATUS_RX_CCC c (b2n sel)).rxCompared c nums).rxSelected c sel := rfl

/-- A change of the receive calendar under way is done once the received overhead selects the other one. -/
theorem rxSelected_shows (e : Dev) {c : Nat} (hc : c < 64) (sel : Bool) :
    (∀ g : Fld, g.off = R.CAR_CAL_STATUS → (e.rxSelected c sel).fget g c = e.fget g c) ∧
    ((e.rxSelected c sel).car c).bad = (e.car c).bad ∧
    (∀ old t, (e.car c).rx = some (old, t) → old ≠ sel →
      (e.rxSelected c sel).fget F.CAR_RC_STATUS_RX_DONE c = 1 ∧ ((e.rxSelected c sel).car c).rx = none) := by
  unfold Dev.rxSelected
  split
  · next old t hsome =>
    split
    · next hsame =>
      refine ⟨fun _ _ => rfl, rfl, fun old' t' heq hne => absurd ?_ hne⟩
      obtain ⟨rfl, rfl⟩ : old = old' ∧ t = t' := by simpa [hsome] using heq
      revert hsame
      cases old <;> cases sel <;> decide
    · have hcar := car_updCar_same (e.fset F.CAR_RC_STATUS_RX_DONE c 1) c (fun x => { x with rx := none })
      refine ⟨fun g hg => ?_, (congrArg CarSt.bad hcar).trans rfl, fun _ _ _ _ => ⟨?_, congrArg CarSt.rx hcar⟩⟩
      · exact Dev.fget_of_rget (Dev.rget_fset_other e F.CAR_RC_STATUS_RX_DONE (by omega) (by omega) (.inl (hg ▸ by decide)))
      · exact Dev.fget_fset e F.CAR_RC_STATUS_RX_DONE c 1 (by decide)
  · next hnone => exact ⟨fun _ _ => rfl, rfl, fun old t heq => by simp [hnone] at heq⟩

theorem rxCompared_shows (d : Dev) {c : Nat} (hc : c < 64) (nums : List Nat) :
    (d.rxCompared c nums).fget F.CAR_CAL_STATUS_RX_CCC c = d.fget F.CAR_CAL_STATUS_RX_CCC c ∧
    (d.rxDiffers c nums = true → (d.rxCompared c nums).fget F.CAR_CAL_STATUS_CAL_MISMATCH c = 1) ∧
    (d.rxCompared c nums).car c = { d.car c with bad := d.rxBad c nums } := by
  have hc' : c < 2 ^ 20 := by omega
  have hcar := car_updCar_same d c (fun x => { x with bad := d.rxBad c nums })
  unfold Dev.rxCompared
  extract_lets e
  split
  · next h => exact ⟨rfl, fun hd => absurd h (by simp [hd]), hcar⟩
  · have herr := (Dev.Reported.refl eventRegs (e.fset F.CAR_CAL_STATUS_CAL_MISMATCH c 1)).error (List.Subset.refl _)
      F.CAR_CAL_STATUS_CAL_MISMATCH c
    refine ⟨(herr.fget F.CAR_CAL_STATUS_RX_CCC (by decide) hc').trans ?_, fun _ => ?_, ?_⟩
    · exact Dev.fget_fset_beside e F.CAR_CAL_STATUS_CAL_MISMATCH _ _ _ rfl (by decide) (by decide)
    · exact (herr.fget F.CAR_CAL_STATUS_CAL_MISMATCH (by decide) hc').trans (Dev.fget_fset _ _ _ _ (by decide))
    · exact (herr.car c).trans hcar

/-! The commands -/

section
variable {s : State} (hrun : s.dev.running = true) (c : Fin 64)
include hrun

theorem calSwitch_gives (sw : SwSt) (hsw : (s.dev.car c).sw = some sw) (hhs : sw.hs = none) (hrc : (s.dev.car c).rc = none)
    (hboot : (s.dev.car c).boot.isSome = true) (hup : s.dev.fon F.CAR_STATUS_UP c = true) :
    Gives (.calSwitch c) s fun u => u.mem = s.mem ∧ u.dev.active c = 1 - s.dev.active c ∧ (u.dev.car c).sw = none ∧
      u.dev.fget F.CAR_CAL_STATUS_ARMED c = 0 ∧ s.dev.mfCycle c (s.dev.swBoundary c sw) ≤ u.dev.cycle := by
  have hswitch := calSwitch_eq hsw hhs hrc hboot hup
  generalize s.dev.mfCycle c (s.dev.swBoundary c sw) = t at hswitch ⊢
  obtain ⟨hactive, hnone, harmed, hcycle⟩ := switchNow_shows (s.dev.toCycle t) c.isLt fun _ => false
  refine gives_event rfl hrun hswitch ⟨rfl, hactive.trans (congrArg (1 - ·) ?_), hnone, harmed, ?_⟩
  · exact Dev.fget_congr (Dev.toCycle_regs s.dev t) _ _
  · exact (le_cycle_toCycle s.dev t).trans_eq hcycle.symm

theorem calSwitchAbort_gives (sw : SwSt) (h : Nat) (hsw : (s.dev.car c).sw = some sw) (hhs : sw.hs = some h)
    (hca : s.dev.fon F.CAR_CAL_STATUS_CA_RCVD c = false) (hboot : (s.dev.car c).boot.isSome = true)
    (hup : s.dev.fon F.CAR_STATUS_UP c = true) : Gives (.calSwitchAbort c) s fun u => u.mem = s.mem ∧
      u.dev.active c = s.dev.active c ∧ (u.dev.car c).sw = none ∧ u.dev.fget F.CAR_CAL_STATUS_ABORTED c = 1 ∧
      s.dev.mfCycle c (s.dev.swFirst c sw + h) ≤ u.dev.cycle :=
  gives_event rfl hrun (calSwitchAbort_eq hsw hhs hca hboot hup) ⟨rfl, swAborts_shows s.dev c.isLt _⟩

theorem caReceived_gives (on : Bool) : Gives (.caReceived c on) s fun u => u.mem = s.mem ∧
    u.dev.fget F.CAR_CAL_STATUS_CA_RCVD c = (if on then 1 else 0) ∧ s.dev.onlyRegs u.dev [(R.CAR_CAL_STATUS, c)] := by
  refine gives_event rfl hrun rfl ⟨rfl, (Dev.fget_fset _ F.CAR_CAL_STATUS_CA_RCVD _ _ (by decide)).trans ?_,
    onlyRegs_fset (onlyRegs_refl _ _) F.CAR_CAL_STATUS_CA_RCVD _ (by simp) (by omega)⟩
  cases on <;> rfl

theorem rxCalendarChange_gives (ccc : Bool) (nums : List (BitVec 6)) :
    let z := s.dev.fset F.CAR_CAL_STATUS_RX_CCC c (if ccc then 1 else 0)
    let got := nums.map (fun n => n.toNat)
    Gives (.rxCalendarChange c ccc nums) s fun u => u.mem = s.mem ∧ u.dev.fget F.CAR_CAL_STATUS_RX_CCC c = (if ccc then 1 else 0) ∧
      (∀ k, k < min nums.length (z.calLen c) → got.getD k 0 ≠ z.rxCal c k →
        u.dev.fget F.CAR_CAL_STATUS_CAL_MISMATCH c = 1) ∧ (u.dev.car c).bad = z.rxBad c got ∧
      (∀ old t, (s.dev.car c).rx = some (old, t) → old ≠ ccc → u.dev.fget F.CAR_RC_STATUS_RX_DONE c = 1 ∧ (u.dev.car c).rx = none) := by
  intro z got
  obtain ⟨hccc, hmis, hcar⟩ := rxCompared_shows z c.isLt got
  obtain ⟨hbeside, hsame, hdone⟩ := rxSelected_shows (z.rxCompared c got) c.isLt ccc
  have hrx : ((z.rxCompared c got).car c).rx = (s.dev.car c).rx := (congrArg CarSt.rx hcar).trans rfl
  refine gives_event rfl hrun (rxCalendarChange_eq _ _ _ _) ⟨rfl, ?_, fun k hk hne => ?_, hsame.trans (congrArg CarSt.bad hcar),
    fun old t h => hdone old t (hrx.trans h)⟩
  · refine (hbeside _ rfl).trans (hccc.trans ((Dev.fget_fset _ _ _ _ (by decide)).trans ?_))
    cases ccc <;> rfl
  · exact (hbeside _ rfl).trans (hmis (List.any_eq_true.2 ⟨k, List.mem_range.2 (by rwa [List.length_map]), by simpa using hne⟩))

end

/-- Settles O21: each command has its own lemma above. -/
theorem calendarsAreLoadedAndSwitched : Obligations.calendars_are_loaded_and_switched := by
  unfold Obligations.calendars_are_loaded_and_switched
  intro s r c q armed slot place refused
  refine ⟨fun v hreach => ⟨calEntryWrite_taken v hreach, calEntryWrite_counted v hreach⟩, calEntryRead_gives,
    fun hreach => ⟨calSwitchArm_gives hreach, calSwitchArm_counted hreach, calSwitchCancel_ignored hreach, calSwitchCancel_gives hreach⟩,
    mfNextRead_gives, fun hrun => ⟨calSwitch_gives hrun c, calSwitchAbort_gives hrun c, caReceived_gives hrun c,
      rxCalendarChange_gives hrun c⟩⟩

end Sys2Proof.Machine
end


-- ==== Sys2Proof/Proofs/HoldMoves.lean ====
section
open Sys2Proof Sys2Proof.Machine
namespace Sys2Proof.Machine

/-! Carriers and Ethernet ports that are held and let go (R99, R100): the hold of one key changes, and nothing else that stands. -/

section
variable (d : Dev)

/-! What follows a hold -/

theorem showHeld_core {k : Nat} (hk : k < 2 ^ 20) : (d.showHeld k).core = d.core := by
  unfold Dev.showHeld
  dsimp only
  split
  · exact fset_core d _ _ _ (by decide) hk
  · refine (forAll_core _ _ fun d p hp => ?_).trans (fset_core d _ _ _ (by decide) (by omega))
    split
    · next m hm =>
      have hm := memberOf_lt hm
      rw [fset_core _ _ _ _ (by decide) (teamPort_lt _ _), fset_core _ _ _ _ (by decide) (by omega)]
      exact fset_core d _ _ _ (by decide) (client_lt hp)
    · exact fset_core d _ _ _ (by decide) (client_lt hp)

@[simp] theorem settleMbrs_core (k : Nat) : (d.settleMbrs k).core = d.core := by
  unfold Dev.settleMbrs
  split
  · rfl
  · refine forAll_core _ d fun d p _ => ?_
    split
    · exact updMbr_core d _ _
    · rfl

@[simp] theorem stopHeads_core (p : Nat) : (d.stopHeads p).core = d.core := by
  have hclear (p : Nat) : (d.clearHeads p).core = d.core := by
    refine forAll_core _ d fun d q _ => ?_
    unfold Dev.clearHead
    split
    · rfl
    · exact updLq_core d q _
  unfold Dev.stopHeads
  split
  · split
    · exact hclear _
    · rfl
  · exact hclear p

@[simp] theorem holdEnd_core (p c : Nat) : (d.holdEnd p c).core = d.core := by
  have hteam (d : Dev) (t : Nat) : (d.teamHoldEnd t).core = d.core := by
    unfold Dev.teamHoldEnd
    dsimp only
    split
    · rfl
    · split
      · exact cnt_core_above _ _ _ _ (by decide)
      · rfl
  unfold Dev.holdEnd
  split
  · exact hteam d _
  · split
    · exact cnt_core_above d _ _ _ (by decide)
    · rfl

@[simp] theorem expired_core (x : QPkt) (start : Nat) : (d.expired x start).core = d.core := by
  have hsample (d : Dev) (r : List Byte) : (d.sample r).core = d.core := by
    unfold Dev.sample
    dsimp only
    split
    · exact cnt_core_above d _ _ _ (by decide)
    · rfl
  unfold Dev.expired
  dsimp only
  split <;> simp (disch := decide) [hsample]

@[simp] theorem resumeTx_core (p c : Nat) : (d.resumeTx p c).core = d.core := by
  unfold Dev.resumeTx
  dsimp only
  split
  · rfl
  · rw [freeAll_core, settleMc_core]
    exact (forAll_core _ _ fun d g _ => expired_core d _ _).trans (updPt_core d p _)

end

/-! Followers (R98) -/

/-- A register whose whole word reads the same. -/
theorem rget_of_whole {d e : Dev} {off i : Nat} (h : e.fget ⟨off, 0, 32⟩ i = d.fget ⟨off, 0, 32⟩ i) : e.rget off i = d.rget off i := by
  have hword (d : Dev) : d.fget ⟨off, 0, 32⟩ i = (d.rget off i).toNat := by
    simp only [Dev.fget, bits, Nat.pow_zero, Nat.div_one]
    exact Nat.mod_eq_of_lt (d.rget off i).isLt
  rw [hword, hword] at h
  exact BitVec.eq_of_toNat_eq h

/-- The fields that name the followers of inputs. -/
def followFlds : List Fld := [F.PRT_MODE_KIND, F.PRT_MAC_CFG_HOLD_SEL, F.CAR_HOLD_CFG_SEL]

theorem follow_stand : ∀ f ∈ followFlds, f ∈ standFlds := by decide

theorem followers_congr {d e : Dev} (h : ∀ f ∈ followFlds, ∀ i < 2 ^ 20, e.fget f i = d.fget f i) (n : Nat) :
    e.followers n = d.followers n := by
  unfold Dev.followers Dev.isEth
  refine congrArg₂ (· ++ ·) ?_ ?_
  · refine List.filter_congr fun p hp => ?_
    have hp : p < 2 ^ 20 := (List.mem_range.1 hp).trans (by decide)
    rw [h F.PRT_MODE_KIND (by decide) p hp, h F.PRT_MAC_CFG_HOLD_SEL (by decide) p hp]
  · refine congrArg _ (List.filter_congr fun c hc => ?_)
    rw [h F.CAR_HOLD_CFG_SEL (by decide) c ((List.mem_range.1 hc).trans (by decide))]

theorem follower_lt {d : Dev} {n k : Nat} (h : k ∈ d.followers n) : k < 2 ^ 20 := by
  obtain hp | hc := List.mem_append.1 h
  · have := List.mem_range.1 (List.mem_filter.1 hp).1
    omega
  · obtain ⟨c, hsel, rfl⟩ := List.mem_map.1 hc
    have := List.mem_range.1 (List.mem_filter.1 hsel).1
    omega

/-- An Ethernet port follows the input of its HOLD_SEL. -/
theorem port_follows {d : Dev} {n k : Nat} (h : k ∈ d.followers n) (hk : k < 512) : d.fget F.PRT_MAC_CFG_HOLD_SEL k = n := by
  obtain hp | hc := List.mem_append.1 h
  · have := (List.mem_filter.1 hp).2
    simp only [Bool.and_eq_true, beq_iff_eq] at this
    exact this.2
  · obtain ⟨c, -, rfl⟩ := List.mem_map.1 hc
    omega

/-! Holds of some keys -/

theorem withHeld_self (x : Core) (k : Nat) : x.withHeld k (x.held k) = x :=
  congrArg (fun h => { x with held := h }) (Function.update_eq_self k x.held)

/-- Two devices of which the second holds what stands of the first but the holds of keys that a test names. -/
structure Dev.HeldBut (P : Nat → Prop) (d e : Dev) : Prop where
  rest : { e.core with held := d.core.held } = d.core
  held : ∀ k, ¬ P k → e.heldKey k = d.heldKey k

section
variable {P : Nat → Prop} {d e : Dev}

theorem Dev.HeldBut.of_core (h : e.core = d.core) : d.HeldBut P e := ⟨by rw [h], fun k _ => Dev.core_heldKey h k⟩

theorem Dev.HeldBut.of_withHeld {k : Nat} {v : Option Nat × Option Nat} (h : e.core = d.core.withHeld k v) : d.HeldBut (· = k) e := by
  refine ⟨by rw [h]; rfl, fun j hj => ?_⟩
  have hheld : e.core.held j = d.core.held j := by
    rw [h]
    exact Function.update_of_ne hj v d.core.held
  exact congrArg (fun x : Option Nat × Option Nat => x.1.isSome) hheld

/-- The hold that a key has been given. -/
theorem heldKey_of_withHeld {k : Nat} {v : Option Nat × Option Nat} (h : e.core = d.core.withHeld k v) : e.heldKey k = v.1.isSome := by
  have hheld : e.core.held k = v := by
    rw [h]
    exact Function.update_self k v d.core.held
  exact congrArg (fun x : Option Nat × Option Nat => x.1.isSome) hheld

variable (h : d.HeldBut P e)
include h

theorem Dev.HeldBut.trans {f : Dev} (g : e.HeldBut P f) : d.HeldBut P f := by
  refine ⟨?_, fun k hk => (g.held k hk).trans (h.held k hk)⟩
  have := congrArg (fun x : Core => { x with held := d.core.held }) g.rest
  exact this.trans h.rest

theorem Dev.HeldBut.mono {Q : Nat → Prop} (hQ : ∀ k, P k → Q k) : d.HeldBut Q e := ⟨h.rest, fun k hn => h.held k fun hP => hn (hQ k hP)⟩

theorem Dev.HeldBut.fget {f : Fld} {i : Nat} (hf : f ∈ standFlds) (hi : i < 2 ^ 20) : e.fget f i = d.fget f i := by
  have := congrFun (congrFun (congrArg Core.field h.rest) f) i
  simpa only [Dev.core, if_pos (And.intro hf hi)] using this

theorem Dev.HeldBut.cycle : e.cycle = d.cycle := congrArg Core.cycle h.rest

theorem Dev.HeldBut.holdIns : e.holdIns = d.holdIns := congrArg Core.inputs h.rest

theorem Dev.HeldBut.followers (n : Nat) : e.followers n = d.followers n :=
  followers_congr (fun f hf _ hi => h.fget (follow_stand f hf) hi) n

/-- A register of one field that stands. -/
theorem Dev.HeldBut.rget {off : Nat} (hf : (⟨off, 0, 32⟩ : Fld) ∈ standFlds) : e.rget off = d.rget off :=
  rget_of_whole (h.fget hf (by decide))

end

/-! A key is held, and let go -/

section
variable (d : Dev) {k : Nat} (hk : k < 2 ^ 20)
include hk

theorem holdNow_core : ∃ v : Option Nat × Option Nat, (d.holdNow k).core = d.core.withHeld k v ∧ v.1.isSome = true := by
  unfold Dev.holdNow
  extract_lets h shown
  split
  · next hheld => exact ⟨(h.since, none), setHeld_core d k _, hheld⟩
  · refine ⟨(some d.cycle, none), ?_, rfl⟩
    refine (forAll_core _ _ fun d p _ => stopHeads_core d p).trans ((showHeld_core _ hk).trans ((setHeld_core _ k _).trans ?_))
    rw [settleMbrs_core]

theorem unhold_core : ∃ v : Option Nat × Option Nat, (d.unhold k).core = d.core.withHeld k v ∧ v.1 = none := by
  have hsettled := settleHold_core d hk
  unfold Dev.unhold
  extract_lets settled
  split
  · next hnone =>
    refine ⟨d.core.held k, hsettled.trans (withHeld_self _ k).symm, ?_⟩
    exact (congrArg (fun x : Core => (x.held k).1) hsettled).symm.trans hnone
  · next c _ =>
    refine ⟨(none, none), (forAll_core _ _ fun d p _ => (resumeTx_core _ p c).trans (holdEnd_core d p c)).trans ?_, rfl⟩
    refine (showHeld_core _ hk).trans ((setHeld_core _ k {}).trans (congrArg (Core.withHeld · k (none, none)) ?_))
    rw [settleMbrs_core]
    exact (forAll_core _ _ fun d p _ => begins_core d p).trans hsettled

/-- A key that its input lets go is held after it only where a carrier's interval counts, and was held. -/
theorem letGo_core : ∃ v : Option Nat × Option Nat, (d.letGo k).core = d.core.withHeld k v ∧
    (v.1.isSome = true → d.heldKey k = true ∧ ¬ (k < 512 ∨ d.fget F.CAR_HOLD_CFG_RESUME_NS (k - 512) = 0)) := by
  unfold Dev.letGo
  extract_lets ns
  have hns (h : ns ≠ 0) : ¬ (k < 512 ∨ d.fget F.CAR_HOLD_CFG_RESUME_NS (k - 512) = 0) := by
    unfold ns at h
    split at h <;> omega
  split
  · obtain ⟨v, hcore, hv⟩ := unhold_core d hk
    exact ⟨v, hcore, by simp [hv]⟩
  · next hne =>
    split
    · next hheld => exact ⟨_, setHeld_core d k _, fun _ => ⟨hheld, hns hne⟩⟩
    · next hheld =>
      exact ⟨d.core.held k, (withHeld_self _ k).symm, fun hsome => absurd hsome hheld⟩

theorem holdNow_but : d.HeldBut (· = k) (d.holdNow k) := by
  obtain ⟨v, hcore, -⟩ := holdNow_core d hk
  exact .of_withHeld hcore

theorem heldKey_holdNow : (d.holdNow k).heldKey k = true := by
  obtain ⟨v, hcore, hv⟩ := holdNow_core d hk
  rw [heldKey_of_withHeld hcore, hv]

theorem letGo_but : d.HeldBut (· = k) (d.letGo k) := by
  obtain ⟨v, hcore, -⟩ := letGo_core d hk
  exact .of_withHeld hcore

variable {d} in
theorem heldKey_letGo (h : k < 512 ∨ d.fget F.CAR_HOLD_CFG_RESUME_NS (k - 512) = 0) : (d.letGo k).heldKey k = false := by
  obtain ⟨v, hcore, hv⟩ := letGo_core d hk
  rw [heldKey_of_withHeld hcore]
  exact Bool.eq_false_iff.2 fun hsome => (hv hsome).2 h

variable {d} in
/-- A key that is not held is not held after another one, or itself, is let go. -/
theorem letGo_keeps {j : Nat} (h : d.heldKey j = false) : (d.letGo k).heldKey j = false := by
  by_cases hjk : j = k
  · subst hjk
    obtain ⟨v, hcore, hv⟩ := letGo_core d hk
    rw [heldKey_of_withHeld hcore]
    exact Bool.eq_false_iff.2 fun hsome => Bool.eq_false_iff.1 h (hv hsome).1
  · rw [(letGo_but d hk).held j hjk, h]

end

/-! All followers of an input -/

/-- All keys of a list are held then. -/
theorem holdAll_shows {l : List Nat} (hl : ∀ k ∈ l, k < 2 ^ 20) (d : Dev) : d.HeldBut (· ∈ l) (forAll l (fun d k => d.holdNow k) d) ∧
    ∀ k ∈ l, (forAll l (fun d k => d.holdNow k) d).heldKey k = true := by
  induction l generalizing d with
  | nil => exact ⟨.of_core rfl, by simp⟩
  | cons a l ih =>
    have ha := hl a List.mem_cons_self
    obtain ⟨hbut, hheld⟩ := ih (fun k hk => hl k (List.mem_cons_of_mem a hk)) (d.holdNow a)
    refine ⟨((holdNow_but d ha).mono (by simp +contextual)).trans (hbut.mono (by simp +contextual)), fun k hk => ?_⟩
    by_cases hkl : k ∈ l
    · exact hheld k hkl
    · obtain rfl : k = a := (List.mem_cons.1 hk).resolve_right hkl
      exact (hbut.held k hkl).trans (heldKey_holdNow d ha)

/-- Keys of a list without a resume interval are not held then, nor any that was not. -/
theorem letAllGo_shows {l : List Nat} (hl : ∀ k ∈ l, k < 2 ^ 20) (d : Dev) :
    d.HeldBut (· ∈ l) (forAll l (fun d k => d.letGo k) d) ∧
    (∀ k, d.heldKey k = false → (forAll l (fun d k => d.letGo k) d).heldKey k = false) ∧
    ∀ k ∈ l, k < 512 ∨ d.fget F.CAR_HOLD_CFG_RESUME_NS (k - 512) = 0 → (forAll l (fun d k => d.letGo k) d).heldKey k = false := by
  induction l generalizing d with
  | nil => exact ⟨.of_core rfl, fun _ h => h, by simp⟩
  | cons a l ih =>
    have ha := hl a List.mem_cons_self
    have hstep := letGo_but d ha
    obtain ⟨hbut, hkeep, hgone⟩ := ih (fun k hk => hl k (List.mem_cons_of_mem a hk)) (d.letGo a)
    refine ⟨(hstep.mono (by simp +contextual)).trans (hbut.mono (by simp +contextual)),
      fun k h => hkeep k (letGo_keeps ha h), fun k hk h => ?_⟩
    obtain rfl | hkl := List.mem_cons.1 hk
    · exact hkeep k (heldKey_letGo ha h)
    · refine hgone k hkl (h.imp_right fun hns => (hstep.fget (by decide) ?_).trans hns)
      have := hl k hk
      omega

end Sys2Proof.Machine
end


-- ==== Sys2Proof/Proofs/HoldInputs.lean ====
section
open Sys2Proof Sys2Proof.Machine
namespace Sys2Proof.Machine

/-! HOLD inputs: asserted, released, stuck, chattering and masked (R98 to R101). -/

/-! One bit of a register -/

theorem bit_fset (d : Dev) {off i n : Nat} (hn : n < 32) (v : Nat) : bit ((d.fset ⟨off, n, 1⟩ i v).rget off i).toNat n = (v % 2 == 1) :=
  congrArg (· == 1) (Dev.fget_fset d ⟨off, n, 1⟩ i v (Nat.succ_le_of_lt hn))

/-- An input's bit is shown with an alarm, in a register that alarms leave. -/
theorem bitAlarm_shows (d : Dev) {off n b : Nat} (f : Fld) (hn : n < 32) (hb : b < 32) (hoff : off ∉ alarmRegs) :
    let u := (d.fset ⟨off, n, 1⟩ 0 1).alarm b f
    bit (u.rget off).toNat n = true ∧ bit (u.rget R.ERR_ALARM).toNat b = true ∧ u.holdIns = d.holdIns ∧ u.cycle = d.cycle := by
  have hrep := (Dev.Reported.refl alarmRegs (d.fset ⟨off, n, 1⟩ 0 1)).alarm (List.Subset.refl _) b f
  refine ⟨?_, bit_alarm _ hb f, hrep.same (·.holdIns) fun _ _ _ _ => rfl, hrep.cycle⟩
  rw [hrep.regs off 0 (by decide) hoff]
  exact bit_fset d hn 1

/-! Sampling (R99, R100) -/

section
variable (d : Dev) (n : Nat)

/-- An input that is sampled asserted, before its followers are held. -/
def Dev.asserted : Dev :=
  let e := d.toSample.fset ⟨R.CAR_HOLD_PIN, n, 1⟩ 0 1
  { e with holdIns := upd0 e.holdIns n (fun x =>
    if x.win = e.ntuMs then { x with on := true, since := e.cycle, stuck := false, n := x.n + 1 }
    else { x with on := true, since := e.cycle, stuck := false, win := e.ntuMs, n := 1, chat := false }) }

/-- An input that is sampled released, before its followers are let go. -/
def Dev.released : Dev :=
  let e := d.toSample.fset ⟨R.CAR_HOLD_PIN, n, 1⟩ 0 0
  { e with holdIns := upd0 e.holdIns n (fun x => { x with on := false }) }

theorem toSample_rget (off i : Nat) : d.toSample.rget off i = d.rget off i := Dev.rget_congr (Dev.elapse_regs d _) off i

variable {d n}

theorem holdAssert_eq (hpin : bit (d.rget R.CAR_HOLD_PIN).toNat n = false) : holdAssert n d =
    if (d.asserted n).holds n then forAll ((d.asserted n).followers n) (fun d k => d.holdNow k) (d.asserted n) else d.asserted n := by
  unfold holdAssert
  dsimp only
  rw [toSample_rget, hpin]
  rfl

theorem holdRelease_eq (hpin : bit (d.rget R.CAR_HOLD_PIN).toNat n = true) : holdRelease n d =
    if d.toSample.holds n then forAll ((d.released n).followers n) (fun d k => d.letGo k) (d.released n) else d.released n := by
  unfold holdRelease
  dsimp only
  rw [toSample_rget, hpin]
  rfl

theorem asserted_cycle : (d.asserted n).cycle = d.cycle + d.cycle % 2 := Dev.elapse_cycle d _

theorem released_cycle : (d.released n).cycle = d.cycle + d.cycle % 2 := Dev.elapse_cycle d _

theorem asserted_on : (at0 (d.asserted n).holdIns n).on = true := by
  unfold Dev.asserted
  dsimp only
  rw [at0_upd0_same]
  split <;> rfl

theorem released_on : (at0 (d.released n).holdIns n).on = false := by
  unfold Dev.released
  dsimp only
  rw [at0_upd0_same]

/-- Another register than the one that shows the inputs. -/
theorem sampled_rget {e : Dev} {v : Nat} (he : e.regs = (d.toSample.fset ⟨R.CAR_HOLD_PIN, n, 1⟩ 0 v).regs) {off i : Nat}
    (hoff : off ≠ R.CAR_HOLD_PIN) (hi : i < 2 ^ 20) : e.rget off i = d.rget off i :=
  (Dev.rget_congr he off i).trans ((Dev.rget_fset_other _ _ (Nat.two_pow_pos 20) hi (.inl hoff)).trans (toSample_rget d off i))

theorem sampled_followers {e : Dev} {v : Nat} (he : e.regs = (d.toSample.fset ⟨R.CAR_HOLD_PIN, n, 1⟩ 0 v).regs) :
    e.followers n = d.followers n :=
  followers_congr (fun f hf _ hi => Dev.fget_of_rget (sampled_rget he
    ((by decide : ∀ f ∈ followFlds, f.off ≠ R.CAR_HOLD_PIN) f hf) hi)) n

theorem sampled_pin {e : Dev} {v : Nat} (hn : n < 32) (he : e.regs = (d.toSample.fset ⟨R.CAR_HOLD_PIN, n, 1⟩ 0 v).regs) :
    bit (e.rget R.CAR_HOLD_PIN).toNat n = (v % 2 == 1) := by
  rw [Dev.rget_congr he]
  exact bit_fset _ hn v

end

/-! Stuck and chattering inputs (R101) -/

/-- An input that is shown to be stuck. -/
def Dev.stuckAt (d : Dev) (n : Nat) : Dev :=
  (({ d with holdIns := upd0 d.holdIns n (fun x => { x with stuck := true }) } : Dev).fset ⟨R.CAR_HOLD_STUCK, n, 1⟩ 0 1).alarm 3
    F.CAR_HOLD_STUCK_STUCK

/-- An input that is shown to chatter. -/
def Dev.chatters (d : Dev) (n : Nat) : Dev :=
  (({ d with holdIns := upd0 d.holdIns n (fun x => { x with chat := true }) } : Dev).fset ⟨R.CAR_HOLD_CHATTER, n, 1⟩ 0 1).alarm 4
    F.CAR_HOLD_CHATTER_CHATTER

theorem holdStuck_eq {d : Dev} {n : Nat} (hon : (at0 d.holdIns n).on = true) (hstuck : (at0 d.holdIns n).stuck = false) : holdStuck n d =
    (d.toCycle ((at0 d.holdIns n).since + cyclesOfNs (d.fget F.CAR_HOLD_LIMITS_STUCK_MS * 1000000))).stuckAt n :=
  if_neg (by simp [hon, hstuck])

theorem holdChatter_eq {d : Dev} {n : Nat} (hchat : (at0 d.holdIns n).chat = false)
    (hmax : d.fget F.CAR_HOLD_LIMITS_CHATTER_MAX < (at0 d.holdIns n).n) : holdChatter n d = d.chatters n :=
  if_neg (by simp [hchat, hmax])

theorem stuckAt_shows (d : Dev) {n : Nat} (hn : n < 32) : bit ((d.stuckAt n).rget R.CAR_HOLD_STUCK).toNat n = true ∧
    (at0 (d.stuckAt n).holdIns n).stuck = true ∧ bit ((d.stuckAt n).rget R.ERR_ALARM).toNat 3 = true ∧ (d.stuckAt n).cycle = d.cycle := by
  obtain ⟨hbit, halarm, hins, hcycle⟩ := bitAlarm_shows { d with holdIns := upd0 d.holdIns n (fun x => { x with stuck := true }) }
    F.CAR_HOLD_STUCK_STUCK (off := R.CAR_HOLD_STUCK) hn (by decide : 3 < 32) (by decide)
  exact ⟨hbit, (congrArg (fun l => (at0 l n).stuck) hins).trans (by rw [at0_upd0_same]), halarm, hcycle⟩

theorem chatters_shows (d : Dev) {n : Nat} (hn : n < 32) : bit ((d.chatters n).rget R.CAR_HOLD_CHATTER).toNat n = true ∧
    (at0 (d.chatters n).holdIns n).chat = true ∧ bit ((d.chatters n).rget R.ERR_ALARM).toNat 4 = true := by
  obtain ⟨hbit, halarm, hins, -⟩ := bitAlarm_shows { d with holdIns := upd0 d.holdIns n (fun x => { x with chat := true }) }
    F.CAR_HOLD_CHATTER_CHATTER (off := R.CAR_HOLD_CHATTER) hn (by decide : 4 < 32) (by decide)
  exact ⟨hbit, (congrArg (fun l => (at0 l n).chat) hins).trans (by rw [at0_upd0_same]), halarm⟩

/-! The mask (R101) -/

/-- What a new mask does to the followers of an input. -/
def Dev.maskStep (old v : Word) (d : Dev) (n : Nat) : Dev :=
  if !bit (d.rget R.CAR_HOLD_PIN).toNat n || bit old.toNat n == bit v.toNat n then d
  else if bit v.toNat n then forAll (d.followers n) (fun d k => d.letGo k) d
  else forAll (d.followers n) (fun d k => d.holdNow k) d

theorem holdMaskWrite_eq (v : Word) (d : Dev) :
    holdMaskWrite v d = forAll (List.range 32) (Dev.maskStep (d.rget R.CAR_HOLD_MASK) v) (d.rset R.CAR_HOLD_MASK 0 v).toSample := rfl

/-- The ports that follow an input which is asserted and newly masked are not held. -/
def Dev.maskedFree (old v : Word) (n : Nat) (d : Dev) : Prop :=
  bit (d.rget R.CAR_HOLD_PIN).toNat n = true → bit old.toNat n = false → bit v.toNat n = true →
    ∀ k ∈ d.followers n, k < 512 → d.heldKey k = false

section
variable (old v : Word) (d : Dev) (n : Nat)

theorem maskStep_but : d.HeldBut (· ∈ d.followers n) (d.maskStep old v n) := by
  unfold Dev.maskStep
  split
  · exact .of_core rfl
  · split
    · exact (letAllGo_shows (fun _ => follower_lt) d).1
    · exact (holdAll_shows (fun _ => follower_lt) d).1

theorem maskStep_free : (d.maskStep old v n).maskedFree old v n := by
  have hbut := maskStep_but old v d n
  intro hpin hold hv k hk hport
  rw [hbut.rget (off := R.CAR_HOLD_PIN) (by decide)] at hpin
  rw [hbut.followers] at hk
  unfold Dev.maskStep
  rw [if_neg (by simp [hpin, hold, hv]), if_pos hv]
  exact (letAllGo_shows (fun _ => follower_lt) d).2.2 k hk (.inl hport)

variable {old v d} in
theorem maskStep_keeps_free {m : Nat} (hmn : m ≠ n) (h : d.maskedFree old v m) : (d.maskStep old v n).maskedFree old v m := by
  have hbut := maskStep_but old v d n
  intro hpin hold hv k hk hport
  rw [hbut.rget (off := R.CAR_HOLD_PIN) (by decide)] at hpin
  rw [hbut.followers] at hk
  have hother : k ∉ d.followers n := fun hn => hmn ((port_follows hk hport).symm.trans (port_follows hn hport))
  exact (hbut.held k hother).trans (h hpin hold hv k hk hport)

end

/-- A new mask frees the ports of the inputs that it masks, and moves holds alone. -/
theorem maskSteps_show (old v : Word) (d : Dev) : d.HeldBut (fun _ => True) (forAll (List.range 32) (Dev.maskStep old v) d) ∧
    ∀ n < 32, (forAll (List.range 32) (Dev.maskStep old v) d).maskedFree old v n := by
  constructor
  · exact forAll_related (R := Dev.HeldBut fun _ => True) (fun _ => .of_core rfl) (fun h g => h.trans g)
      (fun d n => (maskStep_but old v d n).mono fun _ _ => trivial) _ d
  · intro n hn
    exact (forAll_each (fun d n _ => maskStep_free old v d n) (fun d m _ n hmn => maskStep_keeps_free m hmn.symm) d).1 n
      (List.mem_range.2 hn)

/-! The commands -/

section
variable {s : State} (n : Fin 32)

section
variable (hrun : s.dev.running = true)
include hrun

theorem holdAssert_gives (hpin : bit (s.dev.rget R.CAR_HOLD_PIN).toNat n = false) : Gives (.holdAssert n) s fun u => u.mem = s.mem ∧
    bit (u.dev.rget R.CAR_HOLD_PIN).toNat n = true ∧ u.dev.cycle = s.dev.cycle + s.dev.cycle % 2 ∧ (at0 u.dev.holdIns n).on = true ∧
    (bit (s.dev.rget R.CAR_HOLD_MASK).toNat n = false → ∀ k ∈ s.dev.followers n, u.dev.heldKey k = true) := by
  refine gives_event rfl hrun (holdAssert_eq hpin) ?_
  have hpin : bit ((s.dev.asserted n).rget R.CAR_HOLD_PIN).toNat n = true := sampled_pin n.isLt rfl
  have hon := asserted_on (d := s.dev) (n := n)
  have hcycle := asserted_cycle (d := s.dev) (n := n)
  have hmask : (s.dev.asserted n).rget R.CAR_HOLD_MASK = s.dev.rget R.CAR_HOLD_MASK := sampled_rget rfl (by decide) (by decide)
  have hfollow : (s.dev.asserted n).followers n = s.dev.followers n := sampled_followers rfl
  generalize s.dev.asserted n = e at *
  have hholds : e.holds n = !bit (s.dev.rget R.CAR_HOLD_MASK).toNat n := by
    rw [Dev.holds, hpin, hmask, Bool.true_and]
  rw [hholds, hfollow]
  split
  · obtain ⟨hbut, hheld⟩ := holdAll_shows (l := s.dev.followers n) (fun _ => follower_lt) e
    generalize forAll (s.dev.followers n) (fun d k => d.holdNow k) e = f at hbut hheld ⊢
    refine ⟨rfl, ?_, hbut.cycle.trans hcycle, ?_, fun _ => hheld⟩
    · exact (congrArg (fun w : Word => bit w.toNat n) (hbut.rget (off := R.CAR_HOLD_PIN) (by decide))).trans hpin
    · exact (congrArg (fun l => (at0 l n).on) hbut.holdIns).trans hon
  · next hmasked => exact ⟨rfl, hpin, hcycle, hon, fun hm => absurd (by simp [hm]) hmasked⟩

theorem holdRelease_gives (hpin : bit (s.dev.rget R.CAR_HOLD_PIN).toNat n = true) : Gives (.holdRelease n) s fun u => u.mem = s.mem ∧
    bit (u.dev.rget R.CAR_HOLD_PIN).toNat n = false ∧ u.dev.cycle = s.dev.cycle + s.dev.cycle % 2 ∧
    (at0 u.dev.holdIns n).on = false ∧ (bit (s.dev.rget R.CAR_HOLD_MASK).toNat n = false →
      ∀ k ∈ s.dev.followers n, k < 512 ∨ s.dev.fget F.CAR_HOLD_CFG_RESUME_NS (k - 512) = 0 → u.dev.heldKey k = false) := by
  have hholds : s.dev.toSample.holds n = !bit (s.dev.rget R.CAR_HOLD_MASK).toNat n := by
    rw [Dev.holds, toSample_rget, toSample_rget, hpin, Bool.true_and]
  refine gives_event rfl hrun (holdRelease_eq hpin) ?_
  have hpin : bit ((s.dev.released n).rget R.CAR_HOLD_PIN).toNat n = false := sampled_pin n.isLt rfl
  have hon := released_on (d := s.dev) (n := n)
  have hcycle := released_cycle (d := s.dev) (n := n)
  have hresume {i : Nat} (hi : i < 2 ^ 20) :
      (s.dev.released n).fget F.CAR_HOLD_CFG_RESUME_NS i = s.dev.fget F.CAR_HOLD_CFG_RESUME_NS i :=
    Dev.fget_of_rget (sampled_rget rfl (by decide) hi)
  have hfollow : (s.dev.released n).followers n = s.dev.followers n := sampled_followers rfl
  generalize s.dev.released n = e at *
  rw [hholds, hfollow]
  split
  · obtain ⟨hbut, -, hgone⟩ := letAllGo_shows (l := s.dev.followers n) (fun _ => follower_lt) e
    generalize forAll (s.dev.followers n) (fun d k => d.letGo k) e = f at hbut hgone ⊢
    refine ⟨rfl, ?_, hbut.cycle.trans hcycle, ?_, fun _ k hk h => hgone k hk (h.imp_right fun hns => ?_)⟩
    · exact (congrArg (fun w : Word => bit w.toNat n) (hbut.rget (off := R.CAR_HOLD_PIN) (by decide))).trans hpin
    · exact (congrArg (fun l => (at0 l n).on) hbut.holdIns).trans hon
    · have := follower_lt hk
      rw [hresume (by omega), hns]
  · next hmasked => exact ⟨rfl, hpin, hcycle, hon, fun hm => absurd (by simp [hm]) hmasked⟩

theorem holdResume_gives (c : Fin 64) (t : Nat) (h : (s.dev.car c).hold.resume = some t) : Gives (.holdResume c) s fun u =>
    u.mem = s.mem ∧ u.dev.heldKey (512 + c.val) = false ∧ t ≤ u.dev.cycle := by
  have heq : holdResume c s.dev = (s.dev.toCycle t).unhold (512 + c) := by
    unfold holdResume
    rw [h]
  obtain ⟨v, hcore, hv⟩ := unhold_core (s.dev.toCycle t) (k := 512 + c) (by omega)
  refine gives_event rfl hrun heq ⟨rfl, ?_, ?_⟩
  · exact (heldKey_of_withHeld hcore).trans (by rw [hv]; rfl)
  · exact (le_cycle_toCycle s.dev t).trans_eq (Dev.HeldBut.of_withHeld hcore).cycle.symm

theorem holdStuck_gives (hon : (at0 s.dev.holdIns n).on = true) (hstuck : (at0 s.dev.holdIns n).stuck = false) :
    Gives (.holdStuck n) s fun u => u.mem = s.mem ∧ bit (u.dev.rget R.CAR_HOLD_STUCK).toNat n = true ∧
      (at0 u.dev.holdIns n).stuck = true ∧ bit (u.dev.rget R.ERR_ALARM).toNat 3 = true ∧
      (at0 s.dev.holdIns n).since + 3000000 * s.dev.fget F.CAR_HOLD_LIMITS_STUCK_MS ≤ u.dev.cycle := by
  have hend := cycle_le_toCycle_ms s.dev (at0 s.dev.holdIns n).since (s.dev.fget F.CAR_HOLD_LIMITS_STUCK_MS)
  refine gives_event rfl hrun (holdStuck_eq hon hstuck) ?_
  generalize s.dev.toCycle ((at0 s.dev.holdIns n).since + cyclesOfNs (s.dev.fget F.CAR_HOLD_LIMITS_STUCK_MS * 1000000)) = e at hend ⊢
  obtain ⟨hbit, hins, halarm, hcycle⟩ := stuckAt_shows e n.isLt
  exact ⟨rfl, hbit, hins, halarm, hend.trans_eq hcycle.symm⟩

theorem holdChatter_gives (hchat : (at0 s.dev.holdIns n).chat = false)
    (hmax : s.dev.fget F.CAR_HOLD_LIMITS_CHATTER_MAX < (at0 s.dev.holdIns n).n) :
    Gives (.holdChatter n) s fun u => u.mem = s.mem ∧ bit (u.dev.rget R.CAR_HOLD_CHATTER).toNat n = true ∧
      (at0 u.dev.holdIns n).chat = true ∧ bit (u.dev.rget R.ERR_ALARM).toNat 4 = true :=
  gives_event rfl hrun (holdChatter_eq hchat hmax) ⟨rfl, chatters_shows s.dev n.isLt⟩

end

theorem holdMaskWrite_gives (r : Req) (mask : Word) (hreach : s.reaches r R.CAR_HOLD_MASK .dev 0) :
    Gives (.holdMaskWrite r mask) s fun u => u.mem = s.mem ∧ u.dev.rget R.CAR_HOLD_MASK = mask ∧
      u.dev.rget R.CAR_HOLD_PIN = s.dev.rget R.CAR_HOLD_PIN ∧
      (bit (s.dev.rget R.CAR_HOLD_PIN).toNat n = true → bit (s.dev.rget R.CAR_HOLD_MASK).toNat n = false → bit mask.toNat n = true →
        ∀ k ∈ s.dev.followers n, k < 512 → u.dev.heldKey k = false) := by
  refine gives_regDev rfl hreach (holdMaskWrite_eq mask s.dev) ?_
  have hmask : (s.dev.rset R.CAR_HOLD_MASK 0 mask).toSample.rget R.CAR_HOLD_MASK = mask := by
    rw [toSample_rget, Dev.rget_rset]
  have hother {off i : Nat} (hoff : off ≠ R.CAR_HOLD_MASK) (hi : i < 2 ^ 20) :
      (s.dev.rset R.CAR_HOLD_MASK 0 mask).toSample.rget off i = s.dev.rget off i := by
    rw [toSample_rget, Dev.rget_rset_other _ _ (Nat.two_pow_pos 20) hi (.inl hoff)]
  generalize (s.dev.rset R.CAR_HOLD_MASK 0 mask).toSample = e at hmask hother ⊢
  obtain ⟨hbut, hfree⟩ := maskSteps_show (s.dev.rget R.CAR_HOLD_MASK) mask e
  have hpin := (hbut.rget (off := R.CAR_HOLD_PIN) (by decide)).trans (hother (by decide) (Nat.two_pow_pos 20))
  have hfollow : e.followers n = s.dev.followers n :=
    followers_congr (fun f hf _ hi => Dev.fget_of_rget (hother ((by decide : ∀ f ∈ followFlds, f.off ≠ R.CAR_HOLD_MASK) f hf) hi)) n
  refine ⟨rfl, (hbut.rget (off := R.CAR_HOLD_MASK) (by decide)).trans hmask, hpin, fun hon hold hnew k hk => ?_⟩
  refine hfree n n.isLt ?_ hold hnew k ?_
  · rwa [hpin]
  · rwa [hbut.followers, hfollow]

end

/-- Settles O22: each command has its own lemma above. -/
theorem holdInputsStopAndRelease : Obligations.hold_inputs_stop_and_release := by
  unfold Obligations.hold_inputs_stop_and_release
  intro s n hrun pin masked
  exact ⟨holdAssert_gives n hrun, holdRelease_gives n hrun, holdResume_gives hrun,
    ⟨holdStuck_gives n hrun, holdChatter_gives n hrun⟩, holdMaskWrite_gives n⟩

end Sys2Proof.Machine
end
